-- ==== Sys2Proof/Word.lean ====
section
/-! DEFINITION. The word types of the block: a byte and the 64-bit, 32-bit and 16-bit words the spec's tables use
(00_scope.md R5, R6, R10). -/

namespace Sys2Proof

/-- A byte, the smallest addressable unit (R6). -/
abbrev Byte := BitVec 8
/-- A 16-bit field. -/
abbrev Half := BitVec 16
/-- A 32-bit word: a vector lane, a sequence-number half. -/
abbrev Word := BitVec 32
/-- A 64-bit word: a register (R10), an operand word (R475). -/
abbrev DWord := BitVec 64

end Sys2Proof
end

