-- ==== Sys2Proof/Syntax.lean ====
section
/-! DEFINITION. The commands of the block: one constructor per row of spec/opcode_table.json, in its order. The row's
operands, and what only the outside can supply (the outcome of a read, a link segment, a pin level), are the
constructor's arguments. A row without operands acts on what the state holds. -/

namespace Sys2Proof

/-- A command of a submission queue: its scope (0 to 7 the halls, 8 management), its queue and its sequence number
(R465, R475). -/
structure CmdRef where
  scope : Nat
  queue : Nat
  seq : Nat
  deriving DecidableEq, Repr

/-- How a read of memory, host memory or a peer failed (R285, R290, R292, R468, R413, R411, R546); `unit` counts the
64-byte units of the read before the first that failed. -/
inductive ReadErr where
  /-- Uncorrectable read of local memory, with the channel of R546 (R285). -/
  | uncorrectable (chan : Nat) (unit : Nat := 0)
  /-- Data lost, with the channel of R546 (R290, R292). -/
  | dataLost (chan : Nat) (unit : Nat := 0)
  /-- Uncorrectable SRAM read, with the slice of the unit (R546). -/
  | sram (slice : Nat) (unit : Nat := 0)
  /-- The host translation was refused or unanswered (R468). -/
  | addressFault
  /-- The check of handoff `n` failed in the unit of a slice (R546). -/
  | handoff (n slice : Nat) (unit : Nat := 0)
  /-- The delivery context of a peer failed (R413). -/
  | delivery
  /-- A peer rejected the access with a completion code (R411). -/
  | rejected (code : Nat)
  deriving DecidableEq, Repr

/-- How far a copying command gets in one step: `units` destination units when it stops short (none: all), and the
failure that stops it, if one does (R486). -/
structure Move where
  units : Option Nat
  err : Option ReadErr
  deriving DecidableEq, Repr

/-- How the loader's reads of a product failed, if they did: of the descriptor, of the operand list (R624). -/
structure LoaderReads where
  desc : Option ReadErr := none
  list : Option ReadErr := none
  deriving DecidableEq, Repr

/-- A block fetch of a multicast group, and how many blocks members have received by then, by item (R170). -/
structure BlockFetch where
  group : Nat
  got : List (Nat × Nat) := []
  deriving DecidableEq, Repr

/-- A failed check of a work item (R546, R547): the failure, the address of the failing unit, and whether a Landing read
or an accumulator check was at fault. -/
structure CheckFail where
  err : ReadErr
  addr : Nat
  landing : Bool
  accumulator : Bool
  deriving DecidableEq, Repr

/-- A request slot's owner at the Undercroft: a tread's load/store unit, a hall's movers, or another block (R279,
R282). -/
inductive Requester where
  | tread (t : Nat)
  | mover (hall : Nat)
  | other
  deriving DecidableEq, Repr

/-- A burst request: the owner, the command it serves, the logical address and length, and the tread-local address a
load/store read delivers to or a write takes from (R279, R254). -/
structure MemReq where
  owner : Requester
  cmd : Option CmdRef
  addr : Nat
  len : Nat
  write : Bool
  landing : Option Nat
  deriving DecidableEq, Repr

/-- What the channel answers to a read burst (R257, R285): link replays, then the first read, the second read and the
other copy each verifying or not. A burst of which nothing is said verifies at once. -/
structure ReadOutcome where
  replays : Nat := 0
  first : Bool := true
  second : Bool := true
  other : Bool := true
  deriving DecidableEq, Repr

/-- What the channels answer to a write (R257, R263, R288): link replays, the old check burst of each block that the write
does not cover (R263) by its number in the request, and each copy reached. -/
structure WriteOutcome where
  replays : Nat
  merge : List (Nat × ReadOutcome)
  primary : Bool
  mirror : Bool
  deriving DecidableEq, Repr

/-- What the training of a channel finds (R257, R258, R260): its rate, 0 for 48 Gb/s, 1 for 40, 2 for 32, any other where it
trains at none; the die count minus 1 that the stack answers, none where it answers nothing. -/
structure Training where
  rate : Nat := 0
  dies : Option Nat := some 15
  deriving DecidableEq, Repr

/-- What the coding standards make of a picture that a decode pipe ends (R438, R439, R447, R451 to R453): whether it
breaks the standard or R438; the references it lacks, each with its picture number where it had one; a picture not
produced that it depends on; whether it is an intra random-access point, the point whose RASL picture it is, a
non-reference picture; AV1 film grain; output size and depth; coded bits; elapsed cycles; the output samples in the
layout of R448. -/
structure DecPic where
  bad : Bool
  missing : List (Option Nat)
  dependsOn : Option Nat
  rap : Bool
  raslOf : Option Nat
  nonRef : Bool
  grain : Bool
  width : Nat
  height : Nat
  depth : Nat
  bits : Nat
  cycles : Nat
  samples : List Byte
  deriving DecidableEq, Repr

/-- The commands. -/
inductive Instr where
  /-- REGISTER_WRITE (R14). A write to a register field that has no row of its own takes effect under its access code. -/
  | registerWrite (fn off size : Nat) (data : DWord)
  /-- MALFORMED_REGISTER_ACCESS (R11). A register access of a wrong size or alignment returns all ones or is
      discarded, and it is counted as malformed. -/
  | malformedRegisterAccess (wr : Bool) (fn off size : Nat)
  /-- RC_REGISTER_READ (R16). A read returns the value of each RC field in the bytes it reads and then clears each
      such field whole. -/
  | rcRegisterRead (fn off size : Nat)
  /-- SUBMISSION_TAIL_DOORBELL (R466). A write to a queue's submission-tail doorbell sets the last tail from which the
      device fetches. -/
  | submissionTailDoorbell (fn scope queue off size : Nat) (data : DWord)
  /-- COMPLETION_HEAD_DOORBELL (R474). A write to a queue's completion-head doorbell frees completion slots and re-
      arms the queue's MSI-X message. -/
  | completionHeadDoorbell (fn scope queue off size : Nat) (data : DWord)
  /-- COMMAND_INTAKE (R478). The device fetches a submission slot, makes the intake checks and journals the command as
      accepted. -/
  | commandIntake (scope queue : Nat) (fetchErr : Option ReadErr) (entryErr : Option ReadErr)
  /-- QUEUE_ENABLE (R472). A write of ENABLE enables a queue and binds it to the writing function, or disables the
      queue when no accepted command is incomplete. -/
  | queueEnable (fn scope queue : Nat) (on : Bool)
  /-- QUEUE_RESTART (R473). RESTART writes the held completion entries and returns a stopped queue to running. -/
  | queueRestart (fn scope queue : Nat) (entryErr : Option ReadErr)
  /-- QUEUE_RESUME (R473). RESUME sets SQ_HEAD to HEAD, rewrites the held final entries and returns a suspended queue
      to running. -/
  | queueResume (fn scope queue head : Nat)
  /-- COMMAND_COMPLETION (R482). A command's completion record is journalled and its final completion entry is
      written. -/
  | commandCompletion (r : CmdRef) (elapsed : Nat) (entryErr : Option ReadErr)
  /-- BAR4_READ (R467). A host read through BAR4 returns verified local-memory data, or all ones when the access is
      dropped. -/
  | bar4Read (x n : Nat) (bad : Bool)
  /-- BAR4_WRITE (R467). A host write through BAR4 lands in local memory, or is discarded and counted. -/
  | bar4Write (x : Nat) (data : List Byte) (bad : Bool)
  /-- PAGE_REQUEST_RESPONSE (R468). A page-request response either lets a host-window request proceed or ends it with
      address-fault. -/
  | pageRequestResponse (id : Nat) (ok : Bool)
  /-- PAGE_REQUEST_TIMEOUT (R468). No page-request response arrives within 100 ms, and the request ends with address-
      fault. -/
  | pageRequestTimeout (id : Nat)
  /-- ATS_INVALIDATION (R468). An ATS invalidation is honoured before its completion is sent. -/
  | atsInvalidation (lo n : Nat)
  /-- HOT_RESET (R490). A hot reset, Link Disable or link down resets the PCIe domain and suspends the queues whose
      rings lie in host memory. -/
  | hotReset
  /-- FLR_VF (R491). A function-level reset of a VF disables its scope's host-ring queues and aborts their incomplete
      commands. -/
  | flrVf (n : Nat)
  /-- FLR_PF (R490). A function-level reset of PF 0 disables SR-IOV, with the effect of an FLR of every VF and of
      scope 8. -/
  | flrPf
  /-- D3HOT_TRANSITION (R490). A move to D3hot and back to D0 resets nothing. -/
  | d3hotTransition (toD3 : Bool)
  /-- CONFIGURATION_REQUEST (R537). A PCIe configuration request is answered with retry status or served, depending on
      the start-up stage. -/
  | configurationRequest (fn off : Nat) (data : Option Word)
  /-- PRODUCT (R146). A matrix product command is dispatched under its descriptor and operand list, and its items are
      issued to the tile counter. -/
  | product (r : CmdRef) (reads : LoaderReads)
  /-- VECTOR_PROGRAM (R139). A vector program command is dispatched, and each item copies and checks the program on
      one tread and runs it. -/
  | vectorProgram (r : CmdRef) (err : Option ReadErr)
  /-- ATTENTION (R237). An attention command is checked and then runs softmax(s)·V over a sequence's alcoves. -/
  | attention (r : CmdRef) (err : Option ReadErr)
  /-- COPY (R476). A copy moves bytes between tiers or peers through the Undercroft movers. -/
  | copy (r : CmdRef) (m : Move)
  /-- FILL (R277). A stream fill copies, and expands when the source is coded, into explicit buffers under a Gallery
      guard. -/
  | fill (r : CmdRef) (m : Move)
  /-- OFFLOAD (R298). An off-load copies a tensor to host memory and seals each 4 KiB page. -/
  | offload (r : CmdRef) (m : Move)
  /-- PREFETCH (R304). A prefetch is checked and starts reading sealed pages of a handle back from host memory. -/
  | prefetch (r : CmdRef) (err : Option ReadErr)
  /-- PREFETCH_PAGE_READ (R305). A host page read returns, its seal is verified, and it is written in ascending page
      order. -/
  | prefetchPageRead (r : CmdRef) (page : Nat) (err : Option ReadErr)
  /-- OFFLOAD_RELEASE (R308). OFFLOAD_RELEASE frees a handle in state 2 or 3 and releases its host charge. -/
  | offloadRelease (r : CmdRef) (err : Option ReadErr)
  /-- CACHE_SETUP (R216). CACHE_SETUP installs a hall's key-value cache and links every alcove into the free list. -/
  | cacheSetup (r : CmdRef) (err : Option ReadErr)
  /-- SEQ_OPEN (R223). SEQ_OPEN opens a sequence with empty page tables. -/
  | seqOpen (r : CmdRef) (err : Option ReadErr)
  /-- SEQ_FORK (R223). SEQ_FORK opens a child sequence that shares the parent's alcoves up to length L. -/
  | seqFork (r : CmdRef) (err : Option ReadErr)
  /-- SEQ_TRIM (R223). SEQ_TRIM shortens every layer of a sequence to L and releases the pages above it. -/
  | seqTrim (r : CmdRef) (err : Option ReadErr)
  /-- SEQ_RELEASE (R223). SEQ_RELEASE releases every page of a sequence and closes it. -/
  | seqRelease (r : CmdRef) (err : Option ReadErr)
  /-- SEQ_APPEND_COPY (R229). SEQ_APPEND_COPY appends N_TOK positions from a source buffer into a sequence's alcoves. -/
  | seqAppendCopy (r : CmdRef) (m : Move)
  /-- EXP_ENCODE (R323). EXP_ENCODE exponent-codes a BF16 image in two mover phases. -/
  | expEncode (r : CmdRef) (m : Move)
  /-- XTAB_LOAD (R326). XTAB_LOAD checks a code table and loads it into a free slot with a new version. -/
  | xtabLoad (r : CmdRef) (err : Option ReadErr)
  /-- XTAB_RETIRE (R327). XTAB_RETIRE makes a loaded code-table slot retiring. -/
  | xtabRetire (r : CmdRef)
  /-- PACK (R337). PACK packs a raw image into low-rank tiles, one work item per tile. -/
  | pack (r : CmdRef) (err : Option ReadErr)
  /-- PACK_ASSEMBLE (R338). Once every PACK item is done, the directory offsets are set and the tiles are copied into
      place. -/
  | packAssemble (r : CmdRef) (m : Move)
  /-- CODED_EXPAND (R339). CODED_EXPAND writes the raw image of a coded tensor to a destination. -/
  | codedExpand (r : CmdRef) (m : Move)
  /-- COLLECTIVE (R361). A collective command is checked and starts a ring reduce-scatter, a thinned reduction or a
      gather. -/
  | collective (r : CmdRef) (err : Option ReadErr)
  /-- OWNER_UPDATE (R367). An owner update applies the optimizer program to a shard into the next bank. -/
  | ownerUpdate (r : CmdRef) (err : Option ReadErr)
  /-- STEP_COMMIT (R372). STEP_COMMIT is checked against the expected epoch and waits for its member to become ready. -/
  | stepCommit (r : CmdRef) (err : Option ReadErr)
  /-- STEP_ABANDON (R376). STEP_ABANDON marks an undecided step abandoned and sends an abandon pass. -/
  | stepAbandon (r : CmdRef)
  /-- EPOCH_SET (R379). EPOCH_SET writes the hall's parameter epoch. -/
  | epochSet (r : CmdRef)
  /-- STEP_MARK (R30). STEP_MARK completes and so marks a step boundary of its hall. -/
  | stepMark (r : CmdRef)
  /-- POOL_LEASE (R415). POOL_LEASE checks the lease's contexts and charges the lease against POOL_MIB. -/
  | poolLease (r : CmdRef) (err : Option ReadErr)
  /-- POOL_RETURN (R415). POOL_RETURN releases a lease's pooled-memory charge. -/
  | poolReturn (r : CmdRef) (err : Option ReadErr)
  /-- FOYER_BATCH (R420). FOYER_BATCH checks a manifest and queues its slots to the Foyer engines. -/
  | foyerBatch (r : CmdRef) (err : Option ReadErr)
  /-- DICT_LOAD (R426). DICT_LOAD checks a dictionary image and copies it into the hall's dictionary area. -/
  | dictLoad (r : CmdRef) (err : Option ReadErr)
  /-- STREAM_OPEN (R445). STREAM_OPEN checks a stream record and opens a Frieze stream context. -/
  | streamOpen (r : CmdRef) (err : Option ReadErr)
  /-- STREAM_CLOSE (R445). STREAM_CLOSE frees a stream context once its dispatched commands have completed. -/
  | streamClose (r : CmdRef)
  /-- STREAM_DATA (R446). STREAM_DATA submits a chunk of a decode context's bitstream for parsing. -/
  | streamData (r : CmdRef) (pics : List Nat) (err : Option ReadErr)
  /-- ENCODE_PICTURE (R455). ENCODE_PICTURE submits a source frame to an encode context. -/
  | encodePicture (r : CmdRef) (err : Option ReadErr)
  /-- FRZ_RELEASE (R448). FRZ_RELEASE sets RELEASE_BELOW so that frame-ring buffers may be reused. -/
  | frzRelease (r : CmdRef)
  /-- ABORT (R488). ABORT is journalled in the target's scope and ends the target unless the target's completion
      record came first. -/
  | abort (r : CmdRef)
  /-- NOP (R476). NOP completes with success once its dependency is met. -/
  | nop (r : CmdRef)
  /-- IMAGE_LOAD (R54). IMAGE_LOAD writes an image to the inactive flash slot and checks it by read-back. -/
  | imageLoad (r : CmdRef) (err : Option ReadErr)
  /-- ATTEST (R583). ATTEST writes a DIK-signed attestation report, and optionally the identity record. -/
  | attest (r : CmdRef) (err : Option ReadErr)
  /-- KEY_ENROLL (R573). KEY_ENROLL writes a key slot, or replaces the transient key. -/
  | keyEnroll (r : CmdRef) (err : Option ReadErr)
  /-- KEY_REVOKE (R574). KEY_REVOKE empties a key slot. -/
  | keyRevoke (r : CmdRef) (err : Option ReadErr)
  /-- DEBUG_UNLOCK (R575). DEBUG_UNLOCK enables the Mezzanine debug module. -/
  | debugUnlock (r : CmdRef) (err : Option ReadErr)
  /-- SECURE_ERASE (R576). SECURE_ERASE destroys the SM4 keys, zeroes all local memory and makes a cold reset. -/
  | secureErase (r : CmdRef) (failed : List Nat) (err : Option ReadErr)
  /-- REPAIR_CLEAR (R577). REPAIR_CLEAR sets the named repair records to cleared. -/
  | repairClear (r : CmdRef) (err : Option ReadErr)
  /-- SELFTEST_READ (R560). SELFTEST_READ writes slice results or repair records to a destination. -/
  | selftestRead (r : CmdRef) (err : Option ReadErr)
  /-- ITEM_TAKE (R162). A tread takes its next work item from the hall's tile counter. -/
  | itemTake (t : Nat) (r : CmdRef)
  /-- GROUP_BLOCK_FETCH (R170). A chunk block of a multicast group is fetched into the group buffer once there is
      room. -/
  | groupBlockFetch (r : CmdRef) (f : BlockFetch)
  /-- MAIN_PASS_END (R111). The main pass of a tile ends, and its accumulator bank goes to the drain. -/
  | mainPassEnd (t rows : Nat) (fail : Option CheckFail)
  /-- ITEM_DRAINED (R160). A work item's last row has been drained and the counter records its completion. -/
  | itemDrained (t : Nat)
  /-- TREAD_ISOLATE (R144). Writing ISOLATE 1 stops a tread from taking further work. -/
  | treadIsolate (t : Nat)
  /-- TREAD_FORCE (R144). Writing FORCE stops an isolating tread at once and abandons its held work. -/
  | treadForce (t rows : Nat)
  /-- TREAD_UNISOLATE (R144). Writing ISOLATE 0 zeroes the tread, loads its tables and lets it take work again. -/
  | treadUnisolate (t : Nat)
  /-- TREAD_ISOLATION_DONE (R144). An isolating tread finishes its held work and takes STATE 3. -/
  | treadIsolationDone (t : Nat)
  /-- VADD (R141). Vector IEEE addition. -/
  | vadd (t : Nat)
  /-- VSUB (R141). Vector IEEE subtraction. -/
  | vsub (t : Nat)
  /-- VMUL (R141). Vector IEEE multiplication. -/
  | vmul (t : Nat)
  /-- VFMA (R141). Vector fused multiply-add. -/
  | vfma (t : Nat)
  /-- VDIV (R141). Vector division. -/
  | vdiv (t : Nat)
  /-- VSQRT (R141). Vector square root. -/
  | vsqrt (t : Nat)
  /-- VREM (R141). Vector IEEE remainder. -/
  | vrem (t : Nat)
  /-- VMINN (R141). Vector minimumNumber. -/
  | vminn (t : Nat)
  /-- VMAXN (R141). Vector maximumNumber. -/
  | vmaxn (t : Nat)
  /-- VMIN (R141). Vector IEEE minimum. -/
  | vmin (t : Nat)
  /-- VMAX (R141). Vector IEEE maximum. -/
  | vmax (t : Nat)
  /-- VRINT (R141). Vector roundToIntegral under RM. -/
  | vrint (t : Nat)
  /-- VSCALB (R141). Vector scaleB by integer lanes. -/
  | vscalb (t : Nat)
  /-- VLOGB (R141). Vector logB. -/
  | vlogb (t : Nat)
  /-- VCMP (R141). Vector comparison into a mask register. -/
  | vcmp (t : Nat)
  /-- VSEL (R141). Vector select by mask. -/
  | vsel (t : Nat)
  /-- VCVT (R141). Vector conversion among binary32, binary64, INT32 and INT64. -/
  | vcvt (t : Nat)
  /-- VCLASS (R141). Vector IEEE class of each lane. -/
  | vclass (t : Nat)
  /-- VTLU (R134). Vector function-table lookup on table 0 or 1. -/
  | vtlu (t : Nat)
  /-- VLD (R142). Vector load from the tread's own Landing, widening exactly. -/
  | vld (t : Nat)
  /-- VST (R142). Vector store to the tread's own Landing, converting under R102. -/
  | vst (t : Nat)
  /-- VRSUM (R141). Vector sum of lanes over the fixed binary tree. -/
  | vrsum (t : Nat)
  /-- VRMAX (R141). Vector maximumNumber over all lanes. -/
  | vrmax (t : Nat)
  /-- VIADD (R141). Vector 32-bit integer add. -/
  | viadd (t : Nat)
  /-- VISUB (R141). Vector 32-bit integer subtract. -/
  | visub (t : Nat)
  /-- VIMUL (R141). Vector 32-bit integer multiply. -/
  | vimul (t : Nat)
  /-- VAND (R141). Vector bitwise AND. -/
  | vand (t : Nat)
  /-- VOR (R141). Vector bitwise OR. -/
  | vor (t : Nat)
  /-- VXOR (R141). Vector bitwise XOR. -/
  | vxor (t : Nat)
  /-- VSHL (R141). Vector shift left. -/
  | vshl (t : Nat)
  /-- VSHR (R141). Vector shift right. -/
  | vshr (t : Nat)
  /-- VBCAST (R141). Broadcast of a scalar register to every lane. -/
  | vbcast (t : Nat)
  /-- SOP (R141). A 64-bit scalar operation selected by IMM. -/
  | sop (t : Nat)
  /-- LOOP (R141). Decrement of a scalar register and branch while it is non-zero. -/
  | loop (t : Nat)
  /-- BR (R141). Branch on a scalar condition. -/
  | br (t : Nat)
  /-- HALT (R141). End of the vector program. -/
  | halt (t : Nat)
  /-- XFM_BEGIN (R57). OP 0x1 begins a structure transaction in the scope. -/
  | xfmBegin (scope : Nat)
  /-- XFM_COMMIT_STEP_BOUNDARY (R64). OP 0x2 validates the candidate structure and makes a step-boundary commit
      pending. -/
  | xfmCommitStepBoundary (scope : Nat)
  /-- XFM_COMMIT_IMMEDIATE (R65). OP 0x3 validates the candidate structure and makes a commit pending whose commit
      point is at the request. -/
  | xfmCommitImmediate (scope : Nat)
  /-- XFM_ROLL_BACK (R76). OP 0x4 discards the staged writes and closes the transaction. -/
  | xfmRollBack (scope : Nat)
  /-- STAGE_DATA_WRITE (R59). An XFM_STAGE_DATA write stages 8 bytes at OFFSET. -/
  | stageDataWrite (scope : Nat) (data : DWord)
  /-- STAGE_BULK_WRITE (R61). An XFM_STAGE_BULK_CTL write starts a bulk staged copy with a CRC check. -/
  | stageBulkWrite (scope : Nat) (data : DWord)
  /-- STAGE_BULK_DONE (R61). A bulk staged copy finishes, and staging is written or left unchanged on a CRC mismatch. -/
  | stageBulkDone (scope : Nat) (err : Option ReadErr)
  /-- XFM_SLOT_CONFIRM (R56). Writing CONFIRM raises the structure anti-rollback floor. -/
  | xfmSlotConfirm
  /-- COMMIT_APPLY (R65). When the drain ends, all staged writes are applied as one change. -/
  | commitApply (scope : Nat)
  /-- DRAIN_TIMEOUT (R71). A drain not finished within XFM_TIMEOUT refuses the commit with commit-timeout. -/
  | drainTimeout (scope : Nat)
  /-- MEMORY_READ (R285). A local-memory read burst is verified, read again, or served from the mirror copy. -/
  | memoryRead (q : MemReq) (os : List (Nat × ReadOutcome))
  /-- MEMORY_WRITE (R270). A local-memory write reaches its copies and is acknowledged. -/
  | memoryWrite (q : MemReq) (o : WriteOutcome)
  /-- MEMORY_REFRESH (R257). A per-bank refresh of a memory device falls due. -/
  | memoryRefresh (chan die bank : Nat)
  /-- CHANNEL_RETIRE (R289). Writing RETIRE begins retirement of a memory channel. -/
  | channelRetire (chan : Nat)
  /-- MEMORY_DEVICE_FAILED (R289). A memory device stops answering, and its channel begins retirement. -/
  | memoryDeviceFailed (chan : Nat)
  /-- REBUILD_BLOCK_COPY (R291). The rebuild copies and verifies one 2 KiB block from the surviving copy. -/
  | rebuildBlockCopy (ok : Bool)
  /-- REGION_ZEROING (R269). The Undercroft zeroes an extent of a newly created region in the background. -/
  | regionZeroing
  /-- LSU_REQUEST_ISSUE (R279). A request leaves the load/store issue queue into a request slot. -/
  | lsuRequestIssue (t : Nat) (req : Option MemReq)
  /-- MOVER_SLOT_GRANT (R282). The movers grant a free slot to a hall in round-robin order. -/
  | moverSlotGrant (hall : Nat) (q : MemReq)
  /-- RING_ROTATION_STEP (R246). Ring attention begins its next step once the previous step and the shard received
      have finished. -/
  | ringRotationStep (r : CmdRef)
  /-- REDUCTION_BLOCK (R353). An incoming reduction block is added to local contributions, with a residue check, and
      forwarded or written. -/
  | reductionBlock (ctx : Nat)
  /-- THINNED_GROUP (R363). An incoming thinned group is summed into the acting owner's reduced gradients. -/
  | thinnedGroup (ctx : Nat)
  /-- PARAMETER_MESSAGE (R380). A gather's parameter-byte message is checked against the epoch and written. -/
  | parameterMessage (ctx : Nat)
  /-- RETAINED_REPLAY (R370). Retained data arrives for a REFETCH owner update. -/
  | retainedReplay (ctx : Nat)
  /-- MIRROR_BYTES (R369). Mirror bytes from the acting owner are written to the second owner's next bank. -/
  | mirrorBytes (ctx : Nat)
  /-- COMMIT_COLLECT_START (R374). The lead position starts the collect pass once its STEP_COMMIT has dispatched and
      it is ready. -/
  | commitCollectStart (r : CmdRef)
  /-- COMMIT_TOKEN (R374). A commit token is merged, journalled or forwarded according to its pass. -/
  | commitToken (ctx : Nat)
  /-- GEN_WAIT_EXPIRY (R347). A held message is refused when GEN_WAIT passes. -/
  | genWaitExpiry (ctx : Nat)
  /-- COMMIT_SLOW_EXPIRY (R378). A STEP_COMMIT pending for COMMIT_SLOW sets SLOW. -/
  | commitSlowExpiry (hall : Nat)
  /-- LANE_ALIGNED (R386). A lane gains alignment and joins the port's spread. -/
  | laneAligned (port lane : Nat)
  /-- LANE_ALIGNMENT_LOST (R386). A lane loses alignment and is dropped from the spread. -/
  | laneAlignmentLost (port lane : Nat)
  /-- PORT_FAILURE (R386). A port with too few aligned lanes, or with replays making no progress, is declared failed. -/
  | portFailure (port : Nat)
  /-- LIGHT_SWITCH_TIMEOUT (R386). Ten ms after a light switch, a port with too few aligned lanes is failed. -/
  | lightSwitchTimeout (port : Nat)
  /-- LINK_FRAME_RECEIVE (R391). A received link frame is checked, accepted in LSEQ order or discarded, and it returns
      credits. -/
  | linkFrameReceive (port : Nat) (frame : List Byte)
  /-- HELLO (R393). A HELLO frame records the port's neighbour device and incarnation. -/
  | hello (port : Nat)
  /-- REPLAY (R391). A REPLAY frame makes the sender send again from the named LSEQ. -/
  | replay (port : Nat)
  /-- QUIESCE (R392). A QUIESCE frame is received before its port is made spare or taken out of use. -/
  | quiesce (port : Nat)
  /-- LINK_REPLAY_TIMEOUT (R391). LACK has not advanced for 2 µs, and the sender sends again from the oldest frame. -/
  | linkReplayTimeout (port : Nat)
  /-- HELLO_TIMER (R392). Each millisecond a HELLO frame is sent on every port that is up. -/
  | helloTimer
  /-- PORT_ROLE_WRITE (R399). A write of ROLE makes a port active or spare, after QUIESCE when a port becomes spare. -/
  | portRoleWrite (port : Nat) (spare : Bool)
  /-- PORT_RETRAIN (R386). Writing RETRAIN retrains a failed port, which comes up spare. -/
  | portRetrain (port : Nat)
  /-- DEVICE_NUMBER_WRITE (R403). A write of ORL_DEVICE.DEVICE sets the device number, or is refused while any context
      is not free. -/
  | deviceNumberWrite (dev : Nat)
  /-- LASER_FAULT (R389). A module's fault input asserts, the module stops being ready and its ports switch light. -/
  | laserFault (m : Nat)
  /-- LASER_PRESENCE_CHANGE (R389). A module is inserted or removed, and the device reads its identity and brings it
      up. -/
  | laserPresenceChange (m : Nat) (present ok : Bool)
  /-- LASER_REENABLE_TIMER (R389). At least 1 s after a module failure, LS_EN is driven high again. -/
  | laserReenableTimer (m : Nat)
  /-- LASER_POLL (R388). Every 10 ms the device reads a module's identity, temperature and optical power. -/
  | laserPoll (m : Nat) (ok : Bool)
  /-- LASER_RELEASE (R389). Writing RELEASE moves a module's ports to their other module and disables the module. -/
  | laserRelease (m : Nat)
  /-- LASER_RESTORE (R389). Writing RESTORE returns a module's primary ports to it. -/
  | laserRestore (m : Nat)
  /-- CONTEXT_READ (R400). OP 1 reads a context entry into DLV_CTX_WIN. -/
  | contextRead
  /-- CONTEXT_OPEN (R402). OP 2 checks a context entry and starts opening the context. -/
  | contextOpen
  /-- CONTEXT_CLOSE (R404). OP 3 starts closing a context. -/
  | contextClose
  /-- CONTEXT_EVICT (R412). OP 4 evicts a context with cause 4. -/
  | contextEvict
  /-- CONTEXT_FREE (R404). OP 5 returns an evicted context to free. -/
  | contextFree
  /-- OPEN_RESEND_TIMER (R402). Every 100 µs an opening context sends an OPEN segment. -/
  | openResendTimer (ctx : Nat)
  /-- DATA_SEGMENT (R410). A data segment is checked and delivered, held, or discarded by its SEQ. -/
  | dataSegment (port : Nat)
  /-- ACK_SEGMENT (R409). An ack advances TX_ACKED and lets commands complete. -/
  | ackSegment (port : Nat)
  /-- OPEN_SEGMENT (R402). An OPEN makes an opening context open and is answered with OPEN_REPLY. -/
  | openSegment (port : Nat)
  /-- OPEN_REPLY_SEGMENT (R402). An OPEN_REPLY makes an opening context open. -/
  | openReplySegment (port : Nat)
  /-- CLOSE_SEGMENT (R404). A CLOSE frees a closing context, or evicts an open one with cause 3. -/
  | closeSegment (port : Nat)
  /-- VOID_SEGMENT (R410). A void segment is delivered without effect. -/
  | voidSegment (port : Nat)
  /-- REJECT_SEGMENT (R411). A reject ends the sending command with the carried code. -/
  | rejectSegment (port : Nat)
  /-- SEGMENT_SEND (R409). A segment is sent once it lies inside the window. -/
  | segmentSend (ctx : Nat)
  /-- RETRANSMIT_TIMEOUT (R412). RTO passes without progress, and every outstanding segment is sent again. -/
  | retransmitTimeout (ctx : Nat)
  /-- EVICTION_TIMEOUT (R412). EVICT passes without progress, and the context is evicted with cause 1. -/
  | evictionTimeout (ctx : Nat)
  /-- ACK_DELAY_EXPIRY (R411). ACK_DELAY after a delivery, the receiver sends an ack. -/
  | ackDelayExpiry (ctx : Nat)
  /-- SLOT_RESOLVE (R421). A Foyer slot is converted or made a hole and resolves. -/
  | slotResolve (r : CmdRef) (slot : Nat) (err : Option ReadErr)
  /-- PIPE_PICTURE_START (R443). A free Frieze pipe takes the next picture by priority. -/
  | pipePictureStart (pipe : Nat)
  /-- DECODE_PICTURE_DONE (R450). A decoded picture is written to the frame ring and its picture record is written. -/
  | decodePictureDone (pipe : Nat) (p : DecPic)
  /-- ENCODE_SLICE_DONE (R457). A coded slice and its slice record are written to the output ring. -/
  | encodeSliceDone (pipe : Nat) (bytes : List Byte)
  /-- ENCODE_PICTURE_DONE (R458). An encoded picture finishes under rate control, and its record is written. -/
  | encodePictureDone (pipe floorRows qpAvg cycles : Nat) (filler : List Byte)
  /-- OUT_READ_WRITE (R457). Software writes OUT_READ and frees output-ring space. -/
  | outReadWrite (v : Word)
  /-- CORE_INSTRUCTION (R493). A Mezzanine core executes an RV64GCV instruction. -/
  | coreInstruction (core ce : Nat) (fetchErr dataErr : Option ReadErr)
  /-- CORE_TIMER (R504). A core's mtime reaches its mtimecmp and asserts source 960. -/
  | coreTimer (core : Nat)
  /-- CORE_WATCHDOG_EXPIRY (R501). A watchdog period passes without a kick. -/
  | coreWatchdogExpiry (core : Nat) (bad : List Nat)
  /-- CORE_KICK (R501). Writing KICK restarts a core's watchdog period. -/
  | coreKick (core : Nat)
  /-- CORE_RETIRE (R502). A core is stopped, written back and powered down, and its interrupts are re-routed. -/
  | coreRetire (core : Nat) (bad : List Nat)
  /-- MEZ_FW_CONFIRM (R500). Writing CONFIRM raises the firmware anti-rollback floor. -/
  | mezFwConfirm
  /-- ICU_CLAIM (R508). A core's read of ICU_CLAIM claims its highest qualifying source. -/
  | icuClaim (core : Nat)
  /-- ICU_COMPLETE (R509). A core's write of ICU_COMPLETE ends a source's active state. -/
  | icuComplete (core id : Nat)
  /-- ICU_SET (R507). Writing SET sets a source's SOFT bit. -/
  | icuSet (core n : Nat)
  /-- ICU_CLR (R507). Writing CLR clears a source's SOFT bit. -/
  | icuClr (core n : Nat)
  /-- DEBUG_DMI_ACCESS (R575). An access to the DMI window reaches the unlocked debug module. -/
  | debugDmiAccess (a : Nat) (data : Option Word)
  /-- POWER_ON (R528). Power-on of the Lantern rail makes a cold reset. -/
  | powerOn (straps : Nat)
  /-- POWER_GOOD_FALL (R604). A power-good input falls and makes a cold reset. -/
  | powerGoodFall (io core : Bool)
  /-- COLD_RESET_INPUT (R528). The board's cold-reset input asserts. -/
  | coldResetInput
  /-- PERST_ASSERT (R528). PERST# asserted after management service has begun makes a warm reset. -/
  | perstAssert
  /-- LNT_COLD_RESET (R529). Writing COLD makes a cold reset. -/
  | lntColdReset
  /-- LNT_WARM_RESET (R530). Writing WARM makes a warm reset. -/
  | lntWarmReset
  /-- LNT_SHUTDOWN (R539). Writing SHUTDOWN runs the self-test, powers down and raises PWROFF_OK. -/
  | lntShutdown
  /-- START_UP_STAGE (R535). The device passes to the next stage of start-up. -/
  | startUpStage (fail : Option Nat) (badCores : List Nat) (trained : List (Nat × Training)) (badBlocks : List Nat) (unverified : List CmdRef)
  /-- LANTERN_WATCHDOG_EXPIRY (R534). The Lantern watchdog period passes without a kick and makes a warm reset. -/
  | lanternWatchdogExpiry
  /-- LANTERN_WATCHDOG_KICK (R534). Writing LNT_WDOG.KICK restarts the period. -/
  | lanternWatchdogKick
  /-- FLIGHT_SLEEP (R520). FLIGHT_IDLE passes with the hall idle, and its flights enter sleep. -/
  | flightSleep (hall : Nat)
  /-- SLEEP_ENTRY_DONE (R521). Sleep entry completes, and a pending wake follows at once. -/
  | sleepEntryDone (f : Nat)
  /-- FLIGHT_WAKE_START (R521). A flight of a waking hall starts its wake, WAKE_GAP after the previous one. -/
  | flightWakeStart (f : Nat)
  /-- FLIGHT_PLL_LOCK (R521). A waking flight's PLL locks and the flight runs. -/
  | flightPllLock (f us : Nat)
  /-- FLIGHT_LOCK_TIMEOUT (R523). A flight not locked within 100 µs is isolated. -/
  | flightLockTimeout (f : Nat)
  /-- MEDIA_SLEEP (R524). MEDIA_IDLE passes with no media work, and the media domain sleeps. -/
  | mediaSleep
  /-- MEDIA_WAKE_DONE (R524). The media domain runs after a wake. -/
  | mediaWakeDone
  /-- DOMAIN_RESET (R533). Writing LNT_DOMAIN_CTL.RESET resets one allowed domain. -/
  | domainReset (dom : Nat)
  /-- THERMAL_SAMPLE (R606). The die temperature sensors are sampled every 100 µs. -/
  | thermalSample (temps : List Int)
  /-- CRITICAL_TEMPERATURE (R607). An analog comparator asserts CRIT_N at the critical limit. -/
  | criticalTemperature
  /-- VID_STEP (R601). Every 100 µs VOUT_COMMAND moves 5 mV toward the fused set point. -/
  | vidStep (ok : Bool)
  /-- FLIGHT_ISOLATE (R550). Writing FLT_ISOLATE.ISOLATE 1 isolates a flight and powers it off. -/
  | flightIsolate (f : Nat) (force : Bool)
  /-- FLIGHT_UNISOLATE (R550). Writing ISOLATE 0 wakes, repairs and zeroes the flight and returns it to work. -/
  | flightUnisolate (f : Nat)
  /-- BLOCK_ISOLATE (R551). Writing 1 to a LNT_BLOCK_ISOLATE bit isolates an Atrium block. -/
  | blockIsolate (b : Nat)
  /-- BLOCK_RETURN (R551). Writing 0 to a set bit returns a block whose last in-service test passed. -/
  | blockReturn (b : Nat)
  /-- SELFTEST_RUN (R556). Writing RUN tests one slice in service under the budget. -/
  | selftestRun (slice : Nat)
  /-- SLICE_TEST_DONE (R553). A slice finishes its test and re-initialisation, and its result and records are written. -/
  | sliceTestDone (slice us : Nat) (fails : List (Nat × Nat × Nat × Nat))
  /-- SLICE_BUDGET_EXPIRY (R553). A slice's budget runs out, and it is recorded as untested. -/
  | sliceBudgetExpiry (slice us cursor : Nat) (fails : List (Nat × Nat × Nat × Nat))
  /-- PRESENCE_DEBOUNCE (R568). PRES_N holding its level for 50 ms changes the debounced level. -/
  | presenceDebounce (low : Bool)
  /-- PRESENCE_WINDOW_CLOSE (R569). The presence window closes, and the transient key is discarded. -/
  | presenceWindowClose
  /-- SEAL_TICK (R578). Every millisecond SEAL_OUT takes the next LFSR bit. -/
  | sealTick
  /-- SEAL_SAMPLE (R578). SEAL_IN is sampled and compared with the bit driven. -/
  | sealSample (bit : Bool)
  /-- STATUS_READ (R595). A sideband status read returns the status dword and the incarnation. -/
  | statusRead
  /-- MCTP_CONTROL_MESSAGE (R594). An MCTP control message is handled under DSP0236. -/
  | mctpControlMessage (msg : List Byte)
  /-- GET_TID (R615). PLDM GetTID. -/
  | getTid
  /-- SET_TID (R615). PLDM SetTID. -/
  | setTid (tid : Nat)
  /-- GET_PLDM_VERSION (R615). PLDM GetPLDMVersion. -/
  | getPldmVersion (ty : Nat)
  /-- GET_PLDM_TYPES (R615). PLDM GetPLDMTypes. -/
  | getPldmTypes
  /-- GET_PLDM_COMMANDS (R615). PLDM GetPLDMCommands. -/
  | getPldmCommands (ty : Nat)
  /-- GET_PDR_REPOSITORY_INFO (R615). PLDM GetPDRRepositoryInfo. -/
  | getPdrRepositoryInfo
  /-- GET_PDR (R615). PLDM GetPDR returns a PDR record. -/
  | getPdr (handle : Nat)
  /-- GET_SENSOR_READING (R615). PLDM GetSensorReading returns a numeric sensor reading. -/
  | getSensorReading (sensor : Nat)
  /-- GET_STATE_SENSOR_READINGS (R615). PLDM GetStateSensorReadings returns state sensor readings. -/
  | getStateSensorReadings (sensor : Nat)
  /-- SENSOR_REFRESH (R615). Every 10 ms the PLDM sensor readings are refreshed. -/
  | sensorRefresh (vout iout : Option Nat)
  /-- BYPASS (R597). JTAG BYPASS instruction. -/
  | bypass
  /-- IDCODE (R597). JTAG IDCODE instruction. -/
  | idcode
  /-- SAMPLE_PRELOAD (R597). JTAG SAMPLE/PRELOAD instruction. -/
  | samplePreload
  /-- EXTEST (R597). JTAG EXTEST instruction, decoded only while COLD_RST_N is asserted. -/
  | extest
  /-- EXTEST_PULSE (R597). JTAG EXTEST_PULSE instruction. -/
  | extestPulse
  /-- EXTEST_TRAIN (R597). JTAG EXTEST_TRAIN instruction. -/
  | extestTrain
  /-- CLAMP (R597). JTAG CLAMP instruction. -/
  | clamp
  /-- HIGHZ (R597). JTAG HIGHZ instruction. -/
  | highz
  /-- TEST_LOGIC_RESET (R597). The TAP enters Test-Logic-Reset when COLD_RST_N deasserts with a test instruction
      loaded. -/
  | testLogicReset
  /-- VALIDATION_DONE (R64). The validation of a candidate structure, including the flash read of a slot switch,
      finishes, and the commit becomes pending or is refused with validation-failed. -/
  | validationDone (scope : Nat)
  /-- PERST_DEASSERT (R537). PERST# deasserts, the PCIe link is released to train, and the 1 s limit on retry-status
      answers starts. -/
  | perstDeassert
  /-- POWER_GOOD_RISE (R604). A power-good input rises, letting start-up proceed, or holds the device in reset with
      code 0x2 when PG_CORE rises while PG_IO is low. -/
  | powerGoodRise (io core : Bool)
  /-- LANTERN_RAIL_LOSS (R604). VLNT is lost, and everything stops, ending the presence window and discarding the
      transient key. -/
  | lanternRailLoss
  /-- REFERENCE_CLOCK_LOSS (R516). The 25 MHz reference goes missing, and the Lantern runs from its internal
      oscillator with OSC set. -/
  | referenceClockLoss
  /-- CRITICAL_TEMPERATURE_CLEAR (R607). Every die falls below 110 °C, and the analog comparator releases CRIT_N. -/
  | criticalTemperatureClear
  /-- HOST_READ_COMPLETION (R255). A read of the host window returns its data over PCI Express, which is checked at
      its handoff and passed on. -/
  | hostReadCompletion (q : MemReq) (err : Option ReadErr)
  /-- ATS_TRANSLATION_COMPLETION (R468). An ATS translation completion returns, and the request proceeds or a page
      request is issued when the translation is refused. -/
  | atsTranslationCompletion (q : MemReq) (ok : Bool)
  /-- REGISTER_READ (R521). A register read returns its fields, and a read of a sleeping hall's tread or flight
      register wakes the hall and completes once the flight runs. -/
  | registerRead (fn off size : Nat)
  /-- UNSUPPORTED_MCTP_MESSAGE (R594). An MCTP message of another type is discarded, and a PLDM request of another
      type or command is answered with an error. -/
  | unsupportedMctpMessage (ty pldm cmd : Nat)
  deriving DecidableEq, Repr

end Sys2Proof
end

