-- ==== Sys2Proof/Machine/Bits.lean ====
section
/-! DEFINITION. Bit fields, byte order and check codes used by every chapter: little-endian byte lists (R6),
CRC-32C (R61), the in-band CRC-16 (R262). -/

namespace Sys2Proof.Machine

/-- Bits `[lo + w - 1 : lo]` of a number (R5). -/
def bitsOf (v lo w : Nat) : Nat := (v >>> lo) % 2 ^ w

/-- Replace bits `[lo + w - 1 : lo]` of a number by `x`. -/
def setBits (v lo w x : Nat) : Nat :=
  v - (bitsOf v lo w) * 2 ^ lo + (x % 2 ^ w) * 2 ^ lo

/-- One bit of a number as a Bool. -/
def bitOf (v i : Nat) : Bool := bitsOf v i 1 = 1

/-- The number a byte list spells, least significant byte first (R6). -/
def leNat : List Byte → Nat
  | [] => 0
  | b :: bs => b.toNat + 256 * leNat bs

/-- The `n` bytes of a number, least significant first (R6). -/
def leBytes : Nat → Nat → List Byte
  | 0, _ => []
  | n + 1, v => BitVec.ofNat 8 v :: leBytes n (v / 256)

/-- `n` bytes of a byte list from offset `o`, as a number; missing bytes read zero. -/
def leAt (bs : List Byte) (o n : Nat) : Nat := leNat ((bs.drop o).take n)

/-- Round up to a multiple. -/
def ceilTo (v m : Nat) : Nat := (v + m - 1) / m * m

/-- Ceiling division. -/
def ceilDiv (a b : Nat) : Nat := (a + b - 1) / b

/-- One bit of a reflected CRC register. -/
def crcBit (poly reg : Nat) : Nat :=
  if reg % 2 = 1 then (reg / 2) ^^^ poly else reg / 2

/-- One byte of a reflected CRC register. -/
def crcByte (poly reg : Nat) (b : Byte) : Nat :=
  let r := reg ^^^ b.toNat
  crcBit poly (crcBit poly (crcBit poly (crcBit poly (crcBit poly (crcBit poly (crcBit poly (crcBit poly r)))))))

/-- CRC-32C, Castagnoli polynomial 0x1EDC_6F41 (R61), in its usual reflected form with all-ones start and final
inversion. PRESUMED: the form (reflection, start, inversion) that the name CRC-32C stands for; log 10. -/
def crc32c (bs : List Byte) : Nat :=
  (bs.foldl (crcByte 0x82F63B78) 0xFFFFFFFF) ^^^ 0xFFFFFFFF

/-- One bit of the in-band CRC-16, most significant bit first. -/
def crc16Bit (reg : Nat) : Nat :=
  if reg ≥ 0x8000 then ((reg * 2) % 0x10000) ^^^ 0x8BB7 else reg * 2

/-- One byte of the in-band CRC-16. -/
def crc16Byte (reg : Nat) (b : Byte) : Nat :=
  let r := reg ^^^ (b.toNat * 256)
  crc16Bit (crc16Bit (crc16Bit (crc16Bit (crc16Bit (crc16Bit (crc16Bit (crc16Bit r)))))))

/-- CRC-16 with polynomial 0x8BB7 and initial value 0 over a byte list (R262). -/
def crc16 (bs : List Byte) : Nat := bs.foldl crc16Byte 0

/-- The check symbol of one 64-byte burst: the data, then bits [47:6] of its logical address as 6 bytes (R262). -/
def burstSymbol (data : List Byte) (addr : Nat) : Nat := crc16 (data ++ leBytes 6 (addr / 64))

/-- A list of zero bytes. -/
def zeros (n : Nat) : List Byte := List.replicate n 0

/-- Saturating increment of a `w`-bit counter. -/
def satAdd (w v n : Nat) : Nat := min (v + n) (2 ^ w - 1)

end Sys2Proof.Machine
end

