-- ==== Sys2Proof/Machine/Num.lean ====
section
/-! DEFINITION. IEEE 754-2019 binary32 and binary64 as the vector engines and the drain compute them (R104, R105):
every operation is exact on sign, magnitude and power of two, then rounded once. A value is its bit pattern as a
number; flags are the five bits of R138: invalid 1, division by zero 2, overflow 4, underflow 8, inexact 16. -/

namespace Sys2Proof.Machine

/-- A binary interchange format: exponent bits and mantissa bits. -/
structure IFmt where
  eb : Nat
  mb : Nat
  deriving DecidableEq, Repr

/-- binary32 (R82). -/
def ifmt32 : IFmt := ⟨8, 23⟩
/-- binary64 (R82). -/
def ifmt64 : IFmt := ⟨11, 52⟩
/-- BF16 (R82). -/
def ifmtBf16 : IFmt := ⟨8, 7⟩
/-- FP16 (R82). -/
def ifmtFp16 : IFmt := ⟨5, 10⟩

/-- A decoded number: NaN, an infinity, or (−1)^neg · mag · 2^e. -/
inductive FNum where
  | nan
  | inf (neg : Bool)
  | fin (neg : Bool) (mag : Nat) (e : Int)
  deriving DecidableEq, Repr

/-- The five sticky flags of R138. -/
def flInvalid : Nat := 1
def flDivZero : Nat := 2
def flOverflow : Nat := 4
def flUnderflow : Nat := 8
def flInexact : Nat := 16

/-- The exponent bias of a format. -/
def fBias (F : IFmt) : Int := 2 ^ (F.eb - 1) - 1

/-- The sign bit of a pattern. -/
def fSign (F : IFmt) (x : Nat) : Bool := bitOf x (F.eb + F.mb)

/-- Build a pattern from sign, exponent field and mantissa field. -/
def fPack (F : IFmt) (neg : Bool) (ef mf : Nat) : Nat :=
  (if neg then 2 ^ (F.eb + F.mb) else 0) + ef * 2 ^ F.mb + mf

/-- A signed zero. -/
def fZero (F : IFmt) (neg : Bool) : Nat := fPack F neg 0 0
/-- A signed infinity. -/
def fInf (F : IFmt) (neg : Bool) : Nat := fPack F neg (2 ^ F.eb - 1) 0
/-- The largest finite magnitude, signed. -/
def fMax (F : IFmt) (neg : Bool) : Nat := fPack F neg (2 ^ F.eb - 2) (2 ^ F.mb - 1)
/-- The canonical NaN of R105. -/
def fCanonNaN (F : IFmt) : Nat := fPack F false (2 ^ F.eb - 1) (2 ^ (F.mb - 1))

/-- Decode a pattern. -/
def fDecode (F : IFmt) (x : Nat) : FNum :=
  let ef := bitsOf x F.mb F.eb
  let mf := bitsOf x 0 F.mb
  if ef = 2 ^ F.eb - 1 then
    if mf = 0 then .inf (fSign F x) else .nan
  else if ef = 0 then .fin (fSign F x) mf (1 - fBias F - F.mb)
  else .fin (fSign F x) (2 ^ F.mb + mf) ((ef : Int) - fBias F - F.mb)

/-- The pattern is a NaN. -/
def fIsNaN (F : IFmt) (x : Nat) : Bool := fDecode F x = .nan
/-- The pattern is a signalling NaN. -/
def fIsSNaN (F : IFmt) (x : Nat) : Bool := fIsNaN F x && !bitOf x (F.mb - 1)
/-- Quiet a NaN, keeping payload and sign (R105). -/
def fQuiet (F : IFmt) (x : Nat) : Nat := if bitOf x (F.mb - 1) then x else x + 2 ^ (F.mb - 1)

/-- Round a magnitude `mag · 2^e` to a multiple of `2^q` under a rounding attribute (0 ties to even, 1 toward zero,
2 toward −∞, 3 toward +∞, 4 ties away): the multiple, and whether bits were lost. -/
def rndMag (rm : Nat) (neg : Bool) (mag : Nat) (e q : Int) : Nat × Bool :=
  if q ≤ e then (mag * 2 ^ (e - q).toNat, false)
  else
    let sh := (q - e).toNat
    let m := mag / 2 ^ sh
    let r := mag % 2 ^ sh
    let half := 2 ^ (sh - 1)
    let up : Bool :=
      match rm with
      | 0 => decide (r > half) || (decide (r = half) && decide (m % 2 = 1))
      | 1 => false
      | 2 => neg && decide (r ≠ 0)
      | 3 => !neg && decide (r ≠ 0)
      | _ => decide (r ≥ half)
    (if up then m + 1 else m, decide (r ≠ 0))

/-- The result of an overflow under a rounding attribute. -/
def fOverflow (F : IFmt) (rm : Nat) (neg : Bool) : Nat :=
  match rm with
  | 1 => fMax F neg
  | 2 => if neg then fInf F neg else fMax F neg
  | 3 => if neg then fMax F neg else fInf F neg
  | _ => fInf F neg

/-- Round `(−1)^neg · mag · 2^e` into a format: pattern and flags. Tininess is detected after rounding (R104). -/
def fRound (F : IFmt) (rm : Nat) (neg : Bool) (mag : Nat) (e : Int) : Nat × Nat :=
  if mag = 0 then (fZero F neg, 0)
  else
    let E : Int := e + Nat.log2 mag
    let emin : Int := 1 - fBias F
    let q : Int := max (E - F.mb) (emin - F.mb)
    let (m0, ix) := rndMag rm neg mag e q
    let (mu, _) := rndMag rm neg mag e (E - F.mb)
    let Eu : Int := if mu = 2 ^ (F.mb + 1) then E + 1 else E
    let (m, q) := if m0 = 2 ^ (F.mb + 1) then (2 ^ F.mb, q + 1) else (m0, q)
    if 2 ^ F.mb ≤ m ∧ fBias F < q + F.mb then (fOverflow F rm neg, flOverflow + flInexact)
    else
      let bits :=
        if m < 2 ^ F.mb then fPack F neg 0 m
        else fPack F neg (q + F.mb + fBias F).toNat (m - 2 ^ F.mb)
      (bits, if ix then (if Eu < emin then flUnderflow + flInexact else flInexact) else 0)

/-- The result of an operation with a NaN operand: the first NaN operand, quieted; a signalling operand raises
invalid (R105). `none` when no operand is a NaN. -/
def fNaNOf (F : IFmt) (xs : List Nat) : Option (Nat × Nat) :=
  match xs.find? (fIsNaN F) with
  | none => none
  | some x => some (fQuiet F x, if xs.any (fIsSNaN F) then flInvalid else 0)

/-- An invalid operation on non-NaN operands (R105). -/
def fInvalidRes (F : IFmt) : Nat × Nat := (fCanonNaN F, flInvalid)

/-- The sign of an exact zero sum: negative only toward −∞. -/
def fZeroSumSign (rm : Nat) : Bool := rm = 2

/-- The exact sum of two signed magnitudes: sign, magnitude, exponent. -/
def exactSum (na : Bool) (ma : Nat) (ea : Int) (nb : Bool) (mb : Nat) (eb : Int) : Bool × Nat × Int :=
  let e := min ea eb
  let a : Int := (ma * 2 ^ (ea - e).toNat : Nat)
  let b : Int := (mb * 2 ^ (eb - e).toNat : Nat)
  let s := (if na then -a else a) + (if nb then -b else b)
  (decide (s < 0), s.natAbs, e)

/-- Round the sum of two decoded finite numbers, with IEEE 754 signed-zero rules. -/
def fSumFin (F : IFmt) (rm : Nat) (na : Bool) (ma : Nat) (ea : Int) (nb : Bool) (mb : Nat) (eb : Int) : Nat × Nat :=
  let (n, m, e) := exactSum na ma ea nb mb eb
  if m = 0 then (fZero F (if na = nb then na else fZeroSumSign rm), 0) else fRound F rm n m e

/-- IEEE addition. -/
def fAdd (F : IFmt) (rm a b : Nat) : Nat × Nat :=
  match fNaNOf F [a, b] with
  | some r => r
  | none =>
    match fDecode F a, fDecode F b with
    | .inf na, .inf nb => if na = nb then (fInf F na, 0) else fInvalidRes F
    | .inf na, _ => (fInf F na, 0)
    | _, .inf nb => (fInf F nb, 0)
    | .fin na ma ea, .fin nb mb eb => fSumFin F rm na ma ea nb mb eb
    | _, _ => fInvalidRes F

/-- Flip the sign of a pattern. -/
def fNeg (F : IFmt) (x : Nat) : Nat := x ^^^ 2 ^ (F.eb + F.mb)

/-- IEEE subtraction. A NaN operand keeps its own sign. -/
def fSub (F : IFmt) (rm a b : Nat) : Nat × Nat :=
  match fNaNOf F [a, b] with
  | some r => r
  | none => fAdd F rm a (fNeg F b)

/-- IEEE multiplication. -/
def fMul (F : IFmt) (rm a b : Nat) : Nat × Nat :=
  match fNaNOf F [a, b] with
  | some r => r
  | none =>
    match fDecode F a, fDecode F b with
    | .inf na, .inf nb => (fInf F (na != nb), 0)
    | .inf na, .fin nb mb _ => if mb = 0 then fInvalidRes F else (fInf F (na != nb), 0)
    | .fin na ma _, .inf nb => if ma = 0 then fInvalidRes F else (fInf F (na != nb), 0)
    | .fin na ma ea, .fin nb mb eb => fRound F rm (na != nb) (ma * mb) (ea + eb)
    | _, _ => fInvalidRes F

/-- fusedMultiplyAdd a × b + c. Zero times infinity beside a quiet NaN raises no invalid flag, which IEEE 754 leaves
open (log 283). -/
def fFma (F : IFmt) (rm a b c : Nat) : Nat × Nat :=
  match fNaNOf F [a, b, c] with
  | some r => r
  | none =>
    let prodInf (n : Bool) : Nat × Nat :=
      match fDecode F c with
      | .inf nc => if nc = n then (fInf F n, 0) else fInvalidRes F
      | _ => (fInf F n, 0)
    match fDecode F a, fDecode F b with
    | .inf na, .inf nb => prodInf (na != nb)
    | .inf na, .fin nb mb _ => if mb = 0 then fInvalidRes F else prodInf (na != nb)
    | .fin na ma _, .inf nb => if ma = 0 then fInvalidRes F else prodInf (na != nb)
    | .fin na ma ea, .fin nb mb eb =>
      match fDecode F c with
      | .inf nc => (fInf F nc, 0)
      | .fin nc mc ec => fSumFin F rm (na != nb) (ma * mb) (ea + eb) nc mc ec
      | .nan => fInvalidRes F
    | _, _ => fInvalidRes F

/-- IEEE division. The quotient carries a sticky bit below all the bits the rounding looks at. -/
def fDiv (F : IFmt) (rm a b : Nat) : Nat × Nat :=
  match fNaNOf F [a, b] with
  | some r => r
  | none =>
    match fDecode F a, fDecode F b with
    | .inf _, .inf _ => fInvalidRes F
    | .inf na, .fin nb _ _ => (fInf F (na != nb), 0)
    | .fin na _ _, .inf nb => (fZero F (na != nb), 0)
    | .fin na ma ea, .fin nb mb eb =>
      if mb = 0 then (if ma = 0 then fInvalidRes F else (fInf F (na != nb), flDivZero))
      else if ma = 0 then (fZero F (na != nb), 0)
      else
        let k := 2 * F.mb + 6
        let num := ma * 2 ^ k
        let qt := num / mb
        fRound F rm (na != nb) (2 * qt + (if num % mb = 0 then 0 else 1)) (ea - eb - k - 1)
    | _, _ => fInvalidRes F

/-- The integer square root, bit by bit from bit `k − 1`. -/
def isqrtFrom : Nat → Nat → Nat → Nat
  | 0, _, acc => acc
  | k + 1, n, acc => isqrtFrom k n (if (acc + 2 ^ k) * (acc + 2 ^ k) ≤ n then acc + 2 ^ k else acc)

/-- IEEE square root. -/
def fSqrt (F : IFmt) (rm a : Nat) : Nat × Nat :=
  match fNaNOf F [a] with
  | some r => r
  | none =>
    match fDecode F a with
    | .inf na => if na then fInvalidRes F else (fInf F false, 0)
    | .fin na ma ea =>
      if ma = 0 then (fZero F na, 0)
      else if na then fInvalidRes F
      else
        let k : Nat := 2 * F.mb + 6
        let odd : Nat := if (ea - k) % 2 = 0 then 0 else 1
        let n := ma * 2 ^ (k + odd)
        let e : Int := ea - k - odd
        let r := isqrtFrom (2 * F.mb + 8) n 0
        fRound F rm false (2 * r + (if r * r = n then 0 else 1)) (e / 2 - 1)
    | .nan => fInvalidRes F

/-- IEEE remainder: x − n·y with n the integer nearest x/y, ties to even; exact. -/
def fRem (F : IFmt) (a b : Nat) : Nat × Nat :=
  match fNaNOf F [a, b] with
  | some r => r
  | none =>
    match fDecode F a, fDecode F b with
    | .inf _, _ => fInvalidRes F
    | .fin _ _ _, .inf _ => (a, 0)
    | .fin na ma ea, .fin _ mb eb =>
      if mb = 0 then fInvalidRes F
      else
        let e := min ea eb
        let x := ma * 2 ^ (ea - e).toNat
        let y := mb * 2 ^ (eb - e).toNat
        let n := x / y
        let r := x % y
        let up := decide (2 * r > y) || (decide (2 * r = y) && decide (n % 2 = 1))
        if up then fRound F 0 (!na) (y - r) e
        else if r = 0 then (fZero F na, 0) else fRound F 0 na r e
    | _, _ => fInvalidRes F

/-- Order two non-NaN decoded numbers: −1, 0 or 1 (−0 equals +0). -/
def fnCmp : FNum → FNum → Int
  | .inf na, .inf nb => if na = nb then 0 else if na then -1 else 1
  | .inf na, _ => if na then -1 else 1
  | _, .inf nb => if nb then 1 else -1
  | .fin na ma ea, .fin nb mb eb =>
    let (n, m, _) := exactSum na ma ea (!nb) mb eb
    if m = 0 then 0 else if n then -1 else 1
  | _, _ => 0

/-- The smaller of two non-NaN patterns, −0 below +0. -/
def fMinOf (F : IFmt) (a b : Nat) : Nat :=
  let c := fnCmp (fDecode F a) (fDecode F b)
  if c < 0 then a else if 0 < c then b else if fSign F a then a else b

/-- The larger of two non-NaN patterns, +0 above −0. -/
def fMaxOf (F : IFmt) (a b : Nat) : Nat :=
  let c := fnCmp (fDecode F a) (fDecode F b)
  if c < 0 then b else if 0 < c then a else if fSign F a then b else a

/-- minimum / maximum: a NaN operand gives a NaN. -/
def fMin (F : IFmt) (a b : Nat) : Nat × Nat := (fNaNOf F [a, b]).getD (fMinOf F a b, 0)
def fMaxi (F : IFmt) (a b : Nat) : Nat × Nat := (fNaNOf F [a, b]).getD (fMaxOf F a b, 0)

/-- minimumNumber / maximumNumber: a NaN operand yields to a number; signalling raises invalid. -/
def fNumPick (F : IFmt) (pick : Nat → Nat → Nat) (a b : Nat) : Nat × Nat :=
  let fl := if fIsSNaN F a || fIsSNaN F b then flInvalid else 0
  match fIsNaN F a, fIsNaN F b with
  | false, false => (pick a b, 0)
  | false, true => (a, fl)
  | true, false => (b, fl)
  | true, true => (fQuiet F a, fl)

def fMinNum (F : IFmt) (a b : Nat) : Nat × Nat := fNumPick F (fMinOf F) a b
def fMaxNum (F : IFmt) (a b : Nat) : Nat × Nat := fNumPick F (fMaxOf F) a b

/-- roundToIntegral under a rounding attribute: no inexact flag. -/
def fRint (F : IFmt) (rm a : Nat) : Nat × Nat :=
  match fNaNOf F [a] with
  | some r => r
  | none =>
    match fDecode F a with
    | .fin na ma ea =>
      if 0 ≤ ea then (a, 0)
      else
        let (m, _) := rndMag rm na ma ea 0
        (if m = 0 then fZero F na else (fRound F 0 na m 0).1, 0)
    | _ => (a, 0)

/-- scaleB by an integer. -/
def fScalb (F : IFmt) (rm a : Nat) (n : Int) : Nat × Nat :=
  match fNaNOf F [a] with
  | some r => r
  | none =>
    match fDecode F a with
    | .fin na ma ea => if ma = 0 then (a, 0) else fRound F rm na ma (ea + n)
    | _ => (a, 0)

/-- Round a signed integer into a format. -/
def fOfInt (F : IFmt) (rm : Nat) (v : Int) : Nat × Nat := fRound F rm (decide (v < 0)) v.natAbs 0

/-- logB. -/
def fLogb (F : IFmt) (a : Nat) : Nat × Nat :=
  match fNaNOf F [a] with
  | some r => r
  | none =>
    match fDecode F a with
    | .fin _ ma ea => if ma = 0 then (fInf F true, flDivZero) else fOfInt F 0 (ea + Nat.log2 ma)
    | _ => (fInf F false, 0)

/-- The comparison predicates of IEEE 754-2019: what holds of the relation, and whether a quiet NaN signals. -/
structure CmpPred where
  lt : Bool
  eq : Bool
  gt : Bool
  un : Bool
  signaling : Bool
  deriving DecidableEq, Repr, Inhabited

/-- A comparison: the Bool and the flags. -/
def fCmp (F : IFmt) (p : CmpPred) (a b : Nat) : Bool × Nat :=
  if fIsNaN F a || fIsNaN F b then
    (p.un, if p.signaling || fIsSNaN F a || fIsSNaN F b then flInvalid else 0)
  else
    let c := fnCmp (fDecode F a) (fDecode F b)
    (if c < 0 then p.lt else if 0 < c then p.gt else p.eq, 0)

/-- The ten classes of IEEE 754-2019. -/
inductive FClass where
  | signalingNaN | quietNaN | negativeInfinity | negativeNormal | negativeSubnormal | negativeZero
  | positiveZero | positiveSubnormal | positiveNormal | positiveInfinity
  deriving DecidableEq, Repr, Inhabited

/-- The class of a pattern. -/
def fClass (F : IFmt) (a : Nat) : FClass :=
  match fDecode F a with
  | .nan => if fIsSNaN F a then .signalingNaN else .quietNaN
  | .inf n => if n then .negativeInfinity else .positiveInfinity
  | .fin n m _ =>
    if m = 0 then (if n then .negativeZero else .positiveZero)
    else if m < 2 ^ F.mb then (if n then .negativeSubnormal else .positiveSubnormal)
    else (if n then .negativeNormal else .positiveNormal)

/-- Convert between formats: exact widening, or one rounding. A NaN keeps sign and the top payload bits. -/
def fCvt (F G : IFmt) (rm a : Nat) : Nat × Nat :=
  match fDecode F a with
  | .nan =>
    let pay := bitsOf (fQuiet F a) 0 F.mb
    let pay' := if F.mb ≤ G.mb then pay * 2 ^ (G.mb - F.mb) else pay / 2 ^ (F.mb - G.mb)
    (fPack G (fSign F a) (2 ^ G.eb - 1) pay', if fIsSNaN F a then flInvalid else 0)
  | .inf n => (fInf G n, 0)
  | .fin n m e => fRound G rm n m e

/-- The integer nearest a finite number under a rounding attribute, and whether bits were lost. -/
def fnToInt (rm : Nat) (n : Bool) (m : Nat) (e : Int) : Int × Bool :=
  let (k, ix) := rndMag rm n m e 0
  (if n then -(k : Int) else k, ix)

/-- Sum over the complete binary tree of a list of patterns: the list is split at the largest power of two below its
length, so a node with one absent child passes the other through (R96, R141). `fuel` bounds the depth. -/
def treeSum (add : Nat → Nat → Nat × Nat) : Nat → List Nat → Option (Nat × Nat)
  | 0, xs => xs.head?.map fun x => (x, 0)
  | fuel + 1, xs =>
    match xs with
    | [] => none
    | [x] => some (x, 0)
    | _ =>
      let half := 2 ^ fuel
      if xs.length ≤ half then treeSum add fuel xs
      else
        match treeSum add fuel (xs.take half), treeSum add fuel (xs.drop half) with
        | some (a, fa), some (b, fb) => let (r, fr) := add a b; some (r, fa ||| fb ||| fr)
        | some a, none => some a
        | none, b => b

/-- The FP32 fixed tree of R96 over the rounded products, in reduction order; `none` for an empty reduction. -/
def fp32Tree (xs : List Nat) : Option Nat := (treeSum (fAdd ifmt32 0) 25 xs).map (·.1)

end Sys2Proof.Machine
end

