-- ==== Sys2Proof/Machine/FMap.lean ====
section
/-! DEFINITION. Sparse maps keyed by a number, as plain data: pairs with rising keys and no entry equal to the
default of its key. Memory, the register bank and every large table of the block are such maps; equal tables are
equal lists. -/

namespace Sys2Proof.Machine

/-- A sparse table: (key, value) pairs. -/
abbrev FMap (α : Type) := List (Nat × α)

/-- The value listed for a key, if any. -/
def fmFind {α : Type} : FMap α → Nat → Option α
  | [], _ => none
  | (k', v) :: m, k => if k' = k then some v else fmFind m k

/-- The value of a key: the listed one, else the default of that key. -/
def fmGet {α : Type} (d : Nat → α) (m : FMap α) (k : Nat) : α :=
  (fmFind m k).getD (d k)

/-- Insert or replace, keeping the keys rising. -/
def fmPut {α : Type} : FMap α → Nat → α → FMap α
  | [], k, v => [(k, v)]
  | (k', v') :: m, k, v =>
    if k < k' then (k, v) :: (k', v') :: m
    else if k = k' then (k, v) :: m
    else (k', v') :: fmPut m k v

/-- Remove a key. -/
def fmErase {α : Type} (m : FMap α) (k : Nat) : FMap α := m.filter fun c => c.1 != k

/-- Set a key, in canonical form: setting the default of the key removes the entry. -/
def fmSet {α : Type} [DecidableEq α] (d : Nat → α) (m : FMap α) (k : Nat) (v : α) : FMap α :=
  if v = d k then fmErase m k else fmPut m k v

/-- Remove every key of `[lo, lo + n)`. -/
def fmClearRange {α : Type} (m : FMap α) (lo n : Nat) : FMap α :=
  m.filter fun c => c.1 < lo || lo + n ≤ c.1

/-- The entries of `[lo, lo + n)`. -/
def fmRange {α : Type} (m : FMap α) (lo n : Nat) : FMap α :=
  m.filter fun c => lo ≤ c.1 && c.1 < lo + n

/-- Copy the entries of `[src, src + n)` to `[dst, dst + n)`, for a map whose default does not depend on the key. -/
def fmCopyRange {α : Type} (m : FMap α) (src dst n : Nat) : FMap α :=
  (fmRange m src n).foldr (fun c acc => fmPut acc (c.1 - src + dst) c.2) (fmClearRange m dst n)

/-- Every key at least `lo`, keys rising, no entry equal to its default: the canonical form above `lo`. -/
def fmWfFrom {α : Type} [DecidableEq α] (d : Nat → α) : Nat → FMap α → Bool
  | _, [] => true
  | lo, (k, v) :: m => decide (lo ≤ k) && !decide (v = d k) && fmWfFrom d (k + 1) m

/-- The canonical form of a sparse table. -/
def fmWf {α : Type} [DecidableEq α] (d : Nat → α) (m : FMap α) : Bool := fmWfFrom d 0 m

end Sys2Proof.Machine
end

