-- ==== Sys2Proof/Machine/Fmt.lean ====
section
/-! DEFINITION. The number formats of 03_number_formats.md: format codes (R80), bit layouts (R82 to R85), the narrow
conversions with their counted events (R81, R102, R106), MX blocks (R103) and the exact accumulator (R89 to R98). -/

namespace Sys2Proof.Machine

/-- Element size in bits of a format code (R80); 0 for a reserved code. -/
def fmtBits : Nat → Nat
  | 0x00 => 32 | 0x01 => 64 | 0x02 => 16 | 0x03 => 16 | 0x04 => 8 | 0x05 => 8 | 0x06 => 8 | 0x07 => 8
  | 0x08 => 6 | 0x09 => 6 | 0x0A => 4 | 0x0B => 8 | 0x0C => 8 | 0x0D => 8 | 0x0E => 4 | 0x0F => 4
  | 0x10 => 32 | 0x11 => 128 | _ => 0

/-- An MX format code (R80, R83). -/
def fmtIsMx (c : Nat) : Bool := 0x06 ≤ c && c ≤ 0x0B
/-- A plain FP8 code. -/
def fmtIsFp8 (c : Nat) : Bool := c = 0x04 || c = 0x05
/-- An 8-bit or 4-bit integer code. -/
def fmtIsInt (c : Nat) : Bool := 0x0C ≤ c && c ≤ 0x0F
/-- BF16 or FP16. -/
def fmtIsHalf (c : Nat) : Bool := c = 0x02 || c = 0x03
/-- A format with a per-tensor scale (R100). -/
def fmtIsScaled (c : Nat) : Bool := fmtIsFp8 c || fmtIsInt c
/-- A format the matrix engine takes as an operand (R80). -/
def fmtIsOperand (c : Nat) : Bool := 0x02 ≤ c && c ≤ 0x0F
/-- A format the drain writes (R80). -/
def fmtIsDrainOut (c : Nat) : Bool := c ≤ 0x11 && c != 0x01
/-- A format VLD and VST take (R80). -/
def fmtIsVec (c : Nat) : Bool := c = 0x00 || c = 0x01 || c = 0x02 || c = 0x03 || c = 0x10
/-- A 4-bit element. -/
def fmtIs4 (c : Nat) : Bool := c = 0x0A || c = 0x0E || c = 0x0F

/-- The pair of formats belongs to a row of R86. -/
def pairOk (a b : Nat) : Bool :=
  (fmtIsFp8 a && fmtIsFp8 b) || (fmtIsMx a && fmtIsMx b) || (fmtIsInt a && fmtIsInt b)
    || (a = 0x02 && b = 0x02) || (a = 0x03 && b = 0x03)

/-- A small floating-point element: exponent bits, mantissa bits, bias, its largest finite magnitude as a mantissa
times a power of two, whether it has infinities, and its NaN pattern (R82, R102). -/
structure SmallF where
  eb : Nat
  mb : Nat
  bias : Int
  maxM : Nat
  maxE : Int
  hasInf : Bool
  nanBits : Nat
  emax : Int
  deriving DecidableEq, Repr

/-- The floating-point layout of an element format code below 32 bits (R82). -/
def smallF : Nat → Option SmallF
  | 0x02 => some ⟨8, 7, 127, 255, 120, true, 0x7FC0, 127⟩
  | 0x03 => some ⟨5, 10, 15, 2047, 5, true, 0x7E00, 15⟩
  | 0x04 | 0x06 => some ⟨4, 3, 7, 14, 5, false, 0x7F, 8⟩
  | 0x05 | 0x07 => some ⟨5, 2, 15, 7, 13, true, 0x7E, 15⟩
  | 0x08 => some ⟨3, 2, 3, 7, 2, false, 0, 4⟩
  | 0x09 => some ⟨2, 3, 1, 15, -1, false, 0, 2⟩
  | 0x0A => some ⟨2, 1, 1, 3, 1, false, 0, 2⟩
  | _ => none

/-- A pattern of a small float from sign, exponent field and mantissa field. -/
def smallPack (S : SmallF) (neg : Bool) (ef mf : Nat) : Nat :=
  (if neg then 2 ^ (S.eb + S.mb) else 0) + ef * 2 ^ S.mb + mf

/-- Decode a small float. E4M3 has no infinity and the NaNs 0x7F and 0xFF; FP6 and FP4 have neither (R82). -/
def smallDecode (c : Nat) (S : SmallF) (x : Nat) : FNum :=
  let neg := bitOf x (S.eb + S.mb)
  let ef := bitsOf x S.mb S.eb
  let mf := bitsOf x 0 S.mb
  if S.hasInf && ef = 2 ^ S.eb - 1 then (if mf = 0 then .inf neg else .nan)
  else if (c = 0x04 || c = 0x06) && ef = 15 && mf = 7 then .nan
  else if ef = 0 then .fin neg mf (1 - S.bias - S.mb)
  else .fin neg (2 ^ S.mb + mf) ((ef : Int) - S.bias - S.mb)

/-- A two's-complement value of `w` bits. -/
def sext (w x : Nat) : Int := if x % 2 ^ w ≥ 2 ^ (w - 1) then (x % 2 ^ w : Nat) - (2 ^ w : Nat) else (x % 2 ^ w : Nat)

/-- An integer as a decoded number. -/
def fnOfInt (v : Int) (e : Int) : FNum := .fin (decide (v < 0)) v.natAbs e

/-- The element value of a pattern in a format code, without its block or tensor scale. -/
def elemVal (c x : Nat) : FNum :=
  match c with
  | 0x00 => fDecode ifmt32 x
  | 0x01 => fDecode ifmt64 x
  | 0x0B => fnOfInt (sext 8 x) (-6)
  | 0x0C => fnOfInt (sext 8 x) 0
  | 0x0D => fnOfInt (x % 256 : Nat) 0
  | 0x0E => fnOfInt (sext 4 x) 0
  | 0x0F => fnOfInt (x % 16 : Nat) 0
  | 0x10 => fnOfInt (sext 32 x) 0
  | _ => match smallF c with
    | some S => smallDecode c S x
    | none => .nan

/-- Scale a decoded number by a power of two. -/
def fnScale (v : FNum) (k : Int) : FNum :=
  match v with
  | .fin n m e => .fin n m (e + k)
  | v => v

/-- An element widened to FP32, times 2^k, rounded once to nearest: a NaN keeps its sign, and its payload in the high
bits (R209; log 284). -/
def elem32 (c x : Nat) (k : Int) : Nat :=
  match fnScale (elemVal c x) k with
  | .fin n m e => (fRound ifmt32 0 n m e).1
  | .inf n => fInf ifmt32 n
  | .nan => match smallF c with
    | some S => fPack ifmt32 (bitOf x (S.eb + S.mb)) 255 (bitsOf x 0 S.mb * 2 ^ (23 - S.mb))
    | none => if c = 0x00 then x else fCanonNaN ifmt32

/-- The bound exponent b and lowest exponent p of an element format (R89). -/
def elemBP : Nat → Int × Int
  | 0x04 | 0x06 => (9, -9)
  | 0x05 | 0x07 => (16, -16)
  | 0x08 => (5, -4)
  | 0x09 => (3, -3)
  | 0x0A => (3, -1)
  | 0x0B => (2, -6)
  | 0x0C | 0x0D => (8, 0)
  | 0x0E | 0x0F => (4, 0)
  | _ => (0, 0)

/-- The result of a counted conversion: bits, and whether it counts as saturated, flushed, NaN (R106). -/
structure Cvt where
  bits : Nat
  sat : Bool := false
  flush : Bool := false
  nan : Bool := false
  deriving DecidableEq, Repr

/-- Round under a conversion control's ROUND field (R81). -/
def convRound (conv : Nat) : Nat := bitsOf conv 0 2
def convSat (conv : Nat) : Bool := bitOf conv 2
def convFlush (conv : Nat) : Bool := bitOf conv 3

/-- Conversion into a small floating-point format (R102). -/
def cvtSmall (c : Nat) (S : SmallF) (conv : Nat) (v : FNum) : Cvt :=
  let big (neg : Bool) : Nat := smallPack S neg ((S.maxE + S.mb + S.bias).toNat) (S.maxM - 2 ^ S.mb)
  let infBits (neg : Bool) : Nat :=
    if S.hasInf then smallPack S neg (2 ^ S.eb - 1) 0
    else if neg then S.nanBits + 2 ^ (S.eb + S.mb) else S.nanBits
  match v with
  | .nan => { bits := S.nanBits, nan := true }
  | .inf neg =>
    if convSat conv then { bits := big neg, sat := true }
    else { bits := infBits neg, sat := true, nan := !S.hasInf }
  | .fin neg mag e =>
    if mag = 0 then { bits := smallPack S neg 0 0 }
    else
      let rm := convRound conv
      let E : Int := e + Nat.log2 mag
      let emin : Int := 1 - S.bias
      let q : Int := max (E - S.mb) (emin - S.mb)
      let (m0, _) := rndMag rm neg mag e q
      let (m, q) := if m0 = 2 ^ (S.mb + 1) then (2 ^ S.mb, q + 1) else (m0, q)
      let tooBig : Bool := decide (S.maxE < q) || (decide (q = S.maxE) && decide (S.maxM < m))
      if tooBig then
        if convSat conv then { bits := big neg, sat := true }
        else if S.hasInf && (rm = 1 || (rm = 2 && !neg) || (rm = 3 && neg)) then { bits := big neg, sat := true }
        else { bits := infBits neg, sat := true, nan := !S.hasInf && (c = 0x04 || c = 0x06) }
      else if m = 0 then { bits := smallPack S neg 0 0, flush := true }
      else if m < 2 ^ S.mb then
        if convFlush conv then { bits := smallPack S neg 0 0, flush := true }
        else { bits := smallPack S neg 0 m }
      else { bits := smallPack S neg (q + S.mb + S.bias).toNat (m - 2 ^ S.mb) }

/-- Conversion into a two's-complement or unsigned integer of `w` bits: rounded, then the nearest limit; NaN gives 0
(R102). -/
def cvtInt (w : Nat) (signed : Bool) (conv : Nat) (v : FNum) : Cvt :=
  let lo : Int := if signed then -(2 ^ (w - 1)) else 0
  let hi : Int := if signed then 2 ^ (w - 1) - 1 else 2 ^ w - 1
  let wrap (k : Int) : Nat := (k % (2 ^ w : Int)).toNat
  match v with
  | .nan => { bits := 0, nan := true }
  | .inf neg => { bits := wrap (if neg then lo else hi), sat := true }
  | .fin neg mag e =>
    let (k, _) := fnToInt (convRound conv) neg mag e
    if k < lo then { bits := wrap lo, sat := true }
    else if hi < k then { bits := wrap hi, sat := true }
    else { bits := wrap k, flush := decide (mag ≠ 0) && decide (k = 0) }

/-- Final conversion of a value into any element format code (R81, R101, R102). Only formats narrower than 32 bits
count saturation and flushing (R106). A NaN into FP32 or FP64 becomes the canonical NaN, and into INT32 becomes 0, which
R102 says of narrower formats only (log 284). -/
def cvtTo (c conv : Nat) (v : FNum) : Cvt :=
  match c with
  | 0x00 => match v with
    | .nan => { bits := fCanonNaN ifmt32, nan := true }
    | .inf n => { bits := fInf ifmt32 n }
    | .fin n m e => { bits := (fRound ifmt32 (convRound conv) n m e).1 }
  | 0x01 => match v with
    | .nan => { bits := fCanonNaN ifmt64, nan := true }
    | .inf n => { bits := fInf ifmt64 n }
    | .fin n m e => { bits := (fRound ifmt64 (convRound conv) n m e).1 }
  | 0x0B => cvtInt 8 true conv (fnScale v 6)
  | 0x0C => cvtInt 8 true conv v
  | 0x0D => cvtInt 8 false conv v
  | 0x0E => cvtInt 4 true conv v
  | 0x0F => cvtInt 4 false conv v
  | 0x10 => { cvtInt 32 true conv v with sat := false, flush := false }
  | _ => match smallF c with
    | some S => cvtSmall c S conv v
    | none => { bits := 0 }

/-- ⌊log₂⌋ of a finite non-zero magnitude. -/
def fnLog2 (mag : Nat) (e : Int) : Int := e + Nat.log2 mag

/-- e_max of an MX element format (R103). -/
def mxEmax : Nat → Int
  | 0x06 => 8 | 0x07 => 15 | 0x08 => 4 | 0x09 => 2 | 0x0A => 2 | _ => 0

/-- The largest ⌊log₂ magnitude⌋ among finite non-zero values; `none` when all are zero. -/
def mxTop (vs : List FNum) : Option Int :=
  vs.foldl (fun acc v => match v with
    | .fin _ m e => if m = 0 then acc else some (match acc with | none => fnLog2 m e | some t => max t (fnLog2 m e))
    | _ => acc) none

/-- A value is NaN or infinite. -/
def fnSpecial : FNum → Bool
  | .fin _ _ _ => false
  | _ => true

/-- One MX block of values as scale byte and elements, with the counted events (R103, R106). `ovf` supplies the scale
byte where X + 127 exceeds 254, which R103 does not state. -/
def mxBlock (ovf : Int → Nat) (c conv : Nat) (vs : List FNum) : Nat × List Cvt :=
  if vs.any fnSpecial then (0xFF, vs.map fun _ => { bits := 0 })
  else
    match mxTop vs with
    | none => (0, vs.map fun _ => { bits := 0 })
    | some t =>
      let X := max (t - mxEmax c) (-127)
      let sc := if X + 127 ≤ 254 then (X + 127).toNat else ovf X
      (sc, vs.map fun v => cvtTo c (conv ||| 4) (fnScale v (-X)))

/-- An ACC96 accumulator (R98): value, tag (0 finite, 1 +∞, 2 −∞, 3 NaN), anchor, inexact. For BF16 and FP16 pairs the
entry holds the FP32 tree value in `fp`. -/
structure Acc where
  value : Int := 0
  tag : Nat := 0
  anchor : Int := 0
  inexact : Bool := false
  fp : Option Nat := none
  deriving DecidableEq, Repr

/-- Combine two special tags (R94). -/
def tagJoin (a b : Nat) : Nat :=
  if a = 3 || b = 3 then 3 else if a = 0 then b else if b = 0 then a else if a = b then a else 3

/-- The tag of one product of decoded elements (R94); infinity times infinity, which R94 does not name, gives the signed
infinity (log 283). -/
def prodTag (x y : FNum) : Nat :=
  match x, y with
  | .nan, _ => 3
  | _, .nan => 3
  | .inf na, .inf nb => if na = nb then 1 else 2
  | .inf na, .fin nb m _ => if m = 0 then 3 else if na = nb then 1 else 2
  | .fin na m _, .inf nb => if m = 0 then 3 else if na = nb then 1 else 2
  | .fin _ _ _, .fin _ _ _ => 0

/-- The exact product of two finite elements as an integer times a power of two. -/
def prodVal (x y : FNum) : Int × Int :=
  match x, y with
  | .fin na ma ea, .fin nb mb eb => ((if na = nb then (ma * mb : Nat) else -(ma * mb : Nat)), ea + eb)
  | _, _ => (0, 0)

/-- A value `v · 2^e` on the grid of weight `2^L`, truncated toward zero; and whether bits were lost (R92). -/
def onGrid (v e L : Int) : Int × Bool :=
  if L ≤ e then (v * 2 ^ (e - L).toNat, false)
  else
    let d : Int := 2 ^ (L - e).toNat
    (v.tdiv d, decide (v.tmod d ≠ 0))

/-- One element pair of an unscaled FP8 or integer product into an accumulator (R90, R94). -/
def accAdd (L : Int) (a : Acc) (x y : FNum) : Acc :=
  let (v, e) := prodVal x y
  let (g, _) := onGrid v e L
  { a with value := a.value + g, tag := tagJoin a.tag (prodTag x y) }

/-- One MX block into an accumulator: the exact sum of its products scaled by 2^S and truncated (R92 to R94). `nanScale`
marks a NaN block scale. -/
def accAddBlock (L S : Int) (nanScale : Bool) (a : Acc) (ps : List (FNum × FNum)) : Acc :=
  if nanScale then { a with tag := 3 }
  else
    let e0 : Int := -64
    let sum : Int := ps.foldl (fun acc p => let (v, e) := prodVal p.1 p.2; acc + (onGrid v e e0).1) 0
    let (g, lost) := onGrid sum (e0 + S) L
    { a with
      value := a.value + g
      tag := ps.foldl (fun t p => tagJoin t (prodTag p.1 p.2)) a.tag
      inexact := a.inexact || lost }

/-- The combine of two partials (R98). -/
def accCombine (a b : Acc) : Acc :=
  { a with value := a.value + b.value, tag := tagJoin a.tag b.tag, inexact := a.inexact || b.inexact }

/-- The accumulator's number: A · 2^L, or its special tag (R94, R95). -/
def accVal (L : Int) (a : Acc) : FNum :=
  match a.fp with
  | some x => fDecode ifmt32 x
  | none =>
    match a.tag with
    | 1 => .inf false
    | 2 => .inf true
    | 3 => .nan
    | _ => .fin (decide (a.value < 0)) a.value.natAbs L

/-- The 16 bytes of an ACC96 element (R98). -/
def accBytes (a : Acc) : List Byte :=
  leBytes 12 (a.value % (2 ^ 96 : Int)).toNat ++ leBytes 1 a.tag
    ++ leBytes 2 (a.anchor % (2 ^ 16 : Int)).toNat ++ leBytes 1 (if a.inexact then 1 else 0)

/-- Read an ACC96 element back (R98). -/
def accOfBytes (bs : List Byte) : Acc :=
  { value := sext 96 (leAt bs 0 12), tag := leAt bs 12 1 % 4, anchor := sext 16 (leAt bs 13 2)
    inexact := bitOf (leAt bs 15 1) 0 }

/-- Element `i` of a packed array (R85): its bit offset is `i` times the element size. -/
def packedElem (bits : Nat) (whole i : Nat) : Nat := bitsOf whole (i * bits) bits

/-- Pack elements from bit 0 upward (R85). -/
def packElems (bits : Nat) (xs : List Nat) : Nat :=
  xs.foldr (fun x acc => x % 2 ^ bits + acc * 2 ^ bits) 0

/-- F of R107: ⌊log₂⌋ of the largest finite magnitude of a per-tensor-scaled format. -/
def scaleF : Nat → Int
  | 0x04 => 8 | 0x05 => 15 | 0x0C => 6 | 0x0D => 7 | 0x0E => 2 | 0x0F => 3 | _ => 0

/-- ⌈log₂⌉ of a positive FP32 pattern. -/
def ceilLog2Fp32 (x : Nat) : Int :=
  match fDecode ifmt32 x with
  | .fin _ m e => if m = 2 ^ Nat.log2 m then fnLog2 m e else fnLog2 m e + 1
  | _ => 0

end Sys2Proof.Machine
end

