-- ==== Sys2Proof/Machine/Regs.lean ====
section
/-! DEFINITION. The register tables of every chapter: offsets in BAR0 (R618), fields with their access codes (R14) and
reset values. A reset of "kept" or "image" with no number is 0 here (log 3). -/

namespace Sys2Proof.Machine

/-- The access codes of R14. -/
inductive FAcc where
  | rw | ro | wo | w1c | w1s | rc
  deriving DecidableEq, Repr

/-- A register field: its lowest bit, width, access code, reset value, and whether a warm reset keeps it. -/
structure Fld where
  lo : Nat
  w : Nat
  acc : FAcc
  rst : Nat
  kept : Bool
  deriving DecidableEq, Repr

/-- XFM_CTL (spec/02_structure_image.md). -/
def rXfmCtl (s : Nat) : Nat := 0x800000 + 0x1000 * s + 0x0
def fXfmCtlOp : Fld := ⟨0, 4, .wo, 0, false⟩
/-- The fields of XFM_CTL. -/
def fsXfmCtl : List Fld := [fXfmCtlOp]

/-- XFM_STATUS (spec/02_structure_image.md). -/
def rXfmStatus (s : Nat) : Nat := 0x800000 + 0x1000 * s + 0x8
def fXfmStatusState : Fld := ⟨0, 3, .ro, 0, false⟩
def fXfmStatusBusy : Fld := ⟨3, 1, .ro, 0, false⟩
def fXfmStatusResult : Fld := ⟨8, 8, .ro, 0, false⟩
def fXfmStatusTxnId : Fld := ⟨16, 32, .ro, 0, true⟩
def fXfmStatusStagedKib : Fld := ⟨48, 16, .ro, 0, false⟩
/-- The fields of XFM_STATUS. -/
def fsXfmStatus : List Fld := [fXfmStatusState, fXfmStatusBusy, fXfmStatusResult, fXfmStatusTxnId, fXfmStatusStagedKib]

/-- XFM_STAGE_SEL (spec/02_structure_image.md). -/
def rXfmStageSel (s : Nat) : Nat := 0x800000 + 0x1000 * s + 0x10
def fXfmStageSelSection : Fld := ⟨0, 8, .rw, 0, false⟩
def fXfmStageSelVariant : Fld := ⟨8, 1, .rw, 0, false⟩
def fXfmStageSelOffset : Fld := ⟨16, 32, .rw, 0, false⟩
/-- The fields of XFM_STAGE_SEL. -/
def fsXfmStageSel : List Fld := [fXfmStageSelSection, fXfmStageSelVariant, fXfmStageSelOffset]

/-- XFM_STAGE_DATA (spec/02_structure_image.md). -/
def rXfmStageData (s : Nat) : Nat := 0x800000 + 0x1000 * s + 0x18
def fXfmStageDataData : Fld := ⟨0, 64, .wo, 0, false⟩
/-- The fields of XFM_STAGE_DATA. -/
def fsXfmStageData : List Fld := [fXfmStageDataData]

/-- XFM_STAGE_BULK_ADDR (spec/02_structure_image.md). -/
def rXfmStageBulkAddr (s : Nat) : Nat := 0x800000 + 0x1000 * s + 0x20
def fXfmStageBulkAddrAddr : Fld := ⟨0, 48, .rw, 0, false⟩
/-- The fields of XFM_STAGE_BULK_ADDR. -/
def fsXfmStageBulkAddr : List Fld := [fXfmStageBulkAddrAddr]

/-- XFM_STAGE_BULK_CTL (spec/02_structure_image.md). -/
def rXfmStageBulkCtl (s : Nat) : Nat := 0x800000 + 0x1000 * s + 0x28
def fXfmStageBulkCtlLen : Fld := ⟨0, 25, .wo, 0, false⟩
def fXfmStageBulkCtlCrc : Fld := ⟨32, 32, .wo, 0, false⟩
/-- The fields of XFM_STAGE_BULK_CTL. -/
def fsXfmStageBulkCtl : List Fld := [fXfmStageBulkCtlLen, fXfmStageBulkCtlCrc]

/-- XFM_FAIL (spec/02_structure_image.md). -/
def rXfmFail (s : Nat) : Nat := 0x800000 + 0x1000 * s + 0x30
def fXfmFailCheck : Fld := ⟨0, 8, .ro, 0, false⟩
def fXfmFailSection : Fld := ⟨8, 8, .ro, 0, false⟩
def fXfmFailVariant : Fld := ⟨16, 1, .ro, 0, false⟩
def fXfmFailEntry : Fld := ⟨24, 24, .ro, 0, false⟩
/-- The fields of XFM_FAIL. -/
def fsXfmFail : List Fld := [fXfmFailCheck, fXfmFailSection, fXfmFailVariant, fXfmFailEntry]

/-- XFM_GEN (spec/02_structure_image.md). -/
def rXfmGen (s : Nat) : Nat := 0x800000 + 0x1000 * s + 0x38
def fXfmGenGeneration : Fld := ⟨0, 32, .ro, 0, true⟩
/-- The fields of XFM_GEN. -/
def fsXfmGen : List Fld := [fXfmGenGeneration]

/-- XFM_TIMEOUT (spec/02_structure_image.md). -/
def rXfmTimeout (s : Nat) : Nat := 0x800000 + 0x1000 * s + 0x40
def fXfmTimeoutLimit : Fld := ⟨0, 32, .rw, 0x0EE6B280, true⟩
/-- The fields of XFM_TIMEOUT. -/
def fsXfmTimeout : List Fld := [fXfmTimeoutLimit]

/-- XFM_EVENTS (spec/02_structure_image.md). -/
def rXfmEvents (s : Nat) : Nat := 0x800000 + 0x1000 * s + 0x48
def fXfmEventsCommitted : Fld := ⟨0, 1, .w1c, 0, false⟩
def fXfmEventsRefused : Fld := ⟨1, 1, .w1c, 0, false⟩
def fXfmEventsRolledBack : Fld := ⟨2, 1, .w1c, 0, false⟩
def fXfmEventsTimedOut : Fld := ⟨3, 1, .w1c, 0, false⟩
def fXfmEventsDiscarded : Fld := ⟨4, 1, .w1c, 0, false⟩
def fXfmEventsBadWrite : Fld := ⟨5, 1, .w1c, 0, false⟩
/-- The fields of XFM_EVENTS. -/
def fsXfmEvents : List Fld := [fXfmEventsCommitted, fXfmEventsRefused, fXfmEventsRolledBack, fXfmEventsTimedOut, fXfmEventsDiscarded, fXfmEventsBadWrite]

/-- XFM_COUNTS (spec/02_structure_image.md). -/
def rXfmCounts (s : Nat) : Nat := 0x800000 + 0x1000 * s + 0x50
def fXfmCountsCommits : Fld := ⟨0, 16, .ro, 0, true⟩
def fXfmCountsRefusals : Fld := ⟨16, 16, .ro, 0, true⟩
def fXfmCountsRollbacks : Fld := ⟨32, 16, .ro, 0, true⟩
def fXfmCountsTimeouts : Fld := ⟨48, 16, .ro, 0, true⟩
/-- The fields of XFM_COUNTS. -/
def fsXfmCounts : List Fld := [fXfmCountsCommits, fXfmCountsRefusals, fXfmCountsRollbacks, fXfmCountsTimeouts]

/-- XFM_SLOT (spec/02_structure_image.md). -/
def rXfmSlot : Nat := 0x808100
def fXfmSlotActive : Fld := ⟨0, 1, .ro, 0, true⟩
def fXfmSlotFallback : Fld := ⟨1, 1, .ro, 0, true⟩
def fXfmSlotStateA : Fld := ⟨2, 2, .ro, 0, true⟩
def fXfmSlotStateB : Fld := ⟨4, 2, .ro, 0, true⟩
def fXfmSlotActiveSerial : Fld := ⟨32, 32, .ro, 0, true⟩
/-- The fields of XFM_SLOT. -/
def fsXfmSlot : List Fld := [fXfmSlotActive, fXfmSlotFallback, fXfmSlotStateA, fXfmSlotStateB, fXfmSlotActiveSerial]

/-- XFM_SLOT_CONFIRM (spec/02_structure_image.md). -/
def rXfmSlotConfirm : Nat := 0x808108
def fXfmSlotConfirmConfirm : Fld := ⟨0, 1, .wo, 0, false⟩
/-- The fields of XFM_SLOT_CONFIRM. -/
def fsXfmSlotConfirm : List Fld := [fXfmSlotConfirmConfirm]

/-- XFM_SERIAL_FLOOR (spec/02_structure_image.md). -/
def rXfmSerialFloor : Nat := 0x808110
def fXfmSerialFloorFloor : Fld := ⟨0, 32, .ro, 0, true⟩
/-- The fields of XFM_SERIAL_FLOOR. -/
def fsXfmSerialFloor : List Fld := [fXfmSerialFloorFloor]

/-- TRD_ID (spec/04_tread_engines.md). -/
def rTrdId (t : Nat) : Nat := 0x1000000 + 0x100000 * (t / 8) + 0x10000 * (t % 8) + 0x0
def fTrdIdTread : Fld := ⟨0, 7, .ro, 0, false⟩
def fTrdIdIndex : Fld := ⟨7, 3, .ro, 0, false⟩
def fTrdIdFlight : Fld := ⟨10, 4, .ro, 0, false⟩
/-- The fields of TRD_ID. -/
def fsTrdId : List Fld := [fTrdIdTread, fTrdIdIndex, fTrdIdFlight]

/-- TRD_STATUS (spec/04_tread_engines.md). -/
def rTrdStatus (t : Nat) : Nat := 0x1000000 + 0x100000 * (t / 8) + 0x10000 * (t % 8) + 0x8
def fTrdStatusState : Fld := ⟨0, 2, .ro, 0, false⟩
def fTrdStatusMeBusy : Fld := ⟨2, 1, .ro, 0, false⟩
def fTrdStatusVeBusy : Fld := ⟨3, 1, .ro, 0, false⟩
def fTrdStatusDrainBusy : Fld := ⟨4, 1, .ro, 0, false⟩
def fTrdStatusBanksFull : Fld := ⟨5, 2, .ro, 0, false⟩
def fTrdStatusHall : Fld := ⟨8, 4, .ro, 0xF, false⟩
/-- The fields of TRD_STATUS. -/
def fsTrdStatus : List Fld := [fTrdStatusState, fTrdStatusMeBusy, fTrdStatusVeBusy, fTrdStatusDrainBusy, fTrdStatusBanksFull, fTrdStatusHall]

/-- TRD_ISOLATE (spec/04_tread_engines.md). -/
def rTrdIsolate (t : Nat) : Nat := 0x1000000 + 0x100000 * (t / 8) + 0x10000 * (t % 8) + 0x10
def fTrdIsolateIsolate : Fld := ⟨0, 1, .rw, 0, true⟩
def fTrdIsolateForce : Fld := ⟨1, 1, .wo, 0, false⟩
/-- The fields of TRD_ISOLATE. -/
def fsTrdIsolate : List Fld := [fTrdIsolateIsolate, fTrdIsolateForce]

/-- TRD_FTAB (spec/04_tread_engines.md). -/
def rTrdFtab (t : Nat) : Nat := 0x1000000 + 0x100000 * (t / 8) + 0x10000 * (t % 8) + 0x18
def fTrdFtabT0Loaded : Fld := ⟨0, 1, .ro, 0, false⟩
def fTrdFtabT1Loaded : Fld := ⟨1, 1, .ro, 0, false⟩
def fTrdFtabVariant : Fld := ⟨2, 1, .ro, 0, false⟩
def fTrdFtabGen : Fld := ⟨32, 32, .ro, 0, false⟩
/-- The fields of TRD_FTAB. -/
def fsTrdFtab : List Fld := [fTrdFtabT0Loaded, fTrdFtabT1Loaded, fTrdFtabVariant, fTrdFtabGen]

/-- TRD_ERR (spec/04_tread_engines.md). -/
def rTrdErr (t : Nat) : Nat := 0x1000000 + 0x100000 * (t / 8) + 0x10000 * (t % 8) + 0x20
def fTrdErrLandingCe : Fld := ⟨0, 1, .w1c, 0, false⟩
def fTrdErrLandingUe : Fld := ⟨1, 1, .w1c, 0, false⟩
def fTrdErrAccCheck : Fld := ⟨2, 1, .w1c, 0, false⟩
def fTrdErrTableCheck : Fld := ⟨3, 1, .w1c, 0, false⟩
def fTrdErrProgCheck : Fld := ⟨4, 1, .w1c, 0, false⟩
def fTrdErrWriteClash : Fld := ⟨5, 1, .w1c, 0, false⟩
def fTrdErrCeCount : Fld := ⟨16, 16, .rc, 0, false⟩
/-- The fields of TRD_ERR. -/
def fsTrdErr : List Fld := [fTrdErrLandingCe, fTrdErrLandingUe, fTrdErrAccCheck, fTrdErrTableCheck, fTrdErrProgCheck, fTrdErrWriteClash, fTrdErrCeCount]

/-- UND_STATUS (spec/09_memory_tiers.md). -/
def rUndStatus : Nat := 0x300000
def fUndStatusHealthy : Fld := ⟨0, 24, .ro, 0, true⟩
def fUndStatusZeroing : Fld := ⟨24, 1, .ro, 0, false⟩
def fUndStatusRebuilding : Fld := ⟨25, 1, .ro, 0, true⟩
def fUndStatusHalfExposed : Fld := ⟨26, 1, .ro, 0, true⟩
def fUndStatusReduced : Fld := ⟨27, 1, .ro, 0, true⟩
def fUndStatusLostS : Fld := ⟨28, 1, .ro, 0, true⟩
/-- The fields of UND_STATUS. -/
def fsUndStatus : List Fld := [fUndStatusHealthy, fUndStatusZeroing, fUndStatusRebuilding, fUndStatusHalfExposed, fUndStatusReduced, fUndStatusLostS]

/-- UND_EVENTS (spec/09_memory_tiers.md). -/
def rUndEvents : Nat := 0x300008
def fUndEventsRetired : Fld := ⟨0, 1, .w1c, 0, false⟩
def fUndEventsThreshold : Fld := ⟨1, 1, .w1c, 0, false⟩
def fUndEventsExposed : Fld := ⟨2, 1, .w1c, 0, false⟩
def fUndEventsRefused : Fld := ⟨3, 1, .w1c, 0, false⟩
def fUndEventsRetiring : Fld := ⟨4, 1, .w1c, 0, false⟩
/-- The fields of UND_EVENTS. -/
def fsUndEvents : List Fld := [fUndEventsRetired, fUndEventsThreshold, fUndEventsExposed, fUndEventsRefused, fUndEventsRetiring]

/-- UND_REBUILD (spec/09_memory_tiers.md). -/
def rUndRebuild : Nat := 0x300010
def fUndRebuildRate : Fld := ⟨0, 4, .rw, 8, true⟩
def fUndRebuildChannel : Fld := ⟨4, 5, .ro, 0x1F, true⟩
def fUndRebuildDone : Fld := ⟨16, 16, .ro, 0, true⟩
def fUndRebuildTotal : Fld := ⟨32, 16, .ro, 0, true⟩
/-- The fields of UND_REBUILD. -/
def fsUndRebuild : List Fld := [fUndRebuildRate, fUndRebuildChannel, fUndRebuildDone, fUndRebuildTotal]

/-- UND_RESERVE (spec/09_memory_tiers.md). -/
def rUndReserve : Nat := 0x300018
def fUndReservePerChannel : Fld := ⟨0, 16, .ro, 0, false⟩
def fUndReserveFree : Fld := ⟨16, 16, .ro, 0, true⟩
def fUndReserveUsed : Fld := ⟨32, 16, .ro, 0, true⟩
/-- The fields of UND_RESERVE. -/
def fsUndReserve : List Fld := [fUndReservePerChannel, fUndReserveFree, fUndReserveUsed]

/-- UND_CHAN_STATUS (spec/09_memory_tiers.md). -/
def rUndChanStatus (c : Nat) : Nat := 0x300100 + 0x40 * c
def fUndChanStatusState : Fld := ⟨0, 2, .ro, 0, true⟩
def fUndChanStatusSpeed : Fld := ⟨2, 2, .ro, 0, false⟩
def fUndChanStatusPartner : Fld := ⟨4, 5, .ro, 0, false⟩
def fUndChanStatusDies : Fld := ⟨9, 5, .ro, 0, false⟩
def fUndChanStatusUsedExt : Fld := ⟨16, 12, .ro, 0, true⟩
/-- The fields of UND_CHAN_STATUS. -/
def fsUndChanStatus : List Fld := [fUndChanStatusState, fUndChanStatusSpeed, fUndChanStatusPartner, fUndChanStatusDies, fUndChanStatusUsedExt]

/-- UND_CHAN_CTL (spec/09_memory_tiers.md). -/
def rUndChanCtl (c : Nat) : Nat := 0x300108 + 0x40 * c
def fUndChanCtlRetire : Fld := ⟨0, 1, .wo, 0, false⟩
def fUndChanCtlThresh : Fld := ⟨16, 16, .rw, 0x0100, true⟩
/-- The fields of UND_CHAN_CTL. -/
def fsUndChanCtl : List Fld := [fUndChanCtlRetire, fUndChanCtlThresh]

/-- UND_CHAN_ERR (spec/09_memory_tiers.md). -/
def rUndChanErr (c : Nat) : Nat := 0x300110 + 0x40 * c
def fUndChanErrLinkReplay : Fld := ⟨0, 16, .rc, 0, false⟩
def fUndChanErrReread : Fld := ⟨16, 16, .rc, 0, false⟩
def fUndChanErrMirrorCorr : Fld := ⟨32, 16, .ro, 0, true⟩
def fUndChanErrUncorr : Fld := ⟨48, 16, .rc, 0, false⟩
/-- The fields of UND_CHAN_ERR. -/
def fsUndChanErr : List Fld := [fUndChanErrLinkReplay, fUndChanErrReread, fUndChanErrMirrorCorr, fUndChanErrUncorr]

/-- UND_CHAN_ERRADDR (spec/09_memory_tiers.md). -/
def rUndChanErraddr (c : Nat) : Nat := 0x300118 + 0x40 * c
def fUndChanErraddrAddr : Fld := ⟨0, 48, .ro, 0, false⟩
def fUndChanErraddrDie : Fld := ⟨48, 4, .ro, 0, false⟩
def fUndChanErraddrBank : Fld := ⟨52, 4, .ro, 0, false⟩
def fUndChanErraddrMirror : Fld := ⟨56, 1, .ro, 0, false⟩
/-- The fields of UND_CHAN_ERRADDR. -/
def fsUndChanErraddr : List Fld := [fUndChanErraddrAddr, fUndChanErraddrDie, fUndChanErraddrBank, fUndChanErraddrMirror]

/-- UND_HALL_LOCAL (spec/09_memory_tiers.md). -/
def rUndHallLocal (h : Nat) : Nat := 0x300800 + 0x20 * h
def fUndHallLocalExt : Fld := ⟨0, 32, .ro, 0, false⟩
def fUndHallLocalQuota : Fld := ⟨32, 32, .ro, 0, false⟩
/-- The fields of UND_HALL_LOCAL. -/
def fsUndHallLocal : List Fld := [fUndHallLocalExt, fUndHallLocalQuota]

/-- UND_HALL_HOST (spec/09_memory_tiers.md). -/
def rUndHallHost (h : Nat) : Nat := 0x300808 + 0x20 * h
def fUndHallHostBytes : Fld := ⟨0, 48, .ro, 0, true⟩
/-- The fields of UND_HALL_HOST. -/
def fsUndHallHost : List Fld := [fUndHallHostBytes]

/-- UND_HALL_POOL (spec/09_memory_tiers.md). -/
def rUndHallPool (h : Nat) : Nat := 0x300810 + 0x20 * h
def fUndHallPoolBytes : Fld := ⟨0, 48, .ro, 0, true⟩
/-- The fields of UND_HALL_POOL. -/
def fsUndHallPool : List Fld := [fUndHallPoolBytes]

/-- UND_XTAB_SLOT (spec/11_compression.md). -/
def rUndXtabSlot (h s : Nat) : Nat := 0x300C00 + 0x40 * h + 8 * s
def fUndXtabSlotState : Fld := ⟨0, 2, .ro, 0, true⟩
def fUndXtabSlotVersion : Fld := ⟨8, 8, .ro, 0, true⟩
def fUndXtabSlotQueued : Fld := ⟨16, 32, .ro, 0, false⟩
/-- The fields of UND_XTAB_SLOT. -/
def fsUndXtabSlot : List Fld := [fUndXtabSlotState, fUndXtabSlotVersion, fUndXtabSlotQueued]

/-- CLS_HALL_EPOCH (spec/12_cloister_collectives.md). -/
def rClsHallEpoch (h : Nat) : Nat := 0x500100 + 0x40 * h
def fClsHallEpochEpoch : Fld := ⟨0, 32, .ro, 0, true⟩
/-- The fields of CLS_HALL_EPOCH. -/
def fsClsHallEpoch : List Fld := [fClsHallEpochEpoch]

/-- CLS_HALL_COMMIT (spec/12_cloister_collectives.md). -/
def rClsHallCommit (h : Nat) : Nat := 0x500108 + 0x40 * h
def fClsHallCommitState : Fld := ⟨0, 2, .ro, 0, true⟩
def fClsHallCommitMerged : Fld := ⟨16, 16, .ro, 0, false⟩
def fClsHallCommitCommits : Fld := ⟨32, 32, .ro, 0, true⟩
/-- The fields of CLS_HALL_COMMIT. -/
def fsClsHallCommit : List Fld := [fClsHallCommitState, fClsHallCommitMerged, fClsHallCommitCommits]

/-- CLS_HALL_CTL (spec/12_cloister_collectives.md). -/
def rClsHallCtl (h : Nat) : Nat := 0x500110 + 0x40 * h
def fClsHallCtlGenWait : Fld := ⟨0, 32, .rw, 0x0016E360, true⟩
def fClsHallCtlCommitSlow : Fld := ⟨32, 32, .rw, 0x0EE6B280, true⟩
/-- The fields of CLS_HALL_CTL. -/
def fsClsHallCtl : List Fld := [fClsHallCtlGenWait, fClsHallCtlCommitSlow]

/-- CLS_HALL_EVENTS (spec/12_cloister_collectives.md). -/
def rClsHallEvents (h : Nat) : Nat := 0x500118 + 0x40 * h
def fClsHallEventsCommitted : Fld := ⟨0, 1, .w1c, 0, false⟩
def fClsHallEventsAbandoned : Fld := ⟨1, 1, .w1c, 0, false⟩
def fClsHallEventsInDoubt : Fld := ⟨2, 1, .w1c, 0, false⟩
def fClsHallEventsSlow : Fld := ⟨3, 1, .w1c, 0, false⟩
def fClsHallEventsCheckFail : Fld := ⟨4, 1, .w1c, 0, false⟩
def fClsHallEventsGenRefused : Fld := ⟨5, 1, .w1c, 0, false⟩
/-- The fields of CLS_HALL_EVENTS. -/
def fsClsHallEvents : List Fld := [fClsHallEventsCommitted, fClsHallEventsAbandoned, fClsHallEventsInDoubt, fClsHallEventsSlow, fClsHallEventsCheckFail, fClsHallEventsGenRefused]

/-- ORL_DEVICE (spec/13_oriel_delivery.md). -/
def rOrlDevice : Nat := 0x400000
def fOrlDeviceDevice : Fld := ⟨0, 14, .rw, 0, true⟩
def fOrlDeviceIncarnation : Fld := ⟨32, 32, .ro, 0, true⟩
/-- The fields of ORL_DEVICE. -/
def fsOrlDevice : List Fld := [fOrlDeviceDevice, fOrlDeviceIncarnation]

/-- ORL_EVENTS (spec/13_oriel_delivery.md). -/
def rOrlEvents : Nat := 0x400008
def fOrlEventsPort : Fld := ⟨0, 1, .w1c, 0, false⟩
def fOrlEventsLaser : Fld := ⟨1, 1, .w1c, 0, false⟩
def fOrlEventsPeer : Fld := ⟨2, 1, .w1c, 0, false⟩
def fOrlEventsRefused : Fld := ⟨3, 1, .w1c, 0, false⟩
/-- The fields of ORL_EVENTS. -/
def fsOrlEvents : List Fld := [fOrlEventsPort, fOrlEventsLaser, fOrlEventsPeer, fOrlEventsRefused]

/-- ORL_FWD_CTL (spec/13_oriel_delivery.md). -/
def rOrlFwdCtl : Nat := 0x400010
def fOrlFwdCtlIndex : Fld := ⟨0, 14, .rw, 0, false⟩
def fOrlFwdCtlEntry : Fld := ⟨32, 32, .rw, 0xFFFFFFFF, true⟩
/-- The fields of ORL_FWD_CTL. -/
def fsOrlFwdCtl : List Fld := [fOrlFwdCtlIndex, fOrlFwdCtlEntry]

/-- ORL_PORT_CTL (spec/13_oriel_delivery.md). -/
def rOrlPortCtl (p : Nat) : Nat := 0x400100 + 0x10 * p
def fOrlPortCtlRole : Fld := ⟨0, 1, .rw, 0, true⟩
def fOrlPortCtlRetrain : Fld := ⟨1, 1, .wo, 0, false⟩
/-- The fields of ORL_PORT_CTL. -/
def fsOrlPortCtl : List Fld := [fOrlPortCtlRole, fOrlPortCtlRetrain]

/-- ORL_PORT_STATUS (spec/13_oriel_delivery.md). -/
def rOrlPortStatus (p : Nat) : Nat := 0x400108 + 0x10 * p
def fOrlPortStatusState : Fld := ⟨0, 2, .ro, 0, false⟩
def fOrlPortStatusLanes : Fld := ⟨2, 8, .ro, 0, false⟩
def fOrlPortStatusPeerDev : Fld := ⟨16, 14, .ro, 0, false⟩
def fOrlPortStatusPeerPort : Fld := ⟨30, 6, .ro, 0, false⟩
def fOrlPortStatusLight : Fld := ⟨36, 3, .ro, 0, false⟩
def fOrlPortStatusReplays : Fld := ⟨48, 16, .rc, 0, false⟩
/-- The fields of ORL_PORT_STATUS. -/
def fsOrlPortStatus : List Fld := [fOrlPortStatusState, fOrlPortStatusLanes, fOrlPortStatusPeerDev, fOrlPortStatusPeerPort, fOrlPortStatusLight, fOrlPortStatusReplays]

/-- ORL_LASER (spec/13_oriel_delivery.md). -/
def rOrlLaser (m : Nat) : Nat := 0x400400 + 8 * m
def fOrlLaserState : Fld := ⟨0, 2, .ro, 0, false⟩
def fOrlLaserRelease : Fld := ⟨2, 1, .wo, 0, false⟩
def fOrlLaserRestore : Fld := ⟨3, 1, .wo, 0, false⟩
def fOrlLaserPorts : Fld := ⟨8, 8, .ro, 0, false⟩
/-- The fields of ORL_LASER. -/
def fsOrlLaser : List Fld := [fOrlLaserState, fOrlLaserRelease, fOrlLaserRestore, fOrlLaserPorts]

/-- DLV_CTX_CTL (spec/13_oriel_delivery.md). -/
def rDlvCtxCtl : Nat := 0x480000
def fDlvCtxCtlIndex : Fld := ⟨0, 18, .rw, 0, false⟩
def fDlvCtxCtlOp : Fld := ⟨24, 3, .wo, 0, false⟩
/-- The fields of DLV_CTX_CTL. -/
def fsDlvCtxCtl : List Fld := [fDlvCtxCtlIndex, fDlvCtxCtlOp]

/-- DLV_TIMERS (spec/13_oriel_delivery.md). -/
def rDlvTimers : Nat := 0x480008
def fDlvTimersRto : Fld := ⟨0, 16, .rw, 0x09C4, true⟩
def fDlvTimersAckDelay : Fld := ⟨16, 8, .rw, 0x32, true⟩
def fDlvTimersEvict : Fld := ⟨32, 32, .rw, 0x02FAF080, true⟩
/-- The fields of DLV_TIMERS. -/
def fsDlvTimers : List Fld := [fDlvTimersRto, fDlvTimersAckDelay, fDlvTimersEvict]

/-- DLV_EVENTS (spec/13_oriel_delivery.md). -/
def rDlvEvents : Nat := 0x480010
def fDlvEventsEvicted : Fld := ⟨0, 1, .w1c, 0, false⟩
def fDlvEventsBadOp : Fld := ⟨1, 1, .w1c, 0, false⟩
def fDlvEventsLogFull : Fld := ⟨2, 1, .w1c, 0, false⟩
/-- The fields of DLV_EVENTS. -/
def fsDlvEvents : List Fld := [fDlvEventsEvicted, fDlvEventsBadOp, fDlvEventsLogFull]

/-- DLV_COUNTS (spec/13_oriel_delivery.md). -/
def rDlvCounts : Nat := 0x480018
def fDlvCountsBadSeg : Fld := ⟨0, 32, .rc, 0, false⟩
def fDlvCountsUnrouted : Fld := ⟨32, 32, .rc, 0, false⟩
/-- The fields of DLV_COUNTS. -/
def fsDlvCounts : List Fld := [fDlvCountsBadSeg, fDlvCountsUnrouted]

/-- FOY_STATUS (spec/14_foyer_input.md). -/
def rFoyStatus : Nat := 0x600000
def fFoyStatusLanes : Fld := ⟨0, 8, .ro, 0, false⟩
def fFoyStatusBatches : Fld := ⟨16, 16, .ro, 0, false⟩
/-- The fields of FOY_STATUS. -/
def fsFoyStatus : List Fld := [fFoyStatusLanes, fFoyStatusBatches]

/-- FOY_EVENTS (spec/14_foyer_input.md). -/
def rFoyEvents : Nat := 0x600008
def fFoyEventsDictRefused : Fld := ⟨0, 1, .w1c, 0, false⟩
def fFoyEventsRoiTorn : Fld := ⟨1, 1, .w1c, 0, false⟩
def fFoyEventsProbeLimit : Fld := ⟨2, 1, .w1c, 0, false⟩
/-- The fields of FOY_EVENTS. -/
def fsFoyEvents : List Fld := [fFoyEventsDictRefused, fFoyEventsRoiTorn, fFoyEventsProbeLimit]

/-- FOY_HALL_DICT (spec/14_foyer_input.md). -/
def rFoyHallDict (h : Nat) : Nat := 0x600100 + 8 * h
def fFoyHallDictLoaded : Fld := ⟨0, 1, .ro, 0, true⟩
def fFoyHallDictLoading : Fld := ⟨1, 1, .ro, 0, false⟩
def fFoyHallDictVersion : Fld := ⟨8, 24, .ro, 0, true⟩
def fFoyHallDictEntries : Fld := ⟨32, 21, .ro, 0, true⟩
/-- The fields of FOY_HALL_DICT. -/
def fsFoyHallDict : List Fld := [fFoyHallDictLoaded, fFoyHallDictLoading, fFoyHallDictVersion, fFoyHallDictEntries]

/-- FRZ_STATUS (spec/15_frieze_video.md). -/
def rFrzStatus : Nat := 0x700000
def fFrzStatusDecBusy : Fld := ⟨0, 8, .ro, 0, false⟩
def fFrzStatusEncBusy : Fld := ⟨8, 2, .ro, 0, false⟩
def fFrzStatusOpen : Fld := ⟨16, 9, .ro, 0, true⟩
def fFrzStatusLiveDec : Fld := ⟨32, 16, .ro, 0, true⟩
def fFrzStatusLiveEnc : Fld := ⟨48, 16, .ro, 0, true⟩
/-- The fields of FRZ_STATUS. -/
def fsFrzStatus : List Fld := [fFrzStatusDecBusy, fFrzStatusEncBusy, fFrzStatusOpen, fFrzStatusLiveDec, fFrzStatusLiveEnc]

/-- FRZ_EVENTS (spec/15_frieze_video.md). -/
def rFrzEvents : Nat := 0x700008
def fFrzEventsMissingRef : Fld := ⟨0, 1, .w1c, 0, false⟩
def fFrzEventsDecodeError : Fld := ⟨1, 1, .w1c, 0, false⟩
def fFrzEventsOverwrite : Fld := ⟨2, 1, .w1c, 0, false⟩
def fFrzEventsReduced : Fld := ⟨3, 1, .w1c, 0, false⟩
def fFrzEventsOutFull : Fld := ⟨4, 1, .w1c, 0, false⟩
/-- The fields of FRZ_EVENTS. -/
def fsFrzEvents : List Fld := [fFrzEventsMissingRef, fFrzEventsDecodeError, fFrzEventsOverwrite, fFrzEventsReduced, fFrzEventsOutFull]

/-- FRZ_CTX_SEL (spec/15_frieze_video.md). -/
def rFrzCtxSel : Nat := 0x700010
def fFrzCtxSelCtx : Fld := ⟨0, 8, .rw, 0, false⟩
/-- The fields of FRZ_CTX_SEL. -/
def fsFrzCtxSel : List Fld := [fFrzCtxSelCtx]

/-- FRZ_CTX_STATUS (spec/15_frieze_video.md). -/
def rFrzCtxStatus : Nat := 0x700018
def fFrzCtxStatusState : Fld := ⟨0, 2, .ro, 0, true⟩
def fFrzCtxStatusDir : Fld := ⟨2, 1, .ro, 0, true⟩
def fFrzCtxStatusLive : Fld := ⟨3, 1, .ro, 0, true⟩
def fFrzCtxStatusAwaitRap : Fld := ⟨4, 1, .ro, 0, true⟩
def fFrzCtxStatusHall : Fld := ⟨8, 4, .ro, 0xF, true⟩
def fFrzCtxStatusNextRec : Fld := ⟨16, 32, .ro, 0, true⟩
def fFrzCtxStatusMissing : Fld := ⟨48, 16, .ro, 0, true⟩
/-- The fields of FRZ_CTX_STATUS. -/
def fsFrzCtxStatus : List Fld := [fFrzCtxStatusState, fFrzCtxStatusDir, fFrzCtxStatusLive, fFrzCtxStatusAwaitRap, fFrzCtxStatusHall, fFrzCtxStatusNextRec, fFrzCtxStatusMissing]

/-- FRZ_CTX_OUT (spec/15_frieze_video.md). -/
def rFrzCtxOut : Nat := 0x700020
def fFrzCtxOutOutWrite : Fld := ⟨0, 32, .ro, 0, true⟩
def fFrzCtxOutOutRead : Fld := ⟨32, 32, .rw, 0, true⟩
/-- The fields of FRZ_CTX_OUT. -/
def fsFrzCtxOut : List Fld := [fFrzCtxOutOutWrite, fFrzCtxOutOutRead]

/-- CMD_SQ (spec/16_command_interface.md). -/
def rCmdSq (s q : Nat) : Nat := 0x100000 + 0x10000 * s + 0x40 * q + 0x0
def fCmdSqBase : Fld := ⟨0, 48, .rw, 0, true⟩
def fCmdSqSizeLog2 : Fld := ⟨48, 5, .rw, 0, true⟩
/-- The fields of CMD_SQ. -/
def fsCmdSq : List Fld := [fCmdSqBase, fCmdSqSizeLog2]

/-- CMD_CQ (spec/16_command_interface.md). -/
def rCmdCq (s q : Nat) : Nat := 0x100000 + 0x10000 * s + 0x40 * q + 0x8
def fCmdCqBase : Fld := ⟨0, 48, .rw, 0, true⟩
def fCmdCqVector : Fld := ⟨48, 7, .rw, 0x7F, true⟩
/-- The fields of CMD_CQ. -/
def fsCmdCq : List Fld := [fCmdCqBase, fCmdCqVector]

/-- CMD_Q_CTL (spec/16_command_interface.md). -/
def rCmdQCtl (s q : Nat) : Nat := 0x100000 + 0x10000 * s + 0x40 * q + 0x10
def fCmdQCtlEnable : Fld := ⟨0, 1, .rw, 0, true⟩
def fCmdQCtlRestart : Fld := ⟨1, 1, .wo, 0, false⟩
def fCmdQCtlResume : Fld := ⟨2, 1, .wo, 0, false⟩
def fCmdQCtlHead : Fld := ⟨16, 16, .wo, 0, false⟩
/-- The fields of CMD_Q_CTL. -/
def fsCmdQCtl : List Fld := [fCmdQCtlEnable, fCmdQCtlRestart, fCmdQCtlResume, fCmdQCtlHead]

/-- CMD_Q_STATUS (spec/16_command_interface.md). -/
def rCmdQStatus (s q : Nat) : Nat := 0x100000 + 0x10000 * s + 0x40 * q + 0x18
def fCmdQStatusState : Fld := ⟨0, 2, .ro, 0, true⟩
def fCmdQStatusStopCode : Fld := ⟨8, 8, .ro, 0, true⟩
def fCmdQStatusSqHead : Fld := ⟨16, 16, .ro, 0, true⟩
def fCmdQStatusCqTail : Fld := ⟨32, 16, .ro, 0, true⟩
def fCmdQStatusCqPhase : Fld := ⟨48, 1, .ro, 1, true⟩
/-- The fields of CMD_Q_STATUS. -/
def fsCmdQStatus : List Fld := [fCmdQStatusState, fCmdQStatusStopCode, fCmdQStatusSqHead, fCmdQStatusCqTail, fCmdQStatusCqPhase]

/-- CMD_Q_SEQ (spec/16_command_interface.md). -/
def rCmdQSeq (s q : Nat) : Nat := 0x100000 + 0x10000 * s + 0x40 * q + 0x20
def fCmdQSeqNextSeq : Fld := ⟨0, 64, .rw, 0, true⟩
/-- The fields of CMD_Q_SEQ. -/
def fsCmdQSeq : List Fld := [fCmdQSeqNextSeq]

/-- CMD_BAR4_BASE (spec/16_command_interface.md). -/
def rCmdBar4Base : Nat := 0x1a0000
def fCmdBar4BaseBase : Fld := ⟨0, 48, .rw, 0, true⟩
/-- The fields of CMD_BAR4_BASE. -/
def fsCmdBar4Base : List Fld := [fCmdBar4BaseBase]

/-- CMD_EVENTS (spec/16_command_interface.md). -/
def rCmdEvents : Nat := 0x1a0008
def fCmdEventsStopped : Fld := ⟨0, 1, .w1c, 0, false⟩
def fCmdEventsJournalFull : Fld := ⟨1, 1, .w1c, 0, false⟩
def fCmdEventsSuspended : Fld := ⟨2, 1, .w1c, 0, false⟩
/-- The fields of CMD_EVENTS. -/
def fsCmdEvents : List Fld := [fCmdEventsStopped, fCmdEventsJournalFull, fCmdEventsSuspended]

/-- CMD_COUNTS (spec/16_command_interface.md). -/
def rCmdCounts : Nat := 0x1a0010
def fCmdCountsMalformed : Fld := ⟨0, 32, .rc, 0, false⟩
def fCmdCountsBar4Dropped : Fld := ⟨32, 32, .rc, 0, false⟩
/-- The fields of CMD_COUNTS. -/
def fsCmdCounts : List Fld := [fCmdCountsMalformed, fCmdCountsBar4Dropped]

/-- ICU_SRC (spec/17_mezzanine_interrupts.md). -/
def rIcuSrc (c n : Nat) : Nat := if n < 960 then 0x280000 + 8 * n else 0x290200 + 0x1000 * c + 8 * (n - 960)
def fIcuSrcPriority : Fld := ⟨0, 4, .ro, 0, false⟩
def fIcuSrcTarget : Fld := ⟨4, 4, .ro, 0, false⟩
def fIcuSrcEnable : Fld := ⟨8, 1, .rw, 0, true⟩
def fIcuSrcPending : Fld := ⟨9, 1, .ro, 0, false⟩
def fIcuSrcLine : Fld := ⟨10, 1, .ro, 0, false⟩
def fIcuSrcSoft : Fld := ⟨11, 1, .ro, 0, true⟩
def fIcuSrcSet : Fld := ⟨12, 1, .wo, 0, false⟩
def fIcuSrcClr : Fld := ⟨13, 1, .wo, 0, false⟩
def fIcuSrcActive : Fld := ⟨14, 1, .ro, 0, false⟩
def fIcuSrcActiveCore : Fld := ⟨16, 4, .ro, 0, false⟩
/-- The fields of ICU_SRC. -/
def fsIcuSrc : List Fld := [fIcuSrcPriority, fIcuSrcTarget, fIcuSrcEnable, fIcuSrcPending, fIcuSrcLine, fIcuSrcSoft, fIcuSrcSet, fIcuSrcClr, fIcuSrcActive, fIcuSrcActiveCore]

/-- ICU_CLAIM (spec/17_mezzanine_interrupts.md). -/
def rIcuClaim (c : Nat) : Nat := 0x290000 + 0x1000 * c + 0x0
def fIcuClaimId : Fld := ⟨0, 10, .ro, 0, false⟩
/-- The fields of ICU_CLAIM. -/
def fsIcuClaim : List Fld := [fIcuClaimId]

/-- ICU_COMPLETE (spec/17_mezzanine_interrupts.md). -/
def rIcuComplete (c : Nat) : Nat := 0x290000 + 0x1000 * c + 0x8
def fIcuCompleteId : Fld := ⟨0, 10, .wo, 0, false⟩
/-- The fields of ICU_COMPLETE. -/
def fsIcuComplete : List Fld := [fIcuCompleteId]

/-- ICU_THRESHOLD (spec/17_mezzanine_interrupts.md). -/
def rIcuThreshold (c : Nat) : Nat := 0x290000 + 0x1000 * c + 0x10
def fIcuThresholdThreshold : Fld := ⟨0, 4, .rw, 0xF, false⟩
/-- The fields of ICU_THRESHOLD. -/
def fsIcuThreshold : List Fld := [fIcuThresholdThreshold]

/-- ICU_CORE_STATUS (spec/17_mezzanine_interrupts.md). -/
def rIcuCoreStatus (c : Nat) : Nat := 0x290000 + 0x1000 * c + 0x18
def fIcuCoreStatusLevel : Fld := ⟨0, 4, .ro, 0, false⟩
def fIcuCoreStatusDepth : Fld := ⟨4, 4, .ro, 0, false⟩
def fIcuCoreStatusRaised : Fld := ⟨8, 1, .ro, 0, false⟩
/-- The fields of ICU_CORE_STATUS. -/
def fsIcuCoreStatus : List Fld := [fIcuCoreStatusLevel, fIcuCoreStatusDepth, fIcuCoreStatusRaised]

/-- ICU_CORE_COUNTS (spec/17_mezzanine_interrupts.md). -/
def rIcuCoreCounts (c : Nat) : Nat := 0x290000 + 0x1000 * c + 0x20
def fIcuCoreCountsSpurious : Fld := ⟨0, 32, .rc, 0, false⟩
def fIcuCoreCountsStray : Fld := ⟨32, 32, .rc, 0, false⟩
/-- The fields of ICU_CORE_COUNTS. -/
def fsIcuCoreCounts : List Fld := [fIcuCoreCountsSpurious, fIcuCoreCountsStray]

/-- MEZ_CTL (spec/17_mezzanine_interrupts.md). -/
def rMezCtl : Nat := 0x200000
def fMezCtlWdogPeriod : Fld := ⟨0, 32, .rw, 0x0016E360, true⟩
def fMezCtlAutoRetire : Fld := ⟨32, 1, .rw, 1, true⟩
/-- The fields of MEZ_CTL. -/
def fsMezCtl : List Fld := [fMezCtlWdogPeriod, fMezCtlAutoRetire]

/-- MEZ_STATUS (spec/17_mezzanine_interrupts.md). -/
def rMezStatus : Nat := 0x200008
def fMezStatusWorking : Fld := ⟨0, 16, .ro, 0, true⟩
def fMezStatusRetired : Fld := ⟨16, 16, .ro, 0, true⟩
def fMezStatusBoot : Fld := ⟨32, 4, .ro, 0, true⟩
def fMezStatusSharedL2 : Fld := ⟨36, 1, .ro, 0, false⟩
/-- The fields of MEZ_STATUS. -/
def fsMezStatus : List Fld := [fMezStatusWorking, fMezStatusRetired, fMezStatusBoot, fMezStatusSharedL2]

/-- MEZ_EVENTS (spec/17_mezzanine_interrupts.md). -/
def rMezEvents : Nat := 0x200010
def fMezEventsWdog : Fld := ⟨0, 1, .w1c, 0, false⟩
def fMezEventsRetired : Fld := ⟨1, 1, .w1c, 0, false⟩
def fMezEventsRefused : Fld := ⟨2, 1, .w1c, 0, false⟩
def fMezEventsCacheUe : Fld := ⟨3, 1, .w1c, 0, false⟩
/-- The fields of MEZ_EVENTS. -/
def fsMezEvents : List Fld := [fMezEventsWdog, fMezEventsRetired, fMezEventsRefused, fMezEventsCacheUe]

/-- MEZ_FW (spec/17_mezzanine_interrupts.md). -/
def rMezFw : Nat := 0x200018
def fMezFwActive : Fld := ⟨0, 1, .ro, 0, true⟩
def fMezFwFallback : Fld := ⟨1, 1, .ro, 0, true⟩
def fMezFwStateA : Fld := ⟨2, 2, .ro, 0, true⟩
def fMezFwStateB : Fld := ⟨4, 2, .ro, 0, true⟩
def fMezFwVersion : Fld := ⟨32, 32, .ro, 0, true⟩
/-- The fields of MEZ_FW. -/
def fsMezFw : List Fld := [fMezFwActive, fMezFwFallback, fMezFwStateA, fMezFwStateB, fMezFwVersion]

/-- MEZ_FW_CONFIRM (spec/17_mezzanine_interrupts.md). -/
def rMezFwConfirm : Nat := 0x200020
def fMezFwConfirmConfirm : Fld := ⟨0, 1, .wo, 0, false⟩
def fMezFwConfirmFloor : Fld := ⟨32, 32, .ro, 0, true⟩
/-- The fields of MEZ_FW_CONFIRM. -/
def fsMezFwConfirm : List Fld := [fMezFwConfirmConfirm, fMezFwConfirmFloor]

/-- MEZ_CORE_CTL (spec/17_mezzanine_interrupts.md). -/
def rMezCoreCtl (c : Nat) : Nat := 0x200100 + 0x10 * c
def fMezCoreCtlKick : Fld := ⟨0, 1, .wo, 0, false⟩
def fMezCoreCtlRetire : Fld := ⟨1, 1, .wo, 0, false⟩
/-- The fields of MEZ_CORE_CTL. -/
def fsMezCoreCtl : List Fld := [fMezCoreCtlKick, fMezCoreCtlRetire]

/-- MEZ_CORE_STATUS (spec/17_mezzanine_interrupts.md). -/
def rMezCoreStatus (c : Nat) : Nat := 0x200108 + 0x10 * c
def fMezCoreStatusState : Fld := ⟨0, 2, .ro, 0, true⟩
def fMezCoreStatusCacheCe : Fld := ⟨2, 1, .w1c, 0, false⟩
def fMezCoreStatusCacheUe : Fld := ⟨3, 1, .w1c, 0, false⟩
def fMezCoreStatusCeCount : Fld := ⟨16, 16, .rc, 0, false⟩
/-- The fields of MEZ_CORE_STATUS. -/
def fsMezCoreStatus : List Fld := [fMezCoreStatusState, fMezCoreStatusCacheCe, fMezCoreStatusCacheUe, fMezCoreStatusCeCount]

/-- LNT_STATUS (spec/18_power_clocks_reset.md). -/
def rLntStatus : Nat := 0x0
def fLntStatusStage : Fld := ⟨0, 4, .ro, 0, false⟩
def fLntStatusLevel : Fld := ⟨4, 2, .ro, 0, false⟩
def fLntStatusCause : Fld := ⟨6, 4, .ro, 0, true⟩
def fLntStatusOsc : Fld := ⟨10, 1, .ro, 0, false⟩
def fLntStatusWarmCount : Fld := ⟨32, 32, .ro, 0, true⟩
/-- The fields of LNT_STATUS. -/
def fsLntStatus : List Fld := [fLntStatusStage, fLntStatusLevel, fLntStatusCause, fLntStatusOsc, fLntStatusWarmCount]

/-- LNT_EVENTS (spec/18_power_clocks_reset.md). -/
def rLntEvents : Nat := 0x8
def fLntEventsWarmDone : Fld := ⟨0, 1, .w1c, 0, false⟩
def fLntEventsDomain : Fld := ⟨1, 1, .w1c, 0, false⟩
def fLntEventsThermal : Fld := ⟨2, 1, .w1c, 0, false⟩
def fLntEventsRefused : Fld := ⟨3, 1, .w1c, 0, false⟩
/-- The fields of LNT_EVENTS. -/
def fsLntEvents : List Fld := [fLntEventsWarmDone, fLntEventsDomain, fLntEventsThermal, fLntEventsRefused]

/-- LNT_RESET (spec/18_power_clocks_reset.md). -/
def rLntReset : Nat := 0x10
def fLntResetCold : Fld := ⟨0, 1, .wo, 0, false⟩
def fLntResetWarm : Fld := ⟨1, 1, .wo, 0, false⟩
def fLntResetShutdown : Fld := ⟨2, 1, .wo, 0, false⟩
/-- The fields of LNT_RESET. -/
def fsLntReset : List Fld := [fLntResetCold, fLntResetWarm, fLntResetShutdown]

/-- LNT_WDOG (spec/18_power_clocks_reset.md). -/
def rLntWdog : Nat := 0x18
def fLntWdogPeriod : Fld := ⟨0, 32, .rw, 0x017D7840, true⟩
def fLntWdogEnable : Fld := ⟨32, 1, .rw, 1, true⟩
def fLntWdogKick : Fld := ⟨33, 1, .wo, 0, false⟩
/-- The fields of LNT_WDOG. -/
def fsLntWdog : List Fld := [fLntWdogPeriod, fLntWdogEnable, fLntWdogKick]

/-- LNT_DOMAIN_STATUS (spec/18_power_clocks_reset.md). -/
def rLntDomainStatus : Nat := 0x20
def fLntDomainStatusPowered : Fld := ⟨0, 24, .ro, 0, false⟩
def fLntDomainStatusFault : Fld := ⟨32, 24, .w1c, 0, false⟩
/-- The fields of LNT_DOMAIN_STATUS. -/
def fsLntDomainStatus : List Fld := [fLntDomainStatusPowered, fLntDomainStatusFault]

/-- LNT_DOMAIN_CTL (spec/18_power_clocks_reset.md). -/
def rLntDomainCtl : Nat := 0x28
def fLntDomainCtlDomain : Fld := ⟨0, 5, .rw, 0, false⟩
def fLntDomainCtlReset : Fld := ⟨8, 1, .wo, 0, false⟩
/-- The fields of LNT_DOMAIN_CTL. -/
def fsLntDomainCtl : List Fld := [fLntDomainCtlDomain, fLntDomainCtlReset]

/-- FLT_PWR_STATUS (spec/18_power_clocks_reset.md). -/
def rFltPwrStatus (f : Nat) : Nat := 0x1080000 + 0x100000 * f + 0x0
def fFltPwrStatusState : Fld := ⟨0, 3, .ro, 0, false⟩
def fFltPwrStatusHalf : Fld := ⟨3, 1, .ro, 0, false⟩
def fFltPwrStatusWakes : Fld := ⟨8, 32, .ro, 0, true⟩
/-- The fields of FLT_PWR_STATUS. -/
def fsFltPwrStatus : List Fld := [fFltPwrStatusState, fFltPwrStatusHalf, fFltPwrStatusWakes]

/-- FLT_PLL_CTL (spec/18_power_clocks_reset.md). -/
def rFltPllCtl (f : Nat) : Nat := 0x1080000 + 0x100000 * f + 0x8
def fFltPllCtlLocked : Fld := ⟨0, 1, .ro, 0, false⟩
def fFltPllCtlLockUs : Fld := ⟨16, 16, .ro, 0, false⟩
/-- The fields of FLT_PLL_CTL. -/
def fsFltPllCtl : List Fld := [fFltPllCtlLocked, fFltPllCtlLockUs]

/-- FLT_ISOLATE (spec/19_integrity_repair.md). -/
def rFltIsolate (f : Nat) : Nat := 0x1080000 + 0x100000 * f + 0x10
def fFltIsolateIsolate : Fld := ⟨0, 1, .rw, 0, true⟩
def fFltIsolateForce : Fld := ⟨1, 1, .wo, 0, false⟩
def fFltIsolateThresh : Fld := ⟨8, 4, .rw, 2, true⟩
/-- The fields of FLT_ISOLATE. -/
def fsFltIsolate : List Fld := [fFltIsolateIsolate, fFltIsolateForce, fFltIsolateThresh]

/-- FLT_ERR (spec/19_integrity_repair.md). -/
def rFltErr (f : Nat) : Nat := 0x1080000 + 0x100000 * f + 0x18
def fFltErrGalleryCe : Fld := ⟨0, 1, .w1c, 0, false⟩
def fFltErrGalleryUe : Fld := ⟨1, 1, .w1c, 0, false⟩
def fFltErrAuto : Fld := ⟨2, 1, .w1c, 0, false⟩
def fFltErrCeCount : Fld := ⟨16, 16, .rc, 0, false⟩
/-- The fields of FLT_ERR. -/
def fsFltErr : List Fld := [fFltErrGalleryCe, fFltErrGalleryUe, fFltErrAuto, fFltErrCeCount]

/-- LNT_SELFTEST_CTL (spec/19_integrity_repair.md). -/
def rLntSelftestCtl : Nat := 0x40
def fLntSelftestCtlBudget : Fld := ⟨0, 14, .rw, 250, true⟩
def fLntSelftestCtlSlice : Fld := ⟨16, 7, .rw, 0, false⟩
def fLntSelftestCtlRun : Fld := ⟨23, 1, .wo, 0, false⟩
/-- The fields of LNT_SELFTEST_CTL. -/
def fsLntSelftestCtl : List Fld := [fLntSelftestCtlBudget, fLntSelftestCtlSlice, fLntSelftestCtlRun]

/-- LNT_SELFTEST_STATUS (spec/19_integrity_repair.md). -/
def rLntSelftestStatus : Nat := 0x48
def fLntSelftestStatusBusy : Fld := ⟨0, 1, .ro, 0, false⟩
def fLntSelftestStatusResult : Fld := ⟨1, 3, .ro, 0, true⟩
def fLntSelftestStatusSlice : Fld := ⟨4, 7, .ro, 0, true⟩
def fLntSelftestStatusRuns : Fld := ⟨32, 32, .ro, 0, true⟩
/-- The fields of LNT_SELFTEST_STATUS. -/
def fsLntSelftestStatus : List Fld := [fLntSelftestStatusBusy, fLntSelftestStatusResult, fLntSelftestStatusSlice, fLntSelftestStatusRuns]

/-- LNT_REPAIR_STATUS (spec/19_integrity_repair.md). -/
def rLntRepairStatus : Nat := 0x50
def fLntRepairStatusUsed : Fld := ⟨0, 13, .ro, 0, true⟩
def fLntRepairStatusPending : Fld := ⟨16, 13, .ro, 0, true⟩
def fLntRepairStatusExhausted : Fld := ⟨32, 13, .ro, 0, true⟩
/-- The fields of LNT_REPAIR_STATUS. -/
def fsLntRepairStatus : List Fld := [fLntRepairStatusUsed, fLntRepairStatusPending, fLntRepairStatusExhausted]

/-- LNT_BLOCK_ISOLATE (spec/19_integrity_repair.md). -/
def rLntBlockIsolate : Nat := 0x58
def fLntBlockIsolateBlocks : Fld := ⟨0, 8, .rw, 0, true⟩
/-- The fields of LNT_BLOCK_ISOLATE. -/
def fsLntBlockIsolate : List Fld := [fLntBlockIsolateBlocks]

/-- LNT_INTEG_EVENTS (spec/19_integrity_repair.md). -/
def rLntIntegEvents : Nat := 0x60
def fLntIntegEventsStoreFull : Fld := ⟨0, 1, .w1c, 0, false⟩
def fLntIntegEventsRecordBad : Fld := ⟨1, 1, .w1c, 0, false⟩
def fLntIntegEventsTestDone : Fld := ⟨2, 1, .w1c, 0, false⟩
def fLntIntegEventsRefused : Fld := ⟨3, 1, .w1c, 0, false⟩
def fLntIntegEventsBlock : Fld := ⟨4, 1, .w1c, 0, false⟩
/-- The fields of LNT_INTEG_EVENTS. -/
def fsLntIntegEvents : List Fld := [fLntIntegEventsStoreFull, fLntIntegEventsRecordBad, fLntIntegEventsTestDone, fLntIntegEventsRefused, fLntIntegEventsBlock]

/-- LNT_PRESENCE (spec/20_security_presence.md). -/
def rLntPresence : Nat := 0x80
def fLntPresencePin : Fld := ⟨0, 1, .ro, 0, false⟩
def fLntPresenceOpen : Fld := ⟨1, 1, .ro, 0, true⟩
def fLntPresenceTransient : Fld := ⟨2, 1, .ro, 0, true⟩
def fLntPresenceDebug : Fld := ⟨3, 1, .ro, 0, false⟩
def fLntPresenceRemainMs : Fld := ⟨8, 24, .ro, 0, true⟩
def fLntPresenceAssertions : Fld := ⟨32, 32, .ro, 0, true⟩
/-- The fields of LNT_PRESENCE. -/
def fsLntPresence : List Fld := [fLntPresencePin, fLntPresenceOpen, fLntPresenceTransient, fLntPresenceDebug, fLntPresenceRemainMs, fLntPresenceAssertions]

/-- LNT_KEY_STATUS (spec/20_security_presence.md). -/
def rLntKeyStatus : Nat := 0x88
def fLntKeyStatusEnrolled : Fld := ⟨0, 16, .ro, 0, true⟩
def fLntKeyStatusUseFw : Fld := ⟨16, 16, .ro, 0, true⟩
def fLntKeyStatusUseStruct : Fld := ⟨32, 16, .ro, 0, true⟩
/-- The fields of LNT_KEY_STATUS. -/
def fsLntKeyStatus : List Fld := [fLntKeyStatusEnrolled, fLntKeyStatusUseFw, fLntKeyStatusUseStruct]

/-- LNT_SEC_EVENTS (spec/20_security_presence.md). -/
def rLntSecEvents : Nat := 0x90
def fLntSecEventsOpened : Fld := ⟨0, 1, .w1c, 0, false⟩
def fLntSecEventsKeys : Fld := ⟨1, 1, .w1c, 0, false⟩
def fLntSecEventsDebug : Fld := ⟨2, 1, .w1c, 0, false⟩
/-- The fields of LNT_SEC_EVENTS. -/
def fsLntSecEvents : List Fld := [fLntSecEventsOpened, fLntSecEventsKeys, fLntSecEventsDebug]

/-- LNT_THERM (spec/21_package_signals.md). -/
def rLntTherm : Nat := 0xa0
def fLntThermStorey0 : Fld := ⟨0, 8, .ro, 0, false⟩
def fLntThermStorey1 : Fld := ⟨8, 8, .ro, 0, false⟩
def fLntThermStorey2 : Fld := ⟨16, 8, .ro, 0, false⟩
def fLntThermStorey3 : Fld := ⟨24, 8, .ro, 0, false⟩
def fLntThermAtrium : Fld := ⟨32, 8, .ro, 0, false⟩
def fLntThermPhotonic : Fld := ⟨40, 8, .ro, 0, false⟩
def fLntThermCrit : Fld := ⟨48, 1, .ro, 0, false⟩
def fLntThermVidFail : Fld := ⟨49, 1, .ro, 0, false⟩
/-- The fields of LNT_THERM. -/
def fsLntTherm : List Fld := [fLntThermStorey0, fLntThermStorey1, fLntThermStorey2, fLntThermStorey3, fLntThermAtrium, fLntThermPhotonic, fLntThermCrit, fLntThermVidFail]

/-- CMD_CTR (spec/22_counters_index.md). -/
def rCmdCtr (h k : Nat) : Nat := 0x108000 + 0x10000 * h + k
def fCmdCtrCount : Fld := ⟨0, 64, .ro, 0, true⟩
/-- The fields of CMD_CTR. -/
def fsCmdCtr : List Fld := [fCmdCtrCount]

/-- CMD_CTR_FPFLAGS (spec/22_counters_index.md). -/
def rCmdCtrFpflags (h : Nat) : Nat := 0x108020 + 0x10000 * h
def fCmdCtrFpflagsInvalid : Fld := ⟨0, 1, .w1c, 0, true⟩
def fCmdCtrFpflagsDivzero : Fld := ⟨1, 1, .w1c, 0, true⟩
def fCmdCtrFpflagsOverflow : Fld := ⟨2, 1, .w1c, 0, true⟩
def fCmdCtrFpflagsUnderflow : Fld := ⟨3, 1, .w1c, 0, true⟩
def fCmdCtrFpflagsInexact : Fld := ⟨4, 1, .w1c, 0, true⟩
/-- The fields of CMD_CTR_FPFLAGS. -/
def fsCmdCtrFpflags : List Fld := [fCmdCtrFpflagsInvalid, fCmdCtrFpflagsDivzero, fCmdCtrFpflagsOverflow, fCmdCtrFpflagsUnderflow, fCmdCtrFpflagsInexact]

/-- TRD_STALL (spec/22_counters_index.md). -/
def rTrdStall (t e c : Nat) : Nat := 0x1000100 + 0x100000 * (t / 8) + 0x10000 * (t % 8) + 8 * (8 * e + c)
def fTrdStallCycles : Fld := ⟨0, 64, .ro, 0, false⟩
/-- The fields of TRD_STALL. -/
def fsTrdStall : List Fld := [fTrdStallCycles]

/-- A register with no fields of its own: the DLV_CTX_WIN words, and the DMI window (R350 table of the delivery
chapter, R575). All 64 bits read and write. -/
def fPlain : Fld := ⟨0, 64, .rw, 0, false⟩
/-- DLV_CTX_WIN word k (spec/13_oriel_delivery.md). -/
def rDlvCtxWin (k : Nat) : Nat := 0x480040 + 8 * k
/-- The debug module's register at DMI address a (R575). -/
def rDmi (a : Nat) : Nat := 0x240000 + 8 * a

/-- The counter offsets of a hall's counter block that are 64-bit counters (R608, R614). -/
def ctrOffs : List Nat :=
  [0x000, 0x008, 0x010, 0x018, 0x028, 0x030, 0x038, 0x040, 0x048, 0x050, 0x058, 0x060, 0x068, 0x070, 0x078, 0x080,
   0x088, 0x090, 0x098, 0x0A0, 0x0A8, 0x0B0, 0x0B8, 0x0C0, 0x0C8, 0x0D0]

/-- The stall causes each engine counts: cause → engines (R611). -/
def stallEngine (e c : Nat) : Bool :=
  match c with
  | 0 => e = 0 | 1 => e = 1 | 2 => e = 0 | 3 => e = 0 | 4 => e = 2 | 5 => e = 1 | 6 => e ≤ 2 | _ => false

/-- Pick the entry of a numbered list of field lists. -/
def fieldsNth (l : List (List Fld)) (i : Nat) : List Fld := (l[i]?).getD []

/-- Fields of a register in the command block, at offset `o` from CMD (R608, R471, R465). -/
def cmdFields (o : Nat) : List Fld :=
  if 0xA0000 ≤ o then
    fieldsNth [fsCmdBar4Base, fsCmdEvents, fsCmdCounts] ((o - 0xA0000) / 8)
  else
    let s := o / 0x10000
    let r := o % 0x10000
    if r < 0x1000 then
      if 8 < s || (s = 8 && 0x200 ≤ r) then []
      else fieldsNth [fsCmdSq, fsCmdCq, fsCmdQCtl, fsCmdQStatus, fsCmdQSeq] (r % 0x40 / 8)
    else if s < 8 && 0x8000 ≤ r && r < 0x8200 then
      let k := r - 0x8000
      if k = 0x20 then fsCmdCtrFpflags
      else if ctrOffs.contains k then fsCmdCtr
      else if 0x100 ≤ k && k < 0x178 then fsCmdCtr
      else if 0x180 ≤ k && k < 0x1B8 then fsCmdCtr
      else []
    else []

/-- Fields of a register in a flight's span, at offset `o` from the flight's base (R614, R618). -/
def flightFields (o : Nat) : List Fld :=
  if 0x80000 ≤ o then fieldsNth [fsFltPwrStatus, fsFltPllCtl, fsFltIsolate, fsFltErr] ((o - 0x80000) / 8)
  else
    let r := o % 0x10000
    if r < 0x28 then fieldsNth [fsTrdId, fsTrdStatus, fsTrdIsolate, fsTrdFtab, fsTrdErr] (r / 8)
    else if 0x100 ≤ r && r < 0x1C0 then
      let k := (r - 0x100) / 8
      if stallEngine (k / 8) (k % 8) then fsTrdStall else []
    else []

/-- Fields of the Undercroft block. -/
def undFields (o : Nat) : List Fld :=
  if o < 0x20 then fieldsNth [fsUndStatus, fsUndEvents, fsUndRebuild, fsUndReserve] (o / 8)
  else if 0x100 ≤ o && o < 0x700 then
    fieldsNth [fsUndChanStatus, fsUndChanCtl, fsUndChanErr, fsUndChanErraddr] ((o - 0x100) % 0x40 / 8)
  else if 0x800 ≤ o && o < 0x900 then
    fieldsNth [fsUndHallLocal, fsUndHallHost, fsUndHallPool] ((o - 0x800) % 0x20 / 8)
  else if 0xC00 ≤ o && o < 0xE00 then
    if (o - 0xC00) % 0x40 < 0x20 then fsUndXtabSlot else []
  else []

/-- Shared interrupt sources that R504 lists. -/
def srcShared (n : Nat) : Bool :=
  (1 ≤ n && n ≤ 9) || (16 ≤ n && n ≤ 31) || (32 ≤ n && n ≤ 47) || (64 ≤ n && n ≤ 72) || (128 ≤ n && n ≤ 191)

/-- Fields of the interrupt controller block. -/
def icuFields (o : Nat) : List Fld :=
  if o < 0x10000 then
    if srcShared (o / 8) && o / 8 < 960 then fsIcuSrc else []
  else
    let r := (o - 0x10000) % 0x1000
    if r < 0x28 then
      fieldsNth [fsIcuClaim, fsIcuComplete, fsIcuThreshold, fsIcuCoreStatus, fsIcuCoreCounts] (r / 8)
    else if 0x200 ≤ r && r < 0x210 then fsIcuSrc
    else []

/-- The fields of the register at a BAR0 offset that is a multiple of 8; none for an unimplemented address (R12,
R618). -/
def regFields (o : Nat) : List Fld :=
  if o < 0x1000 then
    if o < 0x30 then
      fieldsNth [fsLntStatus, fsLntEvents, fsLntReset, fsLntWdog, fsLntDomainStatus, fsLntDomainCtl] (o / 8)
    else if 0x40 ≤ o && o < 0x68 then
      fieldsNth [fsLntSelftestCtl, fsLntSelftestStatus, fsLntRepairStatus, fsLntBlockIsolate, fsLntIntegEvents]
        ((o - 0x40) / 8)
    else if 0x80 ≤ o && o < 0x98 then fieldsNth [fsLntPresence, fsLntKeyStatus, fsLntSecEvents] ((o - 0x80) / 8)
    else if o = 0xA0 then fsLntTherm
    else []
  else if 0x100000 ≤ o && o < 0x1B0000 then cmdFields (o - 0x100000)
  else if 0x200000 ≤ o && o < 0x250000 then
    let r := o - 0x200000
    if r < 0x28 then fieldsNth [fsMezCtl, fsMezStatus, fsMezEvents, fsMezFw, fsMezFwConfirm] (r / 8)
    else if 0x100 ≤ r && r < 0x200 then fieldsNth [fsMezCoreCtl, fsMezCoreStatus] (r % 0x10 / 8)
    else if 0x40000 ≤ r then [fPlain]
    else []
  else if 0x280000 ≤ o && o < 0x2A0000 then icuFields (o - 0x280000)
  else if 0x300000 ≤ o && o < 0x301000 then undFields (o - 0x300000)
  else if 0x400000 ≤ o && o < 0x401000 then
    let r := o - 0x400000
    if r < 0x18 then fieldsNth [fsOrlDevice, fsOrlEvents, fsOrlFwdCtl] (r / 8)
    else if 0x100 ≤ r && r < 0x320 then fieldsNth [fsOrlPortCtl, fsOrlPortStatus] (r % 0x10 / 8)
    else if 0x400 ≤ r && r < 0x428 then fsOrlLaser
    else []
  else if 0x480000 ≤ o && o < 0x481000 then
    let r := o - 0x480000
    if r < 0x20 then fieldsNth [fsDlvCtxCtl, fsDlvTimers, fsDlvEvents, fsDlvCounts] (r / 8)
    else if 0x40 ≤ r && r < 0x80 then [fPlain]
    else []
  else if 0x500100 ≤ o && o < 0x500300 then
    fieldsNth [fsClsHallEpoch, fsClsHallCommit, fsClsHallCtl, fsClsHallEvents] ((o - 0x500100) % 0x40 / 8)
  else if 0x600000 ≤ o && o < 0x601000 then
    let r := o - 0x600000
    if r < 0x10 then fieldsNth [fsFoyStatus, fsFoyEvents] (r / 8)
    else if 0x100 ≤ r && r < 0x140 then fsFoyHallDict
    else []
  else if 0x700000 ≤ o && o < 0x701000 then
    fieldsNth [fsFrzStatus, fsFrzEvents, fsFrzCtxSel, fsFrzCtxStatus, fsFrzCtxOut] ((o - 0x700000) / 8)
  else if 0x800000 ≤ o && o < 0x809000 then
    let r := (o - 0x800000) % 0x1000
    if r < 0x58 then
      fieldsNth [fsXfmCtl, fsXfmStatus, fsXfmStageSel, fsXfmStageData, fsXfmStageBulkAddr, fsXfmStageBulkCtl,
        fsXfmFail, fsXfmGen, fsXfmTimeout, fsXfmEvents, fsXfmCounts] (r / 8)
    else if 0x808000 ≤ o && 0x100 ≤ r && r < 0x118 then
      fieldsNth [fsXfmSlot, fsXfmSlotConfirm, fsXfmSerialFloor] ((r - 0x100) / 8)
    else []
  else if 0x1000000 ≤ o && o < 0x2000000 then
    let r := (o - 0x1000000) % 0x100000
    if r < 0x80020 then flightFields r else []
  else []

/-- The value a field list gives at reset. -/
def fieldsReset (fs : List Fld) : Nat := fs.foldl (fun v f => v + (f.rst % 2 ^ f.w) * 2 ^ f.lo) 0

/-- The reset value of the register at a BAR0 offset: the Reset column; TRD_ID holds the unit numbers of R18, the
ROLE of ports 16 and 33 resets to 1, and key slot 0 leaves manufacture enrolled for firmware (R565). -/
def regReset (o : Nat) : DWord :=
  let v := fieldsReset (regFields o)
  if 0x1000000 ≤ o && o < 0x2000000 && (o - 0x1000000) % 0x10000 = 0 && (o - 0x1000000) % 0x100000 < 0x80000 then
    let f := (o - 0x1000000) / 0x100000
    let t := (o - 0x1000000) % 0x100000 / 0x10000
    BitVec.ofNat 64 (8 * f + t + t * 2 ^ 7 + f * 2 ^ 10)
  else if o = rOrlPortCtl 16 || o = rOrlPortCtl 33 then BitVec.ofNat 64 (v + 1)
  else if o = rLntKeyStatus then BitVec.ofNat 64 (1 + 2 ^ 16)
  else BitVec.ofNat 64 v

/-- The value a warm reset leaves in a register that holds `v`: kept fields keep, the others take their reset value. -/
def regWarm (o v : Nat) : Nat :=
  (regFields o).foldl (fun acc f => if f.kept then setBits acc f.lo f.w (bitsOf v f.lo f.w) else acc)
    (regReset o).toNat

end Sys2Proof.Machine
end

