-- ==== Sys2Proof/Machine/State.lean ====
section
/-! DEFINITION. The state of the block: everything the spec gives the machine, as plain data, and the state after
reset. Registers live in one bank keyed by their BAR0 offset, memory in one sparse map over the device address space;
everything else in the structures below, each grouped by the chapter that names it. -/

namespace Sys2Proof.Machine

/-! ## Commands and queues (16_command_interface.md) -/

/-- Where a command stands: accepted, dispatched, ended (its outcome is known), recorded (its completion record is
journalled) (R477, R482, R483). -/
inductive CmdSt where
  | accepted | dispatched | ended | recorded
  deriving DecidableEq, Repr

/-- The private norm sums a command keeps until its completion (R192, R193). -/
structure NormAcc where
  sumsq : Nat := 0
  maxabs : Nat := 0
  trunc : Bool := false
  sat : Bool := false
  nan : Bool := false
  bad : Bool := false
  count : Nat := 0
  deriving DecidableEq, Repr

/-- An open multicast group: members, chunk blocks fetched and held, the flight of its buffer, and the blocks that each
member has received, by item (R169, R170). -/
structure Grp where
  size : Nat := 0
  fetched : Nat := 0
  held : Nat := 0
  flight : Nat := 0
  got : FMap Nat := []
  deriving DecidableEq, Repr

/-- What a dispatched command has under way: its items and the counter of R160 to R162, the byte ranges it reads and
writes, the copies of the records it runs under (R66), and the sums it holds until completion. -/
structure Job where
  /-- Work items, T of R160; for a copy, its destination units. -/
  total : Nat := 0
  /-- Next item the counter issues. -/
  next : Nat := 0
  /-- Abandoned items to issue again, before any new index (R162, R549). -/
  reissue : List Nat := []
  /-- Items whose last row has been drained. -/
  done : List Nat := []
  /-- Byte ranges of its reach that it reads and that it writes (R174, R208). -/
  reads : List (Nat × Nat) := []
  writes : List (Nat × Nat) := []
  /-- Gallery guards it holds, and sources it holds against writers (R277, R302, R307). -/
  guards : List (Nat × Nat) := []
  held : List (Nat × Nat) := []
  /-- Multicast groups by their first item (R170). -/
  grp : FMap Grp := []
  /-- The records it was dispatched under: descriptor or main record, and operand list or second record. -/
  rec1 : List Byte := []
  rec2 : List Byte := []
  /-- The scale entry it updates, the exponent used, the largest presented value and whether one was presented
  (R108). -/
  scale : Option Nat := none
  kOut : Int := 0
  kA : Int := 0
  kB : Int := 0
  amax : Nat := 0
  presented : Bool := false
  /-- The norm slot it adds to, and its private sums (R193). -/
  normAddr : Option Nat := none
  norm : NormAcc := {}
  /-- The same for the slots of an owner update: slot address and sums (R368). -/
  norms : List (Nat × NormAcc) := []
  /-- Code-table slots that its reach names, each followed by the blocks it queues there (R325). -/
  uses : List Nat := []
  /-- Numbers particular to the command's kind; each meaning says what it keeps here. -/
  aux : List Nat := []
  /-- Foyer groups of a batch, and those resolved (R423, R484). -/
  groups : Nat := 0
  groupsDone : List Nat := []
  /-- Slots of a batch that the Foyer engines have taken (R422). -/
  taken : List Nat := []
  /-- Bytes particular to the command's kind (rows of partial attention state, pages read out of order). -/
  buf : FMap (List Byte) := []
  deriving DecidableEq, Repr

/-- An accepted command: its journal record (R475, R477, R482). -/
structure Cmd where
  seq : Nat := 0
  slot : Nat := 0
  opcode : Nat := 0
  depMode : Nat := 0
  layer : Nat := 0xFFFF
  pass : Nat := 0
  depQueue : Nat := 0
  depGroup : Nat := 0
  depSeq : Nat := 0
  o0 : Nat := 0
  o1 : Nat := 0
  o2 : Nat := 0
  o3 : Nat := 0
  o4 : Nat := 0
  /-- Structure generation of its scope at acceptance (R67). -/
  gen : Nat := 0
  /-- Its place in the device-wide order of dispatches. -/
  order : Nat := 0
  st : CmdSt := .accepted
  code : Nat := 0
  check : Nat := 0
  extent : Nat := 0
  info : Nat := 0
  elapsed : Nat := 0
  job : Job := {}
  deriving DecidableEq, Repr

/-- A completion entry, less the PHASE it is given when written (R485). -/
structure Entry where
  seq : Nat := 0
  code : Nat := 0
  kind : Nat := 0
  sqHead : Nat := 0
  check : Nat := 0
  clock : Nat := 0
  elapsed : Nat := 0
  extent : Nat := 0
  info : Nat := 0
  /-- Written once already: repeated with the same bytes (R481). -/
  again : Bool := false
  deriving DecidableEq, Repr

/-- The retained outcome of a completed command (R480). -/
structure Kept where
  seq : Nat := 0
  opcode : Nat := 0
  code : Nat := 0
  /-- Foyer groups of a batch, and those resolved when it ended (R484). -/
  groups : Nat := 0
  groupsDone : List Nat := []
  deriving DecidableEq, Repr

/-- A queue beside its registers (R466, R470, R473, R474, R479, R480, R621, R622). -/
structure Queue where
  /-- The function it is bound to (R622): 0 PF 0, n VF n. -/
  fn : Nat := 0
  /-- The last submission tail written (R466). -/
  sqTail : Nat := 0
  /-- The last completion head written (R474). -/
  cqHead : Nat := 0
  /-- Whether its next entry sends an MSI-X message (R470). -/
  armed : Bool := true
  /-- Accepted commands whose final entry is not written: the journal records (R480). -/
  cmds : List Cmd := []
  /-- Retained outcomes, newest first (R480). -/
  kept : List Kept := []
  /-- Commands accepted since the last acceptance entry (R479). -/
  unreported : Nat := 0
  /-- Entries held until they can be written, in order (R481, R621). -/
  held : List Entry := []
  /-- Entries written in ring slots the head doorbell has not passed, oldest first (R481, R504 source 64 + s). -/
  unpassed : List (Nat × Entry) := []
  /-- A completion-entry write failed and RESTART has not come (R621). -/
  cqBroken : Bool := false
  deriving DecidableEq, Repr

/-! ## Structure transactions (02_structure_image.md) -/

/-- A structure transaction of one scope, beside its registers (R57 to R72). -/
structure Xfm where
  /-- Staged section copies by section key (R59). -/
  staged : FMap (List Byte) := []
  /-- Staged pseudo-items: ACTIVE_VARIANT, slot select, firmware slot select (R60). -/
  actVar : Option Nat := none
  slotSel : Option Nat := none
  fwSel : Option Nat := none
  /-- The pending commit waits for step boundaries (R65). -/
  atBoundary : Bool := false
  /-- Place in the order of commit requests (R72). -/
  order : Nat := 0
  /-- Halls that the commit touches, and those that have paused for it (R65, R70). -/
  touched : List Nat := []
  paused : List Nat := []
  /-- A bulk staged write in progress: address, length, CRC (R61). -/
  bulk : Option (Nat × Nat × Nat) := none
  /-- A validation in progress (R64), and whether it is the step-boundary form. -/
  validating : Bool := false
  /-- The image that a slot switch took at its request: it is the one checked and applied (R55). -/
  image : Option (List Byte) := none
  /-- An earlier commit has applied to a hall this one touches: it is validated again before it applies (R72). -/
  recheck : Bool := false
  deriving DecidableEq, Repr

/-! ## Treads (04_tread_engines.md, 05_loop_nests.md) -/

/-- A work item a tread holds: its command, its index, whether the vector engine runs it (R143, R210, R337), whether its
main pass has ended, the accumulator rows awaiting the drain and how many of them have been written (R111, R112, R160,
R623). -/
structure Held where
  cmd : CmdRef
  item : Nat
  vec : Bool := false
  ended : Bool := false
  rows : List (List (Option Acc)) := []
  written : Nat := 0
  /-- Values that left stage D5 of the rows written, and the best candidate of each for ARGMAX (R125, R212). -/
  d5 : List (List (Option FNum)) := []
  /-- Rows of an attention item: m, l and O (R240). -/
  att : List (List Nat) := []
  best : List (Option (Nat × Nat)) := []
  deriving DecidableEq, Repr

/-- A vector program on a tread (R138, R139): its command and item, its instructions and where it stands. -/
structure VProg where
  cmd : Option CmdRef := none
  item : Nat := 0
  words : List DWord := []
  pc : Nat := 0
  deriving DecidableEq, Repr

/-- One tread beside its registers (R21, R112, R138, R139, R279). -/
structure Tread where
  /-- Items held, oldest first (R163). -/
  held : List Held := []
  /-- The vector program it runs (R138, R139). -/
  prog : VProg := {}
  /-- Vector registers: lane l of V r at key 64 r + l, 32 bits each (R138). -/
  v : FMap Word := []
  /-- Scalar registers. -/
  s : FMap DWord := []
  /-- Mask registers M1 to M7; M0 reads all ones. -/
  m : FMap DWord := []
  /-- Rounding mode and flags of vector instructions (R138). -/
  vcsr : BitVec 8 := 0
  /-- Load/store issue queue and request slots (R279), and the requests already counted under R281. -/
  queue : List MemReq := []
  slots : List MemReq := []
  counted : List MemReq := []
  /-- Faults counted toward automatic isolation (R548). -/
  faults : Nat := 0
  /-- ISOLATE has returned to 0 while the tread still held work: it is zeroed and loaded before it takes more (R144). -/
  rejoin : Bool := false
  deriving DecidableEq, Repr

/-! ## The Undercroft (09_memory_tiers.md) -/

/-- The physical place of a relocated logical extent (R290, R294). -/
structure Place where
  chan : Nat := 0
  ext : Nat := 0
  split : Bool := false
  deriving DecidableEq, Repr

/-- A Gallery cache block: its command, its 4 KiB address, its valid sectors with their bytes, its dirty bit (R275,
R276). -/
structure CBlk where
  cmd : Option CmdRef := none
  base : Nat := 0
  data : FMap (List Byte) := []
  dirty : Bool := false
  deriving DecidableEq, Repr

/-- The Undercroft beside its registers. -/
structure Undercroft where
  /-- Relocation table: logical extent (channel · 4096 + extent) to its place (R267, R290). -/
  reloc : FMap Place := []
  /-- Class-S extents with no place (R290). -/
  unplaced : List Nat := []
  /-- Relocated class-S extents with the bursts already rewritten whole: all other bursts are lost (R292). -/
  lost : FMap (List Nat) := []
  /-- Class-M extents with one surviving copy only, for want of room (R294). -/
  single : List Nat := []
  /-- Class-M extents that have lost blocks in both copies: the primary's logical extent, the first block lost (R293). -/
  dead : List (Nat × Nat) := []
  /-- The channel that received the previous extent, for class M and for class S (R290). -/
  lastM : Nat := 23
  lastS : Nat := 23
  /-- Channels to rebuild with the SOURCE of their record, the one in progress first; the extents left of each; the next
  block of the extent in progress (R289, R291). -/
  rebuildQ : List (Nat × Nat) := []
  todo : FMap (List Nat) := []
  block : Nat := 0
  /-- Address ranges of new regions not yet zeroed: first byte, bytes (R269). -/
  zeroing : List (Nat × Nat) := []
  /-- Halls whose scale entries take LEN and MARGIN once the range that holds them has been zeroed (R181, R269). -/
  layersDue : List Nat := []
  /-- Channels held in self-refresh (R257). -/
  selfRefresh : List Nat := []
  /-- Die select last driven on each channel: DS and DSB (R259). -/
  ds : FMap (Nat × Bool) := []
  /-- Gallery cache blocks by flight, most recently used first (R275). -/
  gcache : FMap (List CBlk) := []
  /-- The 512 check bursts that the Undercroft keeps of each channel, by block of the channel, most recently used first
  (R263). -/
  checkCache : FMap (List Nat) := []
  /-- Mover requests that hold a slot (R282), and the hall after which the next grant looks. -/
  moverSlots : List MemReq := []
  moverLast : Nat := 7
  /-- Mover requests waiting for a slot (R282). -/
  moverWait : List MemReq := []
  deriving DecidableEq, Repr

/-! ## Integrity (19_integrity_repair.md) -/

/-- A repair record (R557); `bad` where its CRC fails. -/
structure Repair where
  kind : Nat := 0
  state : Nat := 0
  source : Nat := 0
  slice : Nat := 0
  sub : Nat := 0
  number : Nat := 0
  address : Nat := 0
  bit : Nat := 0xFFFF
  incarnation : Nat := 0
  count : Nat := 1
  bad : Bool := false
  deriving DecidableEq, Repr

/-- The last result of a slice's test (R560). -/
structure SliceRes where
  result : Nat := 0
  records : Nat := 0
  duration : Nat := 0
  cursor : Nat := 0
  deriving DecidableEq, Repr

/-- The repair-record store, the slice results and the self-test under way (R553 to R557). -/
structure Integ where
  records : List Repair := []
  nextNumber : Nat := 0
  results : FMap SliceRes := []
  /-- Incarnation of the last shut-down run. -/
  runInc : Nat := 0
  /-- Channel cursors, by channel (R554). -/
  cursors : FMap Nat := []
  /-- Slices still to test in the run under way, and those being tested (R553). -/
  waiting : List Nat := []
  testing : List Nat := []
  /-- Blocks 90 to 97 whose last in-service test passed. -/
  passed : List Nat := []
  /-- Gallery uncorrectable reads counted toward a flight's automatic isolation (R548). -/
  galleryFaults : FMap Nat := []
  deriving DecidableEq, Repr

/-! ## The Oriel (13_oriel_delivery.md) -/

/-- A port beside its registers (R386, R391, R392). -/
structure Port where
  /-- Link sequence numbers: next to send, next expected. -/
  txSeq : Nat := 0
  rxSeq : Nat := 0
  /-- Frames sent and not acknowledged, oldest first. -/
  replay : List (List Byte) := []
  /-- Credits held, and frame buffers freed but not yet returned, by virtual channel. -/
  credits : List Nat := [64, 64, 64, 64]
  owed : List Nat := [0, 0, 0, 0]
  /-- Segment frames received for this device that wait to be handled: virtual channel and segment. -/
  rx : List (Nat × List Byte) := []
  /-- Link-control frames received that wait to be handled. -/
  ctl : List (List Byte) := []
  /-- Link replays in a row without progress (R386). -/
  noProg : Nat := 0
  /-- Incarnation of the last HELLO (R393). -/
  peerInc : Nat := 0
  /-- QUIESCE sent; the port turns spare when its replay buffer is empty (R399). -/
  quiescing : Bool := false
  /-- The neighbour sent QUIESCE. -/
  peerQuiet : Bool := false
  /-- A light switch is under way (R387). -/
  switching : Bool := false
  deriving DecidableEq, Repr

/-- A laser-source module beside its register (R388, R389). -/
structure Laser where
  present : Bool := false
  /-- LS_EN is driven high. -/
  en : Bool := false
  /-- LS_FAULT_N is low. -/
  fault : Bool := false
  /-- Out of use until software writes RESTORE (R389). -/
  out : Bool := false
  deriving DecidableEq, Repr

/-- A segment that holds a sequence number and is not acknowledged (R405 to R409). -/
structure Seg where
  seq : Nat := 0
  stype : Nat := 0
  op : Nat := 0
  first : Bool := false
  last : Bool := false
  faddr : Nat := 0
  len : Nat := 0
  /-- Held source: device address of its payload, which `data` precedes and `pad` zero bytes follow. -/
  src : Option Nat := none
  pad : Nat := 0
  /-- Logged payload. -/
  data : List Byte := []
  cmd : Option CmdRef := none
  /-- Hall whose replay log holds it (R407). -/
  log : Option Nat := none
  sent : Bool := false
  deriving DecidableEq, Repr

/-- A read under way on a context: the command, the offset in it where the reply goes next, the bytes still to come
(R405). -/
structure Pull where
  cmd : CmdRef
  off : Nat := 0
  left : Nat := 0
  deriving DecidableEq, Repr

/-- A delivery context (R400) with what the engine keeps for it. -/
structure Ctx where
  st : Nat := 0
  hall : Nat := 0
  peer : Nat := 0
  peerCtx : Nat := 0
  localInc : Nat := 0
  peerInc : Nat := 0
  txNext : Nat := 0
  txAcked : Nat := 0
  rxNext : Nat := 0
  window : Nat := 0
  grant0 : Nat := 0
  grant1 : Nat := 0
  g0w : Bool := false
  g1w : Bool := false
  gallery : Bool := false
  retx : Nat := 0
  dups : Nat := 0
  cause : Nat := 0
  /-- Segments accepted and not acknowledged, in order. -/
  out : List Seg := []
  /-- Segments held for order, by sequence number (R410). -/
  reorder : FMap (List Byte) := []
  /-- Bytes of the message under way, and a whole message that waits for its engine (R405, R411). -/
  msg : List Byte := []
  whole : Option (List Byte) := none
  /-- Segments of a reduction message taken into `msg` and not delivered: all are once its blocks are done (R355). -/
  parts : Nat := 0
  /-- Reads under way, oldest first. -/
  pulls : List Pull := []
  /-- Next choice of the forward table (R396). -/
  choice : Nat := 0
  closeSent : Bool := false
  /-- An OPEN carried another incarnation (R403). -/
  otherInc : Bool := false
  /-- Deliveries since the last ack (R411). -/
  acksDue : Nat := 0
  /-- The peer's CLOSE has come to a closing context that has not sent its own (R404). -/
  peerClosed : Bool := false
  /-- Commands of the last acknowledged segments, for rejects that follow their ack (R411). -/
  past : List (Nat × CmdRef) := []
  deriving DecidableEq, Repr

/-- The Oriel and the delivery engine beside their registers. -/
structure Oriel where
  ports : FMap Port := []
  lasers : FMap Laser := []
  /-- Forward table by device number (R394); none is 0xFFFF_FFFF. -/
  fwd : FMap Nat := []
  /-- Spares that stand in for failed ports (R398). -/
  standIn : FMap Nat := []
  /-- Segments for other devices that wait for a credit: port in, virtual channel in, segment. -/
  through : List (Nat × Nat × List Byte) := []
  /-- Segments without a sequence number that wait for a credit (R406). -/
  outbox : List (List Byte) := []
  ctxs : FMap Ctx := []
  /-- Frames sent, newest first: port and 640 bytes. -/
  sent : List (Nat × List Byte) := []
  deriving DecidableEq, Repr

/-! ## Cloister (12_cloister_collectives.md) -/

/-- A member of a ring: device, LOST, delivery context (R343). -/
structure Member where
  dev : Nat := 0
  lost : Bool := false
  ctx : Nat := 0
  deriving DecidableEq, Repr

/-- A ring as its records give it (R343). -/
structure Ring where
  num : Nat := 0
  n : Nat := 0
  self : Nat := 0
  second : Nat := 0
  gen : Nat := 0
  reduce : Bool := false
  rotate : Bool := false
  commit : Bool := false
  mem : List Member := []
  deriving DecidableEq, Repr

/-- A collective of the step under way: its record, the ring it ran under, whether it runs (0), has completed or was
skipped (1) or failed (2), and its values for the commit (R358, R359, R373). Its retention lasts as long as this entry. -/
structure Coll where
  id : Nat := 0
  bytes : List Byte := []
  ring : Ring := {}
  st : Nat := 0
  maxExp : Int := -128
  rescales : Nat := 0
  /-- Shards of a lost owner whose figures a refetch has added (R358, R370). -/
  taken : List Nat := []
  deriving DecidableEq, Repr

/-- An owner update of the step under way: collective, shard, role, and whether it runs (0), succeeded (1) or failed (2)
(R373). -/
structure Upd where
  coll : Nat := 0
  shard : Nat := 0
  role : Nat := 0
  st : Nat := 0
  deriving DecidableEq, Repr

/-- What the Cloister keeps for a hall beside its registers. -/
structure Clo where
  colls : List Coll := []
  upds : List Upd := []
  /-- The journalled commit record and the epoch it was for (R374, R377). -/
  record : Option (Nat × List Byte) := none
  /-- A collect token that waits for this member to be ready (R374). -/
  token : Option (List Byte) := none
  /-- The lead position's abandon pass is under way (R376). -/
  abandoning : Bool := false
  deriving DecidableEq, Repr

/-! ## Foyer and Frieze (14_foyer_input.md, 15_frieze_video.md) -/

/-- What a decode context keeps of a picture whose record is written: STATE, size and depth (R448 to R450). -/
structure Pic where
  st : Nat := 0
  width : Nat := 0
  height : Nat := 0
  depth : Nat := 8
  deriving DecidableEq, Repr

/-- A stream context of the Frieze (R444 to R461), beside the registers that show it. -/
structure Stream where
  /-- 0 free, 1 open, 2 closing. -/
  st : Nat := 0
  hall : Nat := 0xF
  /-- The stream record. -/
  bytes : List Byte := []
  /-- Awaiting random access. -/
  wait : Bool := false
  nextRec : Nat := 0
  missing : Nat := 0
  releaseBelow : Nat := 0
  /-- Picture number that each frame-ring buffer holds. -/
  bufs : FMap Nat := []
  /-- Pictures with a record, by number. -/
  pics : FMap Pic := []
  /-- Pictures that wait for a pipe, in order: command, picture number, place in the order of arrival. -/
  todo : List (CmdRef × Nat × Nat) := []
  outWrite : Nat := 0
  outRead : Nat := 0
  /-- Buffer model: bits held for the next picture, times 90,000 · FPS_NUM (R458). -/
  level : Nat := 0
  /-- Pictures since the last intra random-access point; the next picture must be one. -/
  sinceRap : Nat := 0
  forceRap : Bool := true
  /-- Next input number of an encode context. -/
  nextIn : Nat := 0
  /-- Region tables that the Foyer passed, by picture; the last one read successfully for the stream (R432, R454). -/
  roi : FMap (List Byte) := []
  roiLast : List Byte := []
  /-- The random-access point that ended the last wait (R453). -/
  endRap : Option Nat := none
  deriving DecidableEq, Repr

/-- A pipe that holds a picture: context, command, picture number; for encode, intra random-access point, rows and bits
so far, the output-ring offset of its first byte, and the slice bytes not yet written (R443, R455 to R458). -/
structure Pipe where
  ctx : Nat := 0
  cmd : CmdRef
  pic : Nat := 0
  rap : Bool := false
  rows : Nat := 0
  bits : Nat := 0
  start : Nat := 0
  data : List Byte := []
  deriving DecidableEq, Repr

/-- The Frieze: contexts and pipes (0 to 7 decode, 8 and 9 encode). -/
structure Frieze where
  ctxs : FMap Stream := []
  pipes : FMap Pipe := []
  deriving DecidableEq, Repr

/-! ## Mezzanine (17_mezzanine_interrupts.md) -/

/-- A core: its registers under RV64GCV, its timer, its missed watchdog periods, and whether it runs (R493, R496, R501,
R502). Vector registers hold 256 bits as four 64-bit parts at key 4 n + i. -/
structure Core where
  pc : DWord := 0
  x : FMap DWord := []
  f : FMap DWord := []
  v : FMap DWord := []
  csr : FMap DWord := []
  /-- Privilege: 3 machine, 1 supervisor, 0 user. -/
  priv : Nat := 3
  mtime : DWord := 0
  mtimecmp : DWord := 0
  missed : Nat := 0
  deriving DecidableEq, Repr

/-- A 64-byte line of the coherent caches: its bytes, whether it is dirty, the core whose private caches hold it (R494,
R502). -/
structure CLine where
  data : List Byte := []
  dirty : Bool := false
  core : Nat := 0
  deriving DecidableEq, Repr

/-- The Mezzanine and the interrupt controller beside their registers. -/
structure Mez where
  cores : FMap Core := []
  /-- Cache lines by address ÷ 64. -/
  lines : FMap CLine := []
  /-- Registers of the debug module (R575). -/
  dmi : FMap Word := []
  /-- PRIORITY and TARGET that an active source was claimed under, by source (shared) or 1,024 · core + source (R511). -/
  claimed : FMap (Nat × Nat) := []
  deriving DecidableEq, Repr

/-! ## Lantern (18 to 21) -/

/-- A key: public key, identifier, use bits (R565). -/
structure Key where
  pub : List Byte := []
  ident : List Byte := []
  useStruct : Bool := false
  useFw : Bool := false
  /-- Ocbeken's firmware key, whose bytes the spec does not give. -/
  vendor : Bool := false
  deriving DecidableEq, Repr

/-- What the Lantern holds beside its registers. -/
structure Lantern where
  /-- Flash slots that hold bytes: 0 structure A, 1 structure B, 2 firmware A, 3 firmware B (R596). -/
  flash : FMap (List Byte) := []
  /-- Preferred slots (R52). -/
  prefImg : Nat := 0
  prefFw : Nat := 0
  /-- Signed manifest bytes of the running image and firmware (R584). -/
  imgManifest : List Byte := []
  fwManifest : List Byte := []
  /-- The firmware staging copy's image (R499). -/
  fwStaged : List Byte := []
  /-- Key slots; slot 0 leaves manufacture with Ocbeken's firmware key (R565). -/
  keys : FMap Key := [(0, { useFw := true, vendor := true })]
  transient : Option Key := none
  /-- The seal loop: LFSR, bit driven, mismatches in a row, matches in a row, armed; the record (R578, R579). -/
  lfsr : Nat := 0
  sealOut : Bool := false
  mism : Nat := 0
  matched : Nat := 0
  armed : Bool := true
  sealCount : Nat := 0
  sealFirst : Nat := 0
  sealLast : Nat := 0
  /-- SECURE_ERASE runs and the incarnation of the last (R576). -/
  eraseCount : Nat := 0
  eraseLast : Nat := 0
  /-- Debug was unlocked at some time since the last cold reset (R584). -/
  debugEver : Bool := false
  /-- Keys of the ENC regions, by region index (R581). -/
  smKeys : FMap (List DWord) := []
  /-- Held in reset: code on STAT[3:0] with FAULT_N low (R536). -/
  heldCode : Option Nat := none
  /-- Passing a warm reset's stages (R530, R535). -/
  warm : Bool := false
  /-- Held before bring-up until every die has cooled (R527). -/
  hot : Bool := false
  /-- Shut down: PWROFF_OK is high (R539); a shut-down run is under way (R553). -/
  off : Bool := false
  stopping : Bool := false
  /-- The Lantern rail is powered (R528, R604). -/
  railUp : Bool := true
  /-- Inputs: power-good, PERST#, cold reset. -/
  pgIo : Bool := false
  pgCore : Bool := false
  perst : Bool := true
  coldRst : Bool := false
  /-- Straps: PCIE_SRIS, SB_MODE, SB_ADDR; the levels on the lands and the values sampled (R593). -/
  strapPins : Nat := 0
  straps : Nat := 0
  /-- VOUT_COMMAND of VCORE in mV (R601). -/
  vout : Nat := 800
  /-- MCTP endpoint ID, PLDM terminus ID, and sensor readings as last refreshed; none where the source does not answer
  (R594, R615). -/
  eid : Nat := 0
  tid : Nat := 0
  sensors : FMap (Option Int) := []
  /-- Boundary-scan instruction register (R597): 0 BYPASS, 1 IDCODE, 2 SAMPLE/PRELOAD, 3 EXTEST, 4 EXTEST_PULSE,
  5 EXTEST_TRAIN, 6 CLAMP, 7 HIGHZ, 8 Test-Logic-Reset. -/
  tap : Nat := 8
  /-- The set point lies above 0.80 V and the regulator failed: every flight runs at 470 MHz (R601). -/
  vidHalf : Bool := false
  /-- The move of VCORE to the set point has ended (R601). -/
  vidDone : Bool := false
  deriving DecidableEq, Repr

/-- PCI Express (R463 to R468, R490, R537). -/
structure Pcie where
  /-- Configuration space answers. -/
  answers : Bool := false
  up : Bool := false
  /-- Bus Master Enable, ATS Enable of PF 0; SR-IOV; PF 0 in D3hot. -/
  busMaster : Bool := false
  ats : Bool := false
  sriov : Bool := false
  d3hot : Bool := false
  /-- Configuration dwords that software has written, by 1,024 · function + dword. -/
  cfg : FMap Word := []
  /-- Pages whose translation the device holds: function whose requester ID asked, address ÷ 4,096 (R255, R468). -/
  atc : List (Nat × Nat) := []
  /-- Page requests that wait for a response, by identifier (R468). -/
  pageReqs : FMap MemReq := []
  nextReq : Nat := 0
  deriving DecidableEq, Repr

/-! ## Halls -/

/-- What a hall owns beside its registers. -/
structure Hall where
  /-- Address of the installed cache record (R216). -/
  cache : Option Nat := none
  /-- The off-load count, 56 bits (R299). -/
  offloads : Nat := 0
  /-- Code tables loaded in the four slots (R324). -/
  xtabs : List (List Byte) := [[], [], [], []]
  /-- The learning datapath sleeps (R197). -/
  asleep : Bool := false
  /-- Tables that failed their CRC at load (R136). -/
  badTables : List Nat := []
  clo : Clo := {}
  /-- The dictionary in force, empty when none is loaded (R426). -/
  dict : List Byte := []
  /-- Its flights are to wake: an event of R521 has come, or a commit or bring-up adds flights (R73, R535). -/
  wake : Bool := false
  deriving DecidableEq, Repr

/-- The answer of the last command that answers: nothing, a register or configuration value of `size` bytes, all ones,
a byte string, or a retry status. -/
inductive Resp where
  | nothing
  | value (size v : Nat)
  | ones (size : Nat)
  | bytes (bs : List Byte)
  | retry
  deriving DecidableEq, Repr

/-- The state of the block. -/
structure State where
  /-- Commands waiting, first in first out. -/
  pending : List Instr := []
  /-- All registers, by BAR0 offset (R10, R618). -/
  regs : FMap DWord := []
  /-- Bytes by device address (R7). -/
  mem : FMap Byte := []
  /-- The answer of the last command that answers. -/
  resp : Resp := .nothing
  /-- The model's own counter that names the next free value. -/
  freeCtr : Nat := 0
  /-- Next place in the order of dispatches and of commit requests. -/
  clock : Nat := 0
  /-- The running structure: sections by key (R38). -/
  run : FMap (List Byte) := []
  /-- Structure transactions by scope (R57). -/
  xfm : FMap Xfm := []
  /-- Queues by 64 · scope + queue. -/
  queues : FMap Queue := []
  /-- MSI-X messages sent, newest first: function and vector (R470). -/
  msix : List (Nat × Nat) := []
  /-- MSI-X vectors that configuration software has masked: function and vector (R464, R470). -/
  msixMasked : List (Nat × Nat) := []
  /-- Treads by device-wide number. -/
  treads : FMap Tread := []
  /-- Halls by number. -/
  halls : FMap Hall := []
  und : Undercroft := {}
  /-- The media domain sleeps (R524). -/
  mediaAsleep : Bool := false
  integ : Integ := {}
  orl : Oriel := {}
  frz : Frieze := {}
  mez : Mez := {}
  lnt : Lantern := {}
  pci : Pcie := {}
  deriving DecidableEq, Repr

/-- Why the block stops. -/
inductive Fault where
  /-- A command names a unit outside the numbering of R18 (or a bit, scope, context or slot outside its range): no such
  unit exists. Raised by every meaning that takes a unit number. Safe. -/
  | noSuchUnit
  deriving DecidableEq, Repr

/-- Why the block has no meaning for a command. -/
inductive Refusal where
  /-- No meaning yet, by mnemonic. Raised by the dispatch alone. Safe. -/
  | notModelled (mnemonic : String)
  deriving DecidableEq, Repr

/-- The machine right after reset. -/
def State.reset : State := {}

end Sys2Proof.Machine
end

