-- ==== Sys2Proof/Config.lean ====
section
/-! DEFINITION. What the spec leaves open, as constants with no body: nothing can be proved of their values. Free values
are applied to the state's counter; functions of named standards (SM2, SM3, SM4) and numberings the spec does not give
are applied to their operands. -/

namespace Sys2Proof.Config

open Sys2Proof.Machine

/-- A fresh open value, by the state's counter (log 4). -/
opaque freeWord : Nat → DWord
/-- SM3 digest of a byte string, as 256 bits (R41, R42; GB/T 32905 by name only; log 5). -/
opaque sm3 : List Byte → BitVec 256
/-- SM2 verification: public key, distinguishing identifier, message, signature (R43; log 5). -/
opaque sm2Verify : List Byte → List Byte → List Byte → List Byte → Bool
/-- SM2 signature by the device identity key over a message; signing draws a random number, which the counter stands for
(R583; log 5). -/
opaque sm2Sign : Nat → List Byte → List Byte
/-- The predicate a VCMP's IMM[39:36] selects: the spec gives no numbering (R140; log 6). -/
opaque cmpPred : Nat → CmpPred
/-- Source and destination kinds of a VCVT by IMM[39:36]: 0 binary32, 1 binary64, 2 INT32, 3 INT64 (R141; log 6). -/
opaque cvtKinds : Nat → Fin 4 × Fin 4
/-- Integer that VCLASS writes for a class: the spec gives no numbering (R141; log 6). -/
opaque classCode : FClass → Word
/-- Integer results of conversions of NaN, or out of an INT64's range, by source format bits and pattern (R141; log 7). -/
opaque cvtOpen : Nat → Nat → DWord
/-- SOP's operation: opcode number IMM, two scalar sources and the immediate (R141; log 6). -/
opaque sop : Nat → DWord → DWord → DWord
/-- BR's condition: IMM and the two scalar sources (R141; log 6). -/
opaque brTaken : Nat → DWord → DWord → Bool
/-- Target of LOOP and BR: the instruction index an IMM names from a pc (R141; log 6). -/
opaque brTarget : Nat → Nat → Nat
/-- MX scale byte where X + 127 exceeds 254, which R103 does not state (log 8). -/
opaque mxOver : Int → Nat
/-- Device address of a hall's scale table, which the image assigns in no section the spec gives (R107; log 9). -/
opaque scaleBase : Nat → Nat
/-- Real value, as an FP32 pattern, of entry `i` of a block of parameters: block bytes, block, index; the update record
names no format (R366, R368; log 63). -/
opaque paramVal : Nat → List Byte → Nat → Word

/-! ## The part (R563, R565, R601; log 66) -/

/-- Serial number, grade (0 OM-SV940-P1, 1 OM-SV940-E1), DIK public key and certificate of the part. -/
opaque serial : BitVec 128
opaque grade : Fin 2
opaque dikPub : List Byte
opaque cert : List Byte
/-- Ocbeken's firmware key: public key and identifier (R565). -/
opaque vendorPub : List Byte
opaque vendorId : List Byte
/-- The byte of a key slot's use bits in the digest of an attestation report: USE_STRUCT, USE_FW (R584). -/
opaque useByte : Bool → Bool → Byte
/-- A public key is a point of the SM2 curve (R573; log 5). -/
opaque sm2Point : List Byte → Bool
/-- The part's fused VCORE set point, in mV, less 720: 0 to 120 (R600, R601). -/
opaque vidFuse : Fin 121
/-- Sizes in bytes of the flash devices together (R596). -/
opaque flashSize : Nat
/-- Ocbeken's JEP106 code, in IDCODE (R597). -/
opaque jep106 : BitVec 11

/-- A level of a codec admits a picture size and rate (R440, R445; the standards by name only; log 67): codec, level × 10,
width, height, rate numerator and denominator. -/
opaque levelAdmits : Nat → Nat → Nat → Nat → Nat → Nat → Bool

/-! ## PCI Express (R464; log 69) -/

/-- Reset values of configuration dwords that the spec does not fix: function, offset. -/
opaque cfgReset : Nat → Nat → Word
/-- Configuration offsets of the ATS, SR-IOV and MSI-X capabilities. -/
opaque atsCap : Nat
opaque sriovCap : Nat
opaque msixCap : Nat

/-! ## Cores (R493 to R495, R575; RISC-V by name only; log 70) -/

/-- Physical address of a core's next fetch; none where its translation faults. -/
opaque coreFetch : Core → Option Nat
/-- Memory accesses of an instruction word on a core, in order: kind (0 load, 1 store, 2 clean, 3 invalidate, 4 flush),
physical address, bytes stored or, for a load, as many bytes as it reads. -/
opaque coreAccess : Core → Word → List (Nat × Nat × List Byte)
/-- The core after an instruction whose accesses succeed: the bytes its loads read, in order. -/
opaque coreResult : Core → Word → List Byte → Option Core
/-- The core after a trap: cause (1 instruction access fault, 5 load access fault, 7 store access fault, 12 fetch
translation), and the address. -/
opaque coreTrap : Core → Nat → Nat → Option Core
/-- A DMI access: register, data written, the debug module's registers, the cores; afterwards the registers, the cores
and the value read. -/
opaque dmiAccess : Nat → Option Word → FMap Word → FMap Core → FMap Word × FMap Core × Word

/-! ## The sideband (R594, R615; DSP standards by name only; log 71) -/

/-- The response to an MCTP control message, with the endpoint ID before and after. -/
opaque mctpControl : List Byte → Nat → List Byte × Nat
/-- PLDM response bodies that the DSP standards fix: GetPLDMVersion by type, GetPLDMTypes, GetPLDMCommands by type. -/
opaque pldmVersion : Nat → List Byte
opaque pldmTypes : List Byte
opaque pldmCommands : Nat → List Byte
/-- A PDR record by its handle, over the halls' numbers and names; none for a handle that is not in the repository. -/
opaque pdrRecord : List (Nat × List Byte) → Nat → Option (List Byte)
/-- The repository's information over the same. -/
opaque pdrInfo : List (Nat × List Byte) → List Byte
/-- A terminus ID that SetTID takes. -/
opaque tidOk : Nat → Bool
/-- A completion code, or the operational state unavailable, by name: 0 success, 1 ERROR_INVALID_PLDM_TYPE, 2 unsupported
command, 3 invalid sensor, 4 invalid record handle, 5 the operational state unavailable, 6 invalid data. -/
opaque pldmCode : Nat → Byte

end Sys2Proof.Config
end

