-- ==== Sys2Proof/Machine/Ops.lean ====
section
/-! DEFINITION. The named operations over registers, memory, the running structure, queues and commands that the
meanings share. A block has no exception entry; raising an event or an interrupt line is a write of State. -/

namespace Sys2Proof.Machine

/-- The three outcomes of a command. -/
abbrev Out := Host.Outcome State Fault Refusal

/-- Run `k` where a unit number lies in its numbering (R18). -/
def guardUnit (ok : Bool) (k : Out) : Out := if ok then k else .fault .noSuchUnit

/-- What software asks through registers, doorbells and windows is served: no hold in reset has ended service (R34, R35). -/
def whileServed (s : State) (k : Out) : Out := if s.lnt.heldCode.isSome then .next s else k

/-! ## Registers -/

/-- The value of the register at a BAR0 offset. -/
def regGet (s : State) (r : Nat) : Nat := (fmGet regReset s.regs r).toNat
/-- Set a whole register. -/
def regSet (s : State) (r v : Nat) : State := { s with regs := fmSet regReset s.regs r (BitVec.ofNat 64 v) }
/-- A field's value. -/
def getF (s : State) (r : Nat) (f : Fld) : Nat := bitsOf (regGet s r) f.lo f.w
/-- Set a field; the register's other fields keep their values. -/
def setF (s : State) (r : Nat) (f : Fld) (v : Nat) : State := regSet s r (setBits (regGet s r) f.lo f.w v)
/-- A field is 1. -/
def isF (s : State) (r : Nat) (f : Fld) : Bool := getF s r f = 1
/-- Set a one-bit field (an event, a flag). -/
def raiseF (s : State) (r : Nat) (f : Fld) : State := setF s r f 1
/-- Add to a field, wrapping. -/
def bumpF (s : State) (r : Nat) (f : Fld) (n : Nat) : State := setF s r f (getF s r f + n)
/-- Add to a field, saturating. -/
def satF (s : State) (r : Nat) (f : Fld) (n : Nat) : State := setF s r f (satAdd f.w (getF s r f) n)

/-- Set a CMD_EVENTS bit; vector 64 of PF 0 is signalled when it was 0 (R470). -/
def raiseCmdEvent (s : State) (f : Fld) : State :=
  if isF s rCmdEvents f then s else { raiseF s rCmdEvents f with msix := (0, 64) :: s.msix }

/-- Count a malformed access (R11, R466, R472). -/
def countMalformed (s : State) : State := satF s rCmdCounts fCmdCountsMalformed 1

/-- A counter of a hall's counter block (R608), wrapping (R609). -/
def countHall (s : State) (h off n : Nat) : State := bumpF s (rCmdCtr h off) fCmdCtrCount n

/-! ## Free values -/

/-- The next free value, and the state that has used it. -/
def takeFree (s : State) : DWord × State := (Config.freeWord s.freeCtr, { s with freeCtr := s.freeCtr + 1 })

/-! ## Memory -/

/-- What a byte that nothing has written reads as (log 3). -/
def memDflt : Nat → Byte := fun _ => 0
/-- The canonical form of memory. -/
def memWf (m : FMap Byte) : Bool := fmWf memDflt m
/-- One byte. -/
def memGet (s : State) (a : Nat) : Byte := fmGet memDflt s.mem a
/-- `n` bytes. -/
def memBytes (s : State) (a : Nat) : Nat → List Byte
  | 0 => []
  | n + 1 => memGet s a :: memBytes s (a + 1) n
/-- `n` bytes as a number (R6). -/
def memNat (s : State) (a n : Nat) : Nat := leNat (memBytes s a n)
/-- Bytes into a memory map. -/
def putBytes (m : FMap Byte) (a : Nat) : List Byte → FMap Byte
  | [] => m
  | b :: bs => putBytes (fmSet memDflt m a b) (a + 1) bs
/-- Store bytes. -/
def memPut (s : State) (a : Nat) (bs : List Byte) : State := { s with mem := putBytes s.mem a bs }
/-- Store a number of `n` bytes (R6). -/
def memPutNat (s : State) (a n v : Nat) : State := memPut s a (leBytes n v)
/-- Copy bytes. -/
def memCopy (s : State) (src dst n : Nat) : State := { s with mem := fmCopyRange s.mem src dst n }
/-- Zero bytes. -/
def memZero (s : State) (a n : Nat) : State := { s with mem := fmClearRange s.mem a n }

/-- `[a, a + n)` lies in `[lo, hi)`. -/
def within (a n lo hi : Nat) : Bool := lo ≤ a && a + n ≤ hi
/-- Two ranges share a byte. -/
def overlap (a n b k : Nat) : Bool := a < b + k && b < a + n && 0 < n && 0 < k

/-- First byte of the system region, and its end (R252). -/
def sysBase : Nat := 0x017E80000000
def sysEnd : Nat := 0x018000000000
/-- First byte of the host window, and its end (R7). -/
def hostBase : Nat := 0x400000000000
def hostEnd : Nat := 0x800000000000
/-- A range of the system region, of the host window. -/
def inSys (a n : Nat) : Bool := within a n sysBase sysEnd
def inHost (a n : Nat) : Bool := within a n hostBase hostEnd
/-- The Gallery of a flight and the Landing of a tread (R253, R119). -/
def galleryBase (f : Nat) : Nat := 0x020000000000 + 0x1000000 * f
def landingBase (t : Nat) : Nat := 0x020100000000 + 0x200000 * t
/-- Landing range of R7. -/
def inLanding (a n : Nat) : Bool := overlap a n 0x020100000000 0x10000000

/-! ## The running structure -/

/-- Section types of R45. -/
def tyHALL : Nat := 0x01
def tyROUTE : Nat := 0x02
def tyMEMMAP : Nat := 0x03
def tyQUOTA : Nat := 0x04
def tyRING : Nat := 0x05
def tyPOWER : Nat := 0x06
def tyFTAB : Nat := 0x07
def tyXTAB : Nat := 0x08
def tyLOOP : Nat := 0x09
def tyIRQ : Nat := 0x0A
def tyCNTR : Nat := 0x0B
def tyLAYER : Nat := 0x0C

/-- Key of a section: type, hall (0xFF for a device section), variant (R42). -/
def secKey (ty hall var : Nat) : Nat := (ty * 256 + hall) * 2 + var
/-- A section of a structure, empty when absent. -/
def secOf (st : FMap (List Byte)) (ty hall var : Nat) : List Byte := (fmFind st (secKey ty hall var)).getD []
/-- A section is present. -/
def secPresent (st : FMap (List Byte)) (ty hall var : Nat) : Bool := (fmFind st (secKey ty hall var)).isSome
/-- Entry count and entry size of a section header (R44). -/
def secCount (bs : List Byte) : Nat := leAt bs 4 2
def secSize (bs : List Byte) : Nat := leAt bs 6 2
/-- Entry `n` of a section of entries of `sz` bytes (R44). -/
def secEntry (bs : List Byte) (sz n : Nat) : List Byte := (bs.drop (8 + sz * n)).take sz

/-- The record of a hall (R47). -/
def hallRec (st : FMap (List Byte)) (h : Nat) : List Byte := secEntry (secOf st tyHALL 0xFF 0) 32 h
/-- A hall exists (R47). -/
def hallDefined (st : FMap (List Byte)) (h : Nat) : Bool := h < 8 && bitOf (leAt (hallRec st h) 1 1) 0
/-- FLIGHTS, QUEUES, CLOISTER_TREADS, DESCRIPTORS, ACTIVE_VARIANT, HALL_TAG (R47). -/
def hallFlights (st : FMap (List Byte)) (h : Nat) : Nat := leAt (hallRec st h) 2 2
def hallQueues (st : FMap (List Byte)) (h : Nat) : Nat := leAt (hallRec st h) 4 1
def hallCloister (st : FMap (List Byte)) (h : Nat) : Nat := leAt (hallRec st h) 5 1
def hallDescs (st : FMap (List Byte)) (h : Nat) : Nat := leAt (hallRec st h) 6 2
def hallVar (st : FMap (List Byte)) (h : Nat) : Nat := leAt (hallRec st h) 8 1 % 2
def hallTag (st : FMap (List Byte)) (h : Nat) : Nat := leAt (hallRec st h) 16 8

/-- The hall of a flight, if it belongs to one (R23). -/
def flightHall (st : FMap (List Byte)) (f : Nat) : Option Nat :=
  (List.range 8).find? fun h => hallDefined st h && bitOf (hallFlights st h) f

/-- Flights of a hall, and those that are not isolated (R49, R550). -/
def flightsOf (st : FMap (List Byte)) (h : Nat) : List Nat :=
  (List.range 16).filter fun f => hallDefined st h && bitOf (hallFlights st h) f
def flightWorking (s : State) (f : Nat) : Bool := !isF s (rFltIsolate f) fFltIsolateIsolate
def workingFlights (s : State) (h : Nat) : List Nat := (flightsOf s.run h).filter (flightWorking s)
/-- The lead flight: the lowest-numbered working flight (R161). -/
def leadFlight (s : State) (h : Nat) : Option Nat := (workingFlights s h).head?

/-- Treads of a hall that are not isolated, on working flights. -/
def workingTreads (s : State) (h : Nat) : List Nat :=
  (List.range 128).filter fun t =>
    (workingFlights s h).contains (t / 8) && !isF s (rTrdIsolate t) fTrdIsolateIsolate

/-- A scope's queue count (R465): QUEUES of a defined hall, 8 for the management scope. -/
def scopeQueues (s : State) (scope : Nat) : Nat :=
  if scope = 8 then 8 else if hallDefined s.run scope then hallQueues s.run scope else 0

/-- A region record (R265). -/
structure Region where
  base : Nat
  len : Nat
  chanset : Nat
  clsM : Bool
  gran : Nat
  enc : Bool
  pool : Bool
  extBase : Nat
  owner : Nat
  deriving DecidableEq, Repr

/-- Bytes of a region. -/
def Region.bytes (r : Region) : Nat := r.len * 0x1000000

/-- Region record of a MEMMAP entry (R265). -/
def regionOf (e : List Byte) : Region :=
  let k := leAt e 15 1
  { base := leAt e 0 6, len := leAt e 8 4, chanset := leAt e 12 3, clsM := bitOf k 0, gran := bitsOf k 1 2
    enc := bitOf k 3, pool := bitOf k 4, extBase := leAt e 16 2, owner := leAt e 18 1 }

/-- Regions of a MEMMAP section in index order, existing or not (R265). -/
def mmRegions (mm : List Byte) : List Region :=
  (List.range (leAt (secEntry mm 32 0) 0 2)).map fun i => regionOf (secEntry mm 32 (2 + i))
/-- Windows of a MEMMAP section: hall, write, region (R265). -/
def mmWindows (mm : List Byte) : List (Nat × Bool × Nat) :=
  let g := secEntry mm 32 0
  (List.range (leAt g 2 2)).map fun i =>
    let e := secEntry mm 32 (2 + leAt g 0 2 + i)
    (leAt e 0 1, bitOf (leAt e 1 1) 0, leAt e 2 2)
/-- Partner channel (R265). -/
def mmPartner (mm : List Byte) (c : Nat) : Nat := leAt (secEntry mm 32 1) c 1 % 32
/-- RESERVE_EXT (R265). -/
def mmReserve (mm : List Byte) : Nat := leAt (secEntry mm 32 0) 4 2

/-- The MEMMAP section in force. -/
def memmap (s : State) : List Byte := secOf s.run tyMEMMAP 0xFF 0
/-- The regions in force. -/
def regions (s : State) : List Region := mmRegions (memmap s)
/-- The range lies in an existing region. -/
def Region.holds (r : Region) (a n : Nat) : Bool := 0 < r.len && within a n r.base (r.base + r.bytes)
/-- The region that holds a whole range (R251). -/
def regionAt (s : State) (a n : Nat) : Option Region := (regions s).find? fun r => r.holds a n

/-- The range lies inside one window of the hall; `wr` asks for WRITE (R26, R266). -/
def inWindow (s : State) (h : Nat) (wr : Bool) (a n : Nat) : Bool :=
  (mmWindows (memmap s)).any fun (wh, ww, i) =>
    wh = h && (ww || !wr) &&
      match (regions s)[i]? with
      | some r => r.holds a n
      | none => false
/-- The range lies inside one window of the hall whose region is class M. -/
def inWindowM (s : State) (h : Nat) (a n : Nat) : Bool :=
  (mmWindows (memmap s)).any fun (wh, _, i) =>
    wh = h &&
      match (regions s)[i]? with
      | some r => r.clsM && r.holds a n
      | none => false
/-- GALLERY_CACHE_MIB of a hall (R271). -/
def galleryCacheMib (s : State) (h : Nat) : Nat := leAt (secEntry (secOf s.run tyQUOTA h 0) 32 0) 12 1 % 32
/-- The range lies inside one explicit buffer of a flight of the hall (R253). -/
def inExplicit (s : State) (h a n : Nat) : Bool :=
  (flightsOf s.run h).any fun f =>
    within a n (galleryBase f) (galleryBase f + (16 - galleryCacheMib s h) * 0x100000)
/-- Reach of an engine working for a hall: windows, explicit buffers (R26). -/
def hallReach (s : State) (h : Nat) (wr : Bool) (a n : Nat) : Bool := inWindow s h wr a n || inExplicit s h a n
/-- The same with the host window (R26, R255). -/
def hallReachHost (s : State) (h : Nat) (wr : Bool) (a n : Nat) : Bool := hallReach s h wr a n || inHost a n

/-- The bytes lie in local memory that is backed: a region or the system region (R251). -/
def backed (s : State) (a n : Nat) : Bool := (regionAt s a n).isSome || inSys a n

/-! ## Queues and commands -/

/-- Completion code of a failed read (R487, R546). -/
def errCode : ReadErr → Nat
  | .uncorrectable _ _ => 0x20
  | .dataLost _ _ => 0x21
  | .sram _ _ => 0x20
  | .addressFault => 0x11
  | .handoff _ _ _ => 0x13
  | .delivery => 0x30
  | .rejected c => c

/-- INFO of a failed read as for COPY: the failing address, the handoff number, the detecting slice (R486, R546). -/
def errInfo (e : ReadErr) (a : Nat) : Nat :=
  a % 2 ^ 48 +
    match e with
    | .uncorrectable c _ => 2 ^ 56 * ((16 + c) % 256)
    | .dataLost c _ => 2 ^ 56 * ((16 + c) % 256)
    | .sram sl _ => 2 ^ 56 * (sl % 256)
    | .handoff n sl _ => 2 ^ 48 * (n % 256) + 2 ^ 56 * (sl % 256)
    | _ => 0

/-- How many 64-byte units into a read of several the first failing unit stands. -/
def errUnit : ReadErr → Nat
  | .uncorrectable _ u => u
  | .dataLost _ u => u
  | .sram _ u => u
  | .handoff _ _ u => u
  | _ => 0

/-- Count a failure by its handoff number in a hall's counter block (R547, R608). -/
def countErr (s : State) (h : Nat) (e : ReadErr) : State :=
  if 8 ≤ h then s
  else
    match e with
    | .uncorrectable _ _ => countHall s h 0x100 1
    | .dataLost _ _ => countHall s h 0x100 1
    | .sram _ _ => countHall s h 0x100 1
    | .handoff n _ _ => if n ≤ 14 then countHall s h (0x100 + 8 * n) 1 else s
    | _ => s

/-- Key of a queue. -/
def qKey (scope q : Nat) : Nat := 64 * scope + q
def getQ (s : State) (scope q : Nat) : Queue := fmGet (fun _ => {}) s.queues (qKey scope q)
def setQ (s : State) (scope q : Nat) (v : Queue) : State :=
  { s with queues := fmSet (fun _ => {}) s.queues (qKey scope q) v }

def getT (s : State) (t : Nat) : Tread := fmGet (fun _ => {}) s.treads t
def setT (s : State) (t : Nat) (v : Tread) : State := { s with treads := fmSet (fun _ => {}) s.treads t v }
def getH (s : State) (h : Nat) : Hall := fmGet (fun _ => {}) s.halls h
def setH (s : State) (h : Nat) (v : Hall) : State := { s with halls := fmSet (fun _ => {}) s.halls h v }
/-- Power state of a flight (R519). -/
def fltState (s : State) (f : Nat) : Nat := getF s (rFltPwrStatus f) fFltPwrStatusState
/-- The flights of a hall that are off, asleep or entering sleep are to wake (R521). -/
def wakeHall (s : State) (h : Nat) : State :=
  if (workingFlights s h).any fun f => fltState s f = 0 || fltState s f = 3 || fltState s f = 4 then
    setH s h { getH s h with wake := true }
  else s
def getX (s : State) (scope : Nat) : Xfm := fmGet (fun _ => {}) s.xfm scope
def setX (s : State) (scope : Nat) (v : Xfm) : State := { s with xfm := fmSet (fun _ => {}) s.xfm scope v }

/-- A command in flight. -/
def findCmd (s : State) (r : CmdRef) : Option Cmd := (getQ s r.scope r.queue).cmds.find? fun c => c.seq = r.seq
/-- Change a command in flight. -/
def updCmd (s : State) (r : CmdRef) (f : Cmd → Cmd) : State :=
  let q := getQ s r.scope r.queue
  setQ s r.scope r.queue { q with cmds := q.cmds.map fun c => if c.seq = r.seq then f c else c }
/-- Change a command's job. -/
def updJob (s : State) (r : CmdRef) (f : Job → Job) : State := updCmd s r fun c => { c with job := f c.job }
/-- Fix a command's outcome: it has ended and awaits its completion record (R482). A command that has already ended
keeps its outcome. -/
def endCmd (s : State) (r : CmdRef) (code check extent info : Nat) : State :=
  updCmd s r fun c =>
    if c.st = .accepted ∨ c.st = .dispatched then
      { c with st := .ended, code := code, check := check, extent := extent, info := info }
    else c
/-- A command is dispatched and has not ended. -/
def running (s : State) (r : CmdRef) : Bool :=
  match findCmd s r with
  | some c => c.st = .dispatched
  | none => false

/-- All commands in flight of a scope, with their references. -/
def scopeCmds (s : State) (scope : Nat) : List (CmdRef × Cmd) :=
  (List.range 64).flatMap fun q => (getQ s scope q).cmds.map fun c => (⟨scope, q, c.seq⟩, c)
/-- Dispatched commands of a scope that have not completed: their completion record does not exist. -/
def activeCmds (s : State) (scope : Nat) : List (CmdRef × Cmd) :=
  (scopeCmds s scope).filter fun p => p.2.order ≠ 0 && (p.2.st = .dispatched || p.2.st = .ended)
/-- Commands of a scope dispatched before the one now under test, and not complete. -/
def earlierCmds (s : State) (scope : Nat) : List (CmdRef × Cmd) :=
  (activeCmds s scope).filter fun p => p.2.order < s.clock
/-- Accepted commands of a scope whose completion record does not exist. -/
def incompleteCmds (s : State) (scope : Nat) : List (CmdRef × Cmd) :=
  (scopeCmds s scope).filter fun p => p.2.st ≠ .recorded

/-- The command is the next its queue dispatches: every earlier command has dispatched or ended; an ABORT holds and is
held by nothing (R483). -/
def isHead (s : State) (r : CmdRef) : Bool :=
  match (getQ s r.scope r.queue).cmds.find? fun c => c.st = .accepted && c.opcode != 0x30 with
  | some c => c.seq = r.seq
  | none => false

/-- Dispatch is paused in a hall by a pending commit (R65, R70). -/
def hallPaused (s : State) (h : Nat) : Bool := s.xfm.any fun p => p.2.paused.contains h

/-- What a dispatch test of a command decides: it waits, it ends with a code and check number, an operand it names
does not exist (R67), or it goes on in a new state. -/
inductive Disp where
  | wait
  | stop (code check info : Nat)
  | stopIn (s : State) (code check info : Nat)
  | gone (code check : Nat)
  | go (s : State)

/-- Continue unless a condition fails, which stops with a code and check. -/
def need (ok : Bool) (code check : Nat) (k : Disp) : Disp := if ok then k else .stop code check 0
/-- Wait while a condition holds. -/
def waitWhile (c : Bool) (k : Disp) : Disp := if c then .wait else k

/-- The verdict of a command's dependency (R484): go on, wait, or end with a code. -/
def depVerdict (s : State) (r : CmdRef) (c : Cmd) : Option Nat ⊕ Unit :=
  if c.depMode = 0 then .inl none
  else
    let nxt := getF s (rCmdQSeq r.scope c.depQueue) fCmdQSeqNextSeq
    let d := sext 32 (((c.depSeq : Int) - nxt) % (2 ^ 32 : Int)).toNat
    let tgt : Nat := ((nxt : Int) + d).toNat
    let q := getQ s r.scope c.depQueue
    if 0 ≤ d then
      .inr ()
    else if c.depQueue = r.queue ∧ r.seq ≤ tgt then .inl (some 0x10)
    else
      let verdict (opcode code groups : Nat) (gd : List Nat) : Option Nat ⊕ Unit :=
        if c.depMode = 1 then .inl none
        else if c.depMode = 2 then (if code ≤ 2 then .inl none else .inl (some 0x08))
        else if opcode ≠ 0x28 then .inl (some 0x10)
        else if gd.contains c.depGroup then .inl none
        else if groups ≤ c.depGroup then .inl (some 0x10)
        else .inl (some 0x08)
      match q.kept.find? fun k => k.seq = tgt with
      | some k => verdict k.opcode k.code k.groups k.groupsDone
      | none =>
        match q.cmds.find? fun k => k.seq = tgt with
        | some k =>
          if c.depMode = 3 then
            if k.opcode ≠ 0x28 then .inl (some 0x10)
            else if k.job.groupsDone.contains c.depGroup then .inl none
            else if k.st = .dispatched && 0 < k.job.groups && k.job.groups ≤ c.depGroup then .inl (some 0x10)
            else .inr ()
          else .inr ()
        | none => .inl (some 0x10)

/-- Mark a command dispatched, giving it the next place in the order of dispatches. -/
def markDispatched (s : State) (r : CmdRef) : State :=
  { updCmd s r (fun c => { c with st := .dispatched, order := s.clock + 1 }) with clock := s.clock + 1 }

/-- Every working flight of a hall runs (R519, R522). -/
def hallRuns (s : State) (h : Nat) : Bool := (workingFlights s h).all fun f => getF s (rFltPwrStatus f) fFltPwrStatusState = 2

/-- Opcodes that wait for the flights of their hall (R522). -/
def opNeedsFlights (op : Nat) : Bool :=
  op = 0x01 || op = 0x02 || op = 0x03 || op = 0x1B || op = 0x1C || op = 0x21 || op = 0x20 || op = 0x09

/-- Opcodes of the Foyer and the Frieze, which wait for the media domain (R524). -/
def opMedia (op : Nat) : Bool := 0x28 ≤ op && op ≤ 0x2E

/-- A block of slices 90 to 97 is isolated (R551, R552): 0 Corridor switch, 1 delivery engine, 2 Cloister, 3 Foyer,
4 Frieze, 5 mover A, 6 mover B, 7 shared L2. -/
def blockIsolated (s : State) (b : Nat) : Bool := bitOf (getF s rLntBlockIsolate fLntBlockIsolateBlocks) b

/-- Opcodes refused while a block is isolated (R551). -/
def opBlocked (s : State) (op : Nat) : Bool :=
  (0x20 ≤ op && op ≤ 0x22 && blockIsolated s 2) || (0x28 ≤ op && op ≤ 0x29 && blockIsolated s 3)
    || (0x2A ≤ op && op ≤ 0x2E && blockIsolated s 4)

/-- A command may dispatch in its scope now: no warm reset runs, service has begun and no hold has ended it (R35); compute service for a hall, which holds a working flight
(R34, R37) and is not paused by a commit (R65), the Corridor switch in service (R551), whose flights run where the
opcode needs them (R522), the media domain awake where it needs it (R524). -/
def scopeReady (s : State) (scope op : Nat) : Bool :=
  if s.lnt.warm || s.lnt.heldCode.isSome then false
  else if scope = 8 then getF s rLntStatus fLntStatusLevel ≠ 0
  else getF s rLntStatus fLntStatusLevel = 2 && !(workingFlights s scope).isEmpty && !hallPaused s scope
    && !blockIsolated s 0 && (!opNeedsFlights op || hallRuns s scope) && !(opMedia op && s.mediaAsleep)

/-! ## Reaches and guards (R277, R302, R307, R550) -/

/-- Two lists of ranges meet. -/
def meets (xs ys : List (Nat × Nat)) : Bool := xs.any fun x => ys.any fun y => overlap x.1 x.2 y.1 y.2

/-- Earlier dispatched, incomplete commands of every hall. -/
def allActive (s : State) : List (CmdRef × Cmd) := (List.range 8).flatMap fun h => earlierCmds s h

/-- A command with these reaches waits: a guarded range meets its reach, or a held source its written reach (R277, R302,
R307). -/
def reachWaits (s : State) (reads writes : List (Nat × Nat)) : Bool :=
  (allActive s).any fun p => meets p.2.job.guards (reads ++ writes) || meets p.2.job.held writes

/-- Guards that a hall holds, one for each command that guards what it writes or holds its source (R277, R302, R307). -/
def guardCount (s : State) (h : Nat) : Nat :=
  (earlierCmds s h).countP fun p => !p.2.job.guards.isEmpty || (p.2.opcode = 0x0A && !p.2.job.held.isEmpty)

/-- A command that would guard these ranges waits: the hall's guards are used up, or a dispatched command's reach meets
the ranges (R277). -/
def guardWaits (s : State) (h : Nat) (gs : List (Nat × Nat)) : Bool :=
  (!gs.isEmpty && 64 ≤ guardCount s h) || (allActive s).any fun p => meets gs (p.2.job.reads ++ p.2.job.writes)

/-- A range lies in the Gallery of an isolated flight (R550). -/
def inIsolated (s : State) (rs : List (Nat × Nat)) : Bool :=
  (List.range 16).any fun f => !flightWorking s f && rs.any fun r => overlap r.1 r.2 (galleryBase f) 0x1000000

/-- A range lies in some Gallery. -/
def inGallery (rs : List (Nat × Nat)) : Bool := rs.any fun r => overlap r.1 r.2 0x020000000000 0x10000000

/-- The gate every command of a hall with a reach passes: no isolated flight's buffer (R550), the flights running where
it names a buffer (R522), no guard in its way. -/
def reachGate (s : State) (h : Nat) (reads writes : List (Nat × Nat)) (k : Disp) : Disp :=
  if inIsolated s (reads ++ writes) then .stop 0x22 0 0
  else waitWhile ((inGallery (reads ++ writes) && !hallRuns s h) || reachWaits s reads writes) k

/-- Operand bits that R476 names, by opcode: OPD0 to OPD4. -/
def opdMasks (op : Nat) (o4 : Nat) : List Nat :=
  let a : Nat := 2 ^ 48 - 1
  let all : Nat := 2 ^ 64 - 1
  match op with
  | 0x01 => [2 ^ 13 - 1, a, 0, 0, 0]
  | 0x02 => [a, 2 ^ 32 - 1, all, 0, 0]
  | 0x03 => [a, 0, 0, 0, 0]
  | 0x08 => [a, a, 2 ^ 40 - 1, 3, if bitOf o4 63 then 2 ^ 63 + a else 2 ^ 18 - 1]
  | 0x09 => [a, 2 ^ 49 - 1, 2 ^ 41 - 1, 3, if bitOf o4 63 then 2 ^ 63 + a else 2 ^ 18 - 1]
  | 0x0A => [a, a, 2 ^ 37 - 1, a, a]
  | 0x0B => [a, a, all, 1, 0]
  | 0x0C => [a, 0, 0, 0, 0]
  | 0x10 => [a, 0, 0, 0, 0]
  | 0x11 => [2 ^ 16 - 1, a, 2 ^ 17 - 1, all, 0]
  | 0x12 => [all, a, 2 ^ 17 - 1, all, 0]
  | 0x13 => [2 ^ 16 - 1 + (2 ^ 64 - 2 ^ 32), 0, 0, 0, 0]
  | 0x14 => [2 ^ 16 - 1, 0, 0, 0, 0]
  | 0x15 => [all, a, all, 0, 0]
  | 0x18 => [a, 2 ^ 50 - 1, a, 2 ^ 40 - 1, a]
  | 0x19 => [a, 15, 0, 0, 0]
  | 0x1A => [3, 0, 0, 0, 0]
  | 0x1B => [all, all, all, 2 ^ 53 - 1 + (2 ^ 62 - 2 ^ 53), a]
  | 0x1C => [a, a, 0, 0, 0]
  | 0x20 | 0x21 => [a, 0, 0, 0, 0]
  | 0x22 => [2 ^ 41 - 1, a, 2 ^ 13 - 1, all, 0]
  | 0x23 | 0x24 => [2 ^ 32 - 1, 0, 0, 0, 0]
  | 0x25 => [all, 0, 0, 0, 0]
  | 0x26 | 0x27 | 0x28 | 0x29 => [a, 0, 0, 0, 0]
  | 0x2A => [2 ^ 8 - 1, a, 0, 0, 0]
  | 0x2B => [2 ^ 8 - 1, 0, 0, 0, 0]
  | 0x2C => [2 ^ 8 - 1, a, 2 ^ 27 - 1, 2 ^ 32 - 1, 0]
  | 0x2D => [2 ^ 9 - 1, a, 2 ^ 32 - 1, a, 0]
  | 0x2E => [2 ^ 8 - 1 + (2 ^ 64 - 2 ^ 32), 0, 0, 0, 0]
  | 0x30 => [2 ^ 14 - 1 - (2 ^ 8 - 2 ^ 4), all, 0, 0, 0]
  | 0x31 => [0, 0, 0, 0, 0]
  | 0x40 => [a, 2 ^ 27 - 1 + 2 ^ 32 + 2 ^ 33, 0, 0, 0]
  | _ => [a, 0, 0, 0, 0]

/-- No reserved operand bit is set (R4, R476). -/
def opdOk (c : Cmd) : Bool :=
  ([c.o0, c.o1, c.o2, c.o3, c.o4].zip (opdMasks c.opcode c.o4)).all fun p => p.1 &&& p.2 = p.1

/-- The command was accepted under another structure generation of its scope (R67). -/
def genDiffers (s : State) (r : CmdRef) (c : Cmd) : Bool := c.gen ≠ getF s (rXfmGen r.scope) fXfmGenGeneration

/-- The queue it stands in, or the queue it depends on, is beyond QUEUES (R67). -/
def queueGone (s : State) (r : CmdRef) (c : Cmd) : Bool :=
  scopeQueues s r.scope ≤ r.queue || (c.depMode ≠ 0 && scopeQueues s r.scope ≤ c.depQueue)

/-- The addresses that a command's operands name on this device, by opcode (R476); an optional operand of 0 names none. -/
def opAddrs (c : Cmd) : List Nat :=
  let opt (a : Nat) : List Nat := if a = 0 then [] else [a]
  let rem := bitsOf c.o3 0 2
  match c.opcode with
  | 0x01 => [c.o1]
  | 0x08 => (if rem = 1 then [] else [c.o0]) ++ (if rem = 2 then [] else [c.o1])
  | 0x09 => (if rem = 1 then [] else [c.o0]) ++ [c.o1 % 2 ^ 48]
  | 0x0A => [c.o0, c.o1, c.o4]
  | 0x0B | 0x1C => [c.o0, c.o1]
  | 0x11 | 0x12 | 0x15 | 0x22 | 0x2A | 0x2C => [c.o1]
  | 0x18 => [c.o0, c.o2] ++ opt c.o4
  | 0x1B => [c.o0 % 2 ^ 48, c.o3 % 2 ^ 48, c.o4]
  | 0x2D => [c.o1] ++ opt c.o3
  | 0x02 | 0x03 | 0x0C | 0x10 | 0x19 | 0x20 | 0x21 | 0x26 | 0x27 | 0x28 | 0x29 => [c.o0]
  | _ => []

/-- An operand that the command names does not exist in the structure in force (R67): a descriptor index beyond
DESCRIPTORS, an address of local memory or of a Gallery in no window of the hall and no explicit buffer of its flights.
Ranges that the command names inside records are tested by the owning chapter's check, which `Disp.gone` marks. -/
def opGone (s : State) (r : CmdRef) (c : Cmd) : Bool :=
  r.scope < 8 && ((c.opcode = 0x01 && hallDescs s.run r.scope ≤ bitsOf c.o0 0 12) ||
    (opAddrs c).any fun a =>
      (a < 0x018000000000 || overlap a 1 0x020000000000 0x10000000) && !hallReach s r.scope false a 1)

/-- The code and check of a failed test of an operand's existence: structure-changed where the generations differ (R67). -/
def goneCode (s : State) (r : CmdRef) (c : Cmd) (code check : Nat) : Nat × Nat :=
  if genDiffers s r c then (0x17, 0) else (code, check)

/-- The dispatch of an accepted command (R67, R483, R484): where the named command is the head of its queue, carries the
opcode and may dispatch, `k` makes the owning chapter's tests and gives the effect, from the state in which the command
is dispatched. A command that waits changes nothing. -/
def dispatch (opcode : Nat) (r : CmdRef) (s : State) (k : State → Cmd → Disp) : Out :=
  match findCmd s r with
  | none => .next s
  | some c =>
    if c.st ≠ .accepted ∨ c.opcode ≠ opcode ∨ isHead s r = false ∨ scopeReady s r.scope opcode = false then .next s
    else if genDiffers s r c && queueGone s r c then .next (endCmd s r 0x17 0 0 0)
    else
      match depVerdict s r c with
      | .inr _ => .next s
      | .inl (some code) => .next (endCmd s r code 0 0 0)
      | .inl none =>
        match (if !opdOk c then .stop 0x10 0 0 else if opBlocked s opcode then .stop 0x22 0 0
          else if genDiffers s r c && opGone s r c then .stop 0x17 0 0 else k (markDispatched s r) c) with
        | .wait => .next s
        | .stop code check info => .next (endCmd s r code check 0 info)
        | .stopIn s' code check info => .next (updCmd (endCmd s' r code check 0 info) r fun c => { c with order := 0 })
        | .gone code check => .next (endCmd s r (goneCode s r c code check).1 (goneCode s r c code check).2 0 0)
        | .go s' => .next s'

/-! ## Treads -/

/-- TRD_STATUS follows what a tread holds; the vector engine runs pooling and packing items (R210, R337), and a powered-down
or isolated tread keeps its STATE (R144). -/
def treadStatus (s : State) (t : Nat) : State :=
  let tr := getT s t
  let r := rTrdStatus t
  let busy := !tr.held.isEmpty || tr.prog.cmd.isSome
  let full := tr.held.countP fun h => h.ended && !h.vec
  let s := setF s r fTrdStatusMeBusy (if tr.held.any fun h => !h.ended && !h.vec then 1 else 0)
  let s := setF s r fTrdStatusVeBusy (if tr.prog.cmd.isSome || tr.held.any (fun h => !h.ended && h.vec) then 1 else 0)
  let s := setF s r fTrdStatusDrainBusy (if tr.held.any (·.ended) then 1 else 0)
  let s := setF s r fTrdStatusBanksFull (min full 2)
  let st := getF s r fTrdStatusState
  if st = 0 || st = 3 then s else setF s r fTrdStatusState (if busy then 2 else 1)

/-- A command that has ended issues nothing further: every tread lets go of its items and its program (R546, R623). -/
def dropItems (s : State) (r : CmdRef) : State :=
  s.treads.foldl (fun s p =>
    let tr := getT s p.1
    if tr.held.any (fun h => h.cmd = r) || tr.prog.cmd = some r then
      treadStatus (setT s p.1 { tr with
        held := tr.held.filter fun h => h.cmd ≠ r
        prog := if tr.prog.cmd = some r then {} else tr.prog }) p.1
    else s) s

/-- End a dispatched command with success (R487). -/
def succeed (s : State) (r : CmdRef) (extent info : Nat) : State := endCmd s r 0 0 extent info

end Sys2Proof.Machine
end

