-- ==== Sys2Proof/Machine/Chan.lean ====
section
/-! DEFINITION. Where a logical address lives (R252, R264, R265, R267, R290, R294), lost marks (R292), and the repair
record store (R557). -/

namespace Sys2Proof.Machine

/-- Bytes of an extent. -/
def extBytes : Nat := 0x1000000

/-- The system region as a region record (R252): class M over all channels at 2 KiB, extents 0 to 31. -/
def sysRegion : Region :=
  { base := sysBase, len := 384, chanset := 0xFFFFFF, clsM := true, gran := 0, enc := false, pool := false, extBase := 0
    owner := 0xFF }

/-- Channels of a region's set, ascending. -/
def Region.chans (r : Region) : List Nat := (List.range 24).filter fun c => bitOf r.chanset c
/-- Extents per copy on each channel. -/
def Region.per (r : Region) : Nat := r.len / r.chans.length
/-- Extents occupied on each channel of the set (R268). -/
def Region.occ (r : Region) : Nat := if r.clsM then 2 * r.per else r.per

/-- Partner channel in force; while no structure is loaded, that of R270's example (DESIGN CHOICE, log 294). -/
def partner (s : State) (c : Nat) : Nat := if (memmap s).isEmpty then (c + 12) % 24 else mmPartner (memmap s) c

/-- A copy's logical place: channel and offset. -/
structure LPlace where
  chan : Nat
  off : Nat
  deriving DecidableEq, Repr

/-- Logical places of an address: primary, and mirror for class M (R267). -/
def Region.resolve (s : State) (r : Region) (a : Nat) : LPlace × Option LPlace :=
  let G := 2048 * 2 ^ r.gran
  let o := a - r.base
  let g := o / G
  let L := r.chans.length
  let ch := r.chans.getD (g % L) 0
  let off := r.extBase * extBytes + g / L * G + o % G
  (⟨ch, off⟩, if r.clsM then some ⟨partner s ch, off + r.per * extBytes⟩ else none)

/-- The region or system region that holds an address. -/
def regionOfAddr (s : State) (a : Nat) : Option Region :=
  if inSys a 1 then some sysRegion else regionAt s a 1

/-- Key of a logical extent. -/
def extKey (chan ext : Nat) : Nat := chan * 4096 + ext
def LPlace.key (p : LPlace) : Nat := extKey p.chan (p.off / extBytes)

/-- Physical place of a logical extent (R267, R290). -/
def physPlace (s : State) (key : Nat) : Place :=
  (fmFind s.und.reloc key).getD { chan := key / 4096, ext := key % 4096 }

/-- Die and bank of a channel offset in a place (R264, R294). -/
def dieBank (off : Nat) (split : Bool) : Nat × Nat :=
  let n := off / 2048
  ((n / 16 + (if split then 8 else 0)) % 16, n % 16)

/-- Physical channel, die and bank of a copy. -/
def physOf (s : State) (p : LPlace) : Nat × Nat × Nat :=
  let pl := physPlace s p.key
  let (d, b) := dieBank (pl.ext * extBytes + p.off % extBytes) pl.split
  (pl.chan, d, b)

/-- A channel is healthy (UND_CHAN_STATUS.STATE 0). -/
def chanHealthy (s : State) (c : Nat) : Bool := getF s (rUndChanStatus c) fUndChanStatusState = 0

/-- LEVEL once the device has reached service (R34, R535): compute service needs a flight, the Corridor switch and a
memory channel. -/
def refreshLevel (s : State) : State :=
  if getF s rLntStatus fLntStatusStage ≠ 0xF then s
  else
    let ok := (List.range 16).any (flightWorking s) && !blockIsolated s 0 && (List.range 24).any (chanHealthy s)
    setF s rLntStatus fLntStatusLevel (if ok then 2 else 1)

/-- Memory banks that a request to a range targets: of every block it touches, both copies for a write of class M (R280). -/
def memBanks (s : State) (wr : Bool) (a n : Nat) : List Nat :=
  match regionOfAddr s a with
  | none => []
  | some r =>
    let num (p : LPlace) : Nat := let (c, d, b) := physOf s p; c * 256 + d * 16 + b
    ((List.range ((a + n - 1) / 2048 - a / 2048 + 1)).flatMap fun i =>
      let (p, m) := r.resolve s (max a (2048 * (a / 2048 + i)))
      match m with
      | none => [num p]
      | some m =>
        if wr then [num p, num m] else if chanHealthy s (physPlace s p.key).chan then [num p] else [num m]).eraseDups

/-! ## Copies (R259, R270, R291, R293) -/

/-- The rebuild of the logical extent has passed the block, or none is due (R291). -/
def rebuilt (s : State) (key block : Nat) : Bool :=
  match s.und.rebuildQ with
  | [] => true
  | (c, _) :: _ =>
    s.und.todo.all fun t =>
      if t.1 = c then
        match t.2 with
        | [] => true
        | x :: xs => !xs.contains key && (x ≠ key || block < s.und.block)
      else !t.2.contains key

/-- A copy holds its block: its place is on a healthy channel, and its rebuild has passed the block (R270, R291). -/
def copyReady (s : State) (p : LPlace) : Bool :=
  chanHealthy s (physPlace s p.key).chan && !s.und.single.contains p.key && rebuilt s p.key (p.off % extBytes / 2048)

/-- The block of an address is lost in both copies (R293). -/
def deadAt (s : State) (a : Nat) : Bool :=
  if s.und.dead.isEmpty then false
  else
    match regionOfAddr s a with
    | some r =>
      let p := (r.resolve s a).1
      r.clsM && s.und.dead.any fun d => d.1 = p.key && d.2 ≤ p.off % extBytes / 2048
    | none => false

/-- The die select that a command to a copy's die leaves on its channel (R259). -/
def driveDs (s : State) (p : LPlace) : State :=
  let (c, d, _) := physOf s p
  if chanHealthy s c then { s with und := { s.und with ds := fmPut s.und.ds c (d, false) } } else s

/-- The same for every block of a range: the copies that its writes reach, or the copy that its reads take. -/
def driveRange (s : State) (wr : Bool) (a n : Nat) : State :=
  match regionOfAddr s a with
  | none => s
  | some r =>
    if n = 0 then s
    else
      (List.range ((a + n - 1) / 2048 - a / 2048 + 1)).foldl (fun s i =>
        let (p, m) := r.resolve s (max a (2048 * (a / 2048 + i)))
        match m with
        | none => driveDs s p
        | some m => if wr then driveDs (driveDs s p) m else if copyReady s p then driveDs s p else driveDs s m) s

/-! ## Lost marks (R292) -/

/-- Key and burst index of an address in class S; none elsewhere. -/
def burstOf (s : State) (a : Nat) : Option (Nat × Nat) :=
  match regionAt s a 1 with
  | some r => if r.clsM then none else
    let p := (r.resolve s a).1
    some (p.key, p.off % extBytes / 64)
  | none => none

/-- The burst at an address is lost or its extent is unplaced (R290, R292). -/
def lostAt (s : State) (a : Nat) : Bool :=
  if s.und.lost.isEmpty && s.und.unplaced.isEmpty then false
  else
    match burstOf s a with
    | none => false
    | some (k, b) =>
      s.und.unplaced.contains k ||
        match fmFind s.und.lost k with
        | some w => !w.contains b
        | none => false

/-- The channel that R546 names for data lost at an address. -/
def lostChan (s : State) (a : Nat) : Nat :=
  match regionOfAddr s a with
  | some r => (physPlace s (r.resolve s a).1.key).chan
  | none => 0

/-- Why the burst at an address cannot be delivered: class-S data is lost, or a class-M block has no copy left (R290, R292,
R293). -/
def burstErr (s : State) (a : Nat) : Option ReadErr :=
  if lostAt s a then some (.dataLost (lostChan s a)) else if deadAt s a then some (.uncorrectable (lostChan s a)) else none

/-- The first of the `n` bursts from address `a` that cannot be delivered: the failure and its address. -/
def firstGone (s : State) (a : Nat) : Nat → Option (ReadErr × Nat)
  | 0 => none
  | n + 1 =>
    match burstErr s a with
    | some e => some (e, a / 64 * 64)
    | none => firstGone s (a / 64 * 64 + 64) n

/-- No mark, no unplaced extent and no lost block stands in the Undercroft's tables. -/
def allSound (s : State) : Bool := s.und.lost.isEmpty && s.und.unplaced.isEmpty && s.und.dead.isEmpty

/-- The first burst that a read of a range cannot deliver (R290, R292, R293). -/
def goneIn (s : State) (a n : Nat) : Option (ReadErr × Nat) :=
  if n = 0 || allSound s then none else firstGone s a ((a + n - 1) / 64 - a / 64 + 1)

/-- UND_STATUS.LOST_S follows the marks (R292). -/
def refreshLost (s : State) : State :=
  setF s rUndStatus fUndStatusLostS (if s.und.lost.isEmpty && s.und.unplaced.isEmpty then 0 else 1)

/-- A whole burst is written: its lost mark clears; an extent with no lost burst left leaves the table. -/
def clearLost1 (s : State) (a : Nat) : State :=
  match burstOf s a with
  | none => s
  | some (k, b) =>
    match fmFind s.und.lost k with
    | none => s
    | some w =>
      let w := if w.contains b then w else b :: w
      let lost := if w.length = 262144 then fmErase s.und.lost k else fmPut s.und.lost k w
      refreshLost { s with und := { s.und with lost := lost } }

/-- The whole bursts of `[a, a + n)` are written (R292). -/
def wrote (s : State) (a n : Nat) : State :=
  if s.und.lost.isEmpty then s
  else
    let b0 := ceilTo a 64
    let b1 := (a + n) / 64 * 64
    if b1 ≤ b0 then s else (List.range ((b1 - b0) / 64)).foldl (fun s i => clearLost1 s (b0 + 64 * i)) s

/-- Store bytes in their place: the lost marks they cover clear (R292), and the die selects follow (R259). -/
def store (s : State) (a : Nat) (bs : List Byte) : State := driveRange (wrote (memPut s a bs) a bs.length) true a bs.length
/-- Copy bytes to their place in the same way. -/
def storeCopy (s : State) (src dst n : Nat) : State :=
  driveRange (wrote (memCopy (driveRange s false src n) src dst n) dst n) true dst n

/-- A write to the burst at an address cannot land: `part` says that it covers the burst in part (R290, R292, R293). -/
def burstShut (s : State) (part : Bool) (a : Nat) : Option ReadErr :=
  let unplaced := match burstOf s a with
    | some (k, _) => s.und.unplaced.contains k
    | none => false
  if unplaced || (part && lostAt s a) then some (.dataLost (lostChan s a))
  else if deadAt s a then some (.uncorrectable (lostChan s a)) else none

/-- A write of `[a, a + n)` cannot land: it covers part of a lost burst, or meets an unplaced extent or a lost block. The
failure and its burst. -/
def writeGone (s : State) (a n : Nat) : Option (ReadErr × Nat) :=
  if n = 0 || allSound s then none
  else
    (List.range ((a + n - 1) / 64 - a / 64 + 1)).findSome? fun i =>
      let x := a / 64 * 64 + 64 * i
      (burstShut s (x < a || a + n < x + 64) x).map fun e => (e, x)

/-- An extent of the range waits to be zeroed (R269). -/
def unzeroed (s : State) (a n : Nat) : Bool := s.und.zeroing.any fun z => overlap a n z.1 z.2

/-- Requests to the host window go out: the link is up, with Bus Master Enable and ATS Enable set in PF 0 (R468, R490). -/
def hostOpen (s : State) : Bool := s.pci.up && s.pci.busMaster && s.pci.ats

/-- An access that cannot go on: it waits for zeroing (none), or fails at an address. -/
abbrev Stuck := Option (ReadErr × Nat)

/-- What stops a read of bytes in reach: a closed host window, an extent not yet zeroed, a burst that is not delivered. -/
def readStuck (s : State) (a n : Nat) : Option Stuck :=
  if n = 0 then none
  else if inHost a n && !hostOpen s then some (some (.addressFault, a))
  else if unzeroed s a n then some none
  else (goneIn s a n).map some
/-- What stops a write of bytes in reach. -/
def writeStuck (s : State) (a n : Nat) : Option Stuck :=
  if n = 0 then none
  else if inHost a n && !hostOpen s then some (some (.addressFault, a))
  else if unzeroed s a n then some none
  else (writeGone s a n).map some
/-- The first of several reads, or of several writes, that is stopped. -/
def readsStuck (s : State) (xs : List (Nat × Nat)) : Option Stuck := xs.findSome? fun x => readStuck s x.1 x.2
def writesStuck (s : State) (xs : List (Nat × Nat)) : Option Stuck := xs.findSome? fun x => writeStuck s x.1 x.2
/-- Spans have been written: lost marks they cover clear, die selects follow (R259, R292). -/
def spansWrote (s : State) (xs : List (Nat × Nat)) : State :=
  xs.foldl (fun s x => driveRange (wrote s x.1 x.2) true x.1 x.2) s

/-- Byte spans joined where one reaches the next. -/
def joinSpans : List (Nat × Nat) → List (Nat × Nat)
  | [] => []
  | x :: xs =>
    match joinSpans xs with
    | y :: ys => if x.1 ≤ y.1 && y.1 ≤ x.1 + x.2 then (x.1, max (x.1 + x.2) (y.1 + y.2) - x.1) :: ys else x :: y :: ys
    | [] => [x]

/-! ## Failures at an address (R285, R286, R624) -/

/-- Count and record a failed copy (R285, R286): MIRROR_CORR where the other copy served, else UNCORR. -/
def badCopy (s : State) (a : Nat) (p : LPlace) (mirror corrected : Bool) : State :=
  let (c, d, b) := physOf s p
  let old := getF s (rUndChanErr c) fUndChanErrMirrorCorr
  let s := if corrected then satF s (rUndChanErr c) fUndChanErrMirrorCorr 1 else satF s (rUndChanErr c) fUndChanErrUncorr 1
  let new := getF s (rUndChanErr c) fUndChanErrMirrorCorr
  let th := getF s (rUndChanCtl c) fUndChanCtlThresh
  let s := if old < th && th ≤ new then raiseF s rUndEvents fUndEventsThreshold else s
  let e := rUndChanErraddr c
  let s := setF s e fUndChanErraddrAddr (a / 64 * 64)
  let s := setF s e fUndChanErraddrDie d
  let s := setF s e fUndChanErraddrBank b
  setF s e fUndChanErraddrMirror (if mirror then 1 else 0)

/-- Record an uncorrectable burst of local memory: each copy that was there to be read, in the registers of its channel
(R286). -/
def recordBurst (s : State) (a : Nat) : State :=
  match regionOfAddr s a with
  | none => s
  | some r =>
    let (p, m) := r.resolve s a
    match m with
    | none => badCopy s a p false false
    | some m =>
      let t := if copyReady s p then badCopy s a p false false else s
      if copyReady s m then badCopy t a m true false else t

/-- A failure at an address is recorded where local memory did not verify (R286). -/
def recordErr (s : State) (e : ReadErr) (a : Nat) : State :=
  match e with
  | .uncorrectable _ _ => recordBurst s a
  | _ => s
/-- The same, counted by its handoff number too (R547). -/
def noteErr (s : State) (h : Nat) (e : ReadErr) (a : Nat) : State := countErr (recordErr s e a) h e

/-- A dispatch-time read of what the command names fails (R624): recorded and counted, EXTENT and CHECK 0; INFO as for COPY
where `asCopy` holds. -/
def failRead (s : State) (r : CmdRef) (e : ReadErr) (asCopy : Bool) (a : Nat) : Disp :=
  let x := a + 64 * errUnit e
  .stopIn (noteErr s r.scope e x) (errCode e) 0 (if asCopy then errInfo e x else 0)

/-- Continue once such a read of `[a, a + n)` has been made: it waits for zeroing (R269), and ends at the first burst that
cannot be delivered, else with the failure `e` it meets. -/
def readOk (s : State) (r : CmdRef) (e : Option ReadErr) (asCopy : Bool) (a n : Nat) (k : Disp) : Disp :=
  if unzeroed s a n then .wait
  else
    match goneIn s a n, e with
    | some (x, b), _ => failRead s r x asCopy b
    | none, some x => failRead s r x asCopy a
    | none, none => k

/-! ## Repair records (R557) -/

/-- Follow the record counts into LNT_REPAIR_STATUS. -/
def refreshRepair (s : State) : State :=
  let rs := s.integ.records
  let s := setF s rLntRepairStatus fLntRepairStatusUsed (rs.countP fun r => r.kind ≠ 0 && r.state ≠ 2)
  let s := setF s rLntRepairStatus fLntRepairStatusPending (rs.countP fun r => r.kind ≠ 0 && r.state = 0)
  setF s rLntRepairStatus fLntRepairStatusExhausted (rs.countP fun r => r.kind ≠ 0 && r.state = 3)

/-- Two records name the same failure. -/
def Repair.same (a b : Repair) : Bool :=
  a.kind = b.kind && a.slice = b.slice && a.sub = b.sub && a.address = b.address && a.bit = b.bit && a.state ≤ 1

/-- Records in use; the store holds 4,096 (R557). -/
def storeFull (s : State) : Bool := 4096 ≤ s.integ.records.countP fun r => r.kind ≠ 0
/-- A new record takes the first empty place (DESIGN CHOICE, log 310). -/
def placeRecord (r : Repair) : List Repair → List Repair
  | [] => [r]
  | x :: xs => if x.kind = 0 then r :: xs else x :: placeRecord r xs
/-- The space of cleared records is free again (R559). -/
def freeCleared (s : State) : State :=
  { s with integ := { s.integ with records := s.integ.records.map fun x => if x.state = 2 then { count := 0, bit := 0 } else x } }

/-- Record a failure (R557): counted on a matching record, else a new one; a full store says so. -/
def addRecord (s : State) (r : Repair) : State :=
  if s.integ.records.any fun x => x.same r then
    { s with integ := { s.integ with
      records := s.integ.records.map fun x => if x.same r then { x with count := satAdd 32 x.count 1 } else x } }
  else if storeFull s then raiseF s rLntIntegEvents fLntIntegEventsStoreFull
  else
    let r := { r with number := s.integ.nextNumber, incarnation := getF s rOrlDevice fOrlDeviceIncarnation }
    refreshRepair { s with integ := { s.integ with
      records := placeRecord r s.integ.records, nextNumber := (s.integ.nextNumber + 1) % 2 ^ 32 } }

end Sys2Proof.Machine
end

