-- ==== Sys2Proof/Machine/Scale.lean ====
section
/-! DEFINITION. Scale-table entries and their updates (R107 to R110, R181, R194, R195), and layer records (R175 to
R181). The table lies at the address the image assigns, which no section the spec gives names: `Config.scaleBase`. -/

namespace Sys2Proof.Machine

/-- Address of a hall's scale entry (R107). -/
def scaleAddr (h e : Nat) : Nat := Config.scaleBase h + 128 * e

/-- Fields of an entry. -/
def seLen (s : State) (a : Nat) : Nat := memNat s a 1 % 128
def seMargin (s : State) (a : Nat) : Nat := memNat s (a + 1) 1 % 16
def seFormat (s : State) (a : Nat) : Nat := memNat s (a + 2) 1 % 32
def seNextK (s : State) (a : Nat) : Int := sext 16 (memNat s (a + 6) 2)
def seAppliedK (s : State) (a : Nat) : Int := sext 16 (memNat s (a + 8) 2)

/-- The entry may be used (R107): VALID, and a FORMAT that the table allows. -/
def seValid (s : State) (a : Nat) : Bool := bitOf (memNat s a 1) 7 && fmtIsScaled (seFormat s a)

/-- A named entry is valid and holds the format (check 18 of R173, check 6 of R237). -/
def scaleOk (s : State) (h e fmt : Nat) : Bool := seValid s (scaleAddr h e) && seFormat s (scaleAddr h e) = fmt

/-- History value of slot i, signed (R107). -/
def seHist (s : State) (a i : Nat) : Int := sext 8 (memNat s (a + 0x40 + i) 1)

/-- The largest of the `n` newest history values, from slot `head` down, skipping −128 (R108). -/
def histMax (s : State) (a head : Nat) : Nat → Option Int
  | 0 => none
  | n + 1 =>
    let v := seHist s a ((head + 64 - n) % 64)
    let rest := histMax s a head n
    if v = -128 then rest else some (match rest with | none => v | some r => max v r)

/-- Clamp. -/
def clampI (lo hi v : Int) : Int := max lo (min hi v)

/-- Push one exponent into an entry's history and recompute NEXT_K (R108, R109). -/
def pushHist (s : State) (a : Nat) (x : Int) (amax : Option Nat) : State :=
  let head := (memNat s (a + 4) 1 % 64 + 1) % 64
  let fill := min (memNat s (a + 3) 1 % 128 + 1) 64
  let s := memPutNat s (a + 4) 1 head
  let s := memPutNat s (a + 0x40 + head) 1 (x % 256).toNat
  let s := memPutNat s (a + 3) 1 fill
  let s := match amax with | some m => memPutNat s (a + 0x0C) 4 m | none => s
  let s := memPutNat s (a + 0x10) 4 (memNat s (a + 0x10) 4 + 1)
  match histMax s a head (min (seLen s a) fill) with
  | none => s
  | some hv =>
    memPutNat s (a + 6) 2 (clampI (-128) 127 (hv - scaleF (seFormat s a) + seMargin s a) % 65536).toNat

/-- SCALE_UPDATE: the update of a producing operation's entry at its completion (R108). -/
def scaleUpdate (s : State) (h e : Nat) (k : Int) (presented : Bool) (amax : Nat) : State :=
  let a := scaleAddr h e
  let s := memPutNat s (a + 8) 2 (k % 65536).toNat
  if !presented then s
  else
    match fDecode ifmt32 amax with
    | .fin _ m _ => pushHist s a (if m = 0 then -128 else clampI (-127) 127 (ceilLog2Fp32 amax)) (some amax)
    | _ => s

/-- Scale entries that a commit table names to update (R372). -/
def tableScales (b : List Byte) : List Nat :=
  (List.range (b.length / 8)).filterMap fun t => if bitOf (leAt b (8 * t + 6) 1) 0 then some (leAt b (8 * t + 4) 2) else none

/-- The update of an entry is still to apply for an earlier dispatched command of the hall: the entry of its output, or
those of its commit table (R109, R110, R375). -/
def scaleBusy (s : State) (h : Nat) (es : List Nat) : Bool :=
  (earlierCmds s h).any fun p =>
    (match p.2.job.scale with | some e => es.contains e | none => false)
      || (p.2.opcode = 0x22 && (tableScales p.2.job.rec1).any es.contains)

/-- The larger of two magnitudes as FP32 patterns; a NaN or infinity stays (R108). -/
def amaxJoin (a b : Nat) : Nat := if bitsOf a 0 31 < bitsOf b 0 31 then bitsOf b 0 31 else bitsOf a 0 31

/-! ## Layers (R175 to R181) -/

/-- The LAYER section of a hall's active variant. -/
def layerSec (st : FMap (List Byte)) (h : Nat) : List Byte := secOf st tyLAYER h (hallVar st h)
/-- The record of a layer, if the active LAYER section holds it (R176). -/
def layerRec (st : FMap (List Byte)) (h n : Nat) : Option (List Byte) :=
  let sec := layerSec st h
  if n + 1 < secCount sec then some (secEntry sec 64 (n + 1)) else none
/-- FROZEN, PARTIAL, DERIV of a layer; false without a record. -/
def layerBit (st : FMap (List Byte)) (h n b : Nat) : Bool :=
  match layerRec st h n with
  | some r => bitOf (leAt r 0 1) b
  | none => false
def layerFrozen (st : FMap (List Byte)) (h n : Nat) : Bool := layerBit st h n 0
def layerPartial (st : FMap (List Byte)) (h n : Nat) : Bool := layerBit st h n 1
def layerDeriv (st : FMap (List Byte)) (h n : Nat) : Bool := layerBit st h n 2
/-- The hall's active PHASE is generation (R178). -/
def hallGenerates (st : FMap (List Byte)) (h : Nat) : Bool := bitOf (leAt (secEntry (layerSec st h) 64 0) 0 1) 0

/-- LAYER names a layer the hall holds, or none; PASS 2 names a layer (R176, R177). -/
def layerOk (st : FMap (List Byte)) (h layer pass : Nat) : Bool :=
  if layer = 0xFFFF then pass ≠ 2 else (layerRec st h layer).isSome

/-- Write LEN and MARGIN into the entries of one layer's range whose address `p` picks (R181). -/
def applyLayerScale (p : Nat → Bool) (h len margin first : Nat) : Nat → State → State
  | 0, s => s
  | n + 1, s =>
    let a := scaleAddr h (first + n)
    let s := if p a then memPutNat s a 1 (setBits (memNat s a 1) 0 7 len) else s
    applyLayerScale p h len margin first n
      (if p (a + 1) then memPutNat s (a + 1) 1 (setBits (memNat s (a + 1) 1) 0 4 margin) else s)

/-- R181: the writes of LEN and MARGIN for every layer of a hall's active LAYER section, at the addresses that `p` picks. -/
def applyLayersAt (p : Nat → Bool) (s : State) (h : Nat) : State :=
  (List.range (secCount (layerSec s.run h) - 1)).foldl (fun s n =>
    match layerRec s.run h n with
    | some r =>
      let len := leAt r 1 1 % 128
      applyLayerScale p h (if len = 0 then 16 else len) (leAt r 2 1 % 16) (leAt r 4 2)
        (leAt r 6 2 + 65536 * (leAt r 3 1 % 2)) s
    | none => s) s
/-- The same for all of them. -/
def applyLayers (s : State) (h : Nat) : State := applyLayersAt (fun _ => true) s h
/-- The same for those in `n` bytes from `a`. -/
def applyLayersIn (s : State) (h a n : Nat) : State := applyLayersAt (fun x => a ≤ x && x < a + n) s h

/-- Learning tests every command of the kinds makes at dispatch, before its own checks (R176, R177, R184, R196): `learn`
says the command is learning work by its kind. -/
def learnGate (s : State) (h : Nat) (c : Cmd) (learn skips : Bool) (k : Disp) : Disp :=
  if !layerOk s.run h c.layer c.pass then .stop 0x10 0 0
  else if skips && layerFrozen s.run h c.layer then .stop 0x02 0 0
  else if learn && hallGenerates s.run h then .stop 0x18 0 0
  else k

end Sys2Proof.Machine
end

