-- ==== Sys2Proof/Machine/Desc.lean ====
section
/-! DEFINITION. Loop-nest descriptors, window parameters and operand lists (R147 to R160, R199 to R205), and the loader
checks (R173, R174, R207, R208). -/

namespace Sys2Proof.Machine

/-- A level record (R150, R151): role 1 O, 2 M, 3 N, 4 K, 5 P; strides of a level of role O in `s1 s2 s3`. -/
structure Lvl where
  bound : Nat
  role : Nat
  s1 : Int
  s2 : Int
  s3 : Int
  resv : Nat
  raw : Nat
  deriving DecidableEq, Repr

/-- A level record from its 8 bytes. -/
def lvlOf (x : Nat) : Lvl :=
  let role := bitsOf x 14 3
  if role = 1 then
    ⟨bitsOf x 0 14 + 1, 1, sext 15 (bitsOf x 18 15), sext 15 (bitsOf x 33 15), sext 15 (bitsOf x 48 15),
      bitsOf x 17 1 + bitsOf x 63 1, x⟩
  else ⟨bitsOf x 0 14 + 1, role, sext 23 (bitsOf x 18 23), sext 23 (bitsOf x 41 23), 0, bitsOf x 17 1, x⟩

/-- A descriptor: header word, drain word, level records (R147, R148, R126). -/
structure Desc where
  hdr : Nat
  drn : Nat
  lv : List Lvl
  wp : Nat
  deriving DecidableEq, Repr

/-- A descriptor from its 64 bytes (R147, R199). -/
def descOf (b : List Byte) : Desc :=
  let hdr := leAt b 0 8
  let n := if bitsOf hdr 0 2 = 1 then 4 else 6
  { hdr := hdr, drn := leAt b 8 8, lv := (List.range n).map fun i => lvlOf (leAt b (16 + 8 * i) 8)
    wp := if n = 4 then leAt b 48 16 else 0 }

def Desc.kind (d : Desc) : Nat := bitsOf d.hdr 0 2
def Desc.fmtA (d : Desc) : Nat := bitsOf d.hdr 2 5
def Desc.fmtB (d : Desc) : Nat := bitsOf d.hdr 7 5
def Desc.transA (d : Desc) : Bool := bitOf d.hdr 12
def Desc.transB (d : Desc) : Bool := bitOf d.hdr 13
def Desc.codeA (d : Desc) : Nat := bitsOf d.hdr 14 2
def Desc.codeB (d : Desc) : Nat := bitsOf d.hdr 16 2
def Desc.rows (d : Desc) : Nat := 32 * (bitsOf d.hdr 18 3 + 1)
def Desc.cols (d : Desc) : Nat := 32 * (bitsOf d.hdr 21 2 + 1)
def Desc.mcOp (d : Desc) : Nat := bitsOf d.hdr 23 2
def Desc.mcLog (d : Desc) : Nat := bitsOf d.hdr 25 3
def Desc.saEn (d : Desc) : Bool := bitOf d.hdr 28
def Desc.sbEn (d : Desc) : Bool := bitOf d.hdr 29
def Desc.scaleA (d : Desc) : Nat := bitsOf d.hdr 32 16
def Desc.scaleB (d : Desc) : Nat := bitsOf d.hdr 48 16
def Desc.outFmt (d : Desc) : Nat := bitsOf d.drn 0 5
def Desc.conv (d : Desc) : Nat := bitsOf d.drn 5 8
def Desc.affine (d : Desc) : Nat := bitsOf d.drn 13 2
def Desc.func (d : Desc) : Nat := bitsOf d.drn 15 3
def Desc.resid (d : Desc) : Nat := bitsOf d.drn 18 2
def Desc.amax (d : Desc) : Bool := bitOf d.drn 20
def Desc.norm (d : Desc) : Bool := bitOf d.drn 21
def Desc.mask (d : Desc) : Bool := bitOf d.drn 22
def Desc.argmax (d : Desc) : Bool := bitOf d.drn 23
def Desc.twin (d : Desc) : Bool := bitOf d.drn 24
def Desc.soEn (d : Desc) : Bool := bitOf d.drn 25
def Desc.scaleC (d : Desc) : Nat := bitsOf d.drn 32 16
/-- Window parameters (R200). -/
def Desc.wmode (d : Desc) : Nat := bitsOf d.wp 0 2
def Desc.pool (d : Desc) : Nat := bitsOf d.wp 4 2
def Desc.isPool (d : Desc) : Bool := d.kind = 1 && d.wmode = 3
/-- Kernel extent, stride, dilation, padding before and after of dimension 0 T, 1 H, 2 W (R200). -/
def Desc.kx (d : Desc) (x : Nat) : Nat := bitsOf d.wp (8 + 5 * x) 5 + 1
def Desc.sx (d : Desc) (x : Nat) : Nat := bitsOf d.wp (23 + 4 * x) 4 + 1
def Desc.dx (d : Desc) (x : Nat) : Nat := bitsOf d.wp (35 + 4 * x) 4 + 1
def Desc.ax (d : Desc) (x : Nat) : Nat := bitsOf d.wp (48 + 16 * x) 8
def Desc.zx (d : Desc) (x : Nat) : Nat := bitsOf d.wp (56 + 16 * x) 8

/-- Chunk length CH (R153). -/
def Desc.ch (d : Desc) : Nat :=
  if d.isPool then 128
  else if (fmtIs4 d.fmtA && fmtIs4 d.fmtB) then 256 else 128

/-- The used level records (R152). -/
def Desc.used (d : Desc) : List Lvl := d.lv.filter fun l => l.role ≠ 0
/-- K levels, P bound, and the tile levels in order. -/
def Desc.kLv (d : Desc) : List Lvl := d.used.takeWhile fun l => l.role = 4
def Desc.tileLv (d : Desc) : List Lvl := d.used.dropWhile fun l => l.role = 4
def prodNat (l : List Nat) : Nat := l.foldl (· * ·) 1
/-- Q: chunks of an item (R158). -/
def Desc.q (d : Desc) : Nat := prodNat (d.kLv.map (·.bound))
def Desc.hasP (d : Desc) : Bool := d.tileLv.any fun l => l.role = 5
def Desc.pBound (d : Desc) : Nat := prodNat ((d.tileLv.filter fun l => l.role = 5).map (·.bound))
def Desc.mBound (d : Desc) : Nat := prodNat ((d.tileLv.filter fun l => l.role = 2).map (·.bound))
def Desc.nBound (d : Desc) : Nat := prodNat ((d.tileLv.filter fun l => l.role = 3).map (·.bound))
/-- T of R160. -/
def Desc.items (d : Desc) : Nat := prodNat (d.tileLv.map (·.bound))

/-- Line size of a native operand, a transposed operand, an output (R153). -/
def lineIn (ch fmt : Nat) (trans : Bool) : Nat :=
  if trans then fmtBits fmt * 16 else ceilDiv (ch * fmtBits fmt) 512 * 64
def lineOut (fmt : Nat) : Nat :=
  match fmtBits fmt with
  | 128 => 2048 | 32 => 512 | 16 => 256 | 8 => 128 | 6 => 128 | _ => 64

/-! ## Operand list (R154 to R156) -/

def opAddr (b : List Byte) (e : Nat) : Nat := leAt b (16 * e) 6
def opPresent (b : List Byte) (e : Nat) : Bool := bitOf (leAt b (16 * e + 6) 2) 0
def opPitch (b : List Byte) (e : Nat) : Nat := leAt b (16 * e + 8) 4
def opFmt (b : List Byte) (e : Nat) : Nat := leAt b (16 * e + 12) 4 % 32
def opExt (b : List Byte) (o n : Nat) : Nat := leAt b (192 + o) n

/-- Geometry of a window command (R201, R202): extents of T, H, W, batch, channels. -/
structure Geo where
  i : Nat → Nat
  nb : Nat
  cin : Nat
  cout : Nat

def geoOf (b : List Byte) : Geo :=
  { i := fun x => opExt b (2 * x) 2, nb := opExt b 6 2, cin := opExt b 8 4, cout := opExt b 12 4 }
/-- Output extent O_x (R202); 0 when the window does not fit. -/
def Desc.ox (d : Desc) (g : Geo) (x : Nat) : Nat :=
  let span := g.i x + d.ax x + d.zx x
  let need := d.dx x * (d.kx x - 1) + 1
  if span < need then 0 else (span - need) / d.sx x + 1
def Desc.pIn (_d : Desc) (g : Geo) : Nat := g.i 0 * g.i 1 * g.i 2
def Desc.pOut (d : Desc) (g : Geo) : Nat := d.ox g 0 * d.ox g 1 * d.ox g 2
def Desc.taps (d : Desc) : Nat := d.kx 0 * d.kx 1 * d.kx 2
def Desc.cci (d : Desc) (g : Geo) : Nat := ceilDiv g.cin d.ch
def Desc.cco (_d : Desc) (g : Geo) : Nat := ceilDiv g.cout 128
/-- R of mode 2 (R203). -/
def Desc.rLen (d : Desc) (g : Geo) : Nat := ceilDiv (d.pOut g) 128 * 128

/-- True output rows, columns (R156, R203). -/
def Desc.mExt (d : Desc) (b : List Byte) : Nat :=
  if d.kind = 0 then opExt b 0 4
  else
    let g := geoOf b
    match d.wmode with
    | 1 => g.nb * d.pIn g
    | 2 => g.cout
    | _ => g.nb * d.pOut g
def Desc.nExt (d : Desc) (b : List Byte) : Nat :=
  if d.kind = 0 then opExt b 4 4
  else
    let g := geoOf b
    match d.wmode with
    | 0 => g.cout
    | 2 => d.taps * d.cci g * 128
    | _ => g.cin

/-! ## Loader checks (R173, R207) -/

/-- A list of named conditions: the first that fails, with its code and check number. -/
def firstFail : List (Nat × Nat × Bool) → Option (Nat × Nat)
  | [] => none
  | (check, code, ok) :: r => if ok then firstFail r else some (code, check)

/-- Unused dimensions have kernel 1, stride 1, dilation 1 and no padding (R200). -/
def Desc.dimsOk (d : Desc) : Bool :=
  let n := bitsOf d.wp 2 2
  n ≠ 0 && (List.range 3).all fun x =>
    (3 - n ≤ x) || (d.kx x = 1 && d.sx x = 1 && d.dx x = 1 && d.ax x = 0 && d.zx x = 0)

/-- CODE_A and CODE_B are allowed for their formats: exponent coding takes BF16, low-rank packing BF16 or FP16
(check 4; R315). -/
def codeOk (code fmt : Nat) : Bool :=
  code = 0 || (code = 1 && fmt = 0x02) || (code = 2 && (fmt = 0x02 || fmt = 0x03))

/-- The drain word follows R126 and R127, apart from the FORMAT test of check 18. -/
def Desc.drainOk (d : Desc) : Bool :=
  fmtIsDrainOut d.outFmt && d.conv < 16 && d.affine ≤ 2 && d.func ≤ 4 && d.resid ≤ 2 && bitsOf d.drn 26 6 = 0
    && bitsOf d.drn 48 16 = 0
    && !(d.func = 4 && d.resid ≠ 0) && !(d.twin && !fmtIsMx d.outFmt)
    && !(d.soEn && !fmtIsScaled d.outFmt) && (d.soEn || d.scaleC = 0) && (d.soEn || !d.amax)
    && !(d.outFmt = 0x11 && fmtIsHalf d.fmtA)
    && !(d.outFmt = 0x11 && (d.affine ≠ 0 || d.func ≠ 0 || d.resid ≠ 0 || d.amax || d.norm || d.argmax || d.twin
      || d.soEn))

/-- Checks 1 to 11, those made at a commit too; `treads` is the hall's number of treads (R173). `len` is check 7 of a
window descriptor, whose extents stand in the operand list (R207): true where the list is not read. -/
def Desc.checkCommit (d : Desc) (treads : Nat) (len : Bool := true) : Option (Nat × Nat) :=
  let win := d.kind = 1
  let u := d.used
  let tile := d.tileLv
  let noTransMx (f : Nat) (t : Bool) : Bool := !(t && (fmtIsMx f))
  let group := tile.head?.map (·.role)
  let wmodeOk := !win ||
    (bitsOf d.wp 6 2 = 0 && bitsOf d.wp 47 1 = 0 && bitsOf d.wp 96 32 = 0 && d.pool ≤ 2
      && (d.wmode = 3 || d.pool = 0) && d.dimsOk
      && (match d.wmode with
        | 0 => !d.transA && !d.transB | 1 => !d.transA && d.transB | 2 => d.transA && d.transB
        | _ => !d.transA && !d.transB)
      && d.codeA = 0 && (d.wmode < 2 || d.codeB = 0)
      && (d.wmode ≠ 3 || (d.fmtB = 0 && (fmtIsHalf d.fmtA || fmtIsFp8 d.fmtA || d.fmtA = 0x0C || d.fmtA = 0x0D)))
      && ((d.wmode ≠ 1 && d.wmode ≠ 2) || (d.ch = 128 && !fmtIsMx d.fmtA && !fmtIsMx d.fmtB)))
  firstFail
    [(1, 0x10, d.kind ≤ 1 && d.mcOp ≤ 2 && d.codeA ≤ 2 && d.codeB ≤ 2 && bitsOf d.hdr 30 2 = 0
        && (d.lv.all fun l => l.resv = 0) && (d.isPool || pairOk d.fmtA d.fmtB) && wmodeOk),
     (2, 0x10, (d.lv.drop u.length).all (fun l => l.raw = 0) && (u.all fun l => l.role ≤ 5)
        && (tile.all fun l => l.role ≠ 4) && ((tile.drop 1).all fun l => l.role ≠ 5)
        && (!win || ((u.all fun l => l.role ≠ 1 && l.s1 = 0 && l.s2 = 0)
          && (d.wmode ≠ 3 || (u.all fun l => l.role ≠ 4 && l.role ≠ 5))
          && ((d.wmode ≠ 1 && d.wmode ≠ 2) || d.cols = 128) && (d.wmode ≠ 3 || d.mcOp = 0)))),
     (3, 0x10, noTransMx d.fmtA d.transA && noTransMx d.fmtB d.transB),
     (4, 0x10, codeOk d.codeA d.fmtA && codeOk d.codeB d.fmtB && !(d.codeA = 2 && d.codeB = 2)),
     (5, 0x10, (d.saEn || d.scaleA = 0) && (d.sbEn || d.scaleB = 0) && (!d.saEn || fmtIsScaled d.fmtA)
        && (!d.sbEn || fmtIsScaled d.fmtB)),
     (6, 0x10, d.drainOk),
     (7, 0x12, if win then len else d.pBound * d.q * d.ch ≤ 16777216),
     (8, 0x12, d.isPool || !fmtIsHalf d.fmtA || (d.q * 128 ≤ 1024 && d.q * 128 = 2 ^ Nat.log2 (d.q * 128))),
     (9, 0x12, d.items ≤ 2 ^ 32),
     (10, 0x12, d.mcOp = 0 || ((group = some (if d.mcOp = 1 then 3 else 2)) && !d.hasP && 2 ^ d.mcLog ≤ treads)),
     (11, 0x12, !d.twin || tile.all fun l => l.role ≠ 1)]

/-- An entry is present exactly when R155 says so (R207 for pooling, R227 for an append). -/
def Desc.entryWanted (d : Desc) (append : Bool) (e : Nat) : Bool :=
  match e with
  | 0 => true
  | 1 => fmtIsMx d.fmtA
  | 2 => !d.isPool
  | 3 => !d.isPool && fmtIsMx d.fmtB
  | 4 => true
  | 5 => fmtIsMx d.outFmt && !append
  | 6 => d.twin
  | 7 => d.twin
  | 8 => d.affine ≠ 0
  | 9 => d.resid ≠ 0 || d.func = 4
  | 10 => d.mask
  | 11 => d.hasP
  | 13 => d.argmax
  | 14 => d.norm
  | _ => true

/-- Check 15: presence, PITCH and FMT of every entry, reserved fields (R155, R156, R191, R201, R211). -/
def Desc.entriesOk (d : Desc) (append : Bool) (b : List Byte) : Bool :=
  ((List.range 15).all fun e =>
    if e = 12 then
      (d.kind = 1 && (opExt b 0 2 ≠ 0 && opExt b 2 2 ≠ 0 && opExt b 4 2 ≠ 0 && opExt b 6 2 ≠ 0 && opExt b 8 4 ≠ 0
        && ((opExt b 12 4 = 0) = (d.wmode = 3)))) || (d.kind = 0 && opExt b 12 4 = 0)
    else if e = 4 && append then leAt b (16 * 4 + 12) 4 = 0
    else
      (opPresent b e = d.entryWanted append e) && leAt b (16 * e + 6) 2 ≤ 1
        && (if e = 9 then leAt b (16 * e + 12) 4 < 32 && (opFmt b e = 0 || opFmt b e = 2 || opFmt b e = 3)
            else leAt b (16 * e + 12) 4 = 0)
        && (!([1, 3, 5, 7, 8, 11].contains e) || opPitch b e = 0)
        && (e ≠ 9 || !opPresent b e || opPitch b e = opPitch b 4)
        && (e ≠ 13 || !opPresent b e || 1 ≤ opPitch b e) && (e ≠ 14 || !opPresent b e || opPitch b e ≤ 3))
  && leAt b 244 4 = 0 && leAt b 248 8 = 0

/-- Lowest and highest value of a sum of strided indices: each index is 0 or its bound less one (R174). -/
def strideSpan (ls : List (Nat × Int)) : Int × Int :=
  ls.foldl (fun acc l => (acc.1 + min 0 ((l.1 - 1 : Int) * l.2), acc.2 + max 0 ((l.1 - 1 : Int) * l.2))) (0, 0)

/-- Reach of an entry as first byte and length; `none` when it is absent (R174, R208, R191). Rows and columns stand at
their highest tile position, as R174 says; R208 gives a window's C, Y and TWIN, but TWIN in mode 2, X, Z and ARGMAX follow
R174 there too (log 287). -/
def Desc.reach (d : Desc) (append : Bool) (b : List Byte) (e : Nat) : Option (Int × Int) :=
  if !d.entryWanted append e || (e = 4 && append) || e = 12 || 14 < e then none
  else
    let a : Int := opAddr b e
    let p : Int := opPitch b e
    let g := geoOf b
    let win := d.kind = 1
    let u := d.used
    let sel (f : Lvl → Int) : List (Nat × Int) := u.map fun l => (l.bound, f l)
    let mE : Int := d.mExt b
    -- rows and columns at their highest index, bound less one at every level
    let mT : Nat := d.mBound * d.rows
    let nT : Nat := d.nBound * d.cols
    let twin : Int :=
      if win && d.wmode ≠ 2 then (mE - 1) * opPitch b 6 + ((ceilDiv (d.nExt b) d.cols : Nat) - 1 : Int)
      else ((nT : Int) - 1) * opPitch b 6 + ((mT - 1) / 128 : Nat)
    let lineReach (lo hi : Int) (sz : Nat) : Int × Int := (a + lo * sz, (hi - lo + 1) * sz)
    let aLines : Int × Int :=
      if win then
        match d.wmode with
        | 1 => (0, ((g.nb * d.pOut g : Nat) - 1) * opPitch b 0 + (d.cco g - 1 : Int))
        | 2 => (0, ((g.nb * d.pOut g : Nat) - 1) * opPitch b 0 + (d.cco g - 1 : Int))
        | _ => (0, ((g.nb * d.pIn g : Nat) - 1) * opPitch b 0 + (d.cci g - 1 : Int))
      else
        let (lo, hi) := strideSpan (sel fun l => match l.role with
          | 1 => 256 * l.s1 | 2 => l.s1 | 4 => l.s1 | 5 => l.s1 | _ => 0)
        if d.transA then (lo, hi + (d.ch - 1 : Int) * opPitch b 0 + ((d.rows - 1) / 128 : Nat))
        else (lo, hi + (d.rows - 1 : Int) * opPitch b 0)
    let bLines : Int × Int :=
      if win then
        match d.wmode with
        | 2 => (0, ((g.nb * d.pIn g : Nat) - 1) * opPitch b 2 + (d.cci g - 1 : Int))
        | _ => (0, ((g.cout : Int) - 1) * opPitch b 2 + ((d.taps * d.cci g : Nat) - 1 : Int))
      else
        let (lo, hi) := strideSpan (sel fun l => match l.role with
          | 1 => 256 * l.s2 | 3 => l.s1 | 4 => l.s2 | 5 => l.s2 | _ => 0)
        if d.transB then (lo, hi + (d.ch - 1 : Int) * opPitch b 2)
        else (lo, hi + (d.cols - 1 : Int) * opPitch b 2)
    let cLines : Int × Int :=
      if win then (0, (mE - 1) * opPitch b 4 + ((ceilDiv (d.nExt b) d.cols : Nat) - 1 : Int))
      else
        let (lo, hi) := strideSpan (sel fun l => match l.role with
          | 1 => 256 * l.s3 | 2 => l.s2 | 3 => l.s2 | _ => 0)
        (lo, hi + (d.rows - 1 : Int) * opPitch b 4)
    let szA := lineIn d.ch d.fmtA d.transA
    let szB := lineIn d.ch d.fmtB d.transB
    let scl (ls : Int × Int) (n : Int) : Int × Int := (a + ls.1 * n, (ls.2 - ls.1 + 1) * n)
    let nA : Int := if d.ch = 256 then 8 else 4
    some <| match e with
    | 0 => lineReach aLines.1 aLines.2 szA
    | 1 => scl aLines nA
    | 2 => lineReach bLines.1 bLines.2 szB
    | 3 => scl bLines nA
    | 4 => lineReach cLines.1 cLines.2 (lineOut d.outFmt)
    | 5 => scl cLines 4
    | 6 => lineReach 0 twin (lineOut d.outFmt)
    | 7 => scl (0, twin) 4
    | 8 => (a, 8 * (nT : Int))
    | 9 => lineReach cLines.1 cLines.2 (lineOut (opFmt b 9))
    | 10 => (a, max ((ceilDiv mT 8 : Nat) : Int) (p + (ceilDiv nT 8 : Nat)))
    | 11 => (a, ((d.items * d.rows * 128 * (if fmtIsHalf d.fmtA then 4 else 16) : Nat) : Int))
    | 13 => (a, 8 * p * ((mT : Int) - 1) + 8)
    | _ => (a + 32 * p, 32)

/-- Entries a product writes (check 19). -/
def writtenEntries : List Nat := [4, 5, 6, 7, 11, 13, 14]

/-- Reaches of the present entries, as entry, first byte, bytes. -/
def Desc.reaches (d : Desc) (append : Bool) (b : List Byte) : List (Nat × Int × Int) :=
  (List.range 15).filterMap fun e => (d.reach append b e).map fun r => (e, r.1, r.2)

/-- Check 17 (R173, R207). -/
def Desc.extentsOk (d : Desc) (b : List Byte) : Bool :=
  let tileOk (ext bound sz : Nat) : Bool := (bound - 1) * sz < ext && ext ≤ bound * sz
  if d.kind = 0 then
    tileOk (opExt b 0 4) d.mBound d.rows && tileOk (opExt b 4 4) d.nBound d.cols
      && tileOk (opExt b 8 4) d.pBound (d.q * d.ch)
  else
    let g := geoOf b
    let cc := if d.wmode = 1 then d.cco g else d.cci g
    let total := d.taps * cc
    ((List.range 3).all fun x => 1 ≤ d.ox g x) && tileOk (d.mExt b) d.mBound d.rows && tileOk (d.nExt b) d.nBound d.cols
      && (match d.wmode with
        | 0 | 1 => (d.pBound - 1) * d.q < total && total ≤ d.pBound * d.q
            && d.taps * d.cci g ≤ opPitch b 2
            && (if d.wmode = 0 then d.cci g else d.cco g) ≤ opPitch b 0
        | 2 => (d.pBound - 1) * d.q * 128 < g.nb * d.rLen g && g.nb * d.rLen g ≤ d.pBound * d.q * 128
            && d.nBound = d.taps * d.cci g && d.cco g ≤ opPitch b 0
        | _ => d.cci g ≤ opPitch b 0)
      && ceilDiv (d.nExt b) d.cols ≤ opPitch b 4

/-- Check 7 of a window descriptor, which needs the operand list (R207). -/
def Desc.windowLenOk (d : Desc) (b : List Byte) : Bool :=
  if d.kind = 0 then true
  else
    let g := geoOf b
    match d.wmode with
    | 0 => d.taps * d.cci g * d.ch ≤ 16777216
    | 1 => d.taps * d.cco g * d.ch ≤ 16777216
    | 2 => g.nb * d.rLen g ≤ 16777216
    | _ => true

end Sys2Proof.Machine
end

