-- ==== Sys2Proof/Machine/Tables.lean ====
section
/-! DEFINITION. Function tables (R133 to R135) and the exponential of attention (R239). -/

namespace Sys2Proof.Machine

/-- Segment `i` of a table entry: Y and D (R133). -/
def tabY (tab : List Byte) (i : Nat) : Nat := leAt tab (64 + 8 * i) 4
def tabD (tab : List Byte) (i : Nat) : Nat := leAt tab (64 + 8 * i + 4) 4

/-- The CRC of a table's segments matches its header (R133, R136). -/
def tabCrcOk (tab : List Byte) : Bool := crc32c ((tab.drop 64).take 8192) = leAt tab 8 4

/-- The header conditions of R133: STEP_EXP, edge modes, E_BASE and NEG in range, reserved fields zero. -/
def tabHeaderOk (tab : List Byte) : Bool :=
  let st := sext 8 (leAt tab 4 1)
  let m := leAt tab 5 1
  let uniform := !bitOf m 0
  (-100 ≤ st && st ≤ 100) && bitsOf m 1 3 ≤ 3 && bitsOf m 4 3 ≤ 3 && bitsOf m 7 1 = 0
    && (uniform || (1 ≤ leAt tab 6 1 && leAt tab 6 1 ≤ 223)) && bitsOf (leAt tab 7 1) 0 2 ≤ 2
    && leAt tab 7 1 / 4 = 0 && ((tab.drop 12).take 52).all (· = 0)

/-- fma to nearest, ties to even. -/
def fma32 (a b c : Nat) : Nat := (fFma ifmt32 0 a b c).1
/-- x − y rounded once to FP32, for two FP32 patterns. -/
def sub32 (a b : Nat) : Nat := (fSub ifmt32 0 a b).1

/-- A finite number as an FP32 pattern, rounded once to nearest. -/
def fp32Of (n : Bool) (m : Nat) (e : Int) : Nat := (fRound ifmt32 0 n m e).1

/-- A table on a non-NaN input (R134, R135), before the sign treatment of NEG: `x` is the input, |x| in binade mode
except where a negative input takes the LOW edge (`forceLow`). -/
def tabCore (tab : List Byte) (forceLow : Bool) (x : Nat) : Nat :=
  let md := leAt tab 5 1
  let uniform := !bitOf md 0
  let lowMode := bitsOf md 1 3
  let highMode := bitsOf md 4 3
  let step := sext 8 (leAt tab 4 1)
  let eBase := leAt tab 6 1
  let xlo := leAt tab 0 4
  -- segment start of segment i, exactly, as sign, magnitude, exponent
  let start (i : Nat) : Bool × Nat × Int :=
    if uniform then
      match fDecode ifmt32 xlo with
      | .fin n m e => exactSum n m e false i step
      | _ => (false, 0, 0)
    else
      let ex : Int := (eBase : Int) + (i / 32 : Nat) - 127
      (false, 32 + i % 32, ex - 5)
  let rOf (i : Nat) : Nat :=
    match fDecode ifmt32 x with
    | .fin n m e =>
      let (ns, ms, es) := start i
      let (nr, mr, er) := exactSum n m e (!ns) ms es
      fp32Of nr mr er
    | .inf n => fInf ifmt32 n
    | .nan => fCanonNaN ifmt32
  let edge (i : Nat) : Nat :=
    match fDecode ifmt32 x with
    | .inf _ =>
      if bitsOf (tabD tab i) 0 31 = 0 then tabY tab i else fma32 (tabD tab i) (rOf i) (tabY tab i)
    | _ => fma32 (tabD tab i) (rOf i) (tabY tab i)
  let low : Nat :=
    match lowMode with
    | 0 => tabY tab 0
    | 1 => edge 0
    | 2 => x
    | _ => 0
  let high : Nat :=
    match highMode with
    | 0 =>
      let w : Nat := if uniform then fp32Of false 1 step else fp32Of false 1 ((eBase : Int) + 31 - 127 - 5)
      fma32 (tabD tab 1023) w (tabY tab 1023)
    | 1 => edge 1023
    | 2 => x
    | _ => 0
  if forceLow then low
  else
    match fDecode ifmt32 x with
    | .nan => fQuiet ifmt32 x
    | .inf n => if n then low else high
    | .fin n m e =>
      let i : Int :=
        if uniform then
          match fDecode ifmt32 xlo with
          | .fin nl ml el =>
            let (nd, d, ed) := exactSum n m e (!nl) ml el
            let v : Int := if nd then -(d : Int) else d
            if step ≤ ed then v * 2 ^ (ed - step).toNat else v.fdiv (2 ^ (step - ed).toNat)
          | _ => -1
        else 32 * ((bitsOf x 23 8 : Nat) - (eBase : Int)) + (bitsOf x 18 5 : Nat)
      let belowZero : Bool := !uniform && bitsOf x 0 31 = 0
      if i < 0 || belowZero then low
      else if 1023 < i then high
      else fma32 (tabD tab i.toNat) (rOf i.toNat) (tabY tab i.toNat)

/-- f_j of a table entry (R133 to R135); an absent table gives the canonical NaN, but a NaN input is quieted under R135
even there (log 285). -/
def tabEval (tab : List Byte) (x : Nat) : Nat :=
  if fIsNaN ifmt32 x then fQuiet ifmt32 x
  else if tab.isEmpty then fCanonNaN ifmt32
  else if bitOf (leAt tab 5 1) 0 then
    let ax := bitsOf x 0 31
    let neg := bitsOf (leAt tab 7 1) 0 2
    if bitOf x 31 then
      match neg with
      | 0 => tabCore tab false ax
      | 1 => fNeg ifmt32 (tabCore tab false ax)
      | _ => tabCore tab (decide (ax ≠ 0)) x
    else tabCore tab false ax
  else tabCore tab false x

/-- Whether 2^(i/1024) is at least the FP32 significand `n · 2^(-24)` half-way value, compared through 1024th powers:
the exact test that Y_i of R239 is rounded by. -/
def pow2Ge (i n d : Nat) : Bool := n ^ 1024 ≤ 2 ^ (i + d * 1024)

/-- The largest 24-bit significand `m` (bit `k` down) with (m / 2^23)^1024 ≤ 2^i. -/
def pow2Floor : Nat → Nat → Nat → Nat
  | 0, _, acc => acc
  | k + 1, i, acc => pow2Floor k i (if pow2Ge i (acc + 2 ^ k) 23 then acc + 2 ^ k else acc)

/-- Y_i of R239: 2^(i / 1024) rounded to nearest FP32, as a significand of 24 bits; the half-way point is never met. -/
def expY (i : Nat) : Nat :=
  if 1024 ≤ i then 2 ^ 24
  else
    let m := pow2Floor 24 i 0
    if pow2Ge i (2 * m + 1) 24 then m + 1 else m

/-- E(x) of R239 for an FP32 pattern that is not positive. -/
def expE (x : Nat) : Nat :=
  if fIsNaN ifmt32 x then fCanonNaN ifmt32
  else
    match fDecode ifmt32 x with
    | .inf _ => 0
    | _ =>
      let y := (fMul ifmt32 0 x 0x3FB8AA3B).1
      match fDecode ifmt32 y with
      | .fin n m e =>
        if fnCmp (.fin n m e) (.fin true 126 0) < 0 then 0
        else
          let v : Int := if n then -(m : Int) else m
          let nn : Int := if 0 ≤ e then v * 2 ^ e.toNat else v.fdiv (2 ^ (-e).toNat)
          -- f = y − n, exactly, as fm · 2^e
          let fm : Nat := if 0 ≤ e then 0 else (v - nn * 2 ^ (-e).toNat).toNat
          let i : Nat := if 0 ≤ e then 0 else fm * 1024 / 2 ^ (-e).toNat
          let yi := expY i
          let di := fp32Of false (expY (i + 1) - yi) (10 - 23)
          -- T: the exact product D_i · (f − i / 1024) plus Y_i, rounded once
          let (_, rm, re) := exactSum false fm e true i (-10)
          let t := match fDecode ifmt32 di with
            | .fin _ md ed => let (n, m, e) := exactSum false (md * rm) (ed + re) false yi (-23); fp32Of n m e
            | _ => di
          match fDecode ifmt32 t with
          | .fin _ tm te => fp32Of false tm (te + nn)
          | _ => t
      | _ => 0

end Sys2Proof.Machine
end

