-- ==== Sys2Proof/Machine/Coded.lean ====
section
/-! DEFINITION. Coded tensors (11_compression.md): headers, exponent coding, low-rank packing, the header check and the
expander. A read of a raw image answers its bytes or the completion code that ends the request (R330). -/

namespace Sys2Proof.Machine

/-! ## Code tables (R318 to R320) -/

/-- LEN of a symbol. -/
def ctLen (tab : List Byte) (sym : Nat) : Nat := bitsOf (leAt tab (16 + sym / 2) 1) (4 * (sym % 2)) 4

/-- The CRC of a code-table record matches. -/
def ctCrcOk (tab : List Byte) : Bool := crc32c ((tab.drop 16).take 176) = leAt tab 4 4

/-- The other conditions of R319; `slotField` says whether SLOT may be non-zero. -/
def ctOk (tab : List Byte) (slotField : Bool) : Bool :=
  let zero (o n : Nat) : Bool := leAt tab o n = 0
  ctLen tab 256 ≠ 0
    && ((List.range 257).foldl (fun a y => if ctLen tab y = 0 then a else a + 2 ^ (15 - ctLen tab y)) 0) = 2 ^ 15
    && leAt tab 0 1 < (if slotField then 4 else 1) && zero 1 3 && zero 8 8 && leAt tab 144 1 / 16 = 0 && zero 145 47

/-- Symbols with a code, by length and then number. -/
def ctSorted (tab : List Byte) : List (Nat × Nat) :=
  (List.range' 1 15).flatMap fun l => ((List.range 257).filter fun y => ctLen tab y = l).map fun y => (l, y)

/-- Canonical codes: length, code, symbol (R320). `prev` is the previous length and code. -/
def ctAssign : Option (Nat × Nat) → List (Nat × Nat) → List (Nat × Nat × Nat)
  | _, [] => []
  | none, (l, y) :: r => (l, 0, y) :: ctAssign (some (l, 0)) r
  | some (pl, pc), (l, y) :: r =>
    let c := (pc + 1) * 2 ^ (l - pl)
    (l, c, y) :: ctAssign (some (l, c)) r

def ctCodes (tab : List Byte) : List (Nat × Nat × Nat) := ctAssign none (ctSorted tab)

/-- Bit `n` of a stream that fills each byte from bit 0 upward (R320). -/
def streamBit (bs : List Byte) (n : Nat) : Bool := bitOf (leAt bs (n / 8) 1) (n % 8)
/-- `l` bits of a stream as a code, most significant bit first. -/
def streamCode (bs : List Byte) (pos : Nat) : Nat → Nat
  | 0 => 0
  | l + 1 => 2 * streamCode bs pos l + (if streamBit bs (pos + l) then 1 else 0)

/-- Decode `n` exponents from position `pos`: the exponents and the end position. -/
def decodeExps (codes : List (Nat × Nat × Nat)) (bs : List Byte) : Nat → Nat → Option (List Nat × Nat)
  | 0, pos => some ([], pos)
  | n + 1, pos =>
    match codes.find? fun c => streamCode bs pos c.1 = c.2.1 with
    | none => none
    | some (l, _, y) =>
      let (e, pos) := if y = 256 then (streamCode bs (pos + l) 8, pos + l + 8) else (y, pos + l)
      (decodeExps codes bs n pos).map fun r => (e :: r.1, r.2)

/-- Bits of a code, most significant first. -/
def codeBits (l c : Nat) : List Bool := (List.range l).map fun i => bitOf c (l - 1 - i)
/-- The code stream of one exponent (R320). -/
def encodeExp (tab : List Byte) (codes : List (Nat × Nat × Nat)) (e : Nat) : List Bool :=
  let find (y : Nat) : List Bool :=
    match codes.find? fun c => c.2.2 = y with
    | some (l, c, _) => codeBits l c
    | none => []
  if ctLen tab e = 0 then find 256 ++ codeBits 8 e else find e

/-- Pack bits into bytes from bit 0 upward. -/
def packBits : Nat → List Bool → List Byte
  | 0, _ => []
  | n + 1, bs =>
    BitVec.ofNat 8 ((bs.take 8).foldr (fun b a => 2 * a + (if b then 1 else 0)) 0) :: packBits n (bs.drop 8)

/-- Biased exponent, and sign with mantissa, of a BF16 pattern. -/
def bfExp (x : Nat) : Nat := bitsOf x 7 8
def bfSm (x : Nat) : Nat := bitsOf x 0 7 + 128 * bitsOf x 15 1
/-- A BF16 pattern from its exponent and its SM byte. -/
def bfOf (e sm : Nat) : Nat := bitsOf sm 7 1 * 2 ^ 15 + e * 128 + bitsOf sm 0 7

/-- A coded block of raw BF16 bytes, and whether it is stored raw (R321, R322). -/
def encodeBlock (tab : List Byte) (slot ver : Nat) (raw : List Byte) : Bool × List Byte :=
  let e := raw.length / 2
  let elems := (List.range e).map fun i => leAt raw (2 * i) 2
  let codes := ctCodes tab
  let bits := elems.flatMap fun x => encodeExp tab codes (bfExp x)
  let nb := ceilDiv bits.length 8
  let size := ceilTo (16 + e + nb) 64
  if 15 * raw.length < 16 * size then (true, raw)
  else
    let body := leBytes 2 e ++ leBytes 1 slot ++ leBytes 1 ver ++ leBytes 4 (crc32c raw) ++ leBytes 2 bits.length ++ zeros 6
      ++ (elems.map fun x => BitVec.ofNat 8 (bfSm x)) ++ packBits nb bits
    (false, body ++ zeros (size - body.length))

/-- Decode a coded block (R321, R330). -/
def decodeBlock (tab : List Byte) (slot ver elems : Nat) (b : List Byte) : Except Nat (List Byte) :=
  if leAt b 0 2 % 2048 ≠ elems ∨ leAt b 2 1 % 4 ≠ slot ∨ leAt b 3 1 ≠ ver then .error 0x14
  else
    match decodeExps (ctCodes tab) (b.drop (16 + elems)) elems 0 with
    | none => .error 0x14
    | some (es, pos) =>
      if pos ≠ leAt b 8 2 then .error 0x14
      else
        let raw := (es.zip ((b.drop 16).take elems)).flatMap fun p => leBytes 2 (bfOf p.1 p.2.toNat)
        if crc32c raw = leAt b 4 4 then .ok raw else .error 0x13

/-! ## Coded tensors (R315 to R317) -/

/-- A coded-tensor header. -/
structure CHdr where
  addr : Nat
  kind : Nat
  fmt : Nat
  slot : Nat
  ver : Nat
  blocks : Nat
  rawLen : Nat
  rows : Nat
  cols : Nat
  rowBytes : Nat
  rank : Nat
  payLen : Nat
  deriving DecidableEq, Repr

/-- The header's 64 bytes. -/
def chdrOf (addr : Nat) (b : List Byte) : CHdr :=
  { addr := addr, kind := leAt b 0 1 % 4, fmt := leAt b 1 1 % 32, slot := leAt b 2 1 % 4, ver := leAt b 3 1
    blocks := leAt b 4 4, rawLen := leAt b 8 6, rows := leAt b 0x10 4, cols := leAt b 0x14 4
    rowBytes := leAt b 0x18 4, rank := leAt b 0x1C 1, payLen := leAt b 0x20 5 }

/-- Header bytes (R315). -/
def chdrBytes (h : CHdr) (thresh : Nat) : List Byte :=
  let b := leBytes 1 h.kind ++ leBytes 1 h.fmt ++ leBytes 1 h.slot ++ leBytes 1 h.ver ++ leBytes 4 h.blocks
    ++ leBytes 6 h.rawLen ++ zeros 2 ++ leBytes 4 h.rows ++ leBytes 4 h.cols ++ leBytes 4 h.rowBytes ++ leBytes 1 h.rank
    ++ zeros 3 ++ leBytes 5 h.payLen ++ zeros 3 ++ leBytes 4 thresh ++ zeros 16
  b ++ leBytes 4 (crc32c b)

/-- Start of the payload (R316), and its end. -/
def CHdr.pay (h : CHdr) : Nat := h.addr + ceilTo (64 + 8 * h.blocks) 64
def CHdr.endA (h : CHdr) : Nat := h.pay + h.payLen
/-- Directory entry of block `b`: OFFSET, LENGTH, PLAIN. -/
def CHdr.dir (s : State) (h : CHdr) (b : Nat) : Nat × Nat × Bool :=
  let x := memNat s (h.addr + 64 + 8 * b) 8
  (bitsOf x 0 32, bitsOf x 32 16, bitOf x 48)
/-- BLOCKS of R316. -/
def CHdr.blocksWant (h : CHdr) : Nat :=
  if h.kind = 1 then ceilDiv h.rawLen 2048 else ceilDiv h.rows 256 * ceilDiv h.cols 256
/-- Raw bytes of a KIND 1 block. -/
def CHdr.blkRaw (h : CHdr) (b : Nat) : Nat := min 2048 (h.rawLen - 2048 * b)

/-- A LENGTH is allowed (R329). -/
def CHdr.lenOk (h : CHdr) (b len : Nat) (plain : Bool) : Bool :=
  if h.kind = 1 then
    let B := h.blkRaw b
    let E := B / 2
    if plain then len = B / 64 else ceilDiv (16 + E + ceilDiv E 8) 64 ≤ len && len ≤ 15 * B / 1024
  else if plain then len = 2049 else len = 1 || len = 1 + 16 * h.rank

/-- The directory obeys R317 and the table of lengths, from block `b` at offset `off`. -/
def CHdr.dirOk (s : State) (h : CHdr) : Nat → Nat → Nat → Bool
  | 0, _, off => off * 64 = h.payLen
  | n + 1, b, off =>
    let (o, l, p) := h.dir s b
    o = off && h.lenOk b l p && CHdr.dirOk s h n (b + 1) (off + l)

/-- Bytes `[a, e)` meet a region whose ENC bit is 1 (R329, R340). -/
def inEnc (s : State) (a n : Nat) : Bool := (regions s).any fun r => r.enc && 0 < r.len && overlap a n r.base r.bytes

/-- The header check of R329 for a hall: the coding and format the command names, where the tensor may lie, and the
test of the raw reach. Answers the completion code and the failed check. -/
def codedCheck (s : State) (hall kind fmt a : Nat) (place : Nat → Nat → Bool) (reach : CHdr → Bool) :
    Option (Nat × Nat) :=
  let b := memBytes s a 64
  let h := chdrOf a b
  let slotReg := rUndXtabSlot hall h.slot
  let st := getF s slotReg fUndXtabSlotState
  let zero (o n : Nat) : Bool := leAt b o n = 0
  let resv := leAt b 0 1 < 4 && leAt b 1 1 < 32 && leAt b 2 1 < 4 && zero 0x0E 2 && zero 0x1D 3 && zero 0x25 3
    && zero 0x2C 16
    && (if h.kind = 1 then zero 0x10 13 && zero 0x28 4 else zero 0x02 2)
  firstFail
    [(1, 0x13, crc32c (b.take 60) = leAt b 60 4),
     (2, 0x10, h.kind = kind && h.fmt = fmt && resv),
     (3, 0x15, !inEnc s a (h.endA - a)),
     (4, 0x11, place a (h.endA - a)),
     (5, 0x14, h.kind ≠ 1 || ((st = 2 || st = 3) && getF s slotReg fUndXtabSlotVersion = h.ver)),
     (6, 0x14, h.blocks = h.blocksWant && (h.kind ≠ 2 || (h.rawLen = h.rows * h.rowBytes && 2 * h.cols ≤ h.rowBytes
        && 1 ≤ h.rank && h.rank ≤ 32))),
     (7, 0x14, h.dirOk s h.blocks 0 0),
     (8, 0x14, reach h)]

/-! ## The expander (R330, R331, R335) -/

/-- A read of an operand that does not go on: it waits, or fails at an address (R269, R330, R486). -/
abbrev RdErr := Stuck

/-- The failure that a code of the expander stands for: a CRC of R542's handoff 7, or the code itself (R330). -/
def expandErr (code : Nat) : ReadErr := if code = 0x13 then .handoff 7 0 else .rejected code

/-- Raw bytes of a KIND 1 block. -/
def expandBlock (s : State) (hall : Nat) (h : CHdr) (b : Nat) : Except RdErr (List Byte) :=
  let (o, l, plain) := h.dir s b
  let a := h.pay + 64 * o
  let bytes := memBytes s a (64 * l)
  match readStuck s a (64 * l) with
  | some e => .error e
  | none =>
  if plain then .ok bytes
  else
    match decodeBlock ((getH s hall).xtabs.getD h.slot []) h.slot h.ver (h.blkRaw b / 2) bytes with
    | .ok raw => .ok raw
    | .error c => .error (some (expandErr c, a))

/-- A tile element of KIND 2 as an FP32 pattern before conversion, from U and V (R335). -/
def tileSum (fmt : Nat) (u v : Nat → Nat) (rank : Nat) : Nat :=
  let w (x : Nat) : Nat := widen32 fmt x
  ((fp32Tree ((List.range rank).map fun k => (fMul ifmt32 0 (w (u k)) (w (v k))).1))).getD 0
where
  /-- Exact widening of BF16 or FP16 to FP32. -/
  widen32 (fmt x : Nat) : Nat := (fCvt (if fmt = 2 then ifmtBf16 else ifmtFp16) ifmt32 0 x).1

/-- Element (i, j) of a KIND 2 tile (R334, R335): the conversion, counted where the tile is factored. -/
def tileElem (h : CHdr) (tile : List Byte) (plain : Bool) (i j : Nat) : Cvt :=
  if plain then { bits := leAt tile (64 + 2 * (256 * i + j)) 2 }
  else if leAt tile 0 1 % 64 = 0 then { bits := 0 }
  else
    let u (k : Nat) : Nat := leAt tile (64 + 2 * (i * h.rank + k)) 2
    let v (k : Nat) : Nat := leAt tile (64 + 2 * (256 * h.rank + k * 256 + j)) 2
    cvtTo h.fmt 4 (fDecode ifmt32 (tileSum h.fmt u v h.rank))

/-- The bytes of a tile with its record, verified (R330, R334). -/
def tileBytes (s : State) (h : CHdr) (t : Nat) : Except RdErr (List Byte × Bool) :=
  let (o, l, plain) := h.dir s t
  let a := h.pay + 64 * o
  let bytes := memBytes s a (64 * l)
  match readStuck s a (64 * l) with
  | some e => .error e
  | none =>
  if crc32c (bytes.take 60 ++ bytes.drop 64) = leAt bytes 60 4 then .ok (bytes, plain) else .error (some (expandErr 0x13, a))

/-- One raw element of a KIND 2 tensor. -/
def rawElem2 (s : State) (h : CHdr) (row col : Nat) : Except RdErr Cvt :=
  match tileBytes s h (row / 256 * ceilDiv h.cols 256 + col / 256) with
  | .error c => .error c
  | .ok (tile, plain) => .ok (tileElem h tile plain (row % 256) (col % 256))

/-- An operand's source: a plain array or a coded tensor. -/
structure Src where
  addr : Nat
  coded : Option CHdr := none
  deriving DecidableEq, Repr

/-- The 16-bit element at a raw offset of a coded tensor, with its conversion. -/
def codedElem (s : State) (hall : Nat) (h : CHdr) (off : Nat) : Except RdErr Cvt :=
  if h.kind = 1 then
    match expandBlock s hall h (off / 2048) with
    | .error c => .error c
    | .ok raw => .ok { bits := leAt raw (off % 2048) 2 }
  else rawElem2 s h (off / h.rowBytes) (off % h.rowBytes / 2)

/-- Element `i` of the line at offset `off` of a source, of `bits` bits (R85, R157, R314). A plain operand's line may lie
below its ADDR; a coded one's does not (check 8 of R329). -/
def srcElem (s : State) (hall : Nat) (src : Src) (off : Int) (bits i : Nat) : Except RdErr Cvt :=
  match src.coded with
  | none =>
    let p := i * bits
    let a := ((src.addr : Int) + off).toNat + p / 8
    match readStuck s a (if p % 8 + bits ≤ 8 then 1 else 2) with
    | some e => .error e
    | none => .ok { bits := bitsOf (memNat s a 3) (p % 8) bits }
  | some h => codedElem s hall h (off.toNat + 2 * i)

/-- Blocks of a KIND 1 tensor that a raw reach touches (R325). -/
def blocksTouched (lo hi : Nat) : Nat := if hi ≤ lo then 0 else (hi - 1) / 2048 - lo / 2048 + 1

/-- Add to a slot's QUEUED, or subtract from it; a retiring slot becomes free when it reaches 0 (R325). -/
def xtabQueue (s : State) (hall slot n : Nat) : State :=
  bumpF s (rUndXtabSlot hall slot) fUndXtabSlotQueued n
def xtabUnqueue (s : State) (hall slot n : Nat) : State :=
  let r := rUndXtabSlot hall slot
  let q := getF s r fUndXtabSlotQueued - n
  let s := setF s r fUndXtabSlotQueued q
  if q = 0 && getF s r fUndXtabSlotState = 3 then setF s r fUndXtabSlotState 0 else s

/-! ## The packer (R337) -/

/-- An FP32 product, rounded to nearest. -/
def mul32 (a b : Nat) : Nat := (fMul ifmt32 0 a b).1

/-- FP32 tree sum of present leaves (R96). -/
def treeSum32 (xs : List Nat) : Nat := (fp32Tree xs).getD 0

/-- An FP32 pattern with the flags of every operation it comes from (R106, R138). -/
abbrev FlNat := Nat × Nat
def mulFl (a b : FlNat) : FlNat := let r := fMul ifmt32 0 a.1 b.1; (r.1, a.2 ||| b.2 ||| r.2)
def subFl (a b : FlNat) : FlNat := let r := fSub ifmt32 0 a.1 b.1; (r.1, a.2 ||| b.2 ||| r.2)
def divFl (a b : FlNat) : FlNat := let r := fDiv ifmt32 0 a.1 b.1; (r.1, a.2 ||| b.2 ||| r.2)
def sqrtFl (a : FlNat) : FlNat := let r := fSqrt ifmt32 0 a.1; (r.1, a.2 ||| r.2)
/-- The flags of a list. -/
def flagsOf (xs : List FlNat) : Nat := xs.foldl (fun f x => f ||| x.2) 0
/-- FP32 tree sum of present leaves (R96). -/
def treeFl (xs : List FlNat) : FlNat :=
  let r := (treeSum (fAdd ifmt32 0) 25 (xs.map (·.1))).getD (0, 0)
  (r.1, flagsOf xs ||| r.2)
/-- A matrix of FP32 patterns by row and column. -/
abbrev Mat := Nat → Nat → FlNat

/-- Dot product of length `n`, summed over the tree. -/
def dot32 (n : Nat) (f g : Nat → FlNat) : FlNat := treeFl ((List.range n).map fun k => mulFl (f k) (g k))
/-- Frobenius norm of a 256 × 256 matrix. -/
def froNorm (a : Mat) : FlNat :=
  sqrtFl (treeFl ((List.range 65536).map fun i => mulFl (a (i / 256) (i % 256)) (a (i / 256) (i % 256))))

/-- A column of 256 patterns. -/
abbrev Col := List FlNat
def colAt (c : Col) (i : Nat) : FlNat := c.getD i (0, 0)
/-- Norm of a column. -/
def colNorm (c : Col) : FlNat := sqrtFl (dot32 256 (colAt c) (colAt c))
/-- Remove from a column its part along earlier ones, one after another. -/
def orthSub : List Col → Col → Col
  | [], c => c
  | q :: qs, c =>
    let d := dot32 256 (colAt q) (colAt c)
    orthSub qs ((List.range 256).map fun i => subFl (colAt c i) (mulFl d (colAt q i)))
/-- Modified Gram–Schmidt over columns in ascending order; `n0` is the norm of column 0 before normalisation. A column set
to zero keeps the flags of what it was. -/
def orthCols : Option FlNat → List Col → List Col → List Col
  | _, done, [] => done
  | n0, done, c :: cs =>
    let c := orthSub done c
    let n := colNorm c
    let n0' := n0.getD n
    -- column norm below 2^(-60) times the norm of column 0
    let small : Bool := fnCmp (fDecode ifmt32 n.1) (fnScale (fDecode ifmt32 n0'.1) (-60)) < 0
    let q : Col := if small then List.replicate 256 (0, n.2) else c.map fun x => divFl x n
    orthCols (some n0') (done ++ [q]) cs
def orth (cs : List Col) : List Col := orthCols none [] cs

/-- Columns of a matrix product of 256 rows, with a reduction of 256. -/
def mulCols (a : Mat) (cs : List Col) : List Col :=
  cs.map fun c => (List.range 256).map fun i => dot32 256 (a i) (colAt c)

/-- OMEGA of R337: plus one or minus one. -/
def omega (i k : Nat) : Nat :=
  if crc32c [BitVec.ofNat 8 i, BitVec.ofNat 8 k] % 2 = 0 then 0x3F800000 else 0xBF800000

/-- The power iterations of R337. -/
def packIter (a : Mat) : Nat → List Col → List Col
  | 0, q => q
  | n + 1, q =>
    let z := orth (mulCols (fun i j => a j i) q)
    packIter a n (orth (mulCols a z))

/-- The outcome of packing a tile: exact, all zero or factored. -/
inductive PackRes where
  | exact (nonfinite : Bool) (err norm : Nat)
  | zero
  | factored (err norm : Nat) (data : List Byte)
  deriving DecidableEq, Repr

/-- Pack one tile of FP32 patterns (R337): the outcome, the flags raised, the conversions made (R106). -/
def packTile (a : Nat → Nat → Nat) (fmt rank iters thresh : Nat) : PackRes × Nat × List Cvt :=
  let m : Mat := fun i j => (a i j, 0)
  let special : Bool := (List.range 65536).any fun i => fnSpecial (fDecode ifmt32 (a (i / 256) (i % 256)))
  let nA := froNorm m
  if special then (.exact true 0 nA.1, nA.2, [])
  else if bitsOf nA.1 0 31 = 0 then (.zero, nA.2, [])
  else
    let q0 := orth (mulCols m ((List.range rank).map fun k => (List.range 256).map fun i => (omega i k, 0)))
    let q := packIter m iters q0
    let uAt (i k : Nat) : FlNat := colAt (q.getD k []) i
    let vAt (k j : Nat) : FlNat := dot32 256 (colAt (q.getD k [])) (fun i => m i j)
    let conv (x : FlNat) : Cvt := cvtTo fmt 4 (fDecode ifmt32 x.1)
    let us := (List.range (256 * rank)).map fun n => uAt (n / rank) (n % rank)
    let vs := (List.range (rank * 256)).map fun n => vAt (n / 256) (n % 256)
    let u (i k : Nat) : Nat := (conv (uAt i k)).bits
    let v (k j : Nat) : Nat := (conv (vAt k j)).bits
    let back (i j : Nat) : Cvt := cvtTo fmt 4 (fDecode ifmt32 (tileSum fmt (u i) (fun k => v k j) rank))
    let err := divFl (froNorm fun i j => subFl (m i j) (tileSum.widen32 fmt (back i j).bits, 0)) nA
    let flags := nA.2 ||| flagsOf us ||| flagsOf vs ||| err.2
    let cvts := us.map conv ++ vs.map conv ++ (List.range 65536).map fun x => back (x / 256) (x % 256)
    if 0 < fnCmp (fDecode ifmt32 err.1) (fDecode ifmt32 thresh) then (.exact false err.1 nA.1, flags, cvts)
    else (.factored err.1 nA.1 ((us ++ vs).flatMap fun x => leBytes 2 (conv x).bits), flags, cvts)

/-- A tile record with its data (R334). -/
def tileRecord (rank : Nat) (nonfinite : Bool) (err norm : Nat) (data : List Byte) : List Byte :=
  let b := leBytes 1 rank ++ leBytes 1 (if nonfinite then 1 else 0) ++ zeros 2 ++ leBytes 4 err ++ leBytes 4 norm ++ zeros 48
  b ++ leBytes 4 (crc32c (b ++ data)) ++ data

end Sys2Proof.Machine
end

