-- ==== Sys2Proof/Machine/Alcove.lean ====
section
/-! DEFINITION. The key-value cache in memory (R215 to R222): the cache record, sequence records, page tables, alcove
records, and the operations of R223 and R225 on them. -/

namespace Sys2Proof.Machine

/-- Fields of a cache record at address `a` (R215). -/
structure CacheRec where
  fmt : Nat
  dim : Nat
  hkv : Nat
  layers : Nat
  kExp : Int
  vExp : Int
  pool : Nat
  alcoves : Nat
  atab : Nat
  seqTab : Nat
  deriving DecidableEq, Repr

/-- A cache record from its bytes. -/
def cacheOf (b : List Byte) : CacheRec :=
  { fmt := leAt b 0 1 % 32, dim := 64 * 2 ^ (leAt b 1 1 % 4), hkv := leAt b 2 1 % 128, layers := leAt b 4 2
    kExp := sext 8 (leAt b 6 1), vExp := sext 8 (leAt b 7 1), pool := leAt b 8 6, alcoves := leAt b 0x10 3
    atab := leAt b 0x18 6, seqTab := leAt b 0x20 6 }

/-- The cache of a hall with the address of its record, where one is installed (R216). -/
def hallCache (s : State) (h : Nat) : Option (Nat × CacheRec) :=
  (getH s h).cache.map fun a => (a, cacheOf (memBytes s a 64))

/-- LPD and LS of an alcove layout (R217). -/
def CacheRec.lpd (c : CacheRec) : Nat := if c.dim = 256 then 2 else 1
def CacheRec.ls (c : CacheRec) : Nat := if fmtIsHalf c.fmt then 256 else 128
def CacheRec.bytes (c : CacheRec) : Nat := 2 * c.hkv * 256 * c.lpd * c.ls
/-- First byte of a line of an alcove: half, head, slot, line (R217). -/
def CacheRec.line (c : CacheRec) (alc x h t l : Nat) : Nat :=
  c.pool + alc * c.bytes + (((x * c.hkv + h) * 256 + t) * c.lpd + l) * c.ls

/-- Sequence record address, OPEN, PT_PAGES, PT_ADDR (R219). -/
def seqAddr (c : CacheRec) (n : Nat) : Nat := c.seqTab + 64 * n
def seqOpen (s : State) (c : CacheRec) (n : Nat) : Bool := bitOf (memNat s (seqAddr c n) 1) 0
def seqPages (s : State) (c : CacheRec) (n : Nat) : Nat := memNat s (seqAddr c n + 4) 3 % 2 ^ 17
def seqPt (s : State) (c : CacheRec) (n : Nat) : Nat := memNat s (seqAddr c n + 8) 6

/-- PT_STRIDE for a page capacity (R220). -/
def ptStride (pages : Nat) : Nat := ceilTo (64 + 4 * pages) 64
/-- Block of a cache layer in a sequence's page table. -/
def ptBlock (s : State) (c : CacheRec) (n layer : Nat) : Nat := seqPt s c n + layer * ptStride (seqPages s c n)
def layerLen (s : State) (c : CacheRec) (n layer : Nat) : Nat := memNat s (ptBlock s c n layer) 4
/-- Address of a page-table entry, and the alcove it names; 0xFF_FFFF is none. -/
def pteAddr (s : State) (c : CacheRec) (n layer p : Nat) : Nat := ptBlock s c n layer + 64 + 4 * p
def pageAlc (s : State) (c : CacheRec) (n layer p : Nat) : Nat := memNat s (pteAddr s c n layer p) 3
def noAlc : Nat := 0xFFFFFF

/-- REFS of an alcove (R222). -/
def alcRefs (s : State) (c : CacheRec) (a : Nat) : Nat := memNat s (c.atab + 8 * a + 4) 4
def setRefs (s : State) (c : CacheRec) (a v : Nat) : State := memPutNat s (c.atab + 8 * a + 4) 4 v
/-- FREE_HEAD and FREE_COUNT of the record at `ra`. -/
def freeHead (s : State) (ra : Nat) : Nat := memNat s (ra + 0x28) 3
def freeCount (s : State) (ra : Nat) : Nat := memNat s (ra + 0x2C) 3

/-- Take the alcove at FREE_HEAD, with REFS 1 (R222). -/
def takeAlc (s : State) (ra : Nat) (c : CacheRec) : Nat × State :=
  let a := freeHead s ra
  let s := memPutNat s (ra + 0x28) 3 (memNat s (c.atab + 8 * a) 3)
  let s := memPutNat s (ra + 0x2C) 3 (freeCount s ra - 1)
  (a, setRefs s c a 1)

/-- Return an alcove to FREE_HEAD (R222). -/
def putAlc (s : State) (ra : Nat) (c : CacheRec) (a : Nat) : State :=
  let s := memPutNat s (c.atab + 8 * a) 3 (freeHead s ra)
  let s := memPutNat s (ra + 0x28) 3 a
  memPutNat s (ra + 0x2C) 3 (freeCount s ra + 1)

/-- Lower an alcove's REFS, freeing it at 0. -/
def dropAlc (s : State) (ra : Nat) (c : CacheRec) (a : Nat) : State :=
  let r := alcRefs s c a - 1
  let s := setRefs s c a r
  if r = 0 then putAlc s ra c a else s

/-- Release a page: its entry to none, its alcove's REFS down by 1 (R223). -/
def releasePage (s : State) (ra : Nat) (c : CacheRec) (n layer p : Nat) : State :=
  let a := pageAlc s c n layer p
  if a = noAlc then s
  else dropAlc (memPutNat s (pteAddr s c n layer p) 3 noAlc) ra c a

/-- Release pages `p` to `p + k - 1` of a layer. -/
def releasePages (ra : Nat) (c : CacheRec) (n layer p : Nat) : Nat → State → State
  | 0, s => s
  | k + 1, s => releasePages ra c n layer (p + 1) k (releasePage s ra c n layer p)

/-- Copy on write of a tail alcove: the slots below `t` of both halves and all heads (R225). -/
def copyTail (s : State) (c : CacheRec) (old new t : Nat) : State :=
  (List.range (2 * c.hkv)).foldl (fun s xh =>
    storeCopy s (c.line old 0 xh 0 0) (c.line new 0 xh 0 0) (t * c.lpd * c.ls)) s

/-- What stops the copies of R225 that an append makes: a read of the slots below `t` of a shared tail alcove (R218). -/
def copyStuck (s : State) (c : CacheRec) (n layer pos len : Nat) : Option Stuck :=
  let a := pageAlc s c n layer (pos / 256)
  if len = 0 || a = noAlc || alcRefs s c a ≤ 1 then none
  else readsStuck s ((List.range (2 * c.hkv)).map fun xh => (c.line a 0 xh 0 0, pos % 256 * c.lpd * c.ls))

/-- Alcoves an append needs: a new one for each page without one, and one for a copy (R230). -/
def appendNeeds (s : State) (c : CacheRec) (n layer pos len : Nat) : Nat :=
  if len = 0 then 0
  else
    let p0 := pos / 256
    let ps := (List.range ((pos + len - 1) / 256 - p0 + 1)).map (p0 + ·)
    ps.countP (fun p => pageAlc s c n layer p = noAlc) +
      ps.countP fun p => pageAlc s c n layer p ≠ noAlc && 1 < alcRefs s c (pageAlc s c n layer p)

/-- Resolve one page of an append: allocate, or copy a shared alcove, or write in place (R221, R225, R226). -/
def resolvePage (ra : Nat) (c : CacheRec) (n layer len : Nat) (s : State) (p : Nat) : State :=
  let a := pageAlc s c n layer p
  if a = noAlc then
    let (x, s) := takeAlc s ra c
    memPutNat s (pteAddr s c n layer p) 3 x
  else if 1 < alcRefs s c a then
    let (x, s) := takeAlc s ra c
    let s := copyTail s c a x (len % 256)
    let s := memPutNat s (pteAddr s c n layer p) 3 x
    let s := setRefs s c a (alcRefs s c a - 1)
    memPutNat s (ra + 0x30) 8 (memNat s (ra + 0x30) 8 + 1)
  else s

/-- Resolve the alcoves of an append (R226). -/
def resolveAppend (s : State) (ra : Nat) (c : CacheRec) (n layer pos len : Nat) : State :=
  if len = 0 then s
  else
    let p0 := pos / 256
    ((List.range ((pos + len - 1) / 256 - p0 + 1)).map (p0 + ·)).foldl (resolvePage ra c n layer pos) s

/-- Address of the line that holds column `j` of append row `r`, and the element in it (R228). -/
def appendLoc (s : State) (c : CacheRec) (n layer pos r j : Nat) : Nat × Nat :=
  let x := j / (c.hkv * c.dim)
  let h := j / c.dim % c.hkv
  let d := j % c.dim
  let p := pos + r
  (c.line (pageAlc s c n layer (p / 256)) x h (p % 256) (d / 128), d % 128)

/-- Fields of an append record, operand-list entry 4 (R227). -/
def apSeq (ol : List Byte) : Nat := leAt ol 64 2
def apLayer (ol : List Byte) : Nat := leAt ol 66 2
def apPos (ol : List Byte) : Nat := leAt ol 68 4
def apTok (ol : List Byte) : Nat := leAt ol 72 4

/-- The conditions of R230 on an append, as a completion code. -/
def appendTest (s : State) (h n layer pos len : Nat) : Option Nat :=
  match hallCache s h with
  | none => some 0x28
  | some (ra, c) =>
    if !(n < 65536 && seqOpen s c n && layer < c.layers) then some 0x28
    else if pos ≠ layerLen s c n layer then some 0x28
    else if seqPages s c n * 256 < pos + len || 16777216 < pos + len then some 0x29
    else if freeCount s ra < appendNeeds s c n layer pos len then some 0x2A
    else none

/-- A command's use of a sequence (R224): 1 writer, 2 reader; by opcode and operands. `ol` is the operand list or
attention block it runs under. -/
def seqUses (c : Cmd) : List (Nat × Nat) :=
  match c.opcode with
  | 0x01 => if bitOf c.o0 12 then [(apSeq c.job.rec2, 1)] else []
  | 0x03 => [(leAt c.job.rec1 0 2, 2)]
  | 0x11 => [(bitsOf c.o0 0 16, 1)]
  | 0x12 => [(bitsOf c.o0 0 16, 1), (bitsOf c.o0 16 16, 2)]
  | 0x13 => [(bitsOf c.o0 0 16, 3)]
  | 0x14 => [(bitsOf c.o0 0 16, 3)]
  | 0x15 => [(bitsOf c.o0 0 16, 1)]
  | _ => []

/-- A command that uses sequences `us` waits for earlier ones (R224): any use for an earlier writer, a trim or release
for an earlier reader as well. -/
def seqBusy (s : State) (h : Nat) (us : List (Nat × Nat)) : Bool :=
  (earlierCmds s h).any fun p =>
    (seqUses p.2).any fun e => us.any fun u => u.1 = e.1 && (e.2 ≠ 2 || u.2 = 3)

end Sys2Proof.Machine
end

