-- ==== Sys2Proof/Machine/Flags.lean ====
section
/-! DEFINITION. The flag computations: the sticky flags of a vector operation (R138, R106) and the counted events of
conversions (R106). -/

namespace Sys2Proof.Machine

/-- OR raised flags into a hall's FP flag word (R106, R608): the bits are in the order of R138. -/
def raiseFp (s : State) (h fl : Nat) : State :=
  regSet s (rCmdCtrFpflags h) (regGet s (rCmdCtrFpflags h) ||| fl % 32)

/-- OR raised flags into a tread's VCSR[7:3] (R138). -/
def raiseVcsr (tr : Tread) (fl : Nat) : Tread := { tr with vcsr := tr.vcsr ||| BitVec.ofNat 8 (fl % 32 * 8) }

/-- Add the saturated, flushed and NaN elements of conversions to a hall's counters (R106). -/
def countCvts (s : State) (h : Nat) (cs : List Cvt) : State :=
  let s := countHall s h 0x000 (cs.countP (·.sat))
  let s := countHall s h 0x008 (cs.countP (·.flush))
  countHall s h 0x010 (cs.countP (·.nan))

end Sys2Proof.Machine
end

