-- ==== Sys2Proof/Machine/Operands.lean ====
section
/-! DEFINITION. The operand forms of vector instructions (R138, R140, R142) and the frame every vector opcode runs in:
fetch at the tread's program counter, predication, flags, the advance. -/

namespace Sys2Proof.Machine

/-- A decoded vector instruction (R140). -/
structure VIns where
  op : Nat
  vd : Nat
  va : Nat
  vb : Nat
  vc : Nat
  rm : Nat
  w : Bool
  pred : Nat
  resv : Nat
  imm : Nat
  deriving DecidableEq, Repr

/-- Fields of an instruction word (R140). -/
def vinsOf (w : DWord) : VIns :=
  let x := w.toNat
  { op := bitsOf x 0 8, vd := bitsOf x 8 5, va := bitsOf x 13 5, vb := bitsOf x 18 5, vc := bitsOf x 23 5
    rm := bitsOf x 28 3, w := bitOf x 31, pred := bitsOf x 32 3, resv := bitsOf x 35 1, imm := bitsOf x 36 28 }

/-- The opcodes of R141. -/
def vopDefined (op : Nat) : Bool :=
  (0x01 ≤ op && op ≤ 0x0E) || (0x10 ≤ op && op ≤ 0x13) || op = 0x18 || op = 0x20 || op = 0x21 || op = 0x28
    || op = 0x29 || (0x30 ≤ op && op ≤ 0x38) || (0x3C ≤ op && op ≤ 0x3F)

/-- Format code of a VLD or VST: IMM[44:40] of the word (R140). -/
def vecFmt (i : VIns) : Nat := bitsOf i.imm 4 5

/-- An instruction's fields hold no reserved encoding (R139, R140, R141): VTLU is binary32 only and names table 0 or 1;
a load or store names a format the engine loads and stores (R80). -/
def vinsOk (w : DWord) : Bool :=
  let i := vinsOf w
  vopDefined i.op && i.resv = 0 && i.rm ≠ 5 && i.rm ≠ 6
    && (i.op ≠ 0x18 || (!i.w && bitsOf i.imm 0 4 ≤ 1))
    && ((i.op ≠ 0x20 && i.op ≠ 0x21) || (fmtIsVec (vecFmt i) && (i.w || vecFmt i ≠ 0x01)))
    && (i.op ≠ 0x21 || bitsOf i.imm 9 8 < 16)

/-- Element format of a lane (R140). -/
def vfmt (w : Bool) : IFmt := if w then ifmt64 else ifmt32
/-- Lanes of a register: 64 binary32 or 32 binary64 (R138). -/
def laneCount (w : Bool) : Nat := if w then 32 else 64
/-- Bits of a lane. -/
def laneBits (w : Bool) : Nat := if w then 64 else 32

/-- The 32-bit word `l` of vector register `r`. -/
def vWord (tr : Tread) (r l : Nat) : Nat := (fmGet (fun _ => (0 : Word)) tr.v (64 * r + l)).toNat
/-- Set a 32-bit word of a vector register. -/
def setVWord (tr : Tread) (r l v : Nat) : Tread :=
  { tr with v := fmSet (fun _ => (0 : Word)) tr.v (64 * r + l) (BitVec.ofNat 32 v) }
/-- Lane `l` of a register (R138). -/
def laneOf (tr : Tread) (w : Bool) (r l : Nat) : Nat :=
  if w then vWord tr r (2 * l) + 2 ^ 32 * vWord tr r (2 * l + 1) else vWord tr r l
/-- Set lane `l` of a register. -/
def setLane (tr : Tread) (w : Bool) (r l v : Nat) : Tread :=
  if w then setVWord (setVWord tr r (2 * l) v) r (2 * l + 1) (v / 2 ^ 32) else setVWord tr r l v

/-- A scalar register. -/
def scalarOf (tr : Tread) (r : Nat) : DWord := fmGet (fun _ => (0 : DWord)) tr.s r
def setScalar (tr : Tread) (r : Nat) (v : DWord) : Tread := { tr with s := fmSet (fun _ => (0 : DWord)) tr.s r v }
/-- A mask register; M0 reads as all ones and discards writes (R138). -/
def maskOf (tr : Tread) (r : Nat) : DWord :=
  if r = 0 then BitVec.allOnes 64 else fmGet (fun _ => (0 : DWord)) tr.m r
def setMask (tr : Tread) (r : Nat) (v : DWord) : Tread :=
  if r = 0 then tr else { tr with m := fmSet (fun _ => (0 : DWord)) tr.m r v }
/-- Bit `l` of a mask register. -/
def maskBit (tr : Tread) (r l : Nat) : Bool := (maskOf tr r).getLsbD l

/-- Rounding attribute in force: RM, or VCSR[2:0] for RM 7 (R138, R140). -/
def vecRm (tr : Tread) (i : VIns) : Nat := if i.rm = 7 then bitsOf tr.vcsr.toNat 0 3 else i.rm

/-- Landing address of a VLD or VST: scalar base IMM[39:36] plus the signed offset IMM[63:53] in 64-byte units (R140). -/
def vecAddr (tr : Tread) (i : VIns) : Nat :=
  (((scalarOf tr (bitsOf i.imm 0 4)).toNat : Int) + 64 * sext 11 (bitsOf i.imm 17 11)).toNat

/-- Exact widening of a loaded element and its flags (R105, R142): a signalling NaN that is converted is quieted and
raises invalid; an INT32 or FP32 into 32-bit lanes keeps its bits (log 11). -/
def widenTo (w : Bool) (fmt x : Nat) : Nat × Nat :=
  if w then
    match fmt with
    | 0x01 => (x, 0)
    | 0x00 => fCvt ifmt32 ifmt64 0 x
    | 0x10 => fOfInt ifmt64 0 (sext 32 x)
    | 0x02 => fCvt ifmtBf16 ifmt64 0 x
    | _ => fCvt ifmtFp16 ifmt64 0 x
  else
    match fmt with
    | 0x02 => fCvt ifmtBf16 ifmt32 0 x
    | 0x03 => fCvt ifmtFp16 ifmt32 0 x
    | _ => (x, 0)

/-- Conversion of a stored lane and its flags (R102, R105, R142). Binary64 into FP32 is an IEEE conversion, which keeps a
NaN's sign and payload and raises its flags; narrower formats follow R102, a signalling NaN raising invalid (log 284);
an INT32 from 32-bit lanes keeps its bits (log 11). -/
def narrowTo (w : Bool) (fmt conv x : Nat) : Cvt × Nat :=
  let F := vfmt w
  let fl := if fIsSNaN F x then flInvalid else 0
  if fmt = (if w then 0x01 else 0x00) then ({ bits := x, nan := fIsNaN F x }, 0)
  else if fmt = 0x10 && !w then ({ bits := x }, 0)
  else if fmt = 0x00 then
    let r := fCvt ifmt64 ifmt32 (convRound conv) x
    ({ bits := r.1, nan := fIsNaN F x }, r.2)
  else (cvtTo fmt conv (fDecode F x), fl)

/-- A shift by less than the width; the spec does not state a shift by 32 or more, which is an open value (log 7). -/
def shlOpen (a b : Word) : Word :=
  if b.toNat < 32 then a <<< b.toNat else (Config.cvtOpen 0x36 (a.toNat + 2 ^ 32 * b.toNat)).setWidth 32
def shrOpen (a b : Word) : Word :=
  if b.toNat < 32 then a >>> b.toNat else (Config.cvtOpen 0x37 (a.toNat + 2 ^ 32 * b.toNat)).setWidth 32

/-- One lane of a VCVT: kinds 0 binary32, 1 binary64, 2 INT32, 3 INT64. INT32 saturates (R81); a NaN, and an INT64 out
of range, raise invalid with an open result (log 7). A result that lost bits raises
inexact, as convertToIntegerExact does, since the spec names neither variant (log 283). -/
def vcvtLane (src dst rm x : Nat) : Nat × Nat :=
  let F := if src = 1 then ifmt64 else ifmt32
  if dst ≤ 1 then
    let G := if dst = 1 then ifmt64 else ifmt32
    if src ≤ 1 then fCvt F G rm x
    else fOfInt G rm (sext (if src = 3 then 64 else 32) x)
  else
    let w := if dst = 3 then 64 else 32
    let fit (k : Int) (ix : Bool) : Nat × Nat :=
      if k < -(2 ^ (w - 1)) ∨ 2 ^ (w - 1) ≤ k then
        (if w = 32 then (if k < 0 then 2 ^ 31 else 2 ^ 31 - 1) else (Config.cvtOpen w x).toNat, flInvalid)
      else ((k % (2 ^ w : Int)).toNat, if ix then flInexact else 0)
    if src ≤ 1 then
      match fDecode F x with
      | .nan => ((Config.cvtOpen w x).toNat % 2 ^ w, flInvalid)
      | .inf n =>
        (if w = 32 then (if n then 2 ^ 31 else 2 ^ 31 - 1) else (Config.cvtOpen w x).toNat, flInvalid)
      | .fin n m e => let (k, ix) := fnToInt rm n m e; fit k ix
    else fit (sext (if src = 3 then 64 else 32) x) false

/-! ## The frame of a vector opcode -/

/-- A vector program runs on the tread. -/
def vecRunning (s : State) (t : Nat) : Bool := isF s (rTrdStatus t) fTrdStatusVeBusy

/-- The instruction at the tread's program counter. -/
def vecFetch (s : State) (t : Nat) : Option VIns :=
  if vecRunning s t then ((getT s t).prog.words[(getT s t).prog.pc]?).map vinsOf else none

/-- Run an opcode on a tread whose program stands at it; a tread that stands elsewhere is left as it is (log 1). -/
def vecOp (t op : Nat) (s : State) (k : State → Tread → VIns → Out) : Out :=
  guardUnit (t < 128) <|
  match vecFetch s t with
  | some i => if i.op = op then k s (getT s t) i else .next s
  | none => .next s

/-- Finish an instruction: flags into VCSR and the hall's flag word, the program counter past it (R106, R138). -/
def vecDone (s : State) (t : Nat) (tr : Tread) (fl : Nat) : Out :=
  let tr := raiseVcsr tr fl
  let s := setT s t { tr with prog := { tr.prog with pc := tr.prog.pc + 1 } }
  .next (match flightHall s.run (t / 8) with
    | some h => if fl = 0 then s else raiseFp s h fl
    | none => s)

/-- Finish a branch that is taken. -/
def vecJump (s : State) (t : Nat) (tr : Tread) (pc : Nat) : Out :=
  .next (setT s t { tr with prog := { tr.prog with pc := pc } })

/-- Lanes that the predicate leaves on. -/
def lanesOn (tr : Tread) (i : VIns) : List Nat := (List.range (laneCount i.w)).filter fun l => maskBit tr i.pred l

/-- Write results to lanes of a register. -/
def putLanes (w : Bool) (r : Nat) : List (Nat × Nat) → Tread → Tread
  | [], tr => tr
  | x :: xs, tr => putLanes w r xs (setLane tr w r x.1 x.2)

/-- A lane-by-lane operation into VD: every source is read before any result is written; a lane whose mask bit is 0
keeps its value and raises no flag (R140). -/
def vecLanes (s : State) (t : Nat) (tr : Tread) (i : VIns) (f : Nat → Nat × Nat) : Out :=
  let on := lanesOn tr i
  let res := on.map fun l => (l, (f l).1)
  vecDone s t (putLanes i.w i.vd res tr) (on.foldl (fun fl l => fl ||| (f l).2) 0)

/-- A 32-bit integer lane operation (R141). -/
def vecInt (s : State) (t : Nat) (tr : Tread) (i : VIns) (f : Word → Word → Word) : Out :=
  vecLanes s t tr { i with w := false } fun l =>
    ((f (BitVec.ofNat 32 (vWord tr i.va l)) (BitVec.ofNat 32 (vWord tr i.vb l))).toNat, 0)

/-- Give 32-bit words of a register free values. -/
def freeLanes (r : Nat) : List Nat → Tread → State → Tread × State
  | [], tr, s => (tr, s)
  | l :: ls, tr, s =>
    let (v, s) := takeFree s
    freeLanes r ls (setVWord tr r l v.toNat) s

/-- The complete binary tree over lane indices 0 to 2^k − 1, with absent lanes (R96, R141). -/
def laneTree (op : Nat → Nat → Nat × Nat) : Nat → List (Option Nat) → Option (Nat × Nat)
  | 0, xs => (xs.head?.getD none).map fun x => (x, 0)
  | k + 1, xs =>
    match laneTree op k (xs.take (2 ^ k)), laneTree op k (xs.drop (2 ^ k)) with
    | some (a, fa), some (b, fb) => let (r, fr) := op a b; some (r, fa ||| fb ||| fr)
    | some a, none => some a
    | none, b => b

/-- A reduction over the lanes that are on: the result to lane 0 of VD, the other lanes free (log 12). A lane whose mask
bit is 0 keeps its value (R140), lane 0 too; with no lane on, VD is left. -/
def vecReduce (s : State) (t : Nat) (tr : Tread) (i : VIns) (tree : List (Option Nat) → Option (Nat × Nat)) : Out :=
  let xs := (List.range (laneCount i.w)).map fun l =>
    if maskBit tr i.pred l then some (laneOf tr i.w i.va l) else none
  match tree xs with
  | none => vecDone s t tr 0
  | some (r, fl) =>
    let on := lanesOn tr i
    let rest := on.filter (· ≠ 0)
    let (tr, s) := freeLanes i.vd (if i.w then rest.flatMap fun l => [2 * l, 2 * l + 1] else rest)
      (if on.contains 0 then setLane tr i.w i.vd 0 r else tr) s
    vecDone s t tr fl

/-- Table j of a hall's active variant; empty when absent (R133). -/
def hallTable (st : FMap (List Byte)) (h j : Nat) : List Byte :=
  let sec := secOf st tyFTAB h (hallVar st h)
  if j < secCount sec then secEntry sec 8256 j else []

/-- The tread's vector program stops: the engine is free. -/
def vecStop (s : State) (t : Nat) : State := treadStatus (setT s t { getT s t with prog := {} }) t

/-- A vector program ends its command with a code; INFO holds the failing address (R142, R486). -/
def endProgram (s : State) (t code info : Nat) : Out :=
  match (getT s t).prog.cmd with
  | some r =>
    let done := match findCmd s r with | some c => c.job.done.length | none => 0
    .next (vecStop (dropItems (endCmd s r code 0 done info) r) t)
  | none => .next (vecStop s t)

/-- An item of a command is done: recorded once; a vector-program command succeeds with its last item (R165, R486). -/
def itemDone (s : State) (r : CmdRef) (item : Nat) : State :=
  let s := updJob s r fun j => { j with done := if j.done.contains item then j.done else item :: j.done }
  match findCmd s r with
  | some c =>
    if c.st = .dispatched && c.opcode = 0x02 && c.job.total ≤ c.job.done.length then succeed s r c.job.total 0 else s
  | none => s

/-- HALT: the item is done (R139, R141). -/
def haltProgram (s : State) (t : Nat) (tr : Tread) : Out :=
  let item := tr.prog.item
  match tr.prog.cmd with
  | some r => .next (itemDone (vecStop s t) r item)
  | none => .next (vecStop s t)

end Sys2Proof.Machine
end

