-- ==== Sys2Proof/Machine/Product.lean ====
section
/-! DEFINITION. The arithmetic of a work item of a product (R86 to R103, R157 to R168, R203 to R212) and the drain of
its rows (R126 to R130, R623). -/

namespace Sys2Proof.Machine

/-- A product under way: descriptor, operand list, hall, exponents, sources, append flag. -/
structure PCtx where
  d : Desc
  ol : List Byte
  hall : Nat
  kA : Int
  kB : Int
  kOut : Int
  srcA : Src
  srcB : Src
  append : Bool
  deriving DecidableEq, Repr

/-- Source of operand `e` under a coding (R314). -/
def srcOf (s : State) (code addr : Nat) : Src :=
  { addr := addr, coded := if code = 0 then none else some (chdrOf addr (memBytes s addr 64)) }

/-- The product a command runs. -/
def pctxOf (s : State) (hall : Nat) (c : Cmd) : PCtx :=
  let d := descOf c.job.rec1
  let ol := c.job.rec2
  { d := d, ol := ol, hall := hall, kA := c.job.kA, kB := c.job.kB, kOut := c.job.kOut
    srcA := srcOf s d.codeA (opAddr ol 0), srcB := srcOf s d.codeB (opAddr ol 2), append := bitOf c.o0 12 }

/-! ## Address generation (R157, R158, R204) -/

/-- Mixed-radix digits, the first bound fastest. -/
def digits : List Nat → Nat → List Nat
  | [], _ => []
  | b :: bs, t => t % b :: digits bs (t / b)

/-- Tile levels with their indices for item `t`. -/
def Desc.tileIx (d : Desc) (t : Nat) : List (Lvl × Nat) := d.tileLv.zip (digits (d.tileLv.map (·.bound)) t)
/-- Mixed-radix value of the indices of one role (R158). -/
def roleIx (role : Nat) : Nat → List (Lvl × Nat) → Nat
  | _, [] => 0
  | w, (l, i) :: r => if l.role = role then w * i + roleIx role (w * l.bound) r else roleIx role w r
def Desc.mIx (d : Desc) (t : Nat) : Nat := roleIx 2 1 (d.tileIx t)
def Desc.nIx (d : Desc) (t : Nat) : Nat := roleIx 3 1 (d.tileIx t)
def Desc.pIx (d : Desc) (t : Nat) : Nat := roleIx 5 1 (d.tileIx t)

/-- Line offsets of A, B and C of item `t` (R157). -/
def Desc.offs (d : Desc) (t : Nat) : Int × Int × Int :=
  (d.tileIx t).foldl (fun (a, b, c) (l, i) =>
    match l.role with
    | 1 => (a + i * 256 * l.s1, b + i * 256 * l.s2, c + i * 256 * l.s3)
    | 2 => (a + i * l.s1, b, c + i * l.s2)
    | 3 => (a, b + i * l.s1, c + i * l.s2)
    | 5 => (a + i * l.s1, b + i * l.s2, c)
    | _ => (a, b, c)) (0, 0, 0)

/-- Line offsets of A and B of chunk `q` (R157). -/
def Desc.kOffs (d : Desc) (q : Nat) : Int × Int :=
  (d.kLv.zip (digits (d.kLv.map (·.bound)) q)).foldl (fun (a, b) (l, i) => (a + i * l.s1, b + i * l.s2)) (0, 0)

/-- Coordinates (T, H, W) of a flattened position over extents `h`, `w`. -/
def unflat (h w o : Nat) : Nat → Nat
  | 0 => o / w / h
  | 1 => o / w % h
  | _ => o % w
/-- Flattened position. -/
def flat (h w : Nat) (x : Nat → Nat) : Nat := (x 0 * h + x 1) * w + x 2
/-- Kernel coordinates of tap τ. -/
def Desc.tap (d : Desc) (tau : Nat) : Nat → Nat := unflat (d.kx 1) (d.kx 2) tau

/-- Input position of output position `o` under tap τ, where present (R204). -/
def Desc.inPos (d : Desc) (g : Geo) (o tau : Nat) : Option Nat :=
  let oc := unflat (d.ox g 1) (d.ox g 2) o
  let kc := d.tap tau
  let i (x : Nat) : Int := (oc x * d.sx x : Nat) - (d.ax x : Nat) + (kc x * d.dx x : Nat)
  if (List.range 3).all fun x => 0 ≤ i x && i x < g.i x then some (flat (g.i 1) (g.i 2) fun x => (i x).toNat) else none

/-- Output position that input position `p` feeds under tap τ, where present (R204, mode 1). -/
def Desc.outPos (d : Desc) (g : Geo) (p tau : Nat) : Option Nat :=
  let ic := unflat (g.i 1) (g.i 2) p
  let kc := d.tap tau
  let n (x : Nat) : Int := (ic x + d.ax x : Nat) - (kc x * d.dx x : Nat)
  if (List.range 3).all fun x => 0 ≤ n x && n x % (d.sx x : Int) = 0 && n x / (d.sx x : Int) < d.ox g x then
    some (flat (d.ox g 1) (d.ox g 2) fun x => (n x / (d.sx x : Int)).toNat)
  else none

/-- Global row of tile row `r`, global column of tile column `j` of item `t` (R158). -/
def Desc.gRow (d : Desc) (t r : Nat) : Nat := d.mIx t * d.rows + r
def Desc.gCol (d : Desc) (t j : Nat) : Nat := d.nIx t * d.cols + j

/-- A column exists: below the extent, and in mode 2 a channel of the input (R158, R205). -/
def Desc.colIn (d : Desc) (ol : List Byte) (t j : Nat) : Bool :=
  if d.kind = 1 && d.wmode = 2 then
    let g := geoOf ol
    d.nIx t % d.cci g * 128 + j < g.cin && d.gCol t j < d.nExt ol
  else d.gCol t j < d.nExt ol
def Desc.rowIn (d : Desc) (ol : List Byte) (t r : Nat) : Bool := d.gRow t r < d.mExt ol

/-- Line and element of A for tile row `r`, chunk `q`, position `e` of item `t`; none where absent (R157, R158, R204,
R205). -/
def Desc.aLoc (d : Desc) (ol : List Byte) (t q r e : Nat) : Option (Int × Nat) :=
  let pA := opPitch ol 0
  if d.kind = 0 then
    if (d.pIx t * d.q + q) * d.ch + e < opExt ol 8 4 then
      let a : Int := (d.offs t).1 + (d.kOffs q).1
      if d.transA then some (a + e * pA + (r / 128 : Nat), r % 128) else some (a + r * pA, e)
    else none
  else
    let g := geoOf ol
    let gr := d.gRow t r
    let u := d.pIx t * d.q + q
    match d.wmode with
    | 0 =>
      let cc := d.cci g
      if u < d.taps * cc && u % cc * d.ch + e < g.cin then
        (d.inPos g (gr % d.pOut g) (u / cc)).map fun p =>
          (((gr / d.pOut g * d.pIn g + p) * pA + u % cc : Nat), e)
      else none
    | 1 =>
      let cc := d.cco g
      if u < d.taps * cc && u % cc * d.ch + e < g.cout then
        (d.outPos g (gr % d.pIn g) (u / cc)).map fun p =>
          (((gr / d.pIn g * d.pOut g + p) * pA + u % cc : Nat), e)
      else none
    | 2 =>
      let x := u * 128 + e
      let b := x / d.rLen g
      let o := x % d.rLen g
      if b < g.nb && o < d.pOut g && (d.inPos g o (d.nIx t / d.cci g)).isSome then
        some (((b * d.pOut g + o) * pA + gr / 128 : Nat), gr % 128)
      else none
    | _ => none

/-- Line and element of B for tile column `j`, chunk `q`, position `e` of item `t`; none where absent. -/
def Desc.bLoc (d : Desc) (ol : List Byte) (t q j e : Nat) : Option (Int × Nat) :=
  let pB := opPitch ol 2
  if d.kind = 0 then
    if (d.pIx t * d.q + q) * d.ch + e < opExt ol 8 4 then
      let b : Int := (d.offs t).2.1 + (d.kOffs q).2
      if d.transB then some (b + e * pB + (j / 128 : Nat), j % 128) else some (b + j * pB, e)
    else none
  else
    let g := geoOf ol
    let u := d.pIx t * d.q + q
    match d.wmode with
    | 0 => if u < d.taps * d.cci g then some ((d.gCol t j * pB + u : Nat), e) else none
    | 1 =>
      let cc := d.cco g
      if u < d.taps * cc && u % cc * 128 + e < g.cout then some (((u % cc * 128 + e) * pB + u / cc * d.cci g + d.nIx t : Nat), j) else none
    | 2 =>
      let x := u * 128 + e
      let b := x / d.rLen g
      let o := x % d.rLen g
      if b < g.nb && o < d.pOut g then
        (d.inPos g o (d.nIx t / d.cci g)).map fun p => (((b * d.pIn g + p) * pB + d.nIx t % d.cci g : Nat), j)
      else none
    | _ => none

/-- C line of tile row `r` of item `t` (R157, R204). -/
def Desc.cLine (d : Desc) (ol : List Byte) (t r : Nat) : Int :=
  if d.kind = 0 then (d.offs t).2.2 + r * opPitch ol 4 else (d.gRow t r * opPitch ol 4 + d.nIx t : Nat)

/-- Every raw line index an operand's items name, for check 8 of R329: all levels, rows, columns and positions. -/
def Desc.allLines (d : Desc) (ol : List Byte) (isA : Bool) : List Int :=
  (List.range d.items).flatMap fun t => (List.range d.q).flatMap fun q =>
    if isA then
      (List.range d.rows).flatMap fun r =>
        (if d.transA then List.range d.ch else [0]).filterMap fun e => (d.aLoc ol t q r e).map (·.1)
    else
      (List.range d.cols).flatMap fun j =>
        (if d.transB then List.range d.ch else [0]).filterMap fun e => (d.bLoc ol t q j e).map (·.1)

/-! ## One output (R86 to R98) -/

/-- The value of an operand element. -/
def opElem (s : State) (hall fmt size : Nat) (src : Src) (loc : Int × Nat) : Except RdErr FNum :=
  match srcElem s hall src (loc.1 * size) (fmtBits fmt) loc.2 with
  | .error x => .error x
  | .ok c => .ok (elemVal fmt c.bits)

/-- Address of the scale byte of the block that holds element `e` of an MX operand's line (R123, R157). -/
def mxScaleAt (addr ch : Nat) (line : Int) (e : Nat) : Nat :=
  ((addr : Int) + (if ch = 256 then 8 else 4) * line + (e / 32 : Nat)).toNat

/-- Both elements of one product; none where the position is absent. -/
def PCtx.pair (s : State) (c : PCtx) (t q r j e : Nat) : Except RdErr (Option (FNum × FNum)) :=
  let d := c.d
  match d.aLoc c.ol t q r e, d.bLoc c.ol t q j e with
  | some la, some lb =>
    match opElem s c.hall d.fmtA (lineIn d.ch d.fmtA d.transA) c.srcA la with
    | .error x => .error x
    | .ok x =>
      match opElem s c.hall d.fmtB (lineIn d.ch d.fmtB d.transB) c.srcB lb,
          (if fmtIsMx d.fmtA then
            readsStuck s [(mxScaleAt (opAddr c.ol 1) d.ch la.1 e, 1), (mxScaleAt (opAddr c.ol 3) d.ch lb.1 e, 1)]
           else none) with
      | .error y, _ => .error y
      | _, some y => .error y
      | .ok y, none => .ok (some (x, y))
  | _, _ => .ok none

/-- The pairs of positions `e0` to `e0 + n - 1` of a chunk. -/
def PCtx.pairs (s : State) (c : PCtx) (t q r j e0 : Nat) : Nat → Except RdErr (List (Option (FNum × FNum)))
  | 0 => .ok []
  | n + 1 =>
    match c.pair s t q r j e0 with
    | .error x => .error x
    | .ok p =>
      match PCtx.pairs s c t q r j (e0 + 1) n with
      | .error x => .error x
      | .ok ps => .ok (p :: ps)

/-- The constant m of a pair (R89). -/
def Desc.mConst (d : Desc) : Int := (elemBP d.fmtA).1 + (elemBP d.fmtB).1

/-- Scale byte of block `b` of the line at `loc` of an MX operand (R123, R157). -/
def mxScale (s : State) (addr ch : Nat) (line : Int) (b : Nat) : Nat := memNat s (mxScaleAt addr ch line (32 * b)) 1

/-- Scale sum of block `b` of chunk `q`: none where the block is absent, `some none` for a NaN scale (R91). -/
def PCtx.blockScale (s : State) (c : PCtx) (t q r j b : Nat) : Option (Option Int) :=
  let d := c.d
  let there := (List.range 32).find? fun e =>
    (d.aLoc c.ol t q r (32 * b + e)).isSome && (d.bLoc c.ol t q j (32 * b + e)).isSome
  match there with
  | none => none
  | some e =>
    match d.aLoc c.ol t q r (32 * b + e), d.bLoc c.ol t q j (32 * b + e) with
    | some la, some lb =>
      let x := mxScale s (opAddr c.ol 1) d.ch la.1 b
      let y := mxScale s (opAddr c.ol 3) d.ch lb.1 b
      if x = 255 || y = 255 then some none else some (some ((x : Int) + y - 254))
    | _, _ => none

/-- Item of part `p` of the tile of item `t`: the P level is the innermost tile level (R152). -/
def Desc.partItem (d : Desc) (t p : Nat) : Nat := t / d.pBound * d.pBound + p

/-- S_max of an MX output over the whole reduction (R91, R117). -/
def PCtx.anchor (s : State) (c : PCtx) (t r j : Nat) : Int :=
  let ss : List (Option (Option Int)) :=
    (List.range c.d.pBound).flatMap fun p => (List.range c.d.q).flatMap fun q =>
      (List.range (c.d.ch / 32)).map fun b => c.blockScale s (c.d.partItem t p) q r j b
  (ss.foldl (fun (acc : Option Int) x =>
    match x with
    | some (some v) => some (match acc with | none => v | some a => max a v)
    | _ => acc) none).getD 0

/-- Accumulate the chunks `q` onward of an FP8, integer or MX output (R90, R92). -/
def PCtx.accChunks (s : State) (c : PCtx) (t r j : Nat) (L : Int) : Nat → Nat → Acc → Except RdErr Acc
  | 0, _, a => .ok a
  | n + 1, q, a =>
    match c.pairs s t q r j 0 c.d.ch with
    | .error x => .error x
    | .ok ps =>
      let a :=
        if fmtIsMx c.d.fmtA then
          (List.range (c.d.ch / 32)).foldl (fun a b =>
            match c.blockScale s t q r j b with
            | none => a
            | some sc => accAddBlock L (sc.getD 0) sc.isNone a (((ps.drop (32 * b)).take 32).filterMap id)) a
        else (ps.filterMap id).foldl (fun a p => accAdd L a p.1 p.2) a
      PCtx.accChunks s c t r j L n (q + 1) a

/-- FP32 leaves of a BF16 or FP16 output's reduction range (R96). -/
def PCtx.leaves (s : State) (c : PCtx) (t r j : Nat) : Nat → Nat → Except RdErr (List (Option Nat))
  | 0, _ => .ok []
  | n + 1, q =>
    match c.pairs s t q r j 0 c.d.ch with
    | .error x => .error x
    | .ok ps =>
      match PCtx.leaves s c t r j n (q + 1) with
      | .error x => .error x
      | .ok rest =>
        .ok ((ps.map fun p => p.map fun (x, y) =>
          match x, y with
          | .fin na ma ea, .fin nb mb eb => fp32Of (na != nb) (ma * mb) (ea + eb)
          | _, _ => match prodTag x y with
            | 1 => fInf ifmt32 false
            | 2 => fInf ifmt32 true
            | _ => fCanonNaN ifmt32) ++ rest)

/-- One output of an item: its accumulator over the item's reduction range (R111 to R117, R160). -/
def PCtx.out (s : State) (c : PCtx) (t r j : Nat) : Except RdErr Acc :=
  if fmtIsHalf c.d.fmtA then
    match c.leaves s t r j c.d.q 0 with
    | .error x => .error x
    | .ok ls => .ok { fp := (laneTree (fAdd ifmt32 0) 10 ls).map (·.1) }
  else
    let sMax := if fmtIsMx c.d.fmtA then c.anchor s t r j else 0
    match c.accChunks s t r j (sMax + c.d.mConst - 71) c.d.q 0 {} with
    | .error x => .error x
    | .ok a => .ok { a with anchor := sMax }

/-! ## Pooling (R209) -/

/-- maximumNumber over present taps in ascending order; all NaN gives the first NaN, quieted. -/
def poolMax : List Nat → Option Nat
  | [] => none
  | xs => some (
    match xs.filter fun x => !fIsNaN ifmt32 x with
    | [] => fQuiet ifmt32 (xs.headD 0)
    | y :: ys => ys.foldl (fun a b => (fMaxNum ifmt32 a b).1) y)

/-- One pooled output: the present taps of the window of a row, at column `j` (R204, R209). Channel j of the input stands
in line j ÷ 128 of its position, as R203 stores it and R208 reaches it; R204 calls that line the column tile, which it is
with 128 columns a tile (log 286). -/
def PCtx.pool (s : State) (c : PCtx) (t r j : Nat) : Except RdErr Acc :=
  let d := c.d
  let g := geoOf c.ol
  let gr := d.gRow t r
  let col := d.gCol t j
  let size := lineIn d.ch d.fmtA d.transA
  let bytes := fmtBits d.fmtA / 8
  let places := (List.range d.taps).filterMap fun tau =>
    (d.inPos g (gr % d.pOut g) tau).map fun p =>
      let line := (gr / d.pOut g * d.pIn g + p) * opPitch c.ol 0 + col / 128
      c.srcA.addr + line * size + (col % 128) * bytes
  let vals := places.map fun a => elem32 d.fmtA (memNat s a bytes) c.kA
  let div (x n : Nat) : Nat := (fDiv ifmt32 0 x (fp32Of false n 0)).1
  let res : Option Nat :=
    if d.pool = 0 then poolMax vals
    else
      match vals with
      | [] => none
      | v :: vs =>
        let sum := vs.foldl (fun a b => (fAdd ifmt32 0 a b).1) v
        some (div sum (if d.pool = 1 then vals.length else d.taps))
  match readsStuck s (places.map fun a => (a, bytes)) with
  | some e => .error e
  | none => .ok { fp := some (res.getD 0) }

/-- One row of an item: absent columns are none (R116). -/
def PCtx.row (s : State) (c : PCtx) (t r : Nat) : Nat → Nat → Except RdErr (List (Option Acc))
  | 0, _ => .ok []
  | n + 1, j =>
    match PCtx.row s c t r n (j + 1) with
    | .error x => .error x
    | .ok rest =>
      if c.d.rowIn c.ol t r && c.d.colIn c.ol t j then
        match (if c.d.isPool then c.pool s t r j else c.out s t r j) with
        | .error x => .error x
        | .ok a => .ok (some a :: rest)
      else .ok (none :: rest)

/-- The tile of an item, row by row (R111). -/
def PCtx.tile (s : State) (c : PCtx) (t : Nat) : Nat → Nat → Except RdErr (List (List (Option Acc)))
  | 0, _ => .ok []
  | n + 1, r =>
    match c.row s t r c.d.cols 0 with
    | .error x => .error x
    | .ok row =>
      match PCtx.tile s c t n (r + 1) with
      | .error x => .error x
      | .ok rest => .ok (row :: rest)

/-- Conversions of a low-rank operand's expansion pass over one item (R335, R336). -/
def PCtx.expandCvts (s : State) (c : PCtx) (t : Nat) : List Cvt :=
  let d := c.d
  let get (size : Nat) (src : Src) (loc : Int × Nat) : List Cvt :=
    match srcElem s c.hall src (loc.1 * size) 16 loc.2 with
    | .ok x => [x]
    | .error _ => []
  (List.range d.q).flatMap fun q => (List.range d.ch).flatMap fun e =>
    (if d.codeA = 2 then
      (List.range d.rows).flatMap fun r =>
        if d.rowIn c.ol t r then
          match d.aLoc c.ol t q r e with
          | some l => get (lineIn d.ch d.fmtA d.transA) c.srcA l
          | none => []
        else []
    else []) ++
    (if d.codeB = 2 then
      (List.range d.cols).flatMap fun j =>
        if d.colIn c.ol t j then
          match d.bLoc c.ol t q j e with
          | some l => get (lineIn d.ch d.fmtB d.transB) c.srcB l
          | none => []
        else []
    else [])

/-! ## The drain (R128) -/

/-- A decoded number as an FP32 pattern, rounded to nearest. -/
def fnTo32 (v : FNum) : Nat :=
  match v with
  | .fin n m e => fp32Of n m e
  | .inf n => fInf ifmt32 n
  | .nan => fCanonNaN ifmt32

/-- FP32 magnitude of a value, rounded toward +∞ (R108, R192). -/
def fnMag32 (v : FNum) : Nat :=
  match v with
  | .fin _ m e => (fRound ifmt32 3 false m e).1
  | .inf _ => fInf ifmt32 false
  | .nan => fCanonNaN ifmt32

/-- Stages D1 to D4 of one element (R128): the value presented to D5, and v of R212. `y` is Y widened, `sj` and `bj` the
column's pair; `fp` is the FP32 result of a tree or a window, whose NaN keeps its sign and payload, where a NaN of ACC96 is
the canonical one (log 284). -/
def drainStages (d : Desc) (k : Int) (tab0 tab1 : List Byte) (V : FNum) (fp : Option Nat) (sj bj y : Nat) : FNum × Nat :=
  let V := fnScale V k
  let u := match V, fp with
    | .nan, some x => fQuiet ifmt32 x
    | _, _ => fnTo32 V
  if d.affine = 0 && d.func = 0 && d.resid = 0 then (V, u)
  else
    let u := match d.affine with
      | 1 => (fAdd ifmt32 0 u bj).1
      | 2 => fma32 u sj bj
      | _ => u
    let u := match d.func with
      | 1 => tabEval tab0 u
      | 2 => tabEval tab1 u
      | 3 => mul32 u (tabEval tab0 u)
      | 4 => mul32 u (tabEval tab1 y)
      | _ => u
    let u := match d.resid with
      | 1 => (fAdd ifmt32 0 u y).1
      | 2 => mul32 u y
      | _ => u
    (fDecode ifmt32 u, u)

/-- Write element `i` of `bits` bits of the line at `a` (R85). -/
def putElem (s : State) (a bits i v : Nat) : State :=
  let p := i * bits
  if bits % 8 = 0 then memPutNat s (a + p / 8) (bits / 8) v
  else memPutNat s (a + p / 8) 2 (setBits (memNat s (a + p / 8) 2) (p % 8) bits v)

/-- Take one written value into private norm sums on the grid of EXP (R192). -/
def normTake (n : NormAcc) (ex : Int) (v : FNum) : NormAcc :=
  if ex < -256 || 256 < ex then { n with bad := true }
  else
    match v with
    | .fin _ m e =>
      let g : Int := ex - 64
      let (q, lost) : Nat × Bool :=
        if g ≤ 2 * e then (m * m * 2 ^ (2 * e - g).toNat, false)
        else (m * m / 2 ^ (g - 2 * e).toNat, m * m % 2 ^ (g - 2 * e).toNat ≠ 0)
      let sum := n.sumsq + q
      { n with
        sumsq := min sum (2 ^ 128 - 1), maxabs := amaxJoin n.maxabs (fnMag32 v), trunc := n.trunc || lost
        sat := n.sat || decide (2 ^ 128 ≤ sum), count := n.count + 1 }
    | _ => { n with nan := true }

/-- What a drain gathers beside its writes: norm sums, the largest presented magnitude, whether one was presented. -/
structure Gather where
  norm : NormAcc := {}
  amax : Nat := 0
  presented : Bool := false
  deriving DecidableEq, Repr

/-- A column's place in Z and a row's (R159). -/
def zRow (s : State) (ol : List Byte) (i : Nat) : Bool := bitOf (memNat s (opAddr ol 10 + i / 8) 1) (i % 8)
def zCol (s : State) (ol : List Byte) (j : Nat) : Bool :=
  bitOf (memNat s (opAddr ol 10 + opPitch ol 10 + j / 8) 1) (j % 8)

/-- Values of one row that leave D5, before conversion: with v of R212; none where absent or masked. For an MX output
the mask is that of the block's first element (R130). -/
def PCtx.rowD5 (s : State) (c : PCtx) (t r : Nat) (accs : List (Option Acc)) : List (Option (FNum × Nat)) :=
  let d := c.d
  let tab0 := hallTable s.run c.hall 0
  let tab1 := hallTable s.run c.hall 1
  let yf := opFmt c.ol 9
  let ya := (((opAddr c.ol 9 : Int)) + d.cLine c.ol t r * lineOut yf).toNat
  (List.range accs.length).map fun j =>
    match accs.getD j none with
    | none => none
    | some a =>
      let gj := d.gCol t j
      let mj := if fmtIsMx d.outFmt then d.gCol t (j / 32 * 32) else gj
      if d.mask && !(zRow s c.ol (d.gRow t r) && zCol s c.ol mj) then none
      else
        let L : Int := a.anchor + d.mConst - 71
        let k : Int := if d.isPool then 0 else c.kA + c.kB
        let x := opAddr c.ol 8 + 8 * gj
        let yb := fmtBits yf / 8
        let y := elem32 yf (memNat s (ya + j * yb) yb) 0
        let a := if a.fp.isNone && fmtIsHalf d.fmtA then { a with fp := some 0 } else a
        some (drainStages d k tab0 tab1 (accVal L a) a.fp (memNat s x 4) (memNat s (x + 4) 4) y)

/-- Conversion and write of a row outside MX formats (D5, D7): state, written values at real scale. A NaN into FP32 keeps
the sign and payload it has at D5, which R102 leaves open (log 284). -/
def PCtx.putPlain (s : State) (c : PCtx) (t r : Nat) (vals : List (Option (FNum × Nat))) : State × List FNum :=
  let d := c.d
  let line := (((opAddr c.ol 4 : Int)) + d.cLine c.ol t r * lineOut d.outFmt).toNat
  let bits := fmtBits d.outFmt
  let cache := hallCache s c.hall
  let step (acc : State × List FNum × List Cvt) (j : Nat) : State × List FNum × List Cvt :=
    match vals.getD j none with
    | none => acc
    | some (v, u) =>
      if c.append then
        match cache with
        | none => acc
        | some (_, cr) =>
          let gj := d.gCol t j
          let k := if gj / (cr.hkv * cr.dim) = 0 then cr.kExp else cr.vExp
          let cv := cvtTo d.outFmt d.conv (fnScale v (-k))
          let (a, i) := appendLoc acc.1 cr (apSeq c.ol) (apLayer c.ol) (apPos c.ol) (d.gRow t r) gj
          (putElem acc.1 a bits i cv.bits, acc.2.1, cv :: acc.2.2)
      else
        let cv := if d.outFmt = 0x00 && v = .nan then { bits := u, nan := true } else cvtTo d.outFmt d.conv (fnScale v (-c.kOut))
        (putElem acc.1 line bits j cv.bits, fnScale (elemVal d.outFmt cv.bits) c.kOut :: acc.2.1, cv :: acc.2.2)
  let (s', vs, cs) := (List.range vals.length).foldl step (s, [], [])
  (countCvts s' c.hall cs, vs)

/-- Write one MX block of values (R103): the scale byte at `sa`, elements at index `i0` of the line `la`. -/
def putMxBlock (s : State) (hall fmt conv sa la i0 : Nat) (vs : List (Nat × FNum)) : State × List FNum :=
  if vs.isEmpty then (s, [])
  else
    let (sc, cs) := mxBlock Config.mxOver fmt conv (vs.map (·.2))
    let s := memPutNat s sa 1 sc
    let s := (vs.zip cs).foldl (fun s p => putElem s la (fmtBits fmt) (i0 + p.1.1) p.2.bits) s
    let s := countCvts s hall cs
    let s := if sc = 255 then countHall s hall 0x010 1 else s
    (s, cs.map fun cv => if sc = 255 then .nan else fnScale (elemVal fmt cv.bits) ((sc : Int) - 127))

/-- Conversion and write of a row in an MX format (D5 to D7). -/
def PCtx.putMx (s : State) (c : PCtx) (t r : Nat) (vals : List (Option (FNum × Nat))) : State × List FNum :=
  let d := c.d
  let ln := d.cLine c.ol t r
  let line := (((opAddr c.ol 4 : Int)) + ln * lineOut d.outFmt).toNat
  let scl := (((opAddr c.ol 5 : Int)) + ln * 4).toNat
  (List.range (d.cols / 32)).foldl (fun (acc : State × List FNum) b =>
    let vs := (List.range 32).filterMap fun i => (vals.getD (32 * b + i) none).map fun v => (i, v.1)
    let (s, ws) := putMxBlock acc.1 c.hall d.outFmt d.conv (scl + b) line (32 * b) vs
    (s, acc.2 ++ ws)) (s, [])

/-- Write the accumulators of a row as ACC96, masked elements apart (R127). -/
def PCtx.putAcc (s : State) (c : PCtx) (t r : Nat) (accs : List (Option Acc)) : State :=
  let d := c.d
  let line := (((opAddr c.ol 4 : Int)) + d.cLine c.ol t r * lineOut d.outFmt).toNat
  (List.range accs.length).foldl (fun s j =>
    match accs.getD j none with
    | some a =>
      if d.mask && !(zRow s c.ol (d.gRow t r) && zCol s c.ol (d.gCol t j)) then s else memPut s (line + 16 * j) (accBytes a)
    | none => s) s

/-- Twin blocks of rows 32b to 32b + 31, from the values of D5 (R125, R129, R159). -/
def PCtx.putTwin (s : State) (c : PCtx) (t b : Nat) (d5 : List (List (Option FNum))) : State :=
  let d := c.d
  (List.range d.cols).foldl (fun s j =>
    let g0 := d.gRow t (32 * b)
    let gj := d.gCol t j
    let ln := gj * opPitch c.ol 6 + g0 / 128
    let vs := (List.range 32).filterMap fun i => ((d5.getD (32 * b + i) []).getD j none).map fun v => (i, v)
    if d.mask && !(zRow s c.ol g0 && zCol s c.ol gj) then s
    else
      (putMxBlock s c.hall d.outFmt d.conv (opAddr c.ol 7 + 4 * ln + g0 % 128 / 32) (opAddr c.ol 6 + ln * lineOut d.outFmt)
        (g0 % 128) vs).1) s

/-- The best candidate of a row (R212). -/
def rowBest (d : Desc) (t : Nat) (vals : List (Option (FNum × Nat))) : Option (Nat × Nat) :=
  (List.range vals.length).foldl (fun best j =>
    match vals.getD j none with
    | none => best
    | some (_, v) =>
      if fIsNaN ifmt32 v then best
      else
        match best with
        | none => some (v, d.gCol t j)
        | some (w, i) => if 0 < fnCmp (fDecode ifmt32 v) (fDecode ifmt32 w) then some (v, d.gCol t j) else some (w, i)) none

/-- EXP of the norm slot that a descriptor names (R190, R191). -/
def normExp (s : State) (a : Nat) : Int := sext 16 (memNat s (a + 20) 2)

/-- Values that D5 keeps for a twin block: the mask of a twin block is its own, so masked rows keep their values
(R125, R130). -/
def PCtx.rowTwin (s : State) (c : PCtx) (t r : Nat) (accs : List (Option Acc)) : List (Option FNum) :=
  (PCtx.rowD5 s { c with d := { c.d with drn := setBits c.d.drn 22 1 0 } } t r accs).map fun v => v.map (·.1)

/-- Drain row `r` of an item: post-processing, conversion, the write, counters and gathered sums (R128, R623). -/
def PCtx.drainRow (s : State) (c : PCtx) (normAt : Option Nat) (t : Nat) (h : Held) (g : Gather) : State × Held × Gather :=
  let d := c.d
  let r := h.written
  let accs := h.rows.getD r []
  let lossy := accs.countP fun a => match a with | some a => a.inexact | none => false
  let s := countHall s c.hall 0x018 lossy
  if d.outFmt = 0x11 then
    (c.putAcc s t r accs, { h with written := r + 1 }, g)
  else
    let vals := c.rowD5 s t r accs
    let tw := if d.twin then c.rowTwin s t r accs else []
    let (s, vs) := if fmtIsMx d.outFmt then c.putMx s t r vals else c.putPlain s t r vals
    let g := vals.foldl (fun (g : Gather) v =>
      match v with
      | some (x, _) => { g with amax := amaxJoin g.amax (fnMag32 x), presented := true }
      | none => g) g
    let g := match normAt with
      | some a => { g with norm := vs.foldl (fun n v => normTake n (normExp s a) v) g.norm }
      | none => g
    let h := { h with written := r + 1, d5 := h.d5 ++ [tw], best := h.best ++ [if d.argmax then rowBest d t vals else none] }
    let s := if d.twin && (r + 1) % 32 = 0 then c.putTwin s t (r / 32) h.d5 else s
    (s, h, g)

/-- Sums of two private norm copies (R193). -/
def normJoin (a b : NormAcc) : NormAcc :=
  let sum := a.sumsq + b.sumsq
  { sumsq := min sum (2 ^ 128 - 1), maxabs := amaxJoin a.maxabs b.maxabs, trunc := a.trunc || b.trunc
    sat := a.sat || b.sat || decide (2 ^ 128 ≤ sum), nan := a.nan || b.nan, bad := a.bad || b.bad, count := a.count + b.count }

/-- Merge what a drain gathered into its command (R108, R193). -/
def putGather (s : State) (r : CmdRef) (g : Gather) : State :=
  updJob s r fun j => { j with
    amax := amaxJoin j.amax g.amax, presented := j.presented || g.presented, norm := normJoin j.norm g.norm }

/-! ### What a row reads and writes (R128, R157, R228, R269, R292) -/

/-- Bytes of element `i` of `bits` bits of the line at `a`. -/
def elemSpan (a bits i : Nat) : Nat × Nat := (a + i * bits / 8, (i * bits % 8 + bits + 7) / 8)

/-- The columns of row `r` that are written: present and not masked. -/
def PCtx.rowCols (s : State) (c : PCtx) (t r : Nat) (accs : List (Option Acc)) : List Nat :=
  (List.range accs.length).filter fun j =>
    let mj := c.d.gCol t (if fmtIsMx c.d.outFmt then j / 32 * 32 else j)
    (accs.getD j none).isSome && !(c.d.mask && !(zRow s c.ol (c.d.gRow t r) && zCol s c.ol mj))

/-- The bytes that row `r` writes to C, or to the lines of its alcove. -/
def PCtx.rowSpans (s : State) (c : PCtx) (t r : Nat) (cols : List Nat) : List (Nat × Nat) :=
  let d := c.d
  let bits := if d.outFmt = 0x11 then 128 else fmtBits d.outFmt
  if c.append then
    match hallCache s c.hall with
    | none => []
    | some (_, cr) => joinSpans (cols.map fun j =>
        let (a, i) := appendLoc s cr (apSeq c.ol) (apLayer c.ol) (apPos c.ol) (d.gRow t r) (d.gCol t j)
        elemSpan a bits i)
  else
    let ln := d.cLine c.ol t r
    let scl := ((opAddr c.ol 5 : Int) + ln * 4).toNat
    let scales := (List.range (d.cols / 32)).filter fun b => fmtIsMx d.outFmt && cols.any fun j => j / 32 = b
    joinSpans (cols.map (elemSpan ((opAddr c.ol 4 : Int) + ln * lineOut d.outFmt).toNat bits))
      ++ joinSpans (scales.map fun b => (scl + b, 1))

/-- The bytes of the twin blocks of rows 32b to 32b + 31. -/
def PCtx.twinSpans (s : State) (c : PCtx) (t b : Nat) : List (Nat × Nat) :=
  let d := c.d
  let g0 := d.gRow t (32 * b)
  (List.range d.cols).flatMap fun j =>
    let gj := d.gCol t j
    let ln := gj * opPitch c.ol 6 + g0 / 128
    let there := (List.range 32).filter fun i => d.rowIn c.ol t (32 * b + i) && d.colIn c.ol t j
    if there.isEmpty || (d.mask && !(zRow s c.ol g0 && zCol s c.ol gj)) then []
    else (opAddr c.ol 7 + 4 * ln + g0 % 128 / 32, 1)
      :: joinSpans (there.map fun i => elemSpan (opAddr c.ol 6 + ln * lineOut d.outFmt) (fmtBits d.outFmt) (g0 % 128 + i))

/-- What row `r` reads beside the accumulators: its mask, the columns' pairs, its Y line, the EXP of its norm slot. -/
def PCtx.rowReads (c : PCtx) (normAt : Option Nat) (t r : Nat) (cols : List Nat) : List (Nat × Nat) :=
  let d := c.d
  let yf := opFmt c.ol 9
  let ya := ((opAddr c.ol 9 : Int) + d.cLine c.ol t r * lineOut yf).toNat
  (if d.mask then [(opAddr c.ol 10 + d.gRow t r / 8, 1), (opAddr c.ol 10 + opPitch c.ol 10 + d.gCol t 0 / 8, ceilDiv d.cols 8)] else [])
    ++ (if d.affine ≠ 0 then joinSpans (cols.map fun j => (opAddr c.ol 8 + 8 * d.gCol t j, 8)) else [])
    ++ (if d.resid ≠ 0 || d.func = 4 then joinSpans (cols.map (elemSpan ya (fmtBits yf))) else [])
    ++ (match normAt with | some a => [(a, 32)] | none => [])

/-- The bytes that the next row of a held item writes, its twin blocks among them. -/
def PCtx.nextSpans (s : State) (c : PCtx) (t : Nat) (h : Held) : List (Nat × Nat) :=
  let r := h.written
  c.rowSpans s t r (c.rowCols s t r (h.rows.getD r []))
    ++ (if c.d.twin && (r + 1) % 32 = 0 then c.twinSpans s t (r / 32) else [])

/-- What stops the next row of a held item. -/
def PCtx.rowStuck (s : State) (c : PCtx) (normAt : Option Nat) (t : Nat) (h : Held) : Option Stuck :=
  let cols := (List.range c.d.cols).filter fun j => ((h.rows.getD h.written []).getD j none).isSome
  (readsStuck s (c.rowReads normAt t h.written cols)).or (writesStuck s (c.nextSpans s t h))

/-- Drain up to `n` more rows, as far as nothing stops one; what stopped it. -/
def PCtx.drainRows (c : PCtx) (normAt : Option Nat) (t : Nat) :
    Nat → State × Held × Gather → (State × Held × Gather) × Option Stuck
  | 0, x => (x, none)
  | n + 1, (s, h, g) =>
    if h.rows.length ≤ h.written then ((s, h, g), none)
    else
      match c.rowStuck s normAt t h with
      | some e => ((s, h, g), some e)
      | none =>
        let spans := c.nextSpans s t h
        let (s, h, g) := c.drainRow s normAt t h g
        PCtx.drainRows c normAt t n (spansWrote s spans, h, g)

/-- Merge a tile's candidates into the ARGMAX records (R212, R213). -/
def PCtx.mergeBest (s : State) (c : PCtx) (t : Nat) (best : List (Option (Nat × Nat))) : State :=
  (List.range best.length).foldl (fun s r =>
    match best.getD r none with
    | none => s
    | some (v, j) =>
      let a := opAddr c.ol 13 + 8 * opPitch c.ol 13 * c.d.gRow t r
      let w := memNat s a 4
      let i := memNat s (a + 4) 4
      let cmp := fnCmp (fDecode ifmt32 v) (fDecode ifmt32 w)
      if !fIsNaN ifmt32 w && (0 < cmp || (cmp = 0 && j < i)) then memPutNat (memPutNat s a 4 v) (a + 4) 4 j else s) s

/-! ## Split reduction (R166 to R168) -/

/-- Size of a partial's element, and the address of row `r` of the partial of item `t`. -/
def Desc.partE (d : Desc) : Nat := if fmtIsHalf d.fmtA then 4 else 16
def PCtx.partAddr (c : PCtx) (t r : Nat) : Nat := opAddr c.ol 11 + (t * c.d.rows + r) * 128 * c.d.partE

/-- Write one row of a part to PARTIAL (R166); an FP32 part with no present product writes +0. -/
def PCtx.putPartial (s : State) (c : PCtx) (t r : Nat) (accs : List (Option Acc)) : State :=
  let e := c.d.partE
  (List.range accs.length).foldl (fun s j =>
    match accs.getD j none with
    | none => s
    | some a => memPut s (c.partAddr t r + e * j) (if e = 4 then leBytes 4 (a.fp.getD 0) else accBytes a)) s

/-- The bytes of that row, written by its part and read by the combine. -/
def PCtx.partSpan (c : PCtx) (t r : Nat) : Nat × Nat :=
  (c.partAddr t r, c.d.partE * ((List.range c.d.cols).countP fun j => c.d.rowIn c.ol t r && c.d.colIn c.ol t j))

/-- A part has a present product for an output: its FP32 partial then takes part in the tree (R116, R205). -/
def PCtx.partHas (c : PCtx) (t r j : Nat) : Bool :=
  (List.range c.d.q).any fun q => (List.range c.d.ch).any fun e =>
    (c.d.aLoc c.ol t q r e).isSome && (c.d.bLoc c.ol t q j e).isSome

/-- The combine of one output over its parts, in ascending order (R168). -/
def PCtx.combine (s : State) (c : PCtx) (t r j : Nat) : Acc :=
  let parts := (List.range c.d.pBound).map fun p => c.d.partItem t p
  if c.d.partE = 4 then
    let ls := parts.map fun x => if c.partHas x r j then some (memNat s (c.partAddr x r + 4 * j) 4) else none
    { fp := (laneTree (fAdd ifmt32 0) 24 ls).map (·.1) }
  else
    match parts.map fun x => accOfBytes (memBytes s (c.partAddr x r + 16 * j) 16) with
    | [] => {}
    | a :: as => as.foldl accCombine a

/-- The parts' rows that the combine of the tile of item `t` reads. -/
def PCtx.combineReads (c : PCtx) (t : Nat) : List (Nat × Nat) :=
  (List.range c.d.pBound).flatMap fun p => (List.range c.d.rows).map fun r => c.partSpan (c.d.partItem t p) r

/-- The combined tile. -/
def PCtx.combineTile (s : State) (c : PCtx) (t : Nat) : List (List (Option Acc)) :=
  (List.range c.d.rows).map fun r => (List.range c.d.cols).map fun j =>
    if c.d.rowIn c.ol t r && c.d.colIn c.ol t j then some (c.combine s t r j) else none

end Sys2Proof.Machine
end

