-- ==== Sys2Proof/Machine/Attn.lean ====
section
/-! DEFINITION. The arithmetic of attention (R234, R235, R238 to R242): scores, running maxima and sums, the weighted
output, parts and their combine. -/

namespace Sys2Proof.Machine

/-- An attention block (R234). -/
structure Att where
  seq : Nat
  layer : Nat
  head0 : Nat
  heads : Nat
  g : Nat
  mask : Nat
  qlen : Nat
  qsplit : Nat
  qpos0 : Nat
  qpos1 : Nat
  keyEnd : Nat
  ksplit : Nat
  kpos0 : Nat
  kpos1 : Nat
  maskArg : Nat
  scale : Nat
  kvSplit : Nat
  ring : Nat
  conv : Nat
  qScale : Nat
  oScale : Nat
  qsEn : Bool
  osEn : Bool
  amax : Bool
  raw : List Byte
  deriving DecidableEq, Repr

/-- A block from its 256 bytes. -/
def attOf (b : List Byte) : Att :=
  { seq := leAt b 0 2, layer := leAt b 2 2, head0 := leAt b 4 1, heads := leAt b 5 1, g := leAt b 6 1 % 32
    mask := leAt b 7 1 % 4, qlen := leAt b 8 4, qsplit := leAt b 0x0C 4, qpos0 := leAt b 0x10 4, qpos1 := leAt b 0x14 4
    keyEnd := leAt b 0x18 4, ksplit := leAt b 0x1C 4, kpos0 := leAt b 0x20 4, kpos1 := leAt b 0x24 4
    maskArg := leAt b 0x28 4, scale := leAt b 0x2C 4, kvSplit := leAt b 0x30 2, ring := leAt b 0x32 1
    conv := leAt b 0x33 1, qScale := leAt b 0x34 2, oScale := leAt b 0x36 2, qsEn := bitOf (leAt b 0x38 1) 0
    osEn := bitOf (leAt b 0x38 1) 1, amax := bitOf (leAt b 0x38 1) 2, raw := b }

/-- Entry n of the block, Q, OUT, STATS, PARTIAL, ROT: address, presence, pitch, format. -/
def Att.addr (a : Att) (n : Nat) : Nat := leAt a.raw (0x40 + 16 * n) 6
def Att.here (a : Att) (n : Nat) : Bool := bitOf (leAt a.raw (0x46 + 16 * n) 2) 0
def Att.pitch (a : Att) (n : Nat) : Nat := leAt a.raw (0x48 + 16 * n) 4
def Att.fmt (a : Att) (n : Nat) : Nat := leAt a.raw (0x4C + 16 * n) 4 % 32

/-- Position of a query index, of a local key slot of segments `split`, `p0`, `p1` (R234). -/
def Att.qPos (a : Att) (q : Nat) : Nat := if q < a.qsplit then a.qpos0 + q else a.qpos1 + q - a.qsplit
def keyPos (split p0 p1 i : Nat) : Nat := if i < split then p0 + i else p1 + i - split

/-- The mask allows a key position for a query position (R238). -/
def Att.allows (a : Att) (k qp : Nat) : Bool :=
  match a.mask with
  | 0 => true
  | 1 => k ≤ qp
  | 2 => qp < k + a.maskArg && k ≤ qp
  | _ => k / a.maskArg ≤ qp / a.maskArg

/-- Rows of a head, row blocks, pages used, parts, items (R235, R242, R244). -/
def Att.rows (a : Att) : Nat := a.qlen * a.g
def Att.blocks (a : Att) : Nat := ceilDiv a.rows 256
def Att.pages (a : Att) : Nat := ceilDiv a.keyEnd 256
def Att.parts (a : Att) : Nat := if a.kvSplit = 0 then 1 else max 1 (ceilDiv a.pages a.kvSplit)
def Att.items (a : Att) : Nat := a.heads * a.blocks * a.parts
/-- Head, row block and part of item `t`. -/
def Att.itemHead (a : Att) (t : Nat) : Nat := t / a.parts / a.blocks
def Att.itemBlock (a : Att) (t : Nat) : Nat := t / a.parts % a.blocks
def Att.itemPart (a : Att) (t : Nat) : Nat := t % a.parts
/-- Rows of item `t`: first row and count. -/
def Att.itemRow0 (a : Att) (t : Nat) : Nat := 256 * a.itemBlock t
def Att.itemRows (a : Att) (t : Nat) : Nat := min 256 (a.rows - a.itemRow0 t)

/-- A shard: key slots, segments, and the address of the line of a page, half, head, slot and line (R217, R247). -/
structure Shard where
  keyEnd : Nat
  ksplit : Nat
  kpos0 : Nat
  kpos1 : Nat
  line : Nat → Nat → Nat → Nat → Nat → Nat

/-- The sequence's own shard. -/
def ownShard (s : State) (c : CacheRec) (a : Att) : Shard :=
  { keyEnd := a.keyEnd, ksplit := a.ksplit, kpos0 := a.kpos0, kpos1 := a.kpos1
    line := fun p x e t l => c.line (pageAlc s c a.seq a.layer p) x (a.head0 + e) t l }

/-- Element `d` of the vector at a line address function. -/
def vecElem (s : State) (fmt : Nat) (line : Nat → Nat) (d : Nat) : FNum :=
  elemVal fmt (memNat s (line (d / 128) + d % 128 * (fmtBits fmt / 8)) (fmtBits fmt / 8))

/-- Address of the line `c` of the Q or OUT row (q, g) of head e (R235). -/
def Att.rowLine (a : Att) (n lpd e q g c size : Nat) : Nat :=
  a.addr n + (q * a.pitch n + ((a.head0 + e) * a.g + g) * lpd + c) * size

/-- A product of two vectors under the arithmetic of their pair (R86): exact for FP8, the FP32 tree for BF16 and FP16;
absent positions are none. Scaled by 2^k, rounded once to FP32 where exact. -/
def dotPair (fmt : Nat) (k : Int) (xs : List (Option (FNum × FNum))) : FNum :=
  if fmtIsHalf fmt then
    let ls := xs.map fun p => p.map fun (x, y) =>
      match x, y with
      | .fin na ma ea, .fin nb mb eb => fp32Of (na != nb) (ma * mb) (ea + eb)
      | _, _ => match prodTag x y with
        | 1 => fInf ifmt32 false
        | 2 => fInf ifmt32 true
        | _ => fCanonNaN ifmt32
    match laneTree (fAdd ifmt32 0) 8 ls with
    | some (v, _) => fnScale (fDecode ifmt32 v) k
    | none => .fin false 0 0
  else
    let L : Int := -64
    let a := (xs.filterMap id).foldl (fun a p => accAdd L a p.1 p.2) {}
    fnScale (accVal L a) k

/-- A row's running state: m, l, O (R240). -/
structure ARow where
  m : Nat
  l : Nat
  o : List Nat
  deriving DecidableEq, Repr

/-- The starting state of a row: −∞, +0, +0. -/
def arow0 (dim : Nat) : ARow := ⟨fInf ifmt32 true, 0, List.replicate dim 0⟩
/-- A row as a list of numbers and back. -/
def ARow.list (r : ARow) : List Nat := r.m :: r.l :: r.o
def arowOf (xs : List Nat) : ARow := ⟨xs.getD 0 0, xs.getD 1 0, xs.drop 2⟩

/-- One alcove for one row (R240). `qv` are the query elements, `kQ` the query exponent. -/
def attnStep (s : State) (c : CacheRec) (a : Att) (sh : Shard) (qf : Nat) (kQ : Int) (e qp p : Nat) (qv : List FNum)
    (r : ARow) : ARow × List Cvt :=
  let there := (List.range 256).map fun t =>
    256 * p + t < sh.keyEnd && a.allows (keyPos sh.ksplit sh.kpos0 sh.kpos1 (256 * p + t)) qp
  if there.all (· = false) then (r, [])
  else
    let fp8 := fmtIsFp8 c.fmt
    let kx : Int := if fp8 then c.kExp else 0
    let sj := (List.range 256).map fun t =>
      if there.getD t false then
        let ps := (List.range c.dim).map fun d => some (qv.getD d (.fin false 0 0), vecElem s c.fmt (sh.line p 0 e t) d)
        mul32 (fnTo32 (dotPair qf (kQ + kx) ps)) a.scale
      else fInf ifmt32 true
    let mb := match sj with
      | [] => fInf ifmt32 true
      | x :: xs => xs.foldl (fun u v => (fMaxNum ifmt32 u v).1) x
    let m' := (fMaxNum ifmt32 r.m mb).1
    let alpha := if fnSpecial (fDecode ifmt32 r.m) then 0 else expE (sub32 r.m m')
    let pf : Nat := if fp8 then 0x04 else c.fmt
    let pk : Int := if fp8 then 8 else 0
    let pc := (List.range 256).map fun t =>
      if there.getD t false then some (cvtTo pf 4 (fnScale (fDecode ifmt32 (expE (sub32 (sj.getD t 0) m'))) pk)) else none
    let pv (t : Nat) : FNum := match pc.getD t none with
      | some cv => elemVal pf cv.bits
      | none => .fin false 0 0
    let rb := treeSum32 ((List.range 256).map fun t => fnTo32 (fnScale (pv t) (-pk)))
    let vx : Int := if fp8 then c.vExp - 8 else 0
    let ob := (List.range c.dim).map fun d =>
      fnTo32 (dotPair c.fmt vx ((List.range 256).map fun t =>
        if there.getD t false then some (pv t, vecElem s c.fmt (sh.line p 1 e t) d) else none))
    let nans := (ob.filter fun x => fIsNaN ifmt32 x).map fun x => ({ bits := x, nan := true } : Cvt)
    (⟨m', fma32 r.l alpha rb, (r.o.zip ob).map fun x => fma32 x.1 alpha x.2⟩, pc.filterMap id ++ nans)

/-- Alcoves `ps` of a shard for one row, in order. -/
def attnPages (s : State) (c : CacheRec) (a : Att) (sh : Shard) (qf : Nat) (kQ : Int) (e qp : Nat) (qv : List FNum) :
    List Nat → ARow → ARow × List Cvt
  | [], r => (r, [])
  | p :: ps, r =>
    let (r, c1) := attnStep s c a sh qf kQ e qp p qv r
    let (r, c2) := attnPages s c a sh qf kQ e qp qv ps r
    (r, c1 ++ c2)

/-- The rows of item `t` over a shard, from their running states (R240, R242). -/
def attnItem (s : State) (c : CacheRec) (a : Att) (sh : Shard) (kQ : Int) (t : Nat) (start : List ARow) :
    List ARow × List Cvt :=
  let e := a.itemHead t
  let used := ceilDiv sh.keyEnd 256
  let pages := if a.kvSplit = 0 then List.range used
    else ((List.range a.kvSplit).map (a.itemPart t * a.kvSplit + ·)).filter (· < used)
  let qf := a.fmt 0
  let res := (List.range (a.itemRows t)).map fun i =>
    let row := a.itemRow0 t + i
    let q := row / a.g
    let qv := (List.range c.dim).map fun d =>
      vecElem s qf (fun l => a.rowLine 0 c.lpd e q (row % a.g) l (lineIn 128 qf false)) d
    attnPages s c a sh qf kQ e (a.qPos q) qv pages (start.getD i (arow0 c.dim))
  (res.map (·.1), res.flatMap (·.2))

/-- Lines of a page of the item's head that it reads: keys and values of the slots present for some row of item `t`
(R238, R244). -/
def attnPageReads (c : CacheRec) (a : Att) (sh : Shard) (t p : Nat) : List (Nat × Nat) :=
  let slots := (List.range 256).filter fun i =>
    256 * p + i < sh.keyEnd && (List.range (a.itemRows t)).any fun n =>
      a.allows (keyPos sh.ksplit sh.kpos0 sh.kpos1 (256 * p + i)) (a.qPos ((a.itemRow0 t + n) / a.g))
  [0, 1].flatMap fun x => joinSpans (slots.map fun i => (sh.line p x (a.itemHead t) i 0, c.lpd * c.ls))

/-- What stops the main pass of item `t`: its Q lines and its lines of the shard (R218, R244). -/
def attnStuck (s : State) (c : CacheRec) (a : Att) (sh : Shard) (t : Nat) : Option Stuck :=
  let used := ceilDiv sh.keyEnd 256
  let pages := if a.kvSplit = 0 then List.range used
    else ((List.range a.kvSplit).map (a.itemPart t * a.kvSplit + ·)).filter (· < used)
  (readsStuck s ((List.range (a.itemRows t)).map fun i =>
    let row := a.itemRow0 t + i
    (a.rowLine 0 c.lpd (a.itemHead t) (row / a.g) (row % a.g) 0 (lineIn 128 (a.fmt 0) false), c.dim * fmtBits (a.fmt 0) / 8))).or
  (readsStuck s (pages.flatMap (attnPageReads c a sh t)))

/-- The bytes that the final row `i` of item `t` writes. -/
def attnOutSpans (c : CacheRec) (a : Att) (t i : Nat) : List (Nat × Nat) :=
  let row := a.itemRow0 t + i
  (a.rowLine 1 c.lpd (a.itemHead t) (row / a.g) (row % a.g) 0 (lineOut (a.fmt 1)), c.dim * fmtBits (a.fmt 1) / 8)
    :: (if a.here 2 then [(a.addr 2 + 8 * ((row / a.g * a.heads + a.itemHead t) * a.g + row % a.g), 8)] else [])

/-- Write the final row `i` of item `t` (R241): OUT, STATS, counters, presented magnitudes. -/
def attnPut (s : State) (hall : Nat) (c : CacheRec) (a : Att) (kOut : Int) (t i : Nat) (r : ARow) (g : Gather) :
    State × Gather :=
  let e := a.itemHead t
  let row := a.itemRow0 t + i
  let q := row / a.g
  let gg := row % a.g
  let of := a.fmt 1
  let size := lineOut of
  let zero : Bool := bitsOf r.l 0 31 = 0
  let (s, g, cs) := (List.range c.dim).foldl (fun (acc : State × Gather × List Cvt) d =>
    let v : FNum := if zero then .fin false 0 0 else fDecode ifmt32 (fDiv ifmt32 0 (r.o.getD d 0) r.l).1
    let cv := cvtTo of a.conv (fnScale v (-kOut))
    (putElem acc.1 (a.rowLine 1 c.lpd e q gg (d / 128) size) (fmtBits of) (d % 128) cv.bits,
      { acc.2.1 with amax := amaxJoin acc.2.1.amax (fnMag32 v), presented := true }, cv :: acc.2.2)) (s, g, [])
  let s := countCvts s hall cs
  let st := a.addr 2 + 8 * ((q * a.heads + e) * a.g + gg)
  (if a.here 2 then memPutNat (memPutNat s st 4 r.m) (st + 4) 4 r.l else s, g)

/-- Bytes of a partial row, and its address: m, l and O of row `i` of item `t` (R242). -/
def attnPartRow (c : CacheRec) : Nat := (128 * c.lpd + 2) * 4
def attnPartAddr (c : CacheRec) (a : Att) (t i : Nat) : Nat := a.addr 3 + (t * 256 + i) * attnPartRow c
def attnPartSpan (c : CacheRec) (a : Att) (t i : Nat) : Nat × Nat := (attnPartAddr c a t i, 8 + 4 * c.dim)
def attnPutPart (s : State) (c : CacheRec) (a : Att) (t i : Nat) (r : ARow) : State :=
  memPut s (attnPartAddr c a t i) (r.list.flatMap (leBytes 4))
def attnGetPart (s : State) (c : CacheRec) (a : Att) (t i : Nat) : ARow :=
  let at' := attnPartAddr c a t i
  ⟨memNat s at' 4, memNat s (at' + 4) 4, (List.range c.dim).map fun d => memNat s (at' + 8 + 4 * d) 4⟩

/-- Weight of a part against the joint maximum (R242). -/
def partWeight (m m' : Nat) : Nat := expE (sub32 m m')

/-- Combine a row with its next part (R242). -/
def attnJoin (r p : ARow) : ARow :=
  let m' := (fMaxNum ifmt32 r.m p.m).1
  let al := partWeight r.m m'
  let be := partWeight p.m m'
  ⟨m', fma32 r.l al (mul32 p.l be), (r.o.zip p.o).map fun x => fma32 x.1 al (mul32 x.2 be)⟩

/-- Write final rows in turn: item, row of its block, values. -/
def attnPutAll (hall : Nat) (c : CacheRec) (a : Att) (kOut : Int) : List (Nat × Nat × ARow) → State → Gather → State × Gather
  | [], s, g => (s, g)
  | x :: xs, s, g =>
    let (s, g) := attnPut s hall c a kOut x.1 x.2.1 x.2.2 g
    attnPutAll hall c a kOut xs (spansWrote s (attnOutSpans c a x.1 x.2.1)) g

/-- Drain up to `n` rows of item `t` from row `w` on, to OUT or to PARTIAL, as far as nothing stops one (R241, R242): state,
next row, what was gathered, what stopped it. -/
def attnDrain (hall : Nat) (c : CacheRec) (a : Att) (kOut : Int) (part : Bool) (t : Nat) (rows : List (List Nat)) :
    Nat → State × Nat × Gather → State × Nat × Gather × Option Stuck
  | 0, (s, w, g) => (s, w, g, none)
  | n + 1, (s, w, g) =>
    if rows.length ≤ w then (s, w, g, none)
    else
      let spans := if part then [attnPartSpan c a t w] else attnOutSpans c a t w
      match writesStuck s spans with
      | some e => (s, w, g, some e)
      | none =>
        let row := arowOf (rows.getD w [])
        let (s, g) := if part then (attnPutPart s c a t w row, g) else attnPut s hall c a kOut t w row g
        attnDrain hall c a kOut part t rows n (spansWrote s spans, w + 1, g)

/-- The rows of PARTIAL that the combine of the row block of item `t` reads. -/
def attnCombineReads (c : CacheRec) (a : Att) (t : Nat) : List (Nat × Nat) :=
  (List.range a.parts).flatMap fun p => (List.range (a.itemRows t)).map fun i =>
    attnPartSpan c a (t / a.parts * a.parts + p) i

/-- Row `i` of the row block of item `t`, combined over its parts in ascending order. -/
def attnCombine (s : State) (c : CacheRec) (a : Att) (t i : Nat) : ARow :=
  match (List.range a.parts).map fun p => attnGetPart s c a (t / a.parts * a.parts + p) i with
  | [] => arow0 c.dim
  | r :: rs => rs.foldl attnJoin r

end Sys2Proof.Machine
end

