-- ==== Sys2Proof/Machine/ProductCmd.lean ====
section
/-! DEFINITION. The dispatch of PRODUCT and VECTOR_PROGRAM: the loader checks of R173 and R207, the header checks of
R329, appends (R227, R230), layers and phases (R175 to R196), vector programs (R139, R476). -/

namespace Sys2Proof.Machine

/-- Commands whose items come from a counter slot (R161, R244, R337, R367): a second owner's update has no items, and the
expansions of KIND 2 tiles have items and no counter slot (log 132). -/
def counterOp (op : Nat) : Bool := op = 0x01 || op = 0x03 || op = 0x1B || op = 0x21
/-- All 16 counter slots of a hall are held by earlier commands (R161); the command under test counts once more. -/
def slotsFull (s : State) (h : Nat) : Bool :=
  16 < (scopeCmds s h).countP fun p =>
    p.2.st = .dispatched && counterOp p.2.opcode && !(p.2.opcode = 0x21 && bitOf (leAt p.2.job.rec1 0 1) 0)

/-- Reaches of the present entries as ranges; a coded operand's is its header (R329). -/
def prodReach (d : Desc) (append : Bool) (ol : List Byte) : List (Nat × Int × Int) :=
  (d.reaches append ol).map fun (e, a, n) =>
    if (e = 0 && d.codeA ≠ 0) || (e = 2 && d.codeB ≠ 0) then (e, (opAddr ol e : Int), 64) else (e, a, n)

/-- A signed range as a natural one. -/
def natRange (a n : Int) : Nat × Nat := (a.toNat, n.toNat)

/-- Check 19 of R173. -/
def reachOk (s : State) (h : Nat) (rs : List (Nat × Int × Int)) : Bool :=
  rs.all fun (e, a, n) =>
    0 ≤ a && (inWindow s h (writtenEntries.contains e) a.toNat n.toNat || inExplicit s h a.toNat n.toNat)

/-- Check 20 of R173. -/
def reachApart (d : Desc) (ol : List Byte) (rs : List (Nat × Int × Int)) : Bool :=
  rs.all fun (e, a, n) => !writtenEntries.contains e ||
    rs.all fun (f, b, k) =>
      e = f || !(a < b + k && b < a + n)
        || (e = 4 && f = 9 && opAddr ol 4 = opAddr ol 9 && lineOut d.outFmt = lineOut (opFmt ol 9))

/-- The conditions of R227 and R228 on an append. -/
def appendOk (d : Desc) (ol : List Byte) (c : CacheRec) : Bool :=
  apTok ol = d.mExt ol && d.nExt ol = 2 * c.hkv * c.dim && d.outFmt = c.fmt && d.func = 0 && d.resid = 0 && !d.amax
    && !d.norm && !d.mask && !d.argmax && !d.twin && !d.soEn && d.used.all fun l => l.role ≠ 1

/-- Raw reach of a coded operand: first byte and end, from its header's address. -/
def rawReach (d : Desc) (ol : List Byte) (e : Nat) : Int × Int :=
  match d.reach false ol e with
  | some (a, n) => (a - opAddr ol e, a - opAddr ol e + n)
  | none => (0, 0)

/-- Check 8 of R329 for an operand. -/
def rawOk (d : Desc) (ol : List Byte) (e : Nat) (h : CHdr) : Bool :=
  let (lo, hi) := rawReach d ol e
  let size := lineIn d.ch (if e = 0 then d.fmtA else d.fmtB) (if e = 0 then d.transA else d.transB)
  0 ≤ lo && hi ≤ h.rawLen &&
    (h.kind ≠ 2 || (d.allLines ol (e = 0)).all fun l =>
      0 ≤ l && (l.toNat * size) % h.rowBytes + size ≤ 2 * h.cols)

/-- Header check of one operand of a product; none where it passes or is plain. -/
def operandCoded (s : State) (h : Nat) (d : Desc) (ol : List Byte) (e : Nat) : Option (Nat × Nat) :=
  let code := if e = 0 then d.codeA else d.codeB
  if code = 0 then none
  else codedCheck s h code (if e = 0 then d.fmtA else d.fmtB) (opAddr ol e)
    (fun a n => inWindow s h false a n || inHost a n) (rawOk d ol e)

/-- An operand names a code-table slot that is loading (R327). -/
def slotLoading (s : State) (h code a : Nat) : Bool :=
  code = 1 && getF s (rUndXtabSlot h (memNat s (a + 2) 1 % 4)) fUndXtabSlotState = 1

/-- Slot and blocks that a KIND 1 operand counts (R325). -/
def slotCount (s : State) (d : Desc) (ol : List Byte) (e : Nat) : List Nat :=
  if (if e = 0 then d.codeA else d.codeB) = 1 then
    let (lo, hi) := rawReach d ol e
    [(chdrOf (opAddr ol e) (memBytes s (opAddr ol e) 64)).slot, blocksTouched lo.toNat hi.toNat]
  else []

/-- Add the counts of R325. -/
def queueSlots (h : Nat) : List Nat → State → State
  | sl :: n :: r, s => queueSlots h r (xtabQueue s h sl n)
  | _, s => s
def unqueueSlots (h : Nat) : List Nat → State → State
  | sl :: n :: r, s => unqueueSlots h r (xtabUnqueue s h sl n)
  | _, s => s

/-- Function tables a drain word uses (R126). -/
def drainTables (d : Desc) : List Nat := match d.func with | 1 | 3 => [0] | 2 | 4 => [1] | _ => []

/-- Alcove ranges an append may write: the alcoves of its pages (R227, R228). -/
def appendReach (s : State) (c : CacheRec) (n layer pos len : Nat) : List (Nat × Nat) :=
  if len = 0 then []
  else
    (List.range ((pos + len - 1) / 256 - pos / 256 + 1)).map fun i =>
      (c.pool + pageAlc s c n layer (pos / 256 + i) * c.bytes, c.bytes)

/-- The operand list can be read as one: aligned, in reach, its CRC matching (checks 13 and 14 of R173). -/
def listGood (s : State) (h a : Nat) (ol : List Byte) : Bool :=
  a % 256 = 0 && hallReach s h false a 256 && crc32c (ol.take 240) = leAt ol 240 4

/-- The checks of R173 and R207 from 1 on, over the descriptor and operand list; check number and code. Check 7 of a
window descriptor keeps its place where the operand list, which holds the extents, can be read (log 102). -/
def loaderChecks (s : State) (h : Nat) (d : Desc) (append : Bool) (opl : Nat) (ol : List Byte) : Option (Nat × Nat) :=
  match d.checkCommit (8 * (flightsOf s.run h).length) (!listGood s h opl ol || d.windowLenOk ol) with
  | some x => some (x.1, x.2)
  | none =>
    let named := (if d.saEn then [(d.scaleA, d.fmtA)] else []) ++ (if d.sbEn then [(d.scaleB, d.fmtB)] else [])
      ++ (if d.soEn then [(d.scaleC, d.outFmt)] else [])
    let rs := prodReach d append ol
    firstFail
      [(13, 0x11, opl % 256 = 0 && (inWindow s h false opl 256 || inExplicit s h opl 256)),
       (14, 0x13, crc32c (ol.take 240) = leAt ol 240 4),
       (15, 0x10, d.entriesOk append ol),
       (16, 0x12, ((List.range 15).all fun e => (e = 4 && append) || e = 12 || opAddr ol e % 64 = 0)
          && opPitch ol 0 ≠ 0 && (d.isPool || opPitch ol 2 ≠ 0) && (append || opPitch ol 4 ≠ 0)
          && (!d.twin || opPitch ol 6 ≠ 0)),
       (17, 0x12, d.extentsOk ol),
       (18, 0x10, named.all fun x => scaleOk s h x.1 x.2),
       (19, 0x11, reachOk s h rs),
       (20, 0x12, reachApart d ol rs)]

/-- The rest of a product's dispatch, once its checks have passed: waits, then the job. A command that R161 has returned
starts from its first item; treads let go of what they hold of its first run. -/
def productGo (s : State) (r : CmdRef) (c : Cmd) (d : Desc) (db ol : List Byte) : Disp :=
  let h := r.scope
  let append := bitOf c.o0 12
  let rs := prodReach d append ol
  let writes := (rs.filter fun x => writtenEntries.contains x.1).map fun x => natRange x.2.1 x.2.2
  let writes := match append, hallCache s h with
    | true, some (_, cr) => writes ++ appendReach s cr (apSeq ol) (apLayer ol) (apPos ol) (apTok ol)
    | _, _ => writes
  let reads := (rs.filter fun x => !writtenEntries.contains x.1).map fun x => natRange x.2.1 x.2.2
  let k (en : Bool) (e : Nat) : Int := if en then seAppliedK s (scaleAddr h e) else 0
  let aux := slotCount s d ol 0 ++ slotCount s d ol 2
  waitWhile (slotsFull s h) <|
  reachGate s h reads writes <|
  .go (updJob (queueSlots h aux (dropItems s r)) r fun j =>
    { j with
      total := d.items, next := 0, reissue := [], done := [], grp := [], norm := {}, amax := 0, presented := false
      reads := reads, writes := writes, rec1 := db, rec2 := ol
      scale := if d.soEn && d.amax && c.pass ≠ 3 then some d.scaleC else none
      kA := k d.saEn d.scaleA, kB := k d.sbEn d.scaleB
      kOut := if d.soEn then (if c.pass = 3 then seAppliedK s (scaleAddr h d.scaleC) else seNextK s (scaleAddr h d.scaleC))
        else 0
      normAddr := if d.norm && c.pass ≠ 3 then some (opAddr ol 14 + 32 * opPitch ol 14) else none
      uses := aux })

/-- The loader's checks of a product and what follows them, once an append has been resolved (R173, R182, R183, R207,
R227, R228, R329). `stop` ends the command. -/
def productChecks (s : State) (r : CmdRef) (c : Cmd) (d : Desc) (db ol : List Byte) (stop : Nat → Nat → Disp) : Disp :=
  let h := r.scope
  let append := bitOf c.o0 12
  let gone (code check : Nat) : Disp := stop (goneCode s r c code check).1 (goneCode s r c code check).2
  match loaderChecks s h d append c.o1 ol with
  | some (code, check) => if check = 13 || check = 19 then gone code check else stop code check
  | none =>
    let appendBad := match append, hallCache s h with
      | true, some (_, cr) => !appendOk d ol cr
      | true, none => true
      | false, _ => false
    if appendBad then stop 0x10 0
    else if c.pass = 1 && d.func = 4 && !layerDeriv s.run h c.layer then stop 0x12 0
    else if c.pass = 2 && layerPartial s.run h c.layer && !d.mask then stop 0x12 0
    else if (drainTables d).any fun j => (getH s h).badTables.contains j then stop 0x13 0
    else
      readOk s r none true (opAddr ol 0) (if d.codeA = 0 then 0 else 64) <|
      readOk s r none true (opAddr ol 2) (if d.codeB = 0 then 0 else 64) <|
      waitWhile (slotLoading s h d.codeA (opAddr ol 0) || slotLoading s h d.codeB (opAddr ol 2)) <|
      match operandCoded s h d ol 0, operandCoded s h d ol 2 with
      | some (code, check), _ => stop code check
      | none, some (code, check) => stop code check
      | none, none => productGo s r c d db ol

/-- PRODUCT (R146, R173, R184, R185, R187, R196, R207, R227 to R230, R329). The tests of R230 on an append, and the
resolution of its alcoves, come before every check of R173; `reads` says how the reads of the descriptor and of the
operand list end (R624). -/
def execProduct (r : CmdRef) (reads : LoaderReads) (s : State) : Out :=
  guardUnit (r.scope < 8) <|
  dispatch 0x01 r s fun s c =>
    let h := r.scope
    let n := bitsOf c.o0 0 12
    let append := bitOf c.o0 12
    let ol := memBytes s c.o1 256
    let listOk := c.o1 % 256 = 0 && hallReach s h false c.o1 256
    let ready := append && listGood s h c.o1 ol
    learnGate s h c (c.pass = 1 || c.pass = 2) (c.pass = 2) <|
    readOk s r (if append && listOk then reads.list else none) true c.o1 (if listOk then 256 else 0) <|
    waitWhile (ready && seqBusy s h [(apSeq ol, 1)]) <|
    match (if ready then appendTest s h (apSeq ol) (apLayer ol) (apPos ol) (apTok ol) else none) with
    | some code => .stop code 0 0
    | none =>
      match (match ready, hallCache s h with
        | true, some (_, cr) => copyStuck s cr (apSeq ol) (apLayer ol) (apPos ol) (apTok ol)
        | _, _ => none) with
      | some none => .wait
      | some (some (e, a)) => failRead s r e true a
      | none =>
      let s := match ready, hallCache s h with
        | true, some (ra, cr) => resolveAppend s ra cr (apSeq ol) (apLayer ol) (apPos ol) (apTok ol)
        | _, _ => s
      let stop (code check : Nat) : Disp := .stopIn s code check 0
      if hallDescs s.run h ≤ n then stop (goneCode s r c 0x10 12).1 (goneCode s r c 0x10 12).2
      else
        let db := secEntry (secOf s.run tyLOOP h (hallVar s.run h)) 64 n
        let d := descOf db
        let named := (if d.saEn then [d.scaleA] else []) ++ (if d.sbEn then [d.scaleB] else [])
          ++ (if d.soEn then [d.scaleC] else [])
        readOk s r reads.desc false 0 0 <|
        match (if listOk then reads.list else none), d.checkCommit (8 * (flightsOf s.run h).length) with
        | some _, some (code, check) => stop code check
        | some x, none => failRead s r x true c.o1
        | none, _ => waitWhile (scaleBusy s h named) <| productChecks s r c d db ol stop

/-- The words of a vector program of `n` instructions behind a 32-byte header (R139). -/
def progWords (b : List Byte) : Nat → List DWord
  | 0 => []
  | n + 1 => BitVec.ofNat 64 (leAt b 0 8) :: progWords (b.drop 8) n

/-- Set PROG_CHECK on the working treads of a hall (R139). -/
def raiseProgCheck (s : State) (h : Nat) : State :=
  (workingTreads s h).foldl (fun s t => raiseF s (rTrdErr t) fTrdErrProgCheck) s

/-- A program names a table that failed its CRC (R136). -/
def progBadTable (s : State) (h : Nat) (ws : List DWord) : Bool :=
  ws.any fun w => (vinsOf w).op = 0x18 && (getH s h).badTables.contains (bitsOf (vinsOf w).imm 0 4)

/-- The program at an address passes (R139): its place in the hall's windows, its CRC, its fields; else the code. -/
def progCheck (s : State) (h a : Nat) : Option Nat :=
  let n := memNat s a 4
  if !inWindow s h false a 32 then some 0x11
  else if 2048 < n || !(memBytes s (a + 8) 24).all (· = 0) then some 0x10
  else if !inWindow s h false a (32 + 8 * n) then some 0x11
  else if crc32c (memBytes s (a + 32) (8 * n)) ≠ memNat s (a + 4) 4 then some 0x13
  else if !(progWords (memBytes s (a + 32) (8 * n)) n).all vinsOk then some 0x10
  else none

/-- VECTOR_PROGRAM (R139, R143, R176, R184, R196, R476). -/
def execVectorProgram (r : CmdRef) (err : Option ReadErr) (s : State) : Out :=
  guardUnit (r.scope < 8) <|
  dispatch 0x02 r s fun s c =>
    let h := r.scope
    learnGate s h c (c.pass = 1 || c.pass = 2) (c.pass = 2) <|
    readOk s r err true c.o0 (if inWindow s h false c.o0 32 then 32 + 8 * min 2048 (memNat s c.o0 4) else 0) <|
    match progCheck s h c.o0 with
    | some 0x11 => .gone 0x11 0
    | some 0x13 => .stopIn (raiseProgCheck s h) 0x13 0 0
    | some code => .stop code 0 0
    | none =>
      let n := memNat s c.o0 4
      let b := memBytes s (c.o0 + 32) (8 * n)
      if progBadTable s h (progWords b n) then .stop 0x13 0 0
      else
        reachGate s h [(c.o0, 32 + 8 * n)] [] <|
        let s := updJob s r fun j => { j with total := c.o1, rec1 := b, reads := [(c.o0, 32 + 8 * n)] }
        .go (if c.o1 = 0 then succeed s r 0 0 else s)

end Sys2Proof.Machine
end

