-- ==== Sys2Proof/Machine/Fail.lean ====
section
/-! DEFINITION. How a failure ends one command (R486, R546, R547): its extent, its INFO, the count by handoff. -/

namespace Sys2Proof.Machine

/-- The abort of a target is accepted and has not been applied: it stands before the target's record (R488). -/
def abortPending (s : State) (r : CmdRef) : Bool :=
  (List.range 9).any fun sc => (scopeCmds s sc).any fun p =>
    p.2.opcode = 0x30 && p.2.st = .accepted && bitsOf p.2.o0 0 4 = r.scope && bitsOf p.2.o0 8 6 = r.queue && p.2.o1 = r.seq

/-- Items of `done` whose whole tile of `p` parts is done (R486). -/
def wholeTiles (p : Nat) (done : List Nat) : Nat :=
  done.countP fun i => (List.range p).all fun k => done.contains (i / p * p + k)

/-- Place of a coded tensor that came from a peer while it is expanded: beyond every address of the block. -/
def farBase : Nat := 2 ^ 49
/-- The coded tensor of a fill comes from a peer; the bytes that have come stand in the job's `buf` under key 0 (R339). -/
def farFill (c : Cmd) : Bool := c.opcode = 0x09 && bitsOf c.o3 0 2 = 1
/-- The header of the coded tensor that a command expands. -/
def codedHdr (s : State) (c : Cmd) : CHdr :=
  if farFill c then chdrOf farBase (((fmFind c.job.buf 0).getD []).take 64) else chdrOf c.o0 (memBytes s c.o0 64)

/-- 64-byte units below the first row of tiles that is not whole, of an expansion of KIND 2 (R339, R486). -/
def tileRowsExtent (s : State) (c : Cmd) : Nat :=
  let h := codedHdr s c
  let across := ceilDiv h.cols 256
  let rows := ((List.range (ceilDiv h.rows 256)).takeWhile fun i =>
    (List.range across).all fun j => c.job.done.contains (i * across + j)).length
  min h.rawLen (rows * 256 * h.rowBytes) / 64

/-- EXTENT of a command with work items: the items fully drained; with parts, those of tiles whose combine drained
(R486). -/
def itemExtent (s : State) (c : Cmd) : Nat :=
  match c.opcode with
  | 0x09 | 0x1C => if c.job.total = 0 then c.job.next else tileRowsExtent s c
  | 0x01 => wholeTiles (descOf c.job.rec1).pBound c.job.done
  | 0x03 => wholeTiles (attOf c.job.rec1).parts c.job.done
  | _ => c.job.done.length

/-- The opcode's INFO holds the address of the first failing unit (R486). -/
def infoAsCopy (op : Nat) : Bool :=
  op = 0x08 || op = 0x09 || op = 0x0A || op = 0x15 || op = 0x18 || op = 0x1C || op = 0x01 || op = 0x02 || op = 0x03
    || op = 0x1B || op = 0x21

/-- EXTENT of a command that ends before its end, and the page and count of a prefetch (R306, R486). -/
def failExtent (s : State) (c : Cmd) : Nat × Nat :=
  match c.opcode with
  | 0x08 | 0x0A | 0x15 | 0x18 => (c.job.next, 0)
  | 0x0B => (c.job.next, (bitsOf c.o2 0 32 + c.job.next) % 2 ^ 32 + 2 ^ 32 * c.job.next)
  | _ => (itemExtent s c, 0)

/-- An off-load that ends without success leaves its handle in STATE 3 (R303). -/
def voidRun (s : State) (c : Cmd) : State := if c.opcode = 0x0A then memPutNat s c.o0 1 3 else s

/-- A request of a running command failed at an address: the failure counts, the command ends with its code and issues
nothing further (R546). A command that is not running is left as it is. -/
def failSeen (s : State) (r : CmdRef) (e : ReadErr) (addr : Nat) : State :=
  match findCmd s r with
  | some c =>
    if c.st = .dispatched then
      let x := failExtent s c
      let info := if c.opcode = 0x0B then x.2 else if infoAsCopy c.opcode then errInfo e addr else 0
      dropItems (endCmd (voidRun (countErr s r.scope e) c) r (errCode e) 0 x.1 info) r
    else s
  | none => s

/-- The same, where the failing burst of local memory has yet to be recorded (R286). -/
def failCmd (s : State) (r : CmdRef) (e : ReadErr) (addr : Nat) : State :=
  if running s r then failSeen (recordErr s e addr) r e addr else s

/-- The same for a request whose owner may be no command. -/
def failReq (s : State) (r : Option CmdRef) (e : ReadErr) (addr : Nat) : State :=
  match r with
  | some r => failCmd s r e addr
  | none => s
/-- The same, where every failing copy has been recorded. -/
def failReqSeen (s : State) (r : Option CmdRef) (e : ReadErr) (addr : Nat) : State :=
  match r with
  | some r => failSeen s r e addr
  | none => s

end Sys2Proof.Machine
end

