-- ==== Sys2Proof/Machine/Undercroft.lean ====
section
/-! DEFINITION. The Undercroft (09_memory_tiers.md): reads, writes and refresh of local memory (R257 to R263, R270,
R285 to R288), retirement, placement and rebuild of channels (R289 to R294), zeroing (R269), request slots, the bank
cap, the Gallery cache (R275 to R283). -/

namespace Sys2Proof.Machine

/-! ## Extents and placement (R268, R290, R294) -/

/-- The regions that occupy extents: the system region and every existing region. -/
def placedRegions (s : State) : List Region := sysRegion :: (regions s).filter fun r => 0 < r.len && r.chanset ≠ 0

/-- The region that occupies a logical extent of a channel. -/
def extRegion (s : State) (chan ext : Nat) : Option Region :=
  (placedRegions s).find? fun r => bitOf r.chanset chan && r.extBase ≤ ext && ext < r.extBase + r.occ

/-- Logical extents that a region occupies on a channel. -/
def Region.extsOn (r : Region) (chan : Nat) : List Nat :=
  if bitOf r.chanset chan then (List.range r.occ).map fun i => extKey chan (r.extBase + i) else []

/-- Insert into a rising list. -/
def insertNat (x : Nat) : List Nat → List Nat
  | [] => [x]
  | y :: ys => if x ≤ y then x :: y :: ys else y :: insertNat x ys

/-- Every occupied logical extent whose physical place is on a channel, ascending. -/
def extentsOn (s : State) (chan : Nat) : List Nat :=
  let own := ((placedRegions s).flatMap fun r => r.extsOn chan).filter fun k => (fmFind s.und.reloc k).isNone
  let moved := (s.und.reloc.filter fun p => p.2.chan = chan).map (·.1)
  (own ++ moved).foldr insertNat []

/-- The other copy of a class-M extent (R267). -/
def otherCopy (s : State) (r : Region) (key : Nat) : Nat :=
  let e := key % 4096
  extKey (partner s (key / 4096)) (if e < r.extBase + r.per then e + r.per else e - r.per)

/-- Physical extents that repair records name as failing (R557, R558). -/
def badExts (s : State) : List Nat :=
  ((s.integ.records.filter fun x => x.kind = 3 && x.state ≠ 2 && !x.bad && 16 ≤ x.slice && x.slice < 40).map fun x =>
    extKey (x.slice - 16) (x.address / extBytes)).eraseDups
/-- A physical extent may take a relocated extent: it holds none and no record names it. -/
def extFree (s : State) (bad : List Nat) (chan ext : Nat) : Bool :=
  !bad.contains (extKey chan ext) && !s.und.reloc.any fun p => p.2.chan = chan && p.2.ext = ext
/-- First extent of the reserve of a channel (R263). -/
def reserveBase (s : State) : Nat := 3968 - mmReserve (memmap s)
/-- Lowest free reserve extent of a channel. -/
def freeReserve (s : State) (chan : Nat) : Option Nat :=
  let bad := badExts s
  (List.range' (reserveBase s) (mmReserve (memmap s))).find? fun e => extFree s bad chan e
/-- Lowest free extent of a channel that no region occupies. -/
def freeOther (s : State) (chan : Nat) : Option Nat :=
  let bad := badExts s
  (List.range (reserveBase s)).find? fun e =>
    extFree s bad chan e && ((extRegion s chan e).isNone || (fmFind s.und.reloc (extKey chan e)).isSome)

/-- Channels in turn order after `last`. -/
def turnOrder (last : Nat) : List Nat := (List.range 24).map fun i => (last + 1 + i) % 24

/-- The first channel of a list with a free extent, and that extent. -/
def firstFree (free : Nat → Option Nat) : List Nat → Option (Nat × Nat)
  | [] => none
  | c :: cs =>
    match free c with
    | some e => some (c, e)
    | none => firstFree free cs

/-- Give an extent a place. -/
def putPlace (s : State) (key : Nat) (p : Place) : State :=
  { s with und := { s.und with
    reloc := fmPut s.und.reloc key p
    single := s.und.single.filter (· ≠ key)
    unplaced := s.und.unplaced.filter (· ≠ key) } }

/-- Extents leave every rebuild; where the extent under way goes, the next begins at its first block (R291). -/
def dropTodo (s : State) (gone : Nat → Bool) : State :=
  let front := match s.und.rebuildQ with
    | [] => none
    | (c, _) :: _ => ((fmFind s.und.todo c).getD []).head?
  let u := s.und
  { s with und := { u with
    todo := u.todo.map fun p => (p.1, p.2.filter fun k => !gone k)
    block := if (front.map gone).getD false then 0 else u.block } }

/-- Put an extent into the rebuild of channel `c`, and into no other. -/
def needRebuild (s : State) (c key : Nat) : State :=
  let s := dropTodo s (· = key)
  { s with und := { s.und with todo := fmPut s.und.todo c (((fmFind s.und.todo c).getD []) ++ [key]) } }

/-- A class-M extent that nothing can hold a second time: one copy stays (R294). -/
def onlyOnce (s : State) (key : Nat) : State :=
  let s := dropTodo s (· = key)
  { s with und := { s.und with
    reloc := fmErase s.und.reloc key, single := key :: s.und.single.filter (· ≠ key) } }

/-- First block of a class-M extent that its copy on retiring channel `c`'s other side does not hold: all where that copy
stands on `c` too or exists nowhere, those from the block its rebuild has reached (R291, R293, R294). -/
def firstMissing (s : State) (c other : Nat) : Option Nat :=
  if s.und.single.contains other || (physPlace s other).chan = c then some 0
  else
    let front := match s.und.rebuildQ with
      | [] => none
      | (x, _) :: _ => ((fmFind s.und.todo x).getD []).head?
    if front = some other then some s.und.block
    else if s.und.todo.any fun t => t.2.contains other then some 0 else none

/-- The primary's logical extent of a class-M extent (R267). -/
def primaryKey (s : State) (r : Region) (key : Nat) : Nat :=
  if key % 4096 < r.extBase + r.per then key else otherCopy s r key

/-- Blocks of a class-M extent that the loss of its copy on channel `c` takes from both copies are lost (R293). -/
def markDead (s : State) (c key : Nat) (r : Region) : State :=
  match firstMissing s c (otherCopy s r key) with
  | none => s
  | some b =>
    let k := primaryKey s r key
    let old := s.und.dead.find? fun d => d.1 = k
    let b := match old with | some d => min d.2 b | none => b
    { s with und := { s.und with dead := (k, b) :: s.und.dead.filter fun d => d.1 ≠ k } }

/-- A free extent of a channel as R294 takes it: of the reserve, else one that no region occupies. -/
def freeExt (s : State) (c : Nat) : Option Nat := (freeReserve s c).or (freeOther s c)

/-- A class-M extent with no place elsewhere: it goes in die-split form to channel `oc` that holds its other copy (R294). At a
start-up whose other copy has no healthy channel either, this one takes the first free extent in turn order, and the
other copy then stands beside it (R36; log 295). -/
def placeBeside (s : State) (c key oc : Nat) : State :=
  let split := chanHealthy s oc && oc ≠ c
  let cs := if split then [oc] else (turnOrder s.und.lastM).filter fun x => x ≠ c && chanHealthy s x
  match firstFree (freeExt s) cs with
  | some (x, e) =>
    needRebuild (putPlace { s with und := { s.und with lastM := x } } key { chan := x, ext := e, split := split }) c key
  | none => onlyOnce s key

/-- Place a class-M extent of retiring channel `c` (R290, R294). -/
def placeM (s : State) (c key : Nat) (r : Region) : State :=
  let oc := (physPlace s (otherCopy s r key)).chan
  let turn := (turnOrder s.und.lastM).filter fun x => x ≠ c && x ≠ oc && chanHealthy s x
  let own := turn.filter fun x => x / 12 = c / 12
  let other := turn.filter fun x => x / 12 ≠ c / 12 && x ≠ partner s c
  match firstFree (freeReserve s) own with
  | some (x, e) => needRebuild (putPlace { s with und := { s.und with lastM := x } } key { chan := x, ext := e }) c key
  | none =>
    match firstFree (freeReserve s) other with
    | some (x, e) =>
      let s := if isF s rUndStatus fUndStatusHalfExposed then s else raiseF s rUndEvents fUndEventsExposed
      let s := raiseF s rUndStatus fUndStatusHalfExposed
      needRebuild (putPlace { s with und := { s.und with lastM := x } } key { chan := x, ext := e }) c key
    | none =>
      placeBeside (raiseF s rUndStatus fUndStatusReduced) c key oc

/-- Place a class-S extent of retiring channel `c`; all its bursts are lost (R290, R292). -/
def placeS (s : State) (c key : Nat) : State :=
  let turn := (turnOrder s.und.lastS).filter fun x => x ≠ c && chanHealthy s x
  match (firstFree (freeReserve s) turn).or (firstFree (freeOther s) turn) with
  | some (x, e) =>
    let s := putPlace { s with und := { s.und with lastS := x } } key { chan := x, ext := e }
    { s with und := { s.und with lost := fmPut s.und.lost key [] } }
  | none =>
    { s with und := { s.und with
      reloc := fmErase s.und.reloc key, lost := fmErase s.und.lost key
      unplaced := key :: s.und.unplaced.filter (· ≠ key) } }

/-- Place every extent of a list. -/
def placeAll (c : Nat) : List Nat → State → State
  | [], s => s
  | k :: ks, s =>
    placeAll c ks
      (match extRegion s (k / 4096) (k % 4096) with
        | some r => if r.clsM then placeM s c k r else placeS s c k
        | none => s)

/-- UND_RESERVE, USED_EXT, PARTNER, HALL_LOCAL and the flags follow the tables. -/
def refreshUnd (s : State) : State :=
  let inRes := s.und.reloc.filter fun p => reserveBase s ≤ p.2.ext
  let healthy := (List.range 24).filter (chanHealthy s)
  let s := setF s rUndReserve fUndReservePerChannel (mmReserve (memmap s))
  let s := setF s rUndReserve fUndReserveUsed inRes.length
  let s := setF s rUndReserve fUndReserveFree
    (healthy.length * mmReserve (memmap s) - inRes.countP fun p => healthy.contains p.2.chan)
  let s := setF s rUndStatus fUndStatusHealthy (healthy.foldl (fun n c => n + 2 ^ c) 0)
  let s := (List.range 24).foldl (fun s c =>
    let own := ((placedRegions s).map fun r => if bitOf r.chanset c then r.occ else 0).foldl (· + ·) 0
    let gone := s.und.reloc.countP (fun p => p.1 / 4096 = c) + s.und.single.countP (· / 4096 = c)
      + s.und.unplaced.countP (· / 4096 = c)
    let s := setF s (rUndChanStatus c) fUndChanStatusUsedExt (own - gone + s.und.reloc.countP fun p => p.2.chan = c)
    setF s (rUndChanStatus c) fUndChanStatusPartner (partner s c)) s
  let split := s.und.reloc.any (fun p => p.2.split) || !s.und.single.isEmpty
  refreshLost (setF s rUndStatus fUndStatusReduced (if split then 1 else 0))

/-! ## Retirement and rebuild (R289, R291) -/

/-- The rebuild at the front starts: CHANNEL, TOTAL, DONE, REBUILDING. -/
def startRebuild (s : State) : State :=
  match s.und.rebuildQ with
  | [] => setF (setF s rUndStatus fUndStatusRebuilding 0) rUndRebuild fUndRebuildChannel 0x1F
  | (c, _) :: _ =>
    let s := setF s rUndStatus fUndStatusRebuilding 1
    let s := setF s rUndRebuild fUndRebuildChannel c
    let s := setF s rUndRebuild fUndRebuildDone 0
    let s := setF s rUndRebuild fUndRebuildTotal ((fmFind s.und.todo c).getD []).length
    { s with und := { s.und with block := 0 } }

/-- REBUILD_COMPLETE for every rebuild at the front with nothing left: the repair record, the state, the event (R291). -/
def endRebuilds : Nat → State → State
  | 0, s => s
  | n + 1, s =>
    match s.und.rebuildQ with
    | [] => s
    | (c, src) :: q =>
      if ((fmFind s.und.todo c).getD []).isEmpty then
        let s := addRecord s { kind := 5, source := src, slice := 16 + c }
        let s := setF s (rUndChanStatus c) fUndChanStatusState 2
        let s := raiseF s rUndEvents fUndEventsRetired
        let s := { s with und := { s.und with rebuildQ := q, todo := fmErase s.und.todo c } }
        endRebuilds n (startRebuild s)
      else s

/-- A request reads class-S data of a physical channel. -/
def readsS (s : State) (c : Nat) (q : MemReq) : Bool :=
  !q.write &&
    match regionOfAddr s q.addr with
    | some r => !r.clsM && (physPlace s (r.resolve s q.addr).1.key).chan = c
    | none => false

/-- In-flight class-S reads to a retiring channel end with data-lost, whoever made them (R290). -/
def loseInFlight (c : Nat) (s : State) : State :=
  let s := s.treads.foldl (fun s p =>
    let tr := getT s p.1
    let s' := setT s p.1 { tr with slots := tr.slots.filter fun q => !readsS s c q }
    (tr.slots.filter (readsS s c)).foldl (fun t q => failReq t q.cmd (.dataLost c) q.addr) s') s
  let hit := s.und.moverSlots.filter (readsS s c)
  let s := { s with und := { s.und with moverSlots := s.und.moverSlots.filter fun q => !hit.contains q } }
  hit.foldl (fun t q => failReq t q.cmd (.dataLost c) q.addr) s

/-- What the retirement of a channel takes from class-M extents whose other copy is not whole (R293). -/
def markAllDead (c : Nat) (ks : List Nat) (s : State) : State :=
  ks.foldl (fun s k =>
    match extRegion s (k / 4096) (k % 4096) with
    | some r => if r.clsM then markDead s c k r else s
    | none => s) s

/-- A healthy channel begins retirement, with the SOURCE of its record: every extent is placed anew, the rebuild starts
or waits its turn (R289, R290). -/
def retireChannel (s : State) (c src : Nat) : State :=
  if !chanHealthy s c then s
  else
    let s := loseInFlight c s
    let ks := extentsOn s c
    let s := setF s (rUndChanStatus c) fUndChanStatusState 1
    let s := raiseF s rUndEvents fUndEventsRetiring
    let idle := s.und.rebuildQ.isEmpty
    let s := { s with und := { s.und with rebuildQ := s.und.rebuildQ ++ [(c, src)], todo := fmPut s.und.todo c [] } }
    let s := refreshLevel (refreshUnd (placeAll c ks (markAllDead c ks s)))
    endRebuilds 24 (if idle then startRebuild s else s)

/-- CHANNEL_RETIRE (R289): the last healthy channel stays. -/
def execChannelRetire (chan : Nat) (s : State) : Out :=
  guardUnit (chan < 24) <| whileServed s <|
  if !chanHealthy s chan then .next s
  else if ((List.range 24).filter (chanHealthy s)).length ≤ 1 then .next (raiseF s rUndEvents fUndEventsRefused)
  else .next (retireChannel s chan 2)

/-- MEMORY_DEVICE_FAILED (R289, R290). -/
def execMemoryDeviceFailed (chan : Nat) (s : State) : Out :=
  guardUnit (chan < 24) (.next (retireChannel s chan 1))

/-- The places of the block under way: where its surviving copy stands, and where it is copied to (R291). -/
def rebuildPlaces (s : State) (key : Nat) : Option (LPlace × LPlace) :=
  (extRegion s (key / 4096) (key % 4096)).map fun r =>
    let at' (k : Nat) : LPlace := ⟨k / 4096, k % 4096 * extBytes + 2048 * s.und.block⟩
    (at' (otherCopy s r key), at' key)

/-- The block under way is lost in both copies (R293). -/
def rebuildDead (s : State) (key : Nat) : Bool :=
  match extRegion s (key / 4096) (key % 4096) with
  | some r => s.und.dead.any fun d => d.1 = primaryKey s r key && d.2 ≤ s.und.block
  | none => false

/-- REBUILD_BLOCK_COPY (R259, R291, R293): one block copied and verified; the extent after its last block, the retirement
after its last extent. A block that does not verify is not moved past; one that no copy holds is passed over. -/
def execRebuildBlockCopy (ok : Bool) (s : State) : Out :=
  match s.und.rebuildQ with
  | [] => .next s
  | (c, _) :: _ =>
    match (fmFind s.und.todo c).getD [] with
    | [] => .next (endRebuilds 24 s)
    | k :: ks =>
      if !s.und.selfRefresh.isEmpty then .next s
      else
        let s := match rebuildPlaces s k with
          | some (p, q) => if rebuildDead s k then s else driveDs (driveDs s p) q
          | none => s
        if !ok && !rebuildDead s k then .next s
        else if s.und.block + 1 < 8192 then .next { s with und := { s.und with block := s.und.block + 1 } }
        else
          let s := { s with und := { s.und with block := 0, todo := fmPut s.und.todo c ks } }
          .next (endRebuilds 24 (bumpF s rUndRebuild fUndRebuildDone 1))

/-- REGION_ZEROING (R181, R259, R269): the next extent of the ranges to zero reads as zero; scale entries in it take the LEN
and MARGIN of their layers. -/
def execRegionZeroing (s : State) : Out :=
  match s.und.zeroing with
  | [] => .next s
  | (a, n) :: zs =>
    let k := min n extBytes
    let last := min k 0x60000
    let s := driveRange (memZero s a k) true (a + k - last) last
    let s := s.und.layersDue.foldl (fun s h => applyLayersIn s h a k) s
    let zs := if n ≤ extBytes then zs else (a + k, n - k) :: zs
    .next (setF { s with und := { s.und with zeroing := zs, layersDue := if zs.isEmpty then [] else s.und.layersDue } }
      rUndStatus fUndStatusZeroing (if zs.isEmpty then 0 else 1))

/-! ## Requests: who may make one, slots, the bank cap (R254, R279 to R284) -/

/-- A range lies inside one of a list. -/
def insideOf (rs : List (Nat × Nat)) (a n : Nat) : Bool := rs.any fun x => within a n x.1 (x.1 + x.2)

/-- A running command requires the request: it reads inside the command's reach, or writes inside its written reach
(R284). -/
def serves (s : State) (q : MemReq) : Bool :=
  match q.cmd with
  | some r =>
    match findCmd s r with
    | some c =>
      c.st = .dispatched && insideOf (if q.write then c.job.writes else c.job.reads ++ c.job.writes) q.addr q.len
        && (match q.landing with | none => true | some a => q.write && insideOf c.job.reads a q.len)
    | none => false
  | none => inSys q.addr q.len && q.landing = none

/-- The same for a load/store unit: the tread holds an item or the program of the command. Programs and attention items
reach what their hall reaches; the others what their command names (R251, R284). -/
def lsuServes (s : State) (t : Nat) (q : MemReq) : Bool :=
  match q.cmd with
  | some r =>
    match findCmd s r with
    | some c =>
      let tr := getT s t
      c.st = .dispatched && ((tr.held.any fun h => h.cmd = r) || tr.prog.cmd = some r)
        && (c.opcode = 0x02 || c.opcode = 0x03
          || insideOf (if q.write then c.job.writes else c.job.reads ++ c.job.writes) q.addr q.len)
    | none => false
  | none => false

/-- The form of a request of a load/store unit: 64 to 2,048 bytes, aligned to 64, within one granule of a region, one
Gallery or 512 bytes of the host window; its other end lies in the tread's own Landing (R254). -/
def lsuForm (s : State) (q : MemReq) : Bool :=
  64 ≤ q.len && q.len ≤ 2048 && q.addr % 64 = 0 && q.len % 64 = 0
    && (match regionOfAddr s q.addr with
      | some r => (q.addr - r.base) / (2048 * 2 ^ r.gran) = (q.addr + q.len - 1 - r.base) / (2048 * 2 ^ r.gran)
      | none => !inHost q.addr q.len || q.addr / 512 = (q.addr + q.len - 1) / 512)

/-- The landing end of a load/store request lies in its tread's own Landing (R254). -/
def ownLanding (t : Nat) (q : MemReq) : Bool :=
  match q.landing with
  | some a => within a q.len (landingBase t) (landingBase t + 0x200000)
  | none => false

/-- The slot of a request is given back (R279, R282). -/
def freeSlot (s : State) (q : MemReq) : State :=
  match q.owner with
  | .tread t => let tr := getT s t; setT s t { tr with slots := tr.slots.erase q }
  | .mover _ => { s with und := { s.und with moverSlots := s.und.moverSlots.erase q } }
  | .other => s

/-- No earlier request of a list, up to this one, meets its bytes (R283). -/
def firstTo (slots : List MemReq) (q : MemReq) : Bool :=
  slots.contains q && !(slots.takeWhile (· ≠ q)).any fun p => overlap p.addr p.len q.addr q.len

/-- The request is in flight and its turn has come: it holds its slot, and no earlier request of its requester to one of its
bursts is in flight (R279, R283). A block without slots has what its command requires. -/
def inFlight (s : State) (q : MemReq) : Bool :=
  match q.owner with
  | .tread t => firstTo (getT s t).slots q
  | .mover _ => firstTo s.und.moverSlots q
  | .other => serves s q

/-- A request of the form of the section "Requests, slots and the bank cap" to local memory: 64 to 2,048 bytes, aligned,
within one granule of a region. -/
def reqOk (s : State) (q : MemReq) : Bool :=
  64 ≤ q.len && q.len ≤ 2048 && q.addr % 64 = 0 && q.len % 64 = 0 &&
    match regionOfAddr s q.addr with
    | some r => (q.addr - r.base) / (2048 * 2 ^ r.gran) = (q.addr + q.len - 1 - r.base) / (2048 * 2 ^ r.gran)
    | none => false

/-! ## The Gallery cache (R275, R276) -/

/-- Sets of a flight's Gallery cache: 4 KiB blocks, 8 ways. -/
def cacheSets (s : State) (t : Nat) : Nat :=
  match flightHall s.run (t / 8) with
  | some h => 32 * galleryCacheMib s h
  | none => 0

/-- The flight's cache takes the tread's requests to an address: it holds local memory only. -/
def cached (s : State) (t a : Nat) : Bool := cacheSets s t ≠ 0 && (regionAt s a 1).isSome

/-- A command's block for an address. -/
def blkOf (bs : List CBlk) (cmd : Option CmdRef) (a : Nat) : Option CBlk :=
  bs.find? fun b => b.cmd = cmd && b.base = a / 4096 * 4096

/-- The bytes of a sector that the flight's cache holds for a command. -/
def sectorOf (s : State) (t : Nat) (cmd : Option CmdRef) (a : Nat) : Option (List Byte) :=
  (blkOf ((fmFind s.und.gcache (t / 8)).getD []) cmd a).bind fun b => fmFind b.data (a / 64 % 64)

/-- Sectors of a request, by address. -/
def reqSectors (q : MemReq) : List Nat := (List.range (ceilDiv q.len 64)).map fun i => q.addr + 64 * i

/-- A dirty block is written back: every valid sector reaches its place, or its command meets the failure (R276, R290). -/
def blockBack (s : State) (b : CBlk) : State :=
  if !b.dirty then s
  else
    b.data.foldl (fun s p =>
      let a := b.base + 64 * p.1
      match writeGone s a 64 with
      | some (e, x) => failReqSeen s b.cmd e x
      | none => store s a p.2) s

/-- Bytes enter a sector for a command: its block becomes the most recently used; where it is new, the least recently used
block of a full set leaves, written back. -/
def cachePut (s : State) (t : Nat) (cmd : Option CmdRef) (a : Nat) (bytes : List Byte) (dirty : Bool) : State :=
  let f := t / 8
  let sets := cacheSets s t
  let base := a / 4096 * 4096
  let all := (fmFind s.und.gcache f).getD []
  let b := (blkOf all cmd a).getD { cmd := cmd, base := base }
  let rest := all.filter fun x => !(x.cmd = cmd && x.base = base)
  let same := rest.filter fun x => x.base / 4096 % sets = base / 4096 % sets
  let out := if 8 ≤ same.length then same.getLast? else none
  let s := match out with | some o => blockBack s o | none => s
  let rest := match out with | some o => rest.erase o | none => rest
  let b := { b with data := fmPut b.data (a / 64 % 64) bytes, dirty := b.dirty || dirty }
  { s with und := { s.und with gcache := fmPut s.und.gcache f (b :: rest) } }

/-- Every sector of the request is held for its command. -/
def cacheHit (s : State) (t : Nat) (q : MemReq) : Bool :=
  cached s t q.addr && (reqSectors q).all fun a => (sectorOf s t q.cmd a).isSome

/-- GALLERY_WRITE_BACK: every block of a command is written back and invalidated (R276). -/
def cacheDrop (s : State) (r : CmdRef) : State :=
  let mine (b : CBlk) : Bool := b.cmd = some r
  let s := s.und.gcache.foldl (fun s p => (p.2.filter mine).foldl blockBack s) s
  { s with und := { s.und with
    gcache := (s.und.gcache.map fun p => (p.1, p.2.filter fun b => !mine b)).filter fun p => !p.2.isEmpty } }

/-! ## Bursts (R257 to R263, R270, R285 to R288) -/

/-- Bytes reach a tread's Landing through its cache, which fills only the sectors that it lacks (R275). -/
def landRead (s : State) (t : Nat) (q : MemReq) (dst : Nat) : State :=
  if !cached s t q.addr then memCopy s q.addr dst q.len
  else
    (reqSectors q).foldl (fun s a =>
      let bytes := (sectorOf s t q.cmd a).getD (memBytes s a 64)
      memPut (cachePut s t q.cmd a bytes false) (dst + (a - q.addr)) bytes) s

/-- The data of a verified read is delivered: to the tread's Landing, or as the answer; a mover's goes on with its copy,
whose own row moves the bytes (log 291). -/
def deliver (s : State) (q : MemReq) : State :=
  match q.owner, q.landing with
  | .tread t, some a => landRead s t q a
  | .mover _, _ => s
  | _, _ => { s with resp := .bytes (memBytes s q.addr q.len) }

/-- The check burst of a copy's block is the most recently used of its channel's 512 (R263). -/
def touchCheck (s : State) (p : LPlace) : State :=
  let pl := physPlace s p.key
  let b := (pl.ext * extBytes + p.off % extBytes) / 2048
  let old := (fmFind s.und.checkCache pl.chan).getD []
  { s with und := { s.und with checkCache := fmPut s.und.checkCache pl.chan ((b :: old.filter (· ≠ b)).take 512) } }

/-- A burst is read: `p` the copy read first, `o` the other one if it can serve (R257, R285, R286); whether it verified. -/
def readBurst (s : State) (a : Nat) (oc : ReadOutcome) (p : LPlace) (mirror : Bool) (o : Option LPlace) : State × Bool :=
  let c := (physOf s p).1
  let s := satF (touchCheck (driveDs s p) p) (rUndChanErr c) fUndChanErrLinkReplay (min oc.replays 4)
  if oc.first then (s, true)
  else if oc.second then (satF s (rUndChanErr c) fUndChanErrReread 1, true)
  else
    match o with
    | none => (badCopy s a p mirror false, false)
    | some p2 =>
      let s := touchCheck (driveDs s p2) p2
      if oc.other then (driveDs (badCopy s a p mirror true) p, true)
      else (badCopy (badCopy s a p mirror false) a p2 (!mirror) false, false)

/-- A burst of a region is read from the copy that R270 names: whether it verified, and the copy that fails it. -/
def readFrom (s : State) (r : Region) (a : Nat) (oc : ReadOutcome) : State × Bool × LPlace :=
  let (p, m) := r.resolve s a
  match m with
  | none => let (t, ok) := readBurst s a oc p false none; (t, ok, p)
  | some m =>
    match copyReady s p, copyReady s m with
    | true, up => let (t, ok) := readBurst s a oc p false (if up then some m else none); (t, ok, p)
    | false, true => let (t, ok) := readBurst s a oc m true none; (t, ok, m)
    | false, false => (s, false, p)

/-- The bursts of a request in turn, up to the first that fails: the failure and its address (R286). -/
def readAll (r : Region) (os : List (Nat × ReadOutcome)) (a : Nat) : List Nat → State → State × Option (ReadErr × Nat)
  | [], s => (s, none)
  | i :: is, s =>
    match burstErr s (a + 64 * i) with
    | some e => (s, some (e, a + 64 * i))
    | none =>
      let (t, ok, p) := readFrom s r (a + 64 * i) ((os.lookup i).getD {})
      if ok then readAll r os a is t else (t, some (.uncorrectable (physOf s p).1, a + 64 * i))

/-- MEMORY_READ (R257, R263, R269, R270, R283 to R287, R292, R293). -/
def execMemoryRead (q : MemReq) (os : List (Nat × ReadOutcome)) (s : State) : Out :=
  if q.write || !reqOk s q || !inFlight s q || unzeroed s q.addr q.len then .next s
  else
    match regionOfAddr s q.addr with
    | none => .next s
    | some r =>
      match readAll r os q.addr (List.range (q.len / 64)) (freeSlot s q) with
      | (t, none) => .next (deliver t q)
      | (t, some (e, a)) => .next (failReqSeen t q.cmd e a)

/-- The data of a write goes to its place: from the tread's Landing, or from where the command reads it. -/
def land (s : State) (q : MemReq) : State :=
  match q.owner, q.landing with
  | .mover _, _ => s
  | _, some a => wrote (memCopy s a q.addr q.len) q.addr q.len
  | _, none => s

/-- Blocks that a write covers in part: each merges its new symbols into a check burst that verifies first (R263). -/
def partBlocks (q : MemReq) : List Nat :=
  (List.range ((q.addr + q.len - 1) / 2048 - q.addr / 2048 + 1)).filter fun i =>
    let b := 2048 * (q.addr / 2048 + i)
    b < q.addr || q.addr + q.len < b + 2048

/-- The check bursts of those blocks are verified in turn, as a read (R263, R285). -/
def mergeAll (r : Region) (q : MemReq) (os : List (Nat × ReadOutcome)) : List Nat → State → State × Option (ReadErr × Nat)
  | [], s => (s, none)
  | i :: is, s =>
    let a := max q.addr (2048 * (q.addr / 2048 + i))
    let (t, ok, p) := readFrom s r a ((os.lookup i).getD {})
    if ok then mergeAll r q os is t else (t, some (.uncorrectable (physOf s p).1, a))

/-- A copy that a write could not reach: its channel begins retirement (R288). -/
def missed (s : State) (p : LPlace) (reached : Bool) : State :=
  if reached then s else retireChannel s (physPlace s p.key).chan 1

/-- A merged write reaches its copies: those that are ready are driven, one that it cannot reach retires its channel; the write
lands where one copy takes it (R259, R270, R288, R291, R292). -/
def writeCopies (s : State) (r : Region) (q : MemReq) (o : WriteOutcome) : State :=
  let (p, m) := r.resolve s q.addr
  let c := (physOf s p).1
  let drive (s : State) (p : LPlace) : State := touchCheck (driveDs s p) p
  match m with
  | none =>
    let t := missed (satF (drive s p) (rUndChanErr c) fUndChanErrLinkReplay (min o.replays 4)) p o.primary
    match writeGone t q.addr q.len with
    | some (e, a) => failReqSeen t q.cmd e a
    | none => land t q
  | some m =>
    let up := copyReady s p
    let um := copyReady s m
    let c := if up then c else (physOf s m).1
    let t := if up then drive s p else s
    let t := satF (if um then drive t m else t) (rUndChanErr c) fUndChanErrLinkReplay (min o.replays 4)
    let t := if up then missed t p o.primary else t
    let t := if um then missed t m o.mirror else t
    if (up && o.primary) || (um && o.mirror) then land t q else failReqSeen t q.cmd (.uncorrectable c) q.addr

/-- MEMORY_WRITE (R257, R263, R269, R270, R283, R284, R288, R290 to R293). -/
def execMemoryWrite (q : MemReq) (o : WriteOutcome) (s : State) : Out :=
  if !q.write || !reqOk s q || !inFlight s q || unzeroed s q.addr q.len then .next s
  else
    match regionOfAddr s q.addr with
    | none => .next s
    | some r =>
      match writeGone s q.addr q.len with
      | some (e, a) => .next (failReqSeen (freeSlot s q) q.cmd e a)
      | none =>
        match mergeAll r q o.merge (partBlocks q) (freeSlot s q) with
        | (t, some (e, a)) => .next (failReqSeen t q.cmd e a)
        | (t, none) => .next (writeCopies t r q o)

/-- MEMORY_REFRESH (R257, R259): a refresh command to one die; none is due in self-refresh. -/
def execMemoryRefresh (chan die bank : Nat) (s : State) : Out :=
  guardUnit (chan < 24 && die < 16 && bank < 16) <|
  if s.und.selfRefresh.contains chan then .next s
  else .next { s with und := { s.und with ds := fmPut s.und.ds chan (die, false) } }

/-! ## Slots (R279 to R283) -/

/-- Banks of a request (R280). -/
def reqBanks (s : State) (q : MemReq) : List Nat := memBanks s q.write q.addr q.len
/-- Requests of slots that target a memory bank. -/
def bankUse (s : State) (slots : List MemReq) (b : Nat) : Nat := slots.countP fun q => (reqBanks s q).contains b
/-- The bank cap holds requests to these banks back (R280). -/
def banksFull (s : State) (slots : List MemReq) (bs : List Nat) : Bool := bs.any fun b => 12 ≤ bankUse s slots b
/-- The request is held by the bank cap (R280). -/
def bankHeld (s : State) (slots : List MemReq) (q : MemReq) : Bool := banksFull s slots (reqBanks s q)

/-- Count requests first held by the bank cap (R281). -/
def countHeld (s : State) (t : Nat) : State :=
  let tr := getT s t
  let new := tr.queue.filter fun q => bankHeld s tr.slots q && !tr.counted.contains q
  let s := setT s t { tr with counted := new ++ tr.counted.filter tr.queue.contains }
  match flightHall s.run (t / 8) with
  | some h => if new.isEmpty then s else countHall s h 0x030 new.length
  | none => s

/-- The request is answered as it issues: a Gallery access, a read that the cache holds, a write that the cache takes, a
write to a page of the host window whose translation is held (R275, R276, R468). -/
def answersNow (s : State) (t h : Nat) (q : MemReq) : Bool :=
  if inHost q.addr q.len then q.write && s.pci.atc.contains (h + 1, q.addr / 4096)
  else (regionAt s q.addr q.len).isNone || (cached s t q.addr && (q.write || cacheHit s t q))

/-- A queued request may issue: no earlier one of the queue shares a bank or a byte with it, the bank cap does not hold it,
and one that is answered at once passes no request in flight to its bursts and no extent that waits for zeroing (R269,
R280, R283). -/
def mayIssue (s : State) (t h : Nat) (slots before : List MemReq) (q : MemReq) : Bool :=
  let meet (p : MemReq) : Bool := overlap p.addr p.len q.addr q.len
  !bankHeld s slots q && !(before.any fun p => meet p || (reqBanks s p).any (reqBanks s q).contains)
    && (!answersNow s t h q || !(slots.any meet || unzeroed s q.addr q.len))

/-- The first request of a queue that may issue. -/
def nextReq (s : State) (t h : Nat) (slots before : List MemReq) : List MemReq → Option MemReq
  | [] => none
  | q :: qs => if mayIssue s t h slots before q then some q else nextReq s t h slots (q :: before) qs

/-- Such a request is answered: its data moves between the tread's Landing and the cache, the Gallery or the host. -/
def answerReq (s : State) (t : Nat) (q : MemReq) : State :=
  match q.landing with
  | none => s
  | some l =>
    if !q.write then landRead s t q l
    else if !cached s t q.addr then memCopy s l q.addr q.len
    else
      match writeGone s q.addr q.len with
      | some (e, x) => failReqSeen s q.cmd e x
      | none => (reqSectors q).foldl (fun s a => cachePut s t q.cmd a (memBytes s (l + (a - q.addr)) 64) true) s

/-- The engine's next request enters the issue queue, unless it is full (R279). No request is made that its command does
not require (R284); one outside the reach, or whose other end is not in the tread's own Landing, ends its command with
the address-fault code (R26, R251, R253, R254, R266). -/
def lsuEnqueue (s : State) (t h : Nat) (q : MemReq) : State :=
  let tr := getT s t
  if !lsuServes s t q || !lsuForm s q then s
  else if !ownLanding t q || !hallReachHost s h q.write q.addr q.len then failReq s q.cmd .addressFault q.addr
  else if 64 ≤ tr.queue.length then s
  else setT s t { tr with queue := tr.queue ++ [q] }

/-- LSU_REQUEST_ISSUE (R279 to R284): the request offered by an engine enters the queue; the first queued request that may
issue takes a slot, or is answered at once. -/
def execLsuRequestIssue (t : Nat) (req : Option MemReq) (s : State) : Out :=
  guardUnit (t < 128) <|
  match flightHall s.run (t / 8) with
  | none => .next s
  | some h =>
    let s := match req with
      | some q => if q.owner = .tread t then lsuEnqueue s t h q else s
      | none => s
    let s := countHeld s t
    let tr := getT s t
    if 48 ≤ tr.slots.length then .next s
    else
      match nextReq s t h tr.slots [] tr.queue with
      | none => .next s
      | some q =>
        let s := setT s t { tr with queue := tr.queue.erase q }
        if answersNow s t h q then .next (answerReq s t q)
        else .next (setT s t { tr with queue := tr.queue.erase q, slots := tr.slots ++ [q] })

/-! ## Mover slots (R271, R282, R301) -/

/-- MOVER_SLOTS of a hall (R271). -/
def moverLimit (s : State) (h : Nat) : Nat :=
  let n := leAt (secEntry (secOf s.run tyQUOTA h 0) 32 0) 13 1
  if n = 0 then 64 else n

/-- Pages that a hall's prefetches have read and not written: each holds its slot (R301). -/
def moverPages (s : State) (h : Nat) : Nat :=
  ((activeCmds s h).map fun p => if p.2.opcode = 0x0B then p.2.job.buf.length else 0).foldl (· + ·) 0
/-- Slots that a hall's movers hold (R282, R301). -/
def moverHeld (s : State) (h : Nat) : Nat := s.und.moverSlots.countP (fun q => q.owner = .mover h) + moverPages s h
/-- Slots held in all. -/
def moverAll (s : State) : Nat := s.und.moverSlots.length + ((List.range 8).map (moverPages s)).foldl (· + ·) 0

/-- A hall's mover may take one more slot, for a request to these banks (R282). -/
def moverFree (s : State) (h : Nat) (banks : List Nat) : Bool :=
  moverAll s < 512 && moverHeld s h < moverLimit s h
    && !banksFull s (s.und.moverSlots.filter fun q => q.owner = .mover h) banks

/-- The waiting request that round-robin order serves next: that of the first hall after the last one served. -/
def moverNext (s : State) : Option (Nat × MemReq) :=
  let halls := (List.range 8).map fun i => (s.und.moverLast + 1 + i) % 8
  halls.findSome? fun h =>
    (s.und.moverWait.find? fun q => q.owner = .mover h && moverFree s h (reqBanks s q)).map fun q => (h, q)

/-- MOVER_SLOT_GRANT (R282, R284): the mover of a hall, whoever the request names as its owner, asks for a slot for a request
that a running command requires; one free slot is granted. -/
def execMoverSlotGrant (hall : Nat) (q : MemReq) (s : State) : Out :=
  guardUnit (hall < 8) <|
  let q := { q with owner := .mover hall }
  let own := match q.cmd with | some r => r.scope = hall | none => false
  let s := if serves s q && own then { s with und := { s.und with moverWait := s.und.moverWait ++ [q] } } else s
  match moverNext s with
  | none => .next s
  | some (h, q) =>
    .next { s with und := { s.und with
      moverWait := s.und.moverWait.erase q, moverSlots := s.und.moverSlots ++ [q], moverLast := h } }

end Sys2Proof.Machine
end

