-- ==== Sys2Proof/Machine/Move.lean ====
section
/-! DEFINITION. What the copying commands share: access to bytes by a hall's engines (R26, R266, R269, R290, R292), the
course of a copy in 64-byte units and its end (R486, R546). A copying command may stop short and go on in a later step:
its next unit stands in `next`. -/

namespace Sys2Proof.Machine

/-- Bytes that a hall's engine reads, or writes: in reach, and nothing stops the access. -/
def readable (s : State) (h a n : Nat) : Except Stuck Unit :=
  if !hallReachHost s h false a n then .error (some (.addressFault, a))
  else match readStuck s a n with | some e => .error e | none => .ok ()
def writable (s : State) (h a n : Nat) : Except Stuck Unit :=
  if !hallReachHost s h true a n then .error (some (.addressFault, a))
  else match writeStuck s a n with | some e => .error e | none => .ok ()

/-- The same for a mover's request, which waits while no slot is free for its banks (R282). -/
def moverReads (s : State) (h a n : Nat) : Except Stuck Unit :=
  if moverFree s h (memBanks s false a n) then readable s h a n else .error none
def moverWrites (s : State) (h a n : Nat) : Except Stuck Unit :=
  if moverFree s h (memBanks s true a n) then writable s h a n else .error none

/-- Run units `i`, `i + 1`, … of a copy: the state, the next unit, and what stopped it. -/
def moveUnits (f : Nat → State → Except Stuck State) : Nat → Nat → State → State × Nat × Option Stuck
  | 0, i, s => (s, i, none)
  | n + 1, i, s =>
    match f i s with
    | .ok s => moveUnits f n (i + 1) s
    | .error e => (s, i, some e)

/-- Units a step runs up to. -/
def moveStop (m : Move) (total : Nat) : Nat := match m.units with | some u => min u total | none => total

/-- A copying command ends in failure at unit `i` (R486, R546). -/
def moveFail (s : State) (r : CmdRef) (i : Nat) (e : ReadErr) (addr : Nat) : State :=
  endCmd (noteErr s r.scope e addr) r (errCode e) 0 i (errInfo e addr)

/-- Go on with a running copy: `f` runs a unit, `addr` is a unit's address for INFO, `fin` follows the last unit, `bad`
comes before a failure's end. -/
def moveRun (s : State) (r : CmdRef) (m : Move) (total : Nat) (addr : Nat → Nat) (f : Nat → State → Except Stuck State)
    (fin bad : State → State) : State :=
  match findCmd s r with
  | none => s
  | some c =>
    let (s, i, e) := moveUnits f (moveStop m total - c.job.next) c.job.next s
    let s := updJob s r fun j => { j with next := i }
    match e with
    | some (some (x, a)) => moveFail (bad s) r i x a
    | some none => s
    | none =>
      if i < total then
        match m.err with
        | some x => moveFail (bad s) r i x (addr i)
        | none => s
      else fin s

/-- A step of a copying command: the dispatch of an accepted one, which fills its job, then its course `go`; the course
alone of one that runs already. -/
def moveCmd (opcode : Nat) (r : CmdRef) (s : State) (k : State → Cmd → Disp) (go : State → Cmd → State) : Out :=
  guardUnit (r.scope < 8) <|
  match findCmd s r with
  | none => .next s
  | some c =>
    if c.st = .dispatched && c.opcode = opcode then .next (go s c)
    else
      match dispatch opcode r s k with
      | .next s =>
        match findCmd s r with
        | some c => if c.st = .dispatched then .next (go s c) else .next s
        | none => .next s
      | o => o

end Sys2Proof.Machine
end

