-- ==== Sys2Proof/Machine/Cache.lean ====
section
/-! DEFINITION. The commands of the key-value cache (R215 to R233): CACHE_SETUP, the sequence commands, and the append
copy. -/

namespace Sys2Proof.Machine

/-- Bytes lie inside one class-M window of a hall, and inside one that grants writes. -/
def windowMW (s : State) (h a n : Nat) : Bool := inWindowM s h a n && inWindow s h true a n

/-- The fields of a cache record obey R215. -/
def cacheFieldsOk (b : List Byte) : Bool :=
  let c := cacheOf b
  let fp8 := c.fmt = 4 || c.fmt = 5
  let z (o n : Nat) : Bool := leAt b o n = 0
  (c.fmt = 2 || c.fmt = 3 || fp8) && leAt b 0 1 < 32 && leAt b 1 1 < 3 && leAt b 2 1 < 128 && 1 ≤ c.hkv && c.hkv ≤ 64
    && z 3 1 && 1 ≤ c.layers && c.layers ≤ 1024 && (fp8 || (z 6 1 && z 7 1)) && c.pool % 4096 = 0 && z 0x0E 2
    && 1 ≤ c.alcoves && z 0x13 5 && c.atab % 64 = 0 && z 0x1E 2 && c.seqTab % 64 = 0 && z 0x26 2

/-- Some sequence of the hall is open. -/
def anySeqOpen (s : State) (h : Nat) : Bool :=
  match hallCache s h with
  | some (_, c) => (List.range 65536).any fun n => seqOpen s c n
  | none => false

/-- Bytes of a free alcove-record table of `n` alcoves, linked in ascending order (R216, R222). -/
def freeTable (n : Nat) : List Byte :=
  (List.range n).flatMap fun a => leBytes 3 (if a + 1 = n then noAlc else a + 1) ++ zeros 5

/-- The effect of a setup (R216): every sequence record closed, every alcove free. -/
def setupCache (s : State) (h a : Nat) (c : CacheRec) : State :=
  let s := { s with mem := s.mem.filter fun x =>
    !(c.seqTab ≤ x.1 && x.1 < c.seqTab + 4194304 && (x.1 - c.seqTab) % 64 = 0) }
  let s := memPut s c.atab (freeTable c.alcoves)
  let s := memPutNat s (a + 0x28) 3 0
  let s := memPutNat s (a + 0x2C) 3 c.alcoves
  let s := memPutNat s (a + 0x30) 8 0
  setH s h { getH s h with cache := some a }

/-- CACHE_SETUP (R216). -/
def execCacheSetup (r : CmdRef) (err : Option ReadErr) (s : State) : Out :=
  guardUnit (r.scope < 8) <|
  dispatch 0x10 r s fun s c =>
    let h := r.scope
    if !windowMW s h c.o0 64 then .gone 0x11 0
    else
      readOk s r err false c.o0 64 <|
      let b := memBytes s c.o0 64
      let k := cacheOf b
      need (crc32c (b.take 0x28) = leAt b 0x38 4) 0x13 0 <|
      need (cacheFieldsOk b) 0x10 0 <|
      need (windowMW s h k.atab (8 * k.alcoves) && windowMW s h k.seqTab 4194304
        && inWindow s h true k.pool (k.alcoves * k.bytes)) 0x11 0 <|
      need (!anySeqOpen s h) 0x28 0 <|
      waitWhile (seqBusy s h ((List.range 65536).map fun n => (n, 1))) <|
      reachGate s h [] [(c.o0, 64), (k.atab, 8 * k.alcoves), (k.seqTab, 4194304)] <|
      .go (succeed (setupCache s h c.o0 k) r 0 0)

/-- Bytes of an empty page-table block of `pages` entries. -/
def emptyBlock (pages : Nat) : List Byte := zeros 64 ++ (List.range pages).flatMap fun _ => leBytes 4 noAlc

/-- Write the record of a sequence that opens, and its empty page table (R219, R220). -/
def openSeq (s : State) (c : CacheRec) (n pt pages tag : Nat) : State :=
  let a := seqAddr c n
  let s := memPutNat s a 1 1
  let s := memPutNat s (a + 4) 3 pages
  let s := memPutNat s (a + 8) 6 pt
  let s := memPutNat s (a + 0x10) 8 tag
  (List.range c.layers).foldl (fun s l => memPut s (pt + l * ptStride pages) (emptyBlock pages)) s

/-- A page table of `pages` pages lies inside one class-M window (R223). -/
def ptPlaced (s : State) (h : Nat) (c : CacheRec) (pt pages : Nat) : Bool := windowMW s h pt (c.layers * ptStride pages)

/-- Fields of a page table that a command names (R219). -/
def ptFields (pt pages : Nat) : Bool := pt % 64 = 0 && 1 ≤ pages && pages ≤ 65536

/-- The frame of a sequence command: a cache, the sequences free (R223, R224). -/
def seqCmd (s : State) (h : Nat) (us : List (Nat × Nat)) (k : Nat → CacheRec → Disp) : Disp :=
  waitWhile (seqBusy s h us) <|
  match hallCache s h with
  | none => .stop 0x28 0 0
  | some (a, c) => k a c

/-- SEQ_OPEN (R223). -/
def execSeqOpen (r : CmdRef) (err : Option ReadErr) (s : State) : Out :=
  guardUnit (r.scope < 8) <|
  dispatch 0x11 r s fun s c =>
    seqCmd s r.scope (seqUses c) fun ra k =>
      let n := bitsOf c.o0 0 16
      let pages := bitsOf c.o2 0 17
      readOk s r err false ra 64 <|
      need (ptFields c.o1 pages) 0x10 0 <|
      need (!seqOpen s k n) 0x28 0 <|
      if !ptPlaced s r.scope k c.o1 pages then .gone 0x11 0
      else
        reachGate s r.scope [] [(c.o1, k.layers * ptStride pages)] <|
        .go (succeed (openSeq s k n c.o1 pages c.o3) r 0 0)

/-- One layer of a fork: LAYER_LEN L, the parent's alcoves below ⌈L ÷ 256⌉ with REFS up by 1 (R223). -/
def forkLayer (c : CacheRec) (child parent len : Nat) (s : State) (l : Nat) : State :=
  let s := memPutNat s (ptBlock s c child l) 4 len
  (List.range (ceilDiv len 256)).foldl (fun s p =>
    let a := pageAlc s c parent l p
    let s := memPutNat s (pteAddr s c child l p) 3 a
    if a = noAlc then s else setRefs s c a (alcRefs s c a + 1)) s

/-- SEQ_FORK (R223). -/
def execSeqFork (r : CmdRef) (err : Option ReadErr) (s : State) : Out :=
  guardUnit (r.scope < 8) <|
  dispatch 0x12 r s fun s c =>
    seqCmd s r.scope (seqUses c) fun ra k =>
      let child := bitsOf c.o0 0 16
      let parent := bitsOf c.o0 16 16
      let len := bitsOf c.o0 32 32
      let pages := bitsOf c.o2 0 17
      readOk s r err false ra 64 <|
      need (ptFields c.o1 pages) 0x10 0 <|
      need (seqOpen s k parent && !seqOpen s k child) 0x28 0 <|
      need ((List.range k.layers).all (fun l => len ≤ layerLen s k parent l) && ceilDiv len 256 ≤ pages) 0x29 0 <|
      if !ptPlaced s r.scope k c.o1 pages then .gone 0x11 0
      else
        reachGate s r.scope [] [(c.o1, k.layers * ptStride pages)] <|
        let s := openSeq s k child c.o1 pages c.o3
        .go (succeed ((List.range k.layers).foldl (forkLayer k child parent len) s) r 0 0)

/-- SEQ_TRIM (R223). -/
def execSeqTrim (r : CmdRef) (err : Option ReadErr) (s : State) : Out :=
  guardUnit (r.scope < 8) <|
  dispatch 0x13 r s fun s c =>
    seqCmd s r.scope (seqUses c) fun ra k =>
      let n := bitsOf c.o0 0 16
      let len := bitsOf c.o0 32 32
      readOk s r err false ra 64 <|
      need (seqOpen s k n) 0x28 0 <|
      let p0 := ceilDiv len 256
      let s := (List.range k.layers).foldl (fun s l =>
        let s := if len < layerLen s k n l then memPutNat s (ptBlock s k n l) 4 len else s
        releasePages ra k n l p0 (seqPages s k n - p0) s) s
      .go (succeed s r 0 0)

/-- SEQ_RELEASE (R223). -/
def execSeqRelease (r : CmdRef) (err : Option ReadErr) (s : State) : Out :=
  guardUnit (r.scope < 8) <|
  dispatch 0x14 r s fun s c =>
    seqCmd s r.scope (seqUses c) fun ra k =>
      let n := bitsOf c.o0 0 16
      readOk s r err false ra 64 <|
      need (seqOpen s k n) 0x28 0 <|
      let s := (List.range k.layers).foldl (fun s l => releasePages ra k n l 0 (seqPages s k n) s) s
      .go (succeed (memPutNat s (seqAddr k n) 1 0) r 0 0)

/-! ## The append copy (R229 to R233) -/

/-- Insert a page by its alcove. -/
def insertPage (x : Nat × Nat) : List (Nat × Nat) → List (Nat × Nat)
  | [] => [x]
  | y :: ys => if x.1 ≤ y.1 then x :: y :: ys else y :: insertPage x ys

/-- The 64-byte units of an append copy, destination and source, in ascending destination order (R217, R228, R486). -/
def appendUnits (s : State) (k : CacheRec) (n layer pos len src pitch : Nat) : List (Nat × Nat) :=
  if len = 0 then []
  else
    let eb := fmtBits k.fmt / 8
    let pages := ((List.range ((pos + len - 1) / 256 - pos / 256 + 1)).map fun i =>
      (pageAlc s k n layer (pos / 256 + i), pos / 256 + i)).foldr insertPage []
    pages.flatMap fun (alc, p) =>
      (List.range (2 * k.hkv)).flatMap fun xh =>
        (List.range 256).flatMap fun t =>
          let q := 256 * p + t
          if pos ≤ q && q < pos + len then
            (List.range (k.dim * eb / 64)).map fun u =>
              (k.line alc 0 xh t 0 + 64 * u, src + (q - pos) * pitch * lineOut k.fmt + xh * k.dim * eb + 64 * u)
          else []

/-- Fields of an append copy: sequence, layer, POS0, N_TOK, PITCH. -/
def acSeq (c : Cmd) : Nat := bitsOf c.o0 0 16
def acLayer (c : Cmd) : Nat := bitsOf c.o0 16 16
def acPos (c : Cmd) : Nat := bitsOf c.o0 32 32
def acTok (c : Cmd) : Nat := bitsOf c.o2 0 32
def acPitch (c : Cmd) : Nat := bitsOf c.o2 32 32

/-- Bytes of the source of an append copy. -/
def acSpan (k : CacheRec) (c : Cmd) : Nat :=
  if acTok c = 0 then 0 else (acTok c - 1) * acPitch c * lineOut k.fmt + 2 * k.hkv * k.dim * (fmtBits k.fmt / 8)

/-- The course of an append copy: its lines moved unchanged, then LAYER_LEN (R229, R232, R233). -/
def appendGo (r : CmdRef) (m : Move) (s : State) (c : Cmd) : State :=
  match hallCache s r.scope with
  | none => s
  | some (_, k) =>
    let us := appendUnits s k (acSeq c) (acLayer c) (acPos c) (acTok c) c.o1 (acPitch c)
    let unit (i : Nat) (s : State) : Except Stuck State :=
      let (d, a) := us.getD i (0, 0)
      if !inWindow s r.scope false a 64 then .error (some (.addressFault, a))
      else
        match moverReads s r.scope a 64, moverWrites s r.scope d 64 with
        | .ok _, .ok _ => .ok (storeCopy s a d 64)
        | .error e, _ => .error e
        | _, .error e => .error e
    moveRun s r m us.length (fun i => (us.getD i (0, 0)).2) unit
      (fun s => succeed (memPutNat s (ptBlock s k (acSeq c) (acLayer c)) 4 (acPos c + acTok c)) r us.length 0) id

/-- SEQ_APPEND_COPY (R229, R230, R232, R233). -/
def execSeqAppendCopy (r : CmdRef) (m : Move) (s : State) : Out :=
  moveCmd 0x15 r s
    (fun s c =>
      let h := r.scope
      waitWhile (seqBusy s h (seqUses c)) <|
      match appendTest s h (acSeq c) (acLayer c) (acPos c) (acTok c), hallCache s h with
      | some code, _ => .stop code 0 0
      | none, none => .stop 0x28 0 0
      | none, some (ra, k) =>
        if !inWindow s h false c.o1 (min 64 (acSpan k c)) then .gone 0x11 0
        else
          let ws := appendReach s k (acSeq c) (acLayer c) (acPos c) (acTok c)
          reachGate s h [(c.o1, acSpan k c)] ws <|
          let s := resolveAppend s ra k (acSeq c) (acLayer c) (acPos c) (acTok c)
          .go (updJob s r fun j => { j with
            reads := [(c.o1, acSpan k c)], writes := appendReach s k (acSeq c) (acLayer c) (acPos c) (acTok c) }))
    (appendGo r m)

end Sys2Proof.Machine
end

