-- ==== Sys2Proof/Machine/Offload.lean ====
section
/-! DEFINITION. Off-load handles, OFFLOAD, PREFETCH and OFFLOAD_RELEASE (R296 to R308), quotas of host memory (R273). -/

namespace Sys2Proof.Machine

/-- Fields of a handle (R296). -/
def hdState (s : State) (a : Nat) : Nat := memNat s a 1 % 4
def hdPages (s : State) (a : Nat) : Nat := memNat s (a + 4) 4
def hdHost (s : State) (a : Nat) : Nat := memNat s (a + 8) 6
def hdLen (s : State) (a : Nat) : Nat := memNat s (a + 0x10) 5 % 2 ^ 37
def hdSeal (s : State) (a : Nat) : Nat := memNat s (a + 0x18) 6
def hdTag (s : State) (a : Nat) : List Byte := memBytes s (a + 0x20) 8
def setHdState (s : State) (a v : Nat) : State := memPutNat s a 1 v

/-- MiB charged for a length, and the hall's host charge in bytes (R273, R298). -/
def chargeOf (len : Nat) : Nat := ceilDiv len 0x100000 * 0x100000
def hostUse (s : State) (h : Nat) : Nat := getF s (rUndHallHost h) fUndHallHostBytes
def hostQuota (s : State) (h : Nat) : Nat := leAt (secEntry (secOf s.run tyQUOTA h 0) 32 0) 4 4 * 0x100000
def poolQuota (s : State) (h : Nat) : Nat := leAt (secEntry (secOf s.run tyQUOTA h 0) 32 0) 8 4 * 0x100000

/-- Release the host charge of a handle. -/
def releaseHandle (s : State) (h a : Nat) : State :=
  let s := setF s (rUndHallHost h) fUndHallHostBytes (hostUse s h - chargeOf (hdLen s a))
  setHdState s a 0

/-- An earlier dispatched command, of whichever hall, names this handle with one of these opcodes (R297). -/
def handleBusy (s : State) (a : Nat) (ops : List Nat) : Bool :=
  (allActive s).any fun p => ops.contains p.2.opcode && p.2.o0 = a
/-- An earlier dispatched command releases this handle: OFFLOAD_RELEASE, or a PREFETCH with RELEASE (R297, R308). -/
def handleFreeing (s : State) (a : Nat) : Bool :=
  (allActive s).any fun p => (p.2.opcode = 0x0C || (p.2.opcode = 0x0B && bitOf p.2.o3 0)) && p.2.o0 = a

/-- A dispatched command of the hall releases host memory at its completion (R273). -/
def hostReleaser (s : State) (h : Nat) : Bool :=
  (earlierCmds s h).any fun p => p.2.opcode = 0x0C || (p.2.opcode = 0x0B && bitOf p.2.o3 0)

/-- Seal of page `i` (R300). -/
def sealOf (tag bytes : List Byte) (i : Nat) : Nat := crc32c (bytes ++ tag ++ leBytes 4 i)

/-- SEAL_PAGE: the seal entry of page `i` over the bytes that were read of it (R300). -/
def sealPage (s : State) (hd i : Nat) (bytes : List Byte) : State :=
  store s (hdSeal s hd + 8 * i) (leBytes 4 (sealOf (hdTag s hd) bytes i) ++ leBytes 4 bytes.length)

/-- Bytes of a page read so far, and those of one more unit: at the end of the page its seal is written (R300). The job's
`buf` holds them under key 0. -/
def sealUnit (s : State) (r : CmdRef) (c : Cmd) (i : Nat) (unit : List Byte) : State :=
  let old := match findCmd s r with
    | some now => (fmFind now.job.buf 0).getD []
    | none => []
  let page := old ++ unit
  if (i + 1) % 64 = 0 || 64 * (i + 1) = c.o2 then
    updJob (sealPage s c.o0 (i / 64) page) r fun j => { j with buf := fmErase j.buf 0 }
  else updJob s r fun j => { j with buf := fmPut j.buf 0 page }

/-- One 64-byte unit of an off-load; after the last comes the read of the host window that follows its writes (R303). -/
def offloadUnit (r : CmdRef) (c : Cmd) (i : Nat) (s : State) : Except Stuck State :=
  if i = c.o2 / 64 then (if hostOpen s then .ok s else .error (some (.addressFault, c.o3)))
  else
    match moverReads s r.scope (c.o1 + 64 * i) 64 with
    | .error e => .error e
    | .ok _ =>
      if !hostOpen s then .error (some (.addressFault, c.o3 + 64 * i))
      else
        let unit := memBytes s (c.o1 + 64 * i) 64
        let s := memPut (driveRange s false (c.o1 + 64 * i) 64) (c.o3 + 64 * i) unit
        .ok (sealUnit (countHall s r.scope 0x040 64) r c i unit)

/-- The course of an off-load (R300, R303). -/
def offloadGo (r : CmdRef) (m : Move) (s : State) (c : Cmd) : State :=
  moveRun s r m (c.o2 / 64 + 1) (fun i => if i = c.o2 / 64 then c.o3 else c.o1 + 64 * i) (offloadUnit r c)
    (fun s => succeed (setHdState s c.o0 2) r (c.o2 / 64) 0) (fun s => setHdState s c.o0 3)

/-- The checks 1 to 5 of R298, with their codes. -/
def offloadCheck (s : State) (h : Nat) (c : Cmd) : Option (Nat × Nat) :=
  let pages := ceilDiv c.o2 4096
  firstFail
    [(1, 0x11, c.o0 % 64 = 0 && windowMW s h c.o0 64 && c.o4 % 64 = 0 && windowMW s h c.o4 (8 * pages)),
     (2, 0x10, c.o2 ≠ 0 && c.o2 % 64 = 0 && c.o2 ≤ 2 ^ 36 && c.o1 % 64 = 0 && c.o3 % 4096 = 0 && inHost c.o3 c.o2),
     (3, 0x11, inWindow s h false c.o1 c.o2 || inExplicit s h c.o1 c.o2),
     (4, 0x15, !inEnc s c.o1 c.o2),
     (5, 0x2B, hdState s c.o0 = 0)]

/-- Bytes of the handle that the tests of an off-load read: its STATE, once checks 1 to 4 have passed. -/
def handleRead (s : State) (h : Nat) (c : Cmd) : Nat :=
  match offloadCheck s h c with
  | some (_, n) => if n ≤ 4 then 0 else 64
  | none => 64

/-- The handle that an off-load writes at dispatch, with its tag (R298, R299). -/
def openHandle (s : State) (r : CmdRef) (c : Cmd) : State :=
  let hall := getH s r.scope
  let n := (hall.offloads + 1) % 2 ^ 56
  let s := setH s r.scope { hall with offloads := n }
  memPut s c.o0 (leBytes 4 1 ++ leBytes 4 (ceilDiv c.o2 4096) ++ leBytes 6 c.o3 ++ zeros 2 ++ leBytes 5 c.o2 ++ zeros 3
    ++ leBytes 6 c.o4 ++ leBytes 2 c.layer ++ leBytes 8 (r.scope * 2 ^ 56 + n) ++ leBytes 8 c.seq ++ leBytes 4 0 ++ zeros 12)

/-- OFFLOAD (R297 to R303). -/
def execOffload (r : CmdRef) (m : Move) (s : State) : Out :=
  moveCmd 0x0A r s
    (fun s c =>
      let h := r.scope
      waitWhile (handleFreeing s c.o0) <|
      readOk s r none true c.o0 (handleRead s h c) <|
      match offloadCheck s h c with
      | some (code, n) => if code = 0x11 then .gone code n else .stop code n 0
      | none =>
        let charge := chargeOf c.o2
        let fits := hostUse s h + charge ≤ hostQuota s h
        waitWhile (!fits && hostReleaser s h) <|
        need fits 0x16 6 <|
        waitWhile (64 ≤ guardCount s h || unzeroed s c.o4 (8 * ceilDiv c.o2 4096)) <|
        reachGate s h [(c.o1, c.o2)] [(c.o0, 64), (c.o4, 8 * ceilDiv c.o2 4096), (c.o3, c.o2)] <|
        let s := openHandle s r c
        let s := setF s (rUndHallHost h) fUndHallHostBytes (hostUse s h + charge)
        .go (updJob s r fun j => { j with
          reads := [(c.o1, c.o2)], held := [(c.o1, c.o2)]
          writes := [(c.o0, 64), (c.o4, 8 * ceilDiv c.o2 4096), (c.o3, c.o2)] }))
    (offloadGo r m)

/-! ## Prefetch (R304 to R308) -/

/-- Pages that a prefetch covers: the first and the count (0 means all from PAGE0). -/
def pfPages (s : State) (c : Cmd) : Nat × Nat :=
  let p0 := bitsOf c.o2 0 32
  let n := bitsOf c.o2 32 32
  (p0, if n = 0 then hdPages s c.o0 - p0 else n)
/-- BYTES of a sealed page. -/
def pageBytes (s : State) (hd i : Nat) : Nat := memNat s (hdSeal s hd + 8 * i + 4) 2 % 2 ^ 13
/-- Bytes of the first `n` pages from `p0`. -/
def pfSpan (s : State) (hd p0 n : Nat) : Nat := ((List.range n).map fun i => pageBytes s hd (p0 + i)).foldl (· + ·) 0

/-- The checks of R304. -/
def prefetchCheck (s : State) (h : Nat) (c : Cmd) : Option (Nat × Nat) :=
  let (p0, n) := pfPages s c
  let span := pfSpan s c.o0 p0 n
  firstFail
    [(1, 0x11, c.o0 % 64 = 0 && inWindowM s h c.o0 64),
     (2, 0x10, p0 + n ≤ hdPages s c.o0 && (!bitOf c.o3 0 || (p0 = 0 && n = hdPages s c.o0)) && c.o1 % 64 = 0),
     (3, 0x2B, hdState s c.o0 = 2),
     (4, 0x11, span = 0 || inWindow s h true c.o1 span || inExplicit s h c.o1 span),
     (5, 0x15, !inEnc s c.o1 span)]

/-- A prefetch succeeds: FETCHES, and the release where RELEASE asks for it (R308). -/
def prefetchDone (s : State) (r : CmdRef) (c : Cmd) (n : Nat) : State :=
  let s := memPutNat s (c.o0 + 0x30) 4 (memNat s (c.o0 + 0x30) 4 + 1)
  let s := if bitOf c.o3 0 then releaseHandle s r.scope c.o0 else s
  succeed s r n (2 ^ 32 * n)

/-- A prefetch ends in error at page `i` with `w` pages written: INFO of R486. -/
def prefetchFail (s : State) (r : CmdRef) (code i w : Nat) : State := endCmd s r code 0 w (i % 2 ^ 32 + 2 ^ 32 * w)

/-- Pages from the next one to write that a prefetch may have in hand: each holds a slot of the hall's movers, and the next
page to write is never without one (R282, R301). -/
def pageRoom (s : State) (h : Nat) (c : Cmd) : Nat :=
  let own := c.job.buf.length
  min (moverLimit s h - (moverHeld s h - own)) (512 - (moverAll s - own))

/-- PREFETCH (R297, R304, R307): the dispatch; its pages follow one by one. -/
def execPrefetch (r : CmdRef) (err : Option ReadErr) (s : State) : Out :=
  guardUnit (r.scope < 8) <|
  dispatch 0x0B r s fun s c =>
    let h := r.scope
    waitWhile (handleBusy s c.o0 (if bitOf c.o3 0 then [0x0A, 0x0B] else [0x0A])) <|
    if !(c.o0 % 64 = 0 && inWindowM s h c.o0 64) then .gone 0x11 1
    else
      readOk s r err false c.o0 64 <|
      match prefetchCheck s h c with
      | some (code, n) => if code = 0x11 then .gone code n else .stop code n 0
      | none =>
        let (p0, n) := pfPages s c
        let span := pfSpan s c.o0 p0 n
        let gs := if span = 0 then [] else [(c.o1, span)]
        waitWhile (guardWaits s h gs) <|
        reachGate s h [] gs <|
        let s := updJob s r fun j => { j with
          total := n, guards := gs, writes := gs, reads := [(hdHost s c.o0 + 4096 * p0, span)] }
        .go (if n = 0 then prefetchDone s r c 0 else s)

/-- Write pages that have verified, in ascending order, as far as they reach (R305). -/
def prefetchWrite (r : CmdRef) (c : Cmd) (p0 : Nat) : Nat → State → State
  | 0, s => s
  | k + 1, s =>
    match findCmd s r with
    | none => s
    | some now =>
      match fmFind now.job.buf now.job.next with
      | none => s
      | some bytes =>
        let d := c.o1 + pfSpan s c.o0 p0 now.job.next
        match writable s r.scope d bytes.length with
        | .error none => s
        | .error (some (e, x)) =>
          prefetchFail (noteErr s r.scope e x) r (errCode e) (p0 + now.job.next) now.job.next
        | .ok _ =>
          let s := countHall (store s d bytes) r.scope 0x048 bytes.length
          let s := updJob s r fun j => { j with next := j.next + 1, buf := fmErase j.buf now.job.next }
          if now.job.next + 1 = now.job.total then prefetchDone s r c now.job.total
          else prefetchWrite r c p0 k s

/-- A failed page ends the prefetch once every lower page has been written (R306): `aux` holds the lowest failed page
and its code. -/
def prefetchSettle (r : CmdRef) (p0 : Nat) (s : State) : State :=
  match findCmd s r with
  | some c =>
    match c.job.aux with
    | [f, code] => if f ≤ c.job.next then prefetchFail s r code (p0 + f) c.job.next else s
    | _ => s
  | none => s

/-- Note a failed page. -/
def prefetchBad (s : State) (r : CmdRef) (p0 page code : Nat) : State :=
  prefetchSettle r p0 (updJob s r fun j => { j with aux := [page, code], buf := j.buf.filter fun b => b.1 < page })

/-- A page returns: verified pages are written as far as they reach. -/
def prefetchTurn (s : State) (r : CmdRef) (c : Cmd) (p0 n : Nat) : State :=
  prefetchSettle r p0 (prefetchWrite r c p0 (n - c.job.next) s)

/-- Page `page` of a prefetch may be read now: it has not been read, no lower page has failed, and a slot is free for it
(R301, R305, R306). -/
def pageWanted (s : State) (h : Nat) (c : Cmd) (n page : Nat) : Bool :=
  page < n && c.job.next ≤ page && (fmFind c.job.buf page).isNone && page < c.job.next + pageRoom s h c
    && (match c.job.aux with | [f, _] => page < f | _ => true)

/-- PREFETCH_PAGE_READ (R301, R305, R306): page `page` of the prefetch returns from the host; its seal is verified over the
bytes read; it is written in its turn, as are those that waited for their destination. -/
def execPrefetchPageRead (r : CmdRef) (page : Nat) (err : Option ReadErr) (s : State) : Out :=
  guardUnit (r.scope < 8) <|
  match findCmd s r with
  | none => .next s
  | some c =>
    let (p0, n) := pfPages s c
    if c.st ≠ .dispatched ∨ c.opcode ≠ 0x0B then .next s
    else if !pageWanted s r.scope c n page then .next (prefetchTurn s r c p0 n)
    else
      match (if hostOpen s then err else some .addressFault) with
      | some e => .next (prefetchBad (noteErr s r.scope e (hdHost s c.o0 + 4096 * (p0 + page))) r p0 page (errCode e))
      | none =>
        let k := pageBytes s c.o0 (p0 + page)
        let bytes := memBytes s (hdHost s c.o0 + 4096 * (p0 + page)) k
        if sealOf (hdTag s c.o0) bytes (p0 + page) ≠ memNat s (hdSeal s c.o0 + 8 * (p0 + page)) 4 then
          .next (prefetchBad (countErr s r.scope (.handoff 12 0)) r p0 page 0x23)
        else .next (prefetchTurn (updJob s r fun j => { j with buf := fmPut j.buf page bytes }) r c p0 n)

/-- OFFLOAD_RELEASE (R297, R308). -/
def execOffloadRelease (r : CmdRef) (err : Option ReadErr) (s : State) : Out :=
  guardUnit (r.scope < 8) <|
  dispatch 0x0C r s fun s c =>
    let h := r.scope
    waitWhile (handleBusy s c.o0 [0x0A, 0x0B]) <|
    if !(c.o0 % 64 = 0 && windowMW s h c.o0 64) then .gone 0x11 0
    else
      readOk s r err false c.o0 64 <|
      need (hdState s c.o0 = 2 || hdState s c.o0 = 3) 0x2B 0 <|
      reachGate s h [] [(c.o0, 64)] <|
      .go (succeed (releaseHandle s h c.o0) r 0 0)

end Sys2Proof.Machine
end

