-- ==== Sys2Proof/Machine/CodeCmd.lean ====
section
/-! DEFINITION. The commands of compression (R318 to R342): EXP_ENCODE, the code-table slots, PACK and its assembly,
CODED_EXPAND. -/

namespace Sys2Proof.Machine

/-- Write KIND 0 into the header at the head of a destination of `cap` bytes, its CRC following, so that a later reader is
refused under check 2 of R329 (R323, R338, R341); a destination with no room for a header is left alone (log 292). -/
def killHeader (s : State) (a cap : Nat) : State :=
  if cap < 64 then s
  else
    let b := leBytes 1 (memNat s a 1 / 4 * 4) ++ memBytes s (a + 1) 59
    store s a (b ++ leBytes 4 (crc32c b))

/-! ## EXP_ENCODE (R322, R323) -/

/-- The coded blocks of a raw image of `n` bytes at `a`: stored raw, bytes. -/
def codeBlocks (s : State) (tab : List Byte) (slot ver a n : Nat) : List (Bool × List Byte) :=
  (List.range (ceilDiv n 2048)).map fun b =>
    encodeBlock tab slot ver (memBytes s (a + 2048 * b) (min 2048 (n - 2048 * b)))

/-- Directory bytes of blocks given by plain flag and length in 64-byte units (R316, R317). -/
def dirBytes : Nat → List (Bool × Nat) → List Byte
  | _, [] => []
  | off, (p, l) :: r => leBytes 4 off ++ leBytes 2 l ++ leBytes 2 (if p then 1 else 0) ++ dirBytes (off + l) r

/-- Fields of EXP_ENCODE: RAW_LEN, slot, CAPACITY. -/
def eeLen (c : Cmd) : Nat := bitsOf c.o1 0 48
def eeSlot (c : Cmd) : Nat := bitsOf c.o1 48 2

/-- HIST: the count of each biased exponent (R323). -/
def histBytes (s : State) (a n : Nat) : List Byte :=
  let es := (List.range (n / 2)).map fun i => bfExp (memNat s (a + 2 * i) 2)
  (List.range 256).flatMap fun e => leBytes 4 (es.count e)

/-- Write `n` payload units from unit `i`. -/
def putUnits (s : State) (a : Nat) (bytes : List Byte) (i n : Nat) : State :=
  store s (a + 64 * i) ((bytes.drop (64 * i)).take (64 * n))

/-- The two phases of EXP_ENCODE (R323): directory, payload units as far as they get, then HIST and the header. -/
def encodeGo (r : CmdRef) (m : Move) (s : State) (c : Cmd) : State :=
  let h := r.scope
  let slot := eeSlot c
  let n := eeLen c
  match readable s h c.o0 n with
  | .error none => s
  | .error (some (e, a)) => moveFail s r c.job.next e a
  | .ok _ =>
    let ver := getF s (rUndXtabSlot h slot) fUndXtabSlotVersion
    let bs := codeBlocks s ((getH s h).xtabs.getD slot []) slot ver c.o0 n
    let pay := bs.flatMap (·.2)
    let hd : CHdr := ⟨c.o2, 1, 2, slot, ver, bs.length, n, 0, 0, 0, 0, pay.length⟩
    let dir := dirBytes 0 (bs.map fun b => (b.1, b.2.length / 64))
    let s := store s (c.o2 + 64) (dir.take ((c.o3 - 64) / 8 * 8))
    if c.o3 < 64 + 8 * bs.length + pay.length then endCmd s r 0x14 0 0 0
    else
      let total := pay.length / 64
      let stop := moveStop m total
      let s := putUnits s hd.pay pay c.job.next (stop - c.job.next)
      let s := updJob s r fun j => { j with next := max c.job.next stop }
      if stop < total then
        match m.err with
        | some e => moveFail s r stop e c.o0
        | none => s
      else
        let s := if c.o4 = 0 then s else store s c.o4 (histBytes s c.o0 n)
        let raw := bs.countP (·.1)
        let s := countHall (countHall s h 0x058 (bs.length - raw)) h 0x060 raw
        succeed (store s c.o2 (chdrBytes hd 0)) r total 0

/-- EXP_ENCODE (R323, R327, R340). -/
def execExpEncode (r : CmdRef) (m : Move) (s : State) : Out :=
  moveCmd 0x18 r s
    (fun s c =>
      let h := r.scope
      let n := eeLen c
      let st := getF s (rUndXtabSlot h (eeSlot c)) fUndXtabSlotState
      let hist := if c.o4 = 0 then [] else [(c.o4, 1024)]
      waitWhile (st = 1) <|
      need (n % 64 = 0 && c.o2 % 64 = 0 && (st = 2 || st = 3)) 0x10 0 <|
      if !((inWindow s h false c.o0 n || inExplicit s h c.o0 n) && inWindow s h true c.o2 c.o3
          && hist.all fun x => inWindow s h true x.1 x.2) then .gone 0x11 0
      else
        need (!inEnc s c.o0 n && !inEnc s c.o2 c.o3) 0x15 0 <|
        reachGate s h [(c.o0, n)] ((c.o2, c.o3) :: hist) <|
        .go (updJob (killHeader s c.o2 c.o3) r fun j => { j with reads := [(c.o0, n)], writes := (c.o2, c.o3) :: hist }))
    (encodeGo r m)

/-! ## Code-table slots (R324 to R327) -/

/-- States of the four slots of a hall. -/
def slotStates (s : State) (h : Nat) : List Nat := (List.range 4).map fun i => getF s (rUndXtabSlot h i) fUndXtabSlotState

/-- The version after one: 255 is followed by 1 (R326). -/
def nextVersion (v : Nat) : Nat := if v = 255 then 1 else v + 1

/-- A slot takes a table: state and version (R326, R328). -/
def loadSlot (s : State) (h slot state : Nat) (tab : List Byte) : State :=
  let g := rUndXtabSlot h slot
  let s := setF s g fUndXtabSlotVersion (nextVersion (getF s g fUndXtabSlotVersion))
  let s := setF s g fUndXtabSlotState state
  let hall := getH s h
  setH s h { hall with xtabs := hall.xtabs.set slot tab }

/-- A slot is retired: free at once where nothing is queued (R325). -/
def retireSlot (s : State) (h slot : Nat) : State :=
  xtabUnqueue (setF s (rUndXtabSlot h slot) fUndXtabSlotState 3) h slot 0

/-- XTAB_LOAD (R319, R326, R340); its slot becomes loaded at the completion. -/
def execXtabLoad (r : CmdRef) (err : Option ReadErr) (s : State) : Out :=
  guardUnit (r.scope < 8) <|
  dispatch 0x19 r s fun s c =>
    let h := r.scope
    let rep := bitsOf c.o1 0 4
    let sts := slotStates s h
    if !inWindow s h false c.o0 192 then .gone 0x11 0
    else
      waitWhile (rep < 4 && sts.getD rep 0 = 1) <|
      readOk s r err false c.o0 192 <|
      let tab := memBytes s c.o0 192
      need (ctCrcOk tab) 0x13 0 <|
      need (ctOk tab false && (rep = 0xF || (rep < 4 && sts.getD rep 0 = 2))) 0x10 0 <|
      need (!inEnc s c.o0 192) 0x15 0 <|
      match (List.range 4).find? fun i => sts.getD i 0 = 0 with
      | none => if sts.contains 3 then .wait else .stop 0x12 0 0
      | some i =>
        reachGate s h [(c.o0, 192)] [] <|
        let s := loadSlot s h i 1 tab
        let info := i + 256 * getF s (rUndXtabSlot h i) fUndXtabSlotVersion
        .go (succeed (updJob s r fun j => { j with aux := [i, rep] }) r 0 info)

/-- The end of an XTAB_LOAD at its completion (R326). -/
def xtabLoaded (s : State) (h : Nat) (c : Cmd) : State :=
  match c.job.aux with
  | [i, rep] =>
    let s := setF s (rUndXtabSlot h i) fUndXtabSlotState 2
    if rep < 4 && getF s (rUndXtabSlot h rep) fUndXtabSlotState = 2 then retireSlot s h rep else s
  | _ => s

/-- XTAB_RETIRE (R325, R327). -/
def execXtabRetire (r : CmdRef) (s : State) : Out :=
  guardUnit (r.scope < 8) <|
  dispatch 0x1A r s fun s c =>
    let i := bitsOf c.o0 0 2
    let st := getF s (rUndXtabSlot r.scope i) fUndXtabSlotState
    waitWhile (st = 1) <|
    need (st = 2) 0x10 0 <|
    .go (succeed (retireSlot s r.scope i) r 0 0)

/-! ## PACK (R337, R338) -/

/-- Fields of a PACK (R476). -/
def pkSrc (c : Cmd) : Nat := bitsOf c.o0 0 48
def pkCap (c : Cmd) : Nat := bitsOf c.o0 48 16 * 0x100000
def pkRows (c : Cmd) : Nat := bitsOf c.o1 0 32
def pkCols (c : Cmd) : Nat := bitsOf c.o1 32 32
def pkRowBytes (c : Cmd) : Nat := bitsOf c.o2 0 32
def pkThresh (c : Cmd) : Nat := bitsOf c.o2 32 32
def pkDst (c : Cmd) : Nat := bitsOf c.o3 0 48
def pkFmt (c : Cmd) : Nat := bitsOf c.o3 48 5
def pkRank (c : Cmd) : Nat := bitsOf c.o3 53 6
def pkIter (c : Cmd) : Nat := bitsOf c.o3 59 3
/-- Tiles per row of tiles, and tiles. -/
def pkAcross (c : Cmd) : Nat := ceilDiv (pkCols c) 256
def pkTiles (c : Cmd) : Nat := ceilDiv (pkRows c) 256 * pkAcross c
/-- Bytes of a tile's place in SCRATCH, and the place. -/
def pkSlot (c : Cmd) : Nat := 64 + 1024 * pkRank c
def pkPlace (c : Cmd) (t : Nat) : Nat := c.o4 + t * pkSlot c
/-- Bytes of the source. -/
def pkSpan (c : Cmd) : Nat := pkRows c * pkRowBytes c

/-- Element (i, j) of tile `t` as a source pattern; none beyond ROWS or COLS. -/
def pkElem (s : State) (c : Cmd) (t i j : Nat) : Option Nat :=
  let row := t / pkAcross c * 256 + i
  let col := t % pkAcross c * 256 + j
  if row < pkRows c ∧ col < pkCols c then some (memNat s (pkSrc c + row * pkRowBytes c + 2 * col) 2) else none

/-- THRESH is finite and not negative. -/
def threshOk (x : Nat) : Bool := match fDecode ifmt32 x with | .fin neg _ _ => !neg | _ => false

/-- PACK (R196, R337, R338, R340). -/
def execPack (r : CmdRef) (err : Option ReadErr) (s : State) : Out :=
  guardUnit (r.scope < 8) <|
  dispatch 0x1B r s fun s c =>
    let h := r.scope
    let scratch := pkTiles c * pkSlot c
    learnGate s h c (c.pass = 1 || c.pass = 2) (c.pass = 2) <|
    need ((pkFmt c = 2 || pkFmt c = 3) && 1 ≤ pkRank c && pkRank c ≤ 32 && pkIter c ≤ 4 && threshOk (pkThresh c)
      && pkRowBytes c % 64 = 0 && 2 * pkCols c ≤ pkRowBytes c && pkDst c % 64 = 0) 0x10 0 <|
    if !((inWindow s h false (pkSrc c) (pkSpan c) || inExplicit s h (pkSrc c) (pkSpan c))
        && inWindow s h true (pkDst c) (pkCap c)
        && (inWindow s h true c.o4 scratch || inExplicit s h c.o4 scratch)) then .gone 0x11 0
    else
      readOk s r err true (pkSrc c) 0 <|
      need (!inEnc s (pkSrc c) (pkSpan c) && !inEnc s (pkDst c) (pkCap c) && !inEnc s c.o4 scratch) 0x15 0 <|
      waitWhile (slotsFull s h) <|
      reachGate s h [(pkSrc c, pkSpan c)] [(pkDst c, pkCap c), (c.o4, scratch)] <|
      .go (updJob (killHeader s (pkDst c) (pkCap c)) r fun j => { j with
        total := pkTiles c, reads := [(pkSrc c, pkSpan c)], held := [(pkSrc c, pkSpan c)]
        writes := [(pkDst c, pkCap c), (c.o4, scratch)] })

/-- What stops an item of a PACK: its source, its place in SCRATCH, its directory entry. -/
def packStuck (s : State) (c : Cmd) (t : Nat) : Option Stuck :=
  let r0 := t / pkAcross c * 256
  let c0 := t % pkAcross c * 256
  (readsStuck s ((List.range (min 256 (pkRows c - r0))).map fun i =>
    (pkSrc c + (r0 + i) * pkRowBytes c + 2 * c0, 2 * min 256 (pkCols c - c0)))).or
  (writesStuck s ((pkPlace c t, 64) :: if pkCap c < 64 + 8 * t + 8 then [] else [(pkDst c + 64 + 8 * t, 8)]))

/-- One item of a PACK (R106, R335, R337, R338): the events of its arithmetic, the tile's outcome in SCRATCH and its directory
entry, OFFSET still 0, where CAPACITY has room for it. -/
def packItem (s : State) (h : Nat) (c : Cmd) (t : Nat) : State :=
  let wide (i j : Nat) : Nat := match pkElem s c t i j with | some x => tileSum.widen32 (pkFmt c) x | none => 0
  let dir (plain : Bool) (l : Nat) (s : State) : State :=
    if pkCap c < 64 + 8 * t + 8 then s else
    store s (pkDst c + 64 + 8 * t) (leBytes 4 0 ++ leBytes 2 l ++ leBytes 2 (if plain then 1 else 0))
  let (res, flags, cvts) := packTile wide (pkFmt c) (pkRank c) (pkIter c) (pkThresh c)
  let s := raiseFp (countCvts s h cvts) h flags
  match res with
  | .zero => countHall (dir false 1 (store s (pkPlace c t) (tileRecord 0 false 0 0 []))) h 0x070 1
  | .factored e n data =>
    countHall (dir false (1 + 16 * pkRank c) (store s (pkPlace c t) (tileRecord (pkRank c) false e n data))) h 0x068 1
  | .exact nf e n =>
    let data := (List.range 65536).flatMap fun x => leBytes 2 ((pkElem s c t (x / 256) (x % 256)).getD 0)
    let rec' := (tileRecord 0 nf e n data).take 64
    countHall (dir true 2049 (store s (pkPlace c t) rec')) h 0x078 1

/-- The tile's bytes for the payload: from SCRATCH, or its record and the source's elements. -/
def packBytes (s : State) (c : Cmd) (t : Nat) : List Byte :=
  let x := memNat s (pkDst c + 64 + 8 * t) 8
  if bitOf x 48 then
    memBytes s (pkPlace c t) 64
      ++ (List.range 65536).flatMap fun y => leBytes 2 ((pkElem s c t (y / 256) (y % 256)).getD 0)
  else memBytes s (pkPlace c t) (64 * bitsOf x 32 16)

/-- PACK_ASSEMBLE (R317, R338): every item done, the offsets, the payload, the header last. -/
def execPackAssemble (r : CmdRef) (m : Move) (s : State) : Out :=
  guardUnit (r.scope < 8) <|
  match findCmd s r with
  | none => .next s
  | some c =>
    if c.st ≠ .dispatched ∨ c.opcode ≠ 0x1B ∨ c.job.done.length < c.job.total then .next s
    else
      let tiles := (List.range c.job.total).map fun t =>
        let x := memNat s (pkDst c + 64 + 8 * t) 8
        (bitOf x 48, bitsOf x 32 16)
      let units := (tiles.map (·.2)).foldl (· + ·) 0
      let hd : CHdr := ⟨pkDst c, 2, pkFmt c, 0, 0, pkTiles c, pkSpan c, pkRows c, pkCols c, pkRowBytes c, pkRank c, 64 * units⟩
      if pkCap c < 64 + 8 * pkTiles c || pkCap c < hd.endA - hd.addr then .next (endCmd s r 0x14 0 c.job.done.length 0)
      else
        let s := store s (pkDst c + 64) (dirBytes 0 tiles)
        let pay := (List.range c.job.total).flatMap (packBytes s c)
        match m.err with
        | some e =>
          let s := putUnits s hd.pay pay 0 (moveStop m units)
          .next (endCmd (noteErr s r.scope e (pkSrc c)) r (errCode e) 0 c.job.done.length (errInfo e (pkSrc c)))
        | none =>
          let s := putUnits s hd.pay pay 0 units
          .next (succeed (store s (pkDst c) (chdrBytes hd (pkThresh c))) r c.job.done.length 0)

/-! ## CODED_EXPAND (R329, R330, R339) -/

/-- Raw bytes that a coded tensor covers, 64 from unit `i`; a KIND 2 tensor's bytes beyond COLS are none (R334). -/
def expandUnit (s : State) (h : Nat) (hd : CHdr) (i : Nat) : Except RdErr (List (Nat × Byte) × List Cvt) :=
  (List.range 32).foldlM (fun (acc : List (Nat × Byte) × List Cvt) k =>
    let off := 64 * i + 2 * k
    if hd.kind = 2 && hd.cols ≤ off % hd.rowBytes / 2 then .ok acc
    else
      match codedElem s h hd off with
      | .error e => .error e
      | .ok cv => .ok (acc.1 ++ ((leBytes 2 cv.bits).zipIdx.map fun p => (off + p.2, p.1)), cv :: acc.2)) ([], [])

/-- Store listed bytes at offsets from a base. -/
def putListed (s : State) (base : Nat) (l : List (Nat × Byte)) : State :=
  l.foldl (fun s p => memPut s (base + p.1) [p.2]) s

/-- The bytes of a tensor from `base`, 64 at a time, at a destination (R339). -/
def expandTo (r : CmdRef) (hd : CHdr) (dsts : List Nat) (i : Nat) (s : State) : Except Stuck State :=
  match dsts.foldlM (fun _ d => writable s r.scope (d + 64 * i) 64) () with
  | .error e => .error e
  | .ok _ =>
    match expandUnit s r.scope hd i with
    | .error e => .error e
    | .ok (bs, cs) =>
      let s := dsts.foldl (fun s d => spansWrote (putListed s d bs) [(d + 64 * i, 64)]) s
      .ok (if hd.kind = 2 then countCvts s r.scope cs else s)

/-- The course of an expansion of KIND 1. -/
def expandGo (r : CmdRef) (m : Move) (s : State) (c : Cmd) : State :=
  let hd := chdrOf c.o0 (memBytes s c.o0 64)
  if hd.kind = 2 then s
  else
    moveRun s r m (hd.rawLen / 64) (fun i => hd.pay + 64 * (hd.dir s (i / 32)).1) (expandTo r hd [c.o1])
      (fun s => succeed s r (hd.rawLen / 64) 0) id

/-- CODED_EXPAND (R325, R327, R329, R339, R340): KIND 1 runs here, KIND 2 as items of the hall's treads. -/
def execCodedExpand (r : CmdRef) (m : Move) (s : State) : Out :=
  moveCmd 0x1C r s
    (fun s c =>
      let h := r.scope
      let place (a n : Nat) : Bool := inWindow s h false a n || inHost a n
      if !place c.o0 64 then .gone 0x11 0
      else
        match m.err, m.units with
        | some e, none => failRead s r e true c.o0
        | _, _ =>
          readOk s r none true c.o0 64 <|
          let hd := chdrOf c.o0 (memBytes s c.o0 64)
          waitWhile (hd.kind = 1 && slotLoading s h 1 c.o0) <|
          match codedCheck s h (if hd.kind = 2 then 2 else 1) (if hd.kind = 2 && hd.fmt = 3 then 3 else 2) c.o0 place
              (fun _ => true) with
          | some (code, n) => .stop code n 0
          | none =>
            if !(inWindow s h true c.o1 hd.rawLen || inExplicit s h c.o1 hd.rawLen) then .gone 0x11 0
            else
              need (!inEnc s c.o1 hd.rawLen) 0x15 0 <|
              reachGate s h [(c.o0, hd.endA - hd.addr)] [(c.o1, hd.rawLen)] <|
              let aux := if hd.kind = 1 then [hd.slot, hd.blocks] else []
              let s := updJob (queueSlots h aux s) r fun j => { j with
                total := if hd.kind = 2 then hd.blocks else 0, uses := aux
                reads := [(c.o0, hd.endA - hd.addr)], writes := [(c.o1, hd.rawLen)] }
              .go (if hd.kind = 2 && hd.blocks = 0 then succeed s r 0 0 else s))
    (expandGo r m)

/-- Spans of the destinations that a tile of a KIND 2 expansion writes, a row of the tile each. -/
def tileSpans (hd : CHdr) (t lo hi : Nat) (dsts : List Nat) : List (Nat × Nat) :=
  let across := ceilDiv hd.cols 256
  dsts.flatMap fun d => (List.range (min 256 (hd.rows - t / across * 256))).filterMap fun i =>
    let o := (t / across * 256 + i) * hd.rowBytes + 2 * (t % across * 256)
    let e := min hi (o + 2 * min 256 (hd.cols - t % across * 256))
    if max lo o < e then some (d + max lo o - lo, e - max lo o) else none

/-- One tile of a KIND 2 expansion into destinations, clipped to raw bytes [lo, hi) of the tensor (R335, R339). -/
def expandTile (s : State) (h : Nat) (hd : CHdr) (t lo hi : Nat) (dsts : List Nat) : Except RdErr State :=
  let across := ceilDiv hd.cols 256
  match tileBytes s hd t, writesStuck s (tileSpans hd t lo hi dsts) with
  | .error e, _ => .error e
  | _, some e => .error e
  | .ok (tile, plain), none =>
    .ok (spansWrote ((List.range 65536).foldl (fun s x =>
      let row := t / across * 256 + x / 256
      let col := t % across * 256 + x % 256
      let off := row * hd.rowBytes + 2 * col
      if row < hd.rows ∧ col < hd.cols ∧ lo ≤ off ∧ off + 2 ≤ hi then
        let cv := tileElem hd tile plain (x / 256) (x % 256)
        let s := dsts.foldl (fun s d => memPutNat s (d + off - lo) 2 cv.bits) s
        if plain then s else countCvts s h [cv]
      else s) s) (tileSpans hd t lo hi dsts))

end Sys2Proof.Machine
end

