-- ==== Sys2Proof/Machine/Link.lean ====
section
/-! DEFINITION. Optical ports, laser modules, link frames and forwarding (R385 to R399). -/

namespace Sys2Proof.Machine

/-! ## Access -/

def getPort (s : State) (p : Nat) : Port := fmGet (fun _ => {}) s.orl.ports p
def setPort (s : State) (p : Nat) (v : Port) : State :=
  { s with orl := { s.orl with ports := fmSet (fun _ => {}) s.orl.ports p v } }
def getLaser (s : State) (m : Nat) : Laser := fmGet (fun _ => {}) s.orl.lasers m
def setLaser (s : State) (m : Nat) (v : Laser) : State :=
  { s with orl := { s.orl with lasers := fmSet (fun _ => {}) s.orl.lasers m v } }

/-- This device's number and incarnation (R403). -/
def devNum (s : State) : Nat := getF s rOrlDevice fOrlDeviceDevice
def incarnation (s : State) : Nat := getF s rOrlDevice fOrlDeviceIncarnation

/-- Lanes of a port that hold alignment. -/
def lanesUp (s : State) (p : Nat) : Nat :=
  (List.range 8).countP fun l => bitOf (getF s (rOrlPortStatus p) fOrlPortStatusLanes) l
def portState (s : State) (p : Nat) : Nat := getF s (rOrlPortStatus p) fOrlPortStatusState
def setPortState (s : State) (p v : Nat) : State := setF s (rOrlPortStatus p) fOrlPortStatusState v
/-- The port is up: STATE 1 (R386). -/
def portUp (s : State) (p : Nat) : Bool := portState s p = 1
/-- The port is spare. -/
def portSpare (s : State) (p : Nat) : Bool := isF s (rOrlPortCtl p) fOrlPortCtlRole

/-! ## Frames (R390 to R392) -/

/-- The first virtual channel with freed buffers to return, and their number. -/
def owedNow (p : Port) : Nat × Nat :=
  match (List.range 4).find? fun v => 0 < p.owed.getD v 0 with
  | some v => (v, min 255 (p.owed.getD v 0))
  | none => (0, 0)

/-- A link frame (R390): type, virtual channel, link sequence number, and 608 bytes of segment header and payload. -/
def frameBytes (s : State) (p ftype vc lseq : Nat) (body : List Byte) : List Byte :=
  let q := getPort s p
  let (cv, n) := owedNow q
  let b := leBytes 1 (ftype + 8 * vc) ++ zeros 1 ++ leBytes 2 lseq ++ leBytes 2 q.rxSeq ++ leBytes 1 cv ++ leBytes 1 n
    ++ leBytes 2 (devNum s) ++ leBytes 1 p ++ zeros 5 ++ body ++ zeros (608 - body.length)
  b ++ leBytes 4 (crc32c b) ++ zeros 12

/-- Send a segment or control frame: its link sequence number, the replay buffer, the credits it returns (R391). -/
def sendFrame (s : State) (p ftype vc : Nat) (body : List Byte) : State :=
  let q := getPort s p
  let f := frameBytes s p ftype vc q.txSeq body
  let (cv, n) := owedNow q
  let q := { q with
    txSeq := (q.txSeq + 1) % 65536, replay := q.replay ++ [f], owed := q.owed.set cv (q.owed.getD cv 0 - n)
    credits := if ftype = 1 then q.credits.set vc (q.credits.getD vc 0 - 1) else q.credits }
  let s := setPort s p q
  { s with orl := { s.orl with sent := (p, f) :: s.orl.sent } }

/-- The replay buffer has room for a frame (R391). -/
def canFrame (s : State) (p : Nat) : Bool := portUp s p && (getPort s p).replay.length < 512
/-- A segment frame may be sent on a channel: credit and room (R392). -/
def canSend (s : State) (p vc : Nat) : Bool := canFrame s p && 0 < (getPort s p).credits.getD vc 0

/-- Send a link-control frame; nothing on a port that cannot (R392). -/
def sendCtl (s : State) (p : Nat) (body : List Byte) : State := if canFrame s p then sendFrame s p 2 0 body else s

/-- HELLO of a port (R392). -/
def helloBody (s : State) (p : Nat) : List Byte :=
  leBytes 4 1 ++ leBytes 4 (incarnation s) ++ leBytes 1 (if portSpare s p then 1 else 0)
def sendHello (s : State) (p : Nat) : State := sendCtl s p (helloBody s p)
/-- REPLAY naming the link sequence number expected (R391). -/
def sendReplayReq (s : State) (p : Nat) : State := sendCtl s p (leBytes 2 2 ++ leBytes 2 (getPort s p).rxSeq)

/-- Send again every frame of the replay buffer from index `i` (R391). -/
def resendFrom (s : State) (p i : Nat) : State :=
  if !portUp s p then s
  else
    let fs := (getPort s p).replay.drop i
    { s with orl := { s.orl with sent := (fs.map fun f => (p, f)).reverse ++ s.orl.sent } }

/-! ## Segments on the way (R394 to R396) -/

/-- Header fields of a segment (R405). -/
def sgType (b : List Byte) : Nat := leAt b 0 1 % 16
def sgOp (b : List Byte) : Nat := bitsOf (leAt b 0 1) 6 2
def sgFirst (b : List Byte) : Bool := bitOf (leAt b 0 1) 4
def sgLast (b : List Byte) : Bool := bitOf (leAt b 0 1) 5
def sgHops (b : List Byte) : Nat := leAt b 1 1 % 32
def sgDest (b : List Byte) : Nat := leAt b 2 2 % 16384
def sgSrc (b : List Byte) : Nat := leAt b 4 2 % 16384
def sgLen (b : List Byte) : Nat := leAt b 6 2 % 1024
def sgCtx (b : List Byte) : Nat := leAt b 8 3 % 262144
def sgSeq (b : List Byte) : Nat := leAt b 0x0C 4
def sgAck (b : List Byte) : Nat := leAt b 0x10 4
def sgFaddr (b : List Byte) : Nat := leAt b 0x14 8
/-- Payload of a segment. -/
def sgPay (b : List Byte) : List Byte := (b.drop 32).take (sgLen b)
/-- The bytes that E2E_CRC covers, HOPS taken as 0. -/
def sgCover (b : List Byte) : List Byte := b.take 1 ++ leBytes 1 (leAt b 1 1 / 32 * 32) ++ ((b.take 0x1C).drop 2) ++ sgPay b
def sgCrcOk (b : List Byte) : Bool := sgLen b ≤ 576 && crc32c (sgCover b) = leAt b 0x1C 4

/-- The port that a choice names, a failed one read as its spare, and that one as its own where it failed too (R398). -/
def choicePortN : Nat → State → Nat → Nat
  | 0, _, p => p
  | n + 1, s, p => match fmFind s.orl.standIn p with | some x => choicePortN n s x | none => p
def choicePort (s : State) (p : Nat) : Nat := choicePortN 34 s p
/-- Usable choices of a destination: port and virtual channel, ascending (R394, R395). -/
def usable (s : State) (dev : Nat) : List (Nat × Nat) :=
  let e := fmGet (fun _ => 0xFFFFFFFF) s.orl.fwd dev
  (List.range 4).filterMap fun c =>
    let b := bitsOf e (8 * c) 8
    let p := choicePort s (b % 64)
    if b % 64 < 34 && portUp s p && !portSpare s p && !(getPort s p).quiescing then some (p, b / 64) else none

/-- Count a discarded segment (R396). -/
def unrouted (s : State) : State := satF s rDlvCounts fDlvCountsUnrouted 1

/-- A frame buffer of a channel of a port is free again (R392). -/
def freeBuf (s : State) (p vc : Nat) : State :=
  let q := getPort s p
  setPort s p { q with owed := q.owed.set vc (q.owed.getD vc 0 + 1) }

/-- What becomes of a through segment: sent on, discarded, or kept waiting (R395, R396). -/
def forward1 (s : State) (b : List Byte) : Option State :=
  let us := usable s (sgDest b)
  if sgHops b = 31 || us.isEmpty then some (unrouted s)
  else
    let (p, vc) := us.getD (sgSeq b % us.length) (0, 0)
    if canSend s p vc then some (sendFrame s p 1 vc (b.take 1 ++ leBytes 1 (leAt b 1 1 + 1) ++ b.drop 2)) else none

/-- Through segments that can move, in order. -/
def forwardAll : List (Nat × Nat × List Byte) → State → State
  | [], s => s
  | (p, vc, b) :: r, s =>
    match forward1 s b with
    | some s' => forwardAll r (freeBuf { s' with orl := { s'.orl with through := s'.orl.through.erase (p, vc, b) } } p vc)
    | none => forwardAll r s

/-- Unnumbered segments that can be sent, in order; one without a usable choice is discarded (R396, R406). -/
def flushOutbox : List (List Byte) → State → State
  | [], s => s
  | b :: r, s =>
    if (usable s (sgDest b)).isEmpty then flushOutbox r (unrouted { s with orl := { s.orl with outbox := s.orl.outbox.erase b } })
    else
    match (usable s (sgDest b)).find? fun u => canSend s u.1 u.2 with
    | some (p, vc) => flushOutbox r (sendFrame { s with orl := { s.orl with outbox := s.orl.outbox.erase b } } p 1 vc b)
    | none => flushOutbox r s

/-- Everything that waits for a credit moves as far as it can. -/
def pumpLinks (s : State) : State :=
  let s := forwardAll s.orl.through s
  if blockIsolated s 1 then s else flushOutbox s.orl.outbox s

/-! ## Receiving frames (R391, R392) -/

/-- LACK and CREDITS of a received frame: acknowledged frames leave the replay buffer; a port that quiesces turns spare
when it is empty (R391, R392, R399). -/
def takeAck (s : State) (p : Nat) (f : List Byte) : State :=
  let q := getPort s p
  let oldest := (q.txSeq + 65536 - q.replay.length) % 65536
  let n := (leAt f 4 2 + 65536 - oldest) % 65536
  let n := if n ≤ q.replay.length then n else 0
  let vc := leAt f 6 1 % 4
  let q := { q with
    replay := q.replay.drop n, noProg := if 0 < n then 0 else q.noProg
    credits := q.credits.set vc (min 64 (q.credits.getD vc 0 + leAt f 7 1)) }
  if q.quiescing && q.replay.isEmpty then
    setF (setPort s p { q with quiescing := false }) (rOrlPortCtl p) fOrlPortCtlRole 1
  else setPort s p q

/-- A frame is whole: its length and CRC (R390, R391). -/
def frameOk (f : List Byte) : Bool := f.length = 640 && crc32c (f.take 624) = leAt f 624 4

/-- LINK_FRAME_RECEIVE (R385, R390 to R392, R395, R396): the codeword was decoded; the frame is accepted in order or
discarded with a REPLAY. -/
def execLinkFrameReceive (port : Nat) (frame : List Byte) (s : State) : Out :=
  guardUnit (port < 34) <|
  if !portUp s port then .next s
  else
    let ft := leAt frame 0 1 % 8
    if !frameOk frame || 2 < ft then .next (sendReplayReq s port)
    else if ft = 0 then .next (pumpLinks (takeAck s port frame))
    else if leAt frame 2 2 ≠ (getPort s port).rxSeq then .next (sendReplayReq s port)
    else
      let s := takeAck s port frame
      let q := getPort s port
      let q := { q with rxSeq := (q.rxSeq + 1) % 65536 }
      if ft = 2 then .next (pumpLinks (setPort s port { q with ctl := q.ctl ++ [frame] }))
      else
        let vc := bitsOf (leAt frame 0 1) 3 2
        let b := (frame.drop 16).take 608
        if sgDest b = devNum s then .next (pumpLinks (setPort s port { q with rx := q.rx ++ [(vc, b)] }))
        else
          let s := setPort s port q
          .next (pumpLinks { s with orl := { s.orl with through := s.orl.through ++ [(port, vc, b)] } })

/-- Take the control frame at the front of a port, of type `ctype`. -/
def takeCtl (s : State) (p ctype : Nat) (k : State → List Byte → Out) : Out :=
  guardUnit (p < 34) <|
  match (getPort s p).ctl with
  | [] => .next s
  | f :: fs => if leAt f 16 1 = ctype then k (setPort s p { getPort s p with ctl := fs }) f else .next s

/-- HELLO (R393). -/
def execHello (port : Nat) (s : State) : Out :=
  takeCtl s port 1 fun s f =>
    let dev := leAt f 8 2 % 16384
    let inc := leAt f 20 4
    let st := rOrlPortStatus port
    let changed := dev ≠ getF s st fOrlPortStatusPeerDev || inc ≠ (getPort s port).peerInc
    let s := setF s st fOrlPortStatusPeerDev dev
    let s := setF s st fOrlPortStatusPeerPort (leAt f 10 1 % 64)
    let s := setPort s port { getPort s port with peerInc := inc }
    .next (if changed then raiseF s rOrlEvents fOrlEventsPeer else s)

/-- One more link replay, and one more without progress (R386, ORL_PORT_STATUS.REPLAYS). -/
def countReplay (s : State) (p : Nat) : State :=
  let s := satF s (rOrlPortStatus p) fOrlPortStatusReplays 1
  setPort s p { getPort s p with noProg := (getPort s p).noProg + 1 }

/-- REPLAY (R391): send again from the named link sequence number. -/
def execReplay (port : Nat) (s : State) : Out :=
  takeCtl s port 2 fun s f =>
    let q := getPort s port
    let oldest := (q.txSeq + 65536 - q.replay.length) % 65536
    let n := (leAt f 18 2 + 65536 - oldest) % 65536
    if n < q.replay.length then .next (resendFrom (countReplay s port) port n) else .next s

/-- QUIESCE (R392). -/
def execQuiesce (port : Nat) (s : State) : Out :=
  takeCtl s port 3 fun s _ => .next (setPort s port { getPort s port with peerQuiet := true })

/-- LINK_REPLAY_TIMEOUT (R391). -/
def execLinkReplayTimeout (port : Nat) (s : State) : Out :=
  guardUnit (port < 34) <|
  if (getPort s port).replay.isEmpty || !portUp s port then .next s else .next (resendFrom (countReplay s port) port 0)

/-- HELLO_TIMER (R392). -/
def execHelloTimer (s : State) : Out :=
  .next ((List.range 34).foldl (fun s p => if portUp s p then sendHello s p else s) s)

/-! ## Lanes and ports (R386, R397 to R399) -/

/-- The Oriel half of a port is powered (R518). -/
def orielPowered (s : State) (p : Nat) : Bool := bitOf (getF s rLntDomainStatus fLntDomainStatusPowered) (19 + p / 17)

/-- LANE_ALIGNED (R386, R392, R518): with four lanes the port is up, and says HELLO at once. -/
def execLaneAligned (port lane : Nat) (s : State) : Out :=
  guardUnit (port < 34 && lane < 8) <|
  if !orielPowered s port then .next s else
  let st := rOrlPortStatus port
  let s := setF s st fOrlPortStatusLanes (getF s st fOrlPortStatusLanes ||| 2 ^ lane)
  if portState s port = 0 && 4 ≤ lanesUp s port then
    let s := setPort s port { getPort s port with switching := false }
    .next (pumpLinks (sendHello (setPortState s port 1) port))
  else .next s

/-- Lanes of a port lose alignment; with fewer than four it is not up. -/
def loseLanes (s : State) (p mask : Nat) : State :=
  let st := rOrlPortStatus p
  let l := getF s st fOrlPortStatusLanes
  let s := setF s st fOrlPortStatusLanes (l - (l &&& mask))
  if portUp s p && lanesUp s p < 4 then setPortState s p 0 else s

/-- LANE_ALIGNMENT_LOST (R386). -/
def execLaneAlignmentLost (port lane : Nat) (s : State) : Out :=
  guardUnit (port < 34 && lane < 8) (.next (loseLanes s port (2 ^ lane)))

/-- PORT_SPARING: a spare of the same half that is up and has the same neighbour (R398). -/
def spareFor (s : State) (p : Nat) : Option Nat :=
  (List.range 34).find? fun x => x / 17 = p / 17 && x ≠ p && portSpare s x && portUp s x
    && getF s (rOrlPortStatus x) fOrlPortStatusPeerDev = getF s (rOrlPortStatus p) fOrlPortStatusPeerDev

/-- A port is failed; an active one is replaced where a spare qualifies (R386, R398). -/
def failPort (s : State) (p : Nat) : State :=
  let s := setPort (setPortState s p 2) p { getPort s p with switching := false }
  if portSpare s p then s
  else
    let s := raiseF s rOrlEvents fOrlEventsPort
    match spareFor s p with
    | some x =>
      let s := setF s (rOrlPortCtl x) fOrlPortCtlRole 0
      let s := { s with orl := { s.orl with standIn := fmPut (fmErase s.orl.standIn x) p x } }
      pumpLinks s
    | none => pumpLinks s

/-- PORT_FAILURE (R386, R398): outside a light switch, too few lanes or 16 replays in a row without progress. -/
def execPortFailure (port : Nat) (s : State) : Out :=
  guardUnit (port < 34) <|
  let q := getPort s port
  if portState s port = 2 || q.switching then .next s
  else if lanesUp s port < 4 || 16 ≤ q.noProg then .next (failPort s port)
  else .next s

/-- LIGHT_SWITCH_TIMEOUT (R386, R387). -/
def execLightSwitchTimeout (port : Nat) (s : State) : Out :=
  guardUnit (port < 34) <|
  if !(getPort s port).switching then .next s
  else if lanesUp s port < 4 then .next (failPort s port)
  else .next (setPort s port { getPort s port with switching := false })

/-- Active ports that have not failed. -/
def activePorts (s : State) : Nat := (List.range 34).countP fun p => !portSpare s p && portState s p ≠ 2

/-- PORT_ROLE_WRITE (R397, R399). -/
def execPortRoleWrite (port : Nat) (spare : Bool) (s : State) : Out :=
  guardUnit (port < 34) <| whileServed s <|
  if spare = portSpare s port then
    .next (if spare then s else setPort s port { getPort s port with quiescing := false })
  else if spare then
    let s := sendCtl s port (leBytes 4 3)
    if (getPort s port).replay.isEmpty then .next (setF s (rOrlPortCtl port) fOrlPortCtlRole 1)
    else .next (setPort s port { getPort s port with quiescing := true })
  else if 32 ≤ activePorts s then .next (raiseF s rOrlEvents fOrlEventsRefused)
  else
    let s := setF s (rOrlPortCtl port) fOrlPortCtlRole 0
    .next { s with orl := { s.orl with standIn := fmErase s.orl.standIn port } }

/-- PORT_RETRAIN (R386): a failed port trains again, and comes up spare. -/
def execPortRetrain (port : Nat) (s : State) : Out :=
  guardUnit (port < 34) <| whileServed s <|
  if portState s port ≠ 2 then .next s
  else
    let s := setF (setPortState s port 0) (rOrlPortCtl port) fOrlPortCtlRole 1
    let s := setF s (rOrlPortStatus port) fOrlPortStatusLanes 0
    .next (setPort s port { getPort s port with noProg := 0, quiescing := false })

/-! ## Laser-source modules (R387 to R389) -/

/-- Primary and secondary module of a port (R387). -/
def primaryOf (p : Nat) : Nat := p % 5
def secondaryOf (p : Nat) : Nat := (p + 1 + p / 5 % 4) % 5
def laserState (s : State) (m : Nat) : Nat := getF s (rOrlLaser m) fOrlLaserState
def setLaserState (s : State) (m v : Nat) : State := setF s (rOrlLaser m) fOrlLaserState v
/-- A module may feed ports: ready and in use. -/
def laserFeeds (s : State) (m : Nat) : Bool := laserState s m = 1 && !(getLaser s m).out
/-- The module that feeds a port now. -/
def portLight (s : State) (p : Nat) : Nat := getF s (rOrlPortStatus p) fOrlPortStatusLight

/-- Module `m` is the primary or the secondary of port `p`. -/
def lights (m p : Nat) : Bool := primaryOf p = m || secondaryOf p = m
/-- ORL_LASER.PORTS follows the ports' light. -/
def refreshLight (s : State) : State :=
  (List.range 5).foldl (fun s m =>
    setF s (rOrlLaser m) fOrlLaserPorts
      (if laserFeeds s m then (List.range 34).countP fun p => lights m p && portLight s p = m else 0)) s

/-- LIGHT_SWITCH of a port to a module: its lanes lose alignment, it is not up (R387). -/
def switchLight (s : State) (p m : Nat) : State :=
  let s := setF s (rOrlPortStatus p) fOrlPortStatusLight m
  let s := loseLanes s p 0xFF
  setPort s p { getPort s p with switching := true }

/-- Module `m` feeds again: its primary ports return to it, and its secondary ports whose primary does not feed turn to it
(R387). -/
def lightUp (s : State) (m : Nat) : State :=
  if !laserFeeds s m then refreshLight s
  else
    refreshLight ((List.range 34).foldl (fun s p =>
      if primaryOf p = m && (portLight s p ≠ m || lanesUp s p = 0) then switchLight s p m
      else if secondaryOf p = m && !laserFeeds s (primaryOf p) && portLight s p ≠ m then switchLight s p m
      else s) s)

/-- Ports fed by module `m` move to their other module where that one feeds; else they stay dark (R387). -/
def moveOff (s : State) (m : Nat) : State :=
  refreshLight ((List.range 34).foldl (fun s p =>
    if lights m p && portLight s p = m then
      let o := if primaryOf p = m then secondaryOf p else primaryOf p
      if laserFeeds s o then switchLight s p o else loseLanes s p 0xFF
    else s) s)

/-- A ready module stops being ready: the event, LS_EN low, out of use until RESTORE (R389). -/
def laserDown (s : State) (m st : Nat) : State :=
  let was := laserState s m = 1
  let s := setLaser (setLaserState s m st) m { getLaser s m with en := false, out := (getLaser s m).out || was }
  if was then moveOff (raiseF s rOrlEvents fOrlEventsLaser) m else s

/-- LASER_FAULT (R389). -/
def execLaserFault (m : Nat) (s : State) : Out :=
  guardUnit (m < 5) <|
  let s := setLaser s m { getLaser s m with fault := true }
  if laserState s m = 1 then .next (laserDown s m 2) else .next s

/-- LASER_PRESENCE_CHANGE (R389): removal, or insertion with what its identity and power show; a module that was in use
before waits for RESTORE. -/
def execLaserPresenceChange (m : Nat) (present ok : Bool) (s : State) : Out :=
  guardUnit (m < 5) <|
  if !present then
    let s := laserDown s m 0
    .next (setLaser s m { getLaser s m with present := false, fault := false })
  else
    let s := setLaser s m { getLaser s m with present := true, en := true, fault := false }
    .next (lightUp (setLaserState s m (if ok then 1 else 2)) m)

/-- LASER_REENABLE_TIMER (R389): LS_EN high again, 1 s after a failure. -/
def execLaserReenableTimer (m : Nat) (s : State) : Out :=
  guardUnit (m < 5) <|
  if (getLaser s m).present && laserState s m = 2 then .next (setLaser s m { getLaser s m with en := true }) else .next s

/-- LASER_POLL (R388, R389): `ok` where no fault is asserted and identity and power lie within limits. -/
def execLaserPoll (m : Nat) (ok : Bool) (s : State) : Out :=
  guardUnit (m < 5) <|
  let l := getLaser s m
  if laserState s m = 1 && !ok then .next (laserDown s m 2)
  else if (laserState s m = 0 || laserState s m = 2) && l.present && l.en then
    if ok then .next (lightUp (setLaser (setLaserState s m 1) m { l with fault := false }) m) else .next (setLaserState s m 2)
  else .next s

/-- LASER_RELEASE (R389): only while every other module is ready. -/
def execLaserRelease (m : Nat) (s : State) : Out :=
  guardUnit (m < 5) <| whileServed s <|
  if !((List.range 5).all fun x => x = m || laserState s x = 1) then .next (raiseF s rOrlEvents fOrlEventsRefused)
  else
    let s := setLaser (setLaserState s m 3) m { getLaser s m with en := false, out := true }
    .next (moveOff s m)

/-- LASER_RESTORE (R387, R389): a ready module feeds its primary ports again. -/
def execLaserRestore (m : Nat) (s : State) : Out :=
  guardUnit (m < 5) <| whileServed s <|
  if laserState s m ≠ 1 then .next s
  else
    .next (lightUp (setLaser s m { getLaser s m with out := false }) m)

end Sys2Proof.Machine
end

