-- ==== Sys2Proof/Machine/Ring.lean ====
section
/-! DEFINITION. Rings, shards and owners (R343, R345), and how a step commit ends without a record (R377). -/

namespace Sys2Proof.Machine

/-! ## Rings (R343) -/

/-- A ring from its record. -/
def ringOf (e : List Byte) : Ring :=
  let k := leAt e 12 1
  { num := leAt e 1 1, n := leAt e 2 2, self := leAt e 4 2, second := leAt e 6 2, gen := leAt e 8 4
    reduce := bitOf k 0, rotate := bitOf k 1, commit := bitOf k 2 }
/-- A member from its record. -/
def memberOf (e : List Byte) : Member := { dev := leAt e 4 2 % 16384, lost := bitOf (leAt e 6 1) 0, ctx := leAt e 8 4 }
/-- Rings of a RING section, in order: each ring record is followed by its members. -/
def ringsOfEntries (es : List (List Byte)) : List Ring :=
  (es.foldl (fun (acc : List Ring) e =>
    if leAt e 0 1 = 1 then ringOf e :: acc
    else
      match acc with
      | g :: gs => { g with mem := g.mem ++ [memberOf e] } :: gs
      | [] => []) []).reverse
/-- Entries of a RING section. -/
def ringEntries (sec : List Byte) : List (List Byte) := (List.range (secCount sec)).map (secEntry sec 16)
/-- Rings of a hall. -/
def hallRings (st : FMap (List Byte)) (h : Nat) : List Ring := ringsOfEntries (ringEntries (secOf st tyRING h 0))
/-- A ring of a hall by number; 0 names none. -/
def ringAt (st : FMap (List Byte)) (h n : Nat) : Option Ring :=
  if n = 0 then none else (hallRings st h).find? fun g => g.num = n
/-- The COMMIT ring of a hall. -/
def commitRing (st : FMap (List Byte)) (h : Nat) : Option Ring := (hallRings st h).find? (·.commit)

/-- A position is LOST. -/
def Ring.lost (g : Ring) (p : Nat) : Bool := match g.mem[p]? with | some m => m.lost | none => true
/-- Delivery context toward a position. -/
def Ring.ctx (g : Ring) (p : Nat) : Nat := match g.mem[p]? with | some m => m.ctx | none => 0
/-- Positions that are not lost, ascending. -/
def Ring.live (g : Ring) : List Nat := (List.range g.n).filter fun p => !g.lost p
/-- The next position after `p` that is not lost, and the one before it, round the ring. -/
def Ring.next (g : Ring) (p : Nat) : Nat :=
  (((List.range g.n).map fun i => (p + 1 + i) % g.n).find? fun q => !g.lost q).getD p
def Ring.prev (g : Ring) (p : Nat) : Nat :=
  (((List.range g.n).map fun i => (p + g.n - 1 - i) % g.n).find? fun q => !g.lost q).getD p
/-- The lead position (R373). -/
def Ring.lead (g : Ring) : Nat := g.live.headD 0

/-- Acting owner of shard `j`, and its second owner (R345). -/
def Ring.owner (g : Ring) (j : Nat) : Nat := if g.lost j then (j + g.second) % g.n else j
def Ring.backer (g : Ring) (j : Nat) : Option Nat :=
  let q := (j + g.second) % g.n
  if g.second ≠ 0 && !g.lost j && !g.lost q then some q else none
/-- Blocks (or groups) of shard `j` of `b`: first and end (R345). -/
def Ring.shard (g : Ring) (b j : Nat) : Nat × Nat := (j * b / g.n, (j + 1) * b / g.n)
/-- Shards that position `p` acts for, ascending. -/
def Ring.acts (g : Ring) (p : Nat) : List Nat := (List.range g.n).filter fun j => g.owner j = p
/-- Position that sends the final blocks of shard `j` to its owner (R357). -/
def Ring.last (g : Ring) (j : Nat) : Nat := g.prev (g.owner j)

/-! ## A hall's step -/

def getClo (s : State) (h : Nat) : Clo := (getH s h).clo
def setClo (s : State) (h : Nat) (v : Clo) : State := setH s h { getH s h with clo := v }
def hallEpoch (s : State) (h : Nat) : Nat := getF s (rClsHallEpoch h) fClsHallEpochEpoch
def findColl (s : State) (h id : Nat) : Option Coll := (getClo s h).colls.find? fun c => c.id = id
def updColl (s : State) (h id : Nat) (f : Coll → Coll) : State :=
  let v := getClo s h
  setClo s h { v with colls := v.colls.map fun c => if c.id = id then f c else c }

/-- COLL_IDs of a commit table (R372). -/
def tableIds (b : List Byte) : List Nat := (List.range (b.length / 8)).map fun t => leAt b (8 * t) 4
/-- The member is ready for a commit table (R373). -/
def commitReady (s : State) (h : Nat) (table : List Byte) : Bool :=
  let v := getClo s h
  (tableIds table).all fun id =>
    (v.colls.any fun c => c.id = id && c.st = 1) && (v.upds.filter fun u => u.coll = id).all fun u => u.st = 1

/-- Dispatched STEP_COMMITs of a hall. -/
def hallCommits (s : State) (h : Nat) : List (CmdRef × Cmd) :=
  (scopeCmds s h).filter fun p => p.2.st = .dispatched && p.2.opcode = 0x22
/-- The epoch a STEP_COMMIT names, its ring, RESUME. -/
def scEpoch (c : Cmd) : Nat := bitsOf c.o0 0 32
def scRing (c : Cmd) : Nat := bitsOf c.o0 32 8
def scResume (c : Cmd) : Bool := bitOf c.o0 40

/-- A STEP_COMMIT ends because members cannot be reached (R377, R346): a ready member that has applied no record is in
doubt. -/
def commitUnreached (s : State) (r : CmdRef) (c : Cmd) : State :=
  let h := r.scope
  let s := endCmd s r 0x30 0 0 0
  if commitReady s h c.job.rec1 && hallEpoch s h = scEpoch c then
    raiseF (setF s (rClsHallCommit h) fClsHallCommitState 3) (rClsHallEvents h) fClsHallEventsInDoubt
  else setF s (rClsHallCommit h) fClsHallCommitState 0

/-- Rotating attention commands of a hall (R246). -/
def ringAttns (s : State) (h : Nat) : List (CmdRef × Cmd) :=
  (scopeCmds s h).filter fun p => p.2.st = .dispatched && p.2.opcode = 0x03 && leAt p.2.job.rec1 0x32 1 ≠ 0

/-- Context `k` of hall `h` leads to a neighbour of this device on a ring. -/
def Ring.touches (g : Ring) (k : Nat) : Bool :=
  k ≠ 0 && (g.ctx (g.next g.self) = k || g.ctx (g.prev g.self) = k)

/-- Commands that end because a context to a neighbour is evicted, though they have no segment on it: STEP_COMMITs and
rotating attention (R249, R377). -/
def ringEvicted (s : State) (h k : Nat) : State :=
  let s := (hallCommits s h).foldl (fun s p =>
    match ringAt s.run h (scRing p.2) with
    | some g => if g.touches k then commitUnreached s p.1 p.2 else s
    | none => s) s
  (ringAttns s h).foldl (fun s p =>
    match ringAt s.run h (leAt p.2.job.rec1 0x32 1) with
    | some g => if g.touches k then dropItems (endCmd s p.1 0x30 0 0 0) p.1 else s
    | none => s) s

end Sys2Proof.Machine
end

