-- ==== Sys2Proof/Machine/Context.lean ====
section
/-! DEFINITION. Delivery contexts (R400 to R413): entries, operations, segments accepted and sent, acknowledgement,
eviction. -/

namespace Sys2Proof.Machine

def getCtx (s : State) (k : Nat) : Ctx := fmGet (fun _ => {}) s.orl.ctxs k
def setCtx (s : State) (k : Nat) (v : Ctx) : State :=
  { s with orl := { s.orl with ctxs := fmSet (fun _ => {}) s.orl.ctxs k v } }
/-- A context number exists. -/
def ctxNum (k : Nat) : Bool := k < 262144

/-- `a` lies before `b`, modulo 2^32 (R401). -/
def serialLt (a b : Nat) : Bool := let d := (b + 2 ^ 32 - a) % 2 ^ 32; 1 ≤ d && d < 2 ^ 31
/-- Distance from `a` up to `b`. -/
def serialDist (a b : Nat) : Nat := (b + 2 ^ 32 - a) % 2 ^ 32

/-! ## Entries (R400) -/

/-- The 64 bytes of an entry. -/
def ctxBytes (c : Ctx) : List Byte :=
  leBytes 1 (c.st + 16 * c.hall) ++ zeros 1 ++ leBytes 2 c.peer ++ leBytes 4 c.peerCtx ++ leBytes 4 c.localInc
    ++ leBytes 4 c.peerInc ++ leBytes 4 c.txNext ++ leBytes 4 c.txAcked ++ leBytes 4 c.rxNext ++ leBytes 4 c.window
    ++ leBytes 2 c.grant0 ++ leBytes 2 c.grant1
    ++ leBytes 1 ((if c.g0w then 1 else 0) + (if c.g1w then 2 else 0) + (if c.gallery then 4 else 0)) ++ zeros 3
    ++ leBytes 4 c.retx ++ leBytes 4 c.dups ++ leBytes 1 c.cause ++ zeros 15

/-- Bytes in the DLV_CTX_WIN registers. -/
def winBytes (s : State) : List Byte := (List.range 8).flatMap fun k => leBytes 8 (regGet s (rDlvCtxWin k))
/-- An entry into the DLV_CTX_WIN registers. -/
def setWin (s : State) (b : List Byte) : State :=
  (List.range 8).foldl (fun s k => regSet s (rDlvCtxWin k) (leAt b (8 * k) 8)) s

/-- GRANT names no region, or one inside the windows of the hall, with write access where asked (R402). -/
def grantOk (s : State) (h g : Nat) (wr : Bool) : Bool :=
  g = 0xFFFF || (mmWindows (memmap s)).any fun (wh, ww, i) =>
    wh = h && i = g && (ww || !wr) && (match (regions s)[i]? with | some r => 0 < r.len | none => false)

/-- The software fields of an entry in the window, if all lie in their ranges (R400, R402). -/
def ctxFromWin (s : State) : Option Ctx :=
  let b := winBytes s
  let hall := leAt b 0 1 / 16
  let fl := leAt b 0x24 1
  let c : Ctx := { st := 1, hall := hall, peer := leAt b 2 2 % 16384, peerCtx := leAt b 4 3 % 262144
                   localInc := incarnation s, window := leAt b 0x1C 2 % 8192, grant0 := leAt b 0x20 2
                   grant1 := leAt b 0x22 2, g0w := bitOf fl 0, g1w := bitOf fl 1, gallery := bitOf fl 2 }
  let resv := bitOf (leAt b 0 1) 3 = false && leAt b 1 1 = 0 && leAt b 2 2 < 16384 && leAt b 4 4 < 262144
    && leAt b 0x1C 4 < 8192 && fl < 8 && leAt b 0x25 3 = 0
  if resv && (hall < 8 || hall = 15) && 16 ≤ c.window && c.window ≤ 4096 && grantOk s hall c.grant0 c.g0w
      && grantOk s hall c.grant1 c.g1w then some c else none

/-! ## Segments (R405, R406) -/

/-- A whole segment of 608 bytes. -/
def segBytes (s : State) (c : Ctx) (stype op : Nat) (first last : Bool) (seq faddr : Nat) (pay : List Byte) : List Byte :=
  let h := leBytes 1 (stype + (if first then 16 else 0) + (if last then 32 else 0) + 64 * op) ++ zeros 1 ++ leBytes 2 c.peer
    ++ leBytes 2 (devNum s) ++ leBytes 2 pay.length ++ leBytes 4 c.peerCtx ++ leBytes 4 seq ++ leBytes 4 c.rxNext
    ++ leBytes 8 faddr
  h ++ leBytes 4 (crc32c (h ++ pay)) ++ pay ++ zeros (576 - pay.length)

/-- Send a segment without a sequence number, or keep it until a credit comes (R406). -/
def sendPlain (s : State) (k stype faddr : Nat) : State :=
  let b := segBytes s (getCtx s k) stype 0 false false 0 faddr []
  pumpLinks { s with orl := { s.orl with outbox := s.orl.outbox ++ [b] } }

def sendAck (s : State) (k : Nat) : State := sendPlain (setCtx s k { getCtx s k with acksDue := 0 }) k 1 0
def sendOpen (s : State) (k : Nat) : State := sendPlain s k 2 (incarnation s)
def sendOpenReply (s : State) (k : Nat) : State := sendPlain s k 3 (incarnation s)
def sendClose (s : State) (k : Nat) : State := sendPlain s k 4 0

/-- Bytes of a hall's replay log in use: 32 and the payload of each logged segment (R407). -/
def logUsed (s : State) (h : Nat) : Nat :=
  (s.orl.ctxs.map fun p => ((p.2.out.filter fun g => g.log = some h).map fun g => 32 + g.len).foldl (· + ·) 0).foldl (· + ·) 0
/-- The hall's replay log of 64 MiB has room for `n` bytes. -/
def logRoom (s : State) (h n : Nat) : Bool := logUsed s h + n ≤ 0x4000000

/-- Accept segments on a context: the next sequence numbers in order (R407). -/
def accept (s : State) (k : Nat) (gs : List Seg) : State :=
  let c := getCtx s k
  let gs := gs.zipIdx.map fun p => { p.1 with seq := (c.txNext + p.2) % 2 ^ 32 }
  setCtx s k { c with txNext := (c.txNext + gs.length) % 2 ^ 32, out := c.out ++ gs }

/-- Cut `n` bytes into payloads of at most 576: offset and length. -/
def cut576 (n : Nat) : List (Nat × Nat) := (List.range (ceilDiv n 576)).map fun i => (576 * i, min 576 (n - 576 * i))

/-- A message from held memory, as OP 0 segments (R405, R407): parts are address and length, sent in order. -/
def heldMessage (cmd : Option CmdRef) (a n : Nat) : List Seg :=
  (cut576 n).map fun (o, l) =>
    { op := 0, first := o = 0, last := o + l = n, len := l, src := some (a + o), cmd := cmd }
/-- A logged message (R407). -/
def loggedMessage (cmd : Option CmdRef) (h : Nat) (data : List Byte) : List Seg :=
  (cut576 data.length).map fun (o, l) =>
    { op := 0, first := o = 0, last := o + l = data.length, len := l, data := (data.drop o).take l, cmd := cmd, log := some h }

/-- Log a message on a context and accept it; none while the log is full, which sets LOG_FULL (R407). -/
def logMessage (s : State) (k : Nat) (cmd : Option CmdRef) (h : Nat) (data : List Byte) : Option State :=
  let gs := loggedMessage cmd h data
  if logRoom s h ((gs.map fun g => 32 + g.len).foldl (· + ·) 0) then some (accept s k gs) else none

/-- Change one outstanding segment. -/
def updSeg (s : State) (k seq : Nat) (f : Seg → Seg) : State :=
  let c := getCtx s k
  setCtx s k { c with out := c.out.map fun g => if g.seq = seq then f g else g }

/-- Every segment of a command that is not yet sent becomes a void (R409). -/
def voidCmd (s : State) (r : CmdRef) : State :=
  { s with orl := { s.orl with ctxs := s.orl.ctxs.map fun p =>
    (p.1, { p.2 with
      out := p.2.out.map fun g =>
        if g.cmd = some r && !g.sent then { g with stype := 5, op := 0, first := false, last := false, faddr := 0, len := 0, src := none, pad := 0, data := [] }
        else g
      pulls := p.2.pulls }) } }

/-- A command has segments that are not acknowledged (R409). -/
def cmdUnacked (s : State) (r : CmdRef) : Bool := s.orl.ctxs.any fun p => p.2.out.any fun g => g.cmd = some r
/-- A command has reads under way. -/
def cmdPulls (s : State) (r : CmdRef) : Bool := s.orl.ctxs.any fun p => p.2.pulls.any fun q => q.cmd = r

/-- A command that uses contexts fails: it ends, and what it has not sent is sent as voids (R409, R546). -/
def failRemote (s : State) (r : CmdRef) (e : ReadErr) (addr : Nat) : State :=
  let n := match findCmd s r with | some c => if c.opcode = 8 || c.opcode = 9 then c.job.next else 0 | none => 0
  let s := voidCmd (failCmd s r e addr) r
  updCmd s r fun c => if c.opcode = 8 || c.opcode = 9 then { c with extent := n } else c

/-- Payload of an outstanding segment now. -/
def segPay (s : State) (g : Seg) : List Byte :=
  match g.src with
  | some a => g.data ++ memBytes s a (g.len - g.data.length - g.pad) ++ zeros g.pad
  | none => g.data

/-- The next segment of a context to send: the first unsent one inside the window (R409). -/
def nextSeg (c : Ctx) : Option Seg := c.out.find? fun g => !g.sent && serialDist c.txAcked g.seq < c.window

/-- Send one segment on a usable choice in turn, as far as credit allows (R396, R409). A held source that is lost fails its
command; the number goes out as a void. -/
def sendSeg (s : State) (k : Nat) (g : Seg) : State :=
  let c := getCtx s k
  let us := usable s c.peer
  let stuck := match g.src with | some a => readStuck s a (g.len - g.data.length - g.pad) | none => none
  match stuck, g.cmd with
  | some (some (e, a)), some r => failRemote s r e a
  | some none, _ => s
  | _, _ =>
    if blockIsolated s 1 then s
    else if us.isEmpty then updSeg (unrouted s) k g.seq fun g => { g with sent := true }
    else
      let (p, vc) := us.getD (c.choice % us.length) (0, 0)
      if canSend s p vc then
        let b := segBytes s c g.stype g.op g.first g.last g.seq g.faddr (segPay s g)
        let s := setCtx (sendFrame s p 1 vc b) k { c with choice := (c.choice + 1) % us.length, acksDue := 0 }
        updSeg s k g.seq fun g => { g with sent := true }
      else s

/-- Send again every outstanding segment that was sent. -/
def resendAll (k : Nat) : List Seg → State → State
  | [], s => s
  | g :: gs, s => resendAll k gs (sendSeg s k g)

/-- RETRANSMIT_TIMEOUT (R412). -/
def execRetransmitTimeout (ctx : Nat) (s : State) : Out :=
  guardUnit (ctxNum ctx) <|
  let c := getCtx s ctx
  let gs := c.out.filter (·.sent)
  if (c.st ≠ 2 && c.st ≠ 3) || gs.isEmpty then .next s
  else
    let s := setCtx s ctx { c with
      retx := (c.retx + gs.length) % 2 ^ 32, out := c.out.map fun g => { g with sent := false } }
    .next (resendAll ctx (gs.map fun g => { g with sent := false }) s)

/-! ## Acknowledgement and eviction (R409, R412, R413) -/

/-- TX_ACKED moves to `a` where it lies after it and not beyond TX_NEXT (R409). -/
def ackTo (s : State) (k a : Nat) : State :=
  let c := getCtx s k
  if serialLt c.txAcked a && !serialLt c.txNext a then
    let (gone, left) := c.out.partition fun g => serialLt g.seq a
    setCtx s k { c with txAcked := a, out := left, past := (gone.filterMap (fun g => g.cmd.map fun r => (g.seq, r)) ++ c.past).take 4096 }
  else s

/-- Commands with unacknowledged segments or reads on a context. -/
def ctxCmds (c : Ctx) : List CmdRef := (c.out.filterMap (·.cmd) ++ c.pulls.map (·.cmd)).eraseDups

/-- Evict a context (R412, R413): its commands end with delivery-failed, its segments and its reorder contents go; so do
the commands that cannot do without the member behind it (R249, R377). -/
def evict (s : State) (k cause : Nat) : State :=
  let c := getCtx s k
  let rs := ctxCmds c
  let s := ringEvicted s c.hall k
  let s := setCtx s k { c with st := 4, cause := cause, out := [], reorder := [], msg := [], whole := none, parts := 0, pulls := []
                               acksDue := 0, otherInc := false, closeSent := false, peerClosed := false, past := [] }
  let s := raiseF s rDlvEvents fDlvEventsEvicted
  rs.foldl (fun s r => failRemote s r .delivery 0) s

/-- A closing context becomes free (R404); commands whose segments were not acknowledged fail, and those that cannot do
without the member behind it (R249, R377). -/
def freeCtx (s : State) (k : Nat) : State :=
  let c := getCtx s k
  let rs := ctxCmds c
  let s := ringEvicted s c.hall k
  let s := setCtx s k { c with
    st := 0, out := [], reorder := [], msg := [], whole := none, parts := 0, pulls := [], acksDue := 0, otherInc := false
    closeSent := false, peerClosed := false, past := [] }
  rs.foldl (fun s r => failRemote s r .delivery 0) s

/-- SEGMENT_SEND (R396, R401, R404, R406, R409): the next segment inside the window; the CLOSE of a closing context that
has sent every accepted segment. -/
def execSegmentSend (ctx : Nat) (s : State) : Out :=
  guardUnit (ctxNum ctx) <|
  let c := getCtx s ctx
  if c.st ≠ 2 && c.st ≠ 3 then .next s
  else
    match nextSeg c with
    | some g => .next (sendSeg s ctx g)
    | none =>
      if c.st = 3 && !c.closeSent && c.out.all (·.sent) then
        let s := sendClose (setCtx s ctx { c with closeSent := true }) ctx
        .next (if c.peerClosed then freeCtx s ctx else s)
      else .next s

/-- EVICTION_TIMEOUT (R404, R412, R413). -/
def execEvictionTimeout (ctx : Nat) (s : State) : Out :=
  guardUnit (ctxNum ctx) <|
  let c := getCtx s ctx
  if c.st = 1 || ((c.st = 2 || c.st = 3) && c.out.any (·.sent)) || (c.st = 3 && c.closeSent) then .next (evict s ctx 1)
  else .next s

/-- ACK_DELAY_EXPIRY (R411). -/
def execAckDelayExpiry (ctx : Nat) (s : State) : Out :=
  guardUnit (ctxNum ctx) <|
  let c := getCtx s ctx
  if c.st = 2 && 0 < c.acksDue then .next (sendAck s ctx) else .next s

/-- OPEN_RESEND_TIMER (R402). -/
def execOpenResendTimer (ctx : Nat) (s : State) : Out :=
  guardUnit (ctxNum ctx) <|
  if (getCtx s ctx).st = 1 then .next (sendOpen s ctx) else .next s

/-! ## Operations (R400, R402, R404, R412) -/

/-- A discarded operation. -/
def badOp (s : State) : State := raiseF s rDlvEvents fDlvEventsBadOp
/-- The context that DLV_CTX_CTL names. -/
def ctxIndex (s : State) : Nat := getF s rDlvCtxCtl fDlvCtxCtlIndex

/-- CONTEXT_READ (R400). -/
def execContextRead (s : State) : Out := whileServed s <| .next (setWin s (ctxBytes (getCtx s (ctxIndex s))))

/-- CONTEXT_OPEN (R400, R402). -/
def execContextOpen (s : State) : Out :=
  whileServed s <|
  let k := ctxIndex s
  match ctxFromWin s with
  | some c => if k = 0 || (getCtx s k).st ≠ 0 then .next (badOp s) else .next (sendOpen (setCtx s k c) k)
  | none => .next (badOp s)

/-- CONTEXT_CLOSE (R404). -/
def execContextClose (s : State) : Out :=
  whileServed s <|
  let k := ctxIndex s
  let c := getCtx s k
  if c.st = 2 then .next (setCtx s k { c with st := 3, closeSent := false }) else .next (badOp s)

/-- CONTEXT_EVICT (R412). -/
def execContextEvict (s : State) : Out :=
  whileServed s <|
  let k := ctxIndex s
  let c := getCtx s k
  if c.st = 1 || c.st = 2 || c.st = 3 then .next (evict s k 4) else .next (badOp s)

/-- CONTEXT_FREE (R404). -/
def execContextFree (s : State) : Out :=
  whileServed s <|
  let k := ctxIndex s
  let c := getCtx s k
  if c.st = 4 then .next (setCtx s k { c with st := 0 }) else .next (badOp s)

/-- DEVICE_NUMBER_WRITE (R403, ORL_DEVICE.DEVICE): refused while any context is not free. -/
def execDeviceNumberWrite (dev : Nat) (s : State) : Out :=
  whileServed s <|
  if s.orl.ctxs.any fun p => p.2.st ≠ 0 then .next (raiseF s rOrlEvents fOrlEventsRefused)
  else .next (setF s rOrlDevice fOrlDeviceDevice dev)

/-! ## Receiving (R410) -/

/-- Segments that the reorder store of 4 MiB holds, in units of 608 bytes. -/
def reorderUsed (s : State) : Nat := (s.orl.ctxs.map fun p => p.2.reorder.length).foldl (· + ·) 0
def reorderRoom : Nat := 0x400000 / 608

/-- Take the segment at the front of a port, of type `stype`; its buffer is free again (R392). -/
def takeSeg (s : State) (p stype : Nat) (k : State → Nat → List Byte → Out) : Out :=
  guardUnit (p < 34) <|
  if blockIsolated s 1 then .next s
  else
  match (getPort s p).rx with
  | [] => .next s
  | (vc, b) :: r =>
    if sgType b = stype then k (freeBuf (setPort s p { getPort s p with rx := r }) p vc) (sgCtx b) b else .next s

/-- Count a discarded segment (R410). -/
def badSeg (s : State) : State := satF s rDlvCounts fDlvCountsBadSeg 1

/-- A segment from the context's peer after an OPEN with another incarnation evicts the context (R403). -/
def staleInc (c : Ctx) (b : List Byte) : Bool := c.st = 2 && c.otherInc && sgSrc b = c.peer

/-- Number of the segment whose turn it is: RX_NEXT, beyond what a reduction message has brought so far (R355, R410). -/
def Ctx.due (c : Ctx) : Nat := (c.rxNext + c.parts) % 2 ^ 32

/-- The delivery of the segment whose turn it is is complete, and with it that of the segments before it: RX_NEXT, and an
ack once 16 are due (R355, R410, R411). -/
def delivered (s : State) (k : Nat) : State :=
  let c := getCtx s k
  let n := c.acksDue + c.parts + 1
  let s := setCtx s k { c with rxNext := (c.due + 1) % 2 ^ 32, parts := 0, acksDue := n }
  if 16 ≤ n then sendAck s k else s

/-- Accept a reject segment naming a refused sequence number and a code (R411): it is sent as a logged segment. -/
def rejectSeg (s : State) (k seq code : Nat) : State :=
  accept s k [{ stype := 6, faddr := seq + 2 ^ 32 * code }]

/-- A class and address are admitted to a context for an access (R256, R411). -/
def grantAdmits (s : State) (c : Ctx) (fa n : Nat) (wr : Bool) : Bool :=
  let a := fa % 2 ^ 48
  let inRegion (g : Nat) : Bool := match (regions s)[g]? with | some r => g ≠ 0xFFFF && r.holds a n | none => false
  fa / 2 ^ 50 = devNum s &&
    match bitsOf fa 48 2 with
    | 0 => (inRegion c.grant0 && (!wr || c.g0w)) || (inRegion c.grant1 && (!wr || c.g1w))
    | 1 => (regions s).any fun r => r.pool && r.holds a n
    | 2 => wr && c.gallery && c.hall < 8 && inExplicit s c.hall a n
    | _ => false

/-- Serve a write segment (R411); none while its extent is not zeroed (R269). -/
def serveWrite (s : State) (k : Nat) (b : List Byte) : Option State :=
  let c := getCtx s k
  let a := sgFaddr b % 2 ^ 48
  if !grantAdmits s c (sgFaddr b) (sgLen b) true then some (rejectSeg s k (sgSeq b) 0x11)
  else if unzeroed s a (sgLen b) then none
  else
    match writeGone s a (sgLen b) with
    | some (e, x) => some (rejectSeg (recordErr s e x) k (sgSeq b) (errCode e))
    | none => some (store s a (sgPay b))

/-- Serve a read request: its replies are accepted on the context, in order (R405, R411). -/
def serveRead (s : State) (k : Nat) (b : List Byte) : Option State :=
  let c := getCtx s k
  let a := sgFaddr b % 2 ^ 48
  let n := leAt (sgPay b) 0 8
  if !(64 ≤ n && n ≤ 65536 && n % 64 = 0 && grantAdmits s c (sgFaddr b) n false) then some (rejectSeg s k (sgSeq b) 0x11)
  else if unzeroed s a n then none
  else
    match goneIn s a n with
    | some (e, x) => some (rejectSeg (recordErr s e x) k (sgSeq b) (errCode e))
    | none =>
      some (accept s k
        ((cut576 n).map fun (o, l) => { op := 3, first := o = 0, last := o + l = n, len := l, src := some (a + o) }))

end Sys2Proof.Machine
end

