-- ==== Sys2Proof/Machine/Transfer.lean ====
section
/-! DEFINITION. COPY and FILL between tiers and peers (R26, R254 to R256, R277, R278, R282, R339, R401, R405 to R411),
pool leases (R415). -/

namespace Sys2Proof.Machine

/-- Fields of COPY and FILL (R476). -/
def cpLen (c : Cmd) : Nat := bitsOf c.o2 0 40
def cpRemote (c : Cmd) : Nat := bitsOf c.o3 0 2
def cpDst (c : Cmd) : Nat := bitsOf c.o1 0 48
def cpCoded (c : Cmd) : Bool := c.opcode = 0x09 && bitOf c.o2 40
def cpAll (c : Cmd) : Bool := c.opcode = 0x09 && bitOf c.o1 48

/-- Destinations of a copy or fill in this device: for every flight, the same offset in each working flight of the hall
(R277, R550). -/
def cpDsts (s : State) (h : Nat) (c : Cmd) : List Nat :=
  if cpAll c then (workingFlights s h).map fun f => galleryBase f + cpDst c % 0x1000000 else [cpDst c]

/-! ## Contexts of a remote copy (R401, R415) -/

/-- Contexts of a lease record that are not 0. -/
def leaseCtxs (b : List Byte) : List Nat := ((List.range 4).map fun i => leAt b (24 + 4 * i) 4).filter (· ≠ 0)

/-- The fields of a lease record: PEER, a base of class 1 at that peer, reserved bytes zero (R4, R415). -/
def leaseForm (b : List Byte) : Bool :=
  let peer := leAt b 0 2
  peer < 16384 && leAt b 2 6 = 0 && leAt b 20 4 = 0 && leAt b 40 24 = 0 && bitsOf (leAt b 8 8) 48 2 = 1
    && leAt b 8 8 / 2 ^ 50 = peer
/-- The same, with every named context open for the hall with the record's peer. -/
def leaseOk (s : State) (h : Nat) (b : List Byte) : Bool :=
  leaseForm b && (leaseCtxs b).all fun k =>
    ctxNum k && (getCtx s k).st = 2 && (getCtx s k).hall = h && (getCtx s k).peer = leAt b 0 2

/-- Bytes of the remote side lie inside the lease that a copy names; a copy on a named context has none (check 4 of R329). -/
def leaseHolds (s : State) (c : Cmd) (a n : Nat) : Bool :=
  !bitOf c.o4 63 ||
    (let b := memBytes s (bitsOf c.o4 0 48) 64
     within a n (leAt b 8 8 % 2 ^ 48) (leAt b 8 8 % 2 ^ 48 + leAt b 16 4 * 0x100000))

/-- Contexts a copy uses, and the fabric address of byte 0 of its remote side: class 0 or 2 on a named context, class 1
inside the lease (R256, R415); else the code. -/
def remotePath (s : State) (h : Nat) (c : Cmd) (a n : Nat) (wr : Bool) : Except Nat (List Nat × Nat) :=
  let open' (k peer : Nat) (same : Bool) : Bool :=
    let x := getCtx s k
    x.st = 2 && x.hall = h && !blockIsolated s 1 && (!same || x.peer = peer)
  if bitOf c.o4 63 then
    let rec' := bitsOf c.o4 0 48
    if !inWindow s h false rec' 64 then .error 0x11
    else
      let b := memBytes s rec' 64
      let ks := leaseCtxs b
      let base := leAt b 8 8
      if !leaseForm b then .error 0x10
      else if ks.isEmpty || !ks.all (fun k => open' k (leAt b 0 2) true) then .error 0x30
      else if !within a n (base % 2 ^ 48) (base % 2 ^ 48 + leAt b 16 4 * 0x100000) then .error 0x11
      else .ok (ks, base / 2 ^ 48 * 2 ^ 48 + a)
  else
    let k := bitsOf c.o4 0 18
    let cls := if wr && overlap a n 0x020000000000 0x10000000 then 2 else 0
    if open' k 0 false then .ok ([k], (getCtx s k).peer * 2 ^ 50 + cls * 2 ^ 48 + a) else .error 0x30

/-- Accept the write segments of a remote copy on its first context (R405, R407). -/
def acceptWrites (s : State) (r : CmdRef) (k src fa n : Nat) : State :=
  accept s k ((cut576 n).map fun (o, l) =>
    { op := 1, first := o = 0, last := o + l = n, faddr := fa + o, len := l, src := some (src + o), cmd := some r })

/-- Accept read requests for bytes `[o, o + n)` of a copy, at most 65,536 bytes each, spread over its contexts in turn
(R282, R405, R407). -/
def acceptReads (s : State) (r : CmdRef) (ks : List Nat) (fa o n : Nat) : State :=
  (List.range (ceilDiv n 65536)).foldl (fun s i =>
    let k := ks.getD (i % ks.length) 0
    let l := min 65536 (n - 65536 * i)
    let s := accept s k [{ op := 2, first := true, last := true, faddr := fa + o + 65536 * i, len := 8, data := leBytes 8 l, cmd := some r }]
    let c := getCtx s k
    setCtx s k { c with pulls := c.pulls ++ [{ cmd := r, off := o + 65536 * i, left := l }] }) s

/-! ## The local course -/

/-- One 64-byte unit of a plain copy to its destinations. -/
def copyUnit (h src : Nat) (dsts : List Nat) (i : Nat) (s : State) : Except Stuck State :=
  match moverReads s h (src + 64 * i) 64 with
  | .error e => .error e
  | .ok _ =>
    match dsts.foldlM (fun _ d => moverWrites s h (d + 64 * i) 64) () with
    | .error e => .error e
    | .ok _ => .ok (dsts.foldl (fun s d => storeCopy s (src + 64 * i) (d + 64 * i) 64) s)

/-- Tiles of a KIND 2 tensor that the first `n` raw bytes touch: the first ones in tile order. Where the last row begins a new
row of tiles, only those up to its last byte (R339). -/
def tilesTouched (h : CHdr) (n : Nat) : Nat :=
  let across := ceilDiv h.cols 256
  let rows := n / h.rowBytes
  let rest := n % h.rowBytes
  min h.blocks (if rows % 256 = 0 then rows / 256 * across + min across (ceilDiv rest 512) else ceilDiv rows 256 * across)

/-- The raw reach of a coded fill ends inside RAW_LEN, and inside COLS of each row (check 8 of R329). -/
def fillReach (n : Nat) (h : CHdr) : Bool :=
  n ≤ h.rawLen && (h.kind ≠ 2 || n ≤ 2 * h.cols || 2 * h.cols = h.rowBytes)

/-- The bytes that have come of a remote coded tensor stand at `farBase` while `f` runs. -/
def unstaged (s : State) (c : Cmd) (f : State → Except RdErr State) : Except RdErr State :=
  if !farFill c then f s
  else
    match f { s with mem := putBytes s.mem farBase ((fmFind c.job.buf 0).getD []) } with
    | .error e => .error e
    | .ok t => .ok { t with mem := t.mem.filter fun x => x.1 < farBase }

/-- The checks of R329 on the bytes that have come of a remote coded tensor. -/
def farCheck (s : State) (r : CmdRef) (c : Cmd) (bs : List Byte) : Option (Nat × Nat) :=
  let hd := chdrOf farBase (bs.take 64)
  codedCheck { s with mem := putBytes s.mem farBase bs } r.scope (if hd.kind = 2 then 2 else 1)
    (if hd.kind = 2 && hd.fmt = 3 then 3 else 2) farBase (fun a n => leaseHolds s c (c.o0 + (a - farBase)) n)
    (fillReach (cpLen c))

/-- Every byte asked for of a remote coded tensor has come, and no reply is under way. -/
def farReady (s : State) (r : CmdRef) (c : Cmd) : Bool :=
  c.st = .dispatched && farFill c && cpCoded c && c.job.total = 0
    && c.job.aux.getD 1 0 ≤ ((fmFind c.job.buf 0).getD []).length
    && !(s.orl.ctxs.any fun y => y.2.pulls.any fun q => q.cmd = r)

/-- The whole of a remote coded tensor has come and passes its checks: KIND 1 is expanded by the movers at once, KIND 2 in items
by the hall's treads (R339). -/
def farExpand (s : State) (r : CmdRef) (c : Cmd) (hd : CHdr) : State :=
  let n := cpLen c
  if hd.kind = 2 then updJob s r fun j => { j with total := tilesTouched hd n }
  else
    let t := { s with mem := putBytes s.mem farBase ((fmFind c.job.buf 0).getD []) }
    let (t, i, e) := moveUnits (expandTo r hd (cpDsts s r.scope c)) (n / 64) 0 t
    let t := { t with mem := t.mem.filter fun x => x.1 < farBase }
    match e with
    | some (some (x, a)) => voidCmd (endCmd (noteErr t r.scope x a) r (errCode x) 0 i (errInfo x (c.job.aux.getD 2 0))) r
    | some none => s
    | none => succeed t r (n / 64) 0

/-- A remote coded fill whose bytes have come goes on (R325, R327, R329, R339): after the header, checks 1 to 6, the wait for a
loading slot, its count in QUEUED, and the request for the rest; after the rest, all checks and the expansion. -/
def codedPull (s : State) (r : CmdRef) (c : Cmd) : State :=
  let bs := (fmFind c.job.buf 0).getD []
  let hd := chdrOf farBase (bs.take 64)
  let bad (n code : Nat) : State := voidCmd (endCmd s r code n 0 0) r
  let whole := hd.endA - farBase
  if hd.kind = 1 && getF s (rUndXtabSlot r.scope hd.slot) fUndXtabSlotState = 1 then s
  else
    match farCheck s r c bs with
    | some (code, n) =>
      if n ≤ 6 || whole ≤ bs.length then bad n code
      else
        let use := if hd.kind = 1 then [hd.slot, ceilDiv (cpLen c) 2048] else []
        let s := updJob (queueSlots r.scope use s) r fun j => { j with aux := j.aux.set 1 whole, uses := use }
        acceptReads s r (c.job.aux.drop 3) (c.job.aux.getD 2 0) 64 (whole - 64)
    | none => farExpand s r c hd

/-- The course of a COPY or FILL inside this device; a remote one, and a KIND 2 fill, go on by other
steps, a remote coded fill that waited for its slot here. -/
def copyGo (r : CmdRef) (m : Move) (s : State) (c : Cmd) : State :=
  if cpRemote c ≠ 0 then (if farReady s r c then codedPull s r c else s)
  else if cpCoded c then
    let hd := chdrOf c.o0 (memBytes s c.o0 64)
    if hd.kind = 2 then s
    else
      moveRun s r m (cpLen c / 64) (fun i => hd.pay + 64 * (hd.dir s (i / 32)).1) (expandTo r hd (cpDsts s r.scope c))
        (fun s => succeed s r (cpLen c / 64) 0) id
  else
    moveRun s r m (cpLen c / 64) (fun i => c.o0 + 64 * i) (copyUnit r.scope c.o0 (cpDsts s r.scope c))
      (fun s => succeed s r (cpLen c / 64) 0) id

/-! ## Dispatch -/

/-- The dispatch of a remote COPY or FILL: contexts, then its sequence numbers (R401, R407). -/
def remoteGo (s : State) (r : CmdRef) (c : Cmd) (guards : List (Nat × Nat)) : Disp :=
  let h := r.scope
  let n := cpLen c
  let wr := cpRemote c = 2
  let far := if wr then cpDst c else c.o0
  match remotePath s h c far (if cpCoded c then 64 else n) wr with
  | .error code => if code = 0x11 then .gone 0x11 0 else .stop code 0 0
  | .ok (ks, fa) =>
    if wr then
      if !hallReachHost s h false c.o0 n then .stop 0x11 0 c.o0
      else
        reachGate s h [(c.o0, n)] [] <|
        let s := updJob s r fun j => { j with total := n / 64, reads := [(c.o0, n)], held := [(c.o0, n)] }
        .go (acceptWrites s r (ks.getD 0 0) c.o0 fa n)
    else
      let ws := (cpDsts s h c).map fun d => (d, n)
      reachGate s h [] ws <|
      let first := if cpCoded c then 64 else n
      let s := updJob s r fun j => { j with total := if cpCoded c then 0 else n / 64, writes := ws, guards := guards, aux := [0, first, fa] ++ ks }
      .go (acceptReads s r ks fa 0 first)

/-- COPY (R26, R401, R407, R476, R486). -/
def execCopy (r : CmdRef) (m : Move) (s : State) : Out :=
  moveCmd 0x08 r s
    (fun s c =>
      let h := r.scope
      let n := cpLen c
      let gs := if inGallery [(c.o1, n)] then [(c.o1, n)] else []
      need (n % 64 = 0 && cpRemote c ≠ 3) 0x10 0 <|
      if n = 0 then .go (succeed s r 0 0)
      else if cpRemote c ≠ 0 then
        waitWhile (cpRemote c = 1 && guardWaits s h gs) <|
        remoteGo s r c (if cpRemote c = 1 then gs else [])
      else
        waitWhile (guardWaits s h gs) <|
        reachGate s h [(c.o0, n)] [(c.o1, n)] <|
        .go (updJob s r fun j => { j with reads := [(c.o0, n)], writes := [(c.o1, n)], guards := gs }))
    (copyGo r m)

/-- FILL (R277, R325, R327, R329, R339, R340, R401, R407). -/
def execFill (r : CmdRef) (m : Move) (s : State) : Out :=
  moveCmd 0x09 r s
    (fun s c =>
      let h := r.scope
      let n := cpLen c
      let dsts := cpDsts s h c
      let gs := dsts.map fun d => (d, n)
      need (n % 64 = 0 && cpRemote c ≤ 1) 0x10 0 <|
      if n = 0 then .go (succeed s r 0 0)
      else if dsts.isEmpty || inIsolated s [(cpDst c, n)] && !cpAll c then .stop 0x22 0 0
      else if !(dsts.all fun d => inExplicit s h d n) then .gone 0x11 0
      else
        waitWhile (guardWaits s h gs) <|
        if cpRemote c = 1 then remoteGo s r c gs
        else
          if cpCoded c then
            let place (a k : Nat) : Bool := inWindow s h false a k || inHost a k
            if !place c.o0 64 then .gone 0x11 0
            else
              readOk s r none true c.o0 64 <|
              let hd := chdrOf c.o0 (memBytes s c.o0 64)
              waitWhile (hd.kind = 1 && slotLoading s h 1 c.o0) <|
              match codedCheck s h (if hd.kind = 2 then 2 else 1) (if hd.kind = 2 && hd.fmt = 3 then 3 else 2) c.o0 place
                  (fillReach n) with
              | some (code, k) => .stop code k 0
              | none =>
                reachGate s h [(c.o0, hd.endA - hd.addr)] gs <|
                let aux := if hd.kind = 1 then [hd.slot, ceilDiv n 2048] else []
                .go (updJob (queueSlots h aux s) r fun j => { j with
                  total := if hd.kind = 2 then tilesTouched hd n else 0, uses := aux, guards := gs
                  reads := [(c.o0, hd.endA - hd.addr)], writes := gs })
          else
            reachGate s h [(c.o0, n)] gs <|
            .go (updJob s r fun j => { j with reads := [(c.o0, n)], writes := gs, guards := gs }))
    (copyGo r m)

/-! ## Replies (R405, R411) -/

/-- Write the contiguous bytes that have come to every destination, in order. -/
def flushPull (r : CmdRef) (dsts : List Nat) : Nat → State → State
  | 0, s => s
  | n + 1, s =>
    match findCmd s r with
    | none => s
    | some c =>
      let at' := c.job.aux.getD 0 0
      match fmFind c.job.buf at' with
      | none => s
      | some bs =>
        match dsts.foldlM (fun _ d => writable s r.scope (d + at') bs.length) () with
        | .error (some (e, a)) => failRemote s r e a
        | .error none => s
        | .ok _ =>
          let s := dsts.foldl (fun s d => store s (d + at') bs) s
          flushPull r dsts n (updJob s r fun j => { j with
            aux := j.aux.set 0 (at' + bs.length), buf := fmErase j.buf at', next := (at' + bs.length) / 64 })

/-- A read reply arrives for the oldest read of the context (R405). -/
def serveReply (s : State) (k : Nat) (b : List Byte) : State :=
  let x := getCtx s k
  match x.pulls with
  | [] => s
  | p :: ps =>
    let n := sgLen b
    let s := setCtx s k { x with
      pulls := if p.left ≤ n then ps else { p with off := p.off + n, left := p.left - n } :: ps }
    match findCmd s p.cmd with
    | none => s
    | some c =>
      if c.st ≠ .dispatched then s
      else if cpCoded c then
        let bs := (fmFind c.job.buf 0).getD []
        let bs := bs ++ zeros (p.off - bs.length)
        let s := updJob s p.cmd fun j => { j with buf := fmPut j.buf 0 (bs.take p.off ++ sgPay b ++ bs.drop (p.off + n)) }
        match findCmd s p.cmd with
        | some c => if farReady s p.cmd c then codedPull s p.cmd c else s
        | none => s
      else
        let s := updJob s p.cmd fun j => { j with buf := fmPut j.buf p.off (sgPay b) }
        flushPull p.cmd (cpDsts s p.cmd.scope c) (c.job.buf.length + 1) s

/-- A remote COPY or FILL succeeds once every segment is acknowledged and every byte written (R409, R411). -/
def copySettle (s : State) (r : CmdRef) : State :=
  match findCmd s r with
  | none => s
  | some c =>
    if c.st ≠ .dispatched ∨ (c.opcode ≠ 0x08 ∧ c.opcode ≠ 0x09) ∨ cpRemote c = 0 ∨ cpCoded c = true then s
    else if cpRemote c = 2 then (if cmdUnacked s r then s else succeed s r c.job.total 0)
    else if c.job.aux.getD 0 0 = cpLen c && !cmdUnacked s r then succeed s r c.job.total 0
    else s

/-- Units of a remote write that the peer has acknowledged. -/
def ackedUnits (s : State) (r : CmdRef) (c : Cmd) : Nat :=
  let left := (s.orl.ctxs.map fun p => ((p.2.out.filter fun g => g.cmd = some r).map (·.len)).foldl (· + ·) 0).foldl (· + ·) 0
  (cpLen c - left) / 64

/-! ## Pool leases (R415) -/

def poolUse (s : State) (h : Nat) : Nat := getF s (rUndHallPool h) fUndHallPoolBytes

/-- POOL_LEASE (R273, R415). -/
def execPoolLease (r : CmdRef) (err : Option ReadErr) (s : State) : Out :=
  guardUnit (r.scope < 8) <|
  dispatch 0x26 r s fun s c =>
    let h := r.scope
    if !inWindow s h false c.o0 64 then .gone 0x11 0
    else
      readOk s r err false c.o0 64 <|
      let b := memBytes s c.o0 64
      need (leaseOk s h b) 0x10 0 <|
      let charge := leAt b 16 4 * 0x100000
      let fits := poolUse s h + charge ≤ poolQuota s h
      waitWhile (!fits && (earlierCmds s h).any fun p => p.2.opcode = 0x27) <|
      need fits 0x16 0 <|
      .go (succeed (setF s (rUndHallPool h) fUndHallPoolBytes (poolUse s h + charge)) r 0 0)

/-- POOL_RETURN (R415). -/
def execPoolReturn (r : CmdRef) (err : Option ReadErr) (s : State) : Out :=
  guardUnit (r.scope < 8) <|
  dispatch 0x27 r s fun s c =>
    let h := r.scope
    if !inWindow s h false c.o0 64 then .gone 0x11 0
    else
      readOk s r err false c.o0 64 <|
      let b := memBytes s c.o0 64
      need (leaseForm b) 0x10 0 <|
      let charge := leAt b 16 4 * 0x100000
      .go (succeed (setF s (rUndHallPool h) fUndHallPoolBytes (poolUse s h - charge)) r 0 0)

end Sys2Proof.Machine
end

