-- ==== Sys2Proof/Machine/Deliver.lean ====
section
/-! DEFINITION. The delivery of numbered segments in order (R405, R410, R411). -/

namespace Sys2Proof.Machine

/-- A reject names a refused sequence number and a code: the command that sent it ends with the code (R411). -/
def takeReject (s : State) (k fa : Nat) : State :=
  let c := getCtx s k
  let seq := fa % 2 ^ 32
  let code := bitsOf fa 32 8
  let cmd := match c.out.find? fun g => g.seq = seq with
    | some g => g.cmd
    | none => (c.past.find? fun p => p.1 = seq).map (·.2)
  match cmd with
  | some r => failRemote s r (.rejected code) 0
  | none => s

/-- Deliver the segment whose turn it is; none where it waits (R269, R405, R411). A whole message waits for its engine
before its last segment counts as delivered, a reduction message before any of its segments does (R355); a message of the
runtime is handed over at once. The hall that it is addressed to wakes (R521). -/
def deliverSeg (s : State) (k : Nat) (b : List Byte) : Option State :=
  let c := getCtx s k
  let s := if c.hall < 8 then wakeHall s c.hall else s
  if sgType b = 5 then some (delivered s k)
  else if sgType b = 6 then some (delivered (takeReject s k (sgFaddr b)) k)
  else
    match sgOp b with
    | 0 =>
      let m := (if sgFirst b then [] else c.msg) ++ sgPay b
      if sgLast b then
        if c.hall < 8 then some (setCtx s k { c with msg := [], whole := some m })
        else some (delivered { setCtx s k { c with msg := [] } with resp := .bytes m } k)
      else if c.hall < 8 && leAt m 0 1 = 1 then some (setCtx s k { c with msg := m, parts := c.parts + 1 })
      else some (delivered (setCtx s k { c with msg := m }) k)
    | 1 => (serveWrite s k b).map fun s => delivered s k
    | 2 => (serveRead s k b).map fun s => delivered s k
    | _ =>
      let s' := serveReply s k b
      let s' := match c.pulls with | p :: _ => copySettle s' p.cmd | [] => s'
      some (delivered s' k)

/-- Deliver what is held for order, as far as it goes (R410). -/
def drainHeld (k : Nat) : Nat → State → State
  | 0, s => s
  | n + 1, s =>
    let c := getCtx s k
    if c.whole.isSome || c.st ≠ 2 then s
    else
      match fmFind c.reorder c.due with
      | none => s
      | some b =>
        match deliverSeg (setCtx s k { c with reorder := fmErase c.reorder c.due }) k b with
        | none => s
        | some s => drainHeld k n s

end Sys2Proof.Machine
end

