-- ==== Sys2Proof/Machine/Reduce.lean ====
section
/-! DEFINITION. Collectives (R347 to R365, R371, R380, R381): reduction blocks, ring reduce-scatter, thinned reduction,
gather, and their messages. -/

namespace Sys2Proof.Machine

/-! ## Messages (R349) -/

/-- A message's header before its payload (R349). -/
def collHdr (ty : Nat) (g : Ring) (shard epoch id count first : Nat) (pay : List Byte) : List Byte :=
  let h := leBytes 1 ty ++ leBytes 1 g.num ++ leBytes 2 shard ++ leBytes 4 g.gen ++ leBytes 4 epoch ++ leBytes 4 id
    ++ leBytes 2 g.self ++ leBytes 2 count ++ leBytes 4 first ++ zeros 4
  h ++ leBytes 4 (crc32c (h ++ (if ty = 1 then [] else pay)))

/-- Fields of a message. -/
def cmType (m : List Byte) : Nat := leAt m 0 1
def cmRing (m : List Byte) : Nat := leAt m 1 1
def cmShard (m : List Byte) : Nat := leAt m 2 2
def cmGen (m : List Byte) : Nat := leAt m 4 4
def cmEpoch (m : List Byte) : Nat := leAt m 8 4
def cmId (m : List Byte) : Nat := leAt m 12 4
def cmSender (m : List Byte) : Nat := leAt m 16 2
def cmCount (m : List Byte) : Nat := leAt m 18 2
def cmFirst (m : List Byte) : Nat := leAt m 20 4
def cmPay (m : List Byte) : List Byte := m.drop 32
/-- CRC, COUNT and length agree with the type (R349). -/
def cmOk (m : List Byte) : Bool :=
  let unit := match cmType m with | 1 => 80 | 2 => 36 | _ => 64
  let top := if cmType m ≤ 2 then 64 else 1023
  leAt m 24 4 = 0 && crc32c (m.take 28 ++ (if cmType m = 1 then [] else cmPay m)) = leAt m 28 4
    && 1 ≤ cmCount m && cmCount m ≤ top && m.length = 32 + unit * cmCount m

/-- A message has been taken: its segments are delivered, and what was held behind it follows (R410, R411). -/
def takeMsg (s : State) (k : Nat) : State :=
  drainHeld k (getCtx s k).reorder.length (delivered (setCtx s k { getCtx s k with whole := none }) k)
/-- A message is refused with a code: the sender's command ends with it (R347, R371, R411). -/
def refuseMsg (s : State) (k code : Nat) : State :=
  let c := getCtx s k
  takeMsg (rejectSeg s k c.due code) k
def raiseCls (s : State) (h : Nat) (f : Fld) : State := raiseF s (rClsHallEvents h) f

/-- A message of a type waits on a context for the Cloister of its hall: its check, its ring and generation (R347,
R349), then `k`. -/
def withMsg (ctx ty : Nat) (s : State) (k : State → Nat → Ring → List Byte → Out) : Out :=
  guardUnit (ctxNum ctx) <|
  let x := getCtx s ctx
  match x.whole with
  | none => .next s
  | some m =>
    if cmType m ≠ ty ∨ 8 ≤ x.hall then .next s
    else if !cmOk m then .next (raiseCls (refuseMsg s ctx 0x13) x.hall fClsHallEventsCheckFail)
    else
      match ringAt s.run x.hall (cmRing m) with
      | none => .next (raiseCls (refuseMsg s ctx 0x31) x.hall fClsHallEventsGenRefused)
      | some g =>
        if cmGen m < g.gen then .next (raiseCls (refuseMsg s ctx 0x31) x.hall fClsHallEventsGenRefused)
        else if g.gen < cmGen m then .next s
        else k s x.hall g m

/-- GEN_WAIT_EXPIRY (R347). -/
def execGenWaitExpiry (ctx : Nat) (s : State) : Out :=
  guardUnit (ctxNum ctx) <|
  let x := getCtx s ctx
  match x.whole with
  | none => .next s
  | some m =>
    match ringAt s.run x.hall (cmRing m) with
    | none => .next s
    | some g =>
      if x.hall < 8 && 1 ≤ cmType m && cmType m ≤ 6 && g.gen < cmGen m then
        .next (raiseCls (refuseMsg s ctx 0x31) x.hall fClsHallEventsGenRefused)
      else .next s

/-- Segments of a message whose payload stands in memory: a header, `real` bytes at `a`, zeros to whole units (R349,
R407). -/
def unitsMessage (cmd : Option CmdRef) (hdr : List Byte) (a real units : Nat) : List Seg :=
  let n := 32 + 64 * units
  (cut576 n).map fun (o, l) =>
    let lo := o - 32
    let mem := min (o + l - 32) real - min lo real
    let head := if o = 0 then 32 else 0
    { op := 0, first := o = 0, last := o + l = n, len := l, src := some (a + lo), pad := l - head - mem
      data := hdr.take head, cmd := cmd }

/-- Send `real` bytes at `a` as messages of at most 1,023 units each, all units, numbered from `u0` (R380, R369). -/
def sendUnits (s : State) (k : Nat) (cmd : Option CmdRef) (ty : Nat) (g : Ring) (shard epoch id u0 a real : Nat) : State :=
  let units := ceilDiv real 64
  (List.range (ceilDiv units 1023)).foldl (fun s i =>
    let n := min 1023 (units - 1023 * i)
    let at' := 65472 * i
    let b := memBytes s (a + at') (min (64 * n) (real - at'))
    let pay := b ++ zeros (64 * n - b.length)
    accept s k (unitsMessage cmd (collHdr ty g shard epoch id n (u0 + 1023 * i) pay) (a + at') b.length n)) s

/-! ## Reduction blocks (R349 to R354) -/

/-- A reduction block. -/
structure RBlk where
  index : Nat
  exp : Int
  residue : Nat := 0
  rescales : Nat := 0
  nan : Bool := false
  sat : Bool := false
  hops : Nat := 0
  epoch : Nat
  mant : List Int
  deriving DecidableEq, Repr

def rblkOf (b : List Byte) : RBlk :=
  { index := leAt b 0 4, exp := sext 16 (leAt b 4 2), residue := leAt b 6 2, rescales := leAt b 8 1
    nan := bitOf (leAt b 9 1) 1, sat := bitOf (leAt b 9 1) 2, hops := leAt b 10 2, epoch := leAt b 12 4
    mant := (List.range 32).map fun i => sext 16 (leAt b (16 + 2 * i) 2) }
def intBytes (n : Nat) (v : Int) : List Byte := leBytes n (v % 2 ^ (8 * n)).toNat
def RBlk.bytes (b : RBlk) : List Byte :=
  leBytes 4 b.index ++ intBytes 2 b.exp ++ leBytes 2 b.residue ++ leBytes 1 b.rescales
    ++ leBytes 1 ((if b.rescales = 0 then 0 else 1) + (if b.nan then 2 else 0) + (if b.sat then 4 else 0))
    ++ leBytes 2 b.hops ++ leBytes 4 b.epoch ++ b.mant.flatMap (intBytes 2)

/-- Σ (i + k) · w_i over a list from weight `k`. -/
def weighted (k : Int) : List Int → Int
  | [] => 0
  | v :: w => k * v + weighted (k + 1) w
/-- The residue of integers (R350). -/
def residueOf (w : List Int) : Nat := (weighted 1 w % 65535).toNat
/-- A 16-bit rotation left (R350). -/
def rotL (r s : Nat) : Nat := let k := s % 16; (r * 2 ^ k) % 65536 + r / 2 ^ (16 - k)
/-- Round half to even of `w / 2^s`. -/
def evenShift (w : Int) (s : Nat) : Int :=
  let q := w / 2 ^ s
  let d := w - q * 2 ^ s
  if d * 2 < 2 ^ s then q else if 2 ^ s < d * 2 then q + 1 else if q % 2 = 0 then q else q + 1
def fits16 (w : List Int) : Bool := w.all fun v => -32768 ≤ v && v ≤ 32767

/-- A local contribution at a carried exponent (R352). -/
def contribAt (e : Int) (v : FNum) : Int × Cvt :=
  match fnScale v (-e) with
  | .fin n m k =>
    let x := (fnToInt 0 n m k).1
    let y := max (-(2 ^ 47)) (min (2 ^ 47 - 1) x)
    (y, { bits := 0, sat := x ≠ y, flush := m ≠ 0 && x = 0 })
  | _ => (0, { bits := 0, nan := true })

/-- An adder's result: the outgoing block, whether it rescaled, whether the exponent overflowed; none when a residue
check fails (R353). A carried NaN block takes the steps with all mantissas 0; a block that becomes NaN has mantissas 0 and
their residue (R350). -/
def addBlock (c : RBlk) (xs : List (Int × Cvt)) : Option (RBlk × Bool × Bool) :=
  let fresh := !c.nan && xs.any fun p => p.2.nan
  let sat := c.sat || xs.any fun p => p.2.sat
  let out : RBlk := { c with hops := (c.hops + 1) % 65536, sat := sat }
  let x := if c.nan then List.replicate 32 0 else xs.map (·.1)
  let m := if c.nan then List.replicate 32 0 else c.mant
  let w := (m.zip x).map fun p => p.1 + p.2
  let r := (c.residue + residueOf x) % 65535
  if fresh then some ({ out with mant := List.replicate 32 0, residue := 0, nan := true }, false, false)
  else if residueOf w ≠ r then none
  else if fits16 w then some ({ out with mant := w, residue := r }, false, false)
  else
    let s := ((List.range 40).find? fun k => fits16 (w.map fun v => evenShift v k)).getD 0
    let q := w.map fun v => evenShift v s
    let d := (w.zip q).map fun p => p.1 - p.2 * 2 ^ s
    if (rotL (residueOf q) s + residueOf d) % 65535 ≠ r then none
    else if 511 < c.exp + s then some ({ out with mant := List.replicate 32 0, residue := 0, nan := true }, false, true)
    else
      some ({ out with
        mant := q, exp := c.exp + s, residue := residueOf q, rescales := min (c.rescales + 1) 255 }, true, false)

/-! ## The collective record (R360) -/

def clKind (b : List Byte) : Nat := leAt b 0 1 % 4
def clRing (b : List Byte) : Nat := leAt b 1 1
def clLayer (b : List Byte) : Nat := leAt b 2 2
def clId (b : List Byte) : Nat := leAt b 4 4
def clEntries (b : List Byte) : Nat := leAt b 8 5
def clFmt (b : List Byte) : Nat := leAt b 0x0D 1 % 32
def clScaleEn (b : List Byte) : Bool := bitOf (leAt b 0x0D 1) 5
def clSrcScale (b : List Byte) : Nat := leAt b 0x0E 2
def clSrc (b : List Byte) : Nat := leAt b 0x10 6
def clRedScale (b : List Byte) : Nat := leAt b 0x16 2
def clRecv (b : List Byte) : Nat := leAt b 0x18 6
def clExp0 (b : List Byte) : Int := sext 16 (leAt b 0x1E 2)
def clRetain (b : List Byte) : Nat := leAt b 0x20 6
def clBlockBytes (b : List Byte) : Nat := leAt b 0x26 2
def clStride (b : List Byte) : Nat := leAt b 0x28 6
def clRetainLen (b : List Byte) : Nat := leAt b 0x30 4

/-- Blocks of the tensor, groups of a thinned one, and the unit that shards count (R345, R362). -/
def clBlocks (b : List Byte) : Nat := ceilDiv (clEntries b) 32
def clGroups (b : List Byte) : Nat := ceilDiv (clEntries b) 256
def clUnits (b : List Byte) : Nat := if clKind b = 1 then clGroups b else clBlocks b
/-- Entries per sharding unit. -/
def clPer (b : List Byte) : Nat := if clKind b = 1 then 256 else 32
/-- First entry and entries of a shard. -/
def clShard (b : List Byte) (g : Ring) (j : Nat) : Nat × Nat :=
  let (lo, hi) := g.shard (clUnits b) j
  (lo * clPer b, min (hi * clPer b) (clEntries b) - min (lo * clPer b) (clEntries b))
/-- Byte offset of shard `j` in RECV_ADDR: the shards acted for in ascending order, no gaps (R360). -/
def clRecvOff (b : List Byte) (g : Ring) (j : Nat) : Nat :=
  4 * (((g.acts g.self).filter (· < j)).map fun i => (clShard b g i).2).foldl (· + ·) 0
/-- Entries of the shards acted for. -/
def clActed (b : List Byte) (g : Ring) : Nat := ((g.acts g.self).map fun j => (clShard b g j).2).foldl (· + ·) 0
/-- Units that a member retains, before shard `j`: the final blocks it sent of KIND 0, the groups it sent of KIND 1
(R359, R365); ascending shards, no gaps (log 61). -/
def clKeeps (b : List Byte) (g : Ring) (i : Nat) : Bool :=
  g.owner i ≠ g.self && (clKind b = 1 || g.last i = g.self)
def clRetainOff (b : List Byte) (g : Ring) (j : Nat) : Nat :=
  (if clKind b = 1 then 36 else 80)
    * (((List.range j).filter (clKeeps b g)).map fun i => (g.shard (clUnits b) i).2 - (g.shard (clUnits b) i).1).foldl (· + ·) 0

/-- Value of local entry `i` (R100, R352). -/
def clVal (s : State) (b : List Byte) (k : Int) (i : Nat) : FNum :=
  let n := fmtBits (clFmt b) / 8
  let v := elemVal (clFmt b) (memNat s (clSrc b + n * i) n)
  if clScaleEn b then fnScale v k else v
/-- Source bytes of entries `[i, i + n)`. -/
def clSrcRange (b : List Byte) (i n : Nat) : Nat × Nat :=
  let k := fmtBits (clFmt b) / 8
  (clSrc b + k * i, k * (min (i + n) (clEntries b) - min i (clEntries b)))

/-- Contributions of block `i` at an exponent; absent entries count as 0 (R345, R352). -/
def clContrib (s : State) (b : List Byte) (k : Int) (e : Int) (i : Nat) : List (Int × Cvt) :=
  (List.range 32).map fun t =>
    if 32 * i + t < clEntries b then contribAt e (clVal s b k (32 * i + t)) else (0, { bits := 0 })

/-- Add local contributions to blocks, counting the adder's events (R106, R352, R353); none on a failed residue. -/
def addBlocks (s : State) (h : Nat) (b : List Byte) (k : Int) : List RBlk → Option (State × List RBlk)
  | [] => some (s, [])
  | c :: cs =>
    let xs := clContrib s b k c.exp c.index
    match addBlock c xs with
    | none => none
    | some (o, resc, big) =>
      let s := countCvts s h (xs.map (·.2))
      let s := if resc then countHall s h 0x038 1 else s
      let s := if big then countHall s h 0x010 1 else s
      match addBlocks s h b k cs with
      | none => none
      | some (s, os) => some (s, o :: os)

/-- A final entry as FP32 (R358). -/
def finalVal (c : RBlk) (m : Int) : Nat := if c.nan then fCanonNaN ifmt32 else fnTo32 (fnOfInt m c.exp)

/-- Where a final block of shard `j` goes. -/
def finalSpan (b : List Byte) (g : Ring) (j i : Nat) : Nat × Nat :=
  (clRecv b + clRecvOff b g j + 4 * (32 * i - (clShard b g j).1), 4 * min 32 (clEntries b - 32 * i))

/-- The largest ⌈log₂⌉ of finite non-zero values, clamped (R358). -/
def topExp (vs : List Nat) : Int :=
  vs.foldl (fun (t : Int) v =>
    match fDecode ifmt32 v with
    | .fin _ m _ => if m = 0 then t else max t (clampI (-127) 127 (ceilLog2Fp32 (bitsOf v 0 31)))
    | _ => t) (-128)

/-- Write a final block of shard `j`, its largest exponent and its rescales; its NaN outputs count (R106, R358). -/
def finalBlock (s : State) (h : Nat) (b : List Byte) (g : Ring) (j : Nat) (c : RBlk) : State :=
  let (a, n) := finalSpan b g j c.index
  let vs := (c.mant.take (n / 4)).map (finalVal c)
  let s := countHall (store s a (vs.flatMap (leBytes 4))) h 0x010 (if c.nan then vs.length else 0)
  updColl s h (clId b) fun x => { x with maxExp := max x.maxExp (topExp vs), rescales := x.rescales + c.rescales }

/-- The collective command of a hall with a number, dispatched. -/
def collCmd (s : State) (h id : Nat) : Option (CmdRef × Cmd) :=
  (scopeCmds s h).find? fun p => p.2.st = .dispatched && p.2.opcode = 0x20 && clId p.2.job.rec1 = id
/-- A collective ended here without success: its messages have no effect any more (log 62). -/
def collDead (s : State) (h id : Nat) : Bool :=
  (match findColl s h id with | some c => c.st = 2 | none => false)
    || (scopeCmds s h).any fun p => p.2.st = .ended && 2 < p.2.code && p.2.opcode = 0x20 && clId p.2.job.rec1 = id

/-- Working treads of a hall, C of R348, and the treads that are Cloister treads. -/
def cloisterCount (s : State) (h : Nat) : Nat :=
  let k := hallCloister s.run h
  if k = 0 then 0 else min k ((workingTreads s h).length - 1)
def cloisterTreads (s : State) (h : Nat) : List Nat := (workingTreads s h).reverse.take (cloisterCount s h)
/-- No tread can make the hall's collective additions now: every Cloister tread, or the single working tread that serves
both roles, still holds an item (R348). -/
def addersBusy (s : State) (h : Nat) : Bool :=
  let ts := match workingTreads s h with | [t] => [t] | _ => cloisterTreads s h
  hallCloister s.run h ≠ 0 && ts.all fun t => !(getT s t).held.isEmpty || (getT s t).prog.cmd.isSome
/-- A reduction block waits for the hall (R348). -/
def blockWaits (s : State) (h : Nat) : Bool :=
  s.orl.ctxs.any fun p => p.2.hall = h && (match p.2.whole with | some m => cmType m = 1 | none => false)

/-- Bytes of a shard of parameters: first byte in the array, and length (R380). -/
def gatherBytes (b : List Byte) (g : Ring) (j : Nat) : Nat × Nat :=
  let (lo, hi) := g.shard (clBlocks b) j
  (lo * clBlockBytes b, (hi - lo) * clBlockBytes b)

/-- A collective has done all its work and all it sent is acknowledged (R409). -/
def collDone (s : State) (r : CmdRef) (c : Cmd) : Bool :=
  let b := c.job.rec1
  match ringAt s.run r.scope (clRing b) with
  | none => false
  | some g =>
    !cmdUnacked s r &&
      match clKind b with
      | 0 => c.job.next = ((g.acts g.self).map fun j => (g.shard (clBlocks b) j).2 - (g.shard (clBlocks b) j).1).foldl (· + ·) 0
          && c.job.aux.foldl (· + ·) 0 = clBlocks b
      | 1 => c.job.next = clGroups b
          && c.job.aux.getD 0 0 = ((g.acts g.self).map fun j => (g.shard (clGroups b) j).2 - (g.shard (clGroups b) j).1).foldl (· + ·) 0
      | _ => (List.range g.n).all fun j =>
          g.owner j = g.self || c.job.aux.getD j 0 = ceilDiv (gatherBytes b g j).2 64
def collSettle (s : State) (r : CmdRef) : State :=
  match findCmd s r with
  | some c => if c.st = .dispatched && c.opcode = 0x20 && collDone s r c then succeed s r 0 0 else s
  | none => s

/-- A collective ends on a failed residue (R353). -/
def residueFail (s : State) (r : CmdRef) : State :=
  raiseCls (voidCmd (endCmd s r 0x13 0 0 0) r) r.scope fClsHallEventsCheckFail

/-! ## Ring reduce-scatter (R357 to R359) -/

/-- Place of the `i`-th first addition: shard, block, and blocks left in its shard. -/
def firstPlace (b : List Byte) (g : Ring) (i : Nat) : List Nat → Option (Nat × Nat × Nat)
  | [] => none
  | j :: js =>
    let (lo, hi) := g.shard (clBlocks b) j
    if i < hi - lo then some (j, lo + i, hi - lo - i) else firstPlace b g (i - (hi - lo)) js

/-- Copy final blocks of shard `j` into the retention area (R359). -/
def retainBlocks (s : State) (b : List Byte) (g : Ring) (j : Nat) (cs : List RBlk) : State :=
  match cs with
  | [] => s
  | c :: _ =>
    store s (clRetain b + clRetainOff b g j + 80 * (c.index - (g.shard (clBlocks b) j).1)) (cs.flatMap (·.bytes))

/-- Where blocks `i` to `i + k - 1` of shard `j` are written here as they are sent on: RECV_ADDR where this member is alone,
the retention area where the next position is the owner. -/
def passSpans (b : List Byte) (g : Ring) (j i k : Nat) : List (Nat × Nat) :=
  let q := g.next g.self
  if q = g.self then [((finalSpan b g j i).1, ((List.range k).map fun t => (finalSpan b g j (i + t)).2).foldl (· + ·) 0)]
  else if q = g.owner j then [(clRetain b + clRetainOff b g j + 80 * (i - (g.shard (clBlocks b) j).1), 80 * k)]
  else []

/-- Send blocks of shard `j` on: to the next position, retained where it is the owner (R357, R359); written where this
member is alone. None while the log is full. -/
def passBlocks (s : State) (r : CmdRef) (b : List Byte) (g : Ring) (j : Nat) (cs : List RBlk) : Option State :=
  let q := g.next g.self
  if q = g.self then some (cs.foldl (fun s c => finalBlock s r.scope b g j c) s)
  else
    let s := if q = g.owner j then retainBlocks s b g j cs else s
    let first := match cs with | c :: _ => c.index | [] => 0
    let pay := cs.flatMap (·.bytes)
    logMessage s (g.ctx q) (some r) r.scope (collHdr 1 g j (hallEpoch s r.scope) (clId b) cs.length first pay ++ pay)

/-- The first additions of the shards this member acts for, as far as an adder is free (R348) and the replay log takes
them. -/
def firstAdds (r : CmdRef) : Nat → State → State
  | 0, s => s
  | n + 1, s =>
    match findCmd s r with
    | none => s
    | some c =>
      if addersBusy s r.scope then s
      else
      let b := c.job.rec1
      match ringAt s.run r.scope (clRing b) with
      | none => s
      | some g =>
        match firstPlace b g c.job.next (g.acts g.self) with
        | none => s
        | some (j, i, left) =>
          let k := min 64 left
          match (readsStuck s [clSrcRange b (32 * i) (32 * k)]).or (writesStuck s (passSpans b g j i k)) with
          | some none => s
          | some (some (e, a)) => voidCmd (failCmd s r e a) r
          | none =>
            let zero := (List.range k).map fun t =>
              ({ index := i + t, exp := c.job.kOut, epoch := hallEpoch s r.scope, mant := List.replicate 32 0 } : RBlk)
            match addBlocks s r.scope b c.job.kA zero with
            | none => residueFail s r
            | some (t, cs) =>
              match passBlocks t r b g j cs with
              | none => raiseF s rDlvEvents fDlvEventsLogFull
              | some t =>
                let alone := g.next g.self = g.self
                firstAdds r n (updJob t r fun x => { x with
                  next := x.next + k, aux := if alone then x.aux.set j (x.aux.getD j 0 + k) else x.aux })

/-- REDUCTION_BLOCK (R347, R348, R353 to R359, R371). -/
def execReductionBlock (ctx : Nat) (s : State) : Out :=
  withMsg ctx 1 s fun s h g m =>
    if cmEpoch m ≠ hallEpoch s h then .next (refuseMsg s ctx 0x32)
    else if addersBusy s h then .next s
    else if collDead s h (cmId m) then .next (takeMsg s ctx)
    else
      match collCmd s h (cmId m) with
      | none => .next s
      | some (r, c) =>
        let b := c.job.rec1
        let j := cmShard m
        let cs := (List.range (cmCount m)).map fun i => rblkOf (((cmPay m).drop (80 * i)).take 80)
        let want := (g.shard (clBlocks b) j).1 + c.job.aux.getD j 0
        let seq := cs.zipIdx.all fun p => p.1.index = cmFirst m + p.2 && p.1.epoch = cmEpoch m
        if clKind b ≠ 0 || clRing b ≠ g.num || g.n ≤ j || cmFirst m ≠ want || !seq
            || (g.shard (clBlocks b) j).2 < want + cmCount m then
          .next (raiseCls (refuseMsg s ctx 0x13) h fClsHallEventsCheckFail)
        else
          let fin (s : State) : State :=
            collSettle (takeMsg (updJob s r fun x => { x with aux := x.aux.set j (x.aux.getD j 0 + cmCount m) }) ctx) r
          if g.owner j = g.self then
            if cs.all fun c => residueOf c.mant = c.residue then
              match writesStuck s (cs.map fun c => finalSpan b g j c.index) with
              | some none => .next s
              | some (some (e, a)) => .next (takeMsg (voidCmd (failCmd s r e a) r) ctx)
              | none => .next (fin (cs.foldl (fun s c => finalBlock s h b g j c) s))
            else .next (takeMsg (residueFail s r) ctx)
          else
            match (readsStuck s [clSrcRange b (32 * cmFirst m) (32 * cmCount m)]).or
                (writesStuck s (passSpans b g j (cmFirst m) (cmCount m))) with
            | some none => .next s
            | some (some (e, a)) => .next (takeMsg (voidCmd (failCmd s r e a) r) ctx)
            | none =>
              match addBlocks s h b c.job.kA cs with
              | none => .next (takeMsg (residueFail s r) ctx)
              | some (t, os) =>
                match passBlocks t r b g j os with
                | none => .next (raiseF s rDlvEvents fDlvEventsLogFull)
                | some t => .next (fin t)

/-! ## Thinned reduction (R362 to R365) -/

/-- Address of the error memory's copy `k` of a layer (R364). -/
def errCopy (s : State) (h layer k : Nat) : Nat :=
  match layerRec s.run h layer with
  | some l => leAt l 40 6 + k % 2 * (leAt l 48 4 / 2)
  | none => 0

/-- The exact sum of two finite numbers; a zero sum is +0 unless both are negative. -/
def fnSum (a b : FNum) : FNum :=
  match a, b with
  | .fin na ma ea, .fin nb mb eb =>
    let (n, m, e) := exactSum na ma ea nb mb eb
    if m = 0 then .fin (na && nb) 0 0 else .fin n m e
  | _, _ => .nan

/-- Thinned group `i`: its 36 bytes and the new error entries, each rounded once to BF16 from the exact c ∓ s (R106,
R362). -/
def thinGroup (s : State) (h : Nat) (b : List Byte) (k : Int) (i : Nat) : List Byte × List Cvt :=
  let n := min 256 (clEntries b - 256 * i)
  let e := errCopy s h (clLayer b) (hallEpoch s h)
  let cs := (List.range n).map fun t =>
    let v := fnTo32 (clVal s b k (256 * i + t))
    (fAdd ifmt32 0 v ((fCvt ifmtBf16 ifmt32 0 (memNat s (e + 2 * (256 * i + t)) 2)).1)).1
  let bad := cs.any fun c => fnSpecial (fDecode ifmt32 c)
  let sum := treeSum32 (cs.map (fun c => bitsOf c 0 31) ++ List.replicate (256 - n) 0)
  let sc := if bad then fCanonNaN ifmt32 else mul32 sum 0x3B800000
  let bits := cs.map fun c => if fSign ifmt32 c then 1 else 0
  let errs := cs.map fun c =>
    if bad then { bits := 0 }
    else cvtTo 0x02 0 (fnSum (fDecode ifmt32 c) (fDecode ifmt32 (if fSign ifmt32 c then sc else fNeg ifmt32 sc)))
  (leBytes 32 (packElems 1 bits) ++ leBytes 4 sc, errs)

/-- Shard of group `i`. -/
def groupShard (b : List Byte) (g : Ring) (i : Nat) : Nat :=
  ((List.range g.n).find? fun j => (g.shard (clGroups b) j).1 ≤ i && i < (g.shard (clGroups b) j).2).getD 0

/-- Key of a held group. -/
def thinKey (i p : Nat) : Nat := i * 16384 + p

/-- Where group `i` of a shard acted for goes. -/
def thinSpan (b : List Byte) (g : Ring) (i : Nat) : Nat × Nat :=
  let j := groupShard b g i
  (clRecv b + clRecvOff b g j + 4 * (256 * i - (clShard b g j).1), 4 * min 256 (clEntries b - 256 * i))

/-- Entries of group `i` from every position's group, in ascending position (R363). -/
def thinVals (gs : List (List Byte)) (n : Nat) : List Nat :=
  let nan := gs.any fun x => fIsNaN ifmt32 (leAt x 32 4)
  (List.range n).map fun t =>
    match gs.map fun x => if bitOf (leAt x (t / 8) 1) (t % 8) then fNeg ifmt32 (leAt x 32 4) else leAt x 32 4 with
    | [] => 0
    | x :: xs => if nan then fCanonNaN ifmt32 else xs.foldl (fun u v => (fAdd ifmt32 0 u v).1) x

/-- Write group `i` once every member's is there: the FP32 sum in ascending position; NaN outputs count (R106, R363). -/
def thinWrite (s : State) (r : CmdRef) (b : List Byte) (g : Ring) (i : Nat) : State :=
  match findCmd s r with
  | none => s
  | some c =>
    let gs := g.live.map fun p => fmFind c.job.buf (thinKey i p)
    if gs.any (·.isNone) then s
    else
      let (a, n) := thinSpan b g i
      let vs := thinVals (gs.filterMap id) (n / 4)
      let s := countHall (store s a (vs.flatMap (leBytes 4))) r.scope 0x010 (vs.countP (fIsNaN ifmt32))
      updJob s r fun x => { x with
        buf := x.buf.filter fun p => p.1 / 16384 ≠ i, aux := x.aux.set 0 (x.aux.getD 0 0 + 1) }

/-- Form groups, one message at a time, as far as the replay log takes them: send them or keep them, retain what is sent,
write the error memory (R362 to R365). -/
def thinAll (r : CmdRef) : Nat → State → State
  | 0, s => s
  | n + 1, s =>
    match findCmd s r with
    | none => s
    | some c =>
      let b := c.job.rec1
      match ringAt s.run r.scope (clRing b) with
      | none => s
      | some g =>
        let i := c.job.next
        if clGroups b ≤ i then s
        else
          let h := r.scope
          let j := groupShard b g i
          let k := min 64 ((g.shard (clGroups b) j).2 - i)
          let old := errCopy s h (clLayer b) (hallEpoch s h) + 512 * i
          let new := errCopy s h (clLayer b) (hallEpoch s h + 1) + 512 * i
          let n2 := 2 * min (256 * k) (clEntries b - 256 * i)
          let kept := clRetain b + clRetainOff b g j + 36 * (i - (g.shard (clGroups b) j).1)
          let ws := if g.owner j = g.self then (List.range k).map fun t => thinSpan b g (i + t) else [(kept, 36 * k)]
          if addersBusy s h then s
          else
          match (readsStuck s [clSrcRange b (256 * i) (256 * k), (old, n2)]).or (writesStuck s ((new, n2) :: ws)) with
          | some none => s
          | some (some (e, a)) => voidCmd (failCmd s r e a) r
          | none =>
            let gs := (List.range k).map fun t => thinGroup s h b c.job.kA (i + t)
            let errs := gs.flatMap (·.2)
            let t := countCvts (store s new (errs.flatMap fun e => leBytes 2 e.bits)) h errs
            let pay := gs.flatMap (·.1)
            let next (t : State) : State := thinAll r n (updJob t r fun x => { x with next := i + k })
            if g.owner j = g.self then
              let t := gs.zipIdx.foldl (fun t p =>
                updJob t r fun x => { x with buf := fmPut x.buf (thinKey (i + p.2) g.self) p.1.1 }) t
              next ((List.range k).foldl (fun t p => thinWrite t r b g (i + p)) t)
            else
              let t := store t kept pay
              match logMessage t (g.ctx (g.owner j)) (some r) h (collHdr 2 g j (hallEpoch s h) (clId b) k i pay ++ pay) with
              | none => raiseF s rDlvEvents fDlvEventsLogFull
              | some t => next t

/-- THINNED_GROUP (R347, R363, R371). -/
def execThinnedGroup (ctx : Nat) (s : State) : Out :=
  withMsg ctx 2 s fun s h g m =>
    if cmEpoch m ≠ hallEpoch s h then .next (refuseMsg s ctx 0x32)
    else if collDead s h (cmId m) then .next (takeMsg s ctx)
    else
      match collCmd s h (cmId m) with
      | none => .next s
      | some (r, c) =>
        let b := c.job.rec1
        let j := cmShard m
        let (lo, hi) := g.shard (clGroups b) j
        if clKind b ≠ 1 || clRing b ≠ g.num || g.n ≤ j || g.owner j ≠ g.self || cmFirst m < lo || hi < cmFirst m + cmCount m then
          .next (raiseCls (refuseMsg s ctx 0x13) h fClsHallEventsCheckFail)
        else
          let is := (List.range (cmCount m)).map (cmFirst m + ·)
          if addersBusy s h then .next s
          else
          match writesStuck s (is.map (thinSpan b g)) with
          | some none => .next s
          | some (some (e, a)) => .next (takeMsg (voidCmd (failCmd s r e a) r) ctx)
          | none =>
          let s := updJob s r fun x => { x with
            buf := is.foldl (fun f i => fmPut f (thinKey i (cmSender m)) (((cmPay m).drop (36 * (i - cmFirst m))).take 36)) x.buf }
          .next (collSettle (takeMsg (is.foldl (fun s i => thinWrite s r b g i) s) ctx) r)

/-! ## Gather (R380, R381) -/

/-- What a gather copies here at its dispatch: its acted shards, from the source and to RECV_ADDR. -/
def gatherSpans (s : State) (h : Nat) (b : List Byte) (g : Ring) : List (Nat × Nat) × List (Nat × Nat) :=
  let src := clSrc b + hallEpoch s h % 2 * clStride b
  let xs := (g.acts g.self).map (gatherBytes b g)
  (xs.map fun x => (src + x.1, x.2), xs.map fun x => (clRecv b + x.1, x.2))

/-- A gather's dispatch: every acted shard to every other member, and to RECV_ADDR here. -/
def gatherStart (s : State) (r : CmdRef) (b : List Byte) (g : Ring) : State :=
  let src := clSrc b + hallEpoch s r.scope % 2 * clStride b
  (g.acts g.self).foldl (fun s j =>
    let (o, n) := gatherBytes b g j
    let s := storeCopy s (src + o) (clRecv b + o) n
    (g.live.filter (· ≠ g.self)).foldl (fun s q =>
      sendUnits s (g.ctx q) (some r) 3 g j (hallEpoch s r.scope) (clId b) 0 (src + o) n) s) s

/-- PARAMETER_MESSAGE (R347, R371, R380, R381): it waits for the gather it belongs to. -/
def execParameterMessage (ctx : Nat) (s : State) : Out :=
  withMsg ctx 3 s fun s h g m =>
    if collDead s h (cmId m) then .next (takeMsg s ctx)
    else
      match collCmd s h (cmId m) with
      | none => .next s
      | some (r, c) =>
        let b := c.job.rec1
        let j := cmShard m
        if cmEpoch m ≠ hallEpoch s h then .next (takeMsg (voidCmd (endCmd s r 0x32 0 0 0) r) ctx)
        else if clKind b ≠ 2 || clRing b ≠ g.num || g.n ≤ j || g.owner j ≠ cmSender m || cmFirst m ≠ c.job.aux.getD j 0 then
          .next (raiseCls (refuseMsg s ctx 0x13) h fClsHallEventsCheckFail)
        else
          let (o, n) := gatherBytes b g j
          let k := min (64 * cmCount m) (n - 64 * cmFirst m)
          let a := clRecv b + o + 64 * cmFirst m
          match writeStuck s a k with
            | some none => .next s
            | some (some (e, x)) => .next (takeMsg (voidCmd (failCmd s r e x) r) ctx)
            | none =>
              let s := store s a ((cmPay m).take k)
              let s := updJob s r fun x => { x with aux := x.aux.set j (x.aux.getD j 0 + cmCount m) }
              .next (collSettle (takeMsg s ctx) r)

/-! ## COLLECTIVE (R361) -/

/-- The largest history value of the agreed exponent, else EXP0 (R351). -/
def agreedExp (s : State) (h : Nat) (b : List Byte) : Int :=
  let a := scaleAddr h (clRedScale b)
  match histMax s a (memNat s (a + 4) 1 % 64) (min (seLen s a) (memNat s (a + 3) 1 % 128)) with
  | some v => clampI (-512) 511 (v - 15 + seMargin s a)
  | none => clExp0 b

/-- Check 2 of R361. -/
def clFieldsOk (s : State) (h : Nat) (b : List Byte) : Bool :=
  let f := clFmt b
  leAt b 0 1 / 4 = 0 && clKind b ≤ 2 && leAt b 0x0D 1 / 64 = 0 && leAt b 0x2E 2 = 0 && leAt b 0x34 72 = 0
    && 1 ≤ clEntries b && (if clKind b = 2 then f = 0 else f = 0 || (2 ≤ f && f ≤ 5))
    && -512 ≤ clExp0 b && clExp0 b ≤ 511
    && (clKind b ≠ 2 || (1 ≤ clBlockBytes b && clBlockBytes b ≤ 4096))
    && layerOk s.run h (clLayer b) 0
    && (match ringAt s.run h (clRing b) with | some g => g.reduce | none => false)

/-- Scale entries the record names. -/
def clNamed (b : List Byte) : List Nat :=
  (if clKind b = 0 then [clRedScale b] else []) ++ (if clScaleEn b then [clSrcScale b] else [])

/-- Areas of the record as ranges: source; written ones. -/
def clReads (s : State) (h : Nat) (b : List Byte) : Nat × Nat :=
  if clKind b = 2 then (clSrc b + hallEpoch s h % 2 * clStride b, clBlocks b * clBlockBytes b)
  else clSrcRange b 0 (clEntries b)
def clRecvRange (b : List Byte) (g : Ring) : Nat × Nat :=
  (clRecv b, if clKind b = 2 then clBlocks b * clBlockBytes b else 4 * clActed b g)

/-- Check 6 of R361: the error memory of the layer (R364). -/
def errMemOk (s : State) (h : Nat) (b : List Byte) : Bool :=
  match layerRec s.run h (clLayer b) with
  | some l => 1024 * clGroups b ≤ leAt l 48 4
  | none => false

/-- Contexts a collective sends on are open for the hall (R401). -/
def clCtxs (b : List Byte) (g : Ring) : List Nat :=
  let others := g.live.filter (· ≠ g.self)
  match clKind b with
  | 0 => if others.isEmpty then [] else [g.ctx (g.next g.self)]
  | 1 => (others.filter fun q => (g.acts q).any fun j => (g.shard (clGroups b) j).1 < (g.shard (clGroups b) j).2).map g.ctx
  | _ => others.map g.ctx
def ctxsOpen (s : State) (h : Nat) (ks : List Nat) : Bool :=
  ks.all fun k => (getCtx s k).st = 2 && (getCtx s k).hall = h && !blockIsolated s 1

/-- The checks of R361 from 3 on: code and check. -/
def clChecks (s : State) (h : Nat) (b : List Byte) (g : Ring) : Option (Nat × Nat) :=
  let src := clReads s h b
  let recv := clRecvRange b g
  let ret := (clRetain b, if clKind b = 2 then 0 else clRetainLen b)
  firstFail
    [(3, 0x10, (clNamed b).all (fun e => seValid s (scaleAddr h e)) && clScaleEn b = fmtIsFp8 (clFmt b)),
     (4, 0x11, inWindow s h false src.1 src.2 && hallReach s h true recv.1 recv.2
        && (clKind b = 2 || (inWindow s h true ret.1 (max 1 ret.2) && inWindowM s h ret.1 (max 1 ret.2)))),
     (5, 0x12, clKind b = 2 || clRetainOff b g g.n ≤ clRetainLen b),
     (6, 0x12, clKind b ≠ 1 || errMemOk s h b),
     (7, 0x12, !overlap recv.1 recv.2 src.1 src.2 && !overlap recv.1 recv.2 ret.1 ret.2 && !overlap ret.1 ret.2 src.1 src.2)]

/-- The course of a dispatched collective: what it has to form and send. -/
def collGo (s : State) (r : CmdRef) : State :=
  match findCmd s r with
  | none => s
  | some c =>
    let b := c.job.rec1
    let s := match clKind b with
      | 0 => firstAdds r (clBlocks b) s
      | 1 => thinAll r (clGroups b) s
      | _ => s
    collSettle s r

/-- COLLECTIVE (R184, R196, R346, R351, R361, R380, R401): the dispatch; of one that runs, what it still has to send. R184
and R196 come first, over a record that can be read, whatever its alignment and CRC (log 296). -/
def execCollective (r : CmdRef) (err : Option ReadErr) (s : State) : Out :=
  guardUnit (r.scope < 8) <|
  match findCmd s r with
  | none => .next s
  | some c =>
    if c.st = .dispatched && c.opcode = 0x20 then .next (collGo s r)
    else
      dispatch 0x20 r s fun s c =>
        let h := r.scope
        let there := inWindow s h false c.o0 128
        readOk s r (if there then err else none) false c.o0 (if there then 128 else 0) <|
        let b := memBytes s c.o0 128
        let learn : Bool := there && clKind b < 2
        if learn && layerFrozen s.run h (clLayer b) then
          .stopIn (updJob s r fun j => { j with rec1 := b }) 0x02 0 0
        else if learn && hallGenerates s.run h then .stop 0x18 0 0
        else if !(c.o0 % 128 = 0 && there) then .gone 0x11 1
        else if crc32c (b.take 124) ≠ leAt b 124 4 then .stop 0x13 1 0
        else if !clFieldsOk s h b then .stop 0x10 2 0
            else
              match ringAt s.run h (clRing b) with
              | none => .stop 0x10 2 0
              | some g =>
                waitWhile (scaleBusy s h (clNamed b)) <|
                match clChecks s h b g with
                | some (code, check) => if code = 0x11 then .gone code check else .stop code check 0
                | none =>
                  if !ctxsOpen s h (clCtxs b g) then .stop 0x30 0 0
                  else
                    let src := clReads s h b
                    let recv := clRecvRange b g
                    let ret := (clRetain b, if clKind b = 2 then 0 else clRetainLen b)
                    let gs := if clKind b = 2 && inExplicit s h recv.1 recv.2 then [recv] else []
                    waitWhile (guardWaits s h gs) <|
                    reachGate s h [src] [recv, ret] <|
                    let now := if clKind b = 2 then gatherSpans s h b g else ([], [])
                    match (readsStuck s now.1).or (writesStuck s now.2) with
                    | some none => .wait
                    | some (some (e, a)) => failRead s r e false a
                    | none =>
                    let s := updJob s r fun j => { j with
                      rec1 := b, reads := [src], writes := [recv, ret], guards := gs
                      held := if clKind b = 2 then [src] else []
                      kA := if clScaleEn b then seAppliedK s (scaleAddr h (clSrcScale b)) else 0
                      kOut := agreedExp s h b, aux := List.replicate (max 1 g.n) 0 }
                    let v := getClo s h
                    let s := setClo s h { v with
                      colls := { id := clId b, bytes := b, ring := g } :: v.colls.filter fun x => x.id ≠ clId b }
                    .go (collGo (if clKind b = 2 then gatherStart s r b g else s) r)

end Sys2Proof.Machine
end

