-- ==== Sys2Proof/Machine/Update.lean ====
section
/-! DEFINITION. Owner updates (R366 to R370, R382): their items, the mirror to the second owner, retained data, and HALT,
which ends an item's program (R139, R141). -/

namespace Sys2Proof.Machine

/-! ## The update record (R366) -/

def ouRole (b : List Byte) : Nat := leAt b 0 1 % 2
def ouRefetch (b : List Byte) : Bool := bitOf (leAt b 0 1) 1
def ouRing (b : List Byte) : Nat := leAt b 1 1
def ouLayer (b : List Byte) : Nat := leAt b 2 2
def ouId (b : List Byte) : Nat := leAt b 4 4
def ouShard (b : List Byte) : Nat := leAt b 8 2
def ouBlockBytes (b : List Byte) : Nat := leAt b 0x0A 2
def ouStateBytes (b : List Byte) : Nat := leAt b 0x0C 1
def ouStride (b : List Byte) : Nat := leAt b 0x20 6
def ouGrad (b : List Byte) : Nat := leAt b 0x28 6
def ouProg (b : List Byte) : Nat := leAt b 0x30 6
/-- Bank `k` of the parameter array and of the state array. -/
def ouParam (b : List Byte) (k : Nat) : Nat := leAt b 0x10 6 + k % 2 * ouStride b
def ouState (b : List Byte) (k : Nat) : Nat := leAt b 0x18 6 + k % 2 * ouStride b

/-- What a running update keeps in `aux`: retained data still to come, mirror sent, mirror units received, epoch. -/
def ouWaits (c : Cmd) : Bool := c.job.aux.getD 0 0 = 1
def ouEpoch (c : Cmd) : Nat := c.job.aux.getD 3 0

/-- Blocks of parameters of the shard: first and end (R345, R362, R366). -/
def ouBlocks (cb : List Byte) (g : Ring) (j : Nat) : Nat × Nat :=
  let (lo, hi) := g.shard (clUnits cb) j
  let k := clPer cb / 32
  (k * lo, min (k * hi) (clBlocks cb))
/-- Byte ranges of the shard in the parameter array and in the state array: offset and length. -/
def ouParamBytes (b cb : List Byte) (g : Ring) : Nat × Nat :=
  let (lo, hi) := ouBlocks cb g (ouShard b)
  (lo * ouBlockBytes b, (hi - lo) * ouBlockBytes b)
def ouStateRange (b cb : List Byte) (g : Ring) : Nat × Nat :=
  let (e, n) := clShard cb g (ouShard b)
  (e * ouStateBytes b, n * ouStateBytes b)
/-- Units of 64 bytes a mirror carries: parameters, then state (R369; log 64). -/
def ouUnits (b cb : List Byte) (g : Ring) : Nat × Nat :=
  (ceilDiv (ouParamBytes b cb g).2 64, ceilDiv (ouStateRange b cb g).2 64)

/-- The collective and ring of an update, while it runs. -/
def ouColl (s : State) (h : Nat) (b : List Byte) : Option (Coll × Ring) :=
  match findColl s h (ouId b), ringAt s.run h (ouRing b) with
  | some c, some g => some (c, g)
  | _, _ => none

/-- An update succeeds once its items and its mirror are done and acknowledged, or every mirrored byte is written
(R369). -/
def updSettle (s : State) (r : CmdRef) : State :=
  match findCmd s r with
  | none => s
  | some c =>
    let b := c.job.rec1
    if c.st ≠ .dispatched ∨ c.opcode ≠ 0x21 then s
    else if ouRole b = 1 then
      (match ouColl s r.scope b with
      | some (x, g) =>
        let u := ouUnits b x.bytes g
        if u.1 + u.2 ≤ c.job.aux.getD 2 0 then succeed s r 0 0 else s
      | none => s)
    else if !ouWaits c && c.job.total ≤ c.job.done.length && !cmdUnacked s r then succeed s r c.job.total 0
    else s

/-- Once every item is done, the shard's written bytes go to the second owner (R369). -/
def mirrorOut (s : State) (r : CmdRef) : State :=
  match findCmd s r with
  | none => s
  | some c =>
    let b := c.job.rec1
    if c.st = .dispatched && c.opcode = 0x21 && ouRole b = 0 && !ouWaits c && c.job.total ≤ c.job.done.length
        && c.job.aux.getD 1 0 = 0 then
      let s := updJob s r fun j => { j with aux := j.aux.set 1 1 }
      match ouColl s r.scope b with
      | some (x, g) =>
        (match g.backer (ouShard b) with
        | some q =>
          let (po, pn) := ouParamBytes b x.bytes g
          let (so, sn) := ouStateRange b x.bytes g
          let e := ouEpoch c
          let s := sendUnits s (g.ctx q) (some r) 6 g (ouShard b) e (ouId b) 0 (ouParam b (e + 1) + po) pn
          sendUnits s (g.ctx q) (some r) 6 g (ouShard b) e (ouId b) (ceilDiv pn 64) (ouState b (e + 1) + so) sn
        | none => s)
      | none => s
    else s

/-! ## Items (R367, R368) -/

/-- First entry and entries of item `i` of the shard. -/
def ouItem (x : Coll) (g : Ring) (b : List Byte) (i : Nat) : Nat × Nat :=
  let (e, n) := clShard x.bytes g (ouShard b)
  (e + 4096 * i, min 4096 (n - 4096 * i))

/-- What item `i` reads: its gradients, and the parameters and state of bank e mod 2. -/
def updReads (b : List Byte) (e i e0 n : Nat) : List (Nat × Nat) :=
  [(ouGrad b + 4 * 4096 * i, 4 * n), (ouParam b e + e0 / 32 * ouBlockBytes b, ceilDiv n 32 * ouBlockBytes b),
   (ouState b e + e0 * ouStateBytes b, n * ouStateBytes b)]
/-- What stops the fill of the Landing for item `i`. -/
def updStuck (s : State) (r : CmdRef) (c : Cmd) (i : Nat) : Option Stuck :=
  match ouColl s r.scope c.job.rec1 with
  | none => none
  | some (x, g) =>
    let (e0, n) := ouItem x g c.job.rec1 i
    readsStuck s (updReads c.job.rec1 (ouEpoch c) i e0 n)

/-- A tread takes item `i`: the Landing is filled, S0 to S2 are set, the program starts (R367). -/
def updTake (s : State) (r : CmdRef) (c : Cmd) (t i : Nat) : State :=
  let b := c.job.rec1
  match ouColl s r.scope b with
  | none => s
  | some (x, g) =>
    let (e0, n) := ouItem x g b i
    let e := ouEpoch c
    let l := landingBase t
    let s := memCopy s (ouGrad b + 4 * 4096 * i) l (4 * n)
    let s := memCopy s (ouParam b e + e0 / 32 * ouBlockBytes b) (l + 0x10000) (ceilDiv n 32 * ouBlockBytes b)
    let s := memCopy s (ouState b e + e0 * ouStateBytes b) (l + 0x90000) (n * ouStateBytes b)
    let tr := getT s t
    let tr := { tr with s := [], prog := { cmd := some r, item := i, words := progWords c.job.rec2 (c.job.rec2.length / 8) } }
    let tr := setScalar (setScalar (setScalar tr 0 (BitVec.ofNat 64 n)) 1 (BitVec.ofNat 64 e0)) 2 (BitVec.ofNat 64 e)
    treadStatus (setT s t tr) t

/-- A weight of a PARTIAL layer is trainable (R187, R188, R368); every weight of another layer is. -/
def trainable (s : State) (h layer i : Nat) : Bool :=
  match layerRec s.run h layer with
  | some l =>
    if bitOf (leAt l 0 1) 1 then
      let o := i / leAt l 32 4
      let j := i % leAt l 32 4
      let a := leAt l 16 6
      bitOf (memNat s (a + o / 8) 1) (o % 8) && bitOf (memNat s (a + leAt l 24 4 + j / 8) 1) (j % 8)
    else true
  | none => true

/-- A parameter block with the entries that are not trainable kept from the old one: entry `i` holds the bits from
i × ⌊8 × BLOCK_BYTES ÷ 32⌋; bytes beyond the entries, which every entry shares, stay where one entry must (R188, R368; log
63). -/
def keepBlock (new old : List Byte) (train : Nat → Bool) : List Byte :=
  if (List.range 32).all train then new
  else if (List.range 32).all fun i => !train i then old
  else
    let w := 8 * new.length / 32
    let o := leNat old
    leBytes new.length ((List.range 32).foldl (fun v i => if train i then setBits v (w * i) w (bitsOf (leNat new) (w * i) w) else v)
      o)

/-- Take the written values of item `k` into the update's norm sums: slots 0, 2 and 3, from what goes to bank e + 1, the
gradients and bank e (R368). -/
def updNorms (s : State) (c : Cmd) (t k e0 n : Nat) (train : Nat → Bool) : List (Nat × NormAcc) :=
  let b := c.job.rec1
  let l := landingBase t
  let old := ouParam b (ouEpoch c) + e0 / 32 * ouBlockBytes b
  let grad := ouGrad b + 4 * 4096 * k
  let blk (base i : Nat) : List Byte := memBytes s (base + i / 32 * ouBlockBytes b) (ouBlockBytes b)
  let val (base i : Nat) : Nat := (Config.paramVal (ouBlockBytes b) (blk base i) (i % 32)).toNat
  let is := (List.range n).filter fun i => train (e0 + i)
  c.job.norms.zipIdx.map fun ((a, acc), k) =>
    let ex := normExp s a
    (a, is.foldl (fun acc i =>
      let v := match k with
        | 0 => val (l + 0xB0000) i
        | 1 => memNat s (grad + 4 * i) 4
        | _ => sub32 (val (l + 0xB0000) i) (val old i)
      normTake acc ex (fDecode ifmt32 v)) acc)

/-- What stops the writes of item `i` to bank e + 1, and the reads of the kept bytes. -/
def updPutStuck (s : State) (r : CmdRef) (c : Cmd) (i : Nat) : Option Stuck :=
  let b := c.job.rec1
  match ouColl s r.scope b with
  | none => none
  | some (x, g) =>
    let (e0, n) := ouItem x g b i
    (readsStuck s (updReads b (ouEpoch c) i e0 n)).or (writesStuck s ((updReads b (ouEpoch c + 1) i e0 n).drop 1))

/-- An update's item ends: what the program wrote goes to bank e + 1; a weight that is not trainable keeps its bytes and its
state from bank e (R188, R367, R368). -/
def updPut (s : State) (r : CmdRef) (c : Cmd) (t i : Nat) : State :=
  let b := c.job.rec1
  match ouColl s r.scope b with
  | none => s
  | some (x, g) =>
    let (e0, n) := ouItem x g b i
    let e := ouEpoch c
    let l := landingBase t
    let bb := ouBlockBytes b
    let sb := ouStateBytes b
    let tr (k : Nat) : Bool := trainable s r.scope (ouLayer b) k
    let pays := (List.range (ceilDiv n 32)).flatMap fun k =>
      keepBlock (memBytes s (l + 0xB0000 + bb * k) bb) (memBytes s (ouParam b e + e0 / 32 * bb + bb * k) bb)
        fun u => tr (e0 + 32 * k + u)
    let sts := (List.range n).flatMap fun k =>
      memBytes s (if tr (e0 + k) then l + 0x130000 + sb * k else ouState b e + (e0 + k) * sb) sb
    let ns := updNorms s c t i e0 n tr
    let s := store s (ouParam b (e + 1) + e0 / 32 * bb) pays
    let s := store s (ouState b (e + 1) + e0 * sb) sts
    updJob s r fun j => { j with norms := ns }

/-- HALT (R139, R141): the program ends and its item is done; the item of an owner update is written out first, and its
last item sends the mirror (R367, R369). -/
def execHalt (t : Nat) (s : State) : Out :=
  vecOp t 0x3f s fun s tr _ =>
    match tr.prog.cmd with
    | none => haltProgram s t tr
    | some r =>
      match findCmd s r with
      | none => haltProgram s t tr
      | some c =>
        if c.opcode = 0x21 && c.st = .dispatched then
          match updPutStuck s r c tr.prog.item with
          | some none => .next s
          | some (some (e, a)) => haltProgram (failCmd s r e a) t tr
          | none =>
            match haltProgram (updPut s r c t tr.prog.item) t tr with
            | .next s => .next (updSettle (mirrorOut s r) r)
            | o => o
        else haltProgram s t tr

/-! ## Mirror bytes (R369) -/

/-- The dispatched update of a collective's shard in a role. -/
def updCmd? (s : State) (h id shard role : Nat) : Option (CmdRef × Cmd) :=
  (scopeCmds s h).find? fun p =>
    p.2.st = .dispatched && p.2.opcode = 0x21 && ouId p.2.job.rec1 = id && ouShard p.2.job.rec1 = shard
      && ouRole p.2.job.rec1 = role

/-- MIRROR_BYTES (R347, R369, R371): it waits for the ROLE 1 update it belongs to. -/
def execMirrorBytes (ctx : Nat) (s : State) : Out :=
  withMsg ctx 6 s fun s h g m =>
    if cmEpoch m ≠ hallEpoch s h then .next (refuseMsg s ctx 0x32)
    else
      match updCmd? s h (cmId m) (cmShard m) 1 with
      | none => .next s
      | some (r, c) =>
        let b := c.job.rec1
        match ouColl s h b with
        | none => .next s
        | some (x, _) =>
          let (pu, su) := ouUnits b x.bytes g
          if cmFirst m ≠ c.job.aux.getD 2 0 || pu + su < cmFirst m + cmCount m || (cmFirst m < pu && pu < cmFirst m + cmCount m)
              || g.owner (cmShard m) ≠ cmSender m then
            .next (raiseCls (refuseMsg s ctx 0x13) h fClsHallEventsCheckFail)
          else
            let (o, n) := if cmFirst m < pu then ouParamBytes b x.bytes g else ouStateRange b x.bytes g
            let base := if cmFirst m < pu then ouParam b (ouEpoch c + 1) else ouState b (ouEpoch c + 1)
            let u := if cmFirst m < pu then cmFirst m else cmFirst m - pu
            let pay := (cmPay m).take (n - 64 * u)
            match writeStuck s (base + o + 64 * u) pay.length with
            | some none => .next s
            | some (some (e, a)) => .next (takeMsg (voidCmd (failCmd s r e a) r) ctx)
            | none =>
            let s := store s (base + o + 64 * u) pay
            let s := updJob s r fun j => { j with aux := j.aux.set 2 (j.aux.getD 2 0 + cmCount m) }
            .next (updSettle (takeMsg s ctx) r)

/-! ## Retained data (R359, R365, R370) -/

/-- Bytes that a member retains of shard `j` under the ring of the collective's dispatch. -/
def keptBytes (x : Coll) (j : Nat) : Nat :=
  let (lo, hi) := x.ring.shard (clUnits x.bytes) j
  (if clKind x.bytes = 1 then 36 else 80) * (hi - lo)
/-- What this member retains of shard `j`, where it retains some. -/
def keptHere (s : State) (x : Coll) (j : Nat) : Option (List Byte) :=
  if clKeeps x.bytes x.ring j then some (memBytes s (clRetain x.bytes + clRetainOff x.bytes x.ring j) (keptBytes x j)) else none
/-- Positions whose data rebuild shard `j`: the sender of its final blocks, or every sender of groups. -/
def keepers (x : Coll) (j : Nat) : List Nat :=
  if clKind x.bytes = 1 then x.ring.live.filter (· ≠ x.ring.owner j) else [x.ring.last j]

/-- Bytes that hold what this member retains of shard `j`. -/
def keptSpan (x : Coll) (j : Nat) : Nat × Nat := (clRetain x.bytes + clRetainOff x.bytes x.ring j, keptBytes x j)

/-- Rebuild GRAD from the data of every keeper (R358, R363, R370); none when a residue fails. The blocks of a shard that a
lost owner acted for give this member's commit the figures of R358, once. Groups of KIND 1 that the lost owner formed for
its own shard were retained by nobody; the sum is R363's over the positions that are there (log 297). -/
def rebuildGrad (s : State) (h : Nat) (x : Coll) (b : List Byte) (j : Nat) (data : List (Nat × List Byte)) : Option State :=
  let cb := x.bytes
  let (lo, hi) := x.ring.shard (clUnits cb) j
  if clKind cb = 1 then
    let own := if x.ring.owner j = x.ring.self then
        let k := if clScaleEn cb then seAppliedK s (scaleAddr h (clSrcScale cb)) else 0
        [(x.ring.self, (List.range (hi - lo)).flatMap fun i => (thinGroup s h cb k (lo + i)).1)]
      else []
    let all := data ++ own
    let ps := x.ring.live.filterMap fun p => (all.find? fun d => d.1 = p).map (·.2)
    some ((List.range (hi - lo)).foldl (fun s i =>
      let vs := thinVals (ps.map fun d => (d.drop (36 * i)).take 36) (min 256 (clEntries cb - 256 * (lo + i)))
      store s (ouGrad b + 1024 * i) (vs.flatMap (leBytes 4))) s)
  else
    let d := match data with | (_, y) :: _ => y | [] => []
    let cs := (List.range (hi - lo)).map fun i => rblkOf ((d.drop (80 * i)).take 80)
    if !cs.all fun c => residueOf c.mant = c.residue then none
    else
      let vs := cs.zipIdx.map fun p => (p.1.mant.take (min 32 (clEntries cb - 32 * (lo + p.2)))).map (finalVal p.1)
      let s := vs.zipIdx.foldl (fun s p => store s (ouGrad b + 128 * p.2) (p.1.flatMap (leBytes 4))) s
      some (updColl s h x.id fun y =>
        if y.ring.owner j = y.ring.self || y.taken.contains j then y
        else { y with
          maxExp := max y.maxExp (topExp vs.flatten), rescales := y.rescales + (cs.map (·.rescales)).foldl (· + ·) 0
          taken := j :: y.taken })

/-- Ask a member for retained units from `first` on: a message of TYPE 5 from the acting owner, with one unit of zeros (R349,
R370; log 60). -/
def askKept (s : State) (r : CmdRef) (g : Ring) (b : List Byte) (p first : Nat) : Option State :=
  logMessage s (g.ctx p) (some r) r.scope
    (collHdr 5 g (ouShard b) (hallEpoch s r.scope) (ouId b) 1 first (zeros 64) ++ zeros 64)

/-- A refetching update asks for what it lacks, and rebuilds GRAD once it has all (R370). -/
def refetch (s : State) (r : CmdRef) : State :=
  match findCmd s r with
  | none => s
  | some c =>
    let b := c.job.rec1
    match ouColl s r.scope b with
    | none => s
    | some (x, g) =>
      if c.st ≠ .dispatched ∨ c.opcode ≠ 0x21 ∨ ouWaits c = false then s
      else
        let j := ouShard b
        let ps := keepers x j
        let got (p : Nat) : List Byte :=
          if p = g.self then (keptHere s x j).getD [] else (fmFind c.job.buf p).getD []
        if ps.all fun p => keptBytes x j ≤ (got p).length then
          match (readsStuck s (if ps.contains g.self then [keptSpan x j] else [])).or
              (writeStuck s (ouGrad b) (4 * (clShard x.bytes x.ring j).2)) with
          | some none => s
          | some (some (e, a)) => voidCmd (failCmd s r e a) r
          | none =>
          match rebuildGrad s r.scope x b j (ps.map fun p => (p, got p)) with
          | some s => mirrorOut (updJob s r fun k => { k with aux := k.aux.set 0 0, buf := [] }) r
          | none => residueFail s r
        else
          ps.foldl (fun s p =>
            let asked := match findCmd s r with | some c => c.job.groupsDone.contains p | none => true
            if keptBytes x j ≤ (got p).length || asked then s
            else
              match askKept s r g b p ((got p).length / 64) with
              | some s => updJob s r fun k => { k with groupsDone := p :: k.groupsDone }
              | none => raiseF s rDlvEvents fDlvEventsLogFull) s

/-- RETAINED_REPLAY (R347, R370, R371): a request, which comes from the shard's acting owner, is answered from the retention; data goes to the update that asked. -/
def execRetainedReplay (ctx : Nat) (s : State) : Out :=
  withMsg ctx 5 s fun s h g m =>
    if cmEpoch m ≠ hallEpoch s h then .next (refuseMsg s ctx 0x32)
    else if g.owner (cmShard m) = cmSender m then
      match (findColl s h (cmId m)).bind fun x => (keptHere s x (cmShard m)).map fun d => (d, keptSpan x (cmShard m)) with
      | none => .next (refuseMsg s ctx 0x21)
      | some (d, sp) =>
        match readStuck s sp.1 sp.2 with
        | some none => .next s
        | some (some (e, a)) => .next (refuseMsg (recordErr s e a) ctx (errCode e))
        | none =>
        let d := d.drop (64 * cmFirst m)
        let n := min 1023 (ceilDiv d.length 64)
        let pay := d.take (64 * n)
        let pay := pay ++ zeros (64 * n - pay.length)
        if n = 0 then .next (takeMsg s ctx)
        else
          match logMessage s (g.ctx (cmSender m)) none h (collHdr 5 g (cmShard m) (hallEpoch s h) (cmId m) n (cmFirst m) pay ++ pay) with
          | some s => .next (takeMsg s ctx)
          | none => .next (raiseF s rDlvEvents fDlvEventsLogFull)
    else
      match updCmd? s h (cmId m) (cmShard m) 0 with
      | none => .next (takeMsg s ctx)
      | some (r, c) =>
        match ouColl s h c.job.rec1 with
        | none => .next (takeMsg s ctx)
        | some (x, _) =>
          let p := cmSender m
          let old := (fmFind c.job.buf p).getD []
          if old.length ≠ 64 * cmFirst m then .next (raiseCls (refuseMsg s ctx 0x13) h fClsHallEventsCheckFail)
          else
            let new := (old ++ cmPay m).take (keptBytes x (cmShard m))
            let s := updJob s r fun k => { k with buf := fmPut k.buf p new, groupsDone := k.groupsDone.filter (· ≠ p) }
            .next (updSettle (refetch (takeMsg s ctx) r) r)

/-! ## OWNER_UPDATE -/

/-- Reserved fields, ranges and names of an update record (R366). -/
def ouFieldsOk (s : State) (h : Nat) (b : List Byte) : Bool :=
  leAt b 0 1 < 4 && leAt b 0x0D 3 = 0 && leAt b 0x16 2 = 0 && leAt b 0x1E 2 = 0 && leAt b 0x26 2 = 0 && leAt b 0x2E 2 = 0
    && leAt b 0x36 6 = 0 && 1 ≤ ouBlockBytes b && ouBlockBytes b ≤ 4096 && ouStateBytes b ≤ 32 && layerOk s.run h (ouLayer b) 0
    && (match ouColl s h b with
      | some (x, g) =>
        g.reduce && clKind x.bytes < 2 && clRing x.bytes = ouRing b && ouShard b < g.n
          && (if ouRole b = 0 then g.owner (ouShard b) = g.self else g.backer (ouShard b) = some g.self && !ouRefetch b)
      | none => false)

/-- Reaches of an update at epoch `e`: read and written ranges. -/
def ouReach (b : List Byte) (x : Coll) (g : Ring) (e : Nat) : List (Nat × Nat) × List (Nat × Nat) :=
  let (po, pn) := ouParamBytes b x.bytes g
  let (so, sn) := ouStateRange b x.bytes g
  let grad := (ouGrad b, 4 * (clShard x.bytes g (ouShard b)).2)
  let ws := [(ouParam b (e + 1) + po, pn), (ouState b (e + 1) + so, sn)]
  if ouRole b = 1 then ([], ws)
  else if ouRefetch b then ([(ouParam b e + po, pn), (ouState b e + so, sn)], grad :: ws)
  else ([(ouParam b e + po, pn), (ouState b e + so, sn), grad], ws)

/-- Banks lie in class M; GRAD in windows or explicit buffers; the layer's norm slots in windows that admit writes (R26, R191,
R366). -/
def ouReachOk (s : State) (h : Nat) (b : List Byte) (x : Coll) (g : Ring) (e : Nat) : Bool :=
  let (rs, ws) := ouReach b x g e
  let grad := (ouGrad b, 4 * (clShard x.bytes g (ouShard b)).2)
  let na := match layerRec s.run h (ouLayer b) with | some l => leAt l 8 6 | none => 0
  let norms := if na = 0 || ouRole b = 1 then [] else [(na, 32), (na + 64, 32), (na + 96, 32)]
  (norms.all fun q => inWindow s h true q.1 q.2) && (rs.all fun q => q.2 = 0 || hallReach s h false q.1 q.2) && (ws.all fun q => q.2 = 0 || hallReach s h true q.1 q.2)
    && ((rs ++ ws).all fun q => q = grad || q.2 = 0 || inWindowM s h q.1 q.2)

/-- OWNER_UPDATE (R161, R184, R196, R366 to R370, R401): the dispatch; of one that runs, what it still has to ask or send. R184
and R196 come first, over a record that can be read, whatever its alignment and CRC (log 296). -/
def execOwnerUpdate (r : CmdRef) (err : Option ReadErr) (s : State) : Out :=
  guardUnit (r.scope < 8) <|
  match findCmd s r with
  | none => .next s
  | some c =>
    if c.st = .dispatched && c.opcode = 0x21 then .next (updSettle (mirrorOut (refetch s r) r) r)
    else
      dispatch 0x21 r s fun s c =>
        let h := r.scope
        let there := inWindow s h false c.o0 64
        readOk s r (if there then err else none) true c.o0 (if there then 64 else 0) <|
        let b := memBytes s c.o0 64
        if there && layerFrozen s.run h (ouLayer b) then .stop 0x02 0 0
        else if hallGenerates s.run h then .stop 0x18 0 0
        else if !(c.o0 % 64 = 0 && there) then .gone 0x11 0
        else if crc32c (b.take 60) ≠ leAt b 60 4 then .stop 0x13 0 0
        else if !ouFieldsOk s h b then .stop 0x10 0 0
          else
            match ouColl s h b with
            | none => .stop 0x10 0 0
            | some (x, g) =>
              let e := hallEpoch s h
              let role := ouRole b
              if !ouReachOk s h b x g e then .gone 0x11 0
              else
                match (if role = 0 then progCheck s h (ouProg b) else none) with
                | some 0x11 => .gone 0x11 0
                | some 0x13 => .stopIn (raiseProgCheck s h) 0x13 0 0
                | some code => .stop code 0 0
                | none =>
                  let n := memNat s (ouProg b) 4
                  let pb := if role = 0 then memBytes s (ouProg b + 32) (8 * n) else []
                  let far := (match g.backer (ouShard b) with | some q => if role = 0 then [g.ctx q] else [] | none => [])
                    ++ (if ouRefetch b then ((keepers x (ouShard b)).filter (· ≠ g.self)).map g.ctx else [])
                  if progBadTable s h (progWords pb n) then .stop 0x13 0 0
                  else if !ctxsOpen s h far then .stop 0x30 0 0
                  else
                    let (rs, ws) := ouReach b x g e
                    waitWhile (role = 0 && slotsFull s h) <|
                    reachGate s h rs ws <|
                    let total := if role = 1 then 0 else ceilDiv (clShard x.bytes g (ouShard b)).2 4096
                    let na := match layerRec s.run h (ouLayer b) with | some l => leAt l 8 6 | none => 0
                    let s := updJob s r fun j => { j with
                      total := total, rec1 := b, rec2 := pb, reads := rs, writes := ws
                      norms := if na = 0 ∨ role = 1 then [] else [(na, {}), (na + 64, {}), (na + 96, {})]
                      aux := [if ouRefetch b then 1 else 0, 0, 0, e] }
                    let v := getClo s h
                    let u : Upd := { coll := ouId b, shard := ouShard b, role := role }
                    let s := setClo s h { v with
                      upds := u :: v.upds.filter fun y => !(y.coll = u.coll && y.shard = u.shard && y.role = u.role) }
                    .go (updSettle (mirrorOut (refetch s r) r) r)

end Sys2Proof.Machine
end

