-- ==== Sys2Proof/Machine/Commit.lean ====
section
/-! DEFINITION. Epochs and the step commit (R371 to R379): the token's passes, the commit record, abandonment, members in
doubt, and what a lost position ends (R346). -/

namespace Sys2Proof.Machine

/-! ## The token (R374) -/

/-- A token's body: PASS, RESUME, DECIDED, the table's entries and CRC, MERGED, and the values of the entries. -/
def tokBody (pass : Nat) (resume decided : Bool) (table : List Byte) (merged : Nat) (vals : List (Int × Nat)) : List Byte :=
  leBytes 1 (pass + (if resume then 4 else 0) + (if decided then 8 else 0)) ++ zeros 1 ++ leBytes 2 (table.length / 8)
    ++ leBytes 4 (crc32c table) ++ leBytes 2 merged ++ zeros 6
    ++ vals.flatMap fun v => intBytes 1 v.1 ++ zeros 1 ++ leBytes 2 v.2
def tokPass (b : List Byte) : Nat := leAt b 0 1 % 4
def tokResume (b : List Byte) : Bool := bitOf (leAt b 0 1) 2
def tokDecided (b : List Byte) : Bool := bitOf (leAt b 0 1) 3
def tokEntries (b : List Byte) : Nat := leAt b 2 2
def tokCrc (b : List Byte) : Nat := leAt b 4 4
def tokMerged (b : List Byte) : Nat := leAt b 8 2
def tokVals (b : List Byte) : List (Int × Nat) :=
  (List.range (tokEntries b)).map fun t => (sext 8 (leAt b (16 + 4 * t) 1), leAt b (18 + 4 * t) 2)

/-- This member's own values, by table entry (R358, R363, R374). -/
def ownVals (s : State) (h : Nat) (table : List Byte) : List (Int × Nat) :=
  (tableIds table).map fun id =>
    match findColl s h id with
    | some c => (c.maxExp, satAdd 16 0 c.rescales)
    | none => (-128, 0)
/-- The larger exponents and saturating sums (R374). -/
def mergeVals (a b : List (Int × Nat)) : List (Int × Nat) := (a.zip b).map fun p => (max p.1.1 p.2.1, satAdd 16 p.1.2 p.2.2)

/-- Send a token body to the next position; none while the log is full. -/
def sendToken (s : State) (cmd : Option CmdRef) (h : Nat) (g : Ring) (epoch : Nat) (body : List Byte) : Option State :=
  let n := ceilDiv body.length 64
  let pay := body ++ zeros (64 * n - body.length)
  logMessage s (g.ctx (g.next g.self)) cmd h (collHdr 4 g 0 epoch 0 n 0 pay ++ pay)

/-- The dispatched STEP_COMMIT of a hall for an epoch, and where it stands: 0 waits, 1 has joined the collect pass. -/
def scCmd (s : State) (h e : Nat) : Option (CmdRef × Cmd) := (hallCommits s h).find? fun p => scEpoch p.2 = e
def scPhase (c : Cmd) : Nat := c.job.aux.getD 0 0
def setPhase (s : State) (r : CmdRef) : State := updJob s r fun j => { j with aux := [1] }
/-- The member has already applied the record for `e` (R377). -/
def appliedFor (s : State) (h e : Nat) : Option (List Byte) :=
  match (getClo s h).record with
  | some (re, b) => if re = e && hallEpoch s h = (e + 1) % 2 ^ 32 then some b else none
  | none => none

/-! ## Applying a record (R375) -/

/-- The scale entries of a commit table take their values (R109, R375). -/
def applyScales (h : Nat) (table : List Byte) : List ((Int × Nat) × Nat) → State → State
  | [], s => s
  | ((x, n), t) :: vs, s =>
    if bitOf (leAt table (8 * t + 6) 1) 0 then
      let a := scaleAddr h (leAt table (8 * t + 4) 2)
      let s := pushHist s a x (some (fp32Of false 1 x))
      applyScales h table vs (memPutNat s (a + 0x14) 4 (memNat s (a + 0x14) 4 + n))
    else applyScales h table vs s

/-- COMMIT_RECORD_APPLY: journal, epoch, scale entries, retention, completion, in this order (R374, R375). -/
def applyRecord (s : State) (r : CmdRef) (c : Cmd) (body : List Byte) : State :=
  let h := r.scope
  let table := c.job.rec1
  let v := getClo s h
  let s := setClo s h { v with record := some (scEpoch c, body) }
  let s := setF s (rClsHallEpoch h) fClsHallEpochEpoch (scEpoch c + 1)
  let s := applyScales h table (tokVals body).zipIdx s
  let ids := tableIds table
  let v := getClo s h
  let s := setClo s h { v with
    colls := v.colls.filter fun x => !ids.contains x.id, upds := v.upds.filter fun u => !ids.contains u.coll }
  let s := setF s (rClsHallCommit h) fClsHallCommitState 0
  let s := bumpF s (rClsHallCommit h) fClsHallCommitCommits 1
  succeed (raiseCls s h fClsHallEventsCommitted) r 0 c.o3

/-! ## The passes (R374, R376, R377) -/

/-- The lead position decides: it adopts a decided record, else takes what was merged; it starts the announce pass and
applies the record, or completes as already complete (R374, R377). None while the log is full. -/
def decide' (s : State) (r : CmdRef) (c : Cmd) (g : Ring) (body : List Byte) : Option State :=
  let e := scEpoch c
  let rec' := tokBody 2 (scResume c) true c.job.rec1 (tokMerged body) (tokVals body)
  match (if g.next g.self = g.self then some s else sendToken s (some r) r.scope g e rec') with
  | none => none
  | some s =>
    match appliedFor s r.scope e with
    | some _ => some (setF (endCmd s r 0x01 0 0 c.o3) (rClsHallCommit r.scope) fClsHallCommitState 0)
    | none => some (applyRecord s r c rec')

/-- A waiting collect token goes on once this member is ready: merged, or filled from its journalled record, which then
completes the command (R374, R377). -/
def mergeToken (s : State) (h : Nat) : State :=
  let v := getClo s h
  match v.token with
  | none => s
  | some m =>
    let e := cmEpoch m
    match scCmd s h e, ringAt s.run h (cmRing m) with
    | some (r, c), some g =>
      let body := cmPay m
      let done := appliedFor s h e
      if scPhase c ≠ 0 then s
      else if tokCrc body ≠ crc32c c.job.rec1 || tokEntries body ≠ c.job.rec1.length / 8 then
        setF (endCmd (setClo s h { v with token := none }) r 0x10 0 0 0) (rClsHallCommit h) fClsHallCommitState 0
      else if done.isNone && !commitReady s h c.job.rec1 then s
      else
        let n := tokMerged body + 1
        let out := match done with
          | some b => tokBody 1 (tokResume body) true c.job.rec1 n (tokVals b)
          | none =>
            if tokDecided body then tokBody 1 (tokResume body) true c.job.rec1 n (tokVals body)
            else tokBody 1 (tokResume body) false c.job.rec1 n (mergeVals (tokVals body) (ownVals s h c.job.rec1))
        match sendToken s (some r) h g e out with
        | none => raiseF s rDlvEvents fDlvEventsLogFull
        | some s =>
          let s := setPhase (setClo s h { getClo s h with token := none }) r
          if done.isSome then setF (endCmd s r 0x01 0 0 c.o3) (rClsHallCommit h) fClsHallCommitState 0 else s
    | _, _ => s

/-- The step ends abandoned here: its STEP_COMMIT, its retention, its token (R376). -/
def abandonHere (s : State) (h e : Nat) : State :=
  let s := (hallCommits s h).foldl (fun s p => if scEpoch p.2 = e then voidCmd (endCmd s p.1 0x33 0 0 0) p.1 else s) s
  let v := getClo s h
  let s := setClo s h { v with colls := v.colls.filter fun x => x.st = 0, upds := [], token := none }
  raiseCls (setF s (rClsHallCommit h) fClsHallCommitState 0) h fClsHallEventsAbandoned

/-- COMMIT_TOKEN (R347, R371, R374 to R377): a token that has come, or one that waits for this member to be ready. -/
def execCommitToken (ctx : Nat) (s : State) : Out :=
  guardUnit (ctxNum ctx) <|
  match (getCtx s ctx).whole with
  | none => .next (if (getCtx s ctx).hall < 8 then mergeToken s (getCtx s ctx).hall else s)
  | some _ =>
    withMsg ctx 4 s fun s h g m =>
      let body := cmPay m
      let e := cmEpoch m
      let lead := g.lead = g.self
      let s := setF s (rClsHallCommit h) fClsHallCommitMerged (tokMerged body)
      let fwd (s : State) (cmd : Option CmdRef) : Out :=
        match sendToken s cmd h g e body with
        | some s => .next (takeMsg s ctx)
        | none => .next (raiseF s rDlvEvents fDlvEventsLogFull)
      match tokPass body with
      | 1 =>
        if lead then
          if (getClo s h).abandoning then .next (takeMsg s ctx)
          else
            (match scCmd s h e with
            | some (r, c) =>
              if scPhase c = 0 then .next (takeMsg s ctx)
              else
                match decide' s r c g body with
                | some s => .next (takeMsg s ctx)
                | none => .next (raiseF s rDlvEvents fDlvEventsLogFull)
            | none => .next (takeMsg s ctx))
        else .next (mergeToken (takeMsg (setClo s h { getClo s h with token := some m }) ctx) h)
      | 2 =>
        if lead then .next (takeMsg s ctx)
        else
          (match scCmd s h e, appliedFor s h e with
          | some (r, c), none =>
            (match sendToken s none h g e body with
            | some s => .next (takeMsg (applyRecord s r c body) ctx)
            | none => .next (raiseF s rDlvEvents fDlvEventsLogFull))
          | _, some _ => fwd s none
          | none, none => .next s)
      | 3 =>
        if lead then .next (takeMsg (setClo s h { getClo s h with abandoning := false }) ctx)
        else
          (match sendToken s none h g e body with
          | some s => .next (takeMsg (abandonHere s h e) ctx)
          | none => .next (raiseF s rDlvEvents fDlvEventsLogFull))
      | _ => .next (raiseCls (refuseMsg s ctx 0x10) h fClsHallEventsCheckFail)

/-- COMMIT_COLLECT_START (R372 to R374, R377): the lead position starts the token once it is ready, alone it decides at
once; in a hall without a COMMIT ring the commit applies. -/
def execCommitCollectStart (r : CmdRef) (s : State) : Out :=
  guardUnit (r.scope < 8) <|
  match findCmd s r with
  | none => .next s
  | some c =>
    let h := r.scope
    let e := scEpoch c
    let done := appliedFor s h e
    if c.st ≠ .dispatched ∨ c.opcode ≠ 0x22 ∨ scPhase c ≠ 0 ∨ (done.isNone = true ∧ commitReady s h c.job.rec1 = false) then .next s
    else
      let table := c.job.rec1
      match ringAt s.run h (scRing c) with
      | none =>
        (match done with
        | some _ => .next (endCmd s r 0x01 0 0 c.o3)
        | none => .next (applyRecord s r c (tokBody 2 false true table 1 (ownVals s h table))))
      | some g =>
        if g.lead ≠ g.self || (getClo s h).abandoning then .next s
        else
          let body := match done with
            | some b => tokBody 1 (scResume c) true table 1 (tokVals b)
            | none => tokBody 1 (scResume c) false table 1 (ownVals s h table)
          if g.next g.self = g.self then
            (match decide' s r c g body with
            | some s => .next s
            | none => .next s)
          else
            match sendToken s (some r) h g e body with
            | some s => .next (setPhase s r)
            | none => .next (raiseF s rDlvEvents fDlvEventsLogFull)

/-- A STEP_COMMIT of a ring with other members finds its contexts to both neighbours open (R377, R401). -/
def commitReaches (s : State) (h : Nat) (c : Cmd) : Bool :=
  match ringAt s.run h (scRing c) with
  | none => true
  | some g => g.next g.self = g.self || ctxsOpen s h [g.ctx (g.next g.self), g.ctx (g.prev g.self)]

/-- STEP_COMMIT (R107, R110, R372, R377, R401). -/
def execStepCommit (r : CmdRef) (err : Option ReadErr) (s : State) : Out :=
  guardUnit (r.scope < 8) <|
  dispatch 0x22 r s fun s c =>
    let h := r.scope
    let e := scEpoch c
    let n := bitsOf c.o2 0 13
    let ringOk := match commitRing s.run h with | some g => scRing c = g.num | none => scRing c = 0
    need ringOk 0x10 0 <|
    waitWhile ((hallCommits s h).any fun p => p.1 ≠ r) <|
    let epoch := hallEpoch s h
    let prior : Bool := scResume c && (appliedFor s h e).isSome
    if e ≠ epoch && !prior then .stop 0x32 0 0
    else if 4096 < n then .stop 0x10 0 0
    else if 0 < n && !inWindow s h false c.o1 (8 * n) then .gone 0x11 0
    else
      readOk s r (if n = 0 then none else err) false c.o1 (8 * n) <|
      let table := memBytes s c.o1 (8 * n)
      need ((List.range n).all fun t => leAt table (8 * t + 6) 2 ≤ 1) 0x10 0 <|
      need ((tableScales table).all fun x => seValid s (scaleAddr h x)) 0x10 0 <|
      waitWhile (scaleBusy s h (tableScales table)) <|
      let s := updJob s r fun j => { j with rec1 := table, aux := [0] }
      if !commitReaches s h c then .go (commitUnreached s r { c with job := { c.job with rec1 := table } })
      else .go (if scRing c = 0 then s else setF s (rClsHallCommit h) fClsHallCommitState 1)

/-- STEP_ABANDON (R376). -/
def execStepAbandon (r : CmdRef) (s : State) : Out :=
  guardUnit (r.scope < 8) <|
  dispatch 0x23 r s fun s c =>
    let h := r.scope
    let e := bitsOf c.o0 0 32
    let epoch := hallEpoch s h
    match commitRing s.run h with
    | none =>
      if e = epoch then .go (succeed (abandonHere s h e) r 0 0)
      else if (e + 1) % 2 ^ 32 = epoch then .stop 0x01 0 0 else .stop 0x32 0 0
    | some g =>
      if g.lead ≠ g.self then .stop 0x10 0 0
      else if e = epoch then
        if g.next g.self = g.self then .go (succeed (abandonHere s h e) r 0 0)
        else
          match sendToken s none h g e (tokBody 3 false false [] 1 []) with
          | some s =>
            let s := abandonHere s h e
            .go (succeed (setClo s h { getClo s h with abandoning := true }) r 0 0)
          | none => .wait
      else if (e + 1) % 2 ^ 32 = epoch then .stop 0x01 0 0 else .stop 0x32 0 0

/-- EPOCH_SET (R371, R379). -/
def execEpochSet (r : CmdRef) (s : State) : Out :=
  guardUnit (r.scope < 8) <|
  dispatch 0x24 r s fun s c =>
    let h := r.scope
    let busy := (earlierCmds s h).any fun p => p.2.opcode = 0x20 || p.2.opcode = 0x21 || p.2.opcode = 0x22
    if busy || getF s (rClsHallCommit h) fClsHallCommitState = 3 then .stop 0x32 0 0
    else .go (succeed (setF s (rClsHallEpoch h) fClsHallEpochEpoch (bitsOf c.o0 0 32)) r 0 0)

/-- STEP_MARK (R30, R486): its completion is a step boundary of its hall. -/
def execStepMark (r : CmdRef) (s : State) : Out :=
  guardUnit (r.scope < 8) <| dispatch 0x25 r s fun s c => .go (succeed s r 0 c.o0)

/-- COMMIT_SLOW_EXPIRY (R378). -/
def execCommitSlowExpiry (hall : Nat) (s : State) : Out :=
  guardUnit (hall < 8) <|
  if (hallCommits s hall).isEmpty then .next s else .next (raiseCls s hall fClsHallEventsSlow)

/-! ## Lost positions and ended commands -/

/-- A collective of a ring sends to position `p`, or waits for a message from it (R346, R357, R363, R380). -/
def collMeets (b : List Byte) (g : Ring) (p : Nat) : Bool :=
  let some' (q : Nat) : Bool := (g.acts q).any fun j => (g.shard (clUnits b) j).1 < (g.shard (clUnits b) j).2
  if clKind b = 0 then g.next g.self = p || g.prev g.self = p else some' p || some' g.self

/-- What a position newly marked LOST ends at the commit point (R346): STEP_COMMITs of that ring, and collectives, owner
updates and gathers that send to it or wait for it. `g` is the ring before, `p` the position. -/
def lostEnds (s : State) (h : Nat) (g : Ring) (p : Nat) : State :=
  (scopeCmds s h).foldl (fun s (r, c) =>
    if c.st ≠ .dispatched then s
    else if c.opcode = 0x22 && scRing c = g.num then voidCmd (commitUnreached s r c) r
    else
      let dead : Bool :=
        if c.opcode = 0x20 && clRing c.job.rec1 = g.num then collMeets c.job.rec1 g p
        else if c.opcode = 0x21 && ouRing c.job.rec1 = g.num then
          let j := ouShard c.job.rec1
          if ouRole c.job.rec1 = 1 then g.owner j = p
          else g.backer j = some p || (ouWaits c &&
            match findColl s h (ouId c.job.rec1) with | some x => (keepers x j).contains p | none => false)
        else c.opcode = 0x03 && leAt c.job.rec1 0x32 1 = g.num
      if dead then dropItems (voidCmd (endCmd s r 0x30 0 (if c.opcode = 0x21 then c.job.done.length else 0) 0) r) r else s) s

/-- Every position that a new RING section marks LOST. -/
def lostPositions (old new : List Ring) : List (Ring × Nat) :=
  old.flatMap fun g =>
    match new.find? fun x => x.num = g.num with
    | some x => ((List.range g.n).filter fun p => !g.lost p && x.lost p).map fun p => (g, p)
    | none => []

/-- A command of the Cloister has completed: its outcome counts for readiness (R373). -/
def cloComplete (s : State) (h : Nat) (c : Cmd) : State :=
  let st := if c.code ≤ 2 then 1 else 2
  let v := getClo s h
  if c.opcode = 0x20 then
    let id := clId c.job.rec1
    if c.job.rec1.isEmpty then s
    else if v.colls.any fun x => x.id = id then updColl s h id fun x => { x with st := st }
    else if c.code = 2 then setClo s h { v with colls := { id := id, bytes := c.job.rec1, st := 1 } :: v.colls }
    else s
  else if c.opcode = 0x21 && c.order ≠ 0 then
    let b := c.job.rec1
    let hit (y : Upd) : Bool := y.coll = ouId b && y.shard = ouShard b && y.role = ouRole b
    setClo s h { v with upds := v.upds.map fun y => if hit y then { y with st := st } else y }
  else s

end Sys2Proof.Machine
end

