-- ==== Sys2Proof/Machine/AttnCmd.lean ====
section
/-! DEFINITION. The ATTENTION command: its checks (R224, R234 to R237), its items over a sequence or a rotating shard
(R242, R244), and ring rotation (R246 to R249). -/

namespace Sys2Proof.Machine

/-! ## Reaches and checks -/

/-- Reach of the Q or OUT entry: first byte and length (R235). -/
def Att.lineReach (a : Att) (n lpd size : Nat) : Nat × Nat :=
  let lo := a.head0 * a.g * lpd
  let hi := (a.qlen - 1) * a.pitch n + ((a.head0 + a.heads - 1) * a.g + a.g - 1) * lpd + lpd
  (a.addr n + lo * size, (hi - lo) * size)
def Att.qReach (a : Att) (c : CacheRec) : Nat × Nat := a.lineReach 0 c.lpd (lineIn 128 (a.fmt 0) false)
def Att.outReach (a : Att) (c : CacheRec) : Nat × Nat := a.lineReach 1 c.lpd (lineOut (a.fmt 1))
def Att.statsReach (a : Att) : Nat × Nat := (a.addr 2, if a.here 2 then 8 * a.qlen * a.heads * a.g else 0)
def Att.partReach (a : Att) (c : CacheRec) : Nat × Nat :=
  (a.addr 3, if a.here 3 then a.items * 256 * ((128 * c.lpd + 2) * 4) else 0)
def Att.rotReach (a : Att) (c : CacheRec) : Nat × Nat := (a.addr 4, if a.here 4 then 2 * a.pitch 4 * c.bytes else 0)

/-- Check 3 of R237, apart from what the installed cache decides. -/
def Att.fieldsOk (a : Att) (pass : Nat) : Bool :=
  let b := a.raw
  let z (o n : Nat) : Bool := leAt b o n = 0
  let entry (n fmtMax : Nat) : Bool := leAt b (0x46 + 16 * n) 2 ≤ 1 && leAt b (0x4C + 16 * n) 4 ≤ fmtMax
  (pass = 0 || pass = 3) && 1 ≤ a.heads && 1 ≤ a.g && a.g ≤ 16 && leAt b 6 1 < 32 && leAt b 7 1 < 4 && 1 ≤ a.qlen
    && a.qsplit ≤ a.qlen && a.ksplit ≤ a.keyEnd && (if 2 ≤ a.mask then 1 ≤ a.maskArg else a.maskArg = 0)
    && !fnSpecial (fDecode ifmt32 a.scale) && a.conv < 16 && leAt b 0x38 1 < 8 && z 0x39 7 && z 0x90 96 && z 0xF4 12
    && (a.qsEn || a.qScale = 0) && (a.osEn || (a.oScale = 0 && !a.amax)) && (!a.qsEn || fmtIsFp8 (a.fmt 0))
    && (!a.osEn || fmtIsFp8 (a.fmt 1)) && entry 0 31 && entry 1 31 && entry 2 0 && entry 3 0 && entry 4 0
    && ((List.range 5).all fun n => !a.here n || a.addr n % 64 = 0) && a.here 0 && a.here 1 && (a.here 3 = (a.kvSplit ≠ 0)) && (a.here 4 = (a.ring ≠ 0)) && z 0x68 4 && z 0x78 4
    && (a.here 4 || z 0x88 4)
    && [0x00, 0x02, 0x03, 0x04, 0x05].contains (a.fmt 1)

/-- What the installed cache adds to check 3: the heads, and the pair of formats (R234, R236). -/
def Att.cacheFields (a : Att) (c : CacheRec) : Bool :=
  a.head0 + a.heads ≤ c.hkv && pairOk (a.fmt 0) c.fmt && (fmtIsHalf (a.fmt 0) || fmtIsFp8 (a.fmt 0))

/-- The ring of a rotating block in which this device is a member (check 9 of R237). -/
def attnRing (s : State) (h : Nat) (a : Att) : Option Ring := (ringAt s.run h a.ring).filter (·.rotate)

/-- Checks 3 to 9 of R237 over a block that has passed 1 and 2: check and code. -/
def attnChecks (s : State) (h pass addr : Nat) (a : Att) : Option (Nat × Nat) :=
  let cache := hallCache s h
  let c := match cache with | some (_, c) => c | none => cacheOf []
  let named := (if a.qsEn then [(a.qScale, a.fmt 0)] else []) ++ (if a.osEn then [(a.oScale, a.fmt 1)] else [])
  let win (wr : Bool) (r : Nat × Nat) : Bool := r.2 = 0 || inWindow s h wr r.1 r.2
  let q := a.qReach c
  let out := a.outReach c
  let st := a.statsReach
  let pt := a.partReach c
  let rot := a.rotReach c
  let free (r : Nat × Nat) (os : List (Nat × Nat)) : Bool := os.all fun o => !overlap r.1 r.2 o.1 o.2
  let base := [q, rot, (c.pool, c.alcoves * c.bytes), (addr, 256)]
  firstFail
    [(3, 0x10, a.fieldsOk pass && (cache.isNone || a.cacheFields c)),
     (4, 0x28, cache.isSome && seqOpen s c a.seq && a.layer < c.layers),
     (5, 0x12, a.keyEnd ≤ layerLen s c a.seq a.layer && (a.ring = 0 || a.kvSplit = 0)),
     (6, 0x10, named.all fun x => scaleOk s h x.1 x.2),
     (7, 0x11, win false q && win true out && win true st && win true pt && win true rot),
     (8, 0x12, free out (st :: pt :: base) && free st (pt :: base) && free pt base),
     (9, 0x10, a.ring = 0 || (attnRing s h a).isSome)]

/-! ## Items -/

/-- Shard header of R247, 32 bytes: TYPE 0, the ring, the sending position, KEY_END, KSPLIT, KPOS0, KPOS1, the alcove
count, its CRC (log 65). -/
def shardHdr (ring pos keyEnd ksplit kpos0 kpos1 n : Nat) : List Byte :=
  let h := zeros 1 ++ leBytes 1 ring ++ leBytes 2 pos ++ leBytes 4 keyEnd ++ leBytes 4 ksplit ++ leBytes 4 kpos0
    ++ leBytes 4 kpos1 ++ leBytes 4 n ++ zeros 4
  h ++ leBytes 4 (crc32c h)

/-- The step of a rotating command, and whether the next shard has come (R246). -/
def attnStepNo (c : Cmd) : Nat := c.job.aux.getD 0 0
def attnGot (c : Cmd) : Bool := c.job.aux.getD 1 0 = 1
/-- Address of alcove `p` in half `x` of ROT: laid out as an alcove (R217, R247). -/
def rotAlc (c : CacheRec) (a : Att) (x p : Nat) : Nat := a.addr 4 + (x % 2 * a.pitch 4 + p) * c.bytes

/-- The shard a command attends to: its own sequence, or the shard in ROT that its second record heads. -/
def attnShard (s : State) (c : CacheRec) (a : Att) (cmd : Cmd) : Shard :=
  let b := cmd.job.rec2
  if b.isEmpty then ownShard s c a
  else
    { keyEnd := leAt b 4 4, ksplit := leAt b 8 4, kpos0 := leAt b 12 4, kpos1 := leAt b 16 4
      line := fun p x e t l =>
        rotAlc c a (attnStepNo cmd - 1) p + (((x * c.hkv + a.head0 + e) * 256 + t) * c.lpd + l) * c.ls }

/-- Some key of a shard is present for some row (R238, R248). -/
def attends (a : Att) (sh : Shard) : Bool :=
  (List.range a.qlen).any fun q => (List.range sh.keyEnd).any fun i => a.allows (keyPos sh.ksplit sh.kpos0 sh.kpos1 i) (a.qPos q)

/-- Running states of an item's rows between the steps of a rotation. -/
def attnStart (c : CacheRec) (a : Att) (cmd : Cmd) (t : Nat) : List ARow :=
  match fmFind cmd.job.buf t with
  | some bs => (List.range (a.itemRows t)).map fun i =>
      let w := 4 * (c.dim + 2)
      arowOf ((List.range (c.dim + 2)).map fun d => leAt bs (i * w + 4 * d) 4)
  | none => (List.range (a.itemRows t)).map fun _ => arow0 c.dim

/-- The rows of item `t` after its main pass, as lists. -/
def attnRows (s : State) (h : Nat) (cmd : Cmd) (t : Nat) : List (List Nat) × State :=
  let a := attOf cmd.job.rec1
  match hallCache s h with
  | none => ([], s)
  | some (_, c) =>
    let (rows, cs) := attnItem s c a (attnShard s c a cmd) cmd.job.kA t (attnStart c a cmd t)
    (rows.map ARow.list, countCvts s h cs)

/-- What stops the main pass of item `t` (R218, R269, R292). -/
def attnRowsStuck (s : State) (h : Nat) (cmd : Cmd) (t : Nat) : Option Stuck :=
  let a := attOf cmd.job.rec1
  match hallCache s h with
  | none => none
  | some (_, c) => attnStuck s c a (attnShard s c a cmd) t

/-- Every step of a rotation keeps its rows; the item is then done for this step. -/
def attnKeep (s : State) (r : CmdRef) (t : Nat) (rows : List (List Nat)) : State :=
  updJob s r fun j => { j with buf := fmPut j.buf t (rows.flatMap fun x => x.flatMap (leBytes 4)) }
/-- A command's items of this step end in their outputs: no rotation, or its last step. -/
def attnFinal (s : State) (h : Nat) (c : Cmd) : Bool :=
  let a := attOf c.job.rec1
  match attnRing s h a with
  | some g => attnStepNo c + 1 = g.n
  | none => true

/-- The outputs of a rotation, written once every item of its last step is done, so that a command that ended before has
written none (R249); the command then succeeds. -/
def attnFinish (s : State) (r : CmdRef) : State :=
  match findCmd s r with
  | none => s
  | some cmd =>
    let a := attOf cmd.job.rec1
    match hallCache s r.scope with
    | none => s
    | some (_, c) =>
      let its := (List.range cmd.job.total).flatMap fun t => (List.range (a.itemRows t)).map fun i => (t, i)
      match writesStuck s (its.flatMap fun x => attnOutSpans c a x.1 x.2) with
      | some none => s
      | some (some (e, x)) => failCmd s r e x
      | none =>
        let rows := its.map fun x => (x.1, x.2, (attnStart c a cmd x.1).getD x.2 (arow0 c.dim))
        let (s, g) := attnPutAll r.scope c a cmd.job.kOut rows s {}
        succeed (putGather s r g) r cmd.job.total 0

/-! ## Rotation (R246 to R248) -/

/-- Byte ranges of the named heads of an alcove that starts at `at'`: keys, then values. -/
def alcRanges (c : CacheRec) (a : Att) (at' : Nat) : List (Nat × Nat) :=
  let n := a.heads * 256 * c.lpd * c.ls
  [0, 1].map fun x => (at' + (x * c.hkv + a.head0) * 256 * c.lpd * c.ls, n)

/-- The trailer of an alcove that travels as page `p` (R545). -/
def alcTrailer (bs : List Byte) (p : Nat) : List Byte := leBytes 4 (crc32c (bs ++ leBytes 4 p)) ++ leBytes 4 p

/-- Segments of a shard message: the header, then each alcove's ranges of memory and its trailer (R247, R407, R545). -/
def shardMessage (s : State) (r : CmdRef) (hdr : List Byte) (alcs : List (List (Nat × Nat))) : List Seg :=
  let body := alcs.zipIdx.flatMap fun (rs, p) =>
    (rs.flatMap fun q => (cut576 q.2).map fun (o, l) => ({ op := 0, len := l, src := some (q.1 + o), cmd := some r } : Seg))
      ++ [{ op := 0, len := 8, data := alcTrailer (rs.flatMap fun q => memBytes s q.1 q.2) p, cmd := some r }]
  let all := { op := 0, first := true, len := 32, data := hdr, cmd := some r } :: body
  all.zipIdx.map fun (x, i) => { x with last := i + 1 = all.length }

/-- Send the shard attended to in this step to the next position (R246). -/
def shardSend (s : State) (r : CmdRef) : State :=
  match findCmd s r with
  | none => s
  | some cmd =>
    let h := r.scope
    let a := attOf cmd.job.rec1
    match hallCache s h, attnRing s h a with
    | some (_, c), some g =>
      if g.n ≤ attnStepNo cmd + 1 then s
      else
        let b := cmd.job.rec2
        let own := b.isEmpty
        let n := if own then a.pages else leAt b 20 4
        let at' (p : Nat) : Nat :=
          if own then c.pool + pageAlc s c a.seq a.layer p * c.bytes else rotAlc c a (attnStepNo cmd - 1) p
        let hdr := if own then shardHdr a.ring g.self a.keyEnd a.ksplit a.kpos0 a.kpos1 n
          else shardHdr a.ring g.self (leAt b 4 4) (leAt b 8 4) (leAt b 12 4) (leAt b 16 4) n
        accept s (g.ctx ((g.self + 1) % g.n)) (shardMessage s r hdr ((List.range n).map fun p => alcRanges c a (at' p)))
    | _, _ => s

/-- A step starts: every item is to do again; one whose shard no row sees is done at once, unless it is the last
(R246, R248). -/
def startStep (s : State) (r : CmdRef) : State :=
  match findCmd s r with
  | none => s
  | some cmd =>
    let a := attOf cmd.job.rec1
    match hallCache s r.scope with
    | none => s
    | some (_, c) =>
      let skip := !attnFinal s r.scope cmd && !attends a (attnShard s c a cmd)
      shardSend (updJob s r fun j => { j with
        done := if skip then List.range j.total else [], next := if skip then j.total else 0, reissue := [] }) r

/-- A received shard is verified and written to its half of ROT: the bytes of each alcove in page order (R247). -/
def storeShard (s : State) (r : CmdRef) (cmd : Cmd) (c : CacheRec) (a : Att) (m : List Byte) : State :=
  let n := leAt m 20 4
  let k := a.heads * 256 * c.lpd * c.ls
  let s := (List.range n).foldl (fun s p =>
    (alcRanges c a (rotAlc c a (attnStepNo cmd) p)).zipIdx.foldl (fun s q =>
      store s q.1.1 ((m.drop (32 + p * (2 * k + 8) + q.2 * k)).take k)) s) s
  updJob s r fun j => { j with aux := [attnStepNo cmd, 1], buf := fmPut j.buf (2 ^ 40) (m.take 32) }

/-- Every alcove of a shard message agrees with its trailer (R545); `k` bytes each half. -/
def trailersOk (m : List Byte) (k : Nat) : Bool :=
  (List.range (leAt m 20 4)).all fun p =>
    let o := 32 + p * (2 * k + 8)
    ((m.drop (o + 2 * k)).take 8) = alcTrailer ((m.drop o).take (2 * k)) p

/-- RING_ROTATION_STEP (R246 to R249): the shard that has come is taken; once the step's items, its sending and the next
shard are done, the next step begins; after the last step the outputs are written, where they had to wait. -/
def execRingRotationStep (r : CmdRef) (s : State) : Out :=
  guardUnit (r.scope < 8) <|
  match findCmd s r with
  | none => .next s
  | some cmd =>
    let h := r.scope
    let a := attOf cmd.job.rec1
    if cmd.st ≠ .dispatched ∨ cmd.opcode ≠ 0x03 then .next s
    else
      match hallCache s h, attnRing s h a with
      | some (_, c), some g =>
        let p := attnStepNo cmd
        if g.n ≤ p + 1 then .next (if cmd.job.total ≤ cmd.job.done.length then attnFinish s r else s)
        else
          let k := g.ctx ((g.self + g.n - 1) % g.n)
          let x := getCtx s k
          let s' : Out :=
            match x.whole with
            | some m =>
              if attnGot cmd || cmType m ≠ 0 || cmRing m ≠ a.ring then .next s
              else if crc32c (m.take 28) ≠ leAt m 28 4 || cmShard m ≠ (g.self + g.n - 1) % g.n
                  || m.length ≠ 32 + leAt m 20 4 * (2 * a.heads * 256 * c.lpd * c.ls + 8) then
                .next (raiseCls (refuseMsg s k 0x13) h fClsHallEventsCheckFail)
              else if a.pitch 4 < leAt m 20 4 then
                .next (takeMsg (dropItems (voidCmd (endCmd s r 0x12 0 0 0) r) r) k)
              else if !trailersOk m (a.heads * 256 * c.lpd * c.ls) then
                .next (takeMsg (dropItems (voidCmd (endCmd s r 0x13 0 0 0) r) r) k)
              else
                match writesStuck s ((List.range (leAt m 20 4)).flatMap fun q => alcRanges c a (rotAlc c a p q)) with
                | some none => .next s
                | some (some (e, y)) => .next (takeMsg (dropItems (voidCmd (failCmd s r e y) r) r) k)
                | none => .next (takeMsg (storeShard s r cmd c a m) k)
            | none => .next s
          match s' with
          | .next s =>
            (match findCmd s r with
            | some cmd =>
              if cmd.st = .dispatched && attnGot cmd && cmd.job.total ≤ cmd.job.done.length && !cmdUnacked s r then
                .next (startStep (updJob s r fun j => { j with
                  aux := [p + 1, 0], rec2 := (fmFind j.buf (2 ^ 40)).getD [], buf := fmErase j.buf (2 ^ 40) }) r)
              else .next s
            | none => .next s)
          | o => o
      | _, _ => .next s

/-! ## ATTENTION -/

/-- ATTENTION (R176, R224, R234 to R237, R246, R401). -/
def execAttention (r : CmdRef) (err : Option ReadErr) (s : State) : Out :=
  guardUnit (r.scope < 8) <|
  dispatch 0x03 r s fun s c =>
    let h := r.scope
    learnGate s h c (c.pass = 1 || c.pass = 2) (c.pass = 2) <|
    if !(c.o0 % 256 = 0 && inWindow s h false c.o0 256) then .gone 0x11 1
    else
      readOk s r err true c.o0 256 <|
      let b := memBytes s c.o0 256
      let a := attOf b
      waitWhile (seqBusy s h [(a.seq, 2)]) <|
      if crc32c (b.take 240) ≠ leAt b 240 4 then .stop 0x13 2 0
      else
        let named := (if a.qsEn then [a.qScale] else []) ++ (if a.osEn then [a.oScale] else [])
        waitWhile (scaleBusy s h named) <|
        match attnChecks s h c.pass c.o0 a, hallCache s h with
        | some (code, check), _ => if code = 0x11 then .gone code check else .stop code check 0
        | none, none => .stop 0x28 4 0
        | none, some (_, k) =>
          if a.ring ≠ 0 && blockIsolated s 2 then .stop 0x22 0 0 else
          let ring := attnRing s h a
          let open' := match ring with | some g => ctxsOpen s h [g.ctx ((g.self + 1) % g.n)] | none => true
          if !open' then .stop 0x30 0 0
          else
            let writes := [a.outReach k, a.statsReach, a.partReach k, a.rotReach k]
            waitWhile (slotsFull s h) <|
            reachGate s h [a.qReach k] writes <|
            let ap (e : Nat) : Int := seAppliedK s (scaleAddr h e)
            let s := updJob s r fun j => { j with
              total := a.items, rec1 := b, reads := [a.qReach k, (c.o0, 256)], writes := writes
              scale := if a.osEn && a.amax && c.pass ≠ 3 then some a.oScale else none
              kA := if a.qsEn then ap a.qScale else 0
              kOut := if a.osEn then (if c.pass = 3 then ap a.oScale else seNextK s (scaleAddr h a.oScale)) else 0
              aux := [0, 0] }
            .go (if ring.isSome then startStep s r else s)

end Sys2Proof.Machine
end

