-- ==== Sys2Proof/Machine/Segments.lean ====
section
/-! DEFINITION. Segments received for this device (R402 to R404, R409 to R413): numbered segments in order, acks, opens,
closes. -/

namespace Sys2Proof.Machine

/-- A command may have reached its end now that segments of it are acknowledged (R409). -/
def settle (s : State) (r : CmdRef) : State := updSettle (collSettle (copySettle s r) r) r

/-- Take an acknowledgement: TX_ACKED moves, and commands whose segments it covers may end (R409). -/
def ackIn (s : State) (k a : Nat) : State :=
  let rs := ((getCtx s k).out.filterMap (·.cmd)).eraseDups
  rs.foldl settle (ackTo s k a)

/-- A numbered segment (data, void, reject) at the front of a port (R403, R404, R409, R410). -/
def numbered (port stype : Nat) (s0 : State) : Out :=
  takeSeg s0 port stype fun s k b =>
    let c := getCtx s k
    if !sgCrcOk b || !ctxNum k || sgSrc b ≠ c.peer then .next (badSeg s)
    else if c.st ≠ 2 then .next (sendClose (badSeg s) k)
    else if staleInc c b then .next (evict s k 2)
    else
      let seq := sgSeq b
      if serialLt seq c.due then .next (sendAck (ackIn (setCtx s k { c with dups := (c.dups + 1) % 2 ^ 32 }) k (sgAck b)) k)
      else if seq = c.due then
        if c.whole.isSome then .next (ackIn s k (sgAck b))
        else
          match deliverSeg s k b with
          | some s => .next (ackIn (drainHeld k (getCtx s k).reorder.length s) k (sgAck b))
          | none => .next s0
      else if serialDist c.rxNext seq < c.window && ((fmFind c.reorder seq).isSome || reorderUsed s < reorderRoom) then
        .next (ackIn (setCtx s k { c with reorder := fmPut c.reorder seq b }) k (sgAck b))
      else .next s

/-- DATA_SEGMENT (R405, R410, R411). -/
def execDataSegment (port : Nat) (s : State) : Out := numbered port 0 s
/-- VOID_SEGMENT (R409, R410). -/
def execVoidSegment (port : Nat) (s : State) : Out := numbered port 5 s
/-- REJECT_SEGMENT (R410, R411). -/
def execRejectSegment (port : Nat) (s : State) : Out := numbered port 6 s

/-- A segment without a number from the context's peer: its check, and the eviction of R403. -/
def unnumbered (port stype : Nat) (s0 : State) (f : State → Nat → Ctx → List Byte → Out) : Out :=
  takeSeg s0 port stype fun s k b =>
    let c := getCtx s k
    if !sgCrcOk b || !ctxNum k || c.st = 0 || sgSrc b ≠ c.peer then .next (badSeg s)
    else f s k c b

/-- ACK_SEGMENT (R403, R409). -/
def execAckSegment (port : Nat) (s : State) : Out :=
  unnumbered port 1 s fun s k c b =>
    if staleInc c b then .next (evict s k 2)
    else if c.st = 2 || c.st = 3 then .next (ackIn s k (sgAck b))
    else .next (badSeg s)

/-- An opening context becomes open: all three sequence numbers 0, the peer's incarnation recorded (R402). -/
def openCtx (s : State) (k inc : Nat) : State :=
  setCtx s k { getCtx s k with st := 2, txNext := 0, txAcked := 0, rxNext := 0, peerInc := inc, out := [], reorder := [] }

/-- OPEN_SEGMENT (R402, R403): an opening context opens and answers; an open one answers the same incarnation and notes
another. -/
def execOpenSegment (port : Nat) (s : State) : Out :=
  unnumbered port 2 s fun s k c b =>
    let inc := sgFaddr b % 2 ^ 32
    if c.st = 1 then .next (sendOpenReply (openCtx s k inc) k)
    else if c.st = 2 then
      if inc = c.peerInc then (if c.otherInc then .next (evict s k 2) else .next (sendOpenReply s k))
      else if c.otherInc then .next (evict s k 2)
      else .next (setCtx s k { c with otherInc := true })
    else .next s

/-- OPEN_REPLY_SEGMENT (R402, R403). -/
def execOpenReplySegment (port : Nat) (s : State) : Out :=
  unnumbered port 3 s fun s k c b =>
    if c.st = 1 then .next (openCtx s k (sgFaddr b % 2 ^ 32))
    else if staleInc c b then .next (evict s k 2)
    else .next s

/-- CLOSE_SEGMENT (R404, R412). -/
def execCloseSegment (port : Nat) (s : State) : Out :=
  unnumbered port 4 s fun s k c b =>
    if staleInc c b then .next (evict s k 2)
    else if c.st = 2 then .next (evict s k 3)
    else if c.st = 3 then
      if c.closeSent then .next (freeCtx s k) else .next (setCtx s k { c with peerClosed := true })
    else .next s

end Sys2Proof.Machine
end

