-- ==== Sys2Proof/Machine/Items.lean ====
section
/-! DEFINITION. Work items on treads: the counter and takes (R160 to R165), multicast groups (R169 to R172), main passes
and drains (R111, R112, R128, R623), parts and combines (R166 to R168, R242), isolation of treads (R144, R548, R549). -/

namespace Sys2Proof.Machine

/-! ## Commands with items -/

/-- A product of a window descriptor that pools (R209). -/
def cmdPools (c : Cmd) : Bool := c.opcode = 0x01 && (descOf c.job.rec1).isPool
/-- The item runs a program held by the command: VECTOR_PROGRAM, OWNER_UPDATE. -/
def cmdProgram (c : Cmd) : Bool := c.opcode = 0x02 || c.opcode = 0x21
/-- The item keeps the vector engine: vector programs, PACK, pooling (R549). -/
def cmdVector (c : Cmd) : Bool := cmdProgram c || c.opcode = 0x1B || cmdPools c
/-- The command's items come from a counter. -/
def cmdItems (c : Cmd) : Bool :=
  c.opcode = 0x01 || c.opcode = 0x02 || c.opcode = 0x03 || c.opcode = 0x1B || c.opcode = 0x1C || c.opcode = 0x21 || c.opcode = 0x09
/-- Items that the counter still issues, the next first: abandoned ones, then new ones (R162). -/
def nextItem (c : Cmd) : Option Nat :=
  match c.job.reissue with
  | i :: _ => some i
  | [] => if c.job.next < c.job.total && !(c.opcode = 0x21 && ouWaits c) then some c.job.next else none
/-- Dispatched commands of a hall with items left, whose abort has not been accepted (R165): vector programs, which R143
lets a tread run beside other work, or all the others, which take turns under R163. -/
def withItems (s : State) (h : Nat) (prog : Bool) : List (CmdRef × Cmd) :=
  (scopeCmds s h).filter fun p =>
    p.2.st = .dispatched && cmdItems p.2 && (p.2.opcode = 0x02) = prog && (nextItem p.2).isSome && !abortPending s p.1
/-- The oldest of commands by dispatch. -/
def oldest (ps : List (CmdRef × Cmd)) : Option (CmdRef × Cmd) :=
  ps.foldl (fun o p => match o with | none => some p | some q => if p.2.order < q.2.order then some p else some q) none

/-- The tread takes work for its hall: in service, zeroed and loaded since it was isolated, on a running flight, not a Cloister tread outside generation, not the
shared tread while a reduction block waits (R144, R348, R522). -/
def takesWork (s : State) (h t : Nat) : Bool :=
  (workingTreads s h).contains t && !(getT s t).rejoin && getF s (rFltPwrStatus (t / 8)) fFltPwrStatusState = 2
    && (hallGenerates s.run h || !(cloisterTreads s h).contains t)
    && !((workingTreads s h).length = 1 && hallCloister s.run h ≠ 0 && blockWaits s h)

/-! ## Multicast groups (R169 to R172) -/

/-- log2 of the group size in force for a command: the working treads bound it (R172). -/
def groupLog (s : State) (h : Nat) (d : Desc) : Nat := min d.mcLog (Nat.log2 (max 1 (workingTreads s h).length))
/-- First item of the group of item `i`, and the group's size, for a log2: the group level is the innermost tile level
(R169). -/
def groupOf (d : Desc) (lg i : Nat) : Nat × Nat :=
  let b := match d.tileLv with | l :: _ => l.bound | [] => 1
  let x := i % b
  let x0 := x / 2 ^ lg * 2 ^ lg
  (i - x + x0, min (2 ^ lg) (b - x0))
/-- The open group that holds item `i`: its key and record. -/
def groupHolding (c : Cmd) (i : Nat) : Option (Nat × Grp) := c.job.grp.find? fun p => p.1 ≤ i && i < p.1 + p.2.size
/-- Every item of a group has been taken. -/
def groupTaken (c : Cmd) (k : Nat) (g : Grp) : Bool :=
  k + g.size ≤ c.job.next && c.job.reissue.all fun i => i < k || k + g.size ≤ i
/-- Bytes of a chunk block of the shared operand. -/
def groupBlock (d : Desc) : Nat :=
  if d.mcOp = 1 then d.rows * lineIn d.ch d.fmtA d.transA else d.cols * lineIn d.ch d.fmtB d.transB
/-- Bytes of group buffer in use in a flight's router, over every command. -/
def groupUse (s : State) (f : Nat) : Nat :=
  ((List.range 8).flatMap fun h => (scopeCmds s h).flatMap fun p =>
    (p.2.job.grp.filter fun q => q.2.flight = f).map fun q => q.2.held * groupBlock (descOf p.2.job.rec1)).foldl (· + ·) 0

/-- Blocks that every member of a group at `k` has received. -/
def groupMin (k : Nat) (g : Grp) : Nat :=
  (List.range g.size).foldl (fun a i => min a (fmGet (fun _ => 0) g.got (k + i))) g.fetched
/-- The blocks a group holds: those not released, which are the ones some member has not received, and all of them until
every item has been taken (R170). -/
def groupSettle (c : Cmd) (k : Nat) (g : Grp) : Grp :=
  if groupTaken c k g then { g with held := min g.held (g.fetched - groupMin k g) } else g
/-- A member has received blocks up to `n` of those fetched (R170). -/
def groupGive (c : Cmd) (k : Nat) (g : Grp) (i n : Nat) : Grp :=
  if k ≤ i && i < k + g.size && (i < c.job.next && !c.job.reissue.contains i) then
    { g with got := fmSet (fun _ => 0) g.got i (max (fmGet (fun _ => 0) g.got i) (min n g.fetched)) }
  else g
/-- log2 of the size that a group of item `i` opens with: the largest in force that takes in no open group (R172). -/
def groupFit (c : Cmd) (d : Desc) (lg i : Nat) : Nat :=
  ((List.range (lg + 1)).reverse.find? fun l =>
    let (k, n) := groupOf d l i
    c.job.grp.all fun p => p.1 + p.2.size ≤ k || k + n ≤ p.1).getD 0

/-- The first take of a group opens it in the taker's flight, a re-issued item's in its own where the buffer's flight is
isolated (R170, R549). -/
def groupTake (s : State) (r : CmdRef) (t i : Nat) : State :=
  match findCmd s r with
  | none => s
  | some c =>
    let d := descOf c.job.rec1
    if c.opcode ≠ 0x01 ∨ d.mcOp = 0 then s
    else
      let grp := match groupHolding c i with
        | some (k, g) => if flightWorking s g.flight then c.job.grp else fmPut c.job.grp k { g with flight := t / 8 }
        | none =>
          let (k, n) := groupOf d (groupFit c d (groupLog s r.scope d) i) i
          fmPut c.job.grp k { size := n, flight := t / 8 }
      updJob s r fun j => { j with grp := grp.map fun p => (p.1, groupSettle c p.1 p.2) }

/-- A member's main pass has ended, so it has received every block (R170). -/
def groupPassed (s : State) (r : CmdRef) (i : Nat) : State :=
  match findCmd s r with
  | none => s
  | some c =>
    if c.opcode ≠ 0x01 ∨ c.job.grp.isEmpty then s
    else
      let q := (descOf c.job.rec1).q
      updJob s r fun j => { j with grp := j.grp.map fun p => (p.1, groupSettle c p.1 (groupGive c p.1 p.2 i q)) }

/-- GROUP_BLOCK_FETCH (R170): the blocks that members have received by now are released where every member has them; then a
block of the open group is read into the group buffer, where it has room. -/
def execGroupBlockFetch (r : CmdRef) (f : BlockFetch) (s : State) : Out :=
  guardUnit (r.scope < 8) <|
  match findCmd s r with
  | none => .next s
  | some c =>
    match fmFind c.job.grp f.group with
    | none => .next s
    | some g =>
      let d := descOf c.job.rec1
      let g := groupSettle c f.group (f.got.foldl (fun g x => groupGive c f.group g x.1 x.2) g)
      let s := updJob s r fun j => { j with grp := fmPut j.grp f.group g }
      if c.st ≠ .dispatched ∨ d.q ≤ g.fetched ∨ 4 ≤ g.held ∨ 0x100000 < groupUse s g.flight + groupBlock d then .next s
      else .next (updJob s r fun j => { j with grp := fmPut j.grp f.group { g with fetched := g.fetched + 1, held := g.held + 1 } })

/-- Every block of an item's group has come: all are fetched, or it had received them before a refetch. -/
def groupReady (c : Cmd) (i : Nat) : Bool :=
  let d := descOf c.job.rec1
  c.opcode ≠ 0x01 || d.mcOp = 0 ||
    match groupHolding c i with | some (_, g) => d.q ≤ g.fetched || d.q ≤ fmGet (fun _ => 0) g.got i | none => true

/-! ## Takes (R162, R163, R171) -/

/-- A tread may take item of a command (R143, R163, R171). While it holds an item of a group that is not fully taken it
takes no other. It holds at most one item whose main pass has not begun beside the one under way, and none of another
command; its vector engine runs one vector program, pooling or packing item of one command at a time. -/
def mayTake (s : State) (t : Nat) (r : CmdRef) (c : Cmd) : Bool :=
  let tr := getT s t
  let groups := tr.held.all fun h =>
    match findCmd s h.cmd with
    | some x => x.opcode ≠ 0x01 || (match groupHolding x h.item with | some (k, g) => groupTaken x k g | none => true)
    | none => true
  groups &&
    if c.opcode = 0x02 then tr.prog.cmd.isNone && tr.held.all fun h => !h.vec
    else
      (tr.held.countP (!·.ended)) < 2 && (tr.held.all fun h => h.cmd = r)
        && (match tr.prog.cmd with
          | none => true
          | some p => !cmdVector c && (match findCmd s p with | some x => x.opcode = 0x02 | none => true))

/-- ITEM_TAKE (R139, R160 to R163, R170, R171, R348, R367): the tread takes the next item of the oldest command with items
left; a vector program starts on it. -/
def execItemTake (t : Nat) (r : CmdRef) (s0 : State) : Out :=
  guardUnit (t < 128 && r.scope < 8) <|
  match findCmd s0 r with
  | none => .next s0
  | some c =>
    match nextItem c, oldest (withItems s0 r.scope (c.opcode = 0x02)) with
    | some i, some (r', _) =>
      if c.st ≠ .dispatched ∨ cmdItems c = false ∨ r' ≠ r ∨ takesWork s0 r.scope t = false ∨ mayTake s0 t r c = false then
        .next s0
      else
        let s := updJob s0 r fun j => { j with
          reissue := j.reissue.drop 1, next := if j.reissue.isEmpty then j.next + 1 else j.next }
        if c.opcode = 0x21 then
          match updStuck s r c i with
          | some none => .next s0
          | some (some (e, a)) => .next (failCmd s0 r e a)
          | none => .next (updTake s r c t i)
        else if c.opcode = 0x02 then
          let tr := { getT s t with
            s := [], prog := { cmd := some r, item := i, words := progWords c.job.rec1 (c.job.rec1.length / 8) } }
          .next (treadStatus (setT s t (setScalar (setScalar tr 0 (BitVec.ofNat 64 i)) 1 (BitVec.ofNat 64 c.o2))) t)
        else
          let tr := getT s t
          let s := setT s t { tr with held := tr.held ++ [{ cmd := r, item := i, vec := cmdVector c }] }
          .next (treadStatus (groupTake s r t i) t)
    | _, _ => .next s0

/-! ## Isolation of treads and flights (R144, R548 to R550) -/

/-- A tread's abandoned item: re-issued, or it ends its command (R549). Its group fetches its blocks again, for the
members that still lack some. -/
def abandonItem (s : State) (r : CmdRef) (i : Nat) : State :=
  match findCmd s r with
  | none => s
  | some c =>
    if c.st ≠ .dispatched then s
    else if cmdVector c then dropItems (endCmd s r 0x22 0 (itemExtent s c) 0) r
    else
      updJob s r fun j => { j with
        reissue := if j.done.contains i || j.reissue.contains i then j.reissue else insertNat i j.reissue
        grp := j.grp.map fun p =>
          (p.1, if p.1 ≤ i && i < p.1 + p.2.size then
            { p.2 with fetched := 0, held := 0, got := fmErase p.2.got i } else p.2) }

/-- The tread stops: everything it holds is abandoned; STATE 3 (R144, R549). -/
def forceTread (s : State) (t : Nat) : State :=
  let tr := getT s t
  let s := setT s t { tr with held := [], prog := {} }
  let s := tr.held.foldl (fun s h => abandonItem s h.cmd h.item) s
  let s := match tr.prog.cmd with
    | some r => abandonItem s r tr.prog.item
    | none => s
  let s := treadStatus s t
  if getF s (rTrdStatus t) fTrdStatusState = 0 then s else setF s (rTrdStatus t) fTrdStatusState 3

/-- Set or clear a domain's POWERED bit (R517). -/
def setDomain (s : State) (d : Nat) (on : Bool) : State :=
  let v := getF s rLntDomainStatus fLntDomainStatusPowered
  setF s rLntDomainStatus fLntDomainStatusPowered (if on then v ||| 2 ^ d else v - (v &&& 2 ^ d))

/-- A flight loses power: its treads and PLL are off, its domain is not powered (R519). -/
def flightDown (s : State) (f : Nat) : State :=
  let s := (List.range 8).foldl (fun s i =>
    let t := 8 * f + i
    setF (setF (setF s (rTrdStatus t) fTrdStatusState 0) (rTrdFtab t) fTrdFtabT0Loaded 0) (rTrdFtab t) fTrdFtabT1Loaded 0) s
  let s := setF (setF s (rFltPllCtl f) fFltPllCtlLocked 0) (rFltPwrStatus f) fFltPwrStatusHalf 0
  let s := { s with und := { s.und with gcache := fmErase s.und.gcache f } }
  setDomain (setF s (rFltPwrStatus f) fFltPwrStatusState 0) f false

/-- Commands whose reach includes a flight's Gallery end with unit-isolated once every tread of the flight shows STATE 3,
and the flight powers off (R550, R519). -/
def flightGone (s : State) (f : Nat) : State :=
  let all := (List.range 8).all fun i => getF s (rTrdStatus (8 * f + i)) fTrdStatusState = 3 || getF s (rTrdStatus (8 * f + i)) fTrdStatusState = 0
  if flightWorking s f || !all || getF s (rFltPwrStatus f) fFltPwrStatusState = 0 then s
  else
    let rs := (List.range 8).flatMap fun h => (scopeCmds s h).filter fun p =>
      p.2.st = .dispatched && (p.2.job.reads ++ p.2.job.writes).any fun x => overlap x.1 x.2 (galleryBase f) 0x1000000
    let s := rs.foldl (fun s p => 
      dropItems (voidCmd (endCmd (voidRun s p.2) p.1 0x22 0 (failExtent s p.2).1 (failExtent s p.2).2) p.1) p.1) s
    let s := memZero s (galleryBase f) 0x1000000
    let s := memZero s (landingBase (8 * f)) 0x1000000
    flightDown s f

/-- The hall's last working flight is isolated: its dispatched product commands, pooling ones too, go back to the accepted
state and start again later (R161). Their counters are discarded; what a finishing tread still holds of them drains under
the records of the first run and is recorded nowhere. Other commands with items stay dispatched (log 288). -/
def hallStops (s : State) (h : Nat) : State :=
  if !(workingFlights s h).isEmpty then s
  else
    (scopeCmds s h).foldl (fun s p =>
      if p.2.st = .dispatched && p.2.opcode = 0x01 then
        let s := unqueueSlots h p.2.job.uses s
        updCmd s p.1 fun c => { c with
          st := .accepted, order := 0
          job := { c.job with next := 0, reissue := [], done := [], reads := [], writes := [], scale := none, uses := [] } }
      else s) s

/-- ISOLATE becomes 1 (R144). -/
def isolateTread (s : State) (t : Nat) : State :=
  let s := setF s (rTrdIsolate t) fTrdIsolateIsolate 1
  let s := setT s t { getT s t with rejoin := false }
  let tr := getT s t
  if tr.held.isEmpty && tr.prog.cmd.isNone && getF s (rTrdStatus t) fTrdStatusState ≠ 0 then
    flightGone (setF s (rTrdStatus t) fTrdStatusState 3) (t / 8)
  else s

/-- ISOLATE of a flight becomes 1; with FORCE its treads stop at once (R550, R161). -/
def isolateFlight (s : State) (f : Nat) (force : Bool) : State :=
  let h := flightHall s.run f
  let s := setF s (rFltIsolate f) fFltIsolateIsolate 1
  let s := (List.range 8).foldl (fun s i =>
    let t := 8 * f + i
    let tr := getT s t
    if force || (tr.held.isEmpty && tr.prog.cmd.isNone) then forceTread s t else s) s
  let s := refreshLevel (flightGone s f)
  match h with
  | some h => hallStops s h
  | none => s

/-- A fault toward automatic isolation, of a tread or of a flight's Gallery (R548). -/
def countFault (s : State) (t : Nat) (gallery : Bool) : State :=
  let f := t / 8
  let thresh := getF s (rFltIsolate f) fFltIsolateThresh
  let auto (s : State) : State := raiseF s (rFltErr f) fFltErrAuto
  if gallery then
    let n := fmGet (fun _ => 0) s.integ.galleryFaults f + 1
    let s := { s with integ := { s.integ with galleryFaults := fmSet (fun _ => 0) s.integ.galleryFaults f n } }
    if thresh ≠ 0 && n = thresh then isolateFlight (auto (addRecord s { kind := 4, source := 1, slice := f })) f false else s
  else
    let tr := getT s t
    let s := setT s t { tr with faults := tr.faults + 1 }
    if thresh ≠ 0 && tr.faults + 1 = thresh then
      isolateTread (auto (addRecord s { kind := 4, source := 1, slice := f })) t
    else s

/-- TREAD_ISOLATE (R144). -/
def execTreadIsolate (t : Nat) (s : State) : Out := guardUnit (t < 128) <| whileServed s <| .next (isolateTread s t)

/-- Load a hall's tables into a tread, each under its CRC (R136). -/
def loadTables (s : State) (t : Nat) : State :=
  match flightHall s.run (t / 8) with
  | none => s
  | some h =>
    let n := secCount (secOf s.run tyFTAB h (hallVar s.run h))
    let ok (j : Nat) : Bool := j < n && tabCrcOk (hallTable s.run h j)
    let bad := (List.range 2).filter fun j => j < n && !ok j
    let r := rTrdFtab t
    let s := setF s r fTrdFtabT0Loaded (if ok 0 then 1 else 0)
    let s := setF s r fTrdFtabT1Loaded (if ok 1 then 1 else 0)
    let s := setF s r fTrdFtabVariant (hallVar s.run h)
    let s := setF s r fTrdFtabGen (getF s (rXfmGen h) fXfmGenGeneration)
    let s := setH s h { getH s h with badTables := bad }
    if bad.isEmpty then s else raiseF s (rTrdErr t) fTrdErrTableCheck

/-- A tread comes back from isolation holding nothing: its Landing is zeroed, its banks are empty, the tables are loaded
(R144, R136). -/
def rejoinTread (s : State) (t : Nat) : State :=
  let s := setT s t { getT s t with rejoin := false }
  let s := setF (memZero s (landingBase t) 0x200000) (rTrdStatus t) fTrdStatusState 1
  treadStatus (loadTables s t) t

/-- TREAD_ISOLATION_DONE (R144, R550): the tread holds nothing more. Where ISOLATE has returned to 0 meanwhile, it comes
back at once (log 289). -/
def execTreadIsolationDone (t : Nat) (s : State) : Out :=
  guardUnit (t < 128) <|
  let tr := getT s t
  let going := isF s (rTrdIsolate t) fTrdIsolateIsolate || !flightWorking s (t / 8)
  if tr.held.isEmpty && tr.prog.cmd.isNone && getF s (rTrdStatus t) fTrdStatusState ≠ 0 then
    if going then .next (flightGone (setF s (rTrdStatus t) fTrdStatusState 3) (t / 8))
    else if tr.rejoin then .next (rejoinTread s t) else .next s
  else .next s

/-- TREAD_UNISOLATE (R144): the Landing and the banks are zeroed, the tables are loaded, work is taken again; a tread that
still finishes its work does so first (log 289). -/
def execTreadUnisolate (t : Nat) (s : State) : Out :=
  guardUnit (t < 128) <| whileServed s <|
  if !isF s (rTrdIsolate t) fTrdIsolateIsolate then .next s
  else
    let s := setF s (rTrdIsolate t) fTrdIsolateIsolate 0
    let s := setT s t { getT s t with faults := 0 }
    if getF s (rTrdStatus t) fTrdStatusState = 3 then .next (rejoinTread s t)
    else if getF s (rTrdStatus t) fTrdStatusState = 0 then .next s
    else .next (setT s t { getT s t with rejoin := true })

/-! ## Drains (R128, R166 to R168, R193, R242, R623) -/

/-- Drain up to `n` rows of a held item, as far as nothing stops one; what stopped it. The rows of a rotation are held for
its end (R249). -/
def drainHeldRows (s : State) (hd : Held) (n : Nat) : State × Held × Option Stuck :=
  match findCmd s hd.cmd with
  | none => (s, hd, none)
  | some c =>
    if c.opcode = 0x03 then
      let a := attOf c.job.rec1
      match hallCache s hd.cmd.scope with
      | none => (s, hd, none)
      | some (_, k) =>
        if (attnRing s hd.cmd.scope a).isSome then (s, { hd with written := min hd.att.length (hd.written + n) }, none)
        else
          let part : Bool := a.kvSplit ≠ 0
          let (s, w, g, e) := attnDrain hd.cmd.scope k a c.job.kOut part hd.item hd.att n (s, hd.written, {})
          (putGather s hd.cmd g, { hd with written := w }, e)
    else
      let x := pctxOf s hd.cmd.scope c
      if x.d.hasP then
        let rows := ((List.range hd.rows.length).drop hd.written).take n
        match writesStuck s (rows.map (x.partSpan hd.item)) with
        | some e => (s, hd, some e)
        | none =>
          let s := rows.foldl (fun s i => x.putPartial s hd.item i (hd.rows.getD i [])) s
          (spansWrote s (rows.map (x.partSpan hd.item)), { hd with written := hd.written + rows.length }, none)
      else
        let ((s, hd, g), e) := x.drainRows c.job.normAddr hd.item n (s, hd, {})
        (putGather s hd.cmd g, hd, e)

/-- Replace the first held item of a tread whose main pass has ended. -/
def setEnded (hd : Held) : List Held → List Held
  | [] => []
  | x :: xs => if x.ended then hd :: xs else x :: setEnded hd xs
/-- Remove it. -/
def dropEnded : List Held → List Held
  | [] => []
  | x :: xs => if x.ended then xs else x :: dropEnded xs
/-- Drain up to `n` rows of the oldest item of a tread whose main pass has ended; a row whose write fails ends its
command. -/
def drainTread (s : State) (t n : Nat) : State :=
  match (getT s t).held.find? (·.ended) with
  | none => s
  | some hd =>
    match drainHeldRows s hd n with
    | (s, _, some (some (e, a))) => failCmd s hd.cmd e a
    | (s, hd, _) => setT s t { getT s t with held := setEnded hd (getT s t).held }

/-- What stops the combine of item `i`'s tile: the parts' rows, and what it writes (R168, R242, R269, R292). -/
def combineStuck (s : State) (r : CmdRef) (c : Cmd) (i : Nat) : Option Stuck :=
  if c.opcode = 0x03 then
    let a := attOf c.job.rec1
    match hallCache s r.scope with
    | none => none
    | some (_, k) =>
      (readsStuck s (attnCombineReads k a i)).or
        (writesStuck s ((List.range (a.itemRows i)).flatMap fun n => attnOutSpans k a i n))
  else
    let x := pctxOf s r.scope c
    let rows := (List.range x.d.rows).map fun q => (List.range x.d.cols).map fun j =>
      if x.d.rowIn x.ol i q && x.d.colIn x.ol i j then some ({} : Acc) else none
    (readsStuck s (x.combineReads i)).or ((List.range x.d.rows).findSome? fun q =>
      x.rowStuck s c.job.normAddr i { cmd := r, item := i, rows := rows, written := q })

/-- COMBINE: every part of item `i`'s tile is done, so its parts are combined and drained (R168, R242). -/
def combineTile (s : State) (r : CmdRef) (c : Cmd) (i : Nat) : State :=
  if c.opcode = 0x03 then
    let a := attOf c.job.rec1
    match hallCache s r.scope with
    | none => s
    | some (_, k) =>
      let rows := (List.range (a.itemRows i)).map fun n => (i, n, attnCombine s k a i n)
      let (s, g) := attnPutAll r.scope k a c.job.kOut rows s {}
      putGather s r g
  else
    let x := pctxOf s r.scope c
    let rows := x.combineTile s i
    let ((s, hd, g), _) := x.drainRows c.job.normAddr i rows.length (s, { cmd := r, item := i, rows := rows }, {})
    let s := if x.d.argmax then x.mergeBest s i hd.best else s
    putGather s r g

/-- Parts of each tile of a command. -/
def cmdParts (c : Cmd) : Nat :=
  if c.opcode = 0x03 then (if (attOf c.job.rec1).kvSplit = 0 then 1 else (attOf c.job.rec1).parts)
  else if c.opcode = 0x01 then (descOf c.job.rec1).pBound else 1
/-- The command's tiles are cut into parts. -/
def cmdSplit (c : Cmd) : Bool :=
  if c.opcode = 0x03 then (attOf c.job.rec1).kvSplit ≠ 0 else c.opcode = 0x01 && (descOf c.job.rec1).hasP

/-- The command's success once every item is done (R165, R486); PACK goes on to PACK_ASSEMBLE, a rotation that is not at
its last step to the next one. -/
def itemsOver (s : State) (r : CmdRef) : State :=
  match findCmd s r with
  | none => s
  | some c =>
    if c.st ≠ .dispatched ∨ c.job.done.length < c.job.total then s
    else
      match c.opcode with
      | 0x01 => succeed s r c.job.total 0
      | 0x03 =>
        if (attnRing s r.scope (attOf c.job.rec1)).isNone then succeed s r c.job.total 0
        else if attnFinal s r.scope c then attnFinish s r else s
      | 0x1C => succeed s r ((chdrOf c.o0 (memBytes s c.o0 64)).rawLen / 64) 0
      | 0x09 => succeed s r (cpLen c / 64) 0
      | _ => s

/-- Item `i` is the last of its tile's parts to complete, so its completion combines them (R168, R242). -/
def lastPart (c : Cmd) (i : Nat) : Bool :=
  let p := cmdParts c
  cmdSplit c && (List.range p).all fun k => i / p * p + k = i || c.job.done.contains (i / p * p + k)

/-- The counter records an item's completion (R160, R165, R168); a command that is not running has none (R161). -/
def recordItem (s : State) (r : CmdRef) (i : Nat) : State :=
  if !running s r then s else
  let s := updJob s r fun j => { j with done := if j.done.contains i then j.done else i :: j.done }
  match findCmd s r with
  | none => s
  | some c =>
    let p := cmdParts c
    let tile := i / p * p
    let s := if c.st = .dispatched && lastPart c i then
        combineTile s r c tile
      else s
    itemsOver s r

/-! ## Main passes (R111, R112, R546) -/

/-- A failed check of the oldest item: the tread's error bits, the fault count, the command's end (R546 to R548). -/
def passFails (s : State) (t : Nat) (hd : Held) (f : CheckFail) : State :=
  let s := failCmd s hd.cmd f.err f.addr
  let s := if f.landing then raiseF s (rTrdErr t) fTrdErrLandingUe else s
  let s := if f.accumulator then raiseF s (rTrdErr t) fTrdErrAccCheck else s
  let s := if f.landing || f.accumulator then countFault s t false else s
  match f.err with
  | .sram _ =>
    if f.landing || f.accumulator then s else countFault (raiseF s (rFltErr (t / 8)) fFltErrGalleryUe) t true
  | _ => s

/-- Items that write as they are computed: PACK, expansions of KIND 2. -/
def directItem (s : State) (r : CmdRef) (c : Cmd) (i : Nat) : Except RdErr State :=
  if c.opcode = 0x1B then
    match packStuck s c i with
    | some e => .error e
    | none => .ok (packItem s r.scope c i)
  else
    let hd := codedHdr s c
    if c.opcode = 0x1C then expandTile s r.scope hd i 0 hd.rawLen [c.o1]
    else unstaged s c fun t => expandTile t r.scope hd i 0 (cpLen c) (cpDsts t r.scope c)

/-- Replace the first held item whose main pass has not ended; remove it. -/
def setOpen (hd : Held) : List Held → List Held
  | [] => []
  | x :: xs => if x.ended then x :: setOpen hd xs else hd :: xs
def dropOpen : List Held → List Held
  | [] => []
  | x :: xs => if x.ended then x :: dropOpen xs else xs

/-- MAIN_PASS_END (R111, R112, R115 to R117, R128, R240, R335 to R337, R546, R623): the oldest item's pass ends, its bank
goes to the drain, and the drain writes its first `rows` rows. -/
def execMainPassEnd (t rows : Nat) (fail : Option CheckFail) (s : State) : Out :=
  guardUnit (t < 128) <|
  match (getT s t).held.find? fun h => !h.ended with
  | none => .next s
  | some hd =>
    match findCmd s hd.cmd with
    | none => .next s
    | some c =>
      let full := (getT s t).held.countP fun h => h.ended && !h.vec
      let idle := !(getT s t).held.any (·.ended)
      if (2 ≤ full && !hd.vec) || groupReady c hd.item = false then .next s
      else
        match fail with
        | some f => .next (treadStatus (passFails s t hd f) t)
        | none =>
          if c.opcode = 0x1B || c.opcode = 0x1C || c.opcode = 0x09 then
            match directItem s hd.cmd c hd.item with
            | .error none => .next s
            | .error (some (e, a)) => .next (treadStatus (failCmd s hd.cmd e a) t)
            | .ok s =>
              let s := setT s t { getT s t with held := dropOpen (getT s t).held }
              .next (treadStatus (recordItem s hd.cmd hd.item) t)
          else if c.opcode = 0x03 then
            match attnRowsStuck s hd.cmd.scope c hd.item with
            | some none => .next s
            | some (some (e, a)) => .next (treadStatus (failCmd s hd.cmd e a) t)
            | none =>
            let (att, s) := attnRows s hd.cmd.scope c hd.item
            let s := setT s t { getT s t with held := setOpen { hd with ended := true, att := att } (getT s t).held }
            .next (treadStatus (drainTread s t (if idle then rows else 0)) t)
          else
            let x := pctxOf s hd.cmd.scope c
            match x.tile s hd.item x.d.rows 0 with
            | .error none => .next s
            | .error (some (e, a)) => .next (treadStatus (failCmd s hd.cmd e a) t)
            | .ok tile =>
              let s := groupPassed (countCvts s hd.cmd.scope (x.expandCvts s hd.item)) hd.cmd hd.item
              let s := setT s t { getT s t with held := setOpen { hd with ended := true, rows := tile } (getT s t).held }
              .next (treadStatus (drainTread s t (if idle then rows else 0)) t)

/-- ITEM_DRAINED (R160, R165, R166, R168, R213, R242): the oldest tile's last row is written; the counter records the
item. -/
def execItemDrained (t : Nat) (s : State) : Out :=
  guardUnit (t < 128) <|
  match (getT s t).held.find? (·.ended) with
  | none => .next s
  | some hd =>
    match findCmd s hd.cmd with
    | none => .next s
    | some c =>
      match drainHeldRows s hd (max hd.rows.length hd.att.length) with
      | (s, _, some (some (e, a))) => .next (treadStatus (failCmd s hd.cmd e a) t)
      | (s, hd, some none) => .next (treadStatus (setT s t { getT s t with held := setEnded hd (getT s t).held }) t)
      | (s, hd, none) =>
      match (if running s hd.cmd && lastPart c hd.item then combineStuck s hd.cmd c hd.item else none) with
      | some (some (e, a)) => .next (treadStatus (failCmd s hd.cmd e a) t)
      | some none => .next (treadStatus (setT s t { getT s t with held := setEnded hd (getT s t).held }) t)
      | none =>
      let s := setT s t { getT s t with held := dropEnded (getT s t).held }
      let s := if c.opcode = 0x03 then
          (if (attnRing s hd.cmd.scope (attOf c.job.rec1)).isSome then attnKeep s hd.cmd hd.item hd.att else s)
        else
          let x := pctxOf s hd.cmd.scope c
          if x.d.argmax && !x.d.hasP then x.mergeBest s hd.item hd.best else s
      .next (treadStatus (recordItem s hd.cmd hd.item) t)

/-- TREAD_FORCE (R144, R549, R623): the rows already issued are written; what is held is abandoned. -/
def execTreadForce (t rows : Nat) (s : State) : Out :=
  guardUnit (t < 128) <| whileServed s <|
  if isF s (rTrdIsolate t) fTrdIsolateIsolate then .next (flightGone (forceTread (drainTread s t rows) t) (t / 8)) else .next s

end Sys2Proof.Machine
end

