-- ==== Sys2Proof/Machine/Power.lean ====
section
/-! DEFINITION. Power domains and flight power (18_power_clocks_reset.md, R29, R517 to R525): what a start-up, a commit
and the sleep commands share, and the commands of flight and media power. -/

namespace Sys2Proof.Machine

/-! ## The POWER section (R525) and domains (R517) -/

def powerRec (s : State) : List Byte := secEntry (secOf s.run tyPOWER 0xFF 0) 64 0
def flightIdle (s : State) : Nat := leAt (powerRec s) 0 2
def mediaIdle (s : State) : Nat := leAt (powerRec s) 2 2
/-- The POWER section powers an Oriel half. -/
def orielOn (s : State) (k : Nat) : Bool := bitOf (leAt (powerRec s) 4 1) k
/-- A domain failed to power up or lock (R523). -/
def domainFault (s : State) (d : Nat) : State :=
  raiseF (setF s rLntDomainStatus fLntDomainStatusFault (getF s rLntDomainStatus fLntDomainStatusFault ||| 2 ^ d))
    rLntEvents fLntEventsDomain

/-- The Oriel halves follow the POWER section: every port of a half that is not powered is down (R518). -/
def applyOriel (s : State) : State :=
  (List.range 2).foldl (fun s k =>
    let s := setDomain s (19 + k) (orielOn s k)
    if orielOn s k then s
    else (List.range' (17 * k) 17).foldl (fun s p => setF (setPortState s p 0) (rOrlPortStatus p) fOrlPortStatusLanes 0) s) s

/-! ## Flights (R519) -/

def setFlt (s : State) (f v : Nat) : State := setF s (rFltPwrStatus f) fFltPwrStatusState v

/-- A flight's Gallery, Landings, registers and cache are zeroed (R73, R519). -/
def zeroFlight (s : State) (f : Nat) : State :=
  let s := memZero (memZero s (galleryBase f) 0x1000000) (landingBase (8 * f)) 0x1000000
  let s := (List.range 8).foldl (fun s i => setT s (8 * f + i) {}) s
  { s with und := { s.und with gcache := fmErase s.und.gcache f } }

/-- A flight is powered off; its treads show the hall it now has (R519). -/
def flightOff (s : State) (f : Nat) : State :=
  let s := (List.range 8).foldl (fun s i => setF s (rTrdStatus (8 * f + i)) fTrdStatusHall ((flightHall s.run f).getD 0xF)) s
  flightDown s f

/-- FLIGHT_WAKE_START (R521, R535): the lowest working flight of a hall that is to wake, sleeping or off, starts. A
flight that was off powers up with its SRAM zeroed. -/
def execFlightWakeStart (f : Nat) (s : State) : Out :=
  guardUnit (f < 16) <|
  match flightHall s.run f with
  | none => .next s
  | some h =>
    let waits := (workingFlights s h).filter fun g => fltState s g = 0 || fltState s g = 4
    if !(getH s h).wake || waits.head? ≠ some f then .next s
    else
      let s := if fltState s f = 0 then setDomain (zeroFlight s f) f true else s
      let s := bumpF (setFlt s f 1) (rFltPwrStatus f) fFltPwrStatusWakes 1
      let on := (workingFlights s h).all fun g => fltState s g = 1 || fltState s g = 2
      .next (if on then setH s h { getH s h with wake := false } else s)

/-- A temperature of LNT_THERM. -/
def therm (s : State) (f : Fld) : Int := sext 8 (getF s rLntTherm f)
/-- The field of a storey die's temperature. -/
def storeyFld (die : Nat) : Fld := [fLntThermStorey0, fLntThermStorey1, fLntThermStorey2, fLntThermStorey3].getD die fLntThermStorey3
/-- A running flight whose die is at temperature `t` goes to 470 MHz, or back (R526). -/
def throttleFlight (s : State) (f : Nat) (t : Int) : State :=
  if 100 ≤ t then
    let new := !isF s (rFltPwrStatus f) fFltPwrStatusHalf
    let s := setF s (rFltPwrStatus f) fFltPwrStatusHalf 1
    if new then raiseF s rLntEvents fLntEventsThermal else s
  else if t ≤ 95 && !s.lnt.vidHalf then setF s (rFltPwrStatus f) fFltPwrStatusHalf 0
  else s

/-- A flight runs: its PLL is locked, its treads take work; treads that were off load the hall's tables (R521, R136, R526,
R601). -/
def flightRuns (s : State) (f us : Nat) : State :=
  let s := setF (setF s (rFltPllCtl f) fFltPllCtlLocked 1) (rFltPllCtl f) fFltPllCtlLockUs us
  let s := if s.lnt.vidHalf then setF s (rFltPwrStatus f) fFltPwrStatusHalf 1 else s
  let s := throttleFlight s f (therm s (storeyFld (f / 4)))
  (List.range 8).foldl (fun s i =>
    let t := 8 * f + i
    if getF s (rTrdStatus t) fTrdStatusState ≠ 0 then s
    else
      let iso := isF s (rTrdIsolate t) fTrdIsolateIsolate
      treadStatus (loadTables (setF s (rTrdStatus t) fTrdStatusState (if iso then 3 else 1)) t) t) (setFlt s f 2)

/-- FLIGHT_PLL_LOCK (R521): within 100 µs of the start of the wake. -/
def execFlightPllLock (f us : Nat) (s : State) : Out :=
  guardUnit (f < 16) (.next (if fltState s f = 1 && us ≤ 100 then flightRuns s f us else s))

/-- FLIGHT_LOCK_TIMEOUT (R523). -/
def execFlightLockTimeout (f : Nat) (s : State) : Out :=
  guardUnit (f < 16) (.next (if fltState s f = 1 then domainFault (isolateFlight s f true) f else s))

/-- A segment addressed to the hall waits in a delivery context or in the reorder store (R520). -/
def hallSegments (s : State) (h : Nat) : Bool :=
  s.orl.ctxs.any fun p => p.2.hall = h && (!p.2.reorder.isEmpty || p.2.whole.isSome || !p.2.msg.isEmpty)

/-- FLIGHT_SLEEP (R520): the working flights of an idle hall enter sleep together. -/
def execFlightSleep (hall : Nat) (s : State) : Out :=
  guardUnit (hall < 8) <|
  let fs := workingFlights s hall
  if flightIdle s = 0 || !(incompleteCmds s hall).isEmpty || hallSegments s hall || (getH s hall).wake
      || fs.any (fun f => fltState s f ≠ 2) then .next s
  else .next (fs.foldl (fun s f => setFlt s f 3) s)

/-- SLEEP_ENTRY_DONE (R520): clocks stopped, the PLL off, SRAM retained. -/
def execSleepEntryDone (f : Nat) (s : State) : Out :=
  guardUnit (f < 16) <|
  .next (if fltState s f = 3 then setF (setFlt s f 4) (rFltPllCtl f) fFltPllCtlLocked 0 else s)

/-! ## Media (R524) -/

/-- A Foyer or Frieze command is accepted and not complete. -/
def mediaWork (s : State) : Bool := (List.range 8).any fun h => (incompleteCmds s h).any fun p => opMedia p.2.opcode
/-- A live stream context is open (R445). -/
def liveOpen (s : State) : Bool := s.frz.ctxs.any fun p => p.2.st = 1 && bitOf (leAt p.2.bytes 0 1) 2
/-- The media domain sleeps, or wakes. -/
def setMedia (s : State) (asleep : Bool) : State := setDomain { s with mediaAsleep := asleep } 22 (!asleep)

/-- MEDIA_SLEEP (R524). -/
def execMediaSleep (s : State) : Out :=
  .next (if s.mediaAsleep || mediaIdle s = 0 || mediaWork s || liveOpen s then s else setMedia s true)

/-- MEDIA_WAKE_DONE (R524): a Foyer or Frieze command has been accepted. -/
def execMediaWakeDone (s : State) : Out := .next (if s.mediaAsleep && mediaWork s then setMedia s false else s)

end Sys2Proof.Machine
end

