-- ==== Sys2Proof/Machine/Icu.lean ====
section
/-! DEFINITION. The interrupt controller (R504 to R514, R79, R145, R295, R383, R417, R437, R462, R492, R515, R540, R561,
R562, R586): lines, pending sources, claims and completions. RAISED is kept by latching what qualifies before anything
can withdraw it (log 80). -/

namespace Sys2Proof.Machine

/-- Shared sources of R504. -/
def sharedIds : List Nat :=
  List.range' 1 9 ++ List.range' 16 32 ++ List.range' 64 9 ++ List.range' 128 64
/-- A source that R504 lists, shared or private. -/
def srcKnown (n : Nat) : Bool := sharedIds.contains n || n = 960 || n = 961

/-- A register holds a set bit among its lowest `w`. -/
def anySet (s : State) (r w : Nat) : Bool := bitsOf (regGet s r) 0 w ≠ 0

/-- A queue of the scope whose completion ring lies in local memory holds an entry its head doorbell has not passed
(R504). -/
def localEntries (s : State) (scope : Nat) : Bool :=
  (List.range 64).any fun q => getF s (rCmdCq scope q) fCmdCqBase < hostBase && !(getQ s scope q).unpassed.isEmpty

/-- The line of a source, of core `c` for a private one (R504). -/
def srcLine (s : State) (c n : Nat) : Bool :=
  if 1 ≤ n && n ≤ 9 then anySet s (rXfmEvents (n - 1)) 6
  else if 16 ≤ n && n < 32 then
    anySet s (rFltErr (n - 16)) 3 || (List.range 8).any fun i => anySet s (rTrdErr (8 * (n - 16) + i)) 6
  else if 32 ≤ n && n < 40 then anySet s (rClsHallEvents (n - 32)) 6
  else
    match n with
    | 40 => anySet s rUndEvents 5
    | 41 => anySet s rOrlEvents 4
    | 42 => anySet s rDlvEvents 3
    | 43 => anySet s rFoyEvents 3
    | 44 => anySet s rFrzEvents 5
    | 45 => anySet s rCmdEvents 3
    | 46 => anySet s rMezEvents 4
    | 47 => anySet s rLntEvents 4 || anySet s rLntIntegEvents 5 || anySet s rLntSecEvents 3
    | 960 => let k := fmGet (fun _ => {}) s.mez.cores c; k.mtimecmp ≤ k.mtime
    | 961 => isF s (rMezCoreStatus c) fMezCoreStatusCacheCe || isF s (rMezCoreStatus c) fMezCoreStatusCacheUe
    | _ => 64 ≤ n && n < 73 && localEntries s (n - 64)

/-! ## Entries (R505) -/

def irqSource (e : List Byte) : Nat := leAt e 0 2 % 1024
def irqPrio (e : List Byte) : Nat := leAt e 2 1 % 16
def irqTarget (e : List Byte) : Nat := leAt e 3 1 % 16
def irqAlt (e : List Byte) : Nat := leAt e 4 1 % 16
def irqEnable (e : List Byte) : Bool := bitOf (leAt e 4 1) 4
/-- Entries of an IRQ section. -/
def irqEntries (sec : List Byte) : List (List Byte) := (List.range (secCount sec)).map (secEntry sec 8)
/-- The entry of a source, of core `c` for a private one. -/
def irqEntry (st : FMap (List Byte)) (c n : Nat) : Option (List Byte) :=
  (irqEntries (secOf st tyIRQ 0xFF 0)).find? fun e => irqSource e = n && (n < 960 || irqTarget e = c)

/-- Key of a source in the claims. -/
def srcKey (c n : Nat) : Nat := if n < 960 then n else 1024 * (c + 1) + n
/-- PRIORITY and core of an active source. -/
def srcActive (s : State) (c n : Nat) : Option (Nat × Nat) := fmFind s.mez.claimed (srcKey c n)
/-- ENABLE of a source; one without an entry has ENABLE 0 (R505). SOFT of a source. -/
def srcEnabled (s : State) (c n : Nat) : Bool := (irqEntry s.run c n).isSome && isF s (rIcuSrc c n) fIcuSrcEnable
def srcSoft (s : State) (c n : Nat) : Bool := isF s (rIcuSrc c n) fIcuSrcSoft
/-- Pending (R506). -/
def srcPending (s : State) (c n : Nat) : Bool :=
  srcKnown n && srcEnabled s c n && (srcActive s c n).isNone && (srcLine s c n || srcSoft s c n)

/-- The running level of a core (R506). -/
def runLevel (s : State) (c : Nat) : Nat :=
  (s.mez.claimed.filter fun p => p.2.2 = c).foldl (fun m p => max m p.2.1) 0
/-- Sources that qualify on a core: priority and identifier (R506). -/
def qualifying (s : State) (c : Nat) : List (Nat × Nat) :=
  let floor := max (runLevel s c) (getF s (rIcuThreshold c) fIcuThresholdThreshold)
  (irqEntries (secOf s.run tyIRQ 0xFF 0)).filterMap fun e =>
    if irqTarget e = c && floor < irqPrio e && srcPending s c (irqSource e) then some (irqPrio e, irqSource e) else none
/-- The one a claim takes: the highest priority, the lowest identifier among equals (R508). -/
def bestSource (l : List (Nat × Nat)) : Option (Nat × Nat) :=
  l.foldl (fun o p =>
    match o with
    | none => some p
    | some b => if b.1 < p.1 || (b.1 = p.1 && p.2 < b.2) then some p else some b) none

/-- LEVEL and DEPTH of a core follow its claims. -/
def refreshCore (s : State) (c : Nat) : State :=
  let s := setF s (rIcuCoreStatus c) fIcuCoreStatusLevel (runLevel s c)
  setF s (rIcuCoreStatus c) fIcuCoreStatusDepth (s.mez.claimed.countP fun p => p.2.2 = c)

/-- RAISED records every core on which a source qualifies (R506). Made before each step that may withdraw a source. -/
def latchRaised (s : State) : State :=
  (List.range 16).foldl (fun s c => if (qualifying s c).isEmpty then s else raiseF s (rIcuCoreStatus c) fIcuCoreStatusRaised) s

/-- ICU_CLAIM (R508). -/
def execIcuClaim (core : Nat) (s : State) : Out :=
  guardUnit (core < 16) <| whileServed s <|
  let st := rIcuCoreStatus core
  match bestSource (qualifying s core) with
  | some (p, n) =>
    let s := { s with mez := { s.mez with claimed := fmPut s.mez.claimed (srcKey core n) (p, core) } }
    let s := raiseF s (rIcuSrc core n) fIcuSrcActive
    let s := setF s (rIcuSrc core n) fIcuSrcActiveCore core
    .next { refreshCore (setF s st fIcuCoreStatusRaised 0) core with resp := .value 8 n }
  | none =>
    if isF s st fIcuCoreStatusRaised then
      let s := satF (setF s st fIcuCoreStatusRaised 0) (rIcuCoreCounts core) fIcuCoreCountsSpurious 1
      .next { s with resp := .value 8 1023 }
    else .next { s with resp := .value 8 0 }

/-- A source stops being active. -/
def endClaim (s : State) (c n : Nat) : State :=
  let s := { s with mez := { s.mez with claimed := fmErase s.mez.claimed (srcKey c n) } }
  setF (setF s (rIcuSrc c n) fIcuSrcActive 0) (rIcuSrc c n) fIcuSrcActiveCore 0

/-- ICU_COMPLETE (R509). -/
def execIcuComplete (core id : Nat) (s : State) : Out :=
  guardUnit (core < 16) <| whileServed s <|
  match srcActive s core id with
  | some (_, c) =>
    if c = core then .next (refreshCore (endClaim s core id) core)
    else .next (satF s (rIcuCoreCounts core) fIcuCoreCountsStray 1)
  | none => .next (satF s (rIcuCoreCounts core) fIcuCoreCountsStray 1)

/-- End every claim of a core (R510). -/
def endClaims (s : State) (c : Nat) : State :=
  let s := (s.mez.claimed.filter fun p => p.2.2 = c).foldl (fun s p =>
    endClaim s c (if p.1 < 960 then p.1 else p.1 % 1024)) s
  refreshCore s c

/-- Set or clear SOFT of a source that exists (R507). -/
def setSoft (s : State) (c n : Nat) (v : Nat) : State :=
  if srcKnown n then setF s (rIcuSrc c n) fIcuSrcSoft v else s

/-- ICU_SET (R507); `core` selects the instance of a private source. -/
def execIcuSet (core n : Nat) (s : State) : Out :=
  guardUnit (core < 16 && 1 ≤ n && n < 1023) <| whileServed s (.next (setSoft s core n 1))

/-- ICU_CLR (R507). -/
def execIcuClr (core n : Nat) (s : State) : Out :=
  guardUnit (core < 16 && 1 ≤ n && n < 1023) <| whileServed s (.next (setSoft (latchRaised s) core n 0))

/-- ENABLE of the sources whose entries differ from an older IRQ section's takes the entry's value (R505, R511). -/
def loadIrq (old : List Byte) (s : State) : State :=
  (irqEntries (secOf s.run tyIRQ 0xFF 0)).foldl (fun s e =>
    if (irqEntries old).contains e then s
    else
      let r := rIcuSrc (irqTarget e) (irqSource e)
      setF s r fIcuSrcEnable (if irqEnable e then 1 else 0)) s

end Sys2Proof.Machine
end

