-- ==== Sys2Proof/Machine/Image.lean ====
section
/-! DEFINITION. Images: the manifest, the section directory, keys, and checks 1 to 8 of R50 for structure images and of
R498 for firmware images (R41 to R46, R497, R498, R564 to R566). -/

namespace Sys2Proof.Machine

/-! ## Digests and keys -/

/-- SM3 digest as 32 bytes. -/
def sm3Bytes (b : List Byte) : List Byte := leBytes 32 (Config.sm3 b).toNat
/-- Public key and identifier of a key slot (R565). -/
def Key.pubKey (k : Key) : List Byte := if k.vendor then Config.vendorPub else k.pub
def Key.identifier (k : Key) : List Byte := if k.vendor then Config.vendorId else k.ident
/-- Digest of a key's public part (R564). -/
def Key.digest (k : Key) : List Byte := sm3Bytes k.pubKey

/-! ## Manifests (R41, R42) -/

def imMagic (b : List Byte) : Nat := leAt b 0 4
def imFormat (b : List Byte) : Nat := leAt b 4 2
def imSections (b : List Byte) : Nat := leAt b 6 2
def imManLen (b : List Byte) : Nat := leAt b 8 4
def imLen (b : List Byte) : Nat := leAt b 0xC 4
def imSerial (b : List Byte) : Nat := leAt b 0x10 4
def imMinFw (b : List Byte) : Nat := leAt b 0x14 4
def imGrades (b : List Byte) : Nat := leAt b 0x18 1
def imSigner (b : List Byte) : List Byte := (b.drop 0x20).take 32
def imBuild (b : List Byte) : List Byte := (b.drop 0x40).take 32
/-- The signed manifest bytes, and the signature (R43). -/
def imSigned (b : List Byte) : List Byte := b.take (0x80 + 48 * imSections b)
def imSig (b : List Byte) : List Byte := (b.drop (0x80 + 48 * imSections b)).take 64

/-- A directory entry (R42). -/
structure DirEnt where
  ty : Nat
  hall : Nat
  var : Nat
  off : Nat
  len : Nat
  hash : List Byte
  deriving DecidableEq, Repr

/-- Directory entry `n`. -/
def imDir (b : List Byte) (n : Nat) : DirEnt :=
  let e := (b.drop (0x80 + 48 * n)).take 48
  { ty := leAt e 0 1, hall := leAt e 1 1, var := leAt e 2 1, off := leAt e 4 4, len := leAt e 8 4, hash := e.drop 16 }
def imDirs (b : List Byte) : List DirEnt := (List.range (imSections b)).map (imDir b)
/-- Bytes of a section. -/
def imSec (b : List Byte) (e : DirEnt) : List Byte := (b.drop e.off).take e.len
/-- Sections of a structure image, by key. -/
def imStruct (b : List Byte) : FMap (List Byte) :=
  (imDirs b).foldl (fun m e => fmPut m (secKey e.ty e.hall e.var) (imSec b e)) []

/-! ## Section types (R45) -/

/-- Device scope, mandatory, variant B allowed, entry size; none for an unknown type. -/
def secType (ty : Nat) : Option (Bool × Bool × Bool × Nat) :=
  match ty with
  | 0x01 => some (true, true, false, 32)
  | 0x02 => some (true, true, false, 8)
  | 0x03 => some (true, true, false, 32)
  | 0x04 => some (false, true, false, 32)
  | 0x05 => some (false, false, false, 16)
  | 0x06 => some (true, true, false, 64)
  | 0x07 => some (false, false, true, 8256)
  | 0x08 => some (false, false, false, 192)
  | 0x09 => some (false, false, true, 64)
  | 0x0A => some (true, true, false, 8)
  | 0x0B => some (false, false, true, 16)
  | 0x0C => some (false, false, true, 64)
  | _ => none
def secEntSize (ty : Nat) : Nat := match secType ty with | some (_, _, _, n) => n | none => 0

/-- Where a validation fails: check of R50, section type, variant, entry (XFM_FAIL). -/
structure VFail where
  check : Nat
  sec : Nat := 0xFF
  var : Nat := 0
  ent : Nat := 0
  deriving DecidableEq, Repr

/-- The first of a list of findings. -/
def firstV : List (Option VFail) → Option VFail
  | [] => none
  | some f :: _ => some f
  | none :: r => firstV r
/-- A finding where a condition fails. -/
def vneed (ok : Bool) (f : VFail) : Option VFail := if ok then none else some f

/-- Type, hall and variant of a section key. -/
def keyTy (k : Nat) : Nat := k / 512
def keyHall (k : Nat) : Nat := k / 2 % 256
def keyVar (k : Nat) : Nat := k % 2

/-- A section header agrees with its length and type (R44). -/
def secHeaderOk (ty : Nat) (bs : List Byte) : Bool :=
  leAt bs 0 4 = bs.length && secSize bs = secEntSize ty && bs.length = 8 + secCount bs * secEntSize ty

/-- Check 8 of R50 on a structure (R44 to R46); R46 is not tested for a hall that is not defined (R620). -/
def check8 (st : FMap (List Byte)) : Option VFail :=
  firstV
    ((st.map fun (k, bs) =>
      let ty := keyTy k
      let h := keyHall k
      let f : VFail := { check := 8, sec := ty, var := keyVar k }
      match secType ty with
      | none => some f
      | some (dev, _, varB, _) =>
        vneed ((if dev then h = 0xFF else h < 8) && secHeaderOk ty bs
          && (keyVar k = 0 || (!dev && !hallDefined st h) || (varB && bitOf (leAt (hallRec st h) 1 1) 1))) f)
    ++ ([0x01, 0x02, 0x03, 0x06, 0x0A].map fun ty => vneed (secPresent st ty 0xFF 0) { check := 8, sec := ty })
    ++ ((List.range 8).map fun h => vneed (!hallDefined st h || secPresent st tyQUOTA h 0) { check := 8, sec := tyQUOTA }))

/-- R498 beyond checks 1 to 7: types, one RESIDENT TEXT with its entry inside, places, the total of RESIDENT. -/
def fwSecBase (b : List Byte) (e : DirEnt) : Nat := leAt (imSec b e) 8 6
def fwSecResident (b : List Byte) (e : DirEnt) : Bool := bitOf (leAt (imSec b e) 14 1) 0
def fwSecEntry (b : List Byte) (e : DirEnt) : Nat := leAt (imSec b e) 16 4
/-- Bytes that a firmware section loads: what follows its header and load record. -/
def fwSecBytes (b : List Byte) (e : DirEnt) : List Byte := (imSec b e).drop 24
/-- The runtime area, and the firmware staging copy at its top (R498). -/
def rtBase : Nat := 0x017FC0000000
def rtStage : Nat := 0x017FFC000000
def fwSectionsOk (b : List Byte) : Bool :=
  let ds := imDirs b
  let span (e : DirEnt) : Nat × Nat := (fwSecBase b e, (fwSecBytes b e).length)
  let res := ds.filter (fwSecResident b)
  (ds.all fun e =>
    0x81 ≤ e.ty && e.ty ≤ 0x83 && e.hall = 0xFF && e.var = 0 && fwSecBase b e % 64 = 0
      && within (span e).1 (span e).2 rtBase rtStage)
    && ((res.filter fun e => e.ty = 0x81).length = 1)
    && (res.all fun e => e.ty ≠ 0x81 || fwSecEntry b e < (fwSecBytes b e).length)
    && ((List.range ds.length).all fun i => (List.range ds.length).all fun j =>
      i = j || match ds[i]?, ds[j]? with
        | some x, some y => !overlap (span x).1 (span x).2 (span y).1 (span y).2
        | _, _ => true)
    && (res.map fun e => (fwSecBytes b e).length).foldl (· + ·) 0 ≤ 786432

/-! ## Checks 1 to 8 -/

/-- The enrolled key that SIGNER names with the use bit of the image's kind (R566). -/
def signerKey (s : State) (fw : Bool) (signer : List Byte) : Option Key :=
  (s.lnt.keys.find? fun k => (if fw then k.2.useFw else k.2.useStruct) && k.2.digest = signer).map (·.2)
/-- The presence window is open (R569). -/
def windowOpen (s : State) : Bool := isF s rLntPresence fLntPresenceOpen
/-- A seal event has been recorded (R579). -/
def sealBroken (s : State) : Bool := s.lnt.sealCount ≠ 0
/-- The key under which an image passes check 3: an enrolled one, or the transient one under the privileged-load
conditions (R566). -/
def imageKey (s : State) (fw : Bool) (b : List Byte) : Option Key :=
  match signerKey s fw (imSigner b) with
  | some k => some k
  | none =>
    match s.lnt.transient with
    | some k => if windowOpen s && !sealBroken s && k.digest = imSigner b then some k else none
    | none => none

/-- The anti-rollback floor of a kind (R56, R500); the running firmware version. -/
def imageFloor (s : State) (fw : Bool) : Nat :=
  if fw then getF s rMezFwConfirm fMezFwConfirmFloor else getF s rXfmSerialFloor fXfmSerialFloorFloor
def fwVersion (s : State) : Nat := getF s rMezFw fMezFwVersion

/-- Checks 1 to 8 of R50 on an image's bytes (R498 for firmware). -/
def imageCheck (s : State) (fw : Bool) (b : List Byte) : Option VFail :=
  let n := imSections b
  let ds := imDirs b
  if !(imMagic b = (if fw then 0x57465A4D else 0x4B4E4850) && imFormat b = 1 && 0x80 ≤ b.length) then some { check := 1 }
  else if !(1 ≤ n && n ≤ 128 && imManLen b = 0x80 + 48 * n + 64 && imManLen b ≤ imLen b && imLen b ≤ 0x4000000
      && imLen b ≤ b.length
      && (ds.all fun e => e.off % 64 = 0 && imManLen b ≤ e.off && e.off + e.len ≤ imLen b)
      && ((List.range n).all fun i => (List.range n).all fun j =>
        i = j || !overlap (imDir b i).off (imDir b i).len (imDir b j).off (imDir b j).len)) then some { check := 2 }
  else
    match imageKey s fw b with
    | none => some { check := 3 }
    | some k =>
      if !Config.sm2Verify k.pubKey k.identifier (imSigned b) (imSig b) then some { check := 4 }
      else if imSerial b < imageFloor s fw then some { check := 5 }
      else if !(bitOf (imGrades b) Config.grade.val && (if fw then imMinFw b = 0 else imMinFw b ≤ fwVersion s)) then some { check := 6 }
      else
        match ds.find? fun e => sm3Bytes (imSec b e) ≠ e.hash with
        | some e => some { check := 7, sec := e.ty, var := e.var }
        | none =>
          if fw then vneed (fwSectionsOk b) { check := 8 }
          else
            let key (e : DirEnt) : Nat := secKey e.ty e.hall e.var
            match ds.zipIdx.find? fun p => 1 < p.1.var || (ds.take p.2).any fun e => e.var ≤ 1 && key e = key p.1 with
            | some (e, _) => some { check := 8, sec := e.ty, var := e.var % 2 }
            | none => check8 (imStruct b)

/-- Slot states of R52: 0 empty, 1 valid, 2 invalid. -/
def slotField (fw : Bool) (slot : Nat) : Nat × Fld :=
  if fw then (rMezFw, if slot = 0 then fMezFwStateA else fMezFwStateB)
  else (rXfmSlot, if slot = 0 then fXfmSlotStateA else fXfmSlotStateB)
def slotState (s : State) (fw : Bool) (slot : Nat) : Nat := getF s (slotField fw slot).1 (slotField fw slot).2
def setSlotState (s : State) (fw : Bool) (slot v : Nat) : State := setF s (slotField fw slot).1 (slotField fw slot).2 v
/-- Flash contents of a slot; a slot beyond the flash present is empty (R596). -/
def slotNum (fw : Bool) (slot : Nat) : Nat := (if fw then 2 else 0) + slot % 2
def slotImage (s : State) (fw : Bool) (slot : Nat) : Option (List Byte) :=
  if (slotNum fw slot + 1) * 0x4000000 ≤ Config.flashSize then fmFind s.lnt.flash (slotNum fw slot) else none
/-- The active slot of a kind. -/
def activeSlot (s : State) (fw : Bool) : Nat := if fw then getF s rMezFw fMezFwActive else getF s rXfmSlot fXfmSlotActive

end Sys2Proof.Machine
end

