-- ==== Sys2Proof/Machine/Validate.lean ====
section
/-! DEFINITION. Validation of a candidate structure: checks 9 to 17 of R50 (R47, R51, R133, R173, R180, R265, R268, R271,
R272, R319, R344, R364, R505, R525, R575, R613, R619, R620). -/

namespace Sys2Proof.Machine

/-- All bytes of a list are zero. -/
def allZero (bs : List Byte) : Bool := bs.all (· = 0)
/-- Bytes `[o, o + n)` are zero. -/
def zeroAt (bs : List Byte) (o n : Nat) : Bool := leAt bs o n = 0
/-- Entries of a section. -/
def secEntries (bs : List Byte) (sz : Nat) : List (List Byte) := (List.range (secCount bs)).map (secEntry bs sz)
/-- Defined halls of a structure. -/
def definedHalls (st : FMap (List Byte)) : List Nat := (List.range 8).filter (hallDefined st)
/-- Variants that a hall has. -/
def hallVariants (st : FMap (List Byte)) (h : Nat) : List Nat :=
  if bitOf (leAt (hallRec st h) 1 1) 1 then [0, 1] else [0]

/-! ## Check 9 (R47): of defined halls only (R620) -/

def check9 (st : FMap (List Byte)) : Option VFail :=
  let sec := secOf st tyHALL 0xFF 0
  firstV
    (vneed (secCount sec = 8) { check := 9, sec := tyHALL } ::
      (List.range 8).map fun h =>
        let r := hallRec st h
        let nf := (flightsOf st h).length
        vneed
          (!hallDefined st h ||
            (leAt r 0 1 = h && leAt r 1 1 < 4 && zeroAt r 9 7 && zeroAt r 24 8
              && (1 ≤ hallQueues st h && hallQueues st h ≤ 64 && hallCloister st h ≤ 32 && hallCloister st h < 8 * nf
                && hallDescs st h ≤ 4096 && leAt r 8 1 ≤ 1 && 1 ≤ nf
                && (bitOf (leAt r 1 1) 1 || leAt r 8 1 = 0)
                && ((hallVariants st h).all fun v => hallDescs st h ≤ secCount (secOf st tyLOOP h v))
                && (definedHalls st).all fun g => g = h || (flightsOf st g).all fun f => !(flightsOf st h).contains f)))
          { check := 9, sec := tyHALL, ent := h })

/-! ## Check 10 (R619) -/

/-- Stops strictly between `a` and `b` in a direction of the ring of five; counter-clockwise for `ccw`. -/
def stopsBetween (ccw : Bool) (a b : Nat) : List Nat :=
  let d := if ccw then (a + 5 - b) % 5 else (b + 5 - a) % 5
  (List.range' 1 (d - 1)).map fun i => if ccw then (a + 5 - i) % 5 else (a + i) % 5
/-- Direction of the route from stop `a` to stop `b` on a die. -/
def routeDir (st : FMap (List Byte)) (die a b : Nat) : Bool := bitOf (leAt (secEntry (secOf st tyROUTE 0xFF 0) 8 die) a 1) b
/-- Ordered pairs of stops that a hall routes on a die. -/
def hallPairs (st : FMap (List Byte)) (h die : Nat) : List (Nat × Nat) :=
  let ss := ((flightsOf st h).filter fun f => f / 4 = die).map fun f => 1 + f % 4
  ss.flatMap fun a => (a, 0) :: (0, a) :: (ss.filter (· ≠ a)).map fun b => (a, b)

def check10 (st : FMap (List Byte)) : Option VFail :=
  let sec := secOf st tyROUTE 0xFF 0
  firstV
    (vneed (secCount sec = 4) { check := 10, sec := tyROUTE } ::
      (List.range 4).map fun die =>
        let e := secEntry sec 8 die
        vneed
          (((List.range 5).all fun a => leAt e a 1 < 32 && !bitOf (leAt e a 1) a) && zeroAt e 5 3
            && (definedHalls st).all fun h => (hallPairs st h die).all fun (a, b) =>
              (stopsBetween (routeDir st die a b) a b).all fun x => x = 0 || (flightsOf st h).contains (4 * die + x - 1))
          { check := 10, sec := tyROUTE, ent := die })

/-! ## Check 11 (R51, R265, R268, R575) -/

def check11 (s : State) (st : FMap (List Byte)) : Option VFail :=
  let mm := secOf st tyMEMMAP 0xFF 0
  let g := secEntry mm 32 0
  let rs := mmRegions mm
  let olds := mmRegions (memmap s)
  let ws := mmWindows mm
  let fail (n : Nat) : VFail := { check := 11, sec := tyMEMMAP, ent := n }
  let p (c : Nat) : Nat := mmPartner mm c
  let live (r : Region) : Bool := 0 < r.len
  firstV
    ([vneed (secCount mm = 2 + leAt g 0 2 + leAt g 2 2 && 1 ≤ leAt g 0 2 && leAt g 0 2 ≤ 1024 && leAt g 2 2 ≤ 8192
        && mmReserve mm ≤ 1984 && zeroAt g 6 2 && zeroAt g 16 16) (fail 0),
      vneed (((List.range 24).all fun c =>
          leAt (secEntry mm 32 1) c 1 < 24 && p (p c) = c && decide (p c / 12 ≠ c / 12))
        && zeroAt (secEntry mm 32 1) 24 8) (fail 1)]
    ++ (List.range rs.length).map (fun i =>
      let e := secEntry mm 32 (2 + i)
      match rs[i]? with
      | none => none
      | some r =>
        vneed (zeroAt e 6 2 && leAt e 15 1 < 32 && zeroAt e 19 13
          && (!live r ||
            (r.base % extBytes = 0 && !r.chans.isEmpty && r.len % r.chans.length = 0
              && (!r.clsM || r.chans.all fun c => r.chans.contains (p c))
              && r.base + r.bytes ≤ sysBase && 32 ≤ r.extBase && r.extBase + r.occ + mmReserve mm ≤ 3968
              && !(r.enc && r.pool) && (r.owner = 0xFF || hallDefined st r.owner)
              && !(r.enc && isF s rLntPresence fLntPresenceDebug)
              && ((List.range i).all fun j => match rs[j]? with
                | some q => !live q ||
                  (!overlap r.base r.bytes q.base q.bytes
                    && !(r.chanset &&& q.chanset ≠ 0 && overlap r.extBase r.occ q.extBase q.occ))
                | none => true)
              && (match olds[i]? with
                | some o => !live o || { o with owner := r.owner } = r
                | none => true)))) (fail (2 + i)))
    ++ (List.range ws.length).map (fun i =>
      let e := secEntry mm 32 (2 + rs.length + i)
      vneed (hallDefined st (leAt e 0 1) && leAt e 1 1 < 2 && zeroAt e 4 28
        && (match rs[leAt e 2 2]? with | some r => live r | none => false)) (fail (2 + rs.length + i))))

/-! ## Check 12 (R272, R290, R294) -/

/-- Extents that a hall owns, both copies of class M counted. -/
def ownedExts (rs : List Region) (owner : Nat) : Nat :=
  (rs.map fun r => if 0 < r.len && r.owner = owner then r.len * (if r.clsM then 2 else 1) else 0).foldl (· + ·) 0
/-- QUOTA entry of a hall. -/
def quotaOf (st : FMap (List Byte)) (h : Nat) : List Byte := secEntry (secOf st tyQUOTA h 0) 32 0
/-- Extents left for image regions (R272). -/
def extentsLeft (s : State) (mm : List Byte) : Nat :=
  let healthy := (List.range 24).filter (chanHealthy s)
  let used := s.und.reloc.countP fun p => 3968 - mmReserve mm ≤ p.2.ext && healthy.contains p.2.chan
  healthy.length * (3968 - 32) - (healthy.length * mmReserve mm - used)

/-- Logical extents that a region occupies, over all its channels. -/
def Region.keys (r : Region) : List Nat := r.chans.flatMap fun c => r.extsOn c

/-- Extents that are to be zeroed need no rebuild, and no burst or block of theirs is lost once they are (R269, R292, R293). -/
def zeroedExts (s : State) (ks : List Nat) : State :=
  let s := dropTodo s fun k => ks.contains k
  { s with und := { s.und with
    lost := s.und.lost.filter fun p => !ks.contains p.1, dead := s.und.dead.filter fun p => !ks.contains p.1 } }

/-- New extents are placed where theirs is on a channel that is not healthy, is named by a repair record, or holds an extent
moved there before the region was (R290, R294, R558). -/
def placeFresh (s : State) (fresh : List Nat) : State :=
  let bad := badExts s
  let taken (k : Nat) : Bool := s.und.reloc.any fun p => extKey p.2.chan p.2.ext = k
  zeroedExts ((List.range 24).foldl (fun s c =>
    placeAll c (fresh.filter fun k => k / 4096 = c && (!chanHealthy s c || bad.contains k || taken k)) s) s) fresh

/-- Region `i` of a structure stands as it stood in the one before: with the same fields, its owner apart (R51). -/
def regionKept (olds : List Region) (r : Region) (i : Nat) : Bool :=
  0 < r.len && match olds[i]? with | some o => { o with owner := r.owner } = r | none => false

/-- The Undercroft's tables when a structure takes effect: the extents of removed regions leave them, new ones
are placed; they read as zero (R269, R290, R294). -/
def moveRegions (s : State) (st : FMap (List Byte)) : State :=
  let olds := mmRegions (memmap s)
  let news := mmRegions (secOf st tyMEMMAP 0xFF 0)
  let live (r : Region) : Bool := 0 < r.len
  let gone := (olds.zipIdx.filter fun p => live p.1 && !regionKept news p.1 p.2).flatMap fun p => p.1.keys
  let s := dropTodo s fun k => gone.contains k
  let u := s.und
  let s := { s with run := st, und := { u with
    reloc := u.reloc.filter fun p => !gone.contains p.1
    unplaced := u.unplaced.filter fun k => !gone.contains k
    lost := u.lost.filter fun p => !gone.contains p.1
    dead := u.dead.filter fun p => !gone.contains p.1
    single := u.single.filter fun k => !gone.contains k } }
  placeFresh s ((news.zipIdx.filter fun p => live p.1 && !regionKept olds p.1 p.2).flatMap fun p => p.1.keys)

/-- Check 12: quotas, capacity, and a place for the second copy of every class-M extent; class-S extents that the candidate
adds find a place too (log 298). -/
def check12 (s : State) (st : FMap (List Byte)) : Option VFail :=
  let mm := secOf st tyMEMMAP 0xFF 0
  let rs := mmRegions mm
  let hs := definedHalls st
  let sum (f : Nat → Nat) : Nat := (hs.map f).foldl (· + ·) 0
  let g := secEntry mm 32 0
  let q : VFail := { check := 12, sec := tyQUOTA }
  firstV
    [vneed (hs.all fun h => ownedExts rs h ≤ leAt (quotaOf st h) 0 4) q,
     vneed (sum (fun h => leAt (quotaOf st h) 0 4) + ownedExts rs 0xFF ≤ extentsLeft s mm) q,
     vneed (sum (fun h => leAt (quotaOf st h) 4 4) ≤ leAt g 8 4) q,
     vneed (sum (fun h => leAt (quotaOf st h) 8 4) ≤ leAt g 12 4) q,
     vneed ((moveRegions s st).und.single.isEmpty
        && (moveRegions s st).und.unplaced.length ≤ s.und.unplaced.length) { check := 12, sec := tyMEMMAP }]

/-! ## Checks 13 and 14 -/

def check13 (st : FMap (List Byte)) : Option VFail :=
  firstV ((List.range 8).flatMap fun h =>
    ((List.range 2).map fun v =>
      let sec := secOf st tyFTAB h v
      let f (n : Nat) : VFail := { check := 13, sec := tyFTAB, var := v, ent := n }
      if !secPresent st tyFTAB h v then none
      else firstV (vneed (1 ≤ secCount sec && secCount sec ≤ 2) (f 0) ::
        (List.range (secCount sec)).map fun n => vneed (tabHeaderOk (secEntry sec 8256 n)) (f n)))
    ++ [let sec := secOf st tyXTAB h 0
        let f (n : Nat) : VFail := { check := 13, sec := tyXTAB, ent := n }
        let es := secEntries sec 192
        firstV (vneed (es.length ≤ 4 && (es.map fun e => leAt e 0 1).eraseDups.length = es.length) (f 0) ::
          (List.range es.length).map fun n =>
            let e := secEntry sec 192 n
            vneed (ctOk e true && ctCrcOk e) (f n))])

def check14 (st : FMap (List Byte)) : Option VFail :=
  firstV ((definedHalls st).flatMap fun h => (hallVariants st h).flatMap fun v =>
    (List.range (hallDescs st h)).map fun n =>
      vneed ((descOf (secEntry (secOf st tyLOOP h v) 64 n)).checkCommit (8 * (flightsOf st h).length)).isNone
        { check := 14, sec := tyLOOP, var := v, ent := n })

/-! ## Check 15 (R505) -/

def check15 (s : State) (st : FMap (List Byte)) : Option VFail :=
  let es := irqEntries (secOf st tyIRQ 0xFF 0)
  let retired := getF s rMezStatus fMezStatusRetired
  let f (n : Nat) : VFail := { check := 15, sec := tyIRQ, ent := n }
  firstV
    (((List.range es.length).map fun n =>
      match es[n]? with
      | none => none
      | some e =>
        let shared := irqSource e < 960
        vneed (srcKnown (irqSource e) && leAt e 0 2 < 1024 && 1 ≤ irqPrio e && leAt e 2 1 < 16 && leAt e 3 1 < 16
          && leAt e 4 1 < 32 && zeroAt e 5 3 && (shared || irqAlt e = 0)
          && (!shared || !bitOf retired (irqTarget e))
          && ((es.take n).all fun x => irqSource x ≠ irqSource e || (!shared && irqTarget x ≠ irqTarget e))) (f n))
    ++ [vneed (sharedIds.all fun i => es.any fun e => irqSource e = i) (f 0)])

/-! ## Check 16 -/

/-- R344. -/
def ringSecOk (s : State) (st : FMap (List Byte)) (h : Nat) : Bool :=
  let es := ringEntries (secOf st tyRING h 0)
  let gs := ringsOfEntries es
  let first := match es with | e :: _ => leAt e 0 1 = 1 | [] => true
  first
    && (es.all fun e =>
      if leAt e 0 1 = 1 then 1 ≤ leAt e 1 1 && leAt e 12 1 < 8 && zeroAt e 13 3
      else leAt e 0 1 = 2 && leAt e 4 2 < 16384 && leAt e 6 1 < 2 && zeroAt e 7 1 && leAt e 8 4 < 262144 && zeroAt e 12 4)
    && ((gs.map (·.num)).eraseDups.length = gs.length)
    && ((gs.map fun g => 1 + g.n).foldl (· + ·) 0 = es.length)
    && (gs.zipIdx.all fun (g, i) =>
      let start := ((gs.take i).map fun x => 1 + x.n).foldl (· + ·) 0
      let ms := (es.drop (start + 1)).take g.n
      2 ≤ g.n && g.n ≤ 16384 && g.self < g.n && g.second < g.n && g.mem.length = g.n
        && (ms.zipIdx.all fun (e, j) => leAt e 0 1 = 2 && leAt e 1 1 = g.num && leAt e 2 2 = j)
        && (g.mem.map (·.dev)).eraseDups.length = g.n
        && (match g.mem[g.self]? with
          | some m => m.dev = getF s rOrlDevice fOrlDeviceDevice && !m.lost && m.ctx = 0
          | none => false)
        && (!g.rotate || g.n ≤ 64)
        && !(g.reduce && hallCloister st h = 0)
        && ((List.range g.n).all fun q => !g.lost q || (g.second ≠ 0 && !g.lost ((q + g.second) % g.n))))
    && (gs.countP (·.commit) ≤ 1)

/-- Conditions of R180 and R364 on one layer record; `inWin` tests a range of a window of the hall. -/
def layerRecOk (inWin : Nat → Nat → Bool) (e : List Byte) : Bool :=
  let k := leAt e 0 1
  let cnt := leAt e 6 2 + 65536 * (leAt e 3 1 % 2)
  let part := bitOf k 1
  let mask := leAt e 16 6
  let moff := leAt e 24 4
  k < 8 && leAt e 1 1 ≤ 64 && leAt e 2 1 < 16 && leAt e 3 1 < 2 && zeroAt e 14 2 && zeroAt e 22 2 && zeroAt e 36 4
    && zeroAt e 46 2 && zeroAt e 52 12
    && leAt e 4 2 + cnt ≤ 65536
    && (leAt e 8 6 = 0 || (leAt e 8 6 % 128 = 0 && inWin (leAt e 8 6) 128))
    && !(bitOf k 0 && part)
    && (if part then
        mask ≠ 0 && mask % 64 = 0 && moff % 64 = 0 && leAt e 28 4 ≠ 0 && leAt e 32 4 ≠ 0
          && inWin mask (ceilDiv (leAt e 28 4) 8) && inWin (mask + moff) (ceilDiv (leAt e 32 4) 8)
      else mask = 0 && moff = 0)

/-- Windows of a candidate structure: one of the hall's regions holds the range (with class M and WRITE asked for). -/
def candWindow (st : FMap (List Byte)) (h a n : Nat) (m w : Bool) : Bool :=
  let mm := secOf st tyMEMMAP 0xFF 0
  (mmWindows mm).any fun (wh, ww, i) =>
    wh = h && (ww || !w) && match (mmRegions mm)[i]? with | some r => r.holds a n && (r.clsM || !m) | none => false

/-- R364 of a layer record. -/
def errmemOk (st : FMap (List Byte)) (h : Nat) (e : List Byte) : Bool :=
  let a := leAt e 40 6
  let n := leAt e 48 4
  (a = 0 && n = 0) || (a % 64 = 0 && n ≠ 0 && n % 1024 = 0 && candWindow st h a n true true)

/-- R178 to R180 of a LAYER section. -/
def layerSecFail (st : FMap (List Byte)) (h v : Nat) : Option VFail :=
  let sec := secOf st tyLAYER h v
  let es := secEntries sec 64
  let f (n : Nat) : VFail := { check := 16, sec := tyLAYER, var := v, ent := n }
  let span (e : List Byte) : Nat × Nat := (leAt e 4 2, leAt e 6 2 + 65536 * (leAt e 3 1 % 2))
  if !secPresent st tyLAYER h v then none
  else
    firstV (vneed (1 ≤ es.length && es.length ≤ 16385 && leAt (secEntry sec 64 0) 0 1 < 2 && allZero ((secEntry sec 64 0).drop 1)) (f 0) ::
      (List.range (es.length - 1)).map fun i =>
        let e := secEntry sec 64 (i + 1)
        vneed (layerRecOk (fun a n => candWindow st h a n false false) e && errmemOk st h e
          && ((List.range i).all fun j =>
            let o := span (secEntry sec 64 (j + 1))
            !overlap (span e).1 (span e).2 o.1 o.2)) (f (i + 1)))

def check16 (s : State) (st : FMap (List Byte)) : Option VFail :=
  let pw := secOf st tyPOWER 0xFF 0
  let pe := secEntry pw 64 0
  firstV
    (((List.range 8).flatMap fun h =>
      let q := secOf st tyQUOTA h 0
      let qe := secEntry q 32 0
      [vneed (!secPresent st tyQUOTA h 0 ||
        (secCount q = 1 && leAt qe 12 1 ≤ 16 && zeroAt qe 14 18)) { check := 16, sec := tyQUOTA },
       vneed (!secPresent st tyRING h 0 || ringSecOk s st h) { check := 16, sec := tyRING }]
      ++ (List.range 2).flatMap fun v =>
        let c := secOf st tyCNTR h v
        [vneed (!secPresent st tyCNTR h v || (secCount c = 1 && leAt c 8 1 < 2 && zeroAt c 9 15))
          { check := 16, sec := tyCNTR, var := v },
         layerSecFail st h v])
    ++ [vneed (secCount pw = 1 && zeroAt pe 6 58 && leAt pe 4 1 < 4 && (leAt pe 5 1 = 0 || (2 ≤ leAt pe 5 1 && leAt pe 5 1 ≤ 20))
        && (bitOf (leAt pe 4 1) 0 || !bitOf (leAt pe 4 1) 1)) { check := 16, sec := tyPOWER }])

/-! ## Check 17, and all of them -/

/-- A hall that the candidate deletes holds an accepted command that has not completed. -/
def check17 (s : State) (st : FMap (List Byte)) : Option VFail :=
  firstV ((List.range 8).map fun h =>
    vneed (!hallDefined s.run h || hallDefined st h || (incompleteCmds s h).isEmpty) { check := 17, sec := tyHALL, ent := h })

/-- Checks 9 to 17 of R50 on a candidate structure. -/
def checkRest (s : State) (st : FMap (List Byte)) : Option VFail :=
  firstV [check9 st, check10 st, check11 s st, check12 s st, check13 st, check14 st, check15 s st, check16 s st, check17 s st]
/-- Checks 8 to 17 (R50). -/
def validate (s : State) (st : FMap (List Byte)) : Option VFail := firstV [check8 st, checkRest s st]

end Sys2Proof.Machine
end

