-- ==== Sys2Proof/Machine/Xfm.lean ====
section
/-! DEFINITION. Structure transactions (R57 to R79, R30, R40, R55, R56, R136, R181, R197, R198, R269, R328, R346, R499,
R505, R581, R609, R614, R620): staging, commit, drain, apply, roll-back, and what a structure coming into force does. -/

namespace Sys2Proof.Machine

/-! ## State of a transaction -/

def xState (s : State) (sc : Nat) : Nat := getF s (rXfmStatus sc) fXfmStatusState
def setXState (s : State) (sc v : Nat) : State := setF s (rXfmStatus sc) fXfmStatusState v
def xBusy (s : State) (sc : Nat) : Bool := isF s (rXfmStatus sc) fXfmStatusBusy
def setBusy (s : State) (sc : Nat) (b : Bool) : State := setF s (rXfmStatus sc) fXfmStatusBusy (if b then 1 else 0)
def setResult (s : State) (sc code : Nat) : State := setF s (rXfmStatus sc) fXfmStatusResult code
def badWrite (s : State) (sc : Nat) : State := raiseF s (rXfmEvents sc) fXfmEventsBadWrite

/-- KiB that staged copies of these lengths take (R62). -/
def stagedKib (x : Xfm) : Nat := (x.staged.map fun p => ceilDiv p.2.length 1024).foldl (· + ·) 0
/-- Close a transaction: nothing staged, idle. -/
def closeTxn (s : State) (sc : Nat) : State :=
  setF (setXState (setBusy (setX s sc {}) sc false) sc 0) (rXfmStatus sc) fXfmStatusStagedKib 0

/-- XFM_BEGIN (R57, R78). -/
def execXfmBegin (scope : Nat) (s : State) : Out :=
  guardUnit (scope ≤ 8) <| whileServed s <|
  if xBusy s scope then .next (badWrite s scope)
  else if xState s scope ≠ 0 then .next (setResult s scope 0x39)
  else
    let s := setXState (setX s scope {}) scope 1
    let s := bumpF s (rXfmStatus scope) fXfmStatusTxnId 1
    .next (setResult (setF s (rXfmStatus scope) fXfmStatusStagedKib 0) scope 0)

/-! ## Staging (R58 to R63) -/

def selSection (s : State) (sc : Nat) : Nat := getF s (rXfmStageSel sc) fXfmStageSelSection
def selVariant (s : State) (sc : Nat) : Nat := getF s (rXfmStageSel sc) fXfmStageSelVariant
def selOffset (s : State) (sc : Nat) : Nat := getF s (rXfmStageSel sc) fXfmStageSelOffset
/-- The item is one of the three that are no sections (R60). -/
def selPseudo (s : State) (sc : Nat) : Bool := 0xFD ≤ selSection s sc
/-- The item lies in the scope (R58). -/
def selScopeOk (s : State) (sc : Nat) : Bool :=
  let n := selSection s sc
  if n = 0xFE then sc < 8
  else if n = 0xFD || n = 0xFF then sc = 8
  else
    match secType n with
    | some (dev, _, _, _) => if dev then sc = 8 else sc < 8
    | none => false
/-- A transaction that stages a slot select stages it alone (R60). -/
def selAlone (s : State) (sc : Nat) : Bool :=
  let x := getX s sc
  let n := selSection s sc
  if n = 0xFF then x.staged.isEmpty && x.fwSel.isNone
  else if n = 0xFD then x.staged.isEmpty && x.slotSel.isNone
  else x.slotSel.isNone && x.fwSel.isNone
/-- The copy of the selected section, or of the running one (R59). -/
def stagedCopy (s : State) (sc : Nat) : List Byte :=
  let k := secKey (selSection s sc) (if sc < 8 then sc else 0xFF) (selVariant s sc)
  ((fmFind (getX s sc).staged k).or (fmFind s.run k)).getD []

/-- Check 1 of R63 on what the registers select; `pay` is the written data where it is known. -/
def stageFieldsOk (s : State) (sc : Nat) (pay : Option (List Byte)) : Bool :=
  selScopeOk s sc && selAlone s sc && selOffset s sc % 8 = 0
    && (!selPseudo s sc || match pay with | some bs => leNat bs ≤ 1 | none => true)

/-- KiB staged once `n` bytes have been written at OFFSET (R62). -/
def stageKibAfter (s : State) (sc n : Nat) : Nat :=
  if selPseudo s sc then stagedKib (getX s sc)
  else
    let x := getX s sc
    let k := secKey (selSection s sc) (if sc < 8 then sc else 0xFF) (selVariant s sc)
    stagedKib { x with staged := fmErase x.staged k } + ceilDiv (max (stagedCopy s sc).length (selOffset s sc + n)) 1024

/-- Bytes written over a copy at an offset; a write past its end extends it (R59). -/
def spliceBytes (bs : List Byte) (o : Nat) (new : List Byte) : List Byte :=
  bs.take o ++ zeros (o - bs.length) ++ new ++ bs.drop (o + new.length)

/-- Put the written data into staging and advance OFFSET (R59, R60). -/
def stagePut (s : State) (sc : Nat) (bs : List Byte) : State :=
  let x := getX s sc
  let n := selSection s sc
  let x := if n = 0xFF then { x with slotSel := some (leNat bs) }
    else if n = 0xFD then { x with fwSel := some (leNat bs) }
    else if n = 0xFE then { x with actVar := some (leNat bs) }
    else
      let k := secKey n (if sc < 8 then sc else 0xFF) (selVariant s sc)
      { x with staged := fmPut x.staged k (spliceBytes (stagedCopy s sc) (selOffset s sc) bs) }
  let s := setX s sc x
  let s := setF s (rXfmStatus sc) fXfmStatusStagedKib (stagedKib x)
  setResult (bumpF s (rXfmStageSel sc) fXfmStageSelOffset bs.length) sc 0

/-- STAGE_DATA_WRITE (R59, R60, R62, R63, R78). -/
def execStageDataWrite (scope : Nat) (data : DWord) (s : State) : Out :=
  guardUnit (scope ≤ 8) <| whileServed s <|
  let bs := leBytes 8 data.toNat
  if xBusy s scope || xState s scope ≠ 1 then .next (badWrite s scope)
  else if !stageFieldsOk s scope (some bs) then .next (setResult s scope 0x10)
  else if 16384 < stageKibAfter s scope 8 then .next (setResult s scope 0x3A)
  else .next (stagePut s scope bs)

/-- The bulk source area (R63). -/
def bulkSourceOk (s : State) (sc a n : Nat) : Bool :=
  if sc < 8 then inWindow s sc false a n else (regionAt s a n).isSome

/-- STAGE_BULK_WRITE (R61, R63, R78): the copy starts. -/
def execStageBulkWrite (scope : Nat) (data : DWord) (s : State) : Out :=
  guardUnit (scope ≤ 8) <| whileServed s <|
  let n := bitsOf data.toNat 0 25
  let a := getF s (rXfmStageBulkAddr scope) fXfmStageBulkAddrAddr
  if xBusy s scope || xState s scope ≠ 1 then .next (badWrite s scope)
  else if !stageFieldsOk s scope none || n = 0 || n % 8 ≠ 0 || 0x1000000 < n || a % 64 ≠ 0 then
    .next (setResult s scope 0x10)
  else if !bulkSourceOk s scope a n then .next (setResult s scope 0x11)
  else .next (setBusy (setX s scope { getX s scope with bulk := some (a, n, bitsOf data.toNat 32 32) }) scope true)

/-- STAGE_BULK_DONE (R61, R62, R63, R269): the buffer has been read, or its read failed. XFM_STAGE_SEL counts as it stands
now, where software has written it again meanwhile (log 299). -/
def execStageBulkDone (scope : Nat) (err : Option ReadErr) (s : State) : Out :=
  guardUnit (scope ≤ 8) <| whileServed s <|
  match (getX s scope).bulk with
  | none => .next s
  | some (a, n, crc) =>
    if unzeroed s a n then .next s else
    let s := setBusy (setX s scope { getX s scope with bulk := none }) scope false
    let bs := memBytes s a n
    match err with
    | some e => .next (setResult s scope (errCode e))
    | none =>
      match goneIn s a n with
      | some (e, x) => .next (setResult (recordErr s e x) scope (errCode e))
      | none =>
      if !stageFieldsOk s scope (some bs) then .next (setResult s scope 0x10)
      else if crc32c bs ≠ crc then .next (setResult s scope 0x13)
      else if 16384 < stageKibAfter s scope n then .next (setResult s scope 0x3A)
      else .next (stagePut s scope bs)

/-! ## The candidate (R50, R59, R60) -/

/-- Overwrite byte 8 of a hall's record: ACTIVE_VARIANT (R47, R60). -/
def putVariant (st : FMap (List Byte)) (h v : Nat) : FMap (List Byte) :=
  match fmFind st (secKey tyHALL 0xFF 0) with
  | some bs => fmPut st (secKey tyHALL 0xFF 0) (spliceBytes bs (8 + 32 * h + 8) [BitVec.ofNat 8 v])
  | none => st

/-- The running structure with a transaction's staged writes applied, each section as long as its header says (R59); for a
slot switch, the target image. -/
def candidate (s : State) (sc : Nat) : FMap (List Byte) :=
  let x := getX s sc
  match x.slotSel with
  | some slot => match x.image.or (slotImage s false slot) with | some b => imStruct b | none => s.run
  | none =>
    let st := x.staged.foldl (fun st p => if leAt p.2 0 4 = 0 then fmErase st p.1 else fmPut st p.1 (p.2.take (leAt p.2 0 4))) s.run
    match x.actVar with | some v => putVariant st sc v | none => st

/-- Windows of a hall with their regions, and its routes (R69). -/
def hallWindows (st : FMap (List Byte)) (h : Nat) : List (Bool × Option Region) :=
  let mm := secOf st tyMEMMAP 0xFF 0
  ((mmWindows mm).filter fun w => w.1 = h).map fun w => (w.2.1, (mmRegions mm)[w.2.2]?)
def hallRoutes (st : FMap (List Byte)) (h : Nat) : List Bool :=
  (List.range 4).flatMap fun die => (hallPairs st h die).map fun p => routeDir st die p.1 p.2

/-- Halls that a commit touches (R65, R69, R620). -/
def touchedHalls (s : State) (sc : Nat) : List Nat :=
  let x := getX s sc
  let st := candidate s sc
  if sc < 8 then (if hallDefined s.run sc then [sc] else [])
  else if x.fwSel.isSome then []
  else
    (List.range 8).filter fun h =>
      (hallDefined s.run h || hallDefined st h)
        && (x.slotSel.isSome || hallRec s.run h ≠ hallRec st h || hallRoutes s.run h ≠ hallRoutes st h
          || hallWindows s.run h ≠ hallWindows st h)
/-- Halls that a device commit creates or deletes (R70). -/
def bornOrDead (s : State) (sc : Nat) : List Nat :=
  if sc < 8 then [] else (touchedHalls s sc).filter fun h => hallDefined s.run h ≠ hallDefined (candidate s sc) h

/-! ## A structure comes into force -/

/-- Keys of ENC regions: drawn for a new one, destroyed with a removed one (R581). -/
def encKeys (olds : List Region) (s : State) : State :=
  ((regions s).zipIdx).foldl (fun s (r, i) =>
    if r.enc && 0 < r.len then
      if regionKept olds r i && (fmFind s.lnt.smKeys i).isSome then s
      else
        let (a, s) := takeFree s
        let (b, s) := takeFree s
        let (c, s) := takeFree s
        let (d, s) := takeFree s
        { s with lnt := { s.lnt with smKeys := fmPut s.lnt.smKeys i [a, b, c, d] } }
    else { s with lnt := { s.lnt with smKeys := fmErase s.lnt.smKeys i } }) s

/-- Regions and memory: places, zeroing of new regions, keys, the registers that show them (R269, R272, R290, R581). -/
def enforceMemory (st : FMap (List Byte)) (s : State) : State :=
  let olds := regions s
  let s := moveRegions s st
  let news := (regions s).zipIdx
  let fresh := news.filter fun p => 0 < p.1.len && !regionKept olds p.1 p.2
  let kept := s.und.zeroing.filter fun z => news.any fun p => p.1.holds z.1 z.2 && regionKept olds p.1 p.2
  let zs := kept ++ fresh.map fun p => (p.1.base, p.1.bytes)
  let s := { s with und := { s.und with zeroing := zs } }
  let s := setF s rUndStatus fUndStatusZeroing (if zs.isEmpty then 0 else 1)
  let s := refreshUnd (encKeys olds s)
  (List.range 8).foldl (fun s h =>
    let s := setF s (rUndHallLocal h) fUndHallLocalExt (if hallDefined st h then ownedExts (regions s) h else 0)
    setF s (rUndHallLocal h) fUndHallLocalQuota (if hallDefined st h then leAt (quotaOf st h) 0 4 else 0)) s

/-- A flight leaves a hall, joins one, or both (R23, R73, R519, R614). -/
def moveFlight (old : FMap (List Byte)) (s : State) (f : Nat) : State :=
  let n := flightHall s.run f
  if flightHall old f = n then s
  else
    let s := if (flightHall old f).isSome then zeroFlight s f else s
    match n with
    | none => flightOff s f
    | some h =>
      let s := (List.range 8).foldl (fun s i =>
        let t := 8 * f + i
        let s := { s with regs := fmClearRange s.regs (rTrdStall t 0 0) 0xC0 }
        setF s (rTrdStatus t) fTrdStatusHall h) s
      if flightWorking s f && fltState s f ≠ 2 then wakeHall s h else s

/-- FTAB section in force for a hall. -/
def activeFtab (st : FMap (List Byte)) (h : Nat) : List Byte := secOf st tyFTAB h (hallVar st h)

/-- LEN and MARGIN of a hall's layers are written now, and again where an extent yet to be zeroed holds them (R181, R269). -/
def layersNow (s : State) (h : Nat) : State :=
  let s := applyLayers s h
  { s with und := { s.und with
    layersDue := if s.und.zeroing.isEmpty then [] else h :: s.und.layersDue.filter (· ≠ h) } }

/-- What one defined hall takes from a new structure: tables, layers, code tables, the sleep of the learning datapath,
its counter block where it is new (R136, R181, R197, R198, R324, R328, R609). -/
def enforceHall (old : FMap (List Byte)) (s : State) (h : Nat) : State :=
  let st := s.run
  if !hallDefined st h then s
  else
    let born := !hallDefined old h
    let s := if born then { s with regs := fmClearRange s.regs (rCmdCtr h 0) 0x8000 } else s
    let s := (flightsOf st h).foldl (fun s f =>
      if fltState s f = 0 || (!born && activeFtab old h = activeFtab st h && hallVar old h = hallVar st h
          && flightHall old f = some h) then s
      else (List.range 8).foldl (fun s i => loadTables s (8 * f + i)) s) s
    let s := if born || layerSec old h ≠ layerSec st h || hallVar old h ≠ hallVar st h then layersNow s h else s
    let x := secOf st tyXTAB h 0
    let s := if !born && secOf old tyXTAB h 0 = x then s
      else (secEntries x 192).foldl (fun s e => loadSlot s h (leAt e 0 1) 2 e) s
    setH s h { getH s h with asleep := hallGenerates st h }

/-- A structure comes into force as one change. -/
def enforce (s : State) (st : FMap (List Byte)) : State :=
  let old := s.run
  let s := enforceMemory st (latchRaised s)
  let s := (List.range 16).foldl (moveFlight old) s
  let s := (List.range 8).foldl (enforceHall old) s
  let s := if secOf old tyPOWER 0xFF 0 = secOf st tyPOWER 0xFF 0 then s else applyOriel s
  loadIrq (secOf old tyIRQ 0xFF 0) s

/-! ## Firmware sections (R498, R499, W5) -/

/-- Load the sections of a firmware image; TABLE (0x83) only where `tables` holds. -/
def loadFirmware (s : State) (b : List Byte) (tables : Bool) : State :=
  (imDirs b).foldl (fun s e => if e.ty = 0x83 && !tables then s else memPut s (fwSecBase b e) (fwSecBytes b e)) s
/-- ENTRY: the address in the RESIDENT TEXT (R498). -/
def fwEntry (b : List Byte) : Nat :=
  match (imDirs b).find? fun e => e.ty = 0x81 && fwSecResident b e with
  | some e => fwSecBase b e + fwSecEntry b e
  | none => rtBase
/-- Every working core starts at ENTRY, in machine mode (R498, R499). -/
def startCores (s : State) (b : List Byte) : State :=
  (List.range 16).foldl (fun s c =>
    if bitOf (getF s rMezStatus fMezStatusWorking) c then
      let k := fmGet (fun _ => {}) s.mez.cores c
      { s with mez := { s.mez with cores := fmPut s.mez.cores c { k with pc := BitVec.ofNat 64 (fwEntry b), priv := 3 } } }
    else s) s

/-- The apply of a firmware slot switch (R499, R510). -/
def applyFirmware (s : State) (slot : Nat) : State :=
  let b := s.lnt.fwStaged
  let s := (List.range 16).foldl endClaims (latchRaised s)
  let s := startCores (loadFirmware s b false) b
  let s := setF (setF s rMezFw fMezFwActive slot) rMezFw fMezFwVersion (imSerial b)
  { s with lnt := { s.lnt with prefFw := slot, fwManifest := imSigned b } }

/-! ## Commit (R64 to R75) -/

/-- A step boundary is asked for, or the transaction always waits for one (R30, R55). -/
def waitsBoundary (x : Xfm) (step : Bool) : Bool := step || x.slotSel.isSome || x.actVar.isSome

/-- A commit request (R55, R64, R70, R78): the target of a slot switch is read, validation begins; the halls it creates or deletes pause from now. -/
def commitRequest (s : State) (sc : Nat) (step : Bool) : State :=
  if xBusy s sc || xState s sc ≠ 1 then badWrite s sc
  else
    let x := getX s sc
    let x := { x with image :=
      match x.slotSel, x.fwSel with
      | some slot, _ => slotImage s false slot
      | none, some slot => slotImage s true slot
      | none, none => none }
    let s := setX { s with clock := s.clock + 1 } sc x
    setBusy (setX s sc { x with
      validating := true, atBoundary := waitsBoundary x step, order := s.clock, touched := touchedHalls s sc
      paused := bornOrDead s sc, recheck := false }) sc true

/-- XFM_COMMIT_STEP_BOUNDARY (R64, R65). -/
def execXfmCommitStepBoundary (scope : Nat) (s : State) : Out :=
  guardUnit (scope ≤ 8) <| whileServed s (.next (commitRequest s scope true))
/-- XFM_COMMIT_IMMEDIATE (R64, R65). -/
def execXfmCommitImmediate (scope : Nat) (s : State) : Out :=
  guardUnit (scope ≤ 8) <| whileServed s (.next (commitRequest s scope false))

/-- XFM_FAIL takes a finding, or shows none. -/
def setFail (s : State) (sc : Nat) (f : Option VFail) : State :=
  let r := rXfmFail sc
  match f with
  | none => regSet s r 0
  | some v =>
    setF (setF (setF (setF s r fXfmFailCheck v.check) r fXfmFailSection v.sec) r fXfmFailVariant v.var) r fXfmFailEntry v.ent

/-- The transaction goes back to the open state; its halls dispatch again. -/
def reopen (s : State) (sc code : Nat) : State :=
  let s := setX s sc { getX s sc with validating := false, atBoundary := false, touched := [], paused := [], image := none, recheck := false }
  setResult (setXState (setBusy s sc false) sc 1) sc code
/-- A commit is refused by validation (R64). -/
def refuseCommit (s : State) (sc : Nat) (f : VFail) : State :=
  let s := reopen (setFail s sc (some f)) sc 0x3B
  bumpF (raiseF s (rXfmEvents sc) fXfmEventsRefused) (rXfmCounts sc) fXfmCountsRefusals 1

/-- What the device checks at a commit request (R50, R55, R64, R499). -/
def commitCheck (s : State) (sc : Nat) : Option VFail :=
  let x := getX s sc
  match x.slotSel, x.fwSel with
  | some _, _ =>
    match x.image with
    | none => some { check := 1 }
    | some b => firstV [imageCheck s false b, checkRest s (imStruct b)]
  | none, some _ =>
    match x.image with
    | none => some { check := 1 }
    | some b =>
      firstV [imageCheck s true b,
        match slotImage s false (activeSlot s false) with
        | some i => vneed (imMinFw i ≤ imSerial b) { check := 6 }
        | none => none]
  | none, none => validate s (candidate s sc)

/-- Two lists of halls share one. -/
def sharesHall (a b : List Nat) : Bool := a.any b.contains

/-- The structure generations of a commit's scope and of the halls it touches go up (R40). -/
def bumpGens (s : State) (sc : Nat) (touched : List Nat) : State :=
  (sc :: touched.filter (· ≠ sc)).foldl (fun s k => bumpF s (rXfmGen k) fXfmGenGeneration 1) s

/-- A deleted hall loses its sections, those of a target image apart, and its transaction, open, pending or draining; that sets
DISCARDED alone (R39, R59, R77; log 300). -/
def dropHall (switch : Bool) (s : State) (h : Nat) : State :=
  let s := if switch then s else { s with run := s.run.filter fun p => keyHall p.1 ≠ h }
  if xState s h = 0 then s else raiseF (closeTxn s h) (rXfmEvents h) fXfmEventsDiscarded

/-- Every other waiting commit that touches a hall of the commit applied, or its scope, is validated again (R72). A device
commit touches what it changes of the structure now in force (R69); a hall that it comes to touch pauses at once where
its commit point has passed. -/
def markRecheck (s : State) (sc : Nat) (touched : List Nat) : State :=
  let scopes := if sc < 8 then sc :: touched else touched
  { s with xfm := s.xfm.map fun p =>
      let st := xState s p.1
      if p.1 = sc || !(p.2.validating || st = 2 || st = 3) then p
      else
        let more := (touchedHalls s p.1).filter fun h => !p.2.touched.contains h
        (p.1, { p.2 with
          touched := p.2.touched ++ more, paused := if st = 3 then p.2.paused ++ more else p.2.paused
          recheck := p.2.recheck || !more.isEmpty || sharesHall p.2.touched scopes }) }

/-- The apply: all staged writes as one change, then the transaction is over; the slot of a switch holds an image that has
passed (R40, R52, R55, R65, R75). -/
def applyCommit (s : State) (sc : Nat) : State :=
  let x := getX s sc
  let st := candidate s sc
  let dead := (List.range 8).filter fun h => hallDefined s.run h && !hallDefined st h
  let gens := if x.slotSel.isSome then List.range 8 else x.touched
  let s := bumpGens s sc gens
  let s := match x.fwSel with
    | some slot => applyFirmware s slot
    | none => enforce s st
  let s := dead.foldl (dropHall x.slotSel.isSome) s
  let s := match x.slotSel with
    | some slot =>
      let b := x.image.getD []
      let s := if slotImage s false slot = some b then setSlotState s false slot 1 else s
      let s := setF (setF s rXfmSlot fXfmSlotActive slot) rXfmSlot fXfmSlotActiveSerial (imSerial b)
      { s with lnt := { s.lnt with prefImg := slot, imgManifest := imSigned b } }
    | none => s
  let s := markRecheck s sc x.touched
  let s := setResult (closeTxn s sc) sc 0
  bumpF (raiseF s (rXfmEvents sc) fXfmEventsCommitted) (rXfmCounts sc) fXfmCountsCommits 1

/-- The commit point (R65, R346): the drain begins; positions newly marked LOST end their commands. -/
def commitPoint (s : State) (sc : Nat) : State :=
  let x := getX s sc
  let s := setXState (setX s sc { x with paused := x.touched }) sc 3
  if sc < 8 then
    let st := candidate s sc
    if secOf s.run tyRING sc 0 = secOf st tyRING sc 0 then s
    else (lostPositions (hallRings s.run sc) (hallRings st sc)).foldl (fun s p => lostEnds s sc p.1 p.2) s
  else s

/-- A pending commit whose halls have all paused passes its commit point (R70). -/
def tryPoint (s : State) (sc : Nat) : State :=
  let x := getX s sc
  if xState s sc = 2 && (!x.atBoundary || x.touched.all x.paused.contains) then commitPoint s sc else s

/-- A step boundary of a hall: it pauses for every pending commit that waits for it (R30, R65, R70). -/
def stepBoundary (s : State) (h : Nat) : State :=
  (List.range 9).foldl (fun s sc =>
    let x := getX s sc
    if xState s sc = 2 && x.atBoundary && x.touched.contains h && !x.paused.contains h then
      tryPoint (setX s sc { x with paused := h :: x.paused }) sc
    else s) s

/-- VALIDATION_DONE (R64, R69): the commit is refused, or pending; one that touches no hall applies at once. -/
def execValidationDone (scope : Nat) (s : State) : Out :=
  guardUnit (scope ≤ 8) <| whileServed s <|
  let x := getX s scope
  if !x.validating then .next s
  else
    match commitCheck s scope with
    | some f => .next (refuseCommit s scope f)
    | none =>
      let s := setFail (setBusy s scope false) scope none
      let s := match x.fwSel with
        | some _ => { s with lnt := { s.lnt with fwStaged := x.image.getD [] } }
        | none => s
      let s := setResult (setXState (setX s scope { x with validating := false }) scope 2) scope 0
      if x.touched.isEmpty then .next (applyCommit s scope) else .next (tryPoint s scope)

/-- The drain of a commit is over: no dispatched command of its halls is incomplete (R65). -/
def drained (s : State) (x : Xfm) : Bool := x.touched.all fun h => (activeCmds s h).isEmpty

/-- An earlier request for one of the same halls is still to apply (R72). -/
def earlierCommit (s : State) (sc : Nat) (x : Xfm) : Bool :=
  s.xfm.any fun p => p.1 ≠ sc && p.2.order < x.order && sharesHall p.2.touched x.touched
    && (xState s p.1 = 2 || xState s p.1 = 3)

/-- COMMIT_APPLY (R65, R70, R72). -/
def execCommitApply (scope : Nat) (s : State) : Out :=
  guardUnit (scope ≤ 8) <| whileServed s <|
  let x := getX s scope
  if xState s scope ≠ 3 || !drained s x || earlierCommit s scope x then .next s
  else
    let again := if x.recheck then commitCheck s scope else none
    match firstV [again, if scope = 8 && x.fwSel.isNone then check17 s (candidate s scope) else none] with
    | some f => .next (refuseCommit s scope f)
    | none => .next (applyCommit s scope)

/-- DRAIN_TIMEOUT (R71): of a drain, or of a step-boundary device commit whose first hall has paused. -/
def execDrainTimeout (scope : Nat) (s : State) : Out :=
  guardUnit (scope ≤ 8) <| whileServed s <|
  let x := getX s scope
  let late := (xState s scope = 3 && !drained s x) || (xState s scope = 2 && scope = 8 && x.atBoundary && !x.paused.isEmpty)
  if !late then .next s
  else
    let s := raiseF (reopen s scope 0x3C) (rXfmEvents scope) fXfmEventsTimedOut
    .next (bumpF s (rXfmCounts scope) fXfmCountsTimeouts 1)

/-! ## Roll-back (R76) -/

/-- XFM_ROLL_BACK (R76, R78). -/
def execXfmRollBack (scope : Nat) (s : State) : Out :=
  guardUnit (scope ≤ 8) <| whileServed s <|
  if xBusy s scope || xState s scope = 0 then .next (badWrite s scope)
  else if xState s scope = 4 then .next (setResult s scope 1)
  else
    let s := setResult (closeTxn s scope) scope 0
    .next (bumpF (raiseF s (rXfmEvents scope) fXfmEventsRolledBack) (rXfmCounts scope) fXfmCountsRollbacks 1)

/-- XFM_SLOT_CONFIRM (R56). -/
def execXfmSlotConfirm (s : State) : Out :=
  whileServed s <|
  .next (setF s rXfmSerialFloor fXfmSerialFloorFloor
    (max (getF s rXfmSerialFloor fXfmSerialFloorFloor) (getF s rXfmSlot fXfmSlotActiveSerial)))

end Sys2Proof.Machine
end

