-- ==== Sys2Proof/Machine/Security.lean ====
section
/-! DEFINITION. Identity, keys, presence and the seal loop (R54, R559, R560, R563 to R585): the management commands, the
effects they have at their completion records, the events of the presence input and of the seal loop. A privileged
command is judged at its dispatch and takes effect at its completion record, so that a seal event between the two leaves
no effect (R579). -/

namespace Sys2Proof.Machine

/-- Bytes that the management scope reaches: its windows and the host window (R560, R571). -/
def mgmtReach (s : State) (wr : Bool) (a n : Nat) : Bool :=
  inWindow s 8 wr a n || (inHost a n && s.pci.up && s.pci.busMaster && s.pci.ats)

/-! ## Keys (R565, R566) -/

/-- LNT_KEY_STATUS and LNT_PRESENCE.TRANSIENT follow the store; a change sets KEYS. -/
def setKeys (s : State) (keys : FMap Key) (transient : Option Key) : State :=
  let mask (f : Key → Bool) : Nat := (keys.map fun k => if f k.2 then 2 ^ k.1 else 0).foldl (· + ·) 0
  let r := rLntKeyStatus
  let changed := keys ≠ s.lnt.keys || transient ≠ s.lnt.transient
  let s := { s with lnt := { s.lnt with keys := keys, transient := transient } }
  let s := setF s r fLntKeyStatusEnrolled (mask fun _ => true)
  let s := setF s r fLntKeyStatusUseFw (mask (·.useFw))
  let s := setF s r fLntKeyStatusUseStruct (mask (·.useStruct))
  let s := setF s rLntPresence fLntPresenceTransient (if transient.isSome then 1 else 0)
  if changed then raiseF s rLntSecEvents fLntSecEventsKeys else s

/-! ## Privileged commands (R567, R570 to R577) -/

/-- Fields of a request record (R572). -/
def prSlot (b : List Byte) : Nat := leAt b 0 1 % 16
def prTransient (b : List Byte) : Bool := bitOf (leAt b 0 1) 4
def prStruct (b : List Byte) : Bool := bitOf (leAt b 0 1) 5
def prFw (b : List Byte) : Bool := bitOf (leAt b 0 1) 6
def prIdLen (b : List Byte) : Nat := leAt b 1 1 % 64
def prFirst (b : List Byte) : Nat := leAt b 4 2
def prCount (b : List Byte) : Nat := leAt b 6 2
def prPub (b : List Byte) : List Byte := (b.drop 8).take 64
def prId (b : List Byte) : List Byte := (b.drop 0x48).take (prIdLen b)

/-- Check 4 of R571 over a record: reserved and unused fields zero, the others in range. -/
def prFieldsOk (op : Nat) (b : List Byte) : Bool :=
  let z (o n : Nat) : Bool := leAt b o n = 0
  let noKey := !prTransient b && !prStruct b && !prFw b && z 1 1 && z 8 96
  let noRange := z 4 4
  leAt b 0 1 < 128 && leAt b 1 1 < 64 && z 2 2 && z 0x68 20 &&
    match op with
    | 0x42 => noRange && 1 ≤ prIdLen b && prIdLen b ≤ 32 && z (0x48 + prIdLen b) (32 - prIdLen b)
        && (!prTransient b || prSlot b = 0)
    | 0x43 => noKey && noRange
    | 0x46 => noKey && prSlot b = 0 && prFirst b < 4096 && 1 ≤ prCount b && prCount b ≤ 4096 - prFirst b
    | _ => noKey && noRange && prSlot b = 0

/-- Seal and presence, checks 2 and 3 of R571. -/
def privileged (s : State) (k : Disp) : Disp := need (!sealBroken s) 0x41 2 <| need (windowOpen s) 0x40 3 k

/-- The frame of a privileged command with a request record (R571): one runs at a time. -/
def privCmd (opcode : Nat) (r : CmdRef) (err : Option ReadErr) (s : State) (k : State → Cmd → List Byte → Disp) : Out :=
  guardUnit (r.scope = 8) <|
  dispatch opcode r s fun s c =>
    waitWhile ((earlierCmds s 8).any fun p => 0x42 ≤ p.2.opcode && p.2.opcode ≤ 0x46) <|
    need (c.o0 % 128 = 0 && mgmtReach s false c.o0 128) 0x11 1 <|
    readOk s r err false c.o0 128 <|
    let b := memBytes s c.o0 128
    need (crc32c (b.take 0x7C) = leAt b 0x7C 4) 0x13 1 <|
    privileged s <|
    need (prFieldsOk opcode b) 0x10 4 <|
    k (updJob s r fun j => { j with rec1 := b }) c b

/-- The key of an enrolment record. -/
def prKey (b : List Byte) : Key := { pub := prPub b, ident := prId b, useStruct := prStruct b, useFw := prFw b }

/-- KEY_ENROLL (R571 to R573). -/
def execKeyEnroll (r : CmdRef) (err : Option ReadErr) (s : State) : Out :=
  privCmd 0x42 r err s fun s _ b =>
    let k := prKey b
    need (Config.sm2Point k.pub && (prTransient b || ((k.useStruct || k.useFw) && (fmFind s.lnt.keys (prSlot b)).isNone))
      && s.lnt.keys.all fun e => e.2.digest ≠ k.digest) 0x10 5 <|
    .go (succeed s r 0 0)

/-- KEY_REVOKE (R571, R572, R574). -/
def execKeyRevoke (r : CmdRef) (err : Option ReadErr) (s : State) : Out :=
  privCmd 0x43 r err s fun s _ b =>
    match fmFind s.lnt.keys (prSlot b) with
    | none => .stop 0x10 5 0
    | some k => need (k.digest ≠ imSigner s.lnt.fwManifest) 0x10 5 (.go (succeed s r 0 0))

/-- Regions of the running structure with ENC set. -/
def encRegions (s : State) : Nat := (regions s).countP fun g => g.enc && 0 < g.len

/-- DEBUG_UNLOCK (R571, R572, R575). -/
def execDebugUnlock (r : CmdRef) (err : Option ReadErr) (s : State) : Out :=
  privCmd 0x44 r err s fun s _ _ => need (encRegions s = 0) 0x10 5 (.go (succeed s r 0 0))

/-- REPAIR_CLEAR (R559, R571, R572, R577). -/
def execRepairClear (r : CmdRef) (err : Option ReadErr) (s : State) : Out :=
  privCmd 0x46 r err s fun s _ _ => .go (succeed s r 0 0)

/-- A command of a hall scope is accepted and incomplete. -/
def hallWork (s : State) : Bool := (List.range 8).any fun h => !(incompleteCmds s h).isEmpty

/-- A mask of numbers. -/
def maskOf' (l : List Nat) : Nat := (l.map fun i => 2 ^ i).foldl (· + ·) 0

/-- SECURE_ERASE (R571, R572, R576): `failed` are the channels that fail their read-back. The cold reset follows the
completion. -/
def execSecureErase (r : CmdRef) (failed : List Nat) (err : Option ReadErr) (s : State) : Out :=
  privCmd 0x45 r err s fun s _ _ =>
    need (!hallWork s && hostBase ≤ getF s (rCmdSq 8 r.queue) fCmdSqBase && hostBase ≤ getF s (rCmdCq 8 r.queue) fCmdCqBase)
      0x10 5 <|
    let up := (List.range 24).filter (chanHealthy s)
    let bad := up.filter failed.contains
    let erased := up.filter fun c => !failed.contains c
    let gone := (List.range 24).filter fun c => !erased.contains c
    let s := memZero { s with lnt := { s.lnt with
      smKeys := [], eraseCount := s.lnt.eraseCount + 1, eraseLast := incarnation s } } 0 sysEnd
    let s := bad.foldl (fun s c => addRecord s { kind := 5, source := 1, slice := 16 + c, incarnation := incarnation s }) s
    .go (succeed s r 0 (maskOf' erased + 2 ^ 24 * maskOf' gone))

/-- An erase has run, and its cold reset has not come: no queue fetches (R576). -/
def erasing (s : State) : Bool := (scopeCmds s 8).any fun p => p.2.opcode = 0x45 && p.2.order ≠ 0

/-! ## IMAGE_LOAD (R54, R566, R567) -/

def ilLen (c : Cmd) : Nat := bitsOf c.o1 0 27
def ilFw (c : Cmd) : Bool := bitOf c.o1 32
def ilSlot (c : Cmd) : Nat := bitsOf c.o1 33 1

/-- The slot lies wholly inside the flash (R596). -/
def slotFits (fw : Bool) (slot : Nat) : Bool := (slotNum fw slot + 1) * 0x4000000 ≤ Config.flashSize

/-- IMAGE_LOAD (R54, R566, R567, R571): the outcome is that of the read-back; the slot is written at the completion record.
`aux` says whether the load is privileged. The slot is compared with the active one after the tests of length and reach
and the read of the source (DESIGN CHOICE, log 305). -/
def execImageLoad (r : CmdRef) (err : Option ReadErr) (s : State) : Out :=
  guardUnit (r.scope = 8) <|
  dispatch 0x40 r s fun s c =>
    let fw := ilFw c
    need (ilLen c ≤ 0x4000000) 0x10 0 <|
    need (mgmtReach s false c.o0 (ilLen c)) 0x11 0 <|
    readOk s r err false c.o0 (ilLen c) <|
    need (ilSlot c ≠ activeSlot s fw) 0x38 0 <|
    let b := memBytes s c.o0 (ilLen c)
    let priv := (signerKey s fw (imSigner b)).isNone
    let go : Disp :=
      let ok := slotFits fw (ilSlot c) && (imageCheck s fw b).isNone
      let s := updJob s r fun j => { j with rec1 := b, aux := [if priv then 1 else 0] }
      .go (if ok then succeed s r 0 1 else endCmd s r 0x3B 0 0 0)
    if priv then privileged s go else go

/-! ## Effects at the completion record -/

/-- REPAIR_CLEAR: records in a range take STATE 2; empty ones are passed over (R559, R577). -/
def clearRecords (s : State) (first count : Nat) : State :=
  refreshRepair { s with integ := { s.integ with records := s.integ.records.zipIdx.map fun p =>
    if first ≤ p.2 && p.2 < first + count && p.1.kind ≠ 0 then { p.1 with state := 2 } else p.1 } }

/-- The outcome of a management command at its completion record: an IMAGE_LOAD whose slot a switch has made active
meanwhile is refused, and flash is left unchanged (R54). -/
def mgmtOutcome (s : State) (c : Cmd) : Cmd :=
  if c.opcode = 0x40 && c.order ≠ 0 && (c.code = 0 || c.code = 0x3B) && ilSlot c = activeSlot s (ilFw c) then
    { c with code := 0x38, info := 0 }
  else c

/-- What a management command does at its completion record (R482). -/
def mgmtDone (s : State) (c : Cmd) : State :=
  let b := c.job.rec1
  match c.opcode, c.code with
  | 0x40, 0x00 =>
    setSlotState { s with lnt := { s.lnt with flash := fmPut s.lnt.flash (slotNum (ilFw c) (ilSlot c)) b } } (ilFw c) (ilSlot c) 1
  | 0x40, 0x3B =>
    if c.order = 0 || !slotFits (ilFw c) (ilSlot c) then s
    else setSlotState { s with lnt := { s.lnt with flash := fmPut s.lnt.flash (slotNum (ilFw c) (ilSlot c)) b } } (ilFw c) (ilSlot c) 2
  | 0x42, 0x00 =>
    if prTransient b then setKeys s s.lnt.keys (some (prKey b))
    else setKeys s (fmPut s.lnt.keys (prSlot b) (prKey b)) s.lnt.transient
  | 0x43, 0x00 => setKeys s (fmErase s.lnt.keys (prSlot b)) s.lnt.transient
  | 0x44, 0x00 =>
    raiseF (setF { s with lnt := { s.lnt with debugEver := true } } rLntPresence fLntPresenceDebug 1) rLntSecEvents fLntSecEventsDebug
  | 0x46, 0x00 => clearRecords s (prFirst b) (prCount b)
  | _, _ => s

/-! ## Reading: SELFTEST_READ (R560) and ATTEST (R583 to R585) -/

/-- A slice result as 16 bytes (R560). -/
def sliceBytes (n : Nat) (x : SliceRes) : List Byte :=
  leBytes 1 n ++ leBytes 1 x.result ++ leBytes 2 x.records ++ leBytes 4 x.duration ++ leBytes 2 x.cursor ++ zeros 6
/-- A repair record as 32 bytes (R557); a bad one keeps a CRC that does not match. -/
def repairBytes (x : Repair) : List Byte :=
  let b := leBytes 1 (x.kind + 16 * x.state + 64 * x.source) ++ leBytes 1 x.slice ++ leBytes 2 x.sub ++ leBytes 4 x.number
    ++ leBytes 6 x.address ++ leBytes 2 x.bit ++ leBytes 4 x.incarnation ++ leBytes 4 x.count ++ zeros 4
  b ++ leBytes 4 (if x.bad then crc32c b + 1 else crc32c b)

/-- Entries of a self-test read: all that exist. -/
def testEntries (s : State) (what : Nat) : List (List Byte) :=
  if what = 0 then (List.range 101).map fun n => sliceBytes n ((fmFind s.integ.results n).getD {})
  else s.integ.records.map repairBytes

/-- Output of a self-test read (R560). -/
def testOutput (s : State) (what first count : Nat) : List Byte :=
  let all := testEntries s what
  let es := (all.drop first).take count
  leBytes 4 es.length ++ leBytes 4 all.length ++ leBytes 4 s.integ.runInc ++ zeros 52 ++ es.flatten

/-- Write the output of a management command and succeed: it waits for zeroing, and ends with the failure of a write that
cannot land (R269, R286, R292). -/
def mgmtWrite (s : State) (r : CmdRef) (a : Nat) (bs : List Byte) : Disp :=
  match writeStuck s a bs.length with
  | some none => .wait
  | some (some (e, x)) => failRead s r e false x
  | none => .go (succeed (store s a bs) r 0 0)

/-- SELFTEST_READ (R560). -/
def execSelftestRead (r : CmdRef) (err : Option ReadErr) (s : State) : Out :=
  guardUnit (r.scope = 8) <|
  dispatch 0x47 r s fun s c =>
    need (c.o0 % 64 = 0 && mgmtReach s false c.o0 64) 0x11 0 <|
    readOk s r err false c.o0 64 <|
    let b := memBytes s c.o0 64
    let z (o n : Nat) : Bool := leAt b o n = 0
    need (crc32c (b.take 60) = leAt b 60 4) 0x13 0 <|
    let what := leAt b 0 1
    let dest := leAt b 8 6
    let out := testOutput s what (leAt b 2 2) (leAt b 4 2)
    need (what ≤ 1 && z 1 1 && z 6 2 && z 14 2 && z 20 40 && leAt b 2 2 < (if what = 0 then 101 else 4096) && 1 ≤ leAt b 4 2
      && leAt b 4 2 ≤ 4096 && dest % 64 = 0 && out.length ≤ leAt b 16 4) 0x10 0 <|
    need (mgmtReach s true dest out.length) 0x11 0 <|
    mgmtWrite s r dest out

/-- Bytes of the 16 key slots, 98 each (R584). -/
def keyBytes (s : State) : List Byte :=
  (List.range 16).flatMap fun i =>
    match fmFind s.lnt.keys i with
    | some k =>
      let id := k.identifier
      (Config.useByte k.useStruct k.useFw) :: leBytes 1 id.length ++ (k.pubKey ++ zeros 64).take 64 ++ (id ++ zeros 32).take 32
    | none => zeros 98

/-- Exactly `n` bytes of a byte string, zeros after its end. -/
def fixLen (n : Nat) (b : List Byte) : List Byte := (b ++ zeros n).take n

/-- Bytes 0x000 to 0x1BF of the report (R584). -/
def reportBody (s : State) (nonce : List Byte) : List Byte :=
  let g (r : Nat) (f : Fld) : Nat := getF s r f
  let flags := (if s.lnt.debugEver then 1 else 0) + 2 * g rUndStatus fUndStatusReduced + 4 * g rUndStatus fUndStatusHalfExposed
    + 8 * g rLntPresence fLntPresenceOpen + (if sealBroken s then 16 else 0) + 32 * g rLntStatus fLntStatusOsc
    + 64 * g rXfmSlot fXfmSlotFallback + 128 * g rMezFw fMezFwFallback
  leBytes 4 0x54535441 ++ leBytes 2 1 ++ leBytes 2 512
    ++ leBytes 1 Config.grade.val ++ leBytes 1 flags ++ leBytes 1 (g rLntStatus fLntStatusLevel + 16 * g rLntStatus fLntStatusCause) ++ zeros 1
    ++ leBytes 4 (incarnation s) ++ leBytes 16 Config.serial.toNat ++ fixLen 32 nonce
    ++ leBytes 4 (g rLntStatus fLntStatusWarmCount) ++ leBytes 4 s.lnt.sealCount ++ leBytes 4 s.lnt.sealFirst ++ leBytes 4 s.lnt.sealLast
    ++ leBytes 4 (g rXfmSlot fXfmSlotActiveSerial) ++ leBytes 4 (g rXfmSerialFloor fXfmSerialFloorFloor)
    ++ leBytes 4 (g rMezFw fMezFwVersion) ++ leBytes 4 (g rMezFwConfirm fMezFwConfirmFloor)
    ++ sm3Bytes s.lnt.imgManifest ++ fixLen 32 (imSigner s.lnt.imgManifest) ++ fixLen 32 (imBuild s.lnt.imgManifest)
    ++ sm3Bytes s.lnt.fwManifest ++ fixLen 32 (imSigner s.lnt.fwManifest) ++ sm3Bytes (keyBytes s)
    ++ ((List.range 9).flatMap fun k => leBytes 4 (g (rXfmGen k) fXfmGenGeneration))
    ++ leBytes 3 (g rUndStatus fUndStatusHealthy) ++ zeros 1
    ++ leBytes 2 (maskOf' ((List.range 16).filter fun f => !flightWorking s f)) ++ leBytes 2 (g rMezStatus fMezStatusRetired)
    ++ leBytes 5 (maskOf' ((List.range 34).filter fun p => g (rOrlPortStatus p) fOrlPortStatusState = 2))
    ++ leBytes 1 (g rLntBlockIsolate fLntBlockIsolateBlocks) ++ leBytes 2 (g rLntRepairStatus fLntRepairStatusUsed)
    ++ leBytes 2 (g rLntRepairStatus fLntRepairStatusExhausted) ++ leBytes 1 s.lnt.keys.length ++ zeros 1
    ++ leBytes 4 s.lnt.eraseCount ++ leBytes 4 s.lnt.eraseLast ++ leBytes 2 (encRegions s) ++ zeros 30
    ++ sm3Bytes Config.dikPub ++ zeros 32

/-- The identity record (R585). -/
def identityBytes : List Byte :=
  leBytes 4 (96 + Config.cert.length) ++ leBytes 1 Config.grade.val ++ zeros 3 ++ leBytes 16 Config.serial.toNat
    ++ fixLen 64 Config.dikPub ++ leBytes 2 Config.cert.length ++ zeros 6 ++ Config.cert

/-- ATTEST (R583 to R585). -/
def execAttest (r : CmdRef) (err : Option ReadErr) (s : State) : Out :=
  guardUnit (r.scope = 8) <|
  dispatch 0x41 r s fun s c =>
    need (c.o0 % 64 = 0 && mgmtReach s false c.o0 64) 0x11 0 <|
    readOk s r err false c.o0 64 <|
    let b := memBytes s c.o0 64
    let z (o n : Nat) : Bool := leAt b o n = 0
    need (crc32c (b.take 60) = leAt b 60 4) 0x13 0 <|
    let what := leAt b 0 1
    let dest := leAt b 8 6
    need (what ≤ 1 && z 1 7 && z 14 2 && z 20 4 && z 56 4 && dest % 64 = 0
      && (if what = 0 then 512 else 2656) ≤ leAt b 16 4) 0x10 0 <|
    let body := reportBody s ((b.drop 24).take 32)
    let out := body ++ fixLen 64 (Config.sm2Sign s.freeCtr body) ++ (if what = 0 then [] else identityBytes)
    need (mgmtReach s true dest out.length) 0x11 0 <|
    mgmtWrite { s with freeCtr := s.freeCtr + 1 } r dest out

/-! ## Presence (R568, R569) -/

/-- The window closes: the transient key is discarded (R569, R573). -/
def closeWindow (s : State) : State :=
  setKeys (setF (setF s rLntPresence fLntPresenceOpen 0) rLntPresence fLntPresenceRemainMs 0) s.lnt.keys none

/-- PRESENCE_DEBOUNCE (R568, R569): PRES_N has held a level for 50 ms. -/
def execPresenceDebounce (low : Bool) (s : State) : Out :=
  let r := rLntPresence
  if low then
    if isF s r fLntPresencePin then .next s
    else
      let opened := !windowOpen s
      let s := setF (setF (setF s r fLntPresencePin 1) r fLntPresenceOpen 1) r fLntPresenceRemainMs 60000
      let s := bumpF s r fLntPresenceAssertions 1
      .next (if opened then raiseF s rLntSecEvents fLntSecEventsOpened else s)
  else if !isF s r fLntPresencePin then .next s
  else
    let s := setF s r fLntPresencePin 0
    .next (if windowOpen s && getF s r fLntPresenceRemainMs = 0 then closeWindow s else s)

/-- PRESENCE_WINDOW_CLOSE (R569): 60 s have passed since the last assertion; with the level asserted the window stays
open. -/
def execPresenceWindowClose (s : State) : Out :=
  if !windowOpen s then .next s
  else if isF s rLntPresence fLntPresencePin then .next (setF s rLntPresence fLntPresenceRemainMs 0)
  else .next (closeWindow s)

/-! ## The seal loop (R578, R579) -/

/-- The next state of the LFSR of R578; its lowest bit is driven (log 72). -/
def lfsrNext (l : Nat) : Nat :=
  l % 65536 / 2 + 2 ^ 15 * ((bitsOf l 0 1 + bitsOf l 2 1 + bitsOf l 3 1 + bitsOf l 5 1) % 2)

/-- SEAL_TICK (R569, R578): SEAL_OUT takes the next bit; a millisecond of the presence window passes. -/
def execSealTick (s : State) : Out :=
  if !s.lnt.railUp then .next s
  else
    let l := lfsrNext s.lnt.lfsr
    let s := setF s rLntPresence fLntPresenceRemainMs (getF s rLntPresence fLntPresenceRemainMs - 1)
    .next { s with lnt := { s.lnt with lfsr := l, sealOut := bitOf l 0 } }

/-- A dispatched privileged command other than SECURE_ERASE. -/
def isPrivileged (c : Cmd) : Bool :=
  c.order ≠ 0 && (c.st = .dispatched || c.st = .ended)
    && (c.opcode = 0x42 || c.opcode = 0x43 || c.opcode = 0x44 || c.opcode = 0x46 || (c.opcode = 0x40 && c.job.aux = [1]))

/-- A seal event (R579). -/
def sealEvent (s : State) : State :=
  let i := incarnation s
  let s := { s with lnt := { s.lnt with
    sealCount := satAdd 32 s.lnt.sealCount 1, sealFirst := if s.lnt.sealCount = 0 then i else s.lnt.sealFirst
    sealLast := i, armed := false } }
  let s := setF (setKeys s s.lnt.keys none) rLntPresence fLntPresenceDebug 0
  (scopeCmds s 8).foldl (fun s p =>
    if isPrivileged p.2 then
      updCmd s p.1 fun c => { c with st := .ended, code := 0x41, check := 0, extent := 0, info := 0 }
    else s) s

/-- SEAL_SAMPLE (R578, R579): SEAL_IN compared with the bit driven; the fourth mismatch in a row is an event, the next
one only after 1,000 matches in a row. -/
def execSealSample (bit : Bool) (s : State) : Out :=
  if !s.lnt.railUp then .next s
  else if bit = s.lnt.sealOut then
    let m := min (s.lnt.matched + 1) 1000
    .next { s with lnt := { s.lnt with mism := 0, matched := m, armed := s.lnt.armed || decide (1000 ≤ m) } }
  else
    let n := min (s.lnt.mism + 1) 4
    let s := { s with lnt := { s.lnt with mism := n, matched := 0 } }
    .next (if n = 4 && s.lnt.armed then sealEvent s else s)

end Sys2Proof.Machine
end

