-- ==== Sys2Proof/Machine/Cold.lean ====
section
/-! DEFINITION. Cold resets (R528, R529, R563, R569): what always-on storage keeps, and the rest of the device at its reset
values. -/

namespace Sys2Proof.Machine

/-- The Lantern's always-on storage, its input levels and the running seal loop (R529, R563, R578, R593). -/
def alwaysOn (l : Lantern) : Lantern :=
  { flash := l.flash, prefImg := l.prefImg, prefFw := l.prefFw, keys := l.keys
    lfsr := l.lfsr, sealOut := l.sealOut, mism := l.mism, matched := l.matched, armed := l.armed
    sealCount := l.sealCount, sealFirst := l.sealFirst, sealLast := l.sealLast
    eraseCount := l.eraseCount, eraseLast := l.eraseLast
    railUp := l.railUp, pgIo := l.pgIo, pgCore := l.pgCore, perst := l.perst, coldRst := l.coldRst
    strapPins := l.strapPins, straps := l.straps, tap := l.tap }

/-- Registers whose fields lie in always-on storage: slot fields, the image floor, key and repair state (R56, R500,
R557, R565). -/
def alwaysOnRegs : List Nat := [rXfmSlot, rXfmSerialFloor, rMezFw, rLntKeyStatus, rLntRepairStatus]

/-- The device with nothing but always-on storage, the levels of its inputs and what it has already sent. -/
def wipe (s : State) : State :=
  let g := s.integ
  let n : State :=
    { pending := s.pending, freeCtr := s.freeCtr, msix := s.msix
      orl := { sent := s.orl.sent, lasers := s.orl.lasers.map fun p => (p.1, { present := p.2.present, fault := p.2.fault }) }
      integ := { records := g.records, nextNumber := g.nextNumber, results := g.results, runInc := g.runInc, cursors := g.cursors }
      lnt := alwaysOn s.lnt }
  let n := alwaysOnRegs.foldl (fun n r => regSet n r (regGet s r)) n
  let n := setF n rMezFwConfirm fMezFwConfirmFloor (getF s rMezFwConfirm fMezFwConfirmFloor)
  let n := setF n rLntSelftestStatus fLntSelftestStatusRuns (getF s rLntSelftestStatus fLntSelftestStatusRuns)
  let n := setF n rLntTherm fLntThermCrit (getF s rLntTherm fLntThermCrit)
  setF n rOrlDevice fOrlDeviceIncarnation (incarnation s)

/-- A cold reset with its cause (R403, R528, R529). -/
def coldReset (s : State) (cause : Nat) : State :=
  setF (setF (wipe s) rOrlDevice fOrlDeviceIncarnation (incarnation s + 1)) rLntStatus fLntStatusCause cause

end Sys2Proof.Machine
end

