-- ==== Sys2Proof/Machine/Pixel.lean ====
section
/-! DEFINITION. Pictures of the Foyer: the profile and the conversion of a pixel (R429 to R431), region tables (R432,
R433). -/

namespace Sys2Proof.Machine

/-! ## The picture profile (R429) -/

def pfPix (p : List Byte) : Nat := leAt p 0 1 % 8
def pfMatrix (p : List Byte) : Nat := bitsOf (leAt p 0 1) 3 2
def pfFull (p : List Byte) : Bool := bitOf (leAt p 0 1) 5
def pfBgr (p : List Byte) : Bool := bitOf (leAt p 0 1) 6
def pfLuma (p : List Byte) : Bool := bitOf (leAt p 1 1) 0
def pfFmt (p : List Byte) : Nat := bitsOf (leAt p 1 1) 1 5
def pfConv (p : List Byte) : Nat := leAt p 2 1
def pfK (p : List Byte) : Int := sext 8 (leAt p 3 1)
def pfMean (p : List Byte) (i : Nat) : Nat := leAt p (4 + 4 * i) 4
def pfScale (p : List Byte) (i : Nat) : Nat := leAt p (16 + 4 * i) 4
def pfPos (p : List Byte) : Nat := leAt p 28 2
def pfRoi (p : List Byte) : Bool := bitOf (leAt p 30 1) 0
def pfRoiAddr (p : List Byte) : Nat := leAt p 32 6

/-- An FP32 pattern is finite. -/
def finite32 (x : Nat) : Bool := match fDecode ifmt32 x with | .fin _ _ _ => true | _ => false

/-- The profile's fields lie in their ranges (R429); where the region table may stand is the caller's test. -/
def profileOk (p : List Byte) : Bool :=
  let used := if pfLuma p then [0] else [0, 1, 2]
  pfPix p ≤ 4 && pfMatrix p ≤ 2 && leAt p 0 1 < 128 && leAt p 1 1 < 64 && 2 ≤ pfFmt p && pfFmt p ≤ 5 && pfConv p < 16
    && (!fmtIsHalf (pfFmt p) || pfK p = 0)
    && (used.all fun i => finite32 (pfMean p i) && finite32 (pfScale p i))
    && pfPos p ≠ 0 && pfPos p % (if fmtIsHalf (pfFmt p) then 256 else 128) = 0
    && leAt p 30 1 < 2 && leAt p 31 1 = 0 && pfRoiAddr p % 64 = 0 && leAt p 38 26 = 0

/-- Twice the bytes that a pixel of a source format takes (R429). -/
def pixBytes2 (fmt : Nat) : Nat := match fmt with | 0 => 6 | 1 => 8 | 2 => 2 | 3 => 3 | _ => 6

/-! ## Conversion (R431) -/

/-- The FP32 nearest a positive fraction. -/
def fp32Frac (num den : Nat) : Nat :=
  let q := num * 2 ^ 60 / den
  let sticky := if num * 2 ^ 60 % den = 0 then 0 else 1
  (fRound ifmt32 0 false (2 * q + sticky) (-61)).1

/-- K_R and K_B of a MATRIX, in units of 1 / 10,000. -/
def matrixK (m : Nat) : Nat × Nat := match m with | 0 => (2990, 1140) | 1 => (2126, 722) | _ => (2627, 593)
def cKR (m : Nat) : Nat := fp32Frac (matrixK m).1 10000
def cKB (m : Nat) : Nat := fp32Frac (matrixK m).2 10000
def cKG (m : Nat) : Nat := fp32Frac (10000 - (matrixK m).1 - (matrixK m).2) 10000
def cA (m : Nat) : Nat := fp32Frac (2 * (10000 - (matrixK m).1)) 10000
def cD (m : Nat) : Nat := fp32Frac (2 * (10000 - (matrixK m).2)) 10000
def cB (m : Nat) : Nat :=
  let (r, b) := matrixK m
  fp32Frac (2 * b * (10000 - b)) (10000 * (10000 - r - b))
def cC (m : Nat) : Nat :=
  let (r, b) := matrixK m
  fp32Frac (2 * r * (10000 - r)) (10000 * (10000 - r - b))

/-- An integer, a quotient, a product, a fused sum in FP32. -/
def i32f (v : Int) : Nat := (fOfInt ifmt32 0 v).1
def div32 (a b : Nat) : Nat := (fDiv ifmt32 0 a b).1
def mulF (a b : Nat) : Nat := (fMul ifmt32 0 a b).1
def subF (a b : Nat) : Nat := (fSub ifmt32 0 a b).1
def fmaF (a b c : Nat) : Nat := (fFma ifmt32 0 a b c).1

/-- Widened luma and chroma of a code of `n` bits. -/
def wideY (full : Bool) (n y : Nat) : Nat :=
  let s : Int := 2 ^ (n - 8)
  if full then div32 (i32f y) (i32f ((2 ^ n - 1 : Nat) : Int)) else div32 (i32f ((y : Int) - 16 * s)) (i32f (219 * s))
def wideC (full : Bool) (n c : Nat) : Nat :=
  let s : Int := 2 ^ (n - 8)
  if full then div32 (i32f ((c : Int) - 2 ^ (n - 1))) (i32f ((2 ^ n - 1 : Nat) : Int))
  else div32 (i32f ((c : Int) - 128 * s)) (i32f (224 * s))

/-- A pixel of a source, by its bytes: the codes at (x, y) of a picture of `w` × `h`. -/
def pixCodes (fmt w h x y : Nat) (src : List Byte) : List Nat :=
  let p := y * w + x
  let cp := y / 2 * ceilDiv w 2 + x / 2
  match fmt with
  | 0 => [leAt src (3 * p) 1, leAt src (3 * p + 1) 1, leAt src (3 * p + 2) 1]
  | 1 => [leAt src (4 * p) 1, leAt src (4 * p + 1) 1, leAt src (4 * p + 2) 1]
  | 2 => [leAt src p 1]
  | 3 => [leAt src p 1, leAt src (w * h + 2 * cp) 1, leAt src (w * h + 2 * cp + 1) 1]
  | _ => [leAt src (2 * p) 2 / 64, leAt src (2 * w * h + 4 * cp) 2 / 64, leAt src (2 * w * h + 4 * cp + 2) 2 / 64]

/-- Channel values of a pixel, before the mean (R431 steps 1 and 2). A luma-only source has no chroma: its Cb and Cr are
the neutral code. -/
def pixValues (p : List Byte) (fmt : Nat) (codes : List Nat) : List Nat :=
  let m := pfMatrix p
  let rgb : List Nat :=
    if fmt ≤ 1 then codes.map fun (v : Nat) => div32 (i32f (v : Int)) (i32f 255)
    else
      let n := if fmt = 4 then 10 else 8
      let y := wideY (pfFull p) n (codes.getD 0 0)
      if pfLuma p then [y]
      else
        let cb := wideC (pfFull p) n (codes.getD 1 (2 ^ (n - 1)))
        let cr := wideC (pfFull p) n (codes.getD 2 (2 ^ (n - 1)))
        [fmaF (cA m) cr y, fmaF (fNeg ifmt32 (cC m)) cr (fmaF (fNeg ifmt32 (cB m)) cb y), fmaF (cD m) cb y]
  if pfLuma p then
    (if fmt ≤ 1 then [fmaF (cKB m) (rgb.getD 2 0) (fmaF (cKG m) (rgb.getD 1 0) (mulF (cKR m) (rgb.getD 0 0)))] else rgb.take 1)
  else if pfBgr p then rgb.reverse else rgb

/-- The converted channels of a pixel (R431 steps 3 and 4). -/
def pixChannels (p : List Byte) (fmt : Nat) (codes : List Nat) : List Cvt :=
  (pixValues p fmt codes).zipIdx.map fun (v, i) =>
    let v := mulF (subF v (pfMean p i)) (pfScale p i)
    cvtTo (pfFmt p) (pfConv p) (fDecode ifmt32 (fScalb ifmt32 0 v (-(pfK p))).1)

/-- The bytes of a position (R430). -/
def posBytes (p : List Byte) (cs : List Cvt) : List Byte :=
  let w := if fmtIsHalf (pfFmt p) then 2 else 1
  let bs := cs.flatMap fun c => leBytes w c.bits
  bs ++ zeros (pfPos p - bs.length)

/-! ## Region tables (R432, R433) -/

/-- The boxes of a table: X0, Y0, X1, Y1. -/
def roiBoxes (t : List Byte) : List (Nat × Nat × Nat × Nat) :=
  (List.range (min 16 (leAt t 0 1))).map fun i =>
    let o := 8 + 8 * i
    (leAt t o 2, leAt t (o + 2) 2, leAt t (o + 4) 2, leAt t (o + 6) 2)
def roiCrcOk (t : List Byte) : Bool := crc32c (t.take 4 ++ (t.drop 8).take 128) = leAt t 4 4
/-- A position lies in a box. -/
def inBox (x y : Nat) (b : Nat × Nat × Nat × Nat) : Bool := b.1 ≤ x && b.2.1 ≤ y && x < b.2.2.1 && y < b.2.2.2
/-- A position lies in the union of the boxes; no box means the whole frame. -/
def inBoxes (bs : List (Nat × Nat × Nat × Nat)) (x y : Nat) : Bool := bs.isEmpty || bs.any (inBox x y)

end Sys2Proof.Machine
end

