-- ==== Sys2Proof/Machine/Token.lean ====
section
/-! DEFINITION. Text of the Foyer: UTF-8 validity, the dictionary image, the search and the tokenizer (R424, R426 to
R428). -/

namespace Sys2Proof.Machine

/-! ## UTF-8 (RFC 3629, R424) -/

/-- Bytes that a character starting with this byte takes; 0 for a byte that starts none. -/
def utf8Len (b : Byte) : Nat :=
  let n := b.toNat
  if n < 0x80 then 1 else if 0xC2 ≤ n && n < 0xE0 then 2 else if 0xE0 ≤ n && n < 0xF0 then 3
  else if 0xF0 ≤ n && n < 0xF5 then 4 else 0
/-- Range that the second byte of a character may lie in: overlong forms, surrogates and values above 0x10FFFF are
outside it. -/
def utf8Second (b : Byte) : Nat × Nat :=
  match b.toNat with
  | 0xE0 => (0xA0, 0xBF) | 0xED => (0x80, 0x9F) | 0xF0 => (0x90, 0xBF) | 0xF4 => (0x80, 0x8F) | _ => (0x80, 0xBF)
/-- The bytes are valid UTF-8: `left` continuation bytes are due, the next one in the range. -/
def utf8Ok : List Byte → Nat → Nat × Nat → Bool
  | [], left, _ => left = 0
  | b :: bs, 0, _ => 0 < utf8Len b && utf8Ok bs (utf8Len b - 1) (utf8Second b)
  | b :: bs, n + 1, r => r.1 ≤ b.toNat && b.toNat ≤ r.2 && utf8Ok bs n (0x80, 0xBF)

/-! ## The dictionary image (R426) -/

def dcEntries (d : List Byte) : Nat := leAt d 0 4
def dcMaxLen (d : List Byte) : Nat := leAt d 4 1
def dcLog (d : List Byte) : Nat := leAt d 5 1 % 32
def dcBuckets (d : List Byte) : Nat := leAt d 8 4
def dcPool (d : List Byte) : Nat := leAt d 12 4
def dcPoolLen (d : List Byte) : Nat := leAt d 16 4
def dcByteBase (d : List Byte) : Nat := leAt d 20 3
def dcUnk (d : List Byte) : Nat := leAt d 24 3
def dcBos (d : List Byte) : Nat := leAt d 28 3
def dcEos (d : List Byte) : Nat := leAt d 32 3
def dcPad (d : List Byte) : Nat := leAt d 36 3
def dcTotal (d : List Byte) : Nat := leAt d 40 4
def dcCrc (d : List Byte) : Nat := leAt d 60 4
/-- No token. -/
def noToken : Nat := 0xFFFFFF
/-- Bucket `i`: token, length, string. -/
def dcBucket (d : List Byte) (i : Nat) : Nat × Nat × List Byte :=
  let o := dcBuckets d + 8 * i
  let n := leAt d (o + 3) 1 % 128
  (leAt d o 3, n, (d.drop (dcPool d + leAt d (o + 4) 4)).take n)

def dictCrcOk (d : List Byte) : Bool := crc32c (d.take 60 ++ d.drop 64) = dcCrc d
/-- The invalid-field tests of R426. -/
def dictOk (d : List Byte) : Bool :=
  1 ≤ dcEntries d && dcEntries d ≤ 1048576 && 1 ≤ dcMaxLen d && dcMaxLen d ≤ 64 && 10 ≤ dcLog d && dcLog d ≤ 23
    && leAt d 5 1 < 32 && leAt d 6 2 = 0 && leAt d 44 16 = 0
    && leAt d 23 1 = 0 && leAt d 27 1 = 0 && leAt d 31 1 = 0 && leAt d 35 1 = 0 && leAt d 39 1 = 0
    && dcUnk d < noToken && dcPad d < noToken
    && dcBuckets d % 64 = 0 && dcPool d % 64 = 0 && dcBuckets d + 8 * 2 ^ dcLog d ≤ dcTotal d
    && dcPool d + dcPoolLen d ≤ dcTotal d
    && (List.range (2 ^ dcLog d)).all fun i =>
      let o := dcBuckets d + 8 * i
      let n := leAt d (o + 3) 1
      n ≤ 64 && (n = 0 || leAt d (o + 4) 4 + n ≤ dcPoolLen d)

/-! ## The tokenizer (R427) -/

/-- What a search finds: a token or prefix marker, a miss, a miss at the 32nd probe. -/
inductive Found where
  | token (t : Nat)
  | miss (limit : Bool)
  deriving DecidableEq, Repr

/-- Probe buckets from `i` on; `n` probes are left. -/
def probe (d key : List Byte) : Nat → Nat → Found
  | 0, _ => .miss true
  | n + 1, i =>
    let (t, len, str) := dcBucket d (i % 2 ^ dcLog d)
    if len = key.length && str = key then .token t
    else if len = 0 then .miss (n = 0)
    else probe d key n (i + 1)

/-- The longest token at the front of a text: its length and number, and the probe-limit misses met; `k` lengths are
left, `len` is the one under test. -/
def longest (d text : List Byte) : Nat → Nat → Option (Nat × Nat) → Option (Nat × Nat) × Nat
  | 0, _, best => (best, 0)
  | k + 1, len, best =>
    if text.length < len then (best, 0)
    else
      match probe d (text.take len) 32 (crc32c (text.take len) % 2 ^ dcLog d) with
      | .miss lim => (best, if lim then 1 else 0)
      | .token t => longest d text k (len + 1) (if t = noToken then best else some (len, t))

/-- The tokens of a text, and the probe-limit misses; `n` bounds the tokens. -/
def tokens (d : List Byte) : Nat → List Byte → List Nat × Nat
  | 0, _ => ([], 0)
  | _ + 1, [] => ([], 0)
  | n + 1, b :: bs =>
    let text := b :: bs
    let (best, lim) := longest d text (dcMaxLen d) 1 none
    let (t, k) := match best with
      | some (len, t) => (t, len)
      | none => if dcByteBase d ≠ noToken then (dcByteBase d + b.toNat, 1) else (dcUnk d, max 1 (utf8Len b))
    let (ts, more) := tokens d n (text.drop k)
    (t :: ts, lim + more)

/-- TOKENIZE (R427): all tokens of a text, with BOS and EOS. -/
def tokenize (d text : List Byte) : List Nat × Nat :=
  let (ts, lim) := tokens d text.length text
  ((if dcBos d = noToken then [] else [dcBos d]) ++ ts ++ (if dcEos d = noToken then [] else [dcEos d]), lim)

end Sys2Proof.Machine
end

