-- ==== Sys2Proof/Machine/Foyer.lean ====
section
/-! DEFINITION. The Foyer (14_foyer_input.md): FOYER_BATCH, SLOT_RESOLVE, DICT_LOAD, the abort of a batch. A batch keeps
its manifest's first 128 bytes in `rec1` and its slot entries, device bytes included, in `rec2`; the frame a clip slot
has reached stands in `buf` by slot; `aux` names clip slots whose stream context was closed. -/

namespace Sys2Proof.Machine

/-! ## The manifest (R418, R419) -/

def mfSlots (b : List Byte) : Nat := leAt b 0 2
def mfGroupLog (b : List Byte) : Nat := leAt b 2 1 % 16
def mfLive (b : List Byte) : Bool := bitOf (leAt b 2 1) 4
def mfOvf (b : List Byte) : Bool := bitOf (leAt b 2 1) 5
def mfSlotBytes (b : List Byte) : Nat := leAt b 4 4
def mfDest (b : List Byte) : Nat := leAt b 8 6
def mfMask (b : List Byte) : Nat := leAt b 0x10 6
def mfRows (b : List Byte) : Nat := leAt b 0x18 4
/-- The picture profile. -/
def mfProfile (b : List Byte) : List Byte := (b.drop 64).take 64
/-- A slot entry. -/
def mfSlot (es : List Byte) (i : Nat) : List Byte := (es.drop (32 * i)).take 32
def slKind (e : List Byte) : Nat := leAt e 0 1 % 8
def slCrcEn (e : List Byte) : Bool := bitOf (leAt e 0 1) 3
def slFrames (e : List Byte) : Nat := leAt e 1 1
def slStream (e : List Byte) : Nat := leAt e 2 2
def slLen (e : List Byte) : Nat := leAt e 4 4
def slSrc (e : List Byte) : Nat := leAt e 8 8
def slW (e : List Byte) : Nat := leAt e 16 2
def slH (e : List Byte) : Nat := leAt e 18 2
def slCrc (e : List Byte) : Nat := leAt e 20 4
def slState (e : List Byte) : Nat := leAt e 24 1 % 4
def slRows (e : List Byte) : Nat := leAt e 28 4

/-- Groups of a batch (R423). -/
def mfGroups (b : List Byte) : Nat := ceilDiv (mfSlots b) (2 ^ mfGroupLog b)
/-- First byte of the row mask, and the bytes of both masks (R419). -/
def mfRowMask (b : List Byte) : Nat := mfMask b + ceilTo (ceilDiv (mfSlots b) 8) 64
def mfMaskBytes (b : List Byte) : Nat :=
  if mfMask b = 0 then 0 else ceilTo (ceilDiv (mfSlots b) 8) 64 + ceilDiv (mfSlots b * mfRows b) 8

/-- The manifest's CRC (R418). -/
def manifestCrcOk (b es : List Byte) : Bool :=
  crc32c (b.take 0x1C ++ mfProfile b ++ (List.range (mfSlots b)).flatMap fun i => (mfSlot es i).take 24) = leAt b 0x1C 4

/-- Fields of a slot entry (check 3 of R420). -/
def slotOk (e : List Byte) : Bool :=
  let clip := slKind e = 2
  slKind e ≤ 2 && leAt e 0 1 < 16 && (if clip then 1 ≤ slFrames e && slStream e ≤ 255 && slLen e = 0 && slSrc e < 2 ^ 32
      else slFrames e = 0 && slStream e = 0 && slSrc e < 2 ^ 48)
    && (slKind e ≠ 0 || (slW e = 0 && slH e = 0)) && leAt e 24 8 = 0

/-- Check 3 of R420. -/
def manifestFieldsOk (s : State) (h : Nat) (b es : List Byte) : Bool :=
  let p := mfProfile b
  1 ≤ mfSlots b && mfSlots b ≤ 16384 && mfGroupLog b ≤ 14 && leAt b 2 1 < 64 && leAt b 3 1 = 0
    && mfSlotBytes b ≠ 0 && mfSlotBytes b % 64 = 0 && mfDest b % 64 = 0 && leAt b 0x0E 2 = 0 && mfMask b % 64 = 0
    && leAt b 0x16 2 = 0 && 1 ≤ mfRows b && mfRows b ≤ 16777216 && leAt b 0x38 8 = 0
    && profileOk p && (!pfRoi p || inWindow s h false (pfRoiAddr p) 192)
    && (List.range (mfSlots b)).all fun i => slotOk (mfSlot es i)

/-- Local-memory sources of a batch. -/
def batchSources (s : State) (b es : List Byte) : List (Nat × Nat) :=
  ((List.range (mfSlots b)).map (mfSlot es)).filterMap fun e =>
    if slKind e ≠ 2 && slLen e ≠ 0 && (regionOfAddr s (slSrc e)).isSome then some (slSrc e, slLen e) else none
/-- Ranges that a batch writes: manifest, destination, masks. -/
def batchWrites (a : Nat) (b : List Byte) : List (Nat × Nat) :=
  [(a, 128 + 32 * mfSlots b), (mfDest b, mfSlots b * mfSlotBytes b)]
    ++ (if mfMask b = 0 then [] else [(mfMask b, mfMaskBytes b)])

/-- The stream context of a clip slot: open, decoding, of the hall (R420). -/
def clipCtxOk (s : State) (h k : Nat) : Bool :=
  match fmFind s.frz.ctxs k with
  | some x => x.st = 1 && x.hall = h && !bitOf (leAt x.bytes 0 1) 0
  | none => false

/-- Checks 3 to 7 of R420: code and check. -/
def batchChecks (s : State) (h a : Nat) (b es : List Byte) : Option (Nat × Nat) :=
  let sl := (List.range (mfSlots b)).map (mfSlot es)
  let ws := batchWrites a b
  let srcs := batchSources s b es
  firstFail
    [(3, 0x10, manifestFieldsOk s h b es),
     (4, 0x10, sl.all fun e => (slKind e ≠ 0 || !(getH s h).dict.isEmpty) && (slKind e ≠ 2 || clipCtxOk s h (slStream e))),
     (5, 0x11, ((ws.drop 1).all fun w => hallReach s h true w.1 w.2) && srcs.all fun x => inWindow s h false x.1 x.2),
     (6, 0x12, sl.all fun e => slKind e ≠ 0 || mfRows b * 4 ≤ mfSlotBytes b),
     (7, 0x12, (List.range ws.length).all fun i =>
        (ws.drop (i + 1)).all (fun y => match ws[i]? with | some x => !overlap x.1 x.2 y.1 y.2 | none => true)
          && srcs.all fun y => match ws[i]? with | some x => !overlap x.1 x.2 y.1 y.2 | none => true)]

/-- FOYER_BATCH (R418, R420, R426): the dispatch; slots resolve one by one. -/
def execFoyerBatch (r : CmdRef) (err : Option ReadErr) (s : State) : Out :=
  guardUnit (r.scope < 8) <|
  dispatch 0x28 r s fun s c =>
    let h := r.scope
    waitWhile ((earlierCmds s h).any fun p => p.2.opcode = 0x29) <|
    if c.o0 % 64 ≠ 0 || !inWindow s h true c.o0 128 then .gone 0x11 1
    else
      readOk s r err false c.o0 128 <|
      let b := memBytes s c.o0 128
      if !inWindow s h true c.o0 (128 + 32 * mfSlots b) then .gone 0x11 1
      else
        readOk s r none false (c.o0 + 128) (32 * mfSlots b) <|
        let es := memBytes s (c.o0 + 128) (32 * mfSlots b)
        need (manifestCrcOk b es) 0x13 2 <|
        match batchChecks s h c.o0 b es with
        | some (code, check) => if code = 0x11 || check = 4 then .gone code check else .stop code check 0
        | none =>
          let srcs := ((List.range (mfSlots b)).map (mfSlot es)).filterMap fun e =>
            if slKind e = 2 || slLen e = 0 then none else some (slSrc e, slLen e)
          reachGate s h srcs (batchWrites c.o0 b) <|
          .go (updJob s r fun j => { j with
            total := mfSlots b, groups := mfGroups b, rec1 := b, rec2 := es, reads := srcs, writes := batchWrites c.o0 b })

/-! ## Resolving a slot (R419, R421, R423, R424, R430) -/

/-- Set or clear one bit of memory. -/
def putBit (s : State) (base i : Nat) (v : Bool) : State :=
  let a := base + i / 8
  memPutNat s a 1 (setBits (memNat s a 1) (i % 8) 1 (if v then 1 else 0))
/-- Row bits of a slot: `rows` rows, those of which `f` holds are 1; nothing without masks. -/
def putRowBits (s : State) (b : List Byte) (slot lo n : Nat) (f : Nat → Bool) : State :=
  if mfMask b = 0 then s
  else (List.range n).foldl (fun s i => putBit s (mfRowMask b) (slot * mfRows b + lo + i) (f (lo + i))) s

/-- Destination of a slot. -/
def slotDest (b : List Byte) (slot : Nat) : Nat := mfDest b + slot * mfSlotBytes b
/-- Bytes that a slot of a batch writes: its destination, its device bytes, the header's counts, its mask bits (R418,
R419). -/
def slotSpans (c : Cmd) (slot : Nat) : List (Nat × Nat) :=
  let b := c.job.rec1
  let row := slot * mfRows b
  [(slotDest b slot, mfSlotBytes b), (c.o0 + 128 + 32 * slot + 24, 8), (c.o0 + 0x20, 0x18)]
    ++ (if mfMask b = 0 then [] else
      [(mfMask b + slot / 8, 1), (mfRowMask b + row / 8, (row + mfRows b - 1) / 8 - row / 8 + 1)])

/-- Slots of a copy of the entries in a state, and their rows. -/
def slotsIn (b es : List Byte) (st : Nat) : List Nat := (List.range (mfSlots b)).filter fun i => slState (mfSlot es i) = st
/-- The header's counts over the resolved slots (R418, R423). -/
def putCounts (s : State) (a : Nat) (b es : List Byte) : State :=
  let v := (slotsIn b es 1).length
  let hs := (slotsIn b es 2).length
  let rows := ((slotsIn b es 1).map fun i => slRows (mfSlot es i)).foldl (· + ·) 0
  let inv := if v = 0 then 0 else div32 (i32f 1) (i32f v)
  memPut s (a + 0x24) (leBytes 4 v ++ leBytes 4 hs ++ leBytes 4 inv ++ leBytes 8 rows)

/-- A slot resolves: sample bit, device bytes, RESOLVED; its group and its batch may end (R421, R423, R425, R436). -/
def resolveSlot (s : State) (r : CmdRef) (c : Cmd) (slot : Nat) (valid trunc : Bool) (cause rows : Nat) : State :=
  let b := c.job.rec1
  let dev := leBytes 1 ((if valid then 1 else 2) + if trunc then 4 else 0) ++ leBytes 1 cause ++ leBytes 2 0 ++ leBytes 4 rows
  let s := if mfMask b = 0 then s else putBit s (mfMask b) slot valid
  let s := memPut s (c.o0 + 128 + 32 * slot + 24) dev
  let es := c.job.rec2.take (32 * slot + 24) ++ dev ++ c.job.rec2.drop (32 * slot + 32)
  let done := insertNat slot c.job.done
  let s := memPutNat s (c.o0 + 0x20) 4 done.length
  let s := spansWrote s (slotSpans c slot)
  let g := slot / 2 ^ mfGroupLog b
  let inGroup := (List.range (mfSlots b)).filter fun i => i / 2 ^ mfGroupLog b = g
  let s := countHall s r.scope (if valid then 0x088 else 0x090) 1
  let s := updJob s r fun j => { j with
    rec2 := es, done := done, buf := fmErase j.buf slot
    groupsDone := if inGroup.all done.contains then g :: j.groupsDone else j.groupsDone }
  if done.length = mfSlots b then
    let s := putCounts s c.o0 b es
    endCmd s r (if (slotsIn b es 1).isEmpty then 3 else 0) 0 (mfSlots b) 0
  else s

/-- A slot becomes a hole (R424). -/
def holeSlot (s : State) (r : CmdRef) (c : Cmd) (slot cause : Nat) : State :=
  let b := c.job.rec1
  let d := slotDest b slot
  let s := memZero s d (mfSlotBytes b)
  let s := if slKind (mfSlot c.job.rec2 slot) = 0 then
      memPut s d ((List.range (mfRows b)).flatMap fun _ => leBytes 4 (dcPad (getH s r.scope).dict))
    else s
  resolveSlot (putRowBits s b slot 0 (mfRows b) fun _ => false) r c slot false false cause 0

/-- Cause 3 for a picture or a clip of `frames` frames (R424). -/
def sizeBad (b e : List Byte) (frames : Nat) : Bool :=
  let n := frames * slW e * slH e
  slW e = 0 || slH e = 0 || mfRows b < n || mfSlotBytes b < n * pfPos (mfProfile b)

/-- Positions of frame `f` of a slot are converted and their row bits written; outside the boxes they hold +0. -/
def putFrame (s : State) (h : Nat) (b e : List Byte) (slot f fmt : Nat) (src : List Byte)
    (boxes : List (Nat × Nat × Nat × Nat)) : State :=
  let p := mfProfile b
  let w := slW e
  let base := f * slH e * w
  let s := (List.range (slH e * w)).foldl (fun s i =>
    let x := i % w
    let y := i / w
    let a := slotDest b slot + (base + i) * pfPos p
    if inBoxes boxes x y then
      let cs := pixChannels p fmt (pixCodes fmt w (slH e) x y src)
      memPut (countCvts s h cs) a (posBytes p cs)
    else memZero s a (pfPos p)) s
  let s := spansWrote s [(slotDest b slot + base * pfPos p, slH e * w * pfPos p)]
  putRowBits s b slot base (slH e * w) fun i => inBoxes boxes ((i - base) % w) ((i - base) / w)
/-- Rows that a frame sets. -/
def frameRows (e : List Byte) (boxes : List (Nat × Nat × Nat × Nat)) : Nat :=
  (List.range (slH e * slW e)).countP fun i => inBoxes boxes (i % slW e) (i / slW e)
/-- Bytes and row bits beyond the last position are zero (R430). -/
def padSlot (s : State) (b : List Byte) (slot n : Nat) : State :=
  let u := n * pfPos (mfProfile b)
  putRowBits (memZero s (slotDest b slot + u) (mfSlotBytes b - u)) b slot n (mfRows b - n) fun _ => false

/-- A text slot (R424, R427, R428): `src` its bytes. -/
def textSlot (s : State) (r : CmdRef) (c : Cmd) (slot : Nat) (src : List Byte) : State :=
  let b := c.job.rec1
  let d := (getH s r.scope).dict
  if !utf8Ok src 0 (0x80, 0xBF) then holeSlot s r c slot 4
  else
    let (ts, lim) := tokenize d src
    let s := countHall (countHall s r.scope 0x098 ts.length) r.scope 0x0A0 lim
    let s := if lim = 0 then s else raiseF s rFoyEvents fFoyEventsProbeLimit
    if mfRows b < ts.length && mfOvf b then holeSlot s r c slot 5
    else
      let n := min (mfRows b) ts.length
      let s := memZero s (slotDest b slot) (mfSlotBytes b)
      let s := memPut s (slotDest b slot) ((List.range (mfRows b)).flatMap fun i => leBytes 4 (if i < n then ts.getD i 0 else dcPad d))
      resolveSlot (putRowBits s b slot 0 (mfRows b) fun i => decide (i < n)) r c slot true (mfRows b < ts.length) 0 n

/-- A picture slot (R424, R430, R431). -/
def pictureSlot (s : State) (r : CmdRef) (c : Cmd) (slot : Nat) (src : List Byte) : State :=
  let b := c.job.rec1
  let e := mfSlot c.job.rec2 slot
  let fmt := pfPix (mfProfile b)
  if 2 * slLen e ≠ slW e * slH e * pixBytes2 fmt || sizeBad b e 1 then holeSlot s r c slot 3
  else
    let n := slW e * slH e
    resolveSlot (padSlot (putFrame s r.scope b e slot 0 fmt src []) b slot n) r c slot true false 0 n

/-! ### Clips (R424, R432, R433, R449) -/

def getStream (s : State) (k : Nat) : Stream := fmGet (fun _ => {}) s.frz.ctxs k
def setStream (s : State) (k : Nat) (v : Stream) : State := { s with frz := { s.frz with ctxs := fmPut s.frz.ctxs k v } }
/-- Frame size of a stream record (R445), and the address of a picture's buffer (R448). -/
def frameSize (rec : List Byte) : Nat :=
  let w := leAt rec 2 2
  let h := leAt rec 4 2
  let k := if leAt rec 1 1 % 16 = 8 then 1 else 2
  ceilTo (w * h * k + 2 * ceilDiv w 2 * ceilDiv h 2 * k) 4096
def bufIndex (rec : List Byte) (p : Nat) : Nat := p % leAt rec 6 1
def bufAddr (rec : List Byte) (p : Nat) : Nat := leAt rec 8 6 + bufIndex rec p * frameSize rec
/-- Bytes of a picture in its buffer. -/
def picBytes (p : Pic) : Nat :=
  let k := if p.depth = 8 then 1 else 2
  p.width * p.height * k + 2 * ceilDiv p.width 2 * ceilDiv p.height 2 * k

/-- Where a clip slot stands: the next frame, whether its region table has been read, the lowest cause met, rows set, the
table in use. -/
structure ClipAt where
  frame : Nat := 0
  read : Bool := false
  cause : Nat := 0
  rows : Nat := 0
  table : List Byte := []
  deriving DecidableEq, Repr
def ClipAt.bytes (x : ClipAt) : List Byte :=
  leBytes 2 x.frame ++ leBytes 1 (if x.read then 1 else 0) ++ leBytes 1 x.cause ++ leBytes 4 x.rows ++ x.table
def clipAt (j : Job) (slot : Nat) : ClipAt :=
  match fmFind j.buf slot with
  | none => {}
  | some b => { frame := leAt b 0 2, read := leAt b 2 1 = 1, cause := leAt b 3 1, rows := leAt b 4 4, table := b.drop 8 }
/-- The lower of two causes; 0 is none. -/
def minCause (a b : Nat) : Nat := if a = 0 then b else if b = 0 then a else min a b

/-- ROI_TABLE_READ (R432): the table read for the slot's next frame, or the last one read for the stream; the Frieze has
it with the frame. A table that cannot be read counts as one that fails its CRC (log 302). -/
def readRoi (s : State) (h : Nat) (b e : List Byte) (x : ClipAt) : State × ClipAt :=
  let k := slStream e
  let a := pfRoiAddr (mfProfile b)
  let t := memBytes s a 192
  let (s, t) :=
    if roiCrcOk t && (goneIn s a 192).isNone then (setStream s k { getStream s k with roiLast := t }, t)
    else
      let s := countHall (raiseF s rFoyEvents fFoyEventsRoiTorn) h 0x0A8 1
      (s, (getStream s k).roiLast)
  let v := getStream s k
  (setStream s k { v with roi := fmPut v.roi ((slSrc e + x.frame) % 2 ^ 32) t }, { x with read := true, table := t })

/-- One frame of a clip slot: none while it waits for the picture's record, or for zeroing (R269, R449). -/
def clipFrame (s : State) (r : CmdRef) (c : Cmd) (slot : Nat) (x : ClipAt) : Option (State × ClipAt) :=
  let b := c.job.rec1
  let e := mfSlot c.job.rec2 slot
  let k := slStream e
  let p := (slSrc e + x.frame) % 2 ^ 32
  let v := getStream s k
  let step (s : State) (x : ClipAt) (cause rows : Nat) : Option (State × ClipAt) :=
    some (s, { x with frame := x.frame + 1, read := false, cause := minCause x.cause cause, rows := x.rows + rows, table := [] })
  if c.job.aux.contains slot then step s x 1 0
  else
    match fmFind v.pics p with
    | none => none
    | some q =>
      if q.st = 3 || q.st = 4 then step s x 6 0
      else if q.st ≠ 0 then step s x 7 0
      else if fmFind v.bufs (bufIndex v.bytes p) ≠ some p then step s x 1 0
      else if unzeroed s (bufAddr v.bytes p) (picBytes q) then none
      else if (goneIn s (bufAddr v.bytes p) (picBytes q)).isSome then step s x 1 0
      else if q.width ≠ slW e || q.height ≠ slH e || sizeBad b e (slFrames e) then step s x 3 0
      else
        let boxes := if pfRoi (mfProfile b) then roiBoxes x.table else []
        let fmt := if q.depth = 8 then 3 else 4
        step (putFrame s r.scope b e slot x.frame fmt (memBytes s (bufAddr v.bytes p) (picBytes q)) boxes) x 0 (frameRows e boxes)

/-- Frames of a clip slot, as far as their pictures are there; `n` bounds them. -/
def clipFrames (r : CmdRef) (c : Cmd) (slot : Nat) : Nat → State → ClipAt → State × ClipAt
  | 0, s, x => (s, x)
  | n + 1, s, x =>
    let e := mfSlot c.job.rec2 slot
    if slFrames e ≤ x.frame then (s, x)
    else
      let steer := pfRoi (mfProfile c.job.rec1) && !x.read && !c.job.aux.contains slot
      if steer && unzeroed s (pfRoiAddr (mfProfile c.job.rec1)) 192 then (s, x)
      else
        let (s, x) := if steer then readRoi s r.scope c.job.rec1 e x else (s, x)
        match clipFrame s r c slot x with
        | none => (s, x)
        | some (s, x) => clipFrames r c slot n s x

/-- A clip slot goes on: it waits, becomes a hole, or is valid (R424, R449). -/
def clipSlot (s : State) (r : CmdRef) (c : Cmd) (slot : Nat) : State :=
  let b := c.job.rec1
  let e := mfSlot c.job.rec2 slot
  let (s, x) := clipFrames r c slot (slFrames e) s (clipAt c.job slot)
  if x.frame < slFrames e then updJob s r fun j => { j with buf := fmPut j.buf slot x.bytes }
  else
    let cause := minCause x.cause (if sizeBad b e (slFrames e) then 3 else 0)
    if cause ≠ 0 then holeSlot s r c slot cause
    else resolveSlot (padSlot s b slot (slFrames e * slW e * slH e)) r c slot true false 0 x.rows

/-! ### The order of taking (R422) -/

/-- Where a pending slot stands in the order of taking: its batch's class, the batch's dispatch, its index. -/
structure Turn where
  live : Bool
  order : Nat
  slot : Nat
  deriving DecidableEq, Repr
/-- One slot is taken before another: live batches first, then the older batch, then the lower index. -/
def Turn.before (x y : Turn) : Bool :=
  if x.live ≠ y.live then x.live else if x.order ≠ y.order then x.order < y.order else x.slot < y.slot
def turnOf (c : Cmd) (slot : Nat) : Turn := { live := mfLive c.job.rec1, order := c.order, slot := slot }
/-- Slots of a batch that are neither taken nor resolved. -/
def pendingSlots (c : Cmd) : List Nat :=
  (List.range c.job.total).filter fun i => !c.job.taken.contains i && !c.job.done.contains i
/-- Dispatched batches of the device that have not completed. -/
def openBatches (s : State) : List (CmdRef × Cmd) :=
  (List.range 8).flatMap fun h => (scopeCmds s h).filter fun p => p.2.opcode = 0x28 && p.2.st = .dispatched
/-- The Foyer engines take slots, in their order, until they have taken the one named. -/
def takeSlots (s : State) (c : Cmd) (slot : Nat) : State :=
  if c.job.taken.contains slot then s
  else
    let me := turnOf c slot
    (openBatches s).foldl (fun s p =>
      let go := (pendingSlots p.2).filter fun i => !me.before (turnOf p.2 i)
      if go.isEmpty then s else updJob s p.1 fun j => { j with taken := j.taken ++ go }) s

/-- A taken slot of text or of a picture goes on with its source (R424): it waits, becomes a hole, or is converted. -/
def sourceSlot (s : State) (r : CmdRef) (c : Cmd) (slot : Nat) (err : Option ReadErr) : State :=
  let e := mfSlot c.job.rec2 slot
  let n := slLen e
  let got : Except Stuck Unit :=
    if n = 0 then .ok ()
    else match err, readable s r.scope (slSrc e) n with
      | some x, .ok _ => .error (some (x, slSrc e))
      | _, g => g
  match got with
  | .error none => s
  | .error (some (x, a)) => holeSlot (noteErr s r.scope x a) r c slot 1
  | .ok _ =>
    let src := memBytes s (slSrc e) n
    if slCrcEn e && crc32c src ≠ slCrc e then holeSlot s r c slot 2
    else if slKind e = 0 then textSlot s r c slot src
    else pictureSlot s r c slot src

/-- SLOT_RESOLVE (R421 to R436): the engines take slots up to this one of a dispatched batch (R422), and it goes on, with
the outcome of its source read. What it writes waits for zeroing; a write that cannot land ends the batch (log 301). -/
def execSlotResolve (r : CmdRef) (slot : Nat) (err : Option ReadErr) (s : State) : Out :=
  guardUnit (r.scope < 8) <|
  match findCmd s r with
  | none => .next s
  | some c =>
    if c.opcode ≠ 0x28 || c.st ≠ .dispatched || c.job.total ≤ slot || c.job.done.contains slot || s.mediaAsleep then .next s
    else
      let s := takeSlots s c slot
      match writesStuck s (slotSpans c slot) with
      | some none => .next s
      | some (some (e, a)) => .next (failCmd s r e a)
      | none => .next (if slKind (mfSlot c.job.rec2 slot) = 2 then clipSlot s r c slot else sourceSlot s r c slot err)

/-- What an abort does to a batch (R434): unresolved slots take STATE 3, the header counts are written. -/
def abortBatch (s : State) (c : Cmd) : State :=
  if c.job.rec1.isEmpty then s
  else
    let left := (List.range c.job.total).filter fun i => !c.job.done.contains i
    let s := left.foldl (fun s i => memPut s (c.o0 + 128 + 32 * i + 24) (leBytes 2 3)) s
    spansWrote (putCounts s c.o0 c.job.rec1 c.job.rec2) [(c.o0, 128 + 32 * c.job.total)]

/-! ## Dictionaries (R426) -/

/-- DICT_LOAD (R426): the image is checked and copied at dispatch; LOADED, VERSION and ENTRIES follow at the
completion. -/
def execDictLoad (r : CmdRef) (err : Option ReadErr) (s : State) : Out :=
  guardUnit (r.scope < 8) <|
  dispatch 0x29 r s fun s c =>
    let h := r.scope
    waitWhile ((earlierCmds s h).any fun p =>
      p.2.opcode = 0x29 || (p.2.opcode = 0x28 && (List.range p.2.job.total).any fun i => slKind (mfSlot p.2.job.rec2 i) = 0)) <|
    let bad := raiseF s rFoyEvents fFoyEventsDictRefused
    let n := dcTotal (memBytes s c.o0 64)
    let lies : Bool := inWindow s h false c.o0 64 && (n < 64 || 0x4000000 < n || inWindow s h false c.o0 n)
    if c.gen ≠ getF s (rXfmGen h) fXfmGenGeneration && !lies then .stop 0x17 0 0
    else if !inWindow s h false c.o0 64 || n < 64 || 0x4000000 < n || !inWindow s h false c.o0 n then
      .stopIn bad (if inWindow s h false c.o0 64 && (n < 64 || 0x4000000 < n) then 0x10 else 0x11) 0 0
    else if unzeroed s c.o0 n then .wait
    else
      match (match goneIn s c.o0 n with | some g => some g | none => err.map fun e => (e, c.o0)) with
      | some (e, a) => .stopIn (noteErr bad h e a) (errCode e) 0 0
      | none =>
        let d := memBytes s c.o0 n
        if !dictCrcOk d then .stopIn bad 0x13 0 0
        else if !dictOk d then .stopIn bad 0x10 0 0
        else
          let s := setH s h { getH s h with dict := d }
          .go (succeed (setF s (rFoyHallDict h) fFoyHallDictLoading 1) r 0 0)

/-- The end of a DICT_LOAD at its completion (R426). -/
def dictLoaded (s : State) (h : Nat) : State :=
  let g := rFoyHallDict h
  let s := setF (setF s g fFoyHallDictLoading 0) g fFoyHallDictLoaded 1
  setF (bumpF s g fFoyHallDictVersion 1) g fFoyHallDictEntries (dcEntries (getH s h).dict)

end Sys2Proof.Machine
end

