-- ==== Sys2Proof/Machine/Frieze.lean ====
section
/-! DEFINITION. The Frieze (15_frieze_video.md): stream contexts, pipes, decoded and encoded pictures, picture and slice
records, the buffer model, the abort of its commands. What the coding standards make of a bitstream is an argument of
the commands (log 68). -/

namespace Sys2Proof.Machine

/-! ## Stream records (R444) -/

def srFlag (b : List Byte) (i : Nat) : Bool := bitOf (leAt b 0 1) i
def srEnc (b : List Byte) : Bool := srFlag b 0
def srAv1 (b : List Byte) : Bool := srFlag b 1
def srLive (b : List Byte) : Bool := srFlag b 2
def srRoiWait (b : List Byte) : Bool := srFlag b 3
def srSub (b : List Byte) : Bool := srFlag b 4
def srRc (b : List Byte) : Nat := bitsOf (leAt b 0 1) 6 2
def srDepth (b : List Byte) : Nat := leAt b 1 1 % 16
def srW (b : List Byte) : Nat := leAt b 2 2
def srH (b : List Byte) : Nat := leAt b 4 2
def srFrames (b : List Byte) : Nat := leAt b 6 1
def srLevel (b : List Byte) : Nat := leAt b 7 1
def srRing (b : List Byte) : Nat := leAt b 8 6
def srRate (b : List Byte) : Nat := leAt b 0x10 4
def srOutLen (b : List Byte) : Nat := leAt b 0x14 4
def srWork (b : List Byte) : Nat := leAt b 0x18 6
def srWorkLen (b : List Byte) : Nat := leAt b 0x20 5
def srRec (b : List Byte) : Nat := leAt b 0x28 6
def srRecs (b : List Byte) : Nat := leAt b 0x2E 2
def srBitrate (b : List Byte) : Nat := leAt b 0x30 4
def srBuf (b : List Byte) : Nat := leAt b 0x34 4
def srDelay (b : List Byte) : Nat := leAt b 0x38 4
def srNum (b : List Byte) : Nat := leAt b 0x3C 2
def srDen (b : List Byte) : Nat := leAt b 0x3E 2
def srGop (b : List Byte) : Nat := leAt b 0x44 2
def srSliceRows (b : List Byte) : Nat := leAt b 0x46 1

/-- Levels that an encoder takes, × 10 (R438). -/
def encLevels (av1 : Bool) : List Nat :=
  if av1 then [20, 21, 22, 23, 30, 31, 32, 33, 40, 41, 42, 43, 50, 51] else [10, 20, 21, 30, 31, 40, 41, 50, 51]

/-- Fields of a stream record lie in their ranges and match DIR and CODEC (check 2 of R445). -/
def streamFieldsOk (b : List Byte) : Bool :=
  let enc := srEnc b
  (srDepth b = 8 || srDepth b = 10) && leAt b 1 1 < 16 && 16 ≤ srW b && srW b ≤ 8192 && 16 ≤ srH b && srH b ≤ 4352
    && 2 ≤ srFrames b && srFrames b ≤ 64 && srRing b % 4096 = 0 && leAt b 0x0E 2 = 0 && srOutLen b % 4096 = 0
    && srWork b % 4096 = 0 && leAt b 0x1E 2 = 0 && leAt b 0x25 3 = 0 && srRec b % 64 = 0 && 16 ≤ srRecs b
    && (srLive b || srRate b = 0) && leAt b 0x43 1 < 4 && leAt b 0x47 53 = 0
    && (if enc then
        !srRoiWait b && !srFlag b 5 && srRc b ≤ 2 && (encLevels (srAv1 b)).contains (srLevel b) && srOutLen b ≠ 0
          && srNum b ≠ 0 && srDen b ≠ 0 && 1 ≤ srGop b && 1 ≤ srSliceRows b && srSliceRows b ≤ 68
          && leAt b 0x40 1 ≤ leAt b 0x41 1 && (srAv1 b || (leAt b 0x41 1 ≤ 51 && leAt b 0x42 1 ≤ 51))
      else !srSub b && (srAv1 b || !srFlag b 5) && srRc b = 0 && srLevel b = 0 && srOutLen b = 0)

/-- Work size (R445). -/
def workSize (b : List Byte) : Nat := ((if srEnc b then 4 else if srAv1 b then 8 else 16) + 1) * frameSize b + 0x400000
/-- Areas that a context uses: ring, work area, record ring. -/
def streamAreas (b : List Byte) : List (Nat × Nat) :=
  [(srRing b, if srEnc b then srOutLen b else srFrames b * frameSize b), (srWork b, srWorkLen b), (srRec b, 32 * srRecs b)]

/-- Coding rows and units per row of a picture (R440). -/
def codeRows (h : Nat) : Nat := ceilDiv h 64
def codeUnits (w : Nat) : Nat := ceilDiv w 64
/-- Floor cost of one row, in bits (R458). -/
def rowFloor (w : Nat) (intra : Bool) : Nat := codeUnits w * (if intra then 160 else 16) + 32
/-- R459. -/
def floorOk (b : List Byte) : Bool :=
  srRc b = 0 || (2 * (codeRows (srH b) * rowFloor (srW b) true) ≤ srBuf b
    && codeRows (srH b) * rowFloor (srW b) false * srNum b ≤ srBitrate b * srDen b)

/-- Sum of the rates of open live contexts of a direction (R442). -/
def liveRate (s : State) (enc : Bool) : Nat :=
  (s.frz.ctxs.map fun p => if p.2.st ≠ 0 && srLive p.2.bytes && srEnc p.2.bytes = enc then srRate p.2.bytes else 0).foldl (· + ·) 0
/-- One pipe's rate, in luma samples per second (R441). -/
def pipeRate : Nat := 995328000
/-- R442. -/
def rateOk (s : State) (b : List Byte) : Bool :=
  !srLive b || (srRate b ≤ pipeRate && liveRate s (srEnc b) + srRate b ≤ (if srEnc b then 2 else 8) * pipeRate)

/-- The areas of check 3 of R445. -/
def streamPlaceOk (s : State) (h : Nat) (b : List Byte) : Bool :=
  let as := streamAreas b
  let others := s.frz.ctxs.flatMap fun p => if p.2.st = 0 then [] else streamAreas p.2.bytes
  (as.all fun a => inWindow s h true a.1 a.2) && inWindowM s h (srWork b) (srWorkLen b)
    && ((List.range as.length).all fun i => (as.drop (i + 1) ++ others).all fun y =>
      match as[i]? with | some x => !overlap x.1 x.2 y.1 y.2 | none => true)

/-- STREAM_OPEN (R442, R444, R445, R459). -/
def execStreamOpen (r : CmdRef) (err : Option ReadErr) (s : State) : Out :=
  guardUnit (r.scope < 8) <|
  dispatch 0x2A r s fun s c =>
    let h := r.scope
    let k := bitsOf c.o0 0 8
    if c.o1 % 128 ≠ 0 || !inWindow s h false c.o1 128 then .gone 0x11 1
    else
      readOk s r err false c.o1 128 <|
      let b := memBytes s c.o1 128
      need (crc32c (b.take 0x7C) = leAt b 0x7C 4) 0x13 1 <|
      need ((getStream s k).st = 0 && streamFieldsOk b) 0x10 2 <|
      if !streamPlaceOk s h b then .gone 0x11 3
      else
        need (workSize b ≤ srWorkLen b) 0x12 4 <|
        need (rateOk s b) 0x12 5 <|
        need (!srEnc b || (Config.levelAdmits (if srAv1 b then 1 else 0) (srLevel b) (srW b) (srH b) (srNum b) (srDen b)
          && floorOk b)) 0x12 6 <|
        let init := min (srBuf b * (90000 * srNum b)) (srBitrate b * srDelay b * srNum b)
        .go (succeed (setStream s k { st := 1, hall := h, bytes := b, level := init }) r 0 0)

/-! ## Contexts -/

/-- Dispatched commands of a context that have not completed. -/
def ctxBusy (s : State) (k : Nat) : Bool :=
  (List.range 8).any fun h => (activeCmds s h).any fun p =>
    (p.2.opcode = 0x2C || p.2.opcode = 0x2D) && bitsOf p.2.o0 0 8 = k

/-- The context is freed: batches with clip slots on it learn that it was closed (R445, R449). -/
def freeStream (s : State) (k : Nat) : State :=
  let s := (List.range 8).foldl (fun s h => (scopeCmds s h).foldl (fun s p =>
    if p.2.opcode = 0x28 && p.2.st = .dispatched then
      let hit := (List.range p.2.job.total).filter fun i =>
        let e := mfSlot p.2.job.rec2 i
        slKind e = 2 && slStream e = k && !p.2.job.done.contains i
      updJob s p.1 fun j => { j with aux := j.aux ++ hit }
    else s) s) s
  { s with frz := { s.frz with ctxs := fmErase s.frz.ctxs k } }

/-- A closing context whose commands have completed is freed, and its STREAM_CLOSE succeeds (R445). -/
def closeSettle (s : State) (k : Nat) : State :=
  if (getStream s k).st ≠ 2 || ctxBusy s k then s
  else
    let h := (getStream s k).hall
    (scopeCmds s h).foldl (fun s p =>
      if p.2.opcode = 0x2B && p.2.st = .dispatched && bitsOf p.2.o0 0 8 = k then succeed s p.1 0 0 else s) (freeStream s k)

/-- The context is open, of the hall and of the direction. -/
def ctxIs (s : State) (h k : Nat) (enc : Bool) : Bool :=
  (getStream s k).st = 1 && (getStream s k).hall = h && srEnc (getStream s k).bytes = enc

/-- STREAM_CLOSE (R445). -/
def execStreamClose (r : CmdRef) (s : State) : Out :=
  guardUnit (r.scope < 8) <|
  dispatch 0x2B r s fun s c =>
    let k := bitsOf c.o0 0 8
    let v := getStream s k
    need (v.st = 1 && v.hall = r.scope) 0x10 0 <|
    .go (closeSettle (setStream s k { v with st := 2 }) k)

/-- FRZ_RELEASE (R448). -/
def execFrzRelease (r : CmdRef) (s : State) : Out :=
  guardUnit (r.scope < 8) <|
  dispatch 0x2E r s fun s c =>
    let k := bitsOf c.o0 0 8
    need (ctxIs s r.scope k false) 0x10 0 <|
    .go (succeed (setStream s k { getStream s k with releaseBelow := bitsOf c.o0 32 32 }) r 0 0)

/-- STREAM_DATA (R250, R446, R447): `pics` are the numbers of the pictures whose last byte the chunk carries, in decoding
order; those with a record already are not taken again (R461). -/
def execStreamData (r : CmdRef) (pics : List Nat) (err : Option ReadErr) (s : State) : Out :=
  guardUnit (r.scope < 8) <|
  dispatch 0x2C r s fun s c =>
    let h := r.scope
    let k := bitsOf c.o0 0 8
    let n := bitsOf c.o2 0 27
    need (ctxIs s h k false && 1 ≤ n && n ≤ 0x4000000) 0x10 0 <|
    if !inWindow s h false c.o1 n then .gone 0x11 0
    else
      readOk s r err false c.o1 n <|
      need (crc32c (memBytes s c.o1 n) = bitsOf c.o3 0 32) 0x13 0 <|
      let v := getStream s k
      let new := (pics.map (· % 2 ^ 32)).filter fun p => (fmFind v.pics p).isNone && !(v.todo.any fun t => t.2.1 = p)
      let s := setStream s k { v with todo := v.todo ++ new.map fun p => (r, p, s.clock) }
      let s := updJob s r fun j => { j with total := new.length, reads := [(c.o1, n)] }
      .go (if new.isEmpty then succeed s r 0 0 else s)

/-- Bytes of a source frame (R448). -/
def sourceBytes (b : List Byte) (w h : Nat) : Nat :=
  picBytes { width := w, height := h, depth := srDepth b }

/-- The encode region table passes its CRC (R456). -/
def encRoiCrc (t : List Byte) : Bool := crc32c (t.take 4 ++ (t.drop 8).take 72) = leAt t 4 4
/-- The fields of such a table lie in their ranges (R4, R456). -/
def encRoiOk (t : List Byte) : Bool :=
  leAt t 0 1 ≤ 8 && leAt t 1 3 = 0 && leAt t 80 112 = 0
    && (List.range 8).all fun i => leAt t (72 + i) 1 ≤ 51 || 205 ≤ leAt t (72 + i) 1

/-- ENCODE_PICTURE (R4, R250, R455, R456): the picture waits for a pipe. A region table that fails its CRC is counted and
ignored; one with a field out of range is refused. -/
def execEncodePicture (r : CmdRef) (err : Option ReadErr) (s : State) : Out :=
  guardUnit (r.scope < 8) <|
  dispatch 0x2D r s fun s c =>
    let h := r.scope
    let k := bitsOf c.o0 0 8
    let w := bitsOf c.o2 0 16
    let ht := bitsOf c.o2 16 16
    let v := getStream s k
    need (ctxIs s h k true && 1 ≤ w && w ≤ srW v.bytes && 1 ≤ ht && ht ≤ srH v.bytes) 0x10 0 <|
    let n := sourceBytes v.bytes w ht
    if !inWindow s h false c.o1 n || !(c.o3 = 0 || inWindow s h false c.o3 192) then .gone 0x11 0
    else
      readOk s r none false c.o3 (if c.o3 = 0 then 0 else 192) <|
      readOk s r err false c.o1 n <|
      let t := memBytes s c.o3 192
      let torn := c.o3 ≠ 0 && !encRoiCrc t
      need (c.o3 = 0 || torn || encRoiOk t) 0x10 0 <|
      let s := if torn then countHall s h 0x0D0 1 else s
      let s := setStream s k { v with todo := v.todo ++ [(r, v.nextIn, s.clock)], nextIn := (v.nextIn + 1) % 2 ^ 32 }
      .go (updJob s r fun j => { j with total := 1, reads := [(c.o1, n)] })

/-! ## Pipes (R441, R443) -/

/-- A buffer may be written for picture `p`: bulk contexts wait for its release (R448). -/
def unreleased (v : Stream) (p : Nat) : Bool :=
  match fmFind v.bufs (bufIndex v.bytes p) with
  | some q => q ≠ p && bitsOf (q + 2 ^ 32 - v.releaseBelow) 0 32 < 2 ^ 31
  | none => false
/-- A decode may start: its regions of interest have come where it waits for them, its buffer may be written (R448,
R454). -/
def decodeReady (v : Stream) (p : Nat) : Bool :=
  (!srRoiWait v.bytes || v.roi.any fun t => bitsOf (t.1 + 2 ^ 32 - p) 0 32 < 2 ^ 31) && (srLive v.bytes || !unreleased v p)

/-- A context holds a pipe. -/
def holdsPipe (s : State) (k : Nat) : Bool := s.frz.pipes.any fun p => p.2.ctx = k
/-- Pictures that a pipe of a direction may take: context, stream, entry. -/
def pipeChoices (s : State) (enc : Bool) : List (Nat × Stream × CmdRef × Nat × Nat) :=
  s.frz.ctxs.filterMap fun p =>
    match p.2.todo with
    | t :: _ =>
      if srEnc p.2.bytes = enc && p.2.st ≠ 0 && !holdsPipe s p.1 && (enc || decodeReady p.2 t.2.1) then some (p.1, p.2, t) else none
    | [] => none
/-- The one taken: live before bulk, then the earliest arrival, then the lowest context (R443). -/
def pipePick (l : List (Nat × Stream × CmdRef × Nat × Nat)) : Option (Nat × Stream × CmdRef × Nat × Nat) :=
  l.foldl (fun o x =>
    match o with
    | none => some x
    | some y =>
      let rank (z : Nat × Stream × CmdRef × Nat × Nat) : Nat := (if srLive z.2.1.bytes then 0 else 1)
      if rank x < rank y || (rank x = rank y && x.2.2.2.2 < y.2.2.2.2) then some x else some y) none

/-- PIPE_PICTURE_START (R441, R443, R454, R455): a free pipe takes the next picture. -/
def execPipePictureStart (pipe : Nat) (s : State) : Out :=
  guardUnit (pipe < 10) <|
  let enc := 8 ≤ pipe
  if (fmFind s.frz.pipes pipe).isSome || s.mediaAsleep then .next s
  else
    match pipePick (pipeChoices s enc) with
    | none => .next s
    | some (k, v, r, p, _) =>
      let force := match findCmd s r with | some c => bitOf c.o0 8 | none => false
      let rap := enc && (v.forceRap || force || srGop v.bytes ≤ v.sinceRap)
      let s := setStream s k { v with
        todo := v.todo.drop 1, sinceRap := if rap then 1 else v.sinceRap + 1, forceRap := v.forceRap && !rap }
      .next { s with frz := { s.frz with
        pipes := fmPut s.frz.pipes pipe { ctx := k, cmd := r, pic := p, rap := rap, start := v.outWrite } } }

/-! ## Records (R450) -/

/-- The bytes of a picture record. -/
def recBytes (pic st : Nat) (grain partial' reduced rap : Bool) (depth floorRows qp w h bits missing cycles out : Nat) : List Byte :=
  let b (v : Bool) (i : Nat) : Nat := if v then 2 ^ i else 0
  leBytes 4 pic ++ leBytes 1 (st + b grain 3 + b partial' 4 + b reduced 5 + b rap 6) ++ leBytes 1 depth ++ leBytes 1 floorRows
    ++ leBytes 1 qp ++ leBytes 2 w ++ leBytes 2 h ++ leBytes 4 bits ++ leBytes 4 missing ++ leBytes 4 cycles ++ leBytes 4 out
    ++ zeros 4
/-- Write the next record of a context. -/
def putRec (s : State) (k : Nat) (bs : List Byte) : State :=
  let v := getStream s k
  let s := store s (srRec v.bytes + 32 * (v.nextRec % srRecs v.bytes)) bs
  setStream s k { v with nextRec := (v.nextRec + 1) % 2 ^ 32 }
/-- Where the next record of a context goes. -/
def recSpan (v : Stream) : Nat × Nat := (srRec v.bytes + 32 * (v.nextRec % srRecs v.bytes), 32)
/-- A pipe lets go of its picture. -/
def freePipe (s : State) (pipe : Nat) : State := { s with frz := { s.frz with pipes := fmErase s.frz.pipes pipe } }
/-- A picture of a command has its record; the command succeeds with its last (R446). -/
def picRecorded (s : State) (r : CmdRef) (p : Nat) : State :=
  let s := updJob s r fun j => { j with done := j.done ++ [p] }
  match findCmd s r with
  | some c => if c.st = .dispatched && c.job.total ≤ c.job.done.length then succeed s r 0 0 else s
  | none => s

/-- Pictures of a command leave the pipes and the queue of their context. -/
def dropPictures (s : State) (r : CmdRef) (k : Nat) : State :=
  let v := getStream s k
  let s := setStream s k { v with todo := v.todo.filter fun t => t.1 ≠ r }
  { s with frz := { s.frz with pipes := s.frz.pipes.filter fun p => p.2.cmd ≠ r } }

/-- Run a pipe's writes once nothing stops them: they wait for zeroing; one that cannot land ends the command, whose
pictures are given up as an abort gives them up (R286, R292; log 303). -/
def pipeWrites (s : State) (x : Pipe) (spans : List (Nat × Nat)) (go : State) : State :=
  match writesStuck s spans with
  | none => go
  | some none => s
  | some (some (e, a)) =>
    let s := dropPictures (failCmd s x.cmd e a) x.cmd x.ctx
    let v := getStream s x.ctx
    setStream s x.ctx (if srEnc v.bytes then { v with forceRap := true } else { v with wait := true })

/-! ## Decoding (R447 to R454) -/

/-- STATE and MISSING_REF of a decoded picture (R451 to R453). -/
def decodeState (v : Stream) (p : DecPic) : Nat × Nat :=
  let none32 := 0xFFFFFFFF
  let miss := match p.missing with | some n :: _ => n % 2 ^ 32 | _ => none32
  if v.wait && !p.rap then (match p.dependsOn with | some n => (2, n % 2 ^ 32) | none => (1, miss))
  else if p.raslOf.isSome && p.raslOf = v.endRap then (2, p.dependsOn.getD none32)
  else if p.bad || srW v.bytes < p.width || srH v.bytes < p.height || srDepth v.bytes < p.depth then (3, 0)
  else if !p.missing.isEmpty then (1, miss)
  else
    match p.dependsOn with
    | some n => (2, n % 2 ^ 32)
    | none => (0, 0)

/-- Write a produced picture to its buffer: whole, or inside the boxes with every other sample undefined, hence a free
value (R448, R454). -/
def putPicture (s : State) (a : Nat) (p : DecPic) (boxes : List (Nat × Nat × Nat × Nat)) : State :=
  let q : Pic := { width := p.width, height := p.height, depth := p.depth }
  let n := picBytes q
  let k := if p.depth = 8 then 1 else 2
  let bs := p.samples.take n ++ zeros (n - p.samples.length)
  if boxes.isEmpty then store s a bs
  else
    let luma := p.width * p.height * k
    let row := ceilDiv p.width 2 * 2 * k
    let inside (i : Nat) : Bool :=
      if i < luma then inBoxes boxes (i / k % p.width) (i / k / p.width)
      else
        let x := (i - luma) % row / (2 * k)
        let y := (i - luma) / row
        [(2 * x, 2 * y), (2 * x + 1, 2 * y), (2 * x, 2 * y + 1), (2 * x + 1, 2 * y + 1)].any fun z => inBoxes boxes z.1 z.2
    let f := s.freeCtr
    let out := bs.zipIdx.map fun x => if inside x.2 then x.1 else BitVec.ofNat 8 (Config.freeWord (f + x.2)).toNat
    store { s with freeCtr := f + n } a out

/-- DECODE_PICTURE_DONE (R438, R439, R447 to R454, R462). -/
def execDecodePictureDone (pipe : Nat) (p : DecPic) (s : State) : Out :=
  guardUnit (pipe < 8) <|
  match fmFind s.frz.pipes pipe with
  | none => .next s
  | some x =>
    let v := getStream s x.ctx
    let h := v.hall
    let (st, ref) := decodeState v p
    if st = 0 && !srLive v.bytes && unreleased v x.pic then .next s
    else
      let frame := (bufAddr v.bytes x.pic, if st = 0 then picBytes { width := p.width, height := p.height, depth := p.depth } else 0)
      .next <| pipeWrites s x [frame, recSpan v] <|
      let lap := st = 0 && unreleased v x.pic
      let s := if lap then countHall (raiseF s rFrzEvents fFrzEventsOverwrite) h 0x0C0 1 else s
      let named := if st = 2 then 0 else p.missing.length
      let s := if named = 0 then s else countHall (raiseF s rFrzEvents fFrzEventsMissingRef) h 0x0B0 named
      let s := if st = 3 then countHall (raiseF s rFrzEvents fFrzEventsDecodeError) h 0x0B8 1 else s
      let table := (fmFind v.roi x.pic).getD []
      let boxes := if srRoiWait v.bytes then (roiBoxes table).map fun b => (b.1, b.2.1, min b.2.2.1 p.width, min b.2.2.2 p.height) else []
      let s := if st = 0 then putPicture s (bufAddr v.bytes x.pic) p boxes else s
      let v := { v with
        wait := if st = 0 then v.wait && !p.rap else v.wait || st = 1 || st = 3
        endRap := if st = 0 && v.wait && p.rap then some x.pic else v.endRap
        missing := satAdd 16 v.missing named
        bufs := if st = 0 then fmPut v.bufs (bufIndex v.bytes x.pic) x.pic else v.bufs
        pics := fmPut v.pics x.pic { st := st, width := p.width, height := p.height, depth := p.depth }
        roi := fmErase v.roi x.pic }
      let s := putRec (setStream s x.ctx v) x.ctx
        (recBytes x.pic st p.grain (st = 0 && !boxes.isEmpty) false p.rap p.depth 0 0 p.width p.height p.bits ref p.cycles 0)
      picRecorded (freePipe s pipe) x.cmd x.pic

/-! ## Encoding (R455 to R460) -/

/-- Bytes free in the output ring: none at or beyond OUT_READ, counting round the ring; one byte always stays free. -/
def outRoom (v : Stream) : Nat := (v.outRead % srOutLen v.bytes + 2 * srOutLen v.bytes - v.outWrite - 1) % srOutLen v.bytes
/-- Where the next `n` bytes of the output ring go. -/
def outSpans (v : Stream) (n : Nat) : List (Nat × Nat) :=
  let first := min n (srOutLen v.bytes - v.outWrite)
  [(srRing v.bytes + v.outWrite, first), (srRing v.bytes, n - first)]
/-- Append bytes to the output ring. -/
def putOut (s : State) (k : Nat) (bs : List Byte) : State :=
  let v := getStream s k
  let n := srOutLen v.bytes
  let first := bs.take (n - v.outWrite)
  let s := store s (srRing v.bytes + v.outWrite) first
  let s := if first.length < bs.length then store s (srRing v.bytes) (bs.drop first.length) else s
  setStream s k { getStream s k with outWrite := (v.outWrite + bs.length) % n }
/-- A slice record (R457). -/
def sliceRec (n pic row : Nat) (last : Bool) (bs : List Byte) : List Byte :=
  leBytes 4 n ++ leBytes 4 pic ++ leBytes 2 row ++ leBytes 1 (if last then 1 else 0) ++ zeros 1 ++ leBytes 4 (crc32c bs)
/-- The ring lacks room: the encoder waits (R457). -/
def outFull (s : State) : State := raiseF s rFrzEvents fFrzEventsOutFull

/-- Width and height of the picture that a pipe encodes. -/
def encSize (s : State) (x : Pipe) : Nat × Nat :=
  match findCmd s x.cmd with
  | some c => (bitsOf c.o2 0 16, bitsOf c.o2 16 16)
  | none => (0, 0)
/-- The bits that rows up to `upto` may have taken (R458): A less the floor of the rows that remain. -/
def allowance (v : Stream) (w h : Nat) (rap : Bool) (upto : Nat) : Nat :=
  v.level / (90000 * srNum v.bytes) - rowFloor w rap * (codeRows h - upto)

/-- ENCODE_SLICE_DONE (R440, R456 to R458): a slice of SLICE_ROWS rows has been coded within its allowance. -/
def execEncodeSliceDone (pipe : Nat) (bytes : List Byte) (s : State) : Out :=
  guardUnit (8 ≤ pipe && pipe < 10) <|
  match fmFind s.frz.pipes pipe with
  | none => .next s
  | some x =>
    let v := getStream s x.ctx
    let (w, h) := encSize s x
    let rows := min (x.rows + srSliceRows v.bytes) (codeRows h)
    let bits := x.bits + 8 * bytes.length
    if codeRows h ≤ x.rows || (srRc v.bytes ≠ 0 && allowance v w h x.rap rows < bits) then .next s
    else
      let x' := { x with rows := rows, bits := bits }
      let put (x : Pipe) (s : State) : State := { s with frz := { s.frz with pipes := fmPut s.frz.pipes pipe x } }
      if !srSub v.bytes then .next (put { x' with data := x.data ++ bytes } s)
      else if outRoom v < bytes.length + 16 then .next (outFull s)
      else
        .next <| pipeWrites s x (outSpans v (bytes.length + 16)) <|
        put x' (putOut s x.ctx (bytes ++ sliceRec bytes.length x.pic x.rows (rows = codeRows h) bytes))

/-- Level of the buffer model once a picture of `bits` has been removed and the next interval has filled it, before it
is held at the buffer's size; times 90,000 · FPS_NUM (R458). -/
def levelAfter (v : Stream) (bits : Nat) : Nat := v.level - bits * (90000 * srNum v.bytes) + srBitrate v.bytes * srDen v.bytes * 90000
/-- Bits by which the buffer would overflow (R458). -/
def shortfall (v : Stream) (bits : Nat) : Nat :=
  if srRc v.bytes = 1 then (levelAfter v bits - srBuf v.bytes * (90000 * srNum v.bytes)) / (90000 * srNum v.bytes) else 0
/-- The model after a picture (R458): CBR takes filler for what would overflow, VBR stops filling. -/
def spendBits (v : Stream) (bits : Nat) : Stream :=
  if srRc v.bytes = 0 then v else { v with level := min (levelAfter v bits) (srBuf v.bytes * (90000 * srNum v.bytes)) }

/-- ENCODE_PICTURE_DONE (R440, R450, R457, R458): every row is coded; the picture's record; the filler data of exactly
the shortfall. -/
def execEncodePictureDone (pipe floorRows qpAvg cycles : Nat) (filler : List Byte) (s : State) : Out :=
  guardUnit (8 ≤ pipe && pipe < 10) <|
  match fmFind s.frz.pipes pipe with
  | none => .next s
  | some x =>
    let v := getStream s x.ctx
    let (w, h) := encSize s x
    let out := (if srSub v.bytes then [] else x.data ++ sliceRec x.data.length x.pic 0 true x.data) ++ filler
    if x.rows < codeRows h || filler.length ≠ ceilDiv (shortfall v x.bits) 8 || codeRows h < floorRows then .next s
    else if outRoom v < out.length then .next (outFull s)
    else
      .next <| pipeWrites s x (recSpan v :: outSpans v out.length) <|
      let red := 0 < floorRows
      let s := if red then countHall (raiseF s rFrzEvents fFrzEventsReduced) v.hall 0x0C8 1 else s
      let s := putOut s x.ctx out
      let s := setStream s x.ctx (spendBits (getStream s x.ctx) x.bits)
      let s := putRec s x.ctx
        (recBytes x.pic 0 false false red x.rap (srDepth v.bytes) floorRows qpAvg w h x.bits 0 cycles x.start)
      picRecorded (freePipe s pipe) x.cmd x.pic

/-- OUT_READ_WRITE (R457): FRZ_CTX_OUT.OUT_READ of the selected context. -/
def execOutReadWrite (v : Word) (s : State) : Out :=
  whileServed s <|
  let k := getF s rFrzCtxSel fFrzCtxSelCtx
  .next (if (getStream s k).st = 0 then s else setStream s k { getStream s k with outRead := v.toNat })

/-! ## Abort (R460) -/

/-- An aborted STREAM_DATA (R460). -/
def abortData (s : State) (r : CmdRef) (c : Cmd) : State :=
  let k := bitsOf c.o0 0 8
  if (getStream s k).st = 0 then s
  else
    let s := dropPictures s r k
    setStream s k { getStream s k with wait := true }

/-- An aborted ENCODE_PICTURE (R460): STATE 4 is recorded, its bits are spent, the next picture is a random-access
point. -/
def abortEncode (s : State) (r : CmdRef) (c : Cmd) : State :=
  let k := bitsOf c.o0 0 8
  let v := getStream s k
  if v.st = 0 then s
  else
    let x := (s.frz.pipes.find? fun p => p.2.cmd = r).map (·.2)
    let n := match x with | some x => some x.pic | none => (v.todo.find? fun t => t.1 = r).map fun t => t.2.1
    let (bits, start, rap) := match x with | some x => (x.bits, x.start, x.rap) | none => (0, v.outWrite, false)
    match n with
    | none => s
    | some n =>
      let s := dropPictures s r k
      let v := getStream s k
      let s := setStream s k { (if x.isSome then spendBits v bits else v) with forceRap := true }
      putRec s k (recBytes n 4 false false false rap (srDepth v.bytes) 0 0 (bitsOf c.o2 0 16) (bitsOf c.o2 16 16) bits 0 0 start)

end Sys2Proof.Machine
end

