-- ==== Sys2Proof/Machine/Queue.lean ====
section
/-! DEFINITION. The command interface (16_command_interface.md): opcodes, doorbells, queue registers, intake and
acceptance, completion entries and MSI-X messages. -/

namespace Sys2Proof.Machine

/-! ## Opcodes (R476) -/

/-- Scope kinds of R476. -/
inductive OpScope where
  | hall | any | management
  deriving DecidableEq, Repr

/-- Scope of an opcode; none for a reserved one (R476). -/
def opScope (op : Nat) : Option OpScope :=
  if (0x01 ≤ op ∧ op ≤ 0x03) ∨ (0x08 ≤ op ∧ op ≤ 0x0C) ∨ (0x10 ≤ op ∧ op ≤ 0x15) ∨ (0x18 ≤ op ∧ op ≤ 0x1C)
      ∨ (0x20 ≤ op ∧ op ≤ 0x2E) then some .hall
  else if op = 0x30 ∨ op = 0x31 then some .any
  else if 0x40 ≤ op ∧ op ≤ 0x47 then some .management
  else none

/-- CLOCK of an opcode (R476, R485). -/
def opClock (op : Nat) : Nat :=
  if op ≤ 0x03 ∨ op = 0x1B ∨ op = 0x21 then 1
  else if op = 0x22 ∨ op = 0x23 then 5
  else if 0x28 ≤ op ∧ op ≤ 0x2E then 3
  else if 0x40 ≤ op then 4
  else 2

/-- The opcode carries LAYER and PASS (R476). -/
def opLayered (op : Nat) : Bool := op = 0x01 || op = 0x02 || op = 0x03 || op = 0x1B

/-! ## Completion entries (R470, R474, R485) -/

/-- Ring slots of a queue. -/
def ringSize (s : State) (scope q : Nat) : Nat := 2 ^ getF s (rCmdSq scope q) fCmdSqSizeLog2

/-- Free completion slots: one slot always stays empty (R474). -/
def ringFree (s : State) (scope q : Nat) : Nat :=
  let n := ringSize s scope q
  let tail := getF s (rCmdQStatus scope q) fCmdQStatusCqTail
  ((getQ s scope q).cqHead + 2 * n - tail - 1) % n

/-- The 32 bytes of an entry (R485). -/
def entryBytes (e : Entry) (phase : Nat) : List Byte :=
  leBytes 8 e.seq ++ leBytes 1 e.code ++ leBytes 1 (phase % 2 + 2 * (e.kind % 4)) ++ leBytes 2 e.sqHead
    ++ leBytes 1 e.check ++ leBytes 1 (e.clock % 16) ++ leBytes 5 e.elapsed ++ leBytes 1 (e.extent / 2 ^ 32)
    ++ leBytes 4 e.extent ++ leBytes 8 e.info

/-- Send the queue's MSI-X message where its vector is assigned, unmasked and armed (R470). -/
def signalQueue (s : State) (scope q : Nat) : State :=
  let v := getF s (rCmdCq scope q) fCmdCqVector
  let qu := getQ s scope q
  if v < 64 && qu.armed && !s.msixMasked.contains (qu.fn, v) then
    { setQ s scope q { qu with armed := false } with msix := (qu.fn, v) :: s.msix }
  else s

/-- Write one entry at CQ_TAIL: the ring slot, the tail, the phase; a final entry frees its journal record (R474,
R480). -/
def writeEntry (s : State) (scope q : Nat) (e : Entry) : State :=
  let st := rCmdQStatus scope q
  let tail := getF s st fCmdQStatusCqTail
  let phase := getF s st fCmdQStatusCqPhase
  let n := ringSize s scope q
  let e := if e.kind = 2 || e.again then e else { e with sqHead := getF s st fCmdQStatusSqHead }
  let s := memPut s (getF s (rCmdCq scope q) fCmdCqBase + 32 * tail) (entryBytes e phase)
  let s := setF s st fCmdQStatusCqTail ((tail + 1) % n)
  let s := if (tail + 1) % n = 0 then setF s st fCmdQStatusCqPhase (1 - phase) else s
  let qu := getQ s scope q
  let s := setQ s scope q
    { qu with
      unpassed := qu.unpassed ++ [(tail, e)]
      cmds := if e.kind = 0 then qu.cmds.filter fun c => c.seq != e.seq else qu.cmds }
  signalQueue s scope q

/-- The queue writes entries now: running or stopped with a working completion ring (R473, R481, R621). -/
def canWrite (s : State) (scope q : Nat) : Bool :=
  let st := getF s (rCmdQStatus scope q) fCmdQStatusState
  (st = 1 || st = 2) && !(getQ s scope q).cqBroken

/-- Write held entries in order while slots are free (R474, R621). -/
def flushList (scope q : Nat) : List Entry → State → State
  | [], s => s
  | e :: es, s =>
    if canWrite s scope q && 0 < ringFree s scope q then
      let s := writeEntry s scope q e
      flushList scope q es (setQ s scope q { getQ s scope q with held := es })
    else s

/-- Write every held entry that has room. -/
def flushHeld (s : State) (scope q : Nat) : State := flushList scope q (getQ s scope q).held s

/-- Stop a queue with a code (R478, R621). -/
def stopQueue (s : State) (scope q code : Nat) : State :=
  let s := setF s (rCmdQStatus scope q) fCmdQStatusState 2
  let s := setF s (rCmdQStatus scope q) fCmdQStatusStopCode code
  raiseCmdEvent s fCmdEventsStopped

/-- Hold an entry, in order. -/
def holdEntry (s : State) (scope q : Nat) (e : Entry) : State :=
  let qu := getQ s scope q
  setQ s scope q { qu with held := qu.held ++ [e] }

/-- Write an entry, or hold it while it cannot be written; a failed write stops the queue and keeps the entry
(R474, R621). -/
def pushEntry (s : State) (scope q : Nat) (e : Entry) (err : Option ReadErr) : State :=
  if (getQ s scope q).held.isEmpty && canWrite s scope q && 0 < ringFree s scope q then
    match err with
    | none => writeEntry s scope q e
    | some x =>
      let s := holdEntry s scope q e
      stopQueue (setQ s scope q { getQ s scope q with cqBroken := true }) scope q (errCode x)
  else holdEntry s scope q e

/-- Write the acceptance entry that is due: the ring fetched up to its tail, or 64 commands accepted, and two slots
free (R479); a failed write stops the queue and keeps the entry (R621). -/
def acceptEntry (s : State) (scope q : Nat) (err : Option ReadErr) : State :=
  let qu := getQ s scope q
  let atTail := getF s (rCmdQStatus scope q) fCmdQStatusSqHead = qu.sqTail
  if 0 < qu.unreported && (atTail || 64 ≤ qu.unreported) && qu.held.isEmpty && canWrite s scope q
      && 2 ≤ ringFree s scope q then
    let s := pushEntry s scope q { seq := getF s (rCmdQSeq scope q) fCmdQSeqNextSeq - 1, kind := 1 } err
    setQ s scope q { getQ s scope q with unreported := 0 }
  else s

/-! ## Intake (R475 to R480) -/

/-- Journal records in use in a scope (R480). -/
def journalUsed (s : State) (scope : Nat) : Nat :=
  (List.range 64).foldl (fun n q => n + (getQ s scope q).cmds.length) 0

/-- A fetched slot as a command (R475). -/
def cmdOfBytes (b : List Byte) (slot gen : Nat) : Cmd :=
  { seq := leAt b 8 8, slot := slot, opcode := leAt b 0 1, depMode := leAt b 1 1 % 4, layer := leAt b 2 2
    pass := leAt b 4 1 % 4, depQueue := leAt b 5 1 % 64, depGroup := leAt b 6 2, depSeq := leAt b 0x10 4
    o0 := leAt b 0x18 8, o1 := leAt b 0x20 8, o2 := leAt b 0x28 8, o3 := leAt b 0x30 8, o4 := leAt b 0x38 8
    gen := gen }

/-- Check 1 of R478: the CRC over bytes 0x00 to 0x13 and 0x18 to 0x3F. -/
def slotCrcOk (b : List Byte) : Bool := crc32c (b.take 0x14 ++ b.drop 0x18) = leAt b 0x14 4

/-- Check 2 of R478. `fn` is the function the queue is bound to. -/
def headerOk (s : State) (scope fn : Nat) (b : List Byte) : Bool :=
  let c := cmdOfBytes b 0 0
  let scopeOk := match opScope c.opcode with
    | some .hall => scope < 8
    | some .any => true
    | some .management => scope = 8
    | none => false
  let vf9 := !(scope = 8 && fn = 9) || c.opcode = 0x41 || c.opcode = 0x47 || c.opcode = 0x31 || c.opcode = 0x30
  let reserved := leAt b 1 1 / 4 = 0 && leAt b 4 1 / 4 = 0 && leAt b 5 1 / 64 = 0
  let layer :=
    if opLayered c.opcode then c.layer ≤ 16383 || c.layer = 0xFFFF else c.layer = 0xFFFF && c.pass = 0
  let dep := (c.depMode = 3 || c.depGroup = 0) && (c.depMode = 0 || c.depQueue < scopeQueues s scope)
  let abort := c.opcode != 0x30 || (c.depMode = 0 && c.depQueue = 0 && c.depGroup = 0 && c.depSeq = 0)
  scopeOk && vf9 && reserved && layer && dep && abort

/-- An intake refusal: its entry with the number of the failed check, and the queue's stop where the check stops it
(R478, R485). -/
def intakeRefuse (s : State) (scope q code check seq slot : Nat) (stops : Bool) (err : Option ReadErr) : State :=
  let s := if stops then stopQueue s scope q code else s
  pushEntry s scope q { seq := seq, code := code, kind := 2, sqHead := slot, check := check } err

/-- Advance SQ_HEAD past one slot. -/
def nextSlot (s : State) (scope q : Nat) : State :=
  let h := getF s (rCmdQStatus scope q) fCmdQStatusSqHead
  setF s (rCmdQStatus scope q) fCmdQStatusSqHead ((h + 1) % ringSize s scope q)

/-- Intake of the slot at SQ_HEAD of a running queue (R477, R478, R479, R621). -/
def intakeSlot (s : State) (scope q : Nat) (fetchErr entryErr : Option ReadErr) : State :=
  let head := getF s (rCmdQStatus scope q) fCmdQStatusSqHead
  let nxt := getF s (rCmdQSeq scope q) fCmdQSeqNextSeq
  match fetchErr with
  | some x => intakeRefuse s scope q (errCode x) 0 nxt head true entryErr
  | none =>
    let b := memBytes s (getF s (rCmdSq scope q) fCmdSqBase + 64 * head) 64
    let c := cmdOfBytes b head (getF s (rXfmGen scope) fXfmGenGeneration)
    if !slotCrcOk b then intakeRefuse s scope q 0x13 1 nxt head true entryErr
    else if !headerOk s scope (getQ s scope q).fn b then intakeRefuse s scope q 0x10 2 nxt head true entryErr
    else if c.seq < nxt then
      acceptEntry (intakeRefuse (nextSlot s scope q) scope q 0x05 3 c.seq head false entryErr) scope q entryErr
    else if nxt < c.seq then intakeRefuse s scope q 0x06 3 nxt head true entryErr
    else
      let s := nextSlot s scope q
      let s := setF s (rCmdQSeq scope q) fCmdQSeqNextSeq (nxt + 1)
      let qu := getQ s scope q
      let s := setQ s scope q { qu with cmds := qu.cmds ++ [c], unreported := qu.unreported + 1 }
      acceptEntry s scope q entryErr

/-! ## Doorbells (R466) -/

/-- The function reaches the scope's doorbell pages (R465). -/
def fnReaches (fn scope : Nat) : Bool := fn = 0 || (fn = scope + 1 && scope ≤ 8)

/-- A doorbell write is taken: an existing queue, the right function (R622), a 32-bit write at the doorbell's own
offset or a 64-bit write at offset 0 or 8, and an index below the queue size (R466). -/
def doorbellOk (s : State) (fn scope q off size want : Nat) (data : DWord) : Bool :=
  let enabled := getF s (rCmdQStatus scope q) fCmdQStatusState ≠ 0
  q < scopeQueues s scope && fnReaches fn scope && (!enabled || fn = (getQ s scope q).fn)
    && (size = 4 || size = 8) && off = want && bitsOf data.toNat 0 16 < ringSize s scope q

/-- SUBMISSION_TAIL_DOORBELL (R466). -/
def execSubmissionTailDoorbell (fn scope queue off size : Nat) (data : DWord) (s : State) : Out :=
  whileServed s <|
  if doorbellOk s fn scope queue off size 0 data then
    .next (setQ s scope queue { getQ s scope queue with sqTail := bitsOf data.toNat 0 16 })
  else .next (countMalformed s)

/-- The entries of `us` that the head doorbell value `h` has passed, counted from the oldest: those before the slot `h`
is named. -/
def dropPassed (h : Nat) : List (Nat × Entry) → List (Nat × Entry)
  | [] => []
  | u :: us => if u.1 = h then u :: us else dropPassed h us

/-- COMPLETION_HEAD_DOORBELL (R474, R470): frees slots, re-arms the message, writes the entries held for room. -/
def execCompletionHeadDoorbell (fn scope queue off size : Nat) (data : DWord) (s : State) : Out :=
  whileServed s <|
  if doorbellOk s fn scope queue off size 8 data then
    let h := bitsOf data.toNat 0 16
    let s := latchRaised s
    let qu := getQ s scope queue
    let s := setQ s scope queue { qu with cqHead := h, armed := true, unpassed := dropPassed h qu.unpassed }
    .next (acceptEntry (flushHeld s scope queue) scope queue none)
  else .next (countMalformed s)

/-! ## Queue control (R472, R473) -/

/-- A ring lies wholly in the host window, the system region or a class-M region (R471). -/
def ringPlaceOk (s : State) (a n : Nat) : Bool :=
  inHost a n || inSys a n || (match regionAt s a n with | some r => r.clsM | none => false)

/-- A ring lies in the host window. -/
def ringInHost (s : State) (scope q : Nat) : Bool :=
  hostBase ≤ getF s (rCmdSq scope q) fCmdSqBase || hostBase ≤ getF s (rCmdCq scope q) fCmdCqBase

/-- The conditions under which ENABLE 1 takes effect (R472). -/
def enableOk (s : State) (scope q : Nat) : Bool :=
  let lg := getF s (rCmdSq scope q) fCmdSqSizeLog2
  let sq := getF s (rCmdSq scope q) fCmdSqBase
  let cq := getF s (rCmdCq scope q) fCmdCqBase
  let v := getF s (rCmdCq scope q) fCmdCqVector
  4 ≤ lg && lg ≤ 16 && sq % 4096 = 0 && cq % 4096 = 0 && ringPlaceOk s sq (64 * 2 ^ lg)
    && ringPlaceOk s cq (32 * 2 ^ lg) && (v < 64 || v = 0x7F)

/-- A VF may write the queue's registers: the bound one while the queue is enabled, else the scope's own (R622). -/
def queueWriter (s : State) (fn scope q : Nat) : Bool :=
  fn = 0 || (fn = scope + 1 && (getF s (rCmdQStatus scope q) fCmdQStatusState = 0 || fn = (getQ s scope q).fn))

/-- No accepted command of the queue is incomplete. -/
def queueIdle (s : State) (scope q : Nat) : Bool := (getQ s scope q).cmds.all fun c => c.st = .recorded

/-- QUEUE_ENABLE (R472, R622): a queue that is enabled already is bound to the function that writes 1 last (log 308). -/
def execQueueEnable (fn scope queue : Nat) (on : Bool) (s : State) : Out :=
  guardUnit (scope ≤ 8 && queue < 64) <| whileServed s <|
  if !(queue < scopeQueues s scope) then .next s
  else if !queueWriter s fn scope queue then .next (countMalformed s)
  else
    let st := rCmdQStatus scope queue
    if on then
      if getF s st fCmdQStatusState ≠ 0 then .next (setQ s scope queue { getQ s scope queue with fn := fn })
      else if !enableOk s scope queue then .next (countMalformed s)
      else
        let s := setF s st fCmdQStatusSqHead 0
        let s := setF s st fCmdQStatusCqTail 0
        let s := setF s st fCmdQStatusCqPhase 1
        let s := setF s st fCmdQStatusState 1
        let s := setF s (rCmdQCtl scope queue) fCmdQCtlEnable 1
        .next (setQ s scope queue
          { getQ s scope queue with fn := fn, sqTail := 0, cqHead := 0, armed := true, unpassed := [], cqBroken := false })
    else if queueIdle s scope queue then
      let s := setF s st fCmdQStatusState 0
      .next (setF s (rCmdQCtl scope queue) fCmdQCtlEnable 0)
    else .next (countMalformed s)

/-- QUEUE_RESTART (R473, R621): held entries first; a write that fails again stops the queue again. -/
def execQueueRestart (fn scope queue : Nat) (entryErr : Option ReadErr) (s : State) : Out :=
  guardUnit (scope ≤ 8 && queue < 64) <| whileServed s <|
  if !queueWriter s fn scope queue then .next (countMalformed s)
  else if getF s (rCmdQStatus scope queue) fCmdQStatusState ≠ 2 then .next s
  else
    match entryErr, (getQ s scope queue).held with
    | some x, _ :: _ => .next (stopQueue s scope queue (errCode x))
    | _, _ =>
      let s := setQ s scope queue { getQ s scope queue with cqBroken := false }
      let s := flushHeld (setF s (rCmdQStatus scope queue) fCmdQStatusState 1) scope queue
      .next (acceptEntry s scope queue entryErr)

/-- QUEUE_RESUME (R473, R481): the final entries written but not passed go first, then those never written. -/
def execQueueResume (fn scope queue head : Nat) (s : State) : Out :=
  guardUnit (scope ≤ 8 && queue < 64) <| whileServed s <|
  let st := rCmdQStatus scope queue
  if !queueWriter s fn scope queue then .next (countMalformed s)
  else if getF s st fCmdQStatusState ≠ 3 then .next s
  else if ringSize s scope queue ≤ head then .next (countMalformed s)
  else
    let s := latchRaised s
    let s := setF s st fCmdQStatusSqHead head
    let s := setF s st fCmdQStatusCqTail 0
    let s := setF s st fCmdQStatusCqPhase 1
    let s := setF s st fCmdQStatusState 1
    let qu := getQ s scope queue
    let again := (qu.unpassed.filter fun u => u.2.kind = 0).map fun u => { u.2 with again := true }
    let s := setQ s scope queue
      { qu with held := again ++ qu.held, unpassed := [], cqHead := 0, armed := true, cqBroken := false }
    .next (acceptEntry (flushHeld s scope queue) scope queue none)

end Sys2Proof.Machine
end

