-- ==== Sys2Proof/Machine/Complete.lean ====
section
/-! DEFINITION. Intake of submission slots, completion records, ABORT and NOP (R477 to R491, R532, R621). -/

namespace Sys2Proof.Machine

/-! ## Intake (R477 to R480, R532) -/

/-- Some memory channel works (R532). -/
def someChannel (s : State) : Bool := (List.range 24).any (chanHealthy s)

/-- Records a scope's journal holds (R480, R532). -/
def journalSize (s : State) (scope : Nat) : Nat := if scope = 8 && !someChannel s then 256 else 131072

/-- The device fetches from a scope's queues: service has begun, no reset, shut-down or loss of all channels or erase
stops it (R34, R530, R532, R539, R576). -/
def fetches (s : State) (scope : Nat) : Bool :=
  getF s rLntStatus fLntStatusLevel ≠ 0 && !s.lnt.warm && !s.lnt.stopping && !s.lnt.off && !erasing s && (scope = 8 || someChannel s)

/-- The ring at an address lies in the host window, which cannot be reached: its access fails (R490, R621). -/
def ringErr (s : State) (base : Nat) (err : Option ReadErr) : Option ReadErr :=
  if hostBase ≤ base && !hostOpen s then some .addressFault else err

/-- COMMAND_INTAKE (R477 to R480, R521, R532, R621): one slot of a running queue whose ring is not empty. The acceptance
of a hall's command wakes its flights. -/
def execCommandIntake (scope queue : Nat) (fetchErr entryErr : Option ReadErr) (s : State) : Out :=
  guardUnit (scope ≤ 8 && queue < 64) <|
  let st := rCmdQStatus scope queue
  if !(queue < scopeQueues s scope) || getF s st fCmdQStatusState ≠ 1 || !fetches s scope
      || getF s st fCmdQStatusSqHead = (getQ s scope queue).sqTail then .next s
  else if journalSize s scope ≤ journalUsed s scope then .next (raiseCmdEvent s fCmdEventsJournalFull)
  else
    let before := getF s (rCmdQSeq scope queue) fCmdQSeqNextSeq
    let s := intakeSlot s scope queue (ringErr s (getF s (rCmdSq scope queue) fCmdSqBase) fetchErr)
      (ringErr s (getF s (rCmdCq scope queue) fCmdCqBase) entryErr)
    .next (if scope < 8 && getF s (rCmdQSeq scope queue) fCmdQSeqNextSeq ≠ before then wakeHall s scope else s)

/-! ## Completion records (R482) -/

/-- Merge private norm sums into the slot at `a` (R190, R192, R193). -/
def mergeNorm (s : State) (a : Nat) (n : NormAcc) : State :=
  let fl (b : Bool) (i : Nat) : Nat := if b then 2 ^ i else 0
  let sum := memNat s a 16 + n.sumsq
  let s := memPutNat s a 16 (min sum (2 ^ 128 - 1))
  let s := memPutNat s (a + 16) 4 (amaxJoin (memNat s (a + 16) 4) n.maxabs)
  let s := memPutNat s (a + 22) 1
    (memNat s (a + 22) 1 ||| (fl n.trunc 0 + fl (n.sat || decide (2 ^ 128 ≤ sum)) 1 + fl n.nan 2 + fl n.bad 3))
  spansWrote (memPutNat s (a + 24) 8 (memNat s (a + 24) 8 + n.count)) [(a, 32)]

/-- What a command's sums and scale entry take in when it succeeds (R108, R182, R193, R368). -/
def mergeJob (s : State) (h : Nat) (j : Job) : State :=
  let s := match j.scale with | some e => scaleUpdate s h e j.kOut j.presented j.amax | none => s
  let s := match j.normAddr with | some a => mergeNorm s a j.norm | none => s
  j.norms.foldl (fun s p => mergeNorm s p.1 p.2) s

/-- LAYER_LEN after a successful append by a product (R232). -/
def appendDone (s : State) (h : Nat) (c : Cmd) : State :=
  match hallCache s h with
  | some (_, k) =>
    let ol := c.job.rec2
    memPutNat s (ptBlock s k (apSeq ol) (apLayer ol)) 4 (apPos ol + apTok ol)
  | none => s

/-- Counters that count completions by their code (R184, R310, R329, R342). -/
def countCode (s : State) (h code : Nat) : State :=
  match code with
  | 0x02 => countHall s h 0x028 1
  | 0x14 => countHall s h 0x080 1
  | 0x23 => countHall s h 0x050 1
  | _ => s

/-- The changes of state a hall command makes no later than its completion record (R482). -/
def completeHall (s : State) (r : CmdRef) (c : Cmd) : State :=
  let h := r.scope
  let ok := c.code = 0
  let s := if ok then mergeJob s h c.job else s
  let s := if ok && c.opcode = 0x01 && bitOf c.o0 12 then appendDone s h c else s
  let s := unqueueSlots h c.job.uses s
  let s := if ok && c.opcode = 0x19 then xtabLoaded s h c else s
  let s := if c.opcode ≠ 0x29 then s else if ok then dictLoaded s h else setF s (rFoyHallDict h) fFoyHallDictLoading 0
  let s := if c.opcode = 0x20 || c.opcode = 0x21 then cloComplete s h c else s
  cacheDrop (countCode s h c.code) r

/-- ABORTs that wait for the record of a command succeed (R488). -/
def settleAborts (s : State) (r : CmdRef) : State :=
  (List.range 9).foldl (fun s sc => (scopeCmds s sc).foldl (fun s p =>
    if p.2.opcode = 0x30 && p.2.st = .dispatched && bitsOf p.2.o0 0 4 = r.scope && bitsOf p.2.o0 8 6 = r.queue
        && p.2.o1 = r.seq then succeed s p.1 0 0 else s) s) s

/-- Steps that follow a completion record: closing contexts, step boundaries, ABORTs (R30, R65, R445, R488). A STEP_COMMIT
or STEP_MARK that completes with any code makes a step boundary (log 304). -/
def afterRecord (s : State) (r : CmdRef) (c : Cmd) : State :=
  let s := if c.opcode = 0x2C || c.opcode = 0x2D then closeSettle s (bitsOf c.o0 0 8) else s
  let s := if c.opcode = 0x22 || c.opcode = 0x25 then stepBoundary s r.scope else s
  settleAborts s r

/-- Journal a completion record and keep the outcome (R480, R482). -/
def recordCmd (s : State) (r : CmdRef) (c : Cmd) (elapsed : Nat) : State :=
  let s := if r.scope < 8 then completeHall s r c else mgmtDone s c
  let s := updCmd s r fun x => { x with st := .recorded, elapsed := elapsed }
  let qu := getQ s r.scope r.queue
  let k : Kept := { seq := r.seq, opcode := c.opcode, code := c.code, groups := c.job.groups, groupsDone := c.job.groupsDone }
  afterRecord (setQ s r.scope r.queue { qu with kept := (k :: qu.kept).take 65536 }) r c

/-- INFO of a final entry: a step command carries its host time whatever its code (R32, R486). -/
def finalInfo (c : Cmd) : Nat := match c.opcode with | 0x22 => c.o3 | 0x25 => c.o0 | _ => c.info

/-- The final entry of a command (R485): CLOCK and ELAPSED are 0 where it never dispatched. -/
def finalEntry (r : CmdRef) (c : Cmd) (elapsed : Nat) : Entry :=
  { seq := r.seq, code := c.code, check := c.check, clock := if c.order = 0 then 0 else opClock c.opcode
    elapsed := if c.order = 0 then 0 else min elapsed (2 ^ 40 - 1), extent := c.extent, info := finalInfo c }

/-- COMMAND_COMPLETION (R409, R482, R485, R621): the record of a command whose outcome is fixed and whose segments are all
acknowledged, then its final entry. A secure erase then makes its cold reset (R576). -/
def execCommandCompletion (r : CmdRef) (elapsed : Nat) (entryErr : Option ReadErr) (s : State) : Out :=
  guardUnit (r.scope ≤ 8 && r.queue < 64) <|
  match findCmd s r with
  | none => .next s
  | some c =>
    if c.st ≠ .ended || s.lnt.warm || s.lnt.heldCode.isSome || cmdUnacked s r || abortPending s r then .next s
    else
      let s := latchRaised s
      let c := mgmtOutcome s c
      let e := finalEntry r c elapsed
      let s := pushEntry (recordCmd s r c e.elapsed) r.scope r.queue e
        (ringErr s (getF s (rCmdCq r.scope r.queue) fCmdCqBase) entryErr)
      .next (if c.opcode = 0x45 && c.code = 0 then coldReset s 3 else s)

/-! ## Abort (R488, R489) -/

/-- EXTENT and INFO of a dispatched command that an abort ends (R306, R486). -/
def abortExtent (s : State) (r : CmdRef) (c : Cmd) : Nat × Nat :=
  match c.opcode with
  | 0x08 | 0x09 =>
    (if cpRemote c = 2 then ackedUnits s r c else if cpRemote c = 1 then c.job.next else itemExtent s c, 0)
  | 0x0A | 0x15 | 0x18 => (c.job.next, 0)
  | 0x0B => (c.job.next, (pfPages s c).1 + c.job.next + 2 ^ 32 * c.job.next)
  | 0x01 | 0x02 | 0x03 | 0x1B | 0x1C | 0x21 => (itemExtent s c, 0)
  | 0x28 => (c.job.done.length, 0)
  | _ => (0, 0)

/-- What the owning chapters say of an aborted command (R165, R233, R303, R306, R409, R434, R460). -/
def abortOwner (s : State) (r : CmdRef) (c : Cmd) : State :=
  match c.opcode with
  | 0x0A => setHdState s c.o0 3
  | 0x28 => abortBatch s c
  | 0x2C => abortData s r c
  | 0x2D => abortEncode s r c
  | _ => s

/-- End an accepted or dispatched command as aborted (R488). -/
def abortCmd (s : State) (r : CmdRef) (c : Cmd) : State :=
  if c.st = .accepted then endCmd s r 4 0 0 0
  else if c.st = .dispatched then
    let (extent, info) := abortExtent s r c
    dropItems (voidCmd (endCmd (abortOwner s r c) r 4 0 extent info) r) r
  else s

/-- An ABORT's own outcome (R488, R489): the target, then an immediate code, or none while it waits for the target's
record. -/
def abortVerdict (s : State) (r t : CmdRef) : Option Nat :=
  let own := t.scope = r.scope
  let pf0 := r.scope = 8 && (getQ s 8 r.queue).fn = 0
  if 8 < t.scope || !(own || pf0) then some 0x10
  else
    match findCmd s t, (getQ s t.scope t.queue).kept.find? fun k => k.seq = t.seq with
    | some c, _ =>
      if c.opcode = 0x30 || t.scope = 8 && opScope c.opcode = some .management then some 0x10
      else if c.st = .recorded then some 0x01
      else if c.opcode = 0x22 && c.order ≠ 0 then some 0x10
      else if c.st = .ended && c.code ≠ 4 then some 0x01
      else none
    | none, some k =>
      if k.opcode = 0x30 || opScope k.opcode = some .management then some 0x10 else some 0x01
    | none, none => some 0x07

/-- ABORT (R483, R488, R489): it dispatches at its acceptance, whatever waits before it. -/
def execAbort (r : CmdRef) (s : State) : Out :=
  guardUnit (r.scope ≤ 8) <|
  match findCmd s r with
  | none => .next s
  | some c =>
    if c.st ≠ .accepted || c.opcode ≠ 0x30 || s.lnt.warm || s.lnt.heldCode.isSome then .next s
    else
      let t : CmdRef := ⟨bitsOf c.o0 0 4, bitsOf c.o0 8 6, c.o1⟩
      if !opdOk c then .next (endCmd s r 0x10 0 0 0)
      else
        match abortVerdict s r t with
        | some code => .next (endCmd s r code 0 0 0)
        | none =>
          let s := latchRaised (markDispatched s r)
          match findCmd s t with
          | some x => .next (abortCmd s t x)
          | none => .next s

/-- NOP (R476): success once its dependency is met. -/
def execNop (r : CmdRef) (s : State) : Out :=
  guardUnit (r.scope ≤ 8) <|
  dispatch 0x31 r s fun s _ => .go (succeed s r 0 0)

end Sys2Proof.Machine
end

