-- ==== Sys2Proof/Machine/HostIf.lean ====
section
/-! DEFINITION. What the host does on PCI Express beside queues and registers (R464, R467, R468, R490, R491, R537, R538):
BAR4, ATS, host-window reads, configuration space, host-side resets. -/

namespace Sys2Proof.Machine

/-! ## BAR4 (R467) -/

/-- Device address of a BAR4 offset. -/
def bar4Addr (s : State) (x : Nat) : Nat := getF s rCmdBar4Base fCmdBar4BaseBase + x
/-- BAR4 reaches a range: an image region without ENC. -/
def bar4Ok (s : State) (a n : Nat) : Bool :=
  match regionAt s a n with
  | some r => !r.enc
  | none => false
/-- Count a dropped BAR4 access. -/
def bar4Drop (s : State) : State := satF s rCmdCounts fCmdCountsBar4Dropped 1
/-- BAR0 and BAR4 answer: they are enabled with management service, and the link is up (R35, R535). -/
def barOpen (s : State) : Bool := getF s rLntStatus fLntStatusLevel ≠ 0 && s.pci.up

/-- BAR4_READ (R259, R467): `bad` says that a burst ends as an uncorrectable read. A read of a part not yet zeroed waits
(R269). -/
def execBar4Read (x n : Nat) (bad : Bool) (s : State) : Out :=
  let a := bar4Addr s x
  if !barOpen s then .next { s with resp := .ones n }
  else if !bar4Ok s a n then .next { bar4Drop s with resp := .ones n }
  else if unzeroed s a n then .next s
  else
    let s := driveRange s false a n
    match goneIn s a n, bad with
    | some (e, f), _ => .next { bar4Drop (recordErr s e f) with resp := .ones n }
    | none, true => .next { bar4Drop (recordBurst s a) with resp := .ones n }
    | none, false => .next { s with resp := .bytes (memBytes s a n) }

/-- BAR4_WRITE (R259, R292, R467): `bad` says that its merge fails verification. -/
def execBar4Write (x : Nat) (data : List Byte) (bad : Bool) (s : State) : Out :=
  let a := bar4Addr s x
  if !barOpen s then .next s
  else if !bar4Ok s a data.length then .next (bar4Drop s)
  else if unzeroed s a data.length then .next s
  else if bad || (writeGone s a data.length).isSome then .next (bar4Drop s)
  else .next (store s a data)

/-! ## The host window (R255, R468, R542) -/

/-- A host-window request ends with address-fault (R468). -/
def hostFault (s : State) (q : MemReq) : State := failReq (freeSlot s q) q.cmd .addressFault q.addr

/-- The function whose requester ID a request carries: the virtual function of the hall that made it, else PF 0 (R255). -/
def reqFn (s : State) (q : MemReq) : Nat :=
  match q.owner with
  | .tread t => match flightHall s.run (t / 8) with | some h => h + 1 | none => 0
  | .mover h => h + 1
  | .other => match q.cmd with | some r => r.scope + 1 | none => 0
/-- Pages of a request, each with that function. -/
def reqPages (s : State) (q : MemReq) : List (Nat × Nat) :=
  (List.range ((q.addr + q.len - 1) / 4096 - q.addr / 4096 + 1)).map fun i => (reqFn s q, q.addr / 4096 + i)
/-- Every page of a request has its translation: it has been sent (R468). -/
def translated (s : State) (q : MemReq) : Bool := (reqPages s q).all s.pci.atc.contains

/-- HOST_READ_COMPLETION (R255, R542): a read of the host window returns; its data passes on once checked. -/
def execHostReadCompletion (q : MemReq) (err : Option ReadErr) (s : State) : Out :=
  if q.write || !inHost q.addr q.len || !inFlight s q then .next s
  else if !hostOpen s then .next (hostFault s q)
  else if !translated s q then .next s
  else
    match err with
    | some e => .next (failReq (freeSlot s q) q.cmd e q.addr)
    | none => .next (deliver (freeSlot s q) q)

/-- ATS_TRANSLATION_COMPLETION (R255, R279, R468): the translation of the request's pages for its function is held, and a
write goes out and gives its slot back; or, refused, a page request goes out, at most 512 at a time. -/
def execAtsTranslationCompletion (q : MemReq) (ok : Bool) (s : State) : Out :=
  if !inHost q.addr q.len || !inFlight s q then .next s
  else if !hostOpen s then .next (hostFault s q)
  else if ok then
    let new := reqPages s q
    let s := { s with pci := { s.pci with atc := new ++ s.pci.atc.filter fun p => !new.contains p } }
    .next (if q.write then land (freeSlot s q) q else s)
  else if 512 ≤ s.pci.pageReqs.length then .next s
  else
    .next { s with pci := { s.pci with
      pageReqs := fmPut s.pci.pageReqs s.pci.nextReq q, nextReq := s.pci.nextReq + 1 } }

/-- A page request ends: taken off the list, with its request. -/
def takePageReq (s : State) (id : Nat) : Option (MemReq × State) :=
  (fmFind s.pci.pageReqs id).map fun q => (q, { s with pci := { s.pci with pageReqs := fmErase s.pci.pageReqs id } })

/-- PAGE_REQUEST_RESPONSE (R468): success lets the request go on; a Response Failure or an Invalid Request ends it. -/
def execPageRequestResponse (id : Nat) (ok : Bool) (s : State) : Out :=
  match takePageReq s id with
  | none => .next s
  | some (q, s) => .next (if ok then s else hostFault s q)

/-- PAGE_REQUEST_TIMEOUT (R468). -/
def execPageRequestTimeout (id : Nat) (s : State) : Out :=
  match takePageReq s id with
  | none => .next s
  | some (q, s) => .next (hostFault s q)

/-- ATS_INVALIDATION (R468): no translation of the range is held when the completion goes out. -/
def execAtsInvalidation (lo n : Nat) (s : State) : Out :=
  .next { s with pci := { s.pci with atc := s.pci.atc.filter fun p => !overlap (4096 * p.2) 4096 lo n } }

/-! ## Resets by the host (R490, R491) -/

/-- Every queue that is not disabled, with its ring in the host window: scope and queue. -/
def hostQueues (s : State) : List (Nat × Nat) :=
  ((List.range 9).flatMap fun sc => (List.range 64).map fun q => (sc, q)).filter fun p =>
    getF s (rCmdQStatus p.1 p.2) fCmdQStatusState ≠ 0 && ringInHost s p.1 p.2

/-- Queues enter STATE 3 (R481, R490). -/
def suspendQueues (s : State) (qs : List (Nat × Nat)) : State :=
  let s := qs.foldl (fun s p => setF s (rCmdQStatus p.1 p.2) fCmdQStatusState 3) s
  if qs.isEmpty then s else raiseCmdEvent s fCmdEventsSuspended

/-- Dispatched commands whose reach includes the host window. -/
def hostCmds (s : State) : List CmdRef :=
  ((List.range 8).flatMap fun h => scopeCmds s h).filterMap fun p =>
    if p.2.st = .dispatched && (p.2.job.reads ++ p.2.job.writes).any (fun x => overlap x.1 x.2 hostBase (hostEnd - hostBase))
    then some p.1 else none

/-- The address in the host window at which a command stops: that of its next 64-byte unit for a copy. -/
def hostStop (c : Cmd) : Nat :=
  let x := ((c.job.reads ++ c.job.writes).find? fun x => overlap x.1 x.2 hostBase (hostEnd - hostBase)).getD (hostBase, 0)
  if c.opcode = 0x08 || c.opcode = 0x0A then x.1 + 64 * c.job.next else x.1

/-- Requests to the host window end, and the commands that needed it (R490). -/
def hostGone (s : State) : State :=
  let s := s.treads.foldl (fun s p =>
    ((getT s p.1).slots.filter fun q => inHost q.addr q.len).foldl hostFault s) s
  let s := (s.und.moverSlots.filter fun q => inHost q.addr q.len).foldl hostFault s
  (hostCmds s).foldl (fun s r =>
    match findCmd s r with
    | some c => if c.opcode = 0x08 || c.opcode = 0x09 then failRemote s r .addressFault (hostStop c) else failCmd s r .addressFault (hostStop c)
    | none => s) s

/-- The PCIe domain is reset: configuration space at its reset values (R490). -/
def pcieReset (s : State) : State :=
  { s with msixMasked := [], pci := { s.pci with
    busMaster := false, ats := false, sriov := false, d3hot := false, cfg := [], atc := [], pageReqs := [] } }

/-- HOT_RESET (R490). -/
def execHotReset (s : State) : Out :=
  let s := latchRaised s
  .next (hostGone (pcieReset (suspendQueues s (hostQueues s))))

/-- One queue of an FLR is disabled: its incomplete commands end as aborted, their final entries are discarded, their
outcomes kept (R491). -/
def flrQueue (s : State) (p : Nat × Nat) : State :=
  let s := (scopeCmds s p.1).foldl (fun s x =>
    if x.1.queue ≠ p.2 || x.2.st = .recorded then s
    else
      let s := abortCmd s x.1 x.2
      match findCmd s x.1 with
      | some c => recordCmd s x.1 c 0
      | none => s) s
  let s := setF s (rCmdQStatus p.1 p.2) fCmdQStatusState 0
  let s := setF s (rCmdQCtl p.1 p.2) fCmdQCtlEnable 0
  setQ s p.1 p.2 { getQ s p.1 p.2 with cmds := [], held := [], unpassed := [], unreported := 0 }

/-- The effect of an FLR on a scope's queues in the host window (R490). -/
def flrScope (s : State) (scope : Nat) : State := ((hostQueues s).filter fun p => p.1 = scope).foldl flrQueue s

/-- FLR_VF (R490, R491). -/
def execFlrVf (n : Nat) (s : State) : Out :=
  guardUnit (1 ≤ n && n ≤ 9) (.next (flrScope (latchRaised s) (n - 1)))

/-- FLR_PF (R490, R491). -/
def execFlrPf (s : State) : Out :=
  let s := (List.range 9).foldl flrScope (latchRaised s)
  .next { s with pci := { s.pci with sriov := false } }

/-- D3HOT_TRANSITION (R490): No_Soft_Reset is 1; nothing is reset. -/
def execD3hotTransition (toD3 : Bool) (s : State) : Out := .next { s with pci := { s.pci with d3hot := toD3 } }

/-! ## Configuration space (R464, R490, R537, R538) -/

/-- The third dword of the status record (R538): STAGE, LEVEL, FAIL, the fallbacks, REDUCED, OSC, CAUSE. -/
def statusWord (s : State) : Nat :=
  let st := rLntStatus
  let level := getF s st fLntStatusLevel
  getF s st fLntStatusStage + 2 ^ 4 * level + 2 ^ 8 * (if level = 0 then s.lnt.heldCode.getD 0 else 0)
    + 2 ^ 12 * getF s rXfmSlot fXfmSlotFallback + 2 ^ 13 * getF s rMezFw fMezFwFallback
    + 2 ^ 14 * getF s rUndStatus fUndStatusReduced + 2 ^ 15 * getF s st fLntStatusOsc + 2 ^ 16 * getF s st fLntStatusCause

/-- Configuration dwords that the spec fixes: device IDs and the class code (R464), the status record (R538). The fields of
a dword that it leaves open come from Config. -/
def cfgFixed (s : State) (fn off : Nat) : Option Nat :=
  let other := (Config.cfgReset fn off).toNat
  match off with
  | 0x00 => some (other % 2 ^ 16 + 2 ^ 16 * (if fn = 0 then 0x0940 else 0x0941))
  | 0x08 => if fn = 0 then some (other % 2 ^ 8 + 2 ^ 8 * 0x120000) else none
  | 0x400 => if fn = 0 then some (0x000B + 2 ^ 16 * (other / 2 ^ 16)) else none
  | 0x404 => if fn = 0 then some (0x0940 + 2 ^ 16 * 1 + 2 ^ 20 * 0x18) else none
  | 0x408 => if fn = 0 then some (statusWord s) else none
  | 0x40C => if fn = 0 then some (incarnation s) else none
  | 0x410 => if fn = 0 then some (getF s rLntStatus fLntStatusWarmCount) else none
  | 0x414 => if fn = 0 then some 0 else none
  | _ => none

/-- A configuration dword as read. -/
def cfgRead (s : State) (fn off : Nat) : Nat :=
  match cfgFixed s fn off with
  | some v => v
  | none => ((fmFind s.pci.cfg (1024 * fn + off / 4)).getD (Config.cfgReset fn off)).toNat

/-- What a write of a configuration dword of PF 0 switches: Bus Master Enable, ATS Enable, VF Enable; of any function, its
MSI-X function mask (log 69). -/
def cfgSwitch (s : State) (fn off v : Nat) : State :=
  let p := s.pci
  let s := if fn = 0 then
      { s with pci := { p with
        busMaster := if off = 4 then bitOf v 2 else p.busMaster
        ats := if off = Config.atsCap + 4 then bitOf v 31 else p.ats
        sriov := if off = Config.sriovCap + 8 then bitOf v 0 else p.sriov } }
    else s
  if off = Config.msixCap then
    { s with msixMasked := (s.msixMasked.filter fun m => m.1 ≠ fn)
      ++ (if bitOf v 30 then (List.range 65).map fun k => (fn, k) else []) }
  else s

/-- CONFIGURATION_REQUEST (R537, R538): `data` is what a write carries; until configuration space answers, every request
gets retry status. -/
def execConfigurationRequest (fn off : Nat) (data : Option Word) (s : State) : Out :=
  guardUnit (fn < 10 && off % 4 = 0 && off < 4096) <|
  if !s.pci.answers then .next { s with resp := .retry }
  else
    match data with
    | none => .next { s with resp := .value 4 (cfgRead s fn off) }
    | some v =>
      if (cfgFixed s fn off).isSome then .next { s with resp := .nothing }
      else
        let s := cfgSwitch { s with resp := .nothing } fn off v.toNat
        .next { s with pci := { s.pci with cfg := fmPut s.pci.cfg (1024 * fn + off / 4) v } }

end Sys2Proof.Machine
end

