-- ==== Sys2Proof/Machine/Mez.lean ====
section
/-! DEFINITION. Mezzanine cores (R493 to R496, R500 to R503): caches, watchdogs, retirement and the re-route. -/

namespace Sys2Proof.Machine

def getCore (s : State) (c : Nat) : Core := fmGet (fun _ => {}) s.mez.cores c
def setCore (s : State) (c : Nat) (k : Core) : State :=
  { s with mez := { s.mez with cores := fmSet (fun _ => {}) s.mez.cores c k } }
/-- A core works. -/
def coreWorking (s : State) (c : Nat) : Bool := bitOf (getF s rMezStatus fMezStatusWorking) c
def workingCores (s : State) : List Nat := (List.range 16).filter (coreWorking s)

/-! ## Caches (R494, R495, R502) -/

/-- A line is written back; one whose place is gone is not (R290, R293). -/
def lineBack (s : State) (ln : Nat) (data : List Byte) : State :=
  if (writeGone s (64 * ln) 64).isSome then s else store s (64 * ln) data
/-- Write lines back where `keep` holds and drop them all. -/
def dropLines (s : State) (which keep : Nat × CLine → Bool) : State :=
  let ps := s.mez.lines.filter which
  let s := { s with mez := { s.mez with lines := s.mez.lines.filter fun p => !which p } }
  ps.foldl (fun s p => if p.2.dirty && keep p then lineBack s p.1 p.2.data else s) s

/-- The dirty lines of a core's L1 and private L2 that pass their ECC check are written back; `bad` are the others, by
address ÷ 64 (R502). -/
def flushCore (s : State) (c : Nat) (bad : List Nat) : State := dropLines s (fun p => p.2.core = c) fun p => !bad.contains p.1

/-! ## The re-route (R503) -/

/-- A core for a shared entry whose target is gone: its ALT, else the lowest-numbered working core. -/
def rerouteTo (s : State) (c : Nat) (e : List Byte) : Nat :=
  let alt := irqAlt e
  if alt = c || !coreWorking s alt then (workingCores s).headD 0 else alt
def rerouteEntry (s : State) (c : Nat) (e : List Byte) : List Byte :=
  if irqSource e < 960 && irqTarget e = c then e.take 3 ++ leBytes 1 (rerouteTo s c e) ++ e.drop 4 else e

/-- The device's own commit for a retired core (R40, R72, R503). -/
def reroute (s : State) (c : Nat) : State :=
  let sec := secOf s.run tyIRQ 0xFF 0
  if sec.isEmpty then s
  else
    let new := sec.take 8 ++ (irqEntries sec).flatMap (rerouteEntry s c)
    let s := loadIrq sec { s with run := fmPut s.run (secKey tyIRQ 0xFF 0) new }
    let s := bumpF s (rXfmGen 8) fXfmGenGeneration 1
    let s := bumpF s (rXfmCounts 8) fXfmCountsCommits 1
    let s := raiseF s (rXfmEvents 8) fXfmEventsCommitted
    if xState s 8 = 2 || xState s 8 = 3 then setX s 8 { getX s 8 with recheck := true } else s

/-! ## Retirement (R502) -/

/-- A core is marked retired: it holds nothing, and its duties as boot core pass to the lowest-numbered working one. -/
def markRetired (s : State) (c : Nat) : State :=
  let w := getF s rMezStatus fMezStatusWorking
  let r := getF s rMezStatus fMezStatusRetired
  let s := setF s rMezStatus fMezStatusWorking (w - (w &&& 2 ^ c))
  let s := setF s rMezStatus fMezStatusRetired (r ||| 2 ^ c)
  let s := setF (setCore s c {}) (rMezCoreStatus c) fMezCoreStatusState 3
  if getF s rMezStatus fMezStatusBoot = c then setF s rMezStatus fMezStatusBoot ((workingCores s).headD 0) else s

/-- A working core retires, with the SOURCE of its record; the last one stays (R502, R510). -/
def retireCore (s : State) (c src : Nat) (bad : List Nat) : State :=
  if !coreWorking s c then s
  else if (workingCores s).length ≤ 1 then raiseF s rMezEvents fMezEventsRefused
  else
    let s := endClaims (flushCore (latchRaised s) c bad) c
    let s := reroute (markRetired s c) c
    raiseF (addRecord s { kind := 6, source := src, slice := 74 + c }) rMezEvents fMezEventsRetired

/-- CORE_RETIRE (R502). -/
def execCoreRetire (core : Nat) (bad : List Nat) (s : State) : Out :=
  guardUnit (core < 16) <| whileServed s (.next (retireCore s core 2 bad))

/-- CORE_KICK (R501). -/
def execCoreKick (core : Nat) (s : State) : Out :=
  guardUnit (core < 16) <| whileServed s (.next (if coreWorking s core then setCore s core { getCore s core with missed := 0 } else s))

/-- CORE_WATCHDOG_EXPIRY (R501): a period without a kick; the second in a row retires the core. -/
def execCoreWatchdogExpiry (core : Nat) (bad : List Nat) (s : State) : Out :=
  guardUnit (core < 16) <|
  if !coreWorking s core then .next s
  else
    let n := (getCore s core).missed
    let s := raiseF (setCore s core { getCore s core with missed := min (n + 1) 2 }) rMezEvents fMezEventsWdog
    .next (if 1 ≤ n && isF s rMezCtl fMezCtlAutoRetire then retireCore s core 1 bad else s)

/-- CORE_TIMER (R496, R504): the core's mtime reaches its mtimecmp. -/
def execCoreTimer (core : Nat) (s : State) : Out :=
  guardUnit (core < 16) <|
  let k := getCore s core
  .next (if coreWorking s core then setCore s core { k with mtime := if k.mtime ≤ k.mtimecmp then k.mtimecmp else k.mtime } else s)

/-- MEZ_FW_CONFIRM (R500). -/
def execMezFwConfirm (s : State) : Out :=
  whileServed s <|
  .next (setF s rMezFwConfirm fMezFwConfirmFloor (max (getF s rMezFwConfirm fMezFwConfirmFloor) (fwVersion s)))

/-- DEBUG_DMI_ACCESS (R12, R575): while debug is locked the window reads zero and discards writes. -/
def execDebugDmiAccess (a : Nat) (data : Option Word) (s : State) : Out :=
  whileServed s <|
  if !isF s rLntPresence fLntPresenceDebug then .next { s with resp := match data with | none => .value 8 0 | some _ => .nothing }
  else
    let (dmi, cores, v) := Config.dmiAccess a data s.mez.dmi s.mez.cores
    let s := { s with mez := { s.mez with dmi := dmi, cores := cores } }
    .next { s with resp := match data with | none => .value 8 v.toNat | some _ => .nothing }

end Sys2Proof.Machine
end

