-- ==== Sys2Proof/Machine/Repair.lean ====
section
/-! DEFINITION. Repair records put into effect (R557, R558), isolation of flights and Atrium blocks (R550, R551), the
self-test of slices in service and at shut-down (R539, R552 to R556). -/

namespace Sys2Proof.Machine

/-! ## SRAM spares (R558) -/

/-- Spare rows and columns of the bank a SUB names: Landing, Gallery, accumulator (none is stated). -/
def spareRows (sub : Nat) : Nat := if sub < 0x100 then 4 else if sub < 0x200 then 8 else 0
def spareCols (sub : Nat) : Nat := if sub < 0x200 then 2 else 0
/-- A record of a flight's SRAM that is to be applied. -/
def sramRec (f : Nat) (x : Repair) : Bool := (x.kind = 1 || x.kind = 2) && x.slice = f && x.state ≠ 2 && !x.bad
/-- Addresses of a bank at which a bit fails. -/
def bitAddrs (bs : List Repair) (b : Nat) : List Nat :=
  ((bs.filter fun y => y.kind = 1 && y.bit = b).map (·.address)).eraseDups
/-- Bit positions of a bank mapped onto spare columns. -/
def mappedCols (sub : Nat) (bs : List Repair) : List Nat :=
  ((bs.map (·.bit)).eraseDups.filter fun b =>
    b ≠ 0xFFFF && (bs.any (fun y => y.kind = 2 && y.bit = b) || 2 ≤ (bitAddrs bs b).length)).take (spareCols sub)
/-- Lines of a bank mapped onto spare rows: those that no spare column repairs. -/
def mappedRows (sub : Nat) (bs : List Repair) : List Nat :=
  ((bs.filter fun y => y.kind = 1 && !(mappedCols sub bs).contains y.bit).map (·.address)).eraseDups.take (spareRows sub)
/-- A record finds a spare among the records of its bank. -/
def findsSpare (rs : List Repair) (x : Repair) : Bool :=
  let bs := rs.filter fun y => sramRec x.slice y && y.sub = x.sub
  (mappedCols x.sub bs).contains x.bit || (x.kind = 1 && (mappedRows x.sub bs).contains x.address)

/-- A flight's SRAM records are applied, or exhausted: then the tread of the Landing, or the flight, is isolated. -/
def applySram (s : State) (f : Nat) : State :=
  let rs := s.integ.records
  let new := rs.map fun x => if sramRec f x then { x with state := if findsSpare rs x then 1 else 3 } else x
  let s := refreshRepair { s with integ := { s.integ with records := new } }
  (new.filter fun x => sramRec f x && x.state = 3).foldl (fun s x =>
    if x.sub < 0x100 then isolateTread s (8 * f + x.sub / 32) else isolateFlight s f false) s

/-- Pending records of some kinds that are applied are marked so. -/
def markApplied (s : State) (which : Repair → Bool) : State :=
  refreshRepair { s with integ := { s.integ with
    records := s.integ.records.map fun x => if which x && x.state = 0 && !x.bad then { x with state := 1 } else x } }
/-- A record of a kind names a slice, and is neither cleared nor bad. -/
def named (s : State) (kind slice : Nat) : Bool :=
  s.integ.records.any fun x => x.kind = kind && x.slice = slice && x.state ≠ 2 && !x.bad

/-! ## Blocks and flights (R550, R551) -/

/-- A block of slices 90 to 97 is isolated (R551). -/
def isolateBlock (s : State) (b : Nat) : State :=
  if blockIsolated s b then s
  else
    let s := setF s rLntBlockIsolate fLntBlockIsolateBlocks (getF s rLntBlockIsolate fLntBlockIsolateBlocks ||| 2 ^ b)
    let s := raiseF s rLntIntegEvents fLntIntegEventsBlock
    let s := if b = 7 then setF s rMezStatus fMezStatusSharedL2 0 else s
    refreshLevel { s with integ := { s.integ with passed := s.integ.passed.filter (· ≠ b) } }

/-- BLOCK_ISOLATE (R551). -/
def execBlockIsolate (b : Nat) (s : State) : Out := guardUnit (b < 8) <| whileServed s (.next (isolateBlock s b))

/-- BLOCK_RETURN (R551): only a block whose last in-service test passed. -/
def execBlockReturn (b : Nat) (s : State) : Out :=
  guardUnit (b < 8) <| whileServed s <|
  if !blockIsolated s b then .next s
  else if !s.integ.passed.contains b then .next (raiseF s rLntIntegEvents fLntIntegEventsRefused)
  else
    let s := setF s rLntBlockIsolate fLntBlockIsolateBlocks (getF s rLntBlockIsolate fLntBlockIsolateBlocks - 2 ^ b)
    .next (refreshLevel (if b = 7 then setF s rMezStatus fMezStatusSharedL2 1 else s))

/-- FLIGHT_ISOLATE (R550). -/
def execFlightIsolate (f : Nat) (force : Bool) (s : State) : Out :=
  guardUnit (f < 16) <| whileServed s (.next (if flightWorking s f || force then isolateFlight (latchRaised s) f force else s))

/-- A tread of a returned flight takes work again, its SRAM zeroed and its tables loaded. -/
def returnTread (s : State) (t : Nat) : State :=
  if getF s (rTrdStatus t) fTrdStatusState = 3 && !isF s (rTrdIsolate t) fTrdIsolateIsolate then
    let s := setF (memZero (setT s t {}) (landingBase t) 0x200000) (rTrdStatus t) fTrdStatusState 1
    treadStatus (loadTables s t) t
  else s

/-- FLIGHT_UNISOLATE (R519, R550, R558): the repairs are applied; the flight, unless they isolate it again, wakes with
zeroed SRAM and the tables of its hall. -/
def execFlightUnisolate (f : Nat) (s : State) : Out :=
  guardUnit (f < 16) <| whileServed s <|
  if flightWorking s f then .next s
  else
    let s := setF s (rFltIsolate f) fFltIsolateIsolate 0
    let s := { s with integ := { s.integ with galleryFaults := fmErase s.integ.galleryFaults f } }
    let s := applySram s f
    if !flightWorking s f then .next s
    else
      let s := (List.range 8).foldl (fun s i => returnTread s (8 * f + i)) s
      let s := match flightHall s.run f with | some h => wakeHall s h | none => s
      .next (refreshLevel s)

/-! ## Slices (R552) -/

/-- The unit of a slice is isolated or retired (R553). -/
def sliceOut (s : State) (n : Nat) : Bool :=
  if n < 16 then !flightWorking s n
  else if n < 40 then !chanHealthy s (n - 16)
  else if n < 74 then false
  else if n < 90 then !coreWorking s (n - 74)
  else if n < 98 then blockIsolated s (n - 90)
  else false
/-- A test of the slice is allowed in service (R556). -/
def sliceTestable (s : State) (n : Nat) : Bool :=
  if n < 16 then !flightWorking s n && fltState s n = 0
  else if n < 40 then getF s (rUndChanStatus (n - 16)) fUndChanStatusState = 2
  else if n < 74 then portSpare s (n - 40) || portState s (n - 40) = 2
  else if n < 90 then bitOf (getF s rMezStatus fMezStatusRetired) (n - 74)
  else n < 98 && blockIsolated s (n - 90)

/-- A write of RUN takes effect: the slice may be tested, and no test runs (R556). -/
def runOk (s : State) (slice : Nat) : Bool := sliceTestable s slice && s.integ.testing.isEmpty && !s.lnt.stopping

/-- SELFTEST_RUN (R556). -/
def execSelftestRun (slice : Nat) (s : State) : Out :=
  whileServed s <|
  if !runOk s slice then .next (raiseF s rLntIntegEvents fLntIntegEventsRefused)
  else
    let s := { s with integ := { s.integ with testing := [slice] } }
    .next (setF (setF s rLntSelftestCtl fLntSelftestCtlSlice slice) rLntSelftestStatus fLntSelftestStatusBusy 1)

/-- The store is full, and a failure that no record names isolates its slice (R557). -/
def isolateSlice (s : State) (n : Nat) : State :=
  if n < 16 then isolateFlight s n false
  else if n < 40 then retireChannel s (n - 16) 1
  else if n < 74 then failPort s (n - 40)
  else if n < 90 then retireCore s (n - 74) 1 []
  else if n < 98 then isolateBlock s (n - 90)
  else s
/-- Record a failure of a slice, or isolate it (R557). -/
def recordFailure (s : State) (x : Repair) : State :=
  let full := storeFull s && !s.integ.records.any fun y => y.same x
  let s := addRecord s x
  if full then isolateSlice s x.slice else s

/-- Start tests until eight run (R553). -/
def fillTests (s : State) : State :=
  let g := s.integ
  let k := 8 - g.testing.length
  let last (n : Nat) : Bool := 98 ≤ n || n = 74 + getF s rMezStatus fMezStatusBoot
  let early := g.waiting.filter fun n => !last n
  let now := if early.isEmpty && g.testing.isEmpty then g.waiting.take k else early.take k
  let s := { s with integ := { g with testing := g.testing ++ now, waiting := g.waiting.filter fun n => !now.contains n } }
  setF s rLntSelftestStatus fLntSelftestStatusBusy (if s.integ.testing.isEmpty then 0 else 1)

/-- Every switched domain is powered down, memory holds itself (R539, R259). -/
def powerDown (s : State) : State :=
  let s := (List.range 16).foldl flightOff s
  let s := (List.range 34).foldl (fun s p => setF (setPortState s p 0) (rOrlPortStatus p) fOrlPortStatusLanes 0) s
  let up := (List.range 24).filter (chanHealthy s)
  let s := setF s rLntDomainStatus fLntDomainStatusPowered 0
  { s with
    und := { s.und with selfRefresh := up, ds := up.foldl (fun m c => fmPut m c (0, true)) s.und.ds }
    mediaAsleep := true
    pci := { s.pci with up := false, answers := false }
    lnt := { s.lnt with off := true, stopping := false } }

/-- The shut-down run ends with its last slice: it is counted, and the device powers down (R539, R553). -/
def endRun (s : State) : State :=
  if !s.lnt.stopping || !s.integ.testing.isEmpty || !s.integ.waiting.isEmpty then s
  else
    let s := bumpF s rLntSelftestStatus fLntSelftestStatusRuns 1
    powerDown { s with integ := { s.integ with runInc := incarnation s } }

/-- LNT_SHUTDOWN (R539, R553): refused while an accepted command is incomplete; else the run starts, pending untested
slices first. -/
def execLntShutdown (s : State) : Out :=
  if s.lnt.stopping || s.lnt.off || s.lnt.warm || !s.lnt.railUp || s.lnt.heldCode.isSome then .next s
  else if (List.range 9).any fun k => !(incompleteCmds s k).isEmpty then .next (raiseF s rLntEvents fLntEventsRefused)
  else
    let all := List.range 101
    let own := 74 + getF s rMezStatus fMezStatusBoot
    let skip := all.filter (sliceOut s)
    let pend (n : Nat) : Bool := s.integ.records.any fun x => x.slice = n && ((x.kind = 8 && x.state = 0) || x.bad)
    let go := all.filter fun n => !skip.contains n
    let first := go.filter fun n => n < 98 && n ≠ own && pend n
    let rest := go.filter fun n => n < 98 && n ≠ own && !pend n
    let order := first ++ rest ++ go.filter (fun n => 98 ≤ n) ++ go.filter (· = own)
    let res := skip.foldl (fun m n => fmPut m n { result := 5 }) s.integ.results
    let s := { s with lnt := { s.lnt with stopping := true }, integ := { s.integ with results := res, waiting := order, testing := [] } }
    .next (endRun (fillTests s))

/-- A record kind that a test of a slice may write (R557). -/
def sliceKind (n k : Nat) : Bool :=
  if n < 16 then k = 1 || k = 2 || k = 4
  else if n < 40 then k = 3 || k = 5
  else if n < 74 then k = 7
  else if n < 90 then k = 6
  else if n < 98 then k = 4
  else k = 9

/-- A slice's test has ended: results, records, cursor; the next slices of a shut-down run start (R553 to R557). -/
def sliceEnds (s : State) (n us result cursor : Nat) (fails : List (Nat × Nat × Nat × Nat)) : State :=
  let serv := !s.lnt.stopping
  let src := if serv then 1 else 0
  let s := fails.foldl (fun s f =>
    recordFailure s { kind := f.1, source := src, slice := n, sub := f.2.1, address := f.2.2.1, bit := f.2.2.2 }) s
  let s := if 3 ≤ result then recordFailure s { kind := 8, source := src, slice := n } else s
  let s := if result = 1 then
      refreshRepair { s with integ := { s.integ with records := s.integ.records.map fun x =>
        if x.kind = 8 && x.slice = n && x.state ≤ 1 then { x with state := 2 } else x } }
    else s
  let cur := if 16 ≤ n && n < 40 then cursor % 4096 else 0
  let g := s.integ
  let res : SliceRes := { result := result, records := fails.length + (if 3 ≤ result then 1 else 0), duration := us, cursor := cur }
  let s := { s with integ := { g with
    results := fmPut g.results n res
    cursors := if 16 ≤ n && n < 40 then fmPut g.cursors (n - 16) cur else g.cursors
    testing := g.testing.filter (· ≠ n)
    passed := if serv && 90 ≤ n && n < 98 then
        (if result = 1 then (n - 90) :: g.passed.filter (· ≠ n - 90) else g.passed.filter (· ≠ n - 90))
      else g.passed } }
  let s := setF (setF s rLntSelftestStatus fLntSelftestStatusResult result) rLntSelftestStatus fLntSelftestStatusSlice n
  let s := if n < 16 then zeroFlight s n else s
  if serv then
    raiseF (setF s rLntSelftestStatus fLntSelftestStatusBusy (if s.integ.testing.isEmpty then 0 else 1)) rLntIntegEvents fLntIntegEventsTestDone
  else endRun (fillTests s)

/-- SLICE_TEST_DONE (R553 to R556). -/
def execSliceTestDone (slice us : Nat) (fails : List (Nat × Nat × Nat × Nat)) (s : State) : Out :=
  guardUnit (slice < 101) <|
  if !s.integ.testing.contains slice || !fails.all (fun f => sliceKind slice f.1) then .next s
  else .next (sliceEnds (latchRaised s) slice us (if fails.isEmpty then 1 else 2) 0 fails)

/-- SLICE_BUDGET_EXPIRY (R553, R554): untested, or partial with the cursor where the sweep stopped. -/
def execSliceBudgetExpiry (slice us cursor : Nat) (fails : List (Nat × Nat × Nat × Nat)) (s : State) : Out :=
  guardUnit (slice < 101) <|
  if !s.integ.testing.contains slice || !fails.all (fun f => sliceKind slice f.1) then .next s
  else .next (sliceEnds (latchRaised s) slice us (if 16 ≤ slice && slice < 40 then 4 else 3) cursor fails)

end Sys2Proof.Machine
end

