-- ==== Sys2Proof/Machine/Start.lean ====
section
/-! DEFINITION. Resets and start-up (R34 to R36, R52, R53, R258, R309, R341, R403, R414, R435, R461, R481, R527 to R539,
R558, R593, R599 to R607): the reset triggers, the stages of start-up, journal replay, domain resets, temperatures and the
core rail. -/

namespace Sys2Proof.Machine

/-! ## Warm reset, phases W1 to W3 (R530) -/

/-- Every register takes what a warm reset leaves in it (R13). -/
def warmRegs (s : State) : State :=
  { s with regs := s.regs.foldl (fun m p => fmSet regReset m p.1 (BitVec.ofNat 64 (regWarm p.1 p.2.toNat))) [] }

/-- Open and pending transactions are rolled back (R75). -/
def dropTxns (s : State) (open' : List Nat) : State :=
  open'.foldl (fun s sc => raiseF (closeTxn s sc) (rXfmEvents sc) fXfmEventsDiscarded) s

/-- A port keeps nothing across a reset of its domain. -/
def resetLinks (o : Oriel) : Oriel :=
  { o with ports := [], through := [], lasers := o.lasers.map fun p => (p.1, { present := p.2.present, fault := p.2.fault }) }

/-- The reorder store is emptied, and with it what has come of a reduction message that is not whole: no segment of either
is acknowledged, so all are sent again (R355, R410, R414). -/
def dropParts (c : Ctx) : Ctx :=
  if c.whole.isNone && 0 < c.parts then { c with reorder := [], msg := [], parts := 0 } else { c with reorder := [] }

/-- The state that phases W1 to W3 leave: engines stopped, memory in self-refresh, every switched domain reset. -/
def warmCore (s : State) (cause : Nat) : State :=
  let l := s.lnt
  let txns := (List.range 9).filter fun sc => xState s sc ≠ 0 || xBusy s sc
  let live := [(rLntTherm, regGet s rLntTherm)]
  let pin := getF s rLntPresence fLntPresencePin
  let osc := getF s rLntStatus fLntStatusOsc
  let n := warmRegs s
  let n := live.foldl (fun n p => regSet n p.1 p.2) n
  let n := setF (setF n rLntPresence fLntPresencePin pin) rLntStatus fLntStatusOsc osc
  let n := memZero (memZero n (galleryBase 0) 0x10000000) (landingBase 0) 0x10000000
  let up := (List.range 24).filter (chanHealthy n)
  let n := { n with
    treads := []
    und := { n.und with
      gcache := [], checkCache := [], moverSlots := [], moverWait := [], selfRefresh := up
      ds := up.foldl (fun m c => fmPut m c (0, true)) n.und.ds }
    integ := { n.integ with testing := [], waiting := [] }
    orl := { resetLinks n.orl with ctxs := n.orl.ctxs.map fun p => (p.1, dropParts p.2) }
    mez := {}
    pci := { (pcieReset n).pci with answers := false, up := s.pci.up && !l.perst }
    msixMasked := []
    lnt := { l with warm := true, stopping := false } }
  let n := if someChannel n then n else
    { n with queues := n.queues.map fun p => if p.1 / 64 = 8 then (p.1, { p.2 with cmds := [] }) else p }
  let n := dropTxns n txns
  let n := setF (setF n rLntStatus fLntStatusStage 2) rLntStatus fLntStatusLevel 0
  bumpF (setF n rLntStatus fLntStatusCause cause) rLntStatus fLntStatusWarmCount 1

/-- A trigger of a warm reset (R528, R530): one of lower or equal rank than the reset under way changes nothing, nor does
one before the firmware runs, nor PERST# before management service has begun. -/
def warmReset (s : State) (cause : Nat) : State :=
  let l := s.lnt
  if !l.railUp || l.heldCode.isSome || l.off then s
  else if l.warm then (if cause < getF s rLntStatus fLntStatusCause then warmCore (latchRaised s) cause else s)
  else if getF s rLntStatus fLntStatusStage < 4 || (cause = 4 && getF s rLntStatus fLntStatusLevel = 0) then s
  else warmCore (latchRaised s) cause

/-! ## Journal replay (R309, R341, R414, R435, R461, R481, R531) -/

/-- A source of the command lies in an explicit buffer, whose contents are gone. -/
def lostSource (c : Cmd) : Bool := inGallery c.job.reads
/-- A job from its start: nothing issued, done or summed. -/
def freshJob (j : Job) : Job :=
  { j with next := 0, done := [], reissue := [], grp := [], buf := [], amax := 0, presented := false, norm := {}, taken := [] }
/-- Items that were taken and are not done are issued again. -/
def resumeJob (j : Job) : Job :=
  { j with reissue := (List.range j.next).filter fun i => !j.done.contains i, grp := [] }

/-- A slot of a replayed batch that becomes a hole with cause 8 (R435). -/
def gonePicture (s : State) (e : List Byte) : Bool :=
  if slKind e = 2 then
    let v := getStream s (slStream e)
    (List.range (slFrames e)).any fun i =>
      let p := (slSrc e + i) % 2 ^ 32
      (fmFind v.pics p).isSome && fmFind v.bufs (bufIndex v.bytes p) ≠ some p
  else 0 < slLen e && inGallery [(slSrc e, slLen e)]

/-- A batch from its start: device bytes zero, then the holes (R435). -/
def replayBatch (s : State) (r : CmdRef) (c : Cmd) : State :=
  let n := c.job.total
  let s := (List.range n).foldl (fun s i => memPut s (c.o0 + 128 + 32 * i + 24) (zeros 8)) s
  let s := updJob s r fun j => { j with done := [], groupsDone := [], buf := [], taken := [] }
  (List.range n).foldl (fun s i =>
    match findCmd s r with
    | some c => if c.st = .dispatched && gonePicture s (mfSlot c.job.rec2 i) then holeSlot s r c i 8 else s
    | none => s) s

/-- Decode contexts await random access, and pictures in pipes go back to the front of their queue (R461). -/
def replayStreams (s : State) : State :=
  let s := (s.frz.pipes.filter fun p => p.1 < 8).foldl (fun s p =>
    let v := getStream s p.2.ctx
    setStream s p.2.ctx { v with todo := (p.2.cmd, p.2.pic, 0) :: v.todo }) s
  s.frz.ctxs.foldl (fun s p =>
    let v := getStream s p.1
    if v.st ≠ 0 && !srEnc v.bytes then setStream s p.1 { v with wait := true } else s)
    { s with frz := { s.frz with pipes := s.frz.pipes.filter fun p => 8 ≤ p.1 } }

/-- An ENCODE_PICTURE ends as an abort would end it, and runs again as a random-access point (R461). -/
def replayEncode (s : State) (r : CmdRef) (c : Cmd) : State :=
  let k := bitsOf c.o0 0 8
  let n := match s.frz.pipes.find? fun p => p.2.cmd = r with
    | some p => some p.2.pic
    | none => ((getStream s k).todo.find? fun t => t.1 = r).map fun t => t.2.1
  let s := abortEncode s r c
  match n with
  | some n => setStream s k { getStream s k with todo := (getStream s k).todo ++ [(r, n, s.clock)] }
  | none => s

/-- A dispatched command starts again, under the rules of its owning chapter (R481): off-loads and prefetches from their
first page with their guards (R309), sources in explicit buffers lost (R341), batches and pictures as their chapters say;
exchanges between devices go on, their segments being sent again (R414). -/
def replayCmd (s : State) (r : CmdRef) (c : Cmd) : State :=
  let fresh (s : State) : State := updJob s r freshJob
  let lost (s : State) : State := endCmd s r 0x21 0 0 (if infoAsCopy c.opcode then c.o0 % 2 ^ 48 else 0)
  let void (s : State) : State := match c.opcode with
    | 0x18 => killHeader s c.o2 c.o3
    | 0x1B => killHeader s (pkDst c) (pkCap c)
    | _ => s
  match c.opcode with
  | 0x0A => if lostSource c then lost (setHdState s c.o0 3) else fresh (openHandle s r c)
  | 0x0B => updJob (fresh s) r fun j => { j with aux := [] }
  | 0x18 | 0x1B | 0x1C => if lostSource c then lost (void s) else fresh (void s)
  | 0x08 | 0x09 => if cpRemote c = 0 then fresh s else s
  | 0x01 | 0x02 | 0x15 => fresh s
  | 0x03 => if (attOf c.job.rec1).ring = 0 then fresh s else updJob s r resumeJob
  | 0x21 => updJob s r resumeJob
  | 0x28 => replayBatch s r c
  | 0x2D => replayEncode s r c
  | _ => s

/-- The opcode of a command that starts again from its beginning, so that an outcome with no completion record does not stand
(R309, R341, R435, R481). -/
def startsAgain (s : State) (c : Cmd) : Bool :=
  match c.opcode with
  | 0x01 | 0x02 | 0x0A | 0x15 | 0x18 | 0x1B | 0x1C | 0x28 => true
  | 0x03 => (attOf c.job.rec1).ring = 0
  | 0x08 | 0x09 => cpRemote c = 0
  | 0x0B => hdState s c.o0 = 2
  | _ => false
/-- A command that had ended with no completion record, an abort apart: tested at dispatch again where it never dispatched,
running again where it starts again, else with its outcome (R481, R482; log 252). -/
def reopenCmd (s : State) (r : CmdRef) (c : Cmd) : State :=
  if c.st ≠ .ended || c.code = 4 || c.opcode = 0x30 then s
  else if c.order = 0 then updCmd s r fun c => { c with st := .accepted, code := 0, check := 0, extent := 0, info := 0 }
  else if startsAgain s c then updCmd s r fun c => { c with st := .dispatched, code := 0, check := 0, extent := 0, info := 0 }
  else s
/-- QUEUED counts the blocks of the commands that go on (R324, R325); a retiring slot that none of them names is free. -/
def requeueSlots (s : State) : State :=
  let s := (List.range 8).foldl (fun s h => (scopeCmds s h).foldl (fun s p =>
    if p.2.st = .recorded then s else queueSlots h p.2.job.uses s) s) s
  (List.range 8).foldl (fun s h => (List.range 4).foldl (fun s i => xtabUnqueue s h i 0) s) s

/-- Final entries that were written and not passed are written again in their slots, then those that wait (R481). -/
def replayQueue (s : State) (p : Nat × Nat) : State :=
  let st := rCmdQStatus p.1 p.2
  let tail := getF s st fCmdQStatusCqTail
  let ph := getF s st fCmdQStatusCqPhase
  let s := ((getQ s p.1 p.2).unpassed.filter fun u => u.2.kind = 0).foldl (fun s u =>
    store s (getF s (rCmdCq p.1 p.2) fCmdCqBase + 32 * u.1) (entryBytes u.2 (if u.1 < tail then ph else 1 - ph))) s
  flushHeld s p.1 p.2

/-- Queues that are not disabled. -/
def liveQueues (s : State) : List (Nat × Nat) :=
  ((List.range 9).flatMap fun sc => (List.range 64).map fun q => (sc, q)).filter fun p =>
    getF s (rCmdQStatus p.1 p.2) fCmdQStatusState ≠ 0

/-- Phase W8: unverified records go (R531), commands start again, contexts send what is not acknowledged, queues return or
wait for RESUME (R481). -/
def replay (s : State) (unverified : List CmdRef) : State :=
  let s := { s with queues := s.queues.map fun (p : Nat × Queue) =>
    (p.1, { p.2 with cmds := p.2.cmds.filter fun c => !unverified.contains ⟨p.1 / 64, p.1 % 64, c.seq⟩ }) }
  let s := { s with orl := { s.orl with ctxs := s.orl.ctxs.map fun (p : Nat × Ctx) =>
    (p.1, { p.2 with out := p.2.out.map fun g => { g with sent := false } }) } }
  let s := requeueSlots (replayStreams s)
  let s := (List.range 8).foldl (fun s h => (scopeCmds s h).foldl (fun s p => reopenCmd s p.1 p.2) s) s
  let s := (List.range 8).foldl (fun s h => (scopeCmds s h).foldl (fun s p =>
    if p.2.st = .dispatched then replayCmd s p.1 p.2 else s) s) s
  let s := suspendQueues s (hostQueues s)
  let s := ((liveQueues s).filter fun p => !ringInHost s p.1 p.2).foldl replayQueue s
  let s := { s with lnt := { s.lnt with warm := false } }
  raiseF s rLntEvents fLntEventsWarmDone

/-! ## Stages (R535, R536) -/

def stageOf (s : State) : Nat := getF s rLntStatus fLntStatusStage
def setStage (s : State) (n : Nat) : State := setF s rLntStatus fLntStatusStage n
/-- Held in reset with a code (R35, R536): configuration space answers once the PCIe controller and lanes have passed. -/
def holdReset (s : State) (code : Nat) : State :=
  let answers := stageOf s ≥ 2 && code ≠ 4 && code ≠ 5
  { setF s rLntStatus fLntStatusLevel 0 with lnt := { s.lnt with heldCode := some code }, pci := { s.pci with answers := answers } }

/-- COLD_RST_N deasserts: the straps are sampled, and a test instruction leaves the port in Test-Logic-Reset (R593,
R597). -/
def releaseCold (s : State) : State :=
  { s with lnt := { s.lnt with coldRst := false, straps := s.lnt.strapPins, tap := if 3 ≤ s.lnt.tap then 8 else s.lnt.tap } }

/-- Stage 0: always-on storage is read; slots beyond the flash present are empty (R596); a cold-reset input that is
released lets the straps be sampled (R593, R597). -/
def stage0 (s : State) : State :=
  let s := if s.lnt.coldRst then releaseCold s else s
  let s := [(false, 0), (false, 1), (true, 0), (true, 1)].foldl (fun s p =>
    if (slotImage s p.1 p.2).isNone then setSlotState s p.1 p.2 0 else s) s
  let s := if s.integ.records.any (·.bad) then raiseF s rLntIntegEvents fLntIntegEventsRecordBad else s
  setStage s 1

/-- Stage 1: rails and clocks are good; the domains that are always on are powered (R517, R518). -/
def stage1 (s : State) : State := setStage ([16, 17, 18, 21, 23].foldl (fun s d => setDomain s d true) s) 2

/-- Code of a Newel unit that a record of kind 9 names (R536, R555). -/
def newelCode (s : State) : Option Nat :=
  if named s 9 98 then some 6 else if named s 9 99 then some 4 else if named s 9 100 then some 8 else none

/-- Cores of stage 2 (R502, R535): those that records name or that fail are retired; the lowest of the others boots. -/
def stageCores (s : State) (bad : List Nat) : State :=
  let was := getF s rMezStatus fMezStatusRetired
  let out (c : Nat) : Bool := bitOf was c || named s 6 (74 + c) || bad.contains c
  let good := (List.range 16).filter fun c => !out c
  let new := (List.range 16).filter fun c => out c && !bitOf was c
  let s := setF s rMezStatus fMezStatusWorking (maskOf' good)
  let s := setF s rMezStatus fMezStatusRetired (maskOf' ((List.range 16).filter out))
  let s := setF s rMezStatus fMezStatusBoot (good.headD 0)
  let s := (List.range 16).foldl (fun s c => setF s (rMezCoreStatus c) fMezCoreStatusState (if out c then 3 else 1)) s
  let s := (new.filter fun c => !named s 6 (74 + c)).foldl (fun s c => addRecord s { kind := 6, source := 3, slice := 74 + c }) s
  let s := markApplied s fun x => x.kind = 6
  if new.isEmpty then s else new.foldl reroute (raiseF s rMezEvents fMezEventsRetired)

/-- Stage 2: the Newel test. -/
def stage2 (s : State) (bad : List Nat) : State :=
  match newelCode s with
  | some code => holdReset s code
  | none =>
    let s := if s.lnt.warm then [16, 17, 18, 21, 23].foldl (fun s d => setDomain s d true) s else s
    let s := stageCores s bad
    if (workingCores s).isEmpty then holdReset s 7 else setStage s 3

/-- A slot loads: it is valid and its image passes (R53). -/
def slotLoads (s : State) (fw : Bool) (slot : Nat) : Option (List Byte) :=
  if slotState s fw slot ≠ 1 then none
  else
    match slotImage s fw slot with
    | some b => if (imageCheck s fw b).isNone then some b else none
    | none => none
/-- A valid slot whose image fails checks 1 to 8 is marked invalid (R52, R53). -/
def judgeSlot (s : State) (fw : Bool) (slot : Nat) : State :=
  if slotState s fw slot = 1 && (slotLoads s fw slot).isNone then setSlotState s fw slot 2 else s

/-- Firmware of a slot starts (R53, R497, R535). -/
def startFirmware (s : State) (slot fallback : Nat) (b : List Byte) : State :=
  let s := setF (setF s rMezFw fMezFwActive slot) rMezFw fMezFwFallback fallback
  let s := setF s rMezFw fMezFwVersion (imSerial b)
  startCores (loadFirmware { s with lnt := { s.lnt with fwManifest := imSigned b } } b true) b

/-- The link is not awaited: stage 4 is over (R34, R535). -/
def serviceBegins (s : State) : State :=
  setStage (setF { s with pci := { s.pci with up := true, answers := true } } rLntStatus fLntStatusLevel 1) 5

/-- Stage 4 begins: configuration space answers (R535). -/
def toStage4 (s : State) : State := { setStage s 4 with pci := { s.pci with answers := true } }
/-- Stage 3: firmware, loaded under R53; after a warm reset checked against its image (W5) and started again. -/
def stage3 (s : State) : State :=
  if s.lnt.warm then
    let s := match slotImage s true (activeSlot s true) with
      | some b => startCores (loadFirmware s b false) b
      | none => s
    if s.pci.up then serviceBegins s else toStage4 s
  else
    let p := s.lnt.prefFw
    match slotLoads s true p with
    | some b => toStage4 (startFirmware s p 0 b)
    | none =>
      let s := judgeSlot s true p
      match slotLoads s true (1 - p) with
      | some b => toStage4 (startFirmware s (1 - p) 1 b)
      | none => holdReset (judgeSlot s true (1 - p)) 9

/-- Extents of a channel that pending or applied records name. -/
def chanBadExts (s : State) (c : Nat) : Nat := ((badExts s).filter fun k => k / 4096 = c).length

/-- What the training of a channel finds; of a channel that is not named, a good stack at 48 Gb/s. -/
def trainedAs (tr : List (Nat × Training)) (c : Nat) : Training := (tr.lookup c).getD {}
/-- A channel fails its self-test: it trains at no rate, or its stack reports a count other than 16 (R258, R260). -/
def trainFails (t : Training) : Bool := 3 ≤ t.rate || t.dies ≠ some 15
/-- A channel trains and its die count is read with DSB 1: SPEED, DIES, the die select (R257, R259, R260). -/
def trainChan (tr : List (Nat × Training)) (s : State) (c : Nat) : State :=
  let t := trainedAs tr c
  let st := rUndChanStatus c
  let s := setF s st fUndChanStatusDies (match t.dies with | some n => n % 16 + 1 | none => 0)
  let s := setF s st fUndChanStatusSpeed (if t.rate < 3 then t.rate else 0)
  { s with und := { s.und with ds := fmPut s.und.ds c (0, true) } }

/-- Stage 5 (R258, R289, R535, R558): channels train; those that records name or that fail are retired. -/
def stage5 (s : State) (tr : List (Nat × Training)) : State :=
  let out (c : Nat) : Bool := named s 5 (16 + c) || 64 < chanBadExts s c || trainFails (trainedAs tr c)
  let s := (List.range 24).foldl (trainChan tr) s
  let s := (List.range 24).foldl (fun s c =>
    if out c then
      let s := setF s (rUndChanStatus c) fUndChanStatusState 2
      let s := if named s 5 (16 + c) then s else addRecord s { kind := 5, source := 3, slice := 16 + c }
      raiseF (raiseF s rUndEvents fUndEventsRetiring) rUndEvents fUndEventsRetired
    else s) s
  setStage (refreshUnd (markApplied s fun x => x.kind = 5 || x.kind = 3)) 6

/-- Phase W6: channels leave self-refresh and train again; one that fails retires (R257, R258, R530). -/
def warm6 (s : State) (tr : List (Nat × Training)) : State :=
  let up := (List.range 24).filter (chanHealthy s)
  let s := { s with und := { s.und with selfRefresh := [] } }
  let s := setF s rUndStatus fUndStatusZeroing (if s.und.zeroing.isEmpty then 0 else 1)
  let s := up.foldl (trainChan tr) s
  let s := up.foldl (fun s c => if trainFails (trainedAs tr c) then retireChannel s c 3 else s) s
  setStage (refreshUnd s) 6

/-- Places of the system region under a structure's reserve (R252, R290, R558). -/
def placeSystem (s : State) (st : FMap (List Byte)) : State :=
  { placeFresh { s with run := st } sysRegion.keys with run := s.run }

/-- A structure slot loads: checks 1 to 8, then 9 to 17 (R50, R53). -/
def structLoads (s : State) (slot : Nat) : Option (List Byte) :=
  match slotLoads s false slot with
  | some b => if (checkRest (placeSystem s (imStruct b)) (imStruct b)).isNone then some b else none
  | none => none
/-- The structure of a slot comes into force at start-up (R40, R53). -/
def startStruct (s : State) (slot fallback : Nat) (b : List Byte) : State :=
  let s := enforce (placeSystem s (imStruct b)) (imStruct b)
  let s := (List.range 9).foldl (fun s k => setF s (rXfmGen k) fXfmGenGeneration 0) s
  let s := setF (setF s rXfmSlot fXfmSlotActive slot) rXfmSlot fXfmSlotFallback fallback
  let s := setF s rXfmSlot fXfmSlotActiveSerial (imSerial b)
  let s := (List.range 8).foldl (fun s h => setH s h { getH s h with wake := false }) s
  { s with lnt := { s.lnt with imgManifest := imSigned b } }

/-- Stage 6: the structure image under R53; with none, no hall is defined, FALLBACK is 0, ACTIVE and ACTIVE_SERIAL keep their
values (log 117), and the system region alone is placed (R36). -/
def stage6 (s : State) : State :=
  let p := s.lnt.prefImg
  let s := match structLoads s p with
    | some b => startStruct s p 0 b
    | none =>
      let s := judgeSlot s false p
      match structLoads s (1 - p) with
      | some b => startStruct s (1 - p) 1 b
      | none =>
        let s := setF (judgeSlot s false (1 - p)) rXfmSlot fXfmSlotFallback 0
        refreshUnd (placeFresh s sysRegion.keys)
  setStage s 8

/-- Phase W7: halls and their registers follow the running structure again (R39, R530). -/
def warm7 (s : State) : State :=
  let s := (List.range 8).foldl (fun s h =>
    if !hallDefined s.run h then s
    else
      let s := setF s (rUndHallLocal h) fUndHallLocalExt (ownedExts (regions s) h)
      let s := setF s (rUndHallLocal h) fUndHallLocalQuota (leAt (quotaOf s.run h) 0 4)
      let s := (flightsOf s.run h).foldl (fun s f =>
        (List.range 8).foldl (fun s i => setF s (rTrdStatus (8 * f + i)) fTrdStatusHall h) s) s
      wakeHall (setH s h { getH s h with asleep := hallGenerates s.run h }) h) s
  setStage s 7

/-- Stage 8: the remaining records are applied, blocks that fail are isolated, the Oriel, its modules and the media domain
come up, halls wake; the start has completed (R535, R555, R558, R559, R599). -/
def stage8 (s : State) (badBlocks : List Nat) : State :=
  let s := (List.range 16).foldl applySram s
  let s := (List.range 16).foldl (fun s f => if named s 4 f && flightWorking s f then isolateFlight s f false else s) s
  let s := (List.range 8).foldl (fun s b => if named s 4 (90 + b) then isolateBlock s b else s) s
  let s := (List.range 34).foldl (fun s p => if named s 7 (40 + p) then failPort s p else s) s
  let s := markApplied s fun x => x.kind = 4 || x.kind = 7
  let s := (badBlocks.filter (· < 8)).foldl (fun s b => isolateBlock (addRecord s { kind := 4, source := 3, slice := 90 + b }) b) s
  let s := setF s rMezStatus fMezStatusSharedL2 (if blockIsolated s 7 then 0 else 1)
  let s := setMedia (applyOriel s) false
  let s := if orielOn s 0 then (List.range 5).foldl (fun s m => setLaser s m { getLaser s m with en := true }) s else s
  let s := (List.range 8).foldl (fun s h => if hallDefined s.run h then wakeHall s h else s) s
  freeCleared (refreshLevel (setStage s 0xF))

/-- Codes of R536 that a stage may find. -/
def stageCode (n code : Nat) : Bool :=
  (n = 0 && code = 1) || (n = 1 && (code = 2 || code = 3)) || (n = 2 && (code = 4 || code = 5 || code = 6 || code = 8))

/-- START_UP_STAGE (R535, R536): the work of the current stage ends, with what it found; the next stage begins. -/
def execStartUpStage (fail : Option Nat) (badCores : List Nat) (trained : List (Nat × Training)) (badBlocks : List Nat)
    (unverified : List CmdRef) (s : State) : Out :=
  let n := stageOf s
  if !s.lnt.railUp || s.lnt.off || s.lnt.heldCode.isSome || n = 0xF then .next s
  else
    match fail with
    | some code => .next (if stageCode n code then holdReset (if code = 3 then raiseF s rLntStatus fLntStatusOsc else s) code else s)
    | none =>
      match n with
      | 0 => .next (stage0 s)
      | 1 =>
        if isF s rLntStatus fLntStatusOsc then .next (holdReset s 3)
        else .next (if s.lnt.pgIo && s.lnt.pgCore then stage1 s else s)
      | 2 => .next (stage2 s badCores)
      | 3 => .next (stage3 s)
      | 4 => .next (if s.lnt.perst then s else serviceBegins s)
      | 5 => .next (if s.lnt.warm then warm6 s trained else stage5 s trained)
      | 6 => .next (if s.lnt.warm then warm7 s else stage6 s)
      | 7 => .next (setStage (replay s unverified) 8)
      | _ => .next (if s.lnt.hot then s else stage8 s badBlocks)

/-! ## Triggers (R528, R534, R537, R593, R603, R604) -/

/-- POWER_ON (R528, R578, R593): the Lantern rail comes up; the straps are sampled, the LFSR is seeded. -/
def execPowerOn (straps : Nat) (s : State) : Out :=
  if s.lnt.railUp then .next s
  else
    let (v, s) := takeFree s
    let s := coldReset { s with lnt := { s.lnt with railUp := true } } 0
    .next { s with lnt := { s.lnt with
      lfsr := v.toNat % 2 ^ 16, sealOut := bitOf v.toNat 0, mism := 0, matched := 0, armed := true
      strapPins := straps % 16, straps := straps % 16, tap := 8 } }

/-- LANTERN_RAIL_LOSS (R563, R604): everything stops; always-on storage stays. -/
def execLanternRailLoss (s : State) : Out :=
  .next (if s.lnt.railUp then { wipe s with lnt := { (wipe s).lnt with railUp := false } } else s)

/-- POWER_GOOD_FALL (R528, R604): one cold reset, whichever inputs fall. -/
def execPowerGoodFall (io core : Bool) (s : State) : Out :=
  let falls := (io && s.lnt.pgIo) || (core && s.lnt.pgCore)
  let s := { s with lnt := { s.lnt with pgIo := s.lnt.pgIo && !io, pgCore := s.lnt.pgCore && !core } }
  .next (if falls && s.lnt.railUp then coldReset s 1 else s)

/-- POWER_GOOD_RISE (R603, R604): PG_CORE while PG_IO is low holds the device in reset. -/
def execPowerGoodRise (io core : Bool) (s : State) : Out :=
  let wrong := core && !s.lnt.pgCore && !(s.lnt.pgIo || io)
  let s := { s with lnt := { s.lnt with pgIo := s.lnt.pgIo || io, pgCore := s.lnt.pgCore || core } }
  .next (if wrong && s.lnt.railUp then holdReset s 2 else s)

/-- COLD_RESET_INPUT (R528): the input is asserted; it is released when stage 0 goes on. -/
def execColdResetInput (s : State) : Out :=
  .next (if s.lnt.railUp && !s.lnt.coldRst then coldReset { s with lnt := { s.lnt with coldRst := true } } 2 else s)

/-- Software can write a Lantern register: the firmware runs or BAR0 is enabled (R35, R539). -/
def lntWritable (s : State) : Bool := s.lnt.railUp && !s.lnt.off && s.lnt.heldCode.isNone

/-- LNT_COLD_RESET (R528, R529). -/
def execLntColdReset (s : State) : Out := .next (if lntWritable s then coldReset s 3 else s)
/-- LNT_WARM_RESET (R528, R530). -/
def execLntWarmReset (s : State) : Out := .next (warmReset s 5)

/-- PERST_ASSERT (R490, R528): the link is down; a warm reset once management service has begun. -/
def execPerstAssert (s : State) : Out :=
  let s := { s with lnt := { s.lnt with perst := true }, pci := { s.pci with up := false } }
  .next (warmReset s 4)

/-- PERST_DEASSERT (R537): the link may train. -/
def execPerstDeassert (s : State) : Out := .next { s with lnt := { s.lnt with perst := false } }

/-- LANTERN_WATCHDOG_EXPIRY (R534). -/
def execLanternWatchdogExpiry (s : State) : Out :=
  .next (if isF s rLntWdog fLntWdogEnable && !(workingCores s).isEmpty then warmReset s 6 else s)
/-- LANTERN_WATCHDOG_KICK (R534): the period starts again; its count is not state of the model. -/
def execLanternWatchdogKick (s : State) : Out := .next s

/-- REFERENCE_CLOCK_LOSS (R516). -/
def execReferenceClockLoss (s : State) : Out := .next (if s.lnt.railUp then raiseF s rLntStatus fLntStatusOsc else s)

/-! ## Domain reset (R533) -/

/-- Registers of a range of BAR0 offsets take what their Reset marks leave. -/
def resetRange (s : State) (lo n : Nat) : State :=
  { s with regs := (fmRange s.regs lo n).foldl (fun m p => fmSet regReset m p.1 (BitVec.ofNat 64 (regWarm p.1 p.2.toNat))) s.regs }

/-- A domain reset is allowed (R533). -/
def domainFree (s : State) (d : Nat) : Bool :=
  if d < 16 then !flightWorking s d
  else if d = 19 || d = 20 then (List.range' (17 * (d - 19)) 17).all fun p => portSpare s p || portState s p = 2
  else
    d = 22 && !(s.frz.ctxs.any fun p => p.2.st ≠ 0)
      && (List.range 8).all fun h => (activeCmds s h).all fun p => !opMedia p.2.opcode

/-- The reset of one Oriel half: its ports train again; Oriel A also holds the modules' link (R29, R533). -/
def resetHalf (s : State) (k : Nat) : State :=
  let s := resetRange s (rOrlPortCtl (17 * k)) (16 * 17)
  let s := (List.range' (17 * k) 17).foldl (fun s p => setPort s p {}) s
  if k = 0 then resetRange s (rOrlLaser 0) 40 else s

/-- DOMAIN_RESET (R533). -/
def execDomainReset (dom : Nat) (s : State) : Out :=
  guardUnit (dom < 32) <| whileServed s <|
  if !domainFree s dom then .next (raiseF s rLntEvents fLntEventsRefused)
  else
    let s := setF (latchRaised s) rLntDomainCtl fLntDomainCtlDomain dom
    if dom < 16 then .next (flightOff (resetRange (zeroFlight s dom) (0x1000000 + 0x100000 * dom) 0x80020) dom)
    else if dom = 22 then .next (setMedia (resetRange (resetRange s 0x600000 0x1000) 0x700000 0x1000) true)
    else .next (resetHalf s (dom - 19))

/-! ## Temperatures and the core rail (R526, R527, R601, R606, R607) -/

/-- A temperature as LNT_THERM holds it. -/
def tempBits (t : Int) : Nat := (t % 256).toNat
/-- Flights of a storey die that run go to 470 MHz, or back (R526). -/
def throttle (s : State) (die : Nat) (t : Int) : State :=
  (List.range' (4 * die) 4).foldl (fun s f => if fltState s f ≠ 2 then s else throttleFlight s f t) s

/-- The start-up waits for the dies to cool, or no longer does (R527). -/
def setHot (s : State) (b : Bool) : State := { s with lnt := { s.lnt with hot := b } }
/-- THERMAL_SAMPLE (R526, R527, R606): storey dies 0 to 3, Atrium, hottest photonic engine. -/
def execThermalSample (temps : List Int) (s : State) : Out :=
  if temps.length ≠ 6 || !s.lnt.railUp then .next s
  else
    let t (i : Nat) : Int := temps.getD i 0
    let s := [(fLntThermStorey0, 0), (fLntThermStorey1, 1), (fLntThermStorey2, 2), (fLntThermStorey3, 3), (fLntThermAtrium, 4),
      (fLntThermPhotonic, 5)].foldl (fun s p => setF s rLntTherm p.1 (tempBits (t p.2))) s
    let s := (List.range 4).foldl (fun s d => throttle s d (t d)) s
    let trip := (List.range 4).any (fun d => decide (110 ≤ t d)) || decide (105 ≤ t 4)
    let cool := (List.range 4).all (fun d => decide (t d < 100)) && decide (t 4 < 95)
    if trip && !s.lnt.hot then
      let w := warmReset s 7
      .next (if w.lnt.warm then setHot w true else w)
    else .next (setHot s (s.lnt.hot && !cool))

/-- CRITICAL_TEMPERATURE (R607). -/
def execCriticalTemperature (s : State) : Out := .next (raiseF s rLntTherm fLntThermCrit)
/-- CRITICAL_TEMPERATURE_CLEAR (R607). -/
def execCriticalTemperatureClear (s : State) : Out := .next (setF s rLntTherm fLntThermCrit 0)

/-- The fused set point in mV (R600, R601). -/
def setPoint : Nat := 720 + Config.vidFuse.val
/-- VID_STEP (R601): one step of 5 mV toward the set point from stage 1 on; a regulator that fails leaves the boot voltage. -/
def execVidStep (ok : Bool) (s : State) : Out :=
  if !s.lnt.railUp || stageOf s = 0 || s.lnt.vidDone || s.lnt.off || s.lnt.heldCode.isSome then .next s
  else if ok then
    let v := s.lnt.vout
    let v' := if v < setPoint then min (v + 5) setPoint else max (v - 5) setPoint
    .next { s with lnt := { s.lnt with vout := v', vidDone := v' = setPoint } }
  else
    let half := decide (800 < setPoint)
    let s := raiseF s rLntTherm fLntThermVidFail
    let s := { s with lnt := { s.lnt with vout := 800, vidDone := true, vidHalf := half } }
    .next (if half then (List.range 16).foldl (fun s f =>
      if fltState s f = 2 then setF s (rFltPwrStatus f) fFltPwrStatusHalf 1 else s) s else s)

end Sys2Proof.Machine
end

