-- ==== Sys2Proof/Machine/Access.lean ====
section
/-! DEFINITION. Register accesses (R10 to R17, R465, R472, R507 to R513, R521, R575, R608, R618, R622): what a read
returns and clears, what a write changes and triggers, for the host's functions and for the Mezzanine cores. -/

namespace Sys2Proof.Machine

/-- Who makes an access: a PCIe function, PF 0 as 0 and VF n as n, or a Mezzanine core. -/
inductive Who where
  | host (fn : Nat)
  | core (c : Nat)
  deriving DecidableEq, Repr

/-- The function an access counts as: a core acts for PF 0. -/
def Who.fn : Who → Nat
  | .host fn => fn
  | .core _ => 0
/-- The requester is core `c` itself (R512). -/
def Who.own (w : Who) (c : Nat) : Bool := w = .core c

/-- Offset in register space of an offset in a function's BAR0 (R465). -/
def barOffset (fn off : Nat) : Nat := if fn = 0 then off else 0x100000 + 0x10000 * (fn - 1) + off
/-- The offset lies inside the function's BAR0 (R465). -/
def inBar (fn off size : Nat) : Bool := fn < 10 && off + size ≤ (if fn = 0 then 0x4000000 else 0x10000)
/-- Size and alignment of R10. -/
def wellFormed (off size : Nat) : Bool := (size = 4 || size = 8) && off % size = 0

/-! ## Which register an address names -/

/-- Scope and queue of a queue register. -/
def queueOf (r : Nat) : Option (Nat × Nat) :=
  let o := r - 0x100000
  if 0x100000 ≤ r && o < 0x90000 && o % 0x10000 < 0x1000 then some (o / 0x10000, o % 0x10000 / 0x40) else none
/-- A register is implemented: its block has it, and a queue's registers only below the scope's queue count (R12,
R471). -/
def implemented (s : State) (r : Nat) : Bool :=
  !(regFields r).isEmpty && match queueOf r with | some (k, q) => q < scopeQueues s k | none => true
/-- Core and source of an ICU_SRC register. -/
def icuOf (r : Nat) : Option (Nat × Nat) :=
  if 0x280000 ≤ r && r < 0x290000 then some (0, (r - 0x280000) / 8)
  else if 0x290000 ≤ r && r < 0x2A0000 && 0x200 ≤ (r - 0x290000) % 0x1000 then
    some ((r - 0x290000) / 0x1000, 960 + ((r - 0x290000) % 0x1000 - 0x200) / 8)
  else none
/-- A register of core `c`'s part of the interrupt controller at a given offset. -/
def icuCoreOf (r off : Nat) : Option Nat :=
  if 0x290000 ≤ r && r < 0x2A0000 && (r - 0x290000) % 0x1000 = off then some ((r - 0x290000) / 0x1000) else none
/-- The flight of a tread or flight register other than FLT_PWR_STATUS (R521). -/
def flightOf (r : Nat) : Option Nat :=
  if 0x1000000 ≤ r && r < 0x2000000 && (r - 0x1000000) % 0x100000 ≠ 0x80000 then some ((r - 0x1000000) / 0x100000) else none
/-- The hall that an access of a tread or flight register wakes: its flight works and does not run (R521). -/
def wakes (s : State) (r : Nat) : Option Nat :=
  match flightOf r with
  | some f => if flightWorking s f && fltState s f ≠ 2 then flightHall s.run f else none
  | none => none
/-- DMI address of an offset in the debug window (R575). -/
def dmiOf (r : Nat) : Option Nat := if 0x240000 ≤ r && r < 0x250000 then some ((r - 0x240000) / 8) else none

/-! ## Reads -/

/-- Batches dispatched and not complete. -/
def batches (s : State) : Nat := ((List.range 8).map fun h => (activeCmds s h).countP fun p => p.2.opcode = 0x28).foldl (· + ·) 0
/-- FRZ_STATUS as its contexts and pipes stand. -/
def frzStatus (s : State) : Nat :=
  let busy (lo n : Nat) : Nat := maskOf' ((List.range n).filter fun i => (fmFind s.frz.pipes (lo + i)).isSome)
  busy 0 8 + 2 ^ 8 * busy 8 2 + 2 ^ 16 * (s.frz.ctxs.countP fun p => p.2.st ≠ 0)
    + 2 ^ 32 * ceilDiv (liveRate s false) 1000000 + 2 ^ 48 * ceilDiv (liveRate s true) 1000000
/-- FRZ_CTX_STATUS and FRZ_CTX_OUT of the selected context. -/
def frzCtxStatus (s : State) : Nat :=
  let v := getStream s (getF s rFrzCtxSel fFrzCtxSelCtx)
  if v.st = 0 then 2 ^ 8 * 0xF
  else
    v.st + (if srEnc v.bytes then 4 else 0) + (if srLive v.bytes then 8 else 0) + (if v.wait then 16 else 0) + 2 ^ 8 * (v.hall % 16)
      + 2 ^ 16 * (v.nextRec % 2 ^ 32) + 2 ^ 48 * min v.missing 0xFFFF
def frzCtxOut (s : State) : Nat :=
  let v := getStream s (getF s rFrzCtxSel fFrzCtxSelCtx)
  v.outWrite % 2 ^ 32 + 2 ^ 32 * (v.outRead % 2 ^ 32)
/-- ICU_SRC with its entry, its ENABLE, its line and whether it is pending (R505, R506). -/
def icuSrcView (s : State) (c n : Nat) : Nat :=
  let v := regGet s (rIcuSrc c n)
  let e := (irqEntry s.run c n).getD []
  let put (v : Nat) (f : Fld) (x : Nat) : Nat := setBits v f.lo f.w x
  put (put (put (put (put v fIcuSrcPriority (irqPrio e)) fIcuSrcTarget (irqTarget e)) fIcuSrcEnable (if srcEnabled s c n then 1 else 0))
    fIcuSrcPending (if srcPending s c n then 1 else 0)) fIcuSrcLine (if srcLine s c n then 1 else 0)

/-- What all 64 bits of an implemented register read as. -/
def regView (s : State) (r : Nat) : Nat :=
  if r = rFoyStatus then setBits (regGet s r) fFoyStatusBatches.lo fFoyStatusBatches.w (batches s)
  else if r = rFrzStatus then frzStatus s
  else if r = rFrzCtxStatus then frzCtxStatus s
  else if r = rFrzCtxOut then frzCtxOut s
  else if r = rOrlFwdCtl then
    getF s r fOrlFwdCtlIndex + 2 ^ 32 * fmGet (fun _ => 0xFFFFFFFF) s.orl.fwd (getF s r fOrlFwdCtlIndex)
  else
    match icuOf r, icuCoreOf r 0x18 with
    | some (c, n), _ => icuSrcView s c n
    | none, some c =>
      if (qualifying s c).isEmpty then regGet s r
      else setBits (regGet s r) fIcuCoreStatusRaised.lo fIcuCoreStatusRaised.w 1
    | none, none => regGet s r

/-- A read clears whole every RC field that shares a bit with the bytes read (R16): bits `lo` to `lo + n - 1`. -/
def clearRc (s : State) (r lo n : Nat) : State :=
  (regFields r).foldl (fun s f => if f.acc = .rc && f.lo < lo + n && lo < f.lo + f.w then setF s r f 0 else s) s

/-- The value a command left in the answer. -/
def respValue : Resp → Nat
  | .value _ v => v
  | _ => 0
/-- The next state of an outcome. -/
def nextOf (o : Out) (s : State) : State :=
  match o with
  | .next t => t
  | _ => s

/-- A well-formed read of register space: the state after it and the value, or nothing while the access wakes a hall
(R10, R12, R16, R508, R512, R521, R575). -/
def regRead (w : Who) (off size : Nat) (s : State) : State × Option Nat :=
  let r := off / 8 * 8
  let lo := off % 8 * 8
  let part (v : Nat) : Nat := bitsOf v lo (8 * size)
  if !implemented s r then (s, some 0)
  else
    match wakes s r with
    | some h => (wakeHall s h, none)
    | none =>
      match icuCoreOf r 0, dmiOf r with
      | some c, _ =>
        if w.own c then
          let t := nextOf (execIcuClaim c s) s
          (t, some (part (respValue t.resp)))
        else (s, some 0)
      | none, some a =>
        let t := nextOf (execDebugDmiAccess a none s) s
        (t, some (part (respValue t.resp)))
      | none, none => (clearRc s r lo (8 * size), some (part (regView s r)))

/-! ## Writes -/

/-- A write: the register, its value and its mask over the register's 64 bits. -/
structure Wr where
  r : Nat
  v : Nat
  m : Nat
  deriving DecidableEq, Repr

/-- Bits written as 1 in a field. -/
def Wr.ones (w : Wr) (f : Fld) : Nat := bitsOf w.v f.lo f.w &&& bitsOf w.m f.lo f.w
/-- A one-bit field is written as 1. -/
def Wr.set (w : Wr) (f : Fld) : Bool := w.ones f ≠ 0
/-- A field's lowest bit is among those written. -/
def Wr.covers (w : Wr) (f : Fld) : Bool := bitOf w.m f.lo
/-- The write is one 64-bit access. -/
def Wr.whole (w : Wr) : Bool := w.m = 2 ^ 64 - 1

/-- A field under its access code (R14). -/
def putField (w : Wr) (s : State) (f : Fld) : State :=
  let old := getF s w.r f
  let m := bitsOf w.m f.lo f.w
  match f.acc with
  | .rw => setF s w.r f ((old ^^^ (old &&& m)) ||| w.ones f)
  | .w1c => setF s w.r f (old ^^^ (old &&& w.ones f))
  | .w1s => setF s w.r f (old ||| w.ones f)
  | _ => s
/-- Every field of the register under its access code, but for those whose write is an action. -/
def putFields (w : Wr) (skip : List Fld) (s : State) : State :=
  ((regFields w.r).filter fun f => !skip.contains f).foldl (putField w) s

/-- Do an action where a condition holds. -/
def actIf (c : Bool) (f : State → Out) (s : State) : State := if c then nextOf (f s) s else s

/-- XFM_CTL, XFM_STAGE_DATA and XFM_STAGE_BULK_CTL (R57, R59, R61, R64, R76, R78). -/
def writeXfm (w : Wr) (s : State) : State :=
  let sc := (w.r - 0x800000) / 0x1000
  if w.r = rXfmSlotConfirm then actIf (w.set fXfmSlotConfirmConfirm) execXfmSlotConfirm s
  else if w.r = rXfmCtl sc then
    if !w.whole then badWrite s sc
    else
      match w.ones fXfmCtlOp with
      | 1 => nextOf (execXfmBegin sc s) s
      | 2 => nextOf (execXfmCommitStepBoundary sc s) s
      | 3 => nextOf (execXfmCommitImmediate sc s) s
      | 4 => nextOf (execXfmRollBack sc s) s
      | _ => badWrite s sc
  else if w.r = rXfmStageData sc then
    if w.whole then nextOf (execStageDataWrite sc (BitVec.ofNat 64 w.v) s) s else badWrite s sc
  else if w.r = rXfmStageBulkCtl sc then
    if w.whole then nextOf (execStageBulkWrite sc (BitVec.ofNat 64 w.v) s) s else badWrite s sc
  else putFields w [] s

/-- Registers of a tread or flight (R144, R550). -/
def writeFlight (w : Wr) (f : Nat) (s : State) : State :=
  let t := 8 * f + (w.r - 0x1000000) % 0x100000 / 0x10000
  if w.r = rFltIsolate f then
    let s := putFields w [fFltIsolateIsolate] s
    if !w.covers fFltIsolateIsolate then s
    else if w.set fFltIsolateIsolate then nextOf (execFlightIsolate f (w.set fFltIsolateForce) s) s
    else nextOf (execFlightUnisolate f s) s
  else if (w.r - 0x1000000) % 0x100000 < 0x80000 && w.r = rTrdIsolate t then
    if !w.covers fTrdIsolateIsolate then s
    else if w.set fTrdIsolateIsolate then
      let s := actIf (!isF s (rTrdIsolate t) fTrdIsolateIsolate) (execTreadIsolate t) s
      actIf (w.set fTrdIsolateForce) (execTreadForce t 0) s
    else nextOf (execTreadUnisolate t s) s
  else putFields w [] s

/-- Queue registers (R472, R473, R622). -/
def writeQueue (who : Who) (w : Wr) (sc q : Nat) (s : State) : State :=
  let fn := who.fn
  let st := getF s (rCmdQStatus sc q) fCmdQStatusState
  if !queueWriter s fn sc q then countMalformed s
  else if w.r = rCmdQCtl sc q then
    if !w.covers fCmdQCtlEnable then s
    else
      let s := nextOf (execQueueEnable fn sc q (w.set fCmdQCtlEnable) s) s
      let s := actIf (w.set fCmdQCtlRestart) (execQueueRestart fn sc q none) s
      actIf (w.set fCmdQCtlResume) (execQueueResume fn sc q (w.ones fCmdQCtlHead)) s
  else if w.r = rCmdSq sc q || w.r = rCmdCq sc q then
    if st = 0 || st = 3 then putFields w [] s else countMalformed s
  else if w.r = rCmdQSeq sc q then
    if st = 0 && queueIdle s sc q then putFields w [] s else countMalformed s
  else s

/-- Oriel registers (R386, R389, R394, R397, R399, R403). -/
def writeOriel (w : Wr) (s : State) : State :=
  let p := (w.r - 0x400100) / 0x10
  let m := (w.r - 0x400400) / 8
  if w.r = rOrlDevice then
    actIf (w.covers fOrlDeviceDevice) (execDeviceNumberWrite (w.ones fOrlDeviceDevice)) s
  else if w.r = rOrlFwdCtl then
    let s := putFields w [fOrlFwdCtlEntry] s
    if w.covers fOrlFwdCtlEntry then
      { s with orl := { s.orl with
        fwd := fmSet (fun _ => 0xFFFFFFFF) s.orl.fwd (getF s w.r fOrlFwdCtlIndex) (w.ones fOrlFwdCtlEntry) } }
    else s
  else if p < 34 && w.r = rOrlPortCtl p then
    let s := actIf (w.covers fOrlPortCtlRole) (execPortRoleWrite p (w.set fOrlPortCtlRole)) s
    actIf (w.set fOrlPortCtlRetrain) (execPortRetrain p) s
  else if m < 5 && w.r = rOrlLaser m then
    let s := actIf (w.set fOrlLaserRelease) (execLaserRelease m) s
    actIf (w.set fOrlLaserRestore) (execLaserRestore m) s
  else putFields w [] s

/-- DLV_CTX_CTL (R400, R402, R404, R412): an operation on the context that INDEX now names. -/
def writeDlv (w : Wr) (s : State) : State :=
  let s := putFields w [] s
  if w.r ≠ rDlvCtxCtl then s
  else
    match w.ones fDlvCtxCtlOp with
    | 0 => s
    | 1 => nextOf (execContextRead s) s
    | 2 => nextOf (execContextOpen s) s
    | 3 => nextOf (execContextClose s) s
    | 4 => nextOf (execContextEvict s) s
    | 5 => nextOf (execContextFree s) s
    | _ => badOp s

/-- Interrupt-controller registers (R507, R509, R512, R513). -/
def writeIcu (who : Who) (w : Wr) (s : State) : State :=
  match icuOf w.r, icuCoreOf w.r 8 with
  | some (c, n), _ =>
    let s := putFields w [] s
    let s := actIf (w.set fIcuSrcSet) (execIcuSet c n) s
    actIf (w.set fIcuSrcClr) (execIcuClr c n) s
  | none, some c => if who.own c && w.covers fIcuCompleteId then nextOf (execIcuComplete c (w.ones fIcuCompleteId) s) s else s
  | none, none => putFields w [] s

/-- Mezzanine registers (R500 to R502, R575). -/
def writeMez (w : Wr) (s : State) : State :=
  let c := (w.r - 0x200100) / 0x10
  match dmiOf w.r with
  | some a => if w.covers ⟨0, 1, .rw, 0, false⟩ then nextOf (execDebugDmiAccess a (some (BitVec.ofNat 32 w.v)) s) s else s
  | none =>
    if w.r = rMezFwConfirm then actIf (w.set fMezFwConfirmConfirm) execMezFwConfirm s
    else if 0x200100 ≤ w.r && c < 16 && w.r = rMezCoreCtl c then
      let s := actIf (w.set fMezCoreCtlKick) (execCoreKick c) s
      actIf (w.set fMezCoreCtlRetire) (execCoreRetire c []) s
    else putFields w [] s

/-- One block of LNT_BLOCK_ISOLATE (R551). -/
def writeBlock (w : Wr) (s : State) (b : Nat) : State :=
  if bitOf (w.ones fLntBlockIsolateBlocks) b then nextOf (execBlockIsolate b s) s else nextOf (execBlockReturn b s) s

/-- Lantern registers (R528, R533, R534, R539, R551, R556). -/
def writeLnt (w : Wr) (s : State) : State :=
  if w.r = rLntReset then
    if w.set fLntResetCold then nextOf (execLntColdReset s) s
    else if w.set fLntResetWarm then nextOf (execLntWarmReset s) s
    else actIf (w.set fLntResetShutdown) execLntShutdown s
  else if w.r = rLntWdog then actIf (w.set fLntWdogKick) execLanternWatchdogKick (putFields w [] s)
  else if w.r = rLntDomainCtl then
    if w.set fLntDomainCtlReset then nextOf (execDomainReset (w.ones fLntDomainCtlDomain) s) s else putFields w [] s
  else if w.r = rLntSelftestCtl then
    if !w.set fLntSelftestCtlRun then putFields w [] s
    else
      let n := w.ones fLntSelftestCtlSlice
      nextOf (execSelftestRun n (if runOk s n then putFields w [] s else s)) s
  else if w.r = rLntBlockIsolate then
    if w.covers fLntBlockIsolateBlocks then (List.range 8).foldl (writeBlock w) s else s
  else putFields w [] s

/-- A write of an implemented register. -/
def regPut (who : Who) (w : Wr) (s : State) : State :=
  match queueOf w.r with
  | some (sc, q) => writeQueue who w sc q s
  | none =>
    if w.r < 0x1000 then writeLnt w s
    else if 0x200000 ≤ w.r && w.r < 0x250000 then writeMez w s
    else if 0x280000 ≤ w.r && w.r < 0x2A0000 then writeIcu who w s
    else if 0x300100 ≤ w.r && w.r < 0x300700 && (w.r - 0x300100) % 0x40 = 8 then
      actIf (w.set fUndChanCtlRetire) (execChannelRetire ((w.r - 0x300100) / 0x40)) (putFields w [] s)
    else if 0x400000 ≤ w.r && w.r < 0x401000 then writeOriel w s
    else if 0x480000 ≤ w.r && w.r < 0x481000 then writeDlv w s
    else if w.r = rFrzCtxOut then
      actIf (w.covers fFrzCtxOutOutRead) (execOutReadWrite (BitVec.ofNat 32 (w.ones fFrzCtxOutOutRead))) s
    else if 0x800000 ≤ w.r && w.r < 0x809000 then writeXfm w s
    else if 0x1000000 ≤ w.r && w.r < 0x2000000 then writeFlight w ((w.r - 0x1000000) / 0x100000) s
    else putFields w [] s

/-- A well-formed write of register space: the state after it, and whether it is complete; an access that wakes a hall
completes once the flight runs (R521). -/
def regWrite (who : Who) (off size : Nat) (data : DWord) (s : State) : State × Bool :=
  let r := off / 8 * 8
  let lo := off % 8 * 8
  if !implemented s r then (s, true)
  else
    match wakes s r with
    | some h => (wakeHall s h, false)
    | none =>
      let m := (2 ^ (8 * size) - 1) * 2 ^ lo
      (regPut who ⟨r, data.toNat % 2 ^ (8 * size) * 2 ^ lo, m⟩ (latchRaised s), true)

/-! ## The host's accesses -/

/-- A host read: all ones while BAR0 is not enabled, all ones and counted where malformed (R10 to R12, R16, R465). -/
def hostRead (fn off size : Nat) (s : State) : State :=
  if !barOpen s then { s with resp := .ones size }
  else if !wellFormed off size then { countMalformed s with resp := .ones size }
  else
    let (t, v) := regRead (.host fn) (barOffset fn off) size s
    match v with
    | some x => { t with resp := .value size x }
    | none => { t with resp := .nothing }
/-- The scope of XFM_CTL, XFM_STAGE_DATA or XFM_STAGE_BULK_CTL whose bytes an access meets. -/
def xfmHit (off size : Nat) : Option Nat :=
  (List.range 9).find? fun k => [rXfmCtl k, rXfmStageData k, rXfmStageBulkCtl k].any fun r => overlap off size r 8
/-- A host write; one of another form than R10's is discarded and counted, and sets BAD_WRITE where it meets a register
that takes 64-bit writes alone (R11, R78). -/
def hostWrite (fn off size : Nat) (data : DWord) (s : State) : State :=
  let s := { s with resp := .nothing }
  if !barOpen s then s
  else if !wellFormed off size then
    match xfmHit (barOffset fn off) size with
    | some k => badWrite (countMalformed s) k
    | none => countMalformed s
  else (regWrite (.host fn) (barOffset fn off) size data s).1

/-- REGISTER_WRITE (R14). -/
def execRegisterWrite (fn off size : Nat) (data : DWord) (s : State) : Out :=
  guardUnit (inBar fn off size) (.next (hostWrite fn off size data s))

/-- REGISTER_READ (R14, R521). -/
def execRegisterRead (fn off size : Nat) (s : State) : Out :=
  guardUnit (inBar fn off size) (.next (hostRead fn off size s))

/-- RC_REGISTER_READ (R14, R16). -/
def execRcRegisterRead (fn off size : Nat) (s : State) : Out :=
  guardUnit (inBar fn off size) (.next (hostRead fn off size s))

/-- MALFORMED_REGISTER_ACCESS (R11): an access of another size or alignment; a well-formed one is not this command and
changes nothing. -/
def execMalformedRegisterAccess (wr : Bool) (fn off size : Nat) (s : State) : Out :=
  guardUnit (inBar fn off size) <|
  if wellFormed off size then .next s
  else if wr then .next (hostWrite fn off size 0 s)
  else .next (hostRead fn off size s)

end Sys2Proof.Machine
end

