-- ==== Sys2Proof/Machine/Board.lean ====
section
/-! DEFINITION. What the board sees of the device: the sideband (R594, R595, R615, R616), boundary scan (R597), and the
levels that the Lantern drives (R535 to R539, R607, R617). -/

namespace Sys2Proof.Machine

/-! ## Levels of the lands -/

/-- STAT[3:0]: the held-in-reset code, else the stage (R535, R536). -/
def statPins (s : State) : Nat := s.lnt.heldCode.getD (stageOf s)
/-- FAULT_N is low (R536). -/
def faultLow (s : State) : Bool := s.lnt.heldCode.isSome
/-- READY is high (R537). -/
def readyHigh (s : State) : Bool := stageOf s = 0xF && s.lnt.heldCode.isNone && !s.lnt.off
/-- PWROFF_OK is high (R539). -/
def pwroffHigh (s : State) : Bool := s.lnt.off
/-- CRIT_N is low (R607). -/
def critLow (s : State) : Bool := isF s rLntTherm fLntThermCrit
/-- BMC_ALERT_N is low: a die is at or above its throttle limit (R606, R617). -/
def alertLow (s : State) : Bool :=
  [fLntThermStorey0, fLntThermStorey1, fLntThermStorey2, fLntThermStorey3].any (fun f => decide (100 ≤ therm s f))
    || decide (95 ≤ therm s fLntThermAtrium)

/-! ## The sideband -/

/-- STATUS_READ (R595): 8 bytes, whenever the Lantern's rail is powered. -/
def execStatusRead (s : State) : Out :=
  .next (if s.lnt.railUp then { s with resp := .bytes (leBytes 4 (statusWord s) ++ leBytes 4 (incarnation s)) }
    else { s with resp := .nothing })

/-- MCTP and PLDM services run (R594). -/
def sideband (s : State) : Bool := s.lnt.railUp && 4 ≤ stageOf s && s.lnt.heldCode.isNone && !s.lnt.off
/-- A request's answer, where the services run. -/
def answer (s : State) (r : Resp) : Out := .next { s with resp := if sideband s then r else .nothing }
/-- A completion code or operational state alone. -/
def pldmSays (k : Nat) : Resp := .bytes [Config.pldmCode k]

/-- MCTP_CONTROL_MESSAGE (R594). -/
def execMctpControlMessage (msg : List Byte) (s : State) : Out :=
  if sideband s then
    let r := Config.mctpControl msg s.lnt.eid
    .next { s with resp := .bytes r.1, lnt := { s.lnt with eid := r.2 } }
  else .next { s with resp := .nothing }

/-- Commands that the device serves of PLDM type 0, base, and type 2 (R615; numbers of DSP0240 and DSP0248, log 71). -/
def pldmServed (pldm cmd : Nat) : Bool :=
  (pldm = 0 && 1 ≤ cmd && cmd ≤ 5) || (pldm = 2 && (cmd = 0x50 || cmd = 0x51 || cmd = 0x11 || cmd = 0x21))

/-- UNSUPPORTED_MCTP_MESSAGE (R594, R615): another message type is discarded; another PLDM type or command is answered with
an error. A message that is supported is not this command. -/
def execUnsupportedMctpMessage (ty pldm cmd : Nat) (s : State) : Out :=
  if ty = 0 || (ty = 1 && pldmServed pldm cmd) then .next s
  else if ty ≠ 1 then .next { s with resp := .nothing }
  else answer s (pldmSays (if pldm = 0 || pldm = 2 then 2 else 1))

/-- GET_TID (R615). -/
def execGetTid (s : State) : Out := answer s (.value 1 s.lnt.tid)
/-- SET_TID (R615). -/
def execSetTid (tid : Nat) (s : State) : Out :=
  guardUnit (tid < 256) <|
  if !sideband s then .next { s with resp := .nothing }
  else if Config.tidOk tid then .next { s with resp := pldmSays 0, lnt := { s.lnt with tid := tid } }
  else .next { s with resp := pldmSays 6 }
/-- GET_PLDM_VERSION (R615). -/
def execGetPldmVersion (ty : Nat) (s : State) : Out :=
  answer s (if ty = 0 || ty = 2 then .bytes (Config.pldmVersion ty) else pldmSays 1)
/-- GET_PLDM_TYPES (R615). -/
def execGetPldmTypes (s : State) : Out := answer s (.bytes Config.pldmTypes)
/-- GET_PLDM_COMMANDS (R615). -/
def execGetPldmCommands (ty : Nat) (s : State) : Out :=
  answer s (if ty = 0 || ty = 2 then .bytes (Config.pldmCommands ty) else pldmSays 1)

/-- Defined halls with their tags, which the PDR repository shows (R616). -/
def hallNames (s : State) : List (Nat × Nat) :=
  ((List.range 8).filter (hallDefined s.run)).map fun h => (h, hallTag s.run h)
/-- The name of a hall: "hall", its number, a space, its tag in 16 upper-case hexadecimal digits (R616). -/
def hallName (h tag : Nat) : List Byte :=
  let digit (d : Nat) : Byte := BitVec.ofNat 8 (if d < 10 then 0x30 + d else 0x37 + d)
  [0x68, 0x61, 0x6C, 0x6C, BitVec.ofNat 8 (0x30 + h), 0x20] ++ (List.range 16).map fun i => digit (bitsOf tag (60 - 4 * i) 4)
/-- The names that the Entity Auxiliary Names PDRs carry. -/
def pdrNames (s : State) : List (Nat × List Byte) := (hallNames s).map fun p => (p.1, hallName p.1 p.2)

/-- GET_PDR_REPOSITORY_INFO (R615, R616). -/
def execGetPdrRepositoryInfo (s : State) : Out := answer s (.bytes (Config.pdrInfo (pdrNames s)))
/-- GET_PDR (R615, R616). -/
def execGetPdr (handle : Nat) (s : State) : Out :=
  answer s (match Config.pdrRecord (pdrNames s) handle with | some b => .bytes b | none => pldmSays 4)

/-- Data size in bytes of a numeric sensor; none for the state sensor and for an ID that names no sensor (R615). -/
def sensorSize (n : Nat) : Option Nat :=
  if 1 ≤ n && n ≤ 6 then some 1
  else if n = 7 || n = 8 then some 2
  else if 10 ≤ n && n ≤ 14 then some 1
  else if 16 ≤ n && n < 24 then some 4
  else none

/-- GET_SENSOR_READING (R615): the reading as last refreshed. -/
def execGetSensorReading (sensor : Nat) (s : State) : Out :=
  answer s <|
    match sensorSize sensor, (fmFind s.lnt.sensors sensor).getD none with
    | none, _ => pldmSays 3
    | some n, some v => .value n (v % (2 ^ (8 * n) : Nat)).toNat
    | some _, none => pldmSays 5

/-- GET_STATE_SENSOR_READINGS (R615): sensor 9, the level of service. -/
def execGetStateSensorReadings (sensor : Nat) (s : State) : Out :=
  answer s <|
    if sensor ≠ 9 then pldmSays 3
    else
      match (fmFind s.lnt.sensors 9).getD none with
      | some v => .value 1 (v % 256).toNat
      | none => pldmSays 5

/-- What every sensor's source answers now; READ_VOUT and READ_IOUT come with the command (R601, R615). -/
def sensorNow (s : State) (vout iout : Option Nat) (n : Nat) : Option Int :=
  let count (l : List Nat) (p : Nat → Bool) : Option Int := some (l.countP p : Nat)
  match n with
  | 1 => some (therm s fLntThermStorey0)
  | 2 => some (therm s fLntThermStorey1)
  | 3 => some (therm s fLntThermStorey2)
  | 4 => some (therm s fLntThermStorey3)
  | 5 => some (therm s fLntThermAtrium)
  | 6 => some (therm s fLntThermPhotonic)
  | 7 => vout.map Int.ofNat
  | 8 => iout.map Int.ofNat
  | 9 => some (getF s rLntStatus fLntStatusLevel : Nat)
  | 10 => count (List.range 24) (chanHealthy s)
  | 11 => count (List.range 16) (flightWorking s)
  | 12 => count (List.range 34) fun p => !portSpare s p && portState s p = 1
  | 13 => count (List.range 5) fun m => laserState s m = 1
  | 14 => some ((workingCores s).length : Nat)
  | _ =>
    let h := n - 16
    if 16 ≤ n && n < 24 && hallDefined s.run h then some (getF s (rClsHallEpoch h) fClsHallEpochEpoch : Nat) else none

/-- SENSOR_REFRESH (R615). -/
def execSensorRefresh (vout iout : Option Nat) (s : State) : Out :=
  .next (if s.lnt.railUp then
      { s with lnt := { s.lnt with
        sensors := (List.range' 1 14 ++ List.range' 16 8).foldl (fun m n => fmPut m n (sensorNow s vout iout n)) s.lnt.sensors } }
    else s)

/-! ## Boundary scan (R597) -/

/-- Load an instruction: a test instruction acts as BYPASS unless COLD_RST_N is asserted. -/
def tapLoad (s : State) (n : Nat) : State :=
  { s with lnt := { s.lnt with tap := if 3 ≤ n && !s.lnt.coldRst then 0 else n } }

/-- BYPASS. -/
def execBypass (s : State) : Out := .next (tapLoad s 0)
/-- IDCODE: the code is shifted out. -/
def execIdcode (s : State) : Out :=
  .next { tapLoad s 1 with resp := .value 4 (0x1 * 2 ^ 28 + 0x0940 * 2 ^ 12 + Config.jep106.toNat * 2 + 1) }
/-- SAMPLE/PRELOAD. -/
def execSamplePreload (s : State) : Out := .next (tapLoad s 2)
/-- EXTEST. -/
def execExtest (s : State) : Out := .next (tapLoad s 3)
/-- EXTEST_PULSE. -/
def execExtestPulse (s : State) : Out := .next (tapLoad s 4)
/-- EXTEST_TRAIN. -/
def execExtestTrain (s : State) : Out := .next (tapLoad s 5)
/-- CLAMP. -/
def execClamp (s : State) : Out := .next (tapLoad s 6)
/-- HIGHZ. -/
def execHighz (s : State) : Out := .next (tapLoad s 7)
/-- TEST_LOGIC_RESET: COLD_RST_N deasserts with a test instruction loaded; at any other time the state is entered as IEEE
1149.1 says. -/
def execTestLogicReset (s : State) : Out :=
  .next (if s.lnt.coldRst && 3 ≤ s.lnt.tap then releaseCold s else { s with lnt := { s.lnt with tap := 8 } })

end Sys2Proof.Machine
end

