-- ==== Sys2Proof/Machine/CoreCmd.lean ====
section
/-! DEFINITION. Instructions of the Mezzanine cores (R7, R493 to R496, R250, R512): fetch, loads, stores and cache
management over the coherent caches, accesses to register space, and traps. What RV64GCV makes of an instruction word is
Config's (log 70). -/

namespace Sys2Proof.Machine

/-- First byte of register space (R7). -/
def regSpace : Nat := 0x030000000000
/-- The range begins in register space. -/
def inRegSpace (a : Nat) : Bool := regSpace ≤ a && a < regSpace + 0x4000000
/-- A core executes: it works, its firmware has started, and no reset holds it (R35, R493, R530, R535). -/
def coreRuns (s : State) (c : Nat) : Bool :=
  coreWorking s c && 4 ≤ stageOf s && s.lnt.railUp && !s.lnt.off && s.lnt.heldCode.isNone

/-! ## Caches (R494) -/

/-- Lines that a range touches, by address ÷ 64. -/
def linesOf (a n : Nat) : List Nat := if n = 0 then [] else List.range' (a / 64) ((a + n - 1) / 64 - a / 64 + 1)
/-- Local memory holds a range and delivers it: backed, nothing lost (R250, R251, R292, R293). -/
def coreReach (s : State) (a n : Nat) : Bool := backed s a n && (goneIn s a n).isNone
/-- A load or fetch that delivers no data raises the core's cache-error source, be the error one of its caches or one of the
Undercroft (R495, R514; log 245). -/
def cacheUe (s : State) (c : Nat) (e : ReadErr) : State :=
  match e with
  | .sram _ | .uncorrectable _ | .dataLost _ => raiseF (raiseF s (rMezCoreStatus c) fMezCoreStatusCacheUe) rMezEvents fMezEventsCacheUe
  | _ => s
/-- What an access outside that leaves: a burst that no copy delivers is recorded (R286), and a load or fetch of it raises the
core's source. -/
def coreMissed (s : State) (c a n : Nat) (load : Bool) : State :=
  match goneIn s a n with
  | some (e, x) => if load then cacheUe (recordErr s e x) c e else recordErr s e x
  | none => s
/-- Bring a line in for a core. -/
def fillLine (c : Nat) (s : State) (ln : Nat) : State :=
  let s := if (fmFind s.mez.lines ln).isSome then s else driveRange s false (64 * ln) 64
  let l := (fmFind s.mez.lines ln).getD { data := memBytes s (64 * ln) 64 }
  { s with mez := { s.mez with lines := fmPut s.mez.lines ln { l with core := c } } }
/-- A byte as the caches hold it, else as memory does. -/
def cacheByte (s : State) (a : Nat) : Byte :=
  match fmFind s.mez.lines (a / 64) with
  | some l => l.data.getD (a % 64) 0
  | none => memGet s a
/-- Bytes as the caches hold them. -/
def cacheBytes (s : State) (a n : Nat) : List Byte := (List.range n).map fun i => cacheByte s (a + i)
/-- Write one byte into a line that is held. -/
def linePut (s : State) (a : Nat) (b : Byte) : State :=
  match fmFind s.mez.lines (a / 64) with
  | some l =>
    { s with mez := { s.mez with lines := fmPut s.mez.lines (a / 64) { l with data := l.data.set (a % 64) b, dirty := true } } }
  | none => s
/-- Write bytes into lines that are held. -/
def cacheStore (s : State) (a : Nat) (bs : List Byte) : State := bs.zipIdx.foldl (fun s p => linePut s (a + p.2) p.1) s
/-- cbo.clean, cbo.inval and cbo.flush of a line (R494). -/
def cboLine (s : State) (kind ln : Nat) : State :=
  match fmFind s.mez.lines ln with
  | none => s
  | some l =>
    let s := if kind ≠ 3 && l.dirty then lineBack s ln l.data else s
    { s with mez := { s.mez with
      lines := if kind = 2 then fmPut s.mez.lines ln { l with dirty := false } else fmErase s.mez.lines ln } }

/-! ## Accesses -/

/-- What an access ends in: the state and the bytes a load read, a trap with its cause and address, or no answer yet. -/
inductive Acs where
  | done (s : State) (bs : List Byte)
  | trap (s : State) (cause addr : Nat)
  | stall (s : State)

/-- An access to register space (R10 to R12, R494, R521). -/
def coreReg (c : Nat) (write : Bool) (a : Nat) (bs : List Byte) (s : State) : Acs :=
  let off := a - regSpace
  let n := bs.length
  if !wellFormed off n then .done (countMalformed s) (bs.map fun _ => 0xFF)
  else if write then
    match regWrite (.core c) off n (BitVec.ofNat 64 (leNat bs)) s with
    | (s, true) => .done s []
    | (s, false) => .stall s
  else
    match regRead (.core c) off n s with
    | (s, some v) => .done s (leBytes n v)
    | (s, none) => .stall s

/-- One access of an instruction: kind, address, bytes (log 70). -/
def coreAcs (c : Nat) (x : Nat × Nat × List Byte) (s : State) : Acs :=
  let k := x.1
  let a := x.2.1
  let n := x.2.2.length
  let cause := if k = 0 then 5 else 7
  if 2 ≤ k then .done (cboLine s k (a / 64)) []
  else if inRegSpace a then coreReg c (k = 1) a x.2.2 s
  else if !coreReach s a n then .trap (coreMissed s c a n (k = 0)) cause a
  else if unzeroed s a n then .stall s
  else
    let s := (linesOf a n).foldl (fillLine c) s
    if k = 0 then .done s (cacheBytes s a n) else .done (cacheStore s a x.2.2) []

/-- Accesses in order, with the bytes the loads have read. -/
def coreAcsAll (c : Nat) : List (Nat × Nat × List Byte) → State → List Byte → Acs
  | [], s, bs => .done s bs
  | x :: xs, s, bs =>
    match coreAcs c x s with
    | .done s b => coreAcsAll c xs s (bs ++ if x.1 = 0 then b else [])
    | other => other

/-! ## Instructions -/

/-- A corrected cache error is counted and flagged (R514). -/
def cacheCe (s : State) (c n : Nat) : State :=
  if n = 0 then s
  else satF (raiseF s (rMezCoreStatus c) fMezCoreStatusCacheCe) (rMezCoreStatus c) fMezCoreStatusCeCount n
/-- The core takes a trap. -/
def coreTrap (s : State) (c cause addr : Nat) : State :=
  match Config.coreTrap (getCore s c) cause addr with
  | some k => setCore s c k
  | none => s

/-- Run the instruction word at hand: its accesses, and the core's registers (R493, R495). -/
def coreWord (c : Nat) (w : Word) (dataErr : Option ReadErr) (s : State) : State :=
  let k := getCore s c
  let xs := Config.coreAccess k w
  match dataErr, xs.find? fun x => x.1 = 0 && !inRegSpace x.2.1 with
  | some e, some x => coreTrap (cacheUe s c e) c 5 x.2.1
  | _, _ =>
    match coreAcsAll c xs s [] with
    | .done s bs =>
      match Config.coreResult k w bs with
      | some k => if coreWorking s c then setCore s c k else s
      | none => s
    | .trap s cause addr => coreTrap s c cause addr
    | .stall s => s

/-- CORE_INSTRUCTION (R493 to R495): `ce` corrected cache errors; `fetchErr` and `dataErr` are uncorrectable errors met by
the fetch and by the first load. -/
def execCoreInstruction (core ce : Nat) (fetchErr dataErr : Option ReadErr) (s : State) : Out :=
  guardUnit (core < 16) <|
  if !coreRuns s core then .next s
  else
    let s := cacheCe (latchRaised s) core ce
    match Config.coreFetch (getCore s core), fetchErr with
    | none, _ => .next (coreTrap s core 12 (getCore s core).pc.toNat)
    | some a, some e => .next (coreTrap (cacheUe s core e) core 1 a)
    | some a, none =>
      if !coreReach s a 2 || inRegSpace a then .next (coreTrap (coreMissed s core a 2 true) core 1 a)
      else if unzeroed s a 4 then .next s
      else
        let n := if leNat (cacheBytes s a 1) % 4 = 3 then 4 else 2
        if !coreReach s a n then .next (coreTrap (coreMissed s core a n true) core 1 a)
        else
          let s := (linesOf a n).foldl (fillLine core) s
          .next (coreWord core (BitVec.ofNat 32 (leNat (cacheBytes s a n))) dataErr s)

end Sys2Proof.Machine
end

