-- ==== Sys2Proof/Machine/Vector.lean ====
section
/-! DEFINITION. The vector opcodes of R141, each run on a tread whose program stands at that opcode (R138 to R143). -/

namespace Sys2Proof.Machine

/-- VADD (R141): IEEE addition a + b. -/
def execVadd (t : Nat) (s : State) : Out :=
  vecOp t 0x1 s fun s tr i =>
    vecLanes s t tr i fun l => fAdd (vfmt i.w) (vecRm tr i) (laneOf tr i.w i.va l) (laneOf tr i.w i.vb l)

/-- VSUB (R141): IEEE subtraction a − b. -/
def execVsub (t : Nat) (s : State) : Out :=
  vecOp t 0x2 s fun s tr i =>
    vecLanes s t tr i fun l => fSub (vfmt i.w) (vecRm tr i) (laneOf tr i.w i.va l) (laneOf tr i.w i.vb l)

/-- VMUL (R141): IEEE multiplication. -/
def execVmul (t : Nat) (s : State) : Out :=
  vecOp t 0x3 s fun s tr i =>
    vecLanes s t tr i fun l => fMul (vfmt i.w) (vecRm tr i) (laneOf tr i.w i.va l) (laneOf tr i.w i.vb l)

/-- VFMA (R141): fusedMultiplyAdd a × b + c. -/
def execVfma (t : Nat) (s : State) : Out :=
  vecOp t 0x4 s fun s tr i =>
    vecLanes s t tr i fun l => fFma (vfmt i.w) (vecRm tr i) (laneOf tr i.w i.va l) (laneOf tr i.w i.vb l) (laneOf tr i.w i.vc l)

/-- VDIV (R141): division a ÷ b. -/
def execVdiv (t : Nat) (s : State) : Out :=
  vecOp t 0x5 s fun s tr i =>
    vecLanes s t tr i fun l => fDiv (vfmt i.w) (vecRm tr i) (laneOf tr i.w i.va l) (laneOf tr i.w i.vb l)

/-- VSQRT (R141): square root of a. -/
def execVsqrt (t : Nat) (s : State) : Out :=
  vecOp t 0x6 s fun s tr i =>
    vecLanes s t tr i fun l => fSqrt (vfmt i.w) (vecRm tr i) (laneOf tr i.w i.va l)

/-- VREM (R141): IEEE remainder. -/
def execVrem (t : Nat) (s : State) : Out :=
  vecOp t 0x7 s fun s tr i =>
    vecLanes s t tr i fun l => fRem (vfmt i.w) (laneOf tr i.w i.va l) (laneOf tr i.w i.vb l)

/-- VMINN (R141): minimumNumber. -/
def execVminn (t : Nat) (s : State) : Out :=
  vecOp t 0x8 s fun s tr i =>
    vecLanes s t tr i fun l => fMinNum (vfmt i.w) (laneOf tr i.w i.va l) (laneOf tr i.w i.vb l)

/-- VMAXN (R141): maximumNumber. -/
def execVmaxn (t : Nat) (s : State) : Out :=
  vecOp t 0x9 s fun s tr i =>
    vecLanes s t tr i fun l => fMaxNum (vfmt i.w) (laneOf tr i.w i.va l) (laneOf tr i.w i.vb l)

/-- VMIN (R141): minimum. -/
def execVmin (t : Nat) (s : State) : Out :=
  vecOp t 0xa s fun s tr i =>
    vecLanes s t tr i fun l => fMin (vfmt i.w) (laneOf tr i.w i.va l) (laneOf tr i.w i.vb l)

/-- VMAX (R141): maximum. -/
def execVmax (t : Nat) (s : State) : Out :=
  vecOp t 0xb s fun s tr i =>
    vecLanes s t tr i fun l => fMaxi (vfmt i.w) (laneOf tr i.w i.va l) (laneOf tr i.w i.vb l)

/-- VRINT (R141): roundToIntegral under RM. -/
def execVrint (t : Nat) (s : State) : Out :=
  vecOp t 0xc s fun s tr i =>
    vecLanes s t tr i fun l => fRint (vfmt i.w) (vecRm tr i) (laneOf tr i.w i.va l)

/-- VSCALB (R141): scaleB by the integer lanes of b. -/
def execVscalb (t : Nat) (s : State) : Out :=
  vecOp t 0xd s fun s tr i =>
    vecLanes s t tr i fun l => fScalb (vfmt i.w) (vecRm tr i) (laneOf tr i.w i.va l) (sext (laneBits i.w) (laneOf tr i.w i.vb l))

/-- VLOGB (R141): logB. -/
def execVlogb (t : Nat) (s : State) : Out :=
  vecOp t 0xe s fun s tr i =>
    vecLanes s t tr i fun l => fLogb (vfmt i.w) (laneOf tr i.w i.va l)

/-- VCMP (R141): the predicate of IMM on each lane, into mask register VD[2:0]; a lane whose predicate bit is 0 keeps
its mask bit. -/
def execVcmp (t : Nat) (s : State) : Out :=
  vecOp t 0x10 s fun s tr i =>
    let on := (List.range (laneCount i.w)).filter fun l => maskBit tr i.pred l
    let res := on.map fun l =>
      (l, fCmp (vfmt i.w) (Config.cmpPred (bitsOf i.imm 0 4)) (laneOf tr i.w i.va l) (laneOf tr i.w i.vb l))
    let old := (maskOf tr (i.vd % 8)).toNat
    let new := res.foldl (fun m r => setBits m r.1 1 (if r.2.1 then 1 else 0)) old
    let tr := setMask tr (i.vd % 8) (BitVec.ofNat 64 new)
    vecDone s t tr (res.foldl (fun f r => f ||| r.2.2) 0)

/-- VSEL (R141): a where the lane's bit of mask VC[2:0] is 1, else b. -/
def execVsel (t : Nat) (s : State) : Out :=
  vecOp t 0x11 s fun s tr i =>
    vecLanes s t tr i fun l =>
      (if maskBit tr (i.vc % 8) l then laneOf tr i.w i.va l else laneOf tr i.w i.vb l, 0)

/-- VCVT (R141): conversion among binary32, binary64, INT32 and INT64. Lane l of the result comes from lane l of the
source, over the lanes both widths have; lanes a narrower result leaves over are free values where their mask bit is 1
(log 12). -/
def execVcvt (t : Nat) (s : State) : Out :=
  vecOp t 0x12 s fun s tr i =>
    let k := Config.cvtKinds (bitsOf i.imm 0 4)
    let wide (x : Fin 4) : Bool := x.val % 2 = 1
    let n := if wide k.1 || wide k.2 then 32 else 64
    let on := (List.range n).filter fun l => maskBit tr i.pred l
    let res := on.map fun l => (l, vcvtLane k.1.val k.2.val (vecRm tr i) (laneOf tr (wide k.1) i.va l))
    let tr := res.foldl (fun acc r => setLane acc (wide k.2) i.vd r.1 r.2.1) tr
    let (tr, s) := if wide k.1 && !wide k.2 then freeLanes i.vd ((List.range' 32 32).filter (maskBit tr i.pred)) tr s
      else (tr, s)
    vecDone s t tr (res.foldl (fun f r => f ||| r.2.2) 0)

/-- VCLASS (R141): the class of each lane as an integer. -/
def execVclass (t : Nat) (s : State) : Out :=
  vecOp t 0x13 s fun s tr i =>
    vecLanes s t tr i fun l => ((Config.classCode (fClass (vfmt i.w) (laneOf tr i.w i.va l))).toNat, 0)

/-- VTLU (R134, R135, R141): f_0 or f_1 of each lane. A hall whose table failed its CRC ends the command (R136). -/
def execVtlu (t : Nat) (s : State) : Out :=
  vecOp t 0x18 s fun s tr i =>
    let h := (flightHall s.run (t / 8)).getD 0
    let j := bitsOf i.imm 0 1
    if (getH s h).badTables.contains j then endProgram s t 0x13 0
    else vecLanes s t tr i fun l => (tabEval (hallTable s.run h j) (laneOf tr i.w i.va l), 0)

/-- VLD (R142): contiguous elements from the tread's own Landing, widened exactly; an address outside it ends the
command with address-fault. -/
def execVld (t : Nat) (s : State) : Out :=
  vecOp t 0x20 s fun s tr i =>
    let (a, fmt) := (vecAddr tr i, vecFmt i)
    let n := laneCount i.w
    let sz := fmtBits fmt / 8
    if !within a (n * sz) (landingBase t) (landingBase t + 0x200000) then endProgram s t 0x11 a
    else vecLanes s t tr i fun l => widenTo i.w fmt (memNat s (a + l * sz) sz)

/-- VST (R142): contiguous elements to the tread's own Landing, converted under R102 with the conversion control of
IMM; counted under R106, its flags raised under R105. -/
def execVst (t : Nat) (s : State) : Out :=
  vecOp t 0x21 s fun s tr i =>
    let (a, fmt) := (vecAddr tr i, vecFmt i)
    let n := laneCount i.w
    let sz := fmtBits fmt / 8
    if !within a (n * sz) (landingBase t) (landingBase t + 0x200000) then endProgram s t 0x11 a
    else
      let on := (List.range n).filter fun l => maskBit tr i.pred l
      let res := on.map fun l => (l, narrowTo i.w fmt (bitsOf i.imm 9 8) (laneOf tr i.w i.va l))
      let h := (flightHall s.run (t / 8)).getD 0
      let s := res.foldl (fun s r => memPutNat s (a + r.1 * sz) sz r.2.1.bits) s
      let s := countCvts s h (res.map (·.2.1))
      vecDone s t tr (res.foldl (fun f r => f ||| r.2.2) 0)

/-- VRSUM (R141): the sum over the complete binary tree of lane index, each node rounded under RM; a lane whose mask
bit is 0 is absent. The sum goes to lane 0 of VD; the spec does not say what the other lanes then hold, which are free
values. -/
def execVrsum (t : Nat) (s : State) : Out :=
  vecOp t 0x28 s fun s tr i =>
    vecReduce s t tr i (laneTree (fAdd (vfmt i.w) (vecRm tr i)) (if i.w then 5 else 6))

/-- VRMAX (R141): maximumNumber over all lanes, placed as VRSUM places its sum. -/
def execVrmax (t : Nat) (s : State) : Out :=
  vecOp t 0x29 s fun s tr i => vecReduce s t tr i (laneTree (fMaxNum (vfmt i.w)) (if i.w then 5 else 6))

/-- VIADD (R141): 32-bit integer lane addition, wrapping. -/
def execViadd (t : Nat) (s : State) : Out :=
  vecOp t 0x30 s fun s tr i => vecInt s t tr i fun a b => a + b

/-- VISUB (R141): 32-bit integer lane subtraction, wrapping. -/
def execVisub (t : Nat) (s : State) : Out :=
  vecOp t 0x31 s fun s tr i => vecInt s t tr i fun a b => a - b

/-- VIMUL (R141): 32-bit integer lane multiplication, wrapping. -/
def execVimul (t : Nat) (s : State) : Out :=
  vecOp t 0x32 s fun s tr i => vecInt s t tr i fun a b => a * b

/-- VAND (R141): 32-bit integer lane AND, wrapping. -/
def execVand (t : Nat) (s : State) : Out :=
  vecOp t 0x33 s fun s tr i => vecInt s t tr i fun a b => a &&& b

/-- VOR (R141): 32-bit integer lane OR, wrapping. -/
def execVor (t : Nat) (s : State) : Out :=
  vecOp t 0x34 s fun s tr i => vecInt s t tr i fun a b => a ||| b

/-- VXOR (R141): 32-bit integer lane XOR, wrapping. -/
def execVxor (t : Nat) (s : State) : Out :=
  vecOp t 0x35 s fun s tr i => vecInt s t tr i fun a b => a ^^^ b

/-- VSHL (R141): 32-bit integer lane shift left, wrapping. -/
def execVshl (t : Nat) (s : State) : Out :=
  vecOp t 0x36 s fun s tr i => vecInt s t tr i fun a b => shlOpen a b

/-- VSHR (R141): 32-bit integer lane shift right, wrapping. -/
def execVshr (t : Nat) (s : State) : Out :=
  vecOp t 0x37 s fun s tr i => vecInt s t tr i fun a b => shrOpen a b

/-- VBCAST (R141): scalar register VA to every lane. -/
def execVbcast (t : Nat) (s : State) : Out :=
  vecOp t 0x38 s fun s tr i =>
    vecLanes s t tr i fun _ => (bitsOf (scalarOf tr (i.va % 16)).toNat 0 (laneBits i.w), 0)

/-- SOP (R141): the 64-bit scalar operation that IMM selects, of scalars VA and VB into scalar VD. -/
def execSop (t : Nat) (s : State) : Out :=
  vecOp t 0x3c s fun s tr i =>
    vecDone s t
      (setScalar tr (i.vd % 16) (Config.sop i.imm (scalarOf tr (i.va % 16)) (scalarOf tr (i.vb % 16)))) 0

/-- LOOP (R141): decrement scalar VD and branch while it is non-zero. -/
def execLoop (t : Nat) (s : State) : Out :=
  vecOp t 0x3d s fun s tr i =>
    let v := scalarOf tr (i.vd % 16) - 1
    let tr := setScalar tr (i.vd % 16) v
    if v = 0 then vecDone s t tr 0 else vecJump s t tr (Config.brTarget i.imm tr.prog.pc)

/-- BR (R141): branch on the scalar condition that IMM selects. -/
def execBr (t : Nat) (s : State) : Out :=
  vecOp t 0x3e s fun s tr i =>
    if Config.brTaken i.imm (scalarOf tr (i.va % 16)) (scalarOf tr (i.vb % 16)) then
      vecJump s t tr (Config.brTarget i.imm tr.prog.pc)
    else vecDone s t tr 0

end Sys2Proof.Machine
end

