-- ==== Sys2Proof/Machine/Dispatch.lean ====
section
/-! DEFINITION. The dispatch of commands to their meanings: one arm per constructor of Instr. -/

namespace Sys2Proof.Machine

/-- The effect of a command on everything but the queue. -/
def exec (i : Instr) (s : State) : Host.Outcome State Fault Refusal :=
  match i with
  | .registerWrite fn off size data => Sys2Proof.Machine.execRegisterWrite fn off size data s
  | .malformedRegisterAccess wr fn off size => Sys2Proof.Machine.execMalformedRegisterAccess wr fn off size s
  | .rcRegisterRead fn off size => Sys2Proof.Machine.execRcRegisterRead fn off size s
  | .submissionTailDoorbell fn scope queue off size data => Sys2Proof.Machine.execSubmissionTailDoorbell fn scope queue off size data s
  | .completionHeadDoorbell fn scope queue off size data => Sys2Proof.Machine.execCompletionHeadDoorbell fn scope queue off size data s
  | .commandIntake scope queue fetchErr entryErr => Sys2Proof.Machine.execCommandIntake scope queue fetchErr entryErr s
  | .queueEnable fn scope queue on => Sys2Proof.Machine.execQueueEnable fn scope queue on s
  | .queueRestart fn scope queue entryErr => Sys2Proof.Machine.execQueueRestart fn scope queue entryErr s
  | .queueResume fn scope queue head => Sys2Proof.Machine.execQueueResume fn scope queue head s
  | .commandCompletion r elapsed entryErr => Sys2Proof.Machine.execCommandCompletion r elapsed entryErr s
  | .bar4Read x n bad => Sys2Proof.Machine.execBar4Read x n bad s
  | .bar4Write x data bad => Sys2Proof.Machine.execBar4Write x data bad s
  | .pageRequestResponse id ok => Sys2Proof.Machine.execPageRequestResponse id ok s
  | .pageRequestTimeout id => Sys2Proof.Machine.execPageRequestTimeout id s
  | .atsInvalidation lo n => Sys2Proof.Machine.execAtsInvalidation lo n s
  | .hotReset => Sys2Proof.Machine.execHotReset s
  | .flrVf n => Sys2Proof.Machine.execFlrVf n s
  | .flrPf => Sys2Proof.Machine.execFlrPf s
  | .d3hotTransition toD3 => Sys2Proof.Machine.execD3hotTransition toD3 s
  | .configurationRequest fn off data => Sys2Proof.Machine.execConfigurationRequest fn off data s
  | .product r reads => Sys2Proof.Machine.execProduct r reads s
  | .vectorProgram r err => Sys2Proof.Machine.execVectorProgram r err s
  | .attention r err => Sys2Proof.Machine.execAttention r err s
  | .copy r m => Sys2Proof.Machine.execCopy r m s
  | .fill r m => Sys2Proof.Machine.execFill r m s
  | .offload r m => Sys2Proof.Machine.execOffload r m s
  | .prefetch r err => Sys2Proof.Machine.execPrefetch r err s
  | .prefetchPageRead r page err => Sys2Proof.Machine.execPrefetchPageRead r page err s
  | .offloadRelease r err => Sys2Proof.Machine.execOffloadRelease r err s
  | .cacheSetup r err => Sys2Proof.Machine.execCacheSetup r err s
  | .seqOpen r err => Sys2Proof.Machine.execSeqOpen r err s
  | .seqFork r err => Sys2Proof.Machine.execSeqFork r err s
  | .seqTrim r err => Sys2Proof.Machine.execSeqTrim r err s
  | .seqRelease r err => Sys2Proof.Machine.execSeqRelease r err s
  | .seqAppendCopy r m => Sys2Proof.Machine.execSeqAppendCopy r m s
  | .expEncode r m => Sys2Proof.Machine.execExpEncode r m s
  | .xtabLoad r err => Sys2Proof.Machine.execXtabLoad r err s
  | .xtabRetire r => Sys2Proof.Machine.execXtabRetire r s
  | .pack r err => Sys2Proof.Machine.execPack r err s
  | .packAssemble r m => Sys2Proof.Machine.execPackAssemble r m s
  | .codedExpand r m => Sys2Proof.Machine.execCodedExpand r m s
  | .collective r err => Sys2Proof.Machine.execCollective r err s
  | .ownerUpdate r err => Sys2Proof.Machine.execOwnerUpdate r err s
  | .stepCommit r err => Sys2Proof.Machine.execStepCommit r err s
  | .stepAbandon r => Sys2Proof.Machine.execStepAbandon r s
  | .epochSet r => Sys2Proof.Machine.execEpochSet r s
  | .stepMark r => Sys2Proof.Machine.execStepMark r s
  | .poolLease r err => Sys2Proof.Machine.execPoolLease r err s
  | .poolReturn r err => Sys2Proof.Machine.execPoolReturn r err s
  | .foyerBatch r err => Sys2Proof.Machine.execFoyerBatch r err s
  | .dictLoad r err => Sys2Proof.Machine.execDictLoad r err s
  | .streamOpen r err => Sys2Proof.Machine.execStreamOpen r err s
  | .streamClose r => Sys2Proof.Machine.execStreamClose r s
  | .streamData r pics err => Sys2Proof.Machine.execStreamData r pics err s
  | .encodePicture r err => Sys2Proof.Machine.execEncodePicture r err s
  | .frzRelease r => Sys2Proof.Machine.execFrzRelease r s
  | .abort r => Sys2Proof.Machine.execAbort r s
  | .nop r => Sys2Proof.Machine.execNop r s
  | .imageLoad r err => Sys2Proof.Machine.execImageLoad r err s
  | .attest r err => Sys2Proof.Machine.execAttest r err s
  | .keyEnroll r err => Sys2Proof.Machine.execKeyEnroll r err s
  | .keyRevoke r err => Sys2Proof.Machine.execKeyRevoke r err s
  | .debugUnlock r err => Sys2Proof.Machine.execDebugUnlock r err s
  | .secureErase r failed err => Sys2Proof.Machine.execSecureErase r failed err s
  | .repairClear r err => Sys2Proof.Machine.execRepairClear r err s
  | .selftestRead r err => Sys2Proof.Machine.execSelftestRead r err s
  | .itemTake t r => Sys2Proof.Machine.execItemTake t r s
  | .groupBlockFetch r f => Sys2Proof.Machine.execGroupBlockFetch r f s
  | .mainPassEnd t rows fail => Sys2Proof.Machine.execMainPassEnd t rows fail s
  | .itemDrained t => Sys2Proof.Machine.execItemDrained t s
  | .treadIsolate t => Sys2Proof.Machine.execTreadIsolate t s
  | .treadForce t rows => Sys2Proof.Machine.execTreadForce t rows s
  | .treadUnisolate t => Sys2Proof.Machine.execTreadUnisolate t s
  | .treadIsolationDone t => Sys2Proof.Machine.execTreadIsolationDone t s
  | .vadd t => Sys2Proof.Machine.execVadd t s
  | .vsub t => Sys2Proof.Machine.execVsub t s
  | .vmul t => Sys2Proof.Machine.execVmul t s
  | .vfma t => Sys2Proof.Machine.execVfma t s
  | .vdiv t => Sys2Proof.Machine.execVdiv t s
  | .vsqrt t => Sys2Proof.Machine.execVsqrt t s
  | .vrem t => Sys2Proof.Machine.execVrem t s
  | .vminn t => Sys2Proof.Machine.execVminn t s
  | .vmaxn t => Sys2Proof.Machine.execVmaxn t s
  | .vmin t => Sys2Proof.Machine.execVmin t s
  | .vmax t => Sys2Proof.Machine.execVmax t s
  | .vrint t => Sys2Proof.Machine.execVrint t s
  | .vscalb t => Sys2Proof.Machine.execVscalb t s
  | .vlogb t => Sys2Proof.Machine.execVlogb t s
  | .vcmp t => Sys2Proof.Machine.execVcmp t s
  | .vsel t => Sys2Proof.Machine.execVsel t s
  | .vcvt t => Sys2Proof.Machine.execVcvt t s
  | .vclass t => Sys2Proof.Machine.execVclass t s
  | .vtlu t => Sys2Proof.Machine.execVtlu t s
  | .vld t => Sys2Proof.Machine.execVld t s
  | .vst t => Sys2Proof.Machine.execVst t s
  | .vrsum t => Sys2Proof.Machine.execVrsum t s
  | .vrmax t => Sys2Proof.Machine.execVrmax t s
  | .viadd t => Sys2Proof.Machine.execViadd t s
  | .visub t => Sys2Proof.Machine.execVisub t s
  | .vimul t => Sys2Proof.Machine.execVimul t s
  | .vand t => Sys2Proof.Machine.execVand t s
  | .vor t => Sys2Proof.Machine.execVor t s
  | .vxor t => Sys2Proof.Machine.execVxor t s
  | .vshl t => Sys2Proof.Machine.execVshl t s
  | .vshr t => Sys2Proof.Machine.execVshr t s
  | .vbcast t => Sys2Proof.Machine.execVbcast t s
  | .sop t => Sys2Proof.Machine.execSop t s
  | .loop t => Sys2Proof.Machine.execLoop t s
  | .br t => Sys2Proof.Machine.execBr t s
  | .halt t => Sys2Proof.Machine.execHalt t s
  | .xfmBegin scope => Sys2Proof.Machine.execXfmBegin scope s
  | .xfmCommitStepBoundary scope => Sys2Proof.Machine.execXfmCommitStepBoundary scope s
  | .xfmCommitImmediate scope => Sys2Proof.Machine.execXfmCommitImmediate scope s
  | .xfmRollBack scope => Sys2Proof.Machine.execXfmRollBack scope s
  | .stageDataWrite scope data => Sys2Proof.Machine.execStageDataWrite scope data s
  | .stageBulkWrite scope data => Sys2Proof.Machine.execStageBulkWrite scope data s
  | .stageBulkDone scope err => Sys2Proof.Machine.execStageBulkDone scope err s
  | .xfmSlotConfirm => Sys2Proof.Machine.execXfmSlotConfirm s
  | .commitApply scope => Sys2Proof.Machine.execCommitApply scope s
  | .drainTimeout scope => Sys2Proof.Machine.execDrainTimeout scope s
  | .memoryRead q os => Sys2Proof.Machine.execMemoryRead q os s
  | .memoryWrite q o => Sys2Proof.Machine.execMemoryWrite q o s
  | .memoryRefresh chan die bank => Sys2Proof.Machine.execMemoryRefresh chan die bank s
  | .channelRetire chan => Sys2Proof.Machine.execChannelRetire chan s
  | .memoryDeviceFailed chan => Sys2Proof.Machine.execMemoryDeviceFailed chan s
  | .rebuildBlockCopy ok => Sys2Proof.Machine.execRebuildBlockCopy ok s
  | .regionZeroing => Sys2Proof.Machine.execRegionZeroing s
  | .lsuRequestIssue t req => Sys2Proof.Machine.execLsuRequestIssue t req s
  | .moverSlotGrant hall q => Sys2Proof.Machine.execMoverSlotGrant hall q s
  | .ringRotationStep r => Sys2Proof.Machine.execRingRotationStep r s
  | .reductionBlock ctx => Sys2Proof.Machine.execReductionBlock ctx s
  | .thinnedGroup ctx => Sys2Proof.Machine.execThinnedGroup ctx s
  | .parameterMessage ctx => Sys2Proof.Machine.execParameterMessage ctx s
  | .retainedReplay ctx => Sys2Proof.Machine.execRetainedReplay ctx s
  | .mirrorBytes ctx => Sys2Proof.Machine.execMirrorBytes ctx s
  | .commitCollectStart r => Sys2Proof.Machine.execCommitCollectStart r s
  | .commitToken ctx => Sys2Proof.Machine.execCommitToken ctx s
  | .genWaitExpiry ctx => Sys2Proof.Machine.execGenWaitExpiry ctx s
  | .commitSlowExpiry hall => Sys2Proof.Machine.execCommitSlowExpiry hall s
  | .laneAligned port lane => Sys2Proof.Machine.execLaneAligned port lane s
  | .laneAlignmentLost port lane => Sys2Proof.Machine.execLaneAlignmentLost port lane s
  | .portFailure port => Sys2Proof.Machine.execPortFailure port s
  | .lightSwitchTimeout port => Sys2Proof.Machine.execLightSwitchTimeout port s
  | .linkFrameReceive port frame => Sys2Proof.Machine.execLinkFrameReceive port frame s
  | .hello port => Sys2Proof.Machine.execHello port s
  | .replay port => Sys2Proof.Machine.execReplay port s
  | .quiesce port => Sys2Proof.Machine.execQuiesce port s
  | .linkReplayTimeout port => Sys2Proof.Machine.execLinkReplayTimeout port s
  | .helloTimer => Sys2Proof.Machine.execHelloTimer s
  | .portRoleWrite port spare => Sys2Proof.Machine.execPortRoleWrite port spare s
  | .portRetrain port => Sys2Proof.Machine.execPortRetrain port s
  | .deviceNumberWrite dev => Sys2Proof.Machine.execDeviceNumberWrite dev s
  | .laserFault m => Sys2Proof.Machine.execLaserFault m s
  | .laserPresenceChange m present ok => Sys2Proof.Machine.execLaserPresenceChange m present ok s
  | .laserReenableTimer m => Sys2Proof.Machine.execLaserReenableTimer m s
  | .laserPoll m ok => Sys2Proof.Machine.execLaserPoll m ok s
  | .laserRelease m => Sys2Proof.Machine.execLaserRelease m s
  | .laserRestore m => Sys2Proof.Machine.execLaserRestore m s
  | .contextRead => Sys2Proof.Machine.execContextRead s
  | .contextOpen => Sys2Proof.Machine.execContextOpen s
  | .contextClose => Sys2Proof.Machine.execContextClose s
  | .contextEvict => Sys2Proof.Machine.execContextEvict s
  | .contextFree => Sys2Proof.Machine.execContextFree s
  | .openResendTimer ctx => Sys2Proof.Machine.execOpenResendTimer ctx s
  | .dataSegment port => Sys2Proof.Machine.execDataSegment port s
  | .ackSegment port => Sys2Proof.Machine.execAckSegment port s
  | .openSegment port => Sys2Proof.Machine.execOpenSegment port s
  | .openReplySegment port => Sys2Proof.Machine.execOpenReplySegment port s
  | .closeSegment port => Sys2Proof.Machine.execCloseSegment port s
  | .voidSegment port => Sys2Proof.Machine.execVoidSegment port s
  | .rejectSegment port => Sys2Proof.Machine.execRejectSegment port s
  | .segmentSend ctx => Sys2Proof.Machine.execSegmentSend ctx s
  | .retransmitTimeout ctx => Sys2Proof.Machine.execRetransmitTimeout ctx s
  | .evictionTimeout ctx => Sys2Proof.Machine.execEvictionTimeout ctx s
  | .ackDelayExpiry ctx => Sys2Proof.Machine.execAckDelayExpiry ctx s
  | .slotResolve r slot err => Sys2Proof.Machine.execSlotResolve r slot err s
  | .pipePictureStart pipe => Sys2Proof.Machine.execPipePictureStart pipe s
  | .decodePictureDone pipe p => Sys2Proof.Machine.execDecodePictureDone pipe p s
  | .encodeSliceDone pipe bytes => Sys2Proof.Machine.execEncodeSliceDone pipe bytes s
  | .encodePictureDone pipe floorRows qpAvg cycles filler => Sys2Proof.Machine.execEncodePictureDone pipe floorRows qpAvg cycles filler s
  | .outReadWrite v => Sys2Proof.Machine.execOutReadWrite v s
  | .coreInstruction core ce fetchErr dataErr => Sys2Proof.Machine.execCoreInstruction core ce fetchErr dataErr s
  | .coreTimer core => Sys2Proof.Machine.execCoreTimer core s
  | .coreWatchdogExpiry core bad => Sys2Proof.Machine.execCoreWatchdogExpiry core bad s
  | .coreKick core => Sys2Proof.Machine.execCoreKick core s
  | .coreRetire core bad => Sys2Proof.Machine.execCoreRetire core bad s
  | .mezFwConfirm => Sys2Proof.Machine.execMezFwConfirm s
  | .icuClaim core => Sys2Proof.Machine.execIcuClaim core s
  | .icuComplete core id => Sys2Proof.Machine.execIcuComplete core id s
  | .icuSet core n => Sys2Proof.Machine.execIcuSet core n s
  | .icuClr core n => Sys2Proof.Machine.execIcuClr core n s
  | .debugDmiAccess a data => Sys2Proof.Machine.execDebugDmiAccess a data s
  | .powerOn straps => Sys2Proof.Machine.execPowerOn straps s
  | .powerGoodFall io core => Sys2Proof.Machine.execPowerGoodFall io core s
  | .coldResetInput => Sys2Proof.Machine.execColdResetInput s
  | .perstAssert => Sys2Proof.Machine.execPerstAssert s
  | .lntColdReset => Sys2Proof.Machine.execLntColdReset s
  | .lntWarmReset => Sys2Proof.Machine.execLntWarmReset s
  | .lntShutdown => Sys2Proof.Machine.execLntShutdown s
  | .startUpStage fail badCores trained badBlocks unverified => Sys2Proof.Machine.execStartUpStage fail badCores trained badBlocks unverified s
  | .lanternWatchdogExpiry => Sys2Proof.Machine.execLanternWatchdogExpiry s
  | .lanternWatchdogKick => Sys2Proof.Machine.execLanternWatchdogKick s
  | .flightSleep hall => Sys2Proof.Machine.execFlightSleep hall s
  | .sleepEntryDone f => Sys2Proof.Machine.execSleepEntryDone f s
  | .flightWakeStart f => Sys2Proof.Machine.execFlightWakeStart f s
  | .flightPllLock f us => Sys2Proof.Machine.execFlightPllLock f us s
  | .flightLockTimeout f => Sys2Proof.Machine.execFlightLockTimeout f s
  | .mediaSleep => Sys2Proof.Machine.execMediaSleep s
  | .mediaWakeDone => Sys2Proof.Machine.execMediaWakeDone s
  | .domainReset dom => Sys2Proof.Machine.execDomainReset dom s
  | .thermalSample temps => Sys2Proof.Machine.execThermalSample temps s
  | .criticalTemperature => Sys2Proof.Machine.execCriticalTemperature s
  | .vidStep ok => Sys2Proof.Machine.execVidStep ok s
  | .flightIsolate f force => Sys2Proof.Machine.execFlightIsolate f force s
  | .flightUnisolate f => Sys2Proof.Machine.execFlightUnisolate f s
  | .blockIsolate b => Sys2Proof.Machine.execBlockIsolate b s
  | .blockReturn b => Sys2Proof.Machine.execBlockReturn b s
  | .selftestRun slice => Sys2Proof.Machine.execSelftestRun slice s
  | .sliceTestDone slice us fails => Sys2Proof.Machine.execSliceTestDone slice us fails s
  | .sliceBudgetExpiry slice us cursor fails => Sys2Proof.Machine.execSliceBudgetExpiry slice us cursor fails s
  | .presenceDebounce low => Sys2Proof.Machine.execPresenceDebounce low s
  | .presenceWindowClose => Sys2Proof.Machine.execPresenceWindowClose s
  | .sealTick => Sys2Proof.Machine.execSealTick s
  | .sealSample bit => Sys2Proof.Machine.execSealSample bit s
  | .statusRead => Sys2Proof.Machine.execStatusRead s
  | .mctpControlMessage msg => Sys2Proof.Machine.execMctpControlMessage msg s
  | .getTid => Sys2Proof.Machine.execGetTid s
  | .setTid tid => Sys2Proof.Machine.execSetTid tid s
  | .getPldmVersion ty => Sys2Proof.Machine.execGetPldmVersion ty s
  | .getPldmTypes => Sys2Proof.Machine.execGetPldmTypes s
  | .getPldmCommands ty => Sys2Proof.Machine.execGetPldmCommands ty s
  | .getPdrRepositoryInfo => Sys2Proof.Machine.execGetPdrRepositoryInfo s
  | .getPdr handle => Sys2Proof.Machine.execGetPdr handle s
  | .getSensorReading sensor => Sys2Proof.Machine.execGetSensorReading sensor s
  | .getStateSensorReadings sensor => Sys2Proof.Machine.execGetStateSensorReadings sensor s
  | .sensorRefresh vout iout => Sys2Proof.Machine.execSensorRefresh vout iout s
  | .bypass => Sys2Proof.Machine.execBypass s
  | .idcode => Sys2Proof.Machine.execIdcode s
  | .samplePreload => Sys2Proof.Machine.execSamplePreload s
  | .extest => Sys2Proof.Machine.execExtest s
  | .extestPulse => Sys2Proof.Machine.execExtestPulse s
  | .extestTrain => Sys2Proof.Machine.execExtestTrain s
  | .clamp => Sys2Proof.Machine.execClamp s
  | .highz => Sys2Proof.Machine.execHighz s
  | .testLogicReset => Sys2Proof.Machine.execTestLogicReset s
  | .validationDone scope => Sys2Proof.Machine.execValidationDone scope s
  | .perstDeassert => Sys2Proof.Machine.execPerstDeassert s
  | .powerGoodRise io core => Sys2Proof.Machine.execPowerGoodRise io core s
  | .lanternRailLoss => Sys2Proof.Machine.execLanternRailLoss s
  | .referenceClockLoss => Sys2Proof.Machine.execReferenceClockLoss s
  | .criticalTemperatureClear => Sys2Proof.Machine.execCriticalTemperatureClear s
  | .hostReadCompletion q err => Sys2Proof.Machine.execHostReadCompletion q err s
  | .atsTranslationCompletion q ok => Sys2Proof.Machine.execAtsTranslationCompletion q ok s
  | .registerRead fn off size => Sys2Proof.Machine.execRegisterRead fn off size s
  | .unsupportedMctpMessage ty pldm cmd => Sys2Proof.Machine.execUnsupportedMctpMessage ty pldm cmd s

end Sys2Proof.Machine
end

