-- ==== Sys2Proof/WellFormed.lean ====
section
/-! DEFINITION. Which commands are well formed: every unit, queue, scope, function or register offset a command names
exists in the numberings the spec gives (R15, R18, R248, R388, R465, R470, R538, R552). -/

namespace Sys2Proof

/-- A command that names existing units only. -/
def WellFormed : Instr → Bool
  | .registerWrite fn off size _ => fn < 10 && off + size ≤ (if fn = 0 then 0x4000000 else 0x10000)
  | .malformedRegisterAccess _ fn off size => fn < 10 && off + size ≤ (if fn = 0 then 0x4000000 else 0x10000)
  | .rcRegisterRead fn off size => fn < 10 && off + size ≤ (if fn = 0 then 0x4000000 else 0x10000)
  | .submissionTailDoorbell _ _ _ _ _ _ => true
  | .completionHeadDoorbell _ _ _ _ _ _ => true
  | .commandIntake scope queue _ _ => scope ≤ 8 && queue < 64
  | .queueEnable _ scope queue _ => scope ≤ 8 && queue < 64
  | .queueRestart _ scope queue _ => scope ≤ 8 && queue < 64
  | .queueResume _ scope queue _ => scope ≤ 8 && queue < 64
  | .commandCompletion r _ _ => r.scope ≤ 8 && r.queue < 64
  | .bar4Read _ _ _ => true
  | .bar4Write _ _ _ => true
  | .pageRequestResponse _ _ => true
  | .pageRequestTimeout _ => true
  | .atsInvalidation _ _ => true
  | .hotReset => true
  | .flrVf n => 1 ≤ n && n ≤ 9
  | .flrPf => true
  | .d3hotTransition _ => true
  | .configurationRequest fn off _ => fn < 10 && off % 4 = 0 && off < 4096
  | .product r _ => r.scope < 8
  | .vectorProgram r _ => r.scope < 8
  | .attention r _ => r.scope < 8
  | .copy r _ => r.scope < 8
  | .fill r _ => r.scope < 8
  | .offload r _ => r.scope < 8
  | .prefetch r _ => r.scope < 8
  | .prefetchPageRead r _ _ => r.scope < 8
  | .offloadRelease r _ => r.scope < 8
  | .cacheSetup r _ => r.scope < 8
  | .seqOpen r _ => r.scope < 8
  | .seqFork r _ => r.scope < 8
  | .seqTrim r _ => r.scope < 8
  | .seqRelease r _ => r.scope < 8
  | .seqAppendCopy r _ => r.scope < 8
  | .expEncode r _ => r.scope < 8
  | .xtabLoad r _ => r.scope < 8
  | .xtabRetire r => r.scope < 8
  | .pack r _ => r.scope < 8
  | .packAssemble r _ => r.scope < 8
  | .codedExpand r _ => r.scope < 8
  | .collective r _ => r.scope < 8
  | .ownerUpdate r _ => r.scope < 8
  | .stepCommit r _ => r.scope < 8
  | .stepAbandon r => r.scope < 8
  | .epochSet r => r.scope < 8
  | .stepMark r => r.scope < 8
  | .poolLease r _ => r.scope < 8
  | .poolReturn r _ => r.scope < 8
  | .foyerBatch r _ => r.scope < 8
  | .dictLoad r _ => r.scope < 8
  | .streamOpen r _ => r.scope < 8
  | .streamClose r => r.scope < 8
  | .streamData r _ _ => r.scope < 8
  | .encodePicture r _ => r.scope < 8
  | .frzRelease r => r.scope < 8
  | .abort r => r.scope ≤ 8
  | .nop r => r.scope ≤ 8
  | .imageLoad r _ => r.scope = 8
  | .attest r _ => r.scope = 8
  | .keyEnroll r _ => r.scope = 8
  | .keyRevoke r _ => r.scope = 8
  | .debugUnlock r _ => r.scope = 8
  | .secureErase r _ _ => r.scope = 8
  | .repairClear r _ => r.scope = 8
  | .selftestRead r _ => r.scope = 8
  | .itemTake t r => t < 128 && r.scope < 8
  | .groupBlockFetch r _ => r.scope < 8
  | .mainPassEnd t _ _ => t < 128
  | .itemDrained t => t < 128
  | .treadIsolate t => t < 128
  | .treadForce t _ => t < 128
  | .treadUnisolate t => t < 128
  | .treadIsolationDone t => t < 128
  | .vadd t => t < 128
  | .vsub t => t < 128
  | .vmul t => t < 128
  | .vfma t => t < 128
  | .vdiv t => t < 128
  | .vsqrt t => t < 128
  | .vrem t => t < 128
  | .vminn t => t < 128
  | .vmaxn t => t < 128
  | .vmin t => t < 128
  | .vmax t => t < 128
  | .vrint t => t < 128
  | .vscalb t => t < 128
  | .vlogb t => t < 128
  | .vcmp t => t < 128
  | .vsel t => t < 128
  | .vcvt t => t < 128
  | .vclass t => t < 128
  | .vtlu t => t < 128
  | .vld t => t < 128
  | .vst t => t < 128
  | .vrsum t => t < 128
  | .vrmax t => t < 128
  | .viadd t => t < 128
  | .visub t => t < 128
  | .vimul t => t < 128
  | .vand t => t < 128
  | .vor t => t < 128
  | .vxor t => t < 128
  | .vshl t => t < 128
  | .vshr t => t < 128
  | .vbcast t => t < 128
  | .sop t => t < 128
  | .loop t => t < 128
  | .br t => t < 128
  | .halt t => t < 128
  | .xfmBegin scope => scope ≤ 8
  | .xfmCommitStepBoundary scope => scope ≤ 8
  | .xfmCommitImmediate scope => scope ≤ 8
  | .xfmRollBack scope => scope ≤ 8
  | .stageDataWrite scope _ => scope ≤ 8
  | .stageBulkWrite scope _ => scope ≤ 8
  | .stageBulkDone scope _ => scope ≤ 8
  | .xfmSlotConfirm => true
  | .commitApply scope => scope ≤ 8
  | .drainTimeout scope => scope ≤ 8
  | .memoryRead _ _ => true
  | .memoryWrite _ _ => true
  | .memoryRefresh chan die bank => chan < 24 && die < 16 && bank < 16
  | .channelRetire chan => chan < 24
  | .memoryDeviceFailed chan => chan < 24
  | .rebuildBlockCopy _ => true
  | .regionZeroing => true
  | .lsuRequestIssue t _ => t < 128
  | .moverSlotGrant hall _ => hall < 8
  | .ringRotationStep r => r.scope < 8
  | .reductionBlock ctx => ctx < 262144
  | .thinnedGroup ctx => ctx < 262144
  | .parameterMessage ctx => ctx < 262144
  | .retainedReplay ctx => ctx < 262144
  | .mirrorBytes ctx => ctx < 262144
  | .commitCollectStart r => r.scope < 8
  | .commitToken ctx => ctx < 262144
  | .genWaitExpiry ctx => ctx < 262144
  | .commitSlowExpiry hall => hall < 8
  | .laneAligned port lane => port < 34 && lane < 8
  | .laneAlignmentLost port lane => port < 34 && lane < 8
  | .portFailure port => port < 34
  | .lightSwitchTimeout port => port < 34
  | .linkFrameReceive port _ => port < 34
  | .hello port => port < 34
  | .replay port => port < 34
  | .quiesce port => port < 34
  | .linkReplayTimeout port => port < 34
  | .helloTimer => true
  | .portRoleWrite port _ => port < 34
  | .portRetrain port => port < 34
  | .deviceNumberWrite _ => true
  | .laserFault m => m < 5
  | .laserPresenceChange m _ _ => m < 5
  | .laserReenableTimer m => m < 5
  | .laserPoll m _ => m < 5
  | .laserRelease m => m < 5
  | .laserRestore m => m < 5
  | .contextRead => true
  | .contextOpen => true
  | .contextClose => true
  | .contextEvict => true
  | .contextFree => true
  | .openResendTimer ctx => ctx < 262144
  | .dataSegment port => port < 34
  | .ackSegment port => port < 34
  | .openSegment port => port < 34
  | .openReplySegment port => port < 34
  | .closeSegment port => port < 34
  | .voidSegment port => port < 34
  | .rejectSegment port => port < 34
  | .segmentSend ctx => ctx < 262144
  | .retransmitTimeout ctx => ctx < 262144
  | .evictionTimeout ctx => ctx < 262144
  | .ackDelayExpiry ctx => ctx < 262144
  | .slotResolve r _ _ => r.scope < 8
  | .pipePictureStart pipe => pipe < 10
  | .decodePictureDone pipe _ => pipe < 8
  | .encodeSliceDone pipe _ => 8 ≤ pipe && pipe < 10
  | .encodePictureDone pipe _ _ _ _ => 8 ≤ pipe && pipe < 10
  | .outReadWrite _ => true
  | .coreInstruction core _ _ _ => core < 16
  | .coreTimer core => core < 16
  | .coreWatchdogExpiry core _ => core < 16
  | .coreKick core => core < 16
  | .coreRetire core _ => core < 16
  | .mezFwConfirm => true
  | .icuClaim core => core < 16
  | .icuComplete core _ => core < 16
  | .icuSet core n => core < 16 && 1 ≤ n && n < 1023
  | .icuClr core n => core < 16 && 1 ≤ n && n < 1023
  | .debugDmiAccess _ _ => true
  | .powerOn _ => true
  | .powerGoodFall _ _ => true
  | .coldResetInput => true
  | .perstAssert => true
  | .lntColdReset => true
  | .lntWarmReset => true
  | .lntShutdown => true
  | .startUpStage _ _ _ _ _ => true
  | .lanternWatchdogExpiry => true
  | .lanternWatchdogKick => true
  | .flightSleep hall => hall < 8
  | .sleepEntryDone f => f < 16
  | .flightWakeStart f => f < 16
  | .flightPllLock f _ => f < 16
  | .flightLockTimeout f => f < 16
  | .mediaSleep => true
  | .mediaWakeDone => true
  | .domainReset dom => dom < 32
  | .thermalSample _ => true
  | .criticalTemperature => true
  | .vidStep _ => true
  | .flightIsolate f _ => f < 16
  | .flightUnisolate f => f < 16
  | .blockIsolate b => b < 8
  | .blockReturn b => b < 8
  | .selftestRun _ => true
  | .sliceTestDone slice _ _ => slice < 101
  | .sliceBudgetExpiry slice _ _ _ => slice < 101
  | .presenceDebounce _ => true
  | .presenceWindowClose => true
  | .sealTick => true
  | .sealSample _ => true
  | .statusRead => true
  | .mctpControlMessage _ => true
  | .getTid => true
  | .setTid tid => tid < 256
  | .getPldmVersion _ => true
  | .getPldmTypes => true
  | .getPldmCommands _ => true
  | .getPdrRepositoryInfo => true
  | .getPdr _ => true
  | .getSensorReading _ => true
  | .getStateSensorReadings _ => true
  | .sensorRefresh _ _ => true
  | .bypass => true
  | .idcode => true
  | .samplePreload => true
  | .extest => true
  | .extestPulse => true
  | .extestTrain => true
  | .clamp => true
  | .highz => true
  | .testLogicReset => true
  | .validationDone scope => scope ≤ 8
  | .perstDeassert => true
  | .powerGoodRise _ _ => true
  | .lanternRailLoss => true
  | .referenceClockLoss => true
  | .criticalTemperatureClear => true
  | .hostReadCompletion _ _ => true
  | .atsTranslationCompletion _ _ => true
  | .registerRead fn off size => fn < 10 && off + size ≤ (if fn = 0 then 0x4000000 else 0x10000)
  | .unsupportedMctpMessage _ _ _ => true

end Sys2Proof
end

