-- ==== Sys2Proof/Safety.lean ====
section
/-! DEFINITION. What a safe run of the block is, and the words in which the statements speak of one command: what it
does in a state, which command is ready for dispatch, what a step leaves alone. -/

namespace Sys2Proof

open Machine

/-- A step that goes on. -/
def Safe (s : State) : Prop := ∃ t, step s = .next t

/-- The command goes on from `s` to `t`. -/
def Does (i : Instr) (s t : State) : Prop := exec i s = .next t

/-- An accepted command that its queue dispatches now under an opcode (R483, R484): the head of its queue, its scope ready,
its dependency met, no reserved operand bit set, no block it needs isolated; accepted under the structure generation in force, or
its queues and operands exist in it all the same (R67). -/
def readyFor (s : State) (r : CmdRef) (op : Nat) (c : Cmd) : Bool :=
  findCmd s r = some c && c.st = .accepted && c.opcode = op && isHead s r && scopeReady s r.scope op
    && depVerdict s r c = .inl none && opdOk c && !opBlocked s op
    && !(genDiffers s r c && (queueGone s r c || opGone s r c))

/-- A range of memory reads well: no extent of it waits to be zeroed, no burst of it is lost or uncorrectable (R269, R292,
R293). -/
def readsWell (s : State) (a n : Nat) : Bool := !unzeroed s a n && (goneIn s a n).isNone

/-- A dispatched command of an opcode that has not ended. -/
def runsAs (s : State) (r : CmdRef) (op : Nat) (c : Cmd) : Bool :=
  findCmd s r = some c && c.st = .dispatched && c.opcode = op

/-- A command of these reaches passes the gate of R277, R302, R307, R522 and R550: no isolated flight's buffer, every flight
it needs awake, no guard and no held source in its way. -/
def reachOpen (s : State) (h : Nat) (reads writes : List (Nat × Nat)) : Bool :=
  !inIsolated s (reads ++ writes) && (!inGallery (reads ++ writes) || hallRuns s h) && !reachWaits s reads writes

/-- A command of these learning kinds passes the tests of R176, R177, R184 and R196. -/
def learnOpen (s : State) (h : Nat) (c : Cmd) : Bool :=
  layerOk s.run h c.layer c.pass && !(c.pass = 2 && layerFrozen s.run h c.layer)
    && !((c.pass = 1 || c.pass = 2) && hallGenerates s.run h)

/-- A good message `m` of a type waits whole on a context of hall `h`, for ring `g` in its present generation (R347, R349). -/
def msgReady (s : State) (ctx ty h : Nat) (g : Ring) (m : List Byte) : Bool :=
  ctxNum ctx && (getCtx s ctx).whole = some m && cmType m = ty && (getCtx s ctx).hall = h && h < 8 && cmOk m
    && ringAt s.run h (cmRing m) = some g && cmGen m = g.gen

/-- A good segment `b` of a type, from the peer of its context, stands at the front of a port with the delivery engine in
service (R392, R403). -/
def segReady (s : State) (port ty vc : Nat) (b : List Byte) (rest : List (Nat × List Byte)) : Bool :=
  port < 34 && !blockIsolated s 1 && (getPort s port).rx = (vc, b) :: rest && sgType b = ty && sgCrcOk b && ctxNum (sgCtx b)
    && sgSrc b = (getCtx s (sgCtx b)).peer
/-- The state in which such a segment is handled: taken off the port, its buffer free (R392). -/
def segTaken (s : State) (port vc : Nat) (rest : List (Nat × List Byte)) : State :=
  freeBuf (setPort s port { getPort s port with rx := rest }) port vc

/-- A control frame of a type stands at the front of a port (R392). -/
def ctlReady (s : State) (port ty : Nat) (f : List Byte) (rest : List (List Byte)) : Bool :=
  port < 34 && (getPort s port).ctl = f :: rest && leAt f 16 1 = ty

/-- Every byte of memory reads as before. -/
def SameMem (s t : State) : Prop := ∀ a, memGet t a = memGet s a
/-- Every byte of memory outside `n` bytes from `a` reads as before. -/
def SameMemBut (s t : State) (a n : Nat) : Prop := ∀ x, x < a ∨ a + n ≤ x → memGet t x = memGet s x
/-- Every register reads as before. -/
def SameRegs (s t : State) : Prop := ∀ r, regGet t r = regGet s r
/-- Every register but one reads as before. -/
def SameRegsBut (s t : State) (r : Nat) : Prop := ∀ x, x ≠ r → regGet t x = regGet s x

/-- The effect of a lane-by-lane vector instruction `i` of tread `t` (R138, R140): lane `l` of VD takes `f l` where its mask
bit is 1 and keeps its value where it is 0; no other vector, scalar or mask register of the tread changes; the flags of
the lanes on are added to VCSR; the program counter moves on by one; nothing else of the tread, no other tread, no byte
of memory, no command and no register but a hall's FP flag word changes. -/
def LaneEffect (s u : State) (t : Nat) (i : VIns) (f : Nat → Nat × Nat) : Prop :=
  let a := getT s t
  let b := getT u t
  (∀ l, l < laneCount i.w → laneOf b i.w i.vd l = if maskBit a i.pred l then (f l).1 % 2 ^ laneBits i.w else laneOf a i.w i.vd l) ∧
  (∀ r l, r ≠ i.vd → l < 64 → vWord b r l = vWord a r l) ∧
  b.vcsr = a.vcsr ||| BitVec.ofNat 8 ((lanesOn a i).foldl (fun x l => x ||| (f l).2) 0 % 32 * 8) ∧
  b.prog = { a.prog with pc := a.prog.pc + 1 } ∧ b = { a with v := b.v, vcsr := b.vcsr, prog := b.prog } ∧
  (∀ k, k ≠ t → getT u k = getT s k) ∧ u.mem = s.mem ∧ u.queues = s.queues ∧
  ∀ r, (∀ h, r ≠ rCmdCtrFpflags h) → regGet u r = regGet s r

/-- What every step keeps: memory and the register bank are in their one canonical form. -/
def Inv (s : State) : Prop := memWf s.mem = true ∧ fmWf regReset s.regs = true

end Sys2Proof
end

