-- ==== Sys2Proof/Certificates/Slice0/Obligations.lean ====
section
/-! DEFINITION. The statements for the provers, one per obligation. -/

open Sys2Proof Sys2Proof.Machine

/-- O1. For every command c and state s whose queue is c followed by rest, one step of s is the effect of c on s with
rest as its queue. (16_command_interface.md.) -/
def Obligations.StepRunsFront : Prop :=
  ∀ (c : Instr) (rest : List Instr) (s : State), s.pending = c :: rest → step s = exec c { s with pending := rest }

/-- O2. The model's choice (log 1): with no command waiting, a step answers the same state. (16_command_interface.md.)
-/
def Obligations.StepIdlesOnEmptyQueue : Prop :=
  ∀ s : State, s.pending = [] → step s = .next s

/-- O3. For every one of the commands and every state: a well-formed command answers a next state, and one that names a
unit outside its numbering stops with noSuchUnit; none is ever refused. (R18, R15.) -/
def Obligations.WellFormedCommandsRun : Prop :=
  ∀ (i : Instr) (s : State),
    (WellFormed i = true → ∃ t, Does i s t) ∧ (WellFormed i = false → exec i s = .fault .noSuchUnit)

/-- O4. State.reset has memory and register bank in canonical form, no command waiting, and nothing listed in memory.
(R618, 18_power_clocks_reset.md.) -/
def Obligations.ResetIsCanonical : Prop :=
  Inv State.reset ∧ State.reset.pending = [] ∧ State.reset.mem = []

/-- O5. From every state whose memory and register bank are in their canonical form, a step that answers a next state
answers one whose memory and register bank are in that form: addresses strictly rising and no entry equal to what an
unlisted address reads as. (R10, R618.) -/
def Obligations.StepKeepsCanonicalForm : Prop :=
  ∀ s t : State, Inv s → step s = .next t → Inv t

/-- O6. From every state, a step that answers a next state leaves exactly the queue's rest waiting: no effect of any
command touches what waits, and no free value is ever drawn twice (the free-value counter never falls).
(16_command_interface.md.) -/
def Obligations.OneCommandAStep : Prop :=
  ∀ s t : State, step s = .next t → t.pending = s.pending.tail ∧ s.freeCtr ≤ t.freeCtr

/-- O7. An access of BAR0 while it is closed answers all ones; a well-formed read of an implemented register answers the
bytes read of its 64-bit view and clears its RC fields; a read of an address that names no register answers 0; a
malformed read answers all ones and counts; a malformed write counts, and sets BAD_WRITE of the scope whose 64-bit-only
transaction register its bytes meet, and does nothing else. (R10, R11, R12, R14, R16, R78.) -/
def Obligations.RegisterReadsAnswer : Prop :=
  (∀ (fn off size : Nat) (s : State), inBar fn off size = true → barOpen s = true → wellFormed off size = true →
      let r := barOffset fn off / 8 * 8
      let lo := barOffset fn off % 8 * 8
      (implemented s r = true → wakes s r = none → icuCoreOf r 0 = none → dmiOf r = none →
        let t := { clearRc s r lo (8 * size) with resp := .value size (bitsOf (regView s r) lo (8 * size)) }
        Does (.registerRead fn off size) s t ∧ Does (.rcRegisterRead fn off size) s t) ∧
      (implemented s r = false →
        Does (.registerRead fn off size) s { s with resp := .value size 0 } ∧
        Does (.rcRegisterRead fn off size) s { s with resp := .value size 0 })) ∧
    (∀ (fn off size : Nat) (s : State), inBar fn off size = true → barOpen s = false →
      Does (.registerRead fn off size) s { s with resp := .ones size } ∧
      Does (.rcRegisterRead fn off size) s { s with resp := .ones size }) ∧
    (∀ (fn off size : Nat) (s : State), inBar fn off size = true → barOpen s = true → wellFormed off size = false →
      Does (.malformedRegisterAccess false fn off size) s { countMalformed s with resp := .ones size } ∧
      let u := countMalformed { s with resp := .nothing }
      (xfmHit (barOffset fn off) size = none → Does (.malformedRegisterAccess true fn off size) s u) ∧
      (∀ k, xfmHit (barOffset fn off) size = some k → Does (.malformedRegisterAccess true fn off size) s (badWrite u k)))

/-- O8. After clearRc, the effect of a read of bits lo to lo + n - 1 of a register: every RC field that shares a bit
with those bits reads 0, every other field that shares no bit with such a field reads as before, every other register
and all of memory are unchanged. (R16, R14.) -/
def Obligations.ReadClearsRcFields : Prop :=
  ∀ (s : State) (r lo n : Nat),
      (∀ f ∈ regFields r, f.acc = .rc → f.lo < lo + n → lo < f.lo + f.w → f.lo + f.w ≤ 64 →
        getF (clearRc s r lo n) r f = 0) ∧
      (∀ g : Fld, g.lo + g.w ≤ 64 →
        (∀ f ∈ regFields r, f.acc = .rc → f.lo < lo + n → lo < f.lo + f.w →
          f.lo + f.w ≤ 64 ∧ (g.lo + g.w ≤ f.lo ∨ f.lo + f.w ≤ g.lo)) →
        getF (clearRc s r lo n) r g = getF s r g) ∧
      SameRegsBut s (clearRc s r lo n) r ∧ (clearRc s r lo n).mem = s.mem

/-- O9. A full 64-bit write of PF 0 to a Lantern register without an action of its own runs each of its fields under its
access code; and for one field of at most 64 bits: RW takes the written value, W1C keeps exactly the ones not written as
1, W1S adds the ones written, every other code keeps the field. All other registers and all memory are unchanged by one
field. (R14, R10.) -/
def Obligations.AccessCodesRule : Prop :=
  (∀ (r : Nat) (d : DWord) (s : State), r < 0x1000 → r % 8 = 0 → r ≠ rLntReset → r ≠ rLntWdog → r ≠ rLntDomainCtl →
      r ≠ rLntSelftestCtl → r ≠ rLntBlockIsolate → barOpen s = true → (regFields r).isEmpty = false →
      Does (.registerWrite 0 r 8 d) s
        (putFields ⟨r, d.toNat, 2 ^ 64 - 1⟩ [] (latchRaised { s with resp := .nothing }))) ∧
    (∀ (w : Wr) (s : State) (f : Fld), f.lo + f.w ≤ 64 →
      let old := getF s w.r f
      let m := bitsOf w.m f.lo f.w
      let t := putField w s f
      (f.acc = .rw → getF t w.r f = (old ^^^ (old &&& m)) ||| w.ones f) ∧
      (f.acc = .w1c → getF t w.r f = old ^^^ (old &&& w.ones f)) ∧
      (f.acc = .w1s → getF t w.r f = old ||| w.ones f) ∧
      (f.acc ≠ .rw → f.acc ≠ .w1c → f.acc ≠ .w1s → t = s) ∧
      SameRegsBut s t w.r ∧ t.mem = s.mem)

/-- O10. A good submission-tail doorbell sets the tail; a good completion-head doorbell sets the head, re-arms the
message, drops the entries passed, writes held entries that have room and then a due acceptance entry; a bad one of
either only counts. While the machine is held in reset a doorbell does nothing. (R466, R470, R474, R35.) -/
def Obligations.DoorbellWrites : Prop :=
  (∀ (fn scope queue off size : Nat) (data : DWord) (s : State), s.lnt.heldCode = none →
      (doorbellOk s fn scope queue off size 0 data = true →
        Does (.submissionTailDoorbell fn scope queue off size data) s
          (setQ s scope queue { getQ s scope queue with sqTail := bitsOf data.toNat 0 16 })) ∧
      (doorbellOk s fn scope queue off size 0 data = false →
        Does (.submissionTailDoorbell fn scope queue off size data) s (countMalformed s))) ∧
    (∀ (fn scope queue off size : Nat) (data : DWord) (s : State), s.lnt.heldCode ≠ none →
      Does (.submissionTailDoorbell fn scope queue off size data) s s ∧ Does (.completionHeadDoorbell fn scope queue off size data) s s) ∧
    (∀ (fn scope queue off size : Nat) (data : DWord) (s : State), s.lnt.heldCode = none →
      (doorbellOk s fn scope queue off size 8 data = true →
        let h := bitsOf data.toNat 0 16
        let u := latchRaised s
        let q := getQ u scope queue
        let u := setQ u scope queue { q with cqHead := h, armed := true, unpassed := dropPassed h q.unpassed }
        Does (.completionHeadDoorbell fn scope queue off size data) s
          (acceptEntry (flushHeld u scope queue) scope queue none)) ∧
      (doorbellOk s fn scope queue off size 8 data = false →
        Does (.completionHeadDoorbell fn scope queue off size data) s (countMalformed s)))

/-- O11. Where BAR4 is open, the window answers and the bytes can be read or written: a BAR4 write goes on to a state in
which every byte written reads as the data and every other byte of memory as before; a BAR4 read answers the bytes and
changes no memory and no register. Where the window does not answer, or a byte is lost, a read answers all ones and a
write stores nothing, and either is counted. While BAR4 is closed a read answers all ones and a write does nothing.
(R467, R269, R292, R35.) -/
def Obligations.Bar4MovesBytes : Prop :=
  (∀ (x : Nat) (data : List Byte) (s : State),
      let a := bar4Addr s x
      barOpen s = true → bar4Ok s a data.length = true → unzeroed s a data.length = false → writeGone s a data.length = none →
      ∃ t, Does (.bar4Write x data false) s t ∧ SameMemBut s t a data.length ∧
        (∀ i, i < data.length → memGet t (a + i) = data.getD i 0)) ∧
    (∀ (x n : Nat) (s : State),
      let a := bar4Addr s x
      barOpen s = true → bar4Ok s a n = true → readsWell s a n = true →
      ∃ t, Does (.bar4Read x n false) s t ∧ t.resp = .bytes (memBytes s a n) ∧ t.mem = s.mem ∧ t.regs = s.regs ∧ t.queues = s.queues) ∧
    (∀ (x n : Nat) (bad : Bool) (s : State), barOpen s = true → bar4Ok s (bar4Addr s x) n = false →
      Does (.bar4Read x n bad) s { bar4Drop s with resp := .ones n }) ∧
    (∀ (x : Nat) (data : List Byte) (bad : Bool) (s : State),
      let a := bar4Addr s x
      barOpen s = true →
      (bar4Ok s a data.length = false ∨ (unzeroed s a data.length = false ∧ (bad = true ∨ writeGone s a data.length ≠ none)) →
        Does (.bar4Write x data bad) s (bar4Drop s))) ∧
    (∀ (x n : Nat) (data : List Byte) (bad : Bool) (s : State), barOpen s = false →
      Does (.bar4Read x n bad) s { s with resp := .ones n } ∧ Does (.bar4Write x data bad) s s)

/-- O12. A page-request response of success takes the request off the list and lets it go on; a failure or a timeout
ends it with address-fault; an invalidation drops the held translations that meet its range; the translations that come
are held for the function of the request, and a write then goes out and frees its slot; one refused sends a page
request, at most 512 at a time; a read all of whose pages are translated delivers good data once its slot is free, one
whose check fails ends its command. (R468, R255, R542.) -/
def Obligations.HostRequestsEnd : Prop :=
  (∀ (id : Nat) (q : MemReq) (s u : State), takePageReq s id = some (q, u) →
      Does (.pageRequestResponse id true) s u ∧ Does (.pageRequestResponse id false) s (hostFault u q) ∧
      Does (.pageRequestTimeout id) s (hostFault u q)) ∧
    (∀ (lo n : Nat) (s : State),
      Does (.atsInvalidation lo n) s
        { s with pci := { s.pci with atc := s.pci.atc.filter fun p => !overlap (4096 * p.2) 4096 lo n } }) ∧
    (∀ (q : MemReq) (s : State), inHost q.addr q.len = true → inFlight s q = true → hostOpen s = true →
      (let u := { s with pci := { s.pci with
          atc := reqPages s q ++ s.pci.atc.filter fun p => !(reqPages s q).contains p } }
       Does (.atsTranslationCompletion q true) s (if q.write then land (freeSlot u q) q else u)) ∧
      (s.pci.pageReqs.length < 512 →
        Does (.atsTranslationCompletion q false) s
          { s with pci := { s.pci with
            pageReqs := fmPut s.pci.pageReqs s.pci.nextReq q, nextReq := s.pci.nextReq + 1 } }) ∧
      (q.write = false → translated s q = true →
        Does (.hostReadCompletion q none) s (deliver (freeSlot s q) q) ∧
        ∀ e : ReadErr, Does (.hostReadCompletion q (some e)) s (failReq (freeSlot s q) q.cmd e q.addr)))

/-- O13. A hot reset suspends the queues of host rings, resets the PCIe domain and ends what needed the host; a
function-level reset of VF n does so for the queues of scope n - 1, one of PF 0 for every scope, clearing SR-IOV; D3hot
changes only its state; PERST# keeps the link down and starts a warm reset of trigger 4, its release only lets go; until
configuration space answers a request gets retry status, then a read answers the dword and a write of a dword the spec
does not fix stores it. (R490, R491, R533, R537, R538.) -/
def Obligations.PcieResetsAndConfiguration : Prop :=
  (∀ s : State,
      let u := latchRaised s
      Does .hotReset s (hostGone (pcieReset (suspendQueues u (hostQueues u)))) ∧
      (let v := (List.range 9).foldl flrScope u
       Does .flrPf s { v with pci := { v.pci with sriov := false } }) ∧
      (∀ b : Bool, Does (.d3hotTransition b) s { s with pci := { s.pci with d3hot := b } }) ∧
      Does .perstDeassert s { s with lnt := { s.lnt with perst := false } } ∧
      Does .perstAssert s
        (warmReset { s with lnt := { s.lnt with perst := true }, pci := { s.pci with up := false } } 4)) ∧
    (∀ (n : Nat) (s : State), 1 ≤ n → n ≤ 9 → Does (.flrVf n) s (flrScope (latchRaised s) (n - 1))) ∧
    (∀ (fn off : Nat) (d : Option Word) (v : Word) (s : State), fn < 10 → off % 4 = 0 → off < 4096 →
      (s.pci.answers = false → Does (.configurationRequest fn off d) s { s with resp := .retry }) ∧
      (s.pci.answers = true →
        Does (.configurationRequest fn off none) s { s with resp := .value 4 (cfgRead s fn off) } ∧
        (cfgFixed s fn off = none →
          let u := cfgSwitch { s with resp := .nothing } fn off v.toNat
          Does (.configurationRequest fn off (some v)) s
            { u with pci := { u.pci with cfg := fmPut u.pci.cfg (1024 * fn + off / 4) v } })))

/-- O14. Enabling a disabled queue whose registers are good clears its head and tail, sets the phase and STATE 1, binds
it to the writer and empties what the device kept of its rings; of one already enabled it only binds it to the writer;
disabling an idle queue clears STATE and ENABLE; a restart of a stopped queue writes its held entries and runs it; a
resume of a suspended queue sets its head, empties its completion ring and repeats first the final entries not passed. A
write by a function that may not is counted and does nothing else. While the machine is held in reset none of these does
anything. (R35, R472, R473, R481, R621, R622.) -/
def Obligations.QueueControlRule : Prop :=
  (∀ (fn scope queue : Nat) (s : State), scope ≤ 8 → queue < 64 → s.lnt.heldCode = none → queue < scopeQueues s scope → queueWriter s fn scope queue = true →
      let st := rCmdQStatus scope queue
      (getF s st fCmdQStatusState = 0 → enableOk s scope queue = true →
        let u := setF (setF (setF (setF (setF s st fCmdQStatusSqHead 0) st fCmdQStatusCqTail 0) st fCmdQStatusCqPhase 1)
          st fCmdQStatusState 1) (rCmdQCtl scope queue) fCmdQCtlEnable 1
        Does (.queueEnable fn scope queue true) s
          (setQ u scope queue { getQ u scope queue with
            fn := fn, sqTail := 0, cqHead := 0, armed := true, unpassed := [], cqBroken := false })) ∧
      (getF s st fCmdQStatusState ≠ 0 → Does (.queueEnable fn scope queue true) s (setQ s scope queue { getQ s scope queue with fn := fn })) ∧
      (queueIdle s scope queue = true →
        Does (.queueEnable fn scope queue false) s
          (setF (setF s st fCmdQStatusState 0) (rCmdQCtl scope queue) fCmdQCtlEnable 0)) ∧
      (queueIdle s scope queue = false → Does (.queueEnable fn scope queue false) s (countMalformed s))) ∧
    (∀ (fn scope queue : Nat) (s : State), scope ≤ 8 → queue < 64 → s.lnt.heldCode = none → queueWriter s fn scope queue = true →
      getF s (rCmdQStatus scope queue) fCmdQStatusState = 2 →
      let u := setQ s scope queue { getQ s scope queue with cqBroken := false }
      Does (.queueRestart fn scope queue none) s
        (acceptEntry (flushHeld (setF u (rCmdQStatus scope queue) fCmdQStatusState 1) scope queue) scope queue none)) ∧
    (∀ (fn scope queue head : Nat) (s : State), scope ≤ 8 → queue < 64 → s.lnt.heldCode = none → queueWriter s fn scope queue = true →
      getF s (rCmdQStatus scope queue) fCmdQStatusState = 3 → head < ringSize s scope queue →
      let st := rCmdQStatus scope queue
      let u := setF (setF (setF (setF (latchRaised s) st fCmdQStatusSqHead head) st fCmdQStatusCqTail 0)
        st fCmdQStatusCqPhase 1) st fCmdQStatusState 1
      let q := getQ u scope queue
      let again := (q.unpassed.filter fun e => e.2.kind = 0).map fun e => { e.2 with again := true }
      let u := setQ u scope queue
        { q with held := again ++ q.held, unpassed := [], cqHead := 0, armed := true, cqBroken := false }
      Does (.queueResume fn scope queue head) s (acceptEntry (flushHeld u scope queue) scope queue none)) ∧
    (∀ (fn scope queue head : Nat) (e : Option ReadErr) (s : State), scope ≤ 8 → queue < 64 →
      (s.lnt.heldCode = none → queueWriter s fn scope queue = false →
        Does (.queueRestart fn scope queue e) s (countMalformed s) ∧ Does (.queueResume fn scope queue head) s (countMalformed s)) ∧
      (s.lnt.heldCode ≠ none → Does (.queueRestart fn scope queue e) s s ∧ Does (.queueResume fn scope queue head) s s ∧
        ∀ on, Does (.queueEnable fn scope queue on) s s))

/-- O15. A running queue whose ring holds a slot and whose scope's journal has room takes in the slot at its head, and
an accepted hall command wakes its hall; with the journal full it only raises JOURNAL_FULL. A command whose outcome is
fixed, with nothing unacknowledged and no abort of it waiting, is recorded and its final entry is pushed (an IMAGE_LOAD
as its outcome stands then, R54). (R477, R478, R479, R480, R482, R485, R521.) -/
def Obligations.IntakeAndCompletion : Prop :=
  (∀ (scope queue : Nat) (s : State), scope ≤ 8 → queue < 64 → queue < scopeQueues s scope →
      getF s (rCmdQStatus scope queue) fCmdQStatusState = 1 → fetches s scope = true →
      getF s (rCmdQStatus scope queue) fCmdQStatusSqHead ≠ (getQ s scope queue).sqTail →
      (journalUsed s scope < journalSize s scope →
        let u := intakeSlot s scope queue (ringErr s (getF s (rCmdSq scope queue) fCmdSqBase) none)
          (ringErr s (getF s (rCmdCq scope queue) fCmdCqBase) none)
        Does (.commandIntake scope queue none none) s
          (if scope < 8 && getF u (rCmdQSeq scope queue) fCmdQSeqNextSeq ≠ getF s (rCmdQSeq scope queue) fCmdQSeqNextSeq
            then wakeHall u scope else u)) ∧
      (journalSize s scope ≤ journalUsed s scope →
        Does (.commandIntake scope queue none none) s (raiseCmdEvent s fCmdEventsJournalFull))) ∧
    (∀ (r : CmdRef) (c : Cmd) (elapsed : Nat) (s : State), r.scope ≤ 8 → r.queue < 64 → findCmd s r = some c → c.st = .ended →
      s.lnt.warm = false → s.lnt.heldCode = none → cmdUnacked s r = false → abortPending s r = false → c.opcode ≠ 0x45 →
      let u := latchRaised s
      let c := mgmtOutcome u c
      let e := finalEntry r c elapsed
      Does (.commandCompletion r elapsed none) s
        (pushEntry (recordCmd u r c e.elapsed) r.scope r.queue e
          (ringErr u (getF u (rCmdCq r.scope r.queue) fCmdCqBase) none)))

/-- O16. Stated over every opcode row with one test function: a command that its queue may not dispatch now (not
accepted, another opcode, not the head of its queue, its scope not ready) is left as it is; a dependency that holds it
leaves it as it is; a dependency that has failed ends it with the verdict's code and nothing else; a reserved operand
bit ends it with invalid-field; one accepted under an earlier generation whose queue is gone ends with
structure-changed. NOP and STEP_MARK that are ready end with success, STEP_MARK with its value in INFO. (R4, R483, R484,
R67, R30, R486.) -/
def Obligations.DispatchRule : Prop :=
  (∀ (op : Nat) (r : CmdRef) (c : Cmd) (s : State) (k : State → Cmd → Disp), findCmd s r = some c →
      (c.st ≠ .accepted ∨ c.opcode ≠ op ∨ isHead s r = false ∨ scopeReady s r.scope op = false → dispatch op r s k = .next s) ∧
      (c.st = .accepted → c.opcode = op → isHead s r = true → scopeReady s r.scope op = true →
        (genDiffers s r c = true → queueGone s r c = true → dispatch op r s k = .next (endCmd s r 0x17 0 0 0))) ∧
      (c.st = .accepted → c.opcode = op → isHead s r = true → scopeReady s r.scope op = true →
        (genDiffers s r c && queueGone s r c) = false →
        (depVerdict s r c = .inr () → dispatch op r s k = .next s) ∧
        (∀ code, depVerdict s r c = .inl (some code) → dispatch op r s k = .next (endCmd s r code 0 0 0)) ∧
        (depVerdict s r c = .inl none → opdOk c = false → dispatch op r s k = .next (endCmd s r 0x10 0 0 0)))) ∧
    (∀ (r : CmdRef) (c : Cmd) (s : State), r.scope ≤ 8 → readyFor s r 0x31 c = true →
      Does (.nop r) s (succeed (markDispatched s r) r 0 0)) ∧
    (∀ (r : CmdRef) (c : Cmd) (s : State), r.scope < 8 → readyFor s r 0x25 c = true →
      Does (.stepMark r) s (succeed (markDispatched s r) r 0 c.o0))

/-- O17. Ending a command in flight that has not ended gives it the outcome; one that has ended keeps its own; every
other command of its queue and every other queue is unchanged, and so are all registers and all memory. Marking a
command dispatched gives it the next place in the order of dispatches and leaves every other command alone. (R482,
R487.) -/
def Obligations.EndingFixesOneOutcome : Prop :=
  ∀ (s : State) (r : CmdRef) (c : Cmd) (code check extent info : Nat), r.queue < 64 → findCmd s r = some c →
      (c.st = .accepted ∨ c.st = .dispatched →
        findCmd (endCmd s r code check extent info) r
          = some { c with st := .ended, code := code, check := check, extent := extent, info := info }) ∧
      (c.st = .ended ∨ c.st = .recorded → findCmd (endCmd s r code check extent info) r = some c) ∧
      (∀ q : CmdRef, q.queue < 64 → q ≠ r → findCmd (endCmd s r code check extent info) q = findCmd s q) ∧
      (endCmd s r code check extent info).regs = s.regs ∧ (endCmd s r code check extent info).mem = s.mem ∧
      findCmd (markDispatched s r) r = some { c with st := .dispatched, order := s.clock + 1 } ∧
      (∀ q : CmdRef, q.queue < 64 → q ≠ r → findCmd (markDispatched s r) q = findCmd s q) ∧
      (markDispatched s r).clock = s.clock + 1

/-- O18. An accepted ABORT that names what it may not, or an outcome already fixed, ends with the verdict's code and
touches no target; any other is marked dispatched and its target is aborted. (R488, R489, R483.) -/
def Obligations.AbortRule : Prop :=
  ∀ (r : CmdRef) (c : Cmd) (s : State), r.scope ≤ 8 → findCmd s r = some c → c.st = .accepted → c.opcode = 0x30 →
      s.lnt.warm = false → s.lnt.heldCode = none →
      let t : CmdRef := ⟨bitsOf c.o0 0 4, bitsOf c.o0 8 6, c.o1⟩
      (opdOk c = false → Does (.abort r) s (endCmd s r 0x10 0 0 0)) ∧
      (opdOk c = true →
        (∀ code, abortVerdict s r t = some code → Does (.abort r) s (endCmd s r code 0 0 0)) ∧
        (abortVerdict s r t = none →
          let u := latchRaised (markDispatched s r)
          ∀ x, findCmd u t = some x → Does (.abort r) s (abortCmd u t x)))

/-- O19. A ready PRODUCT, VECTOR_PROGRAM or ATTENTION that passes the learning tests, its owning chapter's checks and
the reach gate goes on to the state in which it is dispatched with its number of items, its reaches, the descriptor or
program it runs, and the scale exponents it uses; an append once the tests of R230 have passed and its alcoves are
resolved, the attention of a rotating ring with its first step begun, a program of no items with success. (R139, R146,
R173, R176, R229, R230, R235, R237, R325.) -/
def Obligations.ComputeCommandsStart : Prop :=
  (∀ (r : CmdRef) (c : Cmd) (ra : Nat) (cr : CacheRec) (w : State) (more : List (Nat × Nat)) (s : State),
      r.scope < 8 → readyFor s r 0x01 c = true →
      let m := markDispatched s r
      let h := r.scope
      let n := bitsOf c.o0 0 12
      let ap := bitOf c.o0 12
      let ol := memBytes m c.o1 256
      learnOpen m h c = true → readsWell m c.o1 256 = true →
      ((ap = false ∧ w = m ∧ more = []) ∨
        (ap = true ∧ listGood m h c.o1 ol = true ∧ seqBusy m h [(apSeq ol, 1)] = false ∧
          appendTest m h (apSeq ol) (apLayer ol) (apPos ol) (apTok ol) = none ∧
          hallCache m h = some (ra, cr) ∧ copyStuck m cr (apSeq ol) (apLayer ol) (apPos ol) (apTok ol) = none ∧
          w = resolveAppend m ra cr (apSeq ol) (apLayer ol) (apPos ol) (apTok ol) ∧ hallCache w h = some (ra, cr) ∧
          appendOk (descOf (secEntry (secOf w.run tyLOOP h (hallVar w.run h)) 64 n)) ol cr = true ∧
          more = appendReach w cr (apSeq ol) (apLayer ol) (apPos ol) (apTok ol))) →
      let db := secEntry (secOf w.run tyLOOP h (hallVar w.run h)) 64 n
      let d := descOf db
      let named := (if d.saEn then [d.scaleA] else []) ++ (if d.sbEn then [d.scaleB] else [])
        ++ (if d.soEn then [d.scaleC] else [])
      let rs := prodReach d ap ol
      let ws := (rs.filter fun x => writtenEntries.contains x.1).map (fun x => natRange x.2.1 x.2.2) ++ more
      let rd := (rs.filter fun x => !writtenEntries.contains x.1).map fun x => natRange x.2.1 x.2.2
      let aux := slotCount w d ol 0 ++ slotCount w d ol 2
      let k (en : Bool) (e : Nat) : Int := if en then seAppliedK w (scaleAddr h e) else 0
      n < hallDescs w.run h → scaleBusy w h named = false → loaderChecks w h d ap c.o1 ol = none →
      readsWell w c.o1 256 = true →
      ¬(c.pass = 1 ∧ d.func = 4 ∧ layerDeriv w.run h c.layer = false) →
      ¬(c.pass = 2 ∧ layerPartial w.run h c.layer = true ∧ d.mask = false) →
      (drainTables d).any (fun j => (getH w h).badTables.contains j) = false →
      (d.codeA = 0 ∨ readsWell w (opAddr ol 0) 64 = true) → (d.codeB = 0 ∨ readsWell w (opAddr ol 2) 64 = true) →
      slotLoading w h d.codeA (opAddr ol 0) = false → slotLoading w h d.codeB (opAddr ol 2) = false →
      operandCoded w h d ol 0 = none → operandCoded w h d ol 2 = none → slotsFull w h = false → reachOpen w h rd ws = true →
      Does (.product r {}) s (updJob (queueSlots h aux (dropItems w r)) r fun j =>
        { j with
          total := d.items, next := 0, reissue := [], done := [], grp := [], norm := {}, amax := 0, presented := false
          reads := rd, writes := ws, rec1 := db, rec2 := ol
          scale := if d.soEn && d.amax && c.pass ≠ 3 then some d.scaleC else none
          kA := k d.saEn d.scaleA, kB := k d.sbEn d.scaleB
          kOut := if d.soEn then (if c.pass = 3 then seAppliedK w (scaleAddr h d.scaleC) else seNextK w (scaleAddr h d.scaleC))
            else 0
          normAddr := if d.norm && c.pass ≠ 3 then some (opAddr ol 14 + 32 * opPitch ol 14) else none
          uses := aux })) ∧
    (∀ (r : CmdRef) (c : Cmd) (s : State), r.scope < 8 → readyFor s r 0x02 c = true →
      let m := markDispatched s r
      let n := memNat m c.o0 4
      let b := memBytes m (c.o0 + 32) (8 * n)
      learnOpen m r.scope c = true → readsWell m c.o0 (32 + 8 * n) = true → progCheck m r.scope c.o0 = none →
      progBadTable m r.scope (progWords b n) = false → reachOpen m r.scope [(c.o0, 32 + 8 * n)] [] = true →
      let t := updJob m r fun j => { j with total := c.o1, rec1 := b, reads := [(c.o0, 32 + 8 * n)] }
      Does (.vectorProgram r none) s (if c.o1 = 0 then succeed t r 0 0 else t)) ∧
    (∀ (r : CmdRef) (c : Cmd) (ra : Nat) (k : CacheRec) (s : State), r.scope < 8 → readyFor s r 0x03 c = true →
      let m := markDispatched s r
      let h := r.scope
      let b := memBytes m c.o0 256
      let a := attOf b
      let named := (if a.qsEn then [a.qScale] else []) ++ (if a.osEn then [a.oScale] else [])
      let ws := [a.outReach k, a.statsReach, a.partReach k, a.rotReach k]
      learnOpen m h c = true → c.o0 % 256 = 0 → inWindow m h false c.o0 256 = true → readsWell m c.o0 256 = true →
      seqBusy m h [(a.seq, 2)] = false →
      crc32c (b.take 240) = leAt b 240 4 → scaleBusy m h named = false → attnChecks m h c.pass c.o0 a = none →
      hallCache m h = some (ra, k) → a.ring = 0 ∨ blockIsolated m 2 = false →
      (∀ g, attnRing m h a = some g → ctxsOpen m h [g.ctx ((g.self + 1) % g.n)] = true) → slotsFull m h = false →
      reachOpen m h [a.qReach k] ws = true →
      let ap (e : Nat) : Int := seAppliedK m (scaleAddr h e)
      let t := updJob m r fun j =>
        { j with
          total := a.items, rec1 := b, reads := [a.qReach k, (c.o0, 256)], writes := ws
          scale := if a.osEn && a.amax && c.pass ≠ 3 then some a.oScale else none
          kA := if a.qsEn then ap a.qScale else 0
          kOut := if a.osEn then (if c.pass = 3 then ap a.oScale else seNextK m (scaleAddr h a.oScale)) else 0
          aux := [0, 0] }
      Does (.attention r none) s (if (attnRing m h a).isSome then startStep t r else t))

/-- O20. For a dispatched local COPY, or a FILL to one buffer of an uncoded source, of n bytes at its first unit, whose
source and destination are disjoint, in reach, outside the host window, zeroed and not lost, with a slot of the mover
free for each request: one step ends it with success and an extent of n / 64 units; every destination byte then reads as
the source byte did, and every byte outside the destination as before. (R26, R476, R486, R292, R282.) -/
def Obligations.CopiesMoveTheirBytes : Prop :=
  ∀ (op : Nat) (r : CmdRef) (c : Cmd) (s : State), op = 0x08 ∨ op = 0x09 → r.scope < 8 → runsAs s r op c = true → cpRemote c = 0 →
      cpCoded c = false → cpDsts s r.scope c = [c.o1] → c.job.next = 0 →
      let n := cpLen c
      n % 64 = 0 → c.o0 % 64 = 0 → c.o1 % 64 = 0 →
      (∀ i, i < n / 64 → hallReach s r.scope false (c.o0 + 64 * i) 64 = true) →
      (∀ i, i < n / 64 → hallReach s r.scope true (c.o1 + 64 * i) 64 = true) →
      c.o0 + n ≤ hostBase → c.o1 + n ≤ hostBase → s.und.zeroing = [] → s.und.lost = [] → s.und.unplaced = [] → s.und.dead = [] →
      (∀ i, i < n / 64 → moverFree s r.scope (memBanks s false (c.o0 + 64 * i) 64) = true) →
      (∀ i, i < n / 64 → moverFree s r.scope (memBanks s true (c.o1 + 64 * i) 64) = true) →
      (c.o0 + n ≤ c.o1 ∨ c.o1 + n ≤ c.o0) →
      ∃ t, Does (if op = 0x08 then .copy r ⟨none, none⟩ else .fill r ⟨none, none⟩) s t ∧
        (∀ k, k < n → memGet t (c.o1 + k) = memGet s (c.o0 + k)) ∧ SameMemBut s t c.o1 n ∧ t.regs = s.regs ∧
        ∃ d, findCmd t r = some d ∧ d.st = .ended ∧ d.code = 0 ∧ d.extent = n / 64

/-- O21. An OFFLOAD that passes checks 1 to 5 of R298 within its host quota writes its handle with a new tag, charges
the quota, and moves its bytes; a PREFETCH that passes its checks takes its pages in hand; a page whose seal over the
bytes read is right is written in its turn, and one whose seal is wrong ends the prefetch at that page with
seal-mismatch (while the host window answers); a release of a complete or failed handle frees it and ends with success.
(R297, R298, R299, R300, R301, R304, R305, R306, R308.) -/
def Obligations.OffloadCommands : Prop :=
  (∀ (r : CmdRef) (mv : Move) (c c' : Cmd) (s : State), r.scope < 8 → readyFor s r 0x0A c = true →
      let m := markDispatched s r
      let h := r.scope
      let ws := [(c.o0, 64), (c.o4, 8 * ceilDiv c.o2 4096), (c.o3, c.o2)]
      handleFreeing m c.o0 = false → readsWell m c.o0 64 = true → unzeroed m c.o4 (8 * ceilDiv c.o2 4096) = false →
      offloadCheck m h c = none → hostUse m h + chargeOf c.o2 ≤ hostQuota m h → guardCount m h + 1 ≤ 64 →
      reachOpen m h [(c.o1, c.o2)] ws = true →
      let t := setF (openHandle m r c) (rUndHallHost h) fUndHallHostBytes (hostUse m h + chargeOf c.o2)
      let t := updJob t r fun j => { j with reads := [(c.o1, c.o2)], held := [(c.o1, c.o2)], writes := ws }
      findCmd t r = some c' → c'.st = .dispatched →
      Does (.offload r mv) s (offloadGo r mv t c')) ∧
    (∀ (r : CmdRef) (c : Cmd) (s : State), r.scope < 8 → readyFor s r 0x0B c = true →
      let m := markDispatched s r
      let h := r.scope
      let p0 := (pfPages m c).1
      let n := (pfPages m c).2
      let span := pfSpan m c.o0 p0 n
      let gs := if span = 0 then [] else [(c.o1, span)]
      handleBusy m c.o0 (if bitOf c.o3 0 then [0x0A, 0x0B] else [0x0A]) = false → c.o0 % 64 = 0 → inWindowM m h c.o0 64 = true →
      readsWell m c.o0 64 = true → prefetchCheck m h c = none → guardWaits m h gs = false → reachOpen m h [] gs = true →
      let t := updJob m r fun j =>
        { j with total := n, guards := gs, writes := gs, reads := [(hdHost m c.o0 + 4096 * p0, span)] }
      Does (.prefetch r none) s (if n = 0 then prefetchDone t r c 0 else t)) ∧
    (∀ (r : CmdRef) (page : Nat) (c : Cmd) (s : State), r.scope < 8 → runsAs s r 0x0B c = true →
      let p0 := (pfPages s c).1
      let n := (pfPages s c).2
      let bytes := memBytes s (hdHost s c.o0 + 4096 * (p0 + page)) (pageBytes s c.o0 (p0 + page))
      pageWanted s r.scope c n page = true → hostOpen s = true →
      (sealOf (hdTag s c.o0) bytes (p0 + page) = memNat s (hdSeal s c.o0 + 8 * (p0 + page)) 4 →
        Does (.prefetchPageRead r page none) s
          (prefetchTurn (updJob s r fun j => { j with buf := fmPut j.buf page bytes }) r c p0 n)) ∧
      (sealOf (hdTag s c.o0) bytes (p0 + page) ≠ memNat s (hdSeal s c.o0 + 8 * (p0 + page)) 4 →
        Does (.prefetchPageRead r page none) s
          (prefetchBad (countErr s r.scope (.handoff 12 0)) r p0 page 0x23))) ∧
    (∀ (r : CmdRef) (c : Cmd) (s : State), r.scope < 8 → readyFor s r 0x0C c = true →
      let m := markDispatched s r
      handleBusy m c.o0 [0x0A, 0x0B] = false → c.o0 % 64 = 0 → windowMW m r.scope c.o0 64 = true → readsWell m c.o0 64 = true →
      hdState m c.o0 = 2 ∨ hdState m c.o0 = 3 → reachOpen m r.scope [] [(c.o0, 64)] = true →
      Does (.offloadRelease r none) s (succeed (releaseHandle m r.scope c.o0) r 0 0))

/-- O22. A CACHE_SETUP of a good record with no sequence open installs the cache; SEQ_OPEN and SEQ_FORK of a free number
with a placed page table open it, the fork sharing every layer of the parent; SEQ_TRIM shortens every longer layer and
releases the pages behind; SEQ_RELEASE releases every page and clears the sequence; SEQ_APPEND_COPY resolves its pages
and moves its lines. Each ends as its chapter says. (R216, R223, R224, R229, R230, R232, R233.) -/
def Obligations.CacheCommands : Prop :=
  (∀ (r : CmdRef) (c : Cmd) (s : State), r.scope < 8 → readyFor s r 0x10 c = true →
      let m := markDispatched s r
      let h := r.scope
      let b := memBytes m c.o0 64
      let k := cacheOf b
      windowMW m h c.o0 64 = true → readsWell m c.o0 64 = true → crc32c (b.take 0x28) = leAt b 0x38 4 → cacheFieldsOk b = true →
      windowMW m h k.atab (8 * k.alcoves) = true → windowMW m h k.seqTab 4194304 = true →
      inWindow m h true k.pool (k.alcoves * k.bytes) = true → anySeqOpen m h = false →
      seqBusy m h ((List.range 65536).map fun n => (n, 1)) = false →
      reachOpen m h [] [(c.o0, 64), (k.atab, 8 * k.alcoves), (k.seqTab, 4194304)] = true →
      Does (.cacheSetup r none) s (succeed (setupCache m h c.o0 k) r 0 0)) ∧
    (∀ (r : CmdRef) (c : Cmd) (ra : Nat) (k : CacheRec) (s : State), r.scope < 8 →
      let m := markDispatched s r
      hallCache m r.scope = some (ra, k) → readsWell m ra 64 = true → seqBusy m r.scope (seqUses c) = false →
      (readyFor s r 0x11 c = true →
        ptFields c.o1 (bitsOf c.o2 0 17) = true → seqOpen m k (bitsOf c.o0 0 16) = false →
        ptPlaced m r.scope k c.o1 (bitsOf c.o2 0 17) = true →
        reachOpen m r.scope [] [(c.o1, k.layers * ptStride (bitsOf c.o2 0 17))] = true →
        Does (.seqOpen r none) s (succeed (openSeq m k (bitsOf c.o0 0 16) c.o1 (bitsOf c.o2 0 17) c.o3) r 0 0)) ∧
      (readyFor s r 0x12 c = true →
        let child := bitsOf c.o0 0 16
        let parent := bitsOf c.o0 16 16
        let len := bitsOf c.o0 32 32
        let pages := bitsOf c.o2 0 17
        ptFields c.o1 pages = true → seqOpen m k parent = true → seqOpen m k child = false →
        (List.range k.layers).all (fun l => len ≤ layerLen m k parent l) = true → ceilDiv len 256 ≤ pages →
        ptPlaced m r.scope k c.o1 pages = true → reachOpen m r.scope [] [(c.o1, k.layers * ptStride pages)] = true →
        Does (.seqFork r none) s
          (succeed ((List.range k.layers).foldl (forkLayer k child parent len) (openSeq m k child c.o1 pages c.o3)) r 0 0)) ∧
      (readyFor s r 0x13 c = true → seqOpen m k (bitsOf c.o0 0 16) = true →
        let n := bitsOf c.o0 0 16
        let len := bitsOf c.o0 32 32
        let p0 := ceilDiv len 256
        Does (.seqTrim r none) s
          (succeed ((List.range k.layers).foldl (fun s l =>
            let s := if len < layerLen s k n l then memPutNat s (ptBlock s k n l) 4 len else s
            releasePages ra k n l p0 (seqPages s k n - p0) s) m) r 0 0)) ∧
      (readyFor s r 0x14 c = true → seqOpen m k (bitsOf c.o0 0 16) = true →
        let n := bitsOf c.o0 0 16
        let t := (List.range k.layers).foldl (fun s l => releasePages ra k n l 0 (seqPages s k n) s) m
        Does (.seqRelease r none) s (succeed (memPutNat t (seqAddr k n) 1 0) r 0 0)) ∧
      (∀ (mv : Move) (c' : Cmd), readyFor s r 0x15 c = true →
        appendTest m r.scope (acSeq c) (acLayer c) (acPos c) (acTok c) = none →
        inWindow m r.scope false c.o1 (min 64 (acSpan k c)) = true →
        reachOpen m r.scope [(c.o1, acSpan k c)] (appendReach m k (acSeq c) (acLayer c) (acPos c) (acTok c)) = true →
        let t := resolveAppend m ra k (acSeq c) (acLayer c) (acPos c) (acTok c)
        let t := updJob t r fun j => { j with
          reads := [(c.o1, acSpan k c)], writes := appendReach t k (acSeq c) (acLayer c) (acPos c) (acTok c) }
        findCmd t r = some c' → c'.st = .dispatched →
        Does (.seqAppendCopy r mv) s (appendGo r mv t c')))

/-- O23. EXP_ENCODE of a loaded or retiring slot kills the destination header and encodes; XTAB_LOAD of a good table
takes the first empty slot and reports it with its version; XTAB_RETIRE of a loaded slot retires it; PACK of good fields
takes its tiles in hand with its destination header dead; PACK_ASSEMBLE of a pack whose items are done writes offsets,
payload, then the header; CODED_EXPAND of a good payload counts its blocks, takes its tiles in hand where it is KIND 2,
and goes on with its course. (R317, R319, R323, R324, R325, R326, R327, R329, R337, R338, R340.) -/
def Obligations.CodeTableCommands : Prop :=
  (∀ (r : CmdRef) (mv : Move) (c c' : Cmd) (s : State), r.scope < 8 → readyFor s r 0x18 c = true →
      let m := markDispatched s r
      let h := r.scope
      let st := getF m (rUndXtabSlot h (eeSlot c)) fUndXtabSlotState
      let ws := (c.o2, c.o3) :: (if c.o4 = 0 then [] else [(c.o4, 1024)])
      st = 2 ∨ st = 3 → eeLen c % 64 = 0 → c.o2 % 64 = 0 →
      inWindow m h false c.o0 (eeLen c) = true ∨ inExplicit m h c.o0 (eeLen c) = true →
      inWindow m h true c.o2 c.o3 = true → (c.o4 = 0 ∨ inWindow m h true c.o4 1024 = true) →
      inEnc m c.o0 (eeLen c) = false → inEnc m c.o2 c.o3 = false → reachOpen m h [(c.o0, eeLen c)] ws = true →
      let t := updJob (killHeader m c.o2 c.o3) r fun j => { j with reads := [(c.o0, eeLen c)], writes := ws }
      findCmd t r = some c' → c'.st = .dispatched →
      Does (.expEncode r mv) s (encodeGo r mv t c')) ∧
    (∀ (r : CmdRef) (c : Cmd) (i : Nat) (s : State), r.scope < 8 → readyFor s r 0x19 c = true →
      let m := markDispatched s r
      let h := r.scope
      let tab := memBytes m c.o0 192
      let rep := bitsOf c.o1 0 4
      inWindow m h false c.o0 192 = true → readsWell m c.o0 192 = true → ctCrcOk tab = true → ctOk tab false = true →
      rep = 0xF ∨ (rep < 4 ∧ (slotStates m h).getD rep 0 = 2) → inEnc m c.o0 192 = false →
      (List.range 4).find? (fun j => (slotStates m h).getD j 0 = 0) = some i → reachOpen m h [(c.o0, 192)] [] = true →
      let t := loadSlot m h i 1 tab
      Does (.xtabLoad r none) s
        (succeed (updJob t r fun j => { j with aux := [i, rep] }) r 0
          (i + 256 * getF t (rUndXtabSlot h i) fUndXtabSlotVersion))) ∧
    (∀ (r : CmdRef) (c : Cmd) (s : State), r.scope < 8 → readyFor s r 0x1A c = true →
      let m := markDispatched s r
      getF m (rUndXtabSlot r.scope (bitsOf c.o0 0 2)) fUndXtabSlotState = 2 →
      Does (.xtabRetire r) s (succeed (retireSlot m r.scope (bitsOf c.o0 0 2)) r 0 0)) ∧
    (∀ (r : CmdRef) (c : Cmd) (s : State), r.scope < 8 → readyFor s r 0x1B c = true →
      let m := markDispatched s r
      let h := r.scope
      let sc := pkTiles c * pkSlot c
      learnOpen m h c = true → pkFmt c = 2 ∨ pkFmt c = 3 → 1 ≤ pkRank c → pkRank c ≤ 32 → pkIter c ≤ 4 → threshOk (pkThresh c) = true →
      pkRowBytes c % 64 = 0 → 2 * pkCols c ≤ pkRowBytes c → pkDst c % 64 = 0 →
      inWindow m h false (pkSrc c) (pkSpan c) = true ∨ inExplicit m h (pkSrc c) (pkSpan c) = true →
      inWindow m h true (pkDst c) (pkCap c) = true → inWindow m h true c.o4 sc = true ∨ inExplicit m h c.o4 sc = true →
      inEnc m (pkSrc c) (pkSpan c) = false → inEnc m (pkDst c) (pkCap c) = false →
      inEnc m c.o4 sc = false → slotsFull m h = false →
      reachOpen m h [(pkSrc c, pkSpan c)] [(pkDst c, pkCap c), (c.o4, sc)] = true →
      Does (.pack r none) s (updJob (killHeader m (pkDst c) (pkCap c)) r fun j =>
        { j with total := pkTiles c, reads := [(pkSrc c, pkSpan c)], held := [(pkSrc c, pkSpan c)]
                 writes := [(pkDst c, pkCap c), (c.o4, sc)] })) ∧
    (∀ (r : CmdRef) (c : Cmd) (s : State), r.scope < 8 → runsAs s r 0x1B c = true → c.job.total ≤ c.job.done.length →
      let tiles := (List.range c.job.total).map fun t =>
        let x := memNat s (pkDst c + 64 + 8 * t) 8
        (bitOf x 48, bitsOf x 32 16)
      let units := (tiles.map (·.2)).foldl (· + ·) 0
      let hd : CHdr := ⟨pkDst c, 2, pkFmt c, 0, 0, pkTiles c, pkSpan c, pkRows c, pkCols c, pkRowBytes c, pkRank c, 64 * units⟩
      (hd.endA - hd.addr ≤ pkCap c → 64 + 8 * pkTiles c ≤ pkCap c →
        let t := store s (pkDst c + 64) (dirBytes 0 tiles)
        let t := putUnits t hd.pay ((List.range c.job.total).flatMap (packBytes t c)) 0 units
        Does (.packAssemble r ⟨none, none⟩) s
          (succeed (store t (pkDst c) (chdrBytes hd (pkThresh c))) r c.job.done.length 0)) ∧
      (pkCap c < hd.endA - hd.addr ∨ pkCap c < 64 + 8 * pkTiles c →
        Does (.packAssemble r ⟨none, none⟩) s (endCmd s r 0x14 0 c.job.done.length 0))) ∧
    (∀ (r : CmdRef) (mv : Move) (c c' : Cmd) (s : State), r.scope < 8 → readyFor s r 0x1C c = true → mv.err = none →
      let m := markDispatched s r
      let h := r.scope
      let place (a n : Nat) : Bool := inWindow m h false a n || inHost a n
      let hd := chdrOf c.o0 (memBytes m c.o0 64)
      place c.o0 64 = true → readsWell m c.o0 64 = true → (hd.kind = 1 → slotLoading m h 1 c.o0 = false) →
      codedCheck m h (if hd.kind = 2 then 2 else 1) (if hd.kind = 2 ∧ hd.fmt = 3 then 3 else 2) c.o0 place (fun _ => true) = none →
      inWindow m h true c.o1 hd.rawLen = true ∨ inExplicit m h c.o1 hd.rawLen = true → inEnc m c.o1 hd.rawLen = false →
      reachOpen m h [(c.o0, hd.endA - hd.addr)] [(c.o1, hd.rawLen)] = true →
      let aux := if hd.kind = 1 then [hd.slot, hd.blocks] else []
      let t := updJob (queueSlots h aux m) r fun j =>
        { j with total := if hd.kind = 2 then hd.blocks else 0, uses := aux
                 reads := [(c.o0, hd.endA - hd.addr)], writes := [(c.o1, hd.rawLen)] }
      findCmd t r = some c' → c'.st = .dispatched →
      (hd.kind ≠ 2 ∨ hd.blocks ≠ 0 → Does (.codedExpand r mv) s (expandGo r mv t c')) ∧
      (hd.kind = 2 → hd.blocks = 0 → Does (.codedExpand r mv) s (succeed t r 0 0)))

/-- O24. A ready COLLECTIVE whose record is good, whose ring has this device and whose contexts are open enters the
hall's list of the step's collectives and begins to send; a ready OWNER_UPDATE of a good record enters the list of the
step's updates with its blocks of 4,096 elements as items. One that runs already sends what it still has to send. (R346,
R351, R361, R366, R367, R368, R380, R401.) -/
def Obligations.CollectivesAndUpdatesStart : Prop :=
  (∀ (r : CmdRef) (c : Cmd) (g : Ring) (s : State), r.scope < 8 → readyFor s r 0x20 c = true →
      let m := markDispatched s r
      let h := r.scope
      let b := memBytes m c.o0 128
      let src := clReads m h b
      let recv := clRecvRange b g
      let ret := (clRetain b, if clKind b = 2 then 0 else clRetainLen b)
      let gs := if clKind b = 2 && inExplicit m h recv.1 recv.2 then [recv] else []
      c.o0 % 128 = 0 → inWindow m h false c.o0 128 = true → readsWell m c.o0 128 = true → crc32c (b.take 124) = leAt b 124 4 →
      ¬(clKind b < 2 ∧ (layerFrozen m.run h (clLayer b) = true ∨ hallGenerates m.run h = true)) → clFieldsOk m h b = true →
      ringAt m.run h (clRing b) = some g → scaleBusy m h (clNamed b) = false → clChecks m h b g = none →
      ctxsOpen m h (clCtxs b g) = true → guardWaits m h gs = false → reachOpen m h [src] [recv, ret] = true →
      (clKind b = 2 → readsStuck m (gatherSpans m h b g).1 = none ∧ writesStuck m (gatherSpans m h b g).2 = none) →
      let t := updJob m r fun j =>
        { j with
          rec1 := b, reads := [src], writes := [recv, ret], guards := gs, held := if clKind b = 2 then [src] else []
          kA := if clScaleEn b then seAppliedK m (scaleAddr h (clSrcScale b)) else 0
          kOut := agreedExp m h b, aux := List.replicate (max 1 g.n) 0 }
      let v := getClo t h
      let t := setClo t h { v with
        colls := { id := clId b, bytes := b, ring := g } :: v.colls.filter fun x => x.id ≠ clId b }
      Does (.collective r none) s (collGo (if clKind b = 2 then gatherStart t r b g else t) r)) ∧
    (∀ (r : CmdRef) (c : Cmd) (e : Option ReadErr) (s : State), r.scope < 8 → runsAs s r 0x20 c = true →
      Does (.collective r e) s (collGo s r)) ∧
    (∀ (r : CmdRef) (c : Cmd) (x : Coll) (g : Ring) (s : State), r.scope < 8 → readyFor s r 0x21 c = true →
      let m := markDispatched s r
      let h := r.scope
      let b := memBytes m c.o0 64
      let e := hallEpoch m h
      let role := ouRole b
      let n := memNat m (ouProg b) 4
      let pb := if role = 0 then memBytes m (ouProg b + 32) (8 * n) else []
      let far := (match g.backer (ouShard b) with | some q => if role = 0 then [g.ctx q] else [] | none => [])
        ++ (if ouRefetch b then ((keepers x (ouShard b)).filter (· ≠ g.self)).map g.ctx else [])
      let rw := ouReach b x g e
      c.o0 % 64 = 0 → inWindow m h false c.o0 64 = true → readsWell m c.o0 64 = true → crc32c (b.take 60) = leAt b 60 4 →
      layerFrozen m.run h (ouLayer b) = false → hallGenerates m.run h = false → ouFieldsOk m h b = true →
      ouColl m h b = some (x, g) → ouReachOk m h b x g e = true → (role = 0 → progCheck m h (ouProg b) = none) →
      progBadTable m h (progWords pb n) = false → ctxsOpen m h far = true → (role = 0 → slotsFull m h = false) →
      reachOpen m h rw.1 rw.2 = true →
      let na := match layerRec m.run h (ouLayer b) with | some l => leAt l 8 6 | none => 0
      let t := updJob m r fun j =>
        { j with
          total := if role = 1 then 0 else ceilDiv (clShard x.bytes g (ouShard b)).2 4096, rec1 := b, rec2 := pb
          reads := rw.1, writes := rw.2
          norms := if na = 0 ∨ role = 1 then [] else [(na, {}), (na + 64, {}), (na + 96, {})]
          aux := [if ouRefetch b then 1 else 0, 0, 0, e] }
      let v := getClo t h
      let u : Upd := { coll := ouId b, shard := ouShard b, role := role }
      let t := setClo t h { v with
        upds := u :: v.upds.filter fun y => !(y.coll = u.coll && y.shard = u.shard && y.role = u.role) }
      Does (.ownerUpdate r none) s (updSettle (mirrorOut (refetch t r) r) r)) ∧
    (∀ (r : CmdRef) (c : Cmd) (e : Option ReadErr) (s : State), r.scope < 8 → runsAs s r 0x21 c = true →
      Does (.ownerUpdate r e) s (updSettle (mirrorOut (refetch s r) r) r))

/-- O25. A ready STEP_COMMIT of the hall's epoch (or resumed, of one applied) and of its commit ring, alone in its hall,
whose table names valid entries with no update under way, reads its table and, on a ring, begins to collect, or ends at
once where the contexts to its neighbours are not open; a STEP_ABANDON of the epoch in a hall with no commit ring, or in
one that leads its ring, abandons the step here and succeeds, the leader's token going round first; one of the epoch
before ends with already-complete, any other with epoch-mismatch; EPOCH_SET with nothing of the step under way sets the
epoch. (R107, R110, R371, R372, R376, R377, R379, R401.) -/
def Obligations.StepCommands : Prop :=
  (∀ (r : CmdRef) (c : Cmd) (s : State), r.scope < 8 → readyFor s r 0x22 c = true →
      let m := markDispatched s r
      let h := r.scope
      let n := bitsOf c.o2 0 13
      let table := memBytes m c.o1 (8 * n)
      scRing c = (match commitRing m.run h with | some g => g.num | none => 0) →
      (hallCommits m h).any (fun p => p.1 ≠ r) = false → scEpoch c = hallEpoch m h ∨ (scResume c = true ∧ (appliedFor m h (scEpoch c)).isSome = true) → n ≤ 4096 →
      (0 < n → inWindow m h false c.o1 (8 * n) = true) → readsWell m c.o1 (8 * n) = true →
      (List.range n).all (fun t => leAt table (8 * t + 6) 2 ≤ 1) = true →
      (tableScales table).all (fun x => seValid m (scaleAddr h x)) = true → scaleBusy m h (tableScales table) = false →
      let t := updJob m r fun j => { j with rec1 := table, aux := [0] }
      (commitReaches t h c = true →
        Does (.stepCommit r none) s (if scRing c = 0 then t else setF t (rClsHallCommit h) fClsHallCommitState 1)) ∧
      (commitReaches t h c = false →
        Does (.stepCommit r none) s (commitUnreached t r { c with job := { c.job with rec1 := table } }))) ∧
    (∀ (r : CmdRef) (c : Cmd) (s : State), r.scope < 8 → readyFor s r 0x23 c = true →
      let m := markDispatched s r
      let h := r.scope
      let e := bitsOf c.o0 0 32
      (∀ g, commitRing m.run h = some g → g.lead = g.self → e = hallEpoch m h →
        (g.next g.self = g.self → Does (.stepAbandon r) s (succeed (abandonHere m h e) r 0 0)) ∧
        (∀ t, g.next g.self ≠ g.self → sendToken m none h g e (tokBody 3 false false [] 1 []) = some t →
          let u := abandonHere t h e
          Does (.stepAbandon r) s (succeed (setClo u h { getClo u h with abandoning := true }) r 0 0))) ∧
      (commitRing m.run h = none →
      (e = hallEpoch m h → Does (.stepAbandon r) s (succeed (abandonHere m h e) r 0 0)) ∧
      (e ≠ hallEpoch m h → (e + 1) % 2 ^ 32 = hallEpoch m h → Does (.stepAbandon r) s (endCmd s r 0x01 0 0 0)) ∧
      (e ≠ hallEpoch m h → (e + 1) % 2 ^ 32 ≠ hallEpoch m h → Does (.stepAbandon r) s (endCmd s r 0x32 0 0 0)))) ∧
    (∀ (r : CmdRef) (c : Cmd) (s : State), r.scope < 8 → readyFor s r 0x24 c = true →
      let m := markDispatched s r
      let busy := (earlierCmds m r.scope).any fun p => p.2.opcode = 0x20 || p.2.opcode = 0x21 || p.2.opcode = 0x22
      (busy = false → getF m (rClsHallCommit r.scope) fClsHallCommitState ≠ 3 →
        Does (.epochSet r) s (succeed (setF m (rClsHallEpoch r.scope) fClsHallEpochEpoch (bitsOf c.o0 0 32)) r 0 0)) ∧
      (busy = true ∨ getF m (rClsHallCommit r.scope) fClsHallCommitState = 3 → Does (.epochSet r) s (endCmd s r 0x32 0 0 0)))

/-- O26. A POOL_LEASE of a good record within the hall's pool quota adds its MiB to the hall's charge and succeeds; one
that does not fit, with no return under way, ends with quota-exceeded; a POOL_RETURN of a good record takes its MiB off.
(R273, R415.) -/
def Obligations.PoolCommands : Prop :=
  (∀ (r : CmdRef) (c : Cmd) (s : State), r.scope < 8 → readyFor s r 0x26 c = true →
      let m := markDispatched s r
      let h := r.scope
      let b := memBytes m c.o0 64
      let charge := leAt b 16 4 * 0x100000
      inWindow m h false c.o0 64 = true → readsWell m c.o0 64 = true → leaseOk m h b = true →
      (poolUse m h + charge ≤ poolQuota m h →
        Does (.poolLease r none) s (succeed (setF m (rUndHallPool h) fUndHallPoolBytes (poolUse m h + charge)) r 0 0)) ∧
      (poolQuota m h < poolUse m h + charge → (earlierCmds m h).any (fun p => p.2.opcode = 0x27) = false →
        Does (.poolLease r none) s (endCmd s r 0x16 0 0 0))) ∧
    (∀ (r : CmdRef) (c : Cmd) (s : State), r.scope < 8 → readyFor s r 0x27 c = true →
      let m := markDispatched s r
      let charge := leAt (memBytes m c.o0 64) 16 4 * 0x100000
      inWindow m r.scope false c.o0 64 = true → readsWell m c.o0 64 = true → leaseForm (memBytes m c.o0 64) = true →
      Does (.poolReturn r none) s
        (succeed (setF m (rUndHallPool r.scope) fUndHallPoolBytes (poolUse m r.scope - charge)) r 0 0))

/-- O27. STREAM_OPEN of a free context with a good record that fits the Frieze opens it for the hall; STREAM_CLOSE of an
open context of the hall turns it closing; STREAM_DATA whose CRC is right gives its new pictures to the context, and
with none ends at once; ENCODE_PICTURE puts the next input picture in the context's list, a region table that fails its
CRC counted and ignored; FRZ_RELEASE sets the picture number below which buffers are free. (R442, R444, R445, R446,
R447, R448, R455, R456, R459.) -/
def Obligations.StreamCommands : Prop :=
  (∀ (r : CmdRef) (c : Cmd) (s : State), r.scope < 8 → readyFor s r 0x2A c = true →
      let m := markDispatched s r
      let h := r.scope
      let k := bitsOf c.o0 0 8
      let b := memBytes m c.o1 128
      c.o1 % 128 = 0 → inWindow m h false c.o1 128 = true → readsWell m c.o1 128 = true → crc32c (b.take 0x7C) = leAt b 0x7C 4 →
      (getStream m k).st = 0 → streamFieldsOk b = true → streamPlaceOk m h b = true → workSize b ≤ srWorkLen b →
      rateOk m b = true → (srEnc b = true → floorOk b = true ∧
        Config.levelAdmits (if srAv1 b then 1 else 0) (srLevel b) (srW b) (srH b) (srNum b) (srDen b) = true) →
      Does (.streamOpen r none) s
        (succeed (setStream m k { st := 1, hall := h, bytes := b
                                  level := min (srBuf b * (90000 * srNum b)) (srBitrate b * srDelay b * srNum b) }) r 0 0)) ∧
    (∀ (r : CmdRef) (c : Cmd) (s : State), r.scope < 8 → readyFor s r 0x2B c = true →
      let m := markDispatched s r
      let k := bitsOf c.o0 0 8
      (getStream m k).st = 1 → (getStream m k).hall = r.scope →
      Does (.streamClose r) s (closeSettle (setStream m k { getStream m k with st := 2 }) k)) ∧
    (∀ (r : CmdRef) (pics : List Nat) (c : Cmd) (s : State), r.scope < 8 → readyFor s r 0x2C c = true →
      let m := markDispatched s r
      let h := r.scope
      let k := bitsOf c.o0 0 8
      let n := bitsOf c.o2 0 27
      ctxIs m h k false = true → 1 ≤ n → n ≤ 0x4000000 → inWindow m h false c.o1 n = true → readsWell m c.o1 n = true →
      crc32c (memBytes m c.o1 n) = bitsOf c.o3 0 32 →
      let v := getStream m k
      let new := (pics.map (· % 2 ^ 32)).filter fun p => (fmFind v.pics p).isNone && !(v.todo.any fun t => t.2.1 = p)
      let t := setStream m k { v with todo := v.todo ++ new.map fun p => (r, p, m.clock) }
      let t := updJob t r fun j => { j with total := new.length, reads := [(c.o1, n)] }
      Does (.streamData r pics none) s (if new.isEmpty then succeed t r 0 0 else t)) ∧
    (∀ (r : CmdRef) (c : Cmd) (s : State), r.scope < 8 → readyFor s r 0x2D c = true →
      let m := markDispatched s r
      let h := r.scope
      let k := bitsOf c.o0 0 8
      let w := bitsOf c.o2 0 16
      let ht := bitsOf c.o2 16 16
      let v := getStream m k
      let n := sourceBytes v.bytes w ht
      ctxIs m h k true = true → 1 ≤ w → w ≤ srW v.bytes → 1 ≤ ht → ht ≤ srH v.bytes →
      let t := memBytes m c.o3 192
      inWindow m h false c.o1 n = true → readsWell m c.o1 n = true →
      (c.o3 ≠ 0 → inWindow m h false c.o3 192 = true ∧ readsWell m c.o3 192 = true ∧ (encRoiCrc t = true → encRoiOk t = true)) →
      let u := if c.o3 ≠ 0 && !encRoiCrc t then countHall m h 0x0D0 1 else m
      Does (.encodePicture r none) s
        (updJob (setStream u k { v with todo := v.todo ++ [(r, v.nextIn, m.clock)], nextIn := (v.nextIn + 1) % 2 ^ 32 }) r
          fun j => { j with total := 1, reads := [(c.o1, n)] })) ∧
    (∀ (r : CmdRef) (c : Cmd) (s : State), r.scope < 8 → readyFor s r 0x2E c = true →
      let m := markDispatched s r
      let k := bitsOf c.o0 0 8
      ctxIs m r.scope k false = true →
      Does (.frzRelease r) s (succeed (setStream m k { getStream m k with releaseBelow := bitsOf c.o0 32 32 }) r 0 0))

/-- O28. A ready FOYER_BATCH of a good manifest takes its slots in hand with its groups; a ready DICT_LOAD of a good
image puts it in force for its hall and shows it loading, and a bad CRC refuses it and raises DICT_REFUSED. (R418, R420,
R423, R426.) -/
def Obligations.FoyerCommands : Prop :=
  (∀ (r : CmdRef) (c : Cmd) (s : State), r.scope < 8 → readyFor s r 0x28 c = true →
      let m := markDispatched s r
      let h := r.scope
      let b := memBytes m c.o0 128
      let es := memBytes m (c.o0 + 128) (32 * mfSlots b)
      let srcs := ((List.range (mfSlots b)).map (mfSlot es)).filterMap fun e =>
        if slKind e = 2 || slLen e = 0 then none else some (slSrc e, slLen e)
      (earlierCmds m h).any (fun p => p.2.opcode = 0x29) = false → c.o0 % 64 = 0 → inWindow m h true c.o0 128 = true →
      inWindow m h true c.o0 (128 + 32 * mfSlots b) = true → readsWell m c.o0 128 = true →
      readsWell m (c.o0 + 128) (32 * mfSlots b) = true → manifestCrcOk b es = true → batchChecks m h c.o0 b es = none →
      reachOpen m h srcs (batchWrites c.o0 b) = true →
      Does (.foyerBatch r none) s (updJob m r fun j =>
        { j with total := mfSlots b, groups := mfGroups b, rec1 := b, rec2 := es, reads := srcs, writes := batchWrites c.o0 b })) ∧
    (∀ (r : CmdRef) (c : Cmd) (s : State), r.scope < 8 → readyFor s r 0x29 c = true →
      let m := markDispatched s r
      let h := r.scope
      let n := dcTotal (memBytes m c.o0 64)
      let d := memBytes m c.o0 n
      (earlierCmds m h).any (fun p => p.2.opcode = 0x29 ||
        (p.2.opcode = 0x28 && (List.range p.2.job.total).any fun i => slKind (mfSlot p.2.job.rec2 i) = 0)) = false →
      inWindow m h false c.o0 64 = true → 64 ≤ n → n ≤ 0x4000000 → inWindow m h false c.o0 n = true → readsWell m c.o0 n = true →
      (dictCrcOk d = true → dictOk d = true →
        Does (.dictLoad r none) s
          (succeed (setF (setH m h { getH m h with dict := d }) (rFoyHallDict h) fFoyHallDictLoading 1) r 0 0)) ∧
      (dictCrcOk d = false →
        Does (.dictLoad r none) s
          (updCmd (endCmd (raiseF m rFoyEvents fFoyEventsDictRefused) r 0x13 0 0 0) r fun c => { c with order := 0 })))

/-- O29. An IMAGE_LOAD of an inactive slot, where the seal is whole and the window open or its signer is enrolled, ends
with success and INFO 1 where its read-back is good and with validation-failed where it is not; an ATTEST of a good
request writes the report, its signature and, where asked, the identity chain; a SELFTEST_READ of a good request writes
the results or records asked for. (R54, R566, R567, R571, R583, R584, R585, R560.) -/
def Obligations.ManagementCommands : Prop :=
  (∀ (r : CmdRef) (c : Cmd) (s : State), r.scope = 8 → readyFor s r 0x40 c = true →
      let m := markDispatched s r
      let b := memBytes m c.o0 (ilLen c)
      ilLen c ≤ 0x4000000 → mgmtReach m false c.o0 (ilLen c) = true → readsWell m c.o0 (ilLen c) = true →
      ilSlot c ≠ activeSlot m (ilFw c) →
      (signerKey m (ilFw c) (imSigner b)).isSome = true ∨ (sealBroken m = false ∧ windowOpen m = true) →
      let t := updJob m r fun j => { j with
        rec1 := b, aux := [if (signerKey m (ilFw c) (imSigner b)).isNone then 1 else 0] }
      Does (.imageLoad r none) s
        (if slotFits (ilFw c) (ilSlot c) && (imageCheck m (ilFw c) b).isNone then succeed t r 0 1 else endCmd t r 0x3B 0 0 0)) ∧
    (∀ (r : CmdRef) (c : Cmd) (s : State), r.scope = 8 → readyFor s r 0x41 c = true →
      let m := markDispatched s r
      let b := memBytes m c.o0 64
      let body := reportBody m ((b.drop 24).take 32)
      let what := leAt b 0 1
      let n := 512 + (if what = 0 then 0 else 96 + Config.cert.length)
      let out := body ++ fixLen 64 (Config.sm2Sign m.freeCtr body) ++ (if what = 0 then [] else identityBytes)
      c.o0 % 64 = 0 → mgmtReach m false c.o0 64 = true → readsWell m c.o0 64 = true → crc32c (b.take 60) = leAt b 60 4 → what ≤ 1 → leAt b 1 7 = 0 →
      leAt b 14 2 = 0 → leAt b 20 4 = 0 → leAt b 56 4 = 0 → leAt b 8 6 % 64 = 0 →
      (if what = 0 then 512 else 2656) ≤ leAt b 16 4 → mgmtReach m true (leAt b 8 6) n = true →
      writeStuck m (leAt b 8 6) n = none →
      Does (.attest r none) s (succeed (store { m with freeCtr := m.freeCtr + 1 } (leAt b 8 6) out) r 0 0)) ∧
    (∀ (r : CmdRef) (c : Cmd) (s : State), r.scope = 8 → readyFor s r 0x47 c = true →
      let m := markDispatched s r
      let b := memBytes m c.o0 64
      let what := leAt b 0 1
      let out := testOutput m what (leAt b 2 2) (leAt b 4 2)
      c.o0 % 64 = 0 → mgmtReach m false c.o0 64 = true → readsWell m c.o0 64 = true → crc32c (b.take 60) = leAt b 60 4 → what ≤ 1 → leAt b 1 1 = 0 →
      leAt b 6 2 = 0 → leAt b 14 2 = 0 → leAt b 20 40 = 0 → leAt b 2 2 < (if what = 0 then 101 else 4096) → 1 ≤ leAt b 4 2 →
      leAt b 4 2 ≤ 4096 → leAt b 8 6 % 64 = 0 → out.length ≤ leAt b 16 4 → mgmtReach m true (leAt b 8 6) out.length = true →
      writeStuck m (leAt b 8 6) out.length = none →
      Does (.selftestRead r none) s (succeed (store m (leAt b 8 6) out) r 0 0))

/-- O30. A ready privileged command whose request record is readable with a right CRC, no other one before it: where the
seal is whole, the presence window open and its fields good, KEY_ENROLL with a free slot and a new digest and a point of
the curve, KEY_REVOKE of a held key that did not sign the running firmware (with no such point, or of such a key,
invalid-field), DEBUG_UNLOCK with no encrypted region, and REPAIR_CLEAR each fix success; SECURE_ERASE with no hall work
and its rings in the host window drops every region key, zeroes all memory, counts the erase, and reports the channels
erased. With the seal broken each ends with seal-broken, with the seal whole and the window closed with no-presence.
(R571, R572, R573, R574, R575, R576, R577.) -/
def Obligations.PrivilegedCommands : Prop :=
  ∀ (r : CmdRef) (c : Cmd) (s : State),
      let m := markDispatched s r
      let b := memBytes m c.o0 128
      let t := updJob m r fun j => { j with rec1 := b }
      r.scope = 8 → (earlierCmds m 8).any (fun p => 0x42 ≤ p.2.opcode && p.2.opcode ≤ 0x46) = false → c.o0 % 128 = 0 →
      mgmtReach m false c.o0 128 = true → readsWell m c.o0 128 = true → crc32c (b.take 0x7C) = leAt b 0x7C 4 →
      (sealBroken m = false → windowOpen m = true →
        (readyFor s r 0x42 c = true → prFieldsOk 0x42 b = true →
          prTransient b = true ∨ (((prKey b).useStruct = true ∨ (prKey b).useFw = true) ∧ fmFind m.lnt.keys (prSlot b) = none) →
          (m.lnt.keys.all fun e => e.2.digest ≠ (prKey b).digest) = true →
          Does (.keyEnroll r none) s (if Config.sm2Point (prKey b).pub then succeed t r 0 0 else endCmd s r 0x10 5 0 0)) ∧
        (∀ k : Key, readyFor s r 0x43 c = true → prFieldsOk 0x43 b = true → fmFind m.lnt.keys (prSlot b) = some k →
          Does (.keyRevoke r none) s (if k.digest ≠ imSigner m.lnt.fwManifest then succeed t r 0 0 else endCmd s r 0x10 5 0 0)) ∧
        (readyFor s r 0x44 c = true → prFieldsOk 0x44 b = true → encRegions m = 0 →
          Does (.debugUnlock r none) s (succeed t r 0 0)) ∧
        (∀ failed : List Nat, readyFor s r 0x45 c = true → prFieldsOk 0x45 b = true → hallWork m = false →
          hostBase ≤ getF m (rCmdSq 8 r.queue) fCmdSqBase → hostBase ≤ getF m (rCmdCq 8 r.queue) fCmdCqBase →
          let up := (List.range 24).filter (chanHealthy t)
          let bad := up.filter failed.contains
          let erased := up.filter fun c => !failed.contains c
          let gone := (List.range 24).filter fun c => !erased.contains c
          let u := memZero { t with lnt := { t.lnt with
            smKeys := [], eraseCount := t.lnt.eraseCount + 1, eraseLast := incarnation t } } 0 sysEnd
          let u := bad.foldl (fun s c => addRecord s { kind := 5, source := 1, slice := 16 + c, incarnation := incarnation s }) u
          Does (.secureErase r failed none) s (succeed u r 0 (maskOf' erased + 2 ^ 24 * maskOf' gone))) ∧
        (readyFor s r 0x46 c = true → prFieldsOk 0x46 b = true → Does (.repairClear r none) s (succeed t r 0 0))) ∧
      (∀ code check : Nat, (sealBroken m = true ∧ code = 0x41 ∧ check = 2) ∨
          (sealBroken m = false ∧ windowOpen m = false ∧ code = 0x40 ∧ check = 3) →
        (readyFor s r 0x42 c = true → Does (.keyEnroll r none) s (endCmd s r code check 0 0)) ∧
        (readyFor s r 0x43 c = true → Does (.keyRevoke r none) s (endCmd s r code check 0 0)) ∧
        (readyFor s r 0x44 c = true → Does (.debugUnlock r none) s (endCmd s r code check 0 0)) ∧
        (∀ failed : List Nat, readyFor s r 0x45 c = true → Does (.secureErase r failed none) s (endCmd s r code check 0 0)) ∧
        (readyFor s r 0x46 c = true → Does (.repairClear r none) s (endCmd s r code check 0 0)))

/-- O31. A tread that may take work takes the next item of the oldest command with items left: a product's or another
command's item joins what it holds, a vector program starts on it with scalar 0 holding the item and scalar 1 the
operand, an update's item brings its operands into the Landing; a group block with room is fetched; when the pass of a
product or attention item ends, its tile goes to the drain and, where the drain was idle, the first rows issued are
written, and the item of a pack or expansion is done; when the last row is written the counter records the item. (R112,
R139, R160, R161, R162, R163, R165, R166, R170, R367, R623.) -/
def Obligations.TreadItems : Prop :=
  (∀ (t : Nat) (r : CmdRef) (c x : Cmd) (i : Nat) (s : State), t < 128 → r.scope < 8 → findCmd s r = some c →
      c.st = .dispatched → cmdItems c = true → nextItem c = some i →
      oldest (withItems s r.scope (c.opcode = 0x02)) = some (r, x) → takesWork s r.scope t = true → mayTake s t r c = true →
      let u := updJob s r fun j => { j with
        reissue := j.reissue.drop 1, next := if j.reissue.isEmpty then j.next + 1 else j.next }
      (c.opcode ≠ 0x02 → c.opcode ≠ 0x21 →
        Does (.itemTake t r) s
          (treadStatus (groupTake (setT u t { getT u t with
            held := (getT u t).held ++ [{ cmd := r, item := i, vec := cmdVector c }] }) r t i) t)) ∧
      (c.opcode = 0x02 →
        let tr := { getT u t with
          s := [], prog := { cmd := some r, item := i, words := progWords c.job.rec1 (c.job.rec1.length / 8) } }
        Does (.itemTake t r) s
          (treadStatus (setT u t (setScalar (setScalar tr 0 (BitVec.ofNat 64 i)) 1 (BitVec.ofNat 64 c.o2))) t)) ∧
      (c.opcode = 0x21 → updStuck u r c i = none → Does (.itemTake t r) s (updTake u r c t i))) ∧
    (∀ (r : CmdRef) (c : Cmd) (group : Nat) (got : List (Nat × Nat)) (g0 : Grp) (s : State), r.scope < 8 → findCmd s r = some c →
      c.st = .dispatched → fmFind c.job.grp group = some g0 →
      let g := groupSettle c group (got.foldl (fun g x => groupGive c group g x.1 x.2) g0)
      let u := updJob s r fun j => { j with grp := fmPut j.grp group g }
      g.fetched < (descOf c.job.rec1).q → g.held < 4 → groupUse u g.flight + groupBlock (descOf c.job.rec1) ≤ 0x100000 →
      Does (.groupBlockFetch r { group := group, got := got }) s
        (updJob u r fun j => { j with grp := fmPut j.grp group { g with fetched := g.fetched + 1, held := g.held + 1 } })) ∧
    (∀ (t rows : Nat) (hd : Held) (c : Cmd) (s : State), t < 128 →
      (getT s t).held.find? (fun h => !h.ended) = some hd → findCmd s hd.cmd = some c →
      (getT s t).held.countP (fun h => h.ended && !h.vec) < 2 ∨ hd.vec = true → groupReady c hd.item = true →
      let n := if (getT s t).held.any (·.ended) then 0 else rows
      let x := pctxOf s hd.cmd.scope c
      (∀ tile, c.opcode = 0x01 → x.tile s hd.item x.d.rows 0 = .ok tile →
        let u := groupPassed (countCvts s hd.cmd.scope (x.expandCvts s hd.item)) hd.cmd hd.item
        Does (.mainPassEnd t rows none) s
          (treadStatus (drainTread (setT u t { getT u t with
            held := setOpen { hd with ended := true, rows := tile } (getT u t).held }) t n) t)) ∧
      (c.opcode = 0x03 → attnRowsStuck s hd.cmd.scope c hd.item = none →
        let y := attnRows s hd.cmd.scope c hd.item
        Does (.mainPassEnd t rows none) s
          (treadStatus (drainTread (setT y.2 t { getT y.2 t with
            held := setOpen { hd with ended := true, att := y.1 } (getT y.2 t).held }) t n) t)) ∧
      (∀ u, c.opcode = 0x1B ∨ c.opcode = 0x1C ∨ c.opcode = 0x09 → directItem s hd.cmd c hd.item = .ok u →
        Does (.mainPassEnd t rows none) s
          (treadStatus (recordItem (setT u t { getT u t with held := dropOpen (getT u t).held }) hd.cmd hd.item) t))) ∧
    (∀ (t : Nat) (hd : Held) (c : Cmd) (s : State), t < 128 → (getT s t).held.find? (·.ended) = some hd →
      findCmd s hd.cmd = some c →
      let w := drainHeldRows s hd (max hd.rows.length hd.att.length)
      let k := w.2.1
      w.2.2 = none → (running w.1 k.cmd = true → lastPart c k.item = true → combineStuck w.1 k.cmd c k.item = none) →
      let u := setT w.1 t { getT w.1 t with held := dropEnded (getT w.1 t).held }
      let x := pctxOf u k.cmd.scope c
      let v := if c.opcode = 0x03 then
          (if (attnRing u k.cmd.scope (attOf c.job.rec1)).isSome then attnKeep u k.cmd k.item k.att else u)
        else if x.d.argmax && !x.d.hasP then x.mergeBest u k.item k.best else u
      Does (.itemDrained t) s (treadStatus (recordItem v k.cmd k.item) t))

/-- O32. TREAD_ISOLATE sets ISOLATE, and of a powered tread that holds nothing STATE 3 with what follows for its flight;
FORCE of an isolated tread writes the rows issued and abandons what it holds, and of one not isolated does nothing;
TREAD_UNISOLATE of an isolated, stopped tread zeroes its Landing, so that every byte of it reads 0, loads its tables and
takes work again, and of one that still finishes leaves it to come back when it has; TREAD_ISOLATION_DONE of a going
tread that holds nothing sets STATE 3, of one called back brings it back. What a tread that still finishes does when
ISOLATE is cleared is the model's choice (log 289). (R144, R549, R623.) -/
def Obligations.TreadIsolation : Prop :=
  (∀ (t : Nat) (s : State), t < 128 → s.lnt.heldCode = none →
      let u := setF s (rTrdIsolate t) fTrdIsolateIsolate 1
      let u := setT u t { getT u t with rejoin := false }
      ((getT s t).held ≠ [] ∨ (getT s t).prog.cmd ≠ none ∨ getF s (rTrdStatus t) fTrdStatusState = 0 → Does (.treadIsolate t) s u) ∧
      ((getT s t).held = [] → (getT s t).prog.cmd = none → getF s (rTrdStatus t) fTrdStatusState ≠ 0 →
        Does (.treadIsolate t) s (flightGone (setF u (rTrdStatus t) fTrdStatusState 3) (t / 8)))) ∧
    (∀ (t rows : Nat) (s : State), t < 128 → s.lnt.heldCode = none →
      (isF s (rTrdIsolate t) fTrdIsolateIsolate = true →
        Does (.treadForce t rows) s (flightGone (forceTread (drainTread s t rows) t) (t / 8))) ∧
      (isF s (rTrdIsolate t) fTrdIsolateIsolate = false → Does (.treadForce t rows) s s)) ∧
    (∀ (t : Nat) (s : State), t < 128 → s.lnt.heldCode = none → isF s (rTrdIsolate t) fTrdIsolateIsolate = true →
      (getF s (rTrdStatus t) fTrdStatusState = 3 →
        ∃ u, Does (.treadUnisolate t) s u ∧ isF u (rTrdIsolate t) fTrdIsolateIsolate = false ∧ (getT u t).rejoin = false ∧
          (getT u t).faults = 0 ∧ (∀ a, landingBase t ≤ a → a < landingBase t + 0x200000 → memGet u a = 0) ∧
          SameMemBut s u (landingBase t) 0x200000) ∧
      (getF s (rTrdStatus t) fTrdStatusState ≠ 3 → getF s (rTrdStatus t) fTrdStatusState ≠ 0 →
        ∃ u, Does (.treadUnisolate t) s u ∧ isF u (rTrdIsolate t) fTrdIsolateIsolate = false ∧ (getT u t).rejoin = true ∧
          u.mem = s.mem)) ∧
    (∀ (t : Nat) (s : State), t < 128 → s.lnt.heldCode ≠ none →
      Does (.treadIsolate t) s s ∧ Does (.treadUnisolate t) s s ∧ ∀ rows, Does (.treadForce t rows) s s) ∧
    (∀ (t : Nat) (s : State), t < 128 → (getT s t).held = [] → (getT s t).prog.cmd = none →
      getF s (rTrdStatus t) fTrdStatusState ≠ 0 →
      (isF s (rTrdIsolate t) fTrdIsolateIsolate = true ∨ flightWorking s (t / 8) = false →
        Does (.treadIsolationDone t) s (flightGone (setF s (rTrdStatus t) fTrdStatusState 3) (t / 8))) ∧
      (isF s (rTrdIsolate t) fTrdIsolateIsolate = false → flightWorking s (t / 8) = true → (getT s t).rejoin = true →
        Does (.treadIsolationDone t) s (rejoinTread s t)))

/-- O33. VADD, VSUB, VMUL, VFMA, VDIV, VSQRT, VREM, VMINN, VMAXN, VMIN, VMAX, VRINT, VSCALB, VLOGB, VSEL, VCLASS and
VBCAST: where a tread's program stands at one, it goes on with the lane effect of its operation and leaves every other
tread and all memory alone. (R138, R140, R141, R106.) -/
def Obligations.VectorFloatingPointLanes : Prop :=
  ∀ (t : Nat) (i : VIns) (s : State), t < 128 → vecFetch s t = some i →
      let tr := getT s t
      let F := vfmt i.w
      let rm := vecRm tr i
      let a (l : Nat) : Nat := laneOf tr i.w i.va l
      let b (l : Nat) : Nat := laneOf tr i.w i.vb l
      let c (l : Nat) : Nat := laneOf tr i.w i.vc l
      (i.op = 0x1 → ∃ u, Does (.vadd t) s u ∧ LaneEffect s u t i fun l => fAdd F rm (a l) (b l)) ∧
      (i.op = 0x2 → ∃ u, Does (.vsub t) s u ∧ LaneEffect s u t i fun l => fSub F rm (a l) (b l)) ∧
      (i.op = 0x3 → ∃ u, Does (.vmul t) s u ∧ LaneEffect s u t i fun l => fMul F rm (a l) (b l)) ∧
      (i.op = 0x4 → ∃ u, Does (.vfma t) s u ∧ LaneEffect s u t i fun l => fFma F rm (a l) (b l) (c l)) ∧
      (i.op = 0x5 → ∃ u, Does (.vdiv t) s u ∧ LaneEffect s u t i fun l => fDiv F rm (a l) (b l)) ∧
      (i.op = 0x6 → ∃ u, Does (.vsqrt t) s u ∧ LaneEffect s u t i fun l => fSqrt F rm (a l)) ∧
      (i.op = 0x7 → ∃ u, Does (.vrem t) s u ∧ LaneEffect s u t i fun l => fRem F (a l) (b l)) ∧
      (i.op = 0x8 → ∃ u, Does (.vminn t) s u ∧ LaneEffect s u t i fun l => fMinNum F (a l) (b l)) ∧
      (i.op = 0x9 → ∃ u, Does (.vmaxn t) s u ∧ LaneEffect s u t i fun l => fMaxNum F (a l) (b l)) ∧
      (i.op = 0xA → ∃ u, Does (.vmin t) s u ∧ LaneEffect s u t i fun l => fMin F (a l) (b l)) ∧
      (i.op = 0xB → ∃ u, Does (.vmax t) s u ∧ LaneEffect s u t i fun l => fMaxi F (a l) (b l)) ∧
      (i.op = 0xC → ∃ u, Does (.vrint t) s u ∧ LaneEffect s u t i fun l => fRint F rm (a l)) ∧
      (i.op = 0xD → ∃ u, Does (.vscalb t) s u ∧ LaneEffect s u t i fun l => fScalb F rm (a l) (sext (laneBits i.w) (b l))) ∧
      (i.op = 0xE → ∃ u, Does (.vlogb t) s u ∧ LaneEffect s u t i fun l => fLogb F (a l)) ∧
      (i.op = 0x11 → ∃ u, Does (.vsel t) s u ∧ LaneEffect s u t i fun l => (if maskBit tr (i.vc % 8) l then a l else b l, 0)) ∧
      (i.op = 0x13 → ∃ u, Does (.vclass t) s u ∧ LaneEffect s u t i fun l => ((Config.classCode (fClass F (a l))).toNat, 0)) ∧
      (i.op = 0x38 → ∃ u, Does (.vbcast t) s u ∧ LaneEffect s u t i fun _ => (bitsOf (scalarOf tr (i.va % 16)).toNat 0 (laneBits i.w), 0))

/-- O34. VIADD, VISUB, VIMUL, VAND, VOR, VXOR, VSHL and VSHR work on 32-bit lanes, wrapping; a shift by 32 or more has
an open result (log 7), and nothing else about it is open. They raise no flag and leave every other tread and all memory
alone. (R138, R140, R141.) -/
def Obligations.VectorIntegerLanes : Prop :=
  ∀ (t : Nat) (i : VIns) (s : State), t < 128 → vecFetch s t = some i →
      let a (l : Nat) : Word := BitVec.ofNat 32 (vWord (getT s t) i.va l)
      let b (l : Nat) : Word := BitVec.ofNat 32 (vWord (getT s t) i.vb l)
      let j := { i with w := false }
      (i.op = 0x30 → ∃ u, Does (.viadd t) s u ∧ LaneEffect s u t j fun l => ((a l + b l).toNat, 0)) ∧
      (i.op = 0x31 → ∃ u, Does (.visub t) s u ∧ LaneEffect s u t j fun l => ((a l - b l).toNat, 0)) ∧
      (i.op = 0x32 → ∃ u, Does (.vimul t) s u ∧ LaneEffect s u t j fun l => ((a l * b l).toNat, 0)) ∧
      (i.op = 0x33 → ∃ u, Does (.vand t) s u ∧ LaneEffect s u t j fun l => ((a l &&& b l).toNat, 0)) ∧
      (i.op = 0x34 → ∃ u, Does (.vor t) s u ∧ LaneEffect s u t j fun l => ((a l ||| b l).toNat, 0)) ∧
      (i.op = 0x35 → ∃ u, Does (.vxor t) s u ∧ LaneEffect s u t j fun l => ((a l ^^^ b l).toNat, 0)) ∧
      (i.op = 0x36 → ∃ u, Does (.vshl t) s u ∧ LaneEffect s u t j fun l => ((shlOpen (a l) (b l)).toNat, 0)) ∧
      (i.op = 0x37 → ∃ u, Does (.vshr t) s u ∧ LaneEffect s u t j fun l => ((shrOpen (a l) (b l)).toNat, 0))

/-- O35. VTLU of a loaded table gives each lane on the value of the hall's function, and of a table that failed its CRC
ends the command with check-mismatch; VLD from the tread's own Landing loads each lane on, widened exactly; VST writes
exactly the elements of the lanes on, converted; either ends the command with address-fault outside the Landing. (R105,
R134, R136, R140, R141, R142.) -/
def Obligations.VectorTablesAndLoads : Prop :=
  ∀ (t : Nat) (i : VIns) (s : State), t < 128 → vecFetch s t = some i →
      let tr := getT s t
      let h := (flightHall s.run (t / 8)).getD 0
      let j := bitsOf i.imm 0 1
      let a := vecAddr tr i
      let sz := fmtBits (vecFmt i) / 8
      let inside := within a (laneCount i.w * sz) (landingBase t) (landingBase t + 0x200000)
      (i.op = 0x18 → (getH s h).badTables.contains j = false →
        ∃ u, Does (.vtlu t) s u ∧
          LaneEffect s u t i (fun l => (tabEval (hallTable s.run h j) (laneOf tr i.w i.va l), 0))) ∧
      (i.op = 0x18 → (getH s h).badTables.contains j = true → exec (.vtlu t) s = endProgram s t 0x13 0) ∧
      (i.op = 0x20 → inside = true →
        ∃ u, Does (.vld t) s u ∧ LaneEffect s u t i (fun l => widenTo i.w (vecFmt i) (memNat s (a + l * sz) sz))) ∧
      (i.op = 0x20 → inside = false → exec (.vld t) s = endProgram s t 0x11 a) ∧
      (i.op = 0x21 → inside = true →
        ∃ u, Does (.vst t) s u ∧ SameMemBut s u (landingBase t) 0x200000 ∧ (getT u t).v = tr.v ∧ (getT u t).s = tr.s ∧
          (∀ l, l < laneCount i.w → maskBit tr i.pred l = true →
            memNat u (a + l * sz) sz = (narrowTo i.w (vecFmt i) (bitsOf i.imm 9 8) (laneOf tr i.w i.va l)).1.bits % 2 ^ (8 * sz))) ∧
      (i.op = 0x21 → inside = false → exec (.vst t) s = endProgram s t 0x11 a)

/-- O36. VCMP sets, for each lane on, its bit of mask register VD[2:0] to the predicate's answer and adds the flags
raised; VCVT converts the lanes on that both widths have; VRSUM and VRMAX go on as the reduction over the complete
binary tree of lane index says, the sum rounded at each node, in lane 0 of VD where its mask bit is 1; a lane whose mask
bit is 0 keeps its value. (R96, R140, R141.) -/
def Obligations.VectorComparesAndReductions : Prop :=
  ∀ (t : Nat) (i : VIns) (s : State), t < 128 → vecFetch s t = some i →
      let tr := getT s t
      let on := (List.range (laneCount i.w)).filter fun l => maskBit tr i.pred l
      (i.op = 0x10 →
        let res := on.map fun l =>
          (l, fCmp (vfmt i.w) (Config.cmpPred (bitsOf i.imm 0 4)) (laneOf tr i.w i.va l) (laneOf tr i.w i.vb l))
        let new := res.foldl (fun m r => setBits m r.1 1 (if r.2.1 then 1 else 0)) (maskOf tr (i.vd % 8)).toNat
        ∃ u, Does (.vcmp t) s u ∧
          (getT u t).m = (setMask tr (i.vd % 8) (BitVec.ofNat 64 new)).m ∧ (getT u t).v = tr.v ∧ (getT u t).s = tr.s ∧
          (getT u t).prog.pc = tr.prog.pc + 1 ∧ u.mem = s.mem) ∧
      (i.op = 0x12 →
        let k := Config.cvtKinds (bitsOf i.imm 0 4)
        let wide (x : Fin 4) : Bool := x.val % 2 = 1
        ∃ u, Does (.vcvt t) s u ∧
          (∀ l, l < (if wide k.1 || wide k.2 then 32 else 64) →
            laneOf (getT u t) (wide k.2) i.vd l =
              if maskBit tr i.pred l then
                (vcvtLane k.1.val k.2.val (vecRm tr i) (laneOf tr (wide k.1) i.va l)).1 % 2 ^ laneBits (wide k.2)
              else laneOf tr (wide k.2) i.vd l) ∧
          (∀ l, l < laneCount (wide k.2) → maskBit tr i.pred l = false →
            laneOf (getT u t) (wide k.2) i.vd l = laneOf tr (wide k.2) i.vd l) ∧
          (getT u t).s = tr.s ∧ (getT u t).m = tr.m ∧ (getT u t).prog.pc = tr.prog.pc + 1 ∧ u.mem = s.mem) ∧
      (let xs := (List.range (laneCount i.w)).map fun l => if maskBit tr i.pred l then some (laneOf tr i.w i.va l) else none
       let put (u : State) (x : Nat) : Prop :=
         laneOf (getT u t) i.w i.vd 0 = (if maskBit tr i.pred 0 then x % 2 ^ laneBits i.w else laneOf tr i.w i.vd 0) ∧
         (∀ l, l < laneCount i.w → maskBit tr i.pred l = false → laneOf (getT u t) i.w i.vd l = laneOf tr i.w i.vd l) ∧
         (∀ r l, r ≠ i.vd → l < 64 → vWord (getT u t) r l = vWord tr r l) ∧ (getT u t).prog.pc = tr.prog.pc + 1 ∧ u.mem = s.mem
       (∀ x fl, i.op = 0x28 → laneTree (fAdd (vfmt i.w) (vecRm tr i)) (if i.w then 5 else 6) xs = some (x, fl) →
         ∃ u, Does (.vrsum t) s u ∧ put u x) ∧
       (∀ x fl, i.op = 0x29 → laneTree (fMaxNum (vfmt i.w)) (if i.w then 5 else 6) xs = some (x, fl) →
         ∃ u, Does (.vrmax t) s u ∧ put u x))

/-- O37. SOP puts the operation's result into scalar VD and goes on; LOOP decrements scalar VD and branches while it is
not 0; BR branches where its condition holds and goes on where it does not; HALT of a vector-program command ends the
program and records its item, and of an update writes the item's results out first. (R138, R139, R141, R165, R367.) -/
def Obligations.VectorScalarsAndBranches : Prop :=
  ∀ (t : Nat) (i : VIns) (s : State), t < 128 → vecFetch s t = some i →
      let tr := getT s t
      let go (u : State) (x : Tread) (pc : Nat) : State := setT u t { x with prog := { x.prog with pc := pc } }
      (i.op = 0x3C →
        ∃ u, Does (.sop t) s u ∧ (getT u t).prog.pc = tr.prog.pc + 1 ∧ u.mem = s.mem ∧ (getT u t).v = tr.v ∧
          (getT u t).s = (setScalar tr (i.vd % 16) (Config.sop i.imm (scalarOf tr (i.va % 16)) (scalarOf tr (i.vb % 16)))).s) ∧
      (i.op = 0x3D →
        let v := scalarOf tr (i.vd % 16) - 1
        (v ≠ 0 → Does (.loop t) s (go s (setScalar tr (i.vd % 16) v) (Config.brTarget i.imm tr.prog.pc))) ∧
        (v = 0 → ∃ u, Does (.loop t) s u ∧ scalarOf (getT u t) (i.vd % 16) = 0 ∧ (getT u t).prog.pc = tr.prog.pc + 1)) ∧
      (i.op = 0x3E → ∃ u, Does (.br t) s u ∧ u.mem = s.mem ∧
        (if Config.brTaken i.imm (scalarOf tr (i.va % 16)) (scalarOf tr (i.vb % 16)) = true then
          u = go s tr (Config.brTarget i.imm tr.prog.pc) else (getT u t).prog.pc = tr.prog.pc + 1)) ∧
      (∀ (r : CmdRef) (c : Cmd), i.op = 0x3F → tr.prog.cmd = some r → findCmd s r = some c →
        (c.opcode = 0x02 → Does (.halt t) s (itemDone (vecStop s t) r tr.prog.item)) ∧
        (c.opcode = 0x21 → c.st = .dispatched → updPutStuck s r c tr.prog.item = none →
          ∃ v, haltProgram (updPut s r c t tr.prog.item) t tr = .next v ∧ Does (.halt t) s (updSettle (mirrorOut v r) r)))

/-- O38. XFM_BEGIN of an idle scope opens a transaction with a new TXN_ID and nothing staged; one that is open ends with
transaction-open; staging a good datum puts it into the section copy; a good bulk write starts a copy, whose end with a
right CRC puts the bytes in; a roll-back of an open transaction closes it and counts; commits are requests of the two
forms, whose validation refuses them or makes them pending; a slot confirmation raises the serial floor; a drained
commit that no earlier one holds is validated again where an apply has changed what it rests on, and applies; a drain
that is late reopens the transaction with drain-timeout. While the machine is held in reset a request does nothing.
(R56, R57, R59, R61, R63, R64, R65, R69, R70, R71, R76, R78.) -/
def Obligations.TransactionCommands : Prop :=
  ∀ (scope : Nat) (s : State), scope ≤ 8 → s.lnt.heldCode = none →
      (xBusy s scope = false → xState s scope = 0 →
        let u := bumpF (setXState (setX s scope {}) scope 1) (rXfmStatus scope) fXfmStatusTxnId 1
        Does (.xfmBegin scope) s (setResult (setF u (rXfmStatus scope) fXfmStatusStagedKib 0) scope 0)) ∧
      (xBusy s scope = false → xState s scope ≠ 0 → Does (.xfmBegin scope) s (setResult s scope 0x39)) ∧
      (∀ d : DWord, xBusy s scope = false → xState s scope = 1 → stageFieldsOk s scope (some (leBytes 8 d.toNat)) = true →
        stageKibAfter s scope 8 ≤ 16384 → Does (.stageDataWrite scope d) s (stagePut s scope (leBytes 8 d.toNat))) ∧
      (∀ d : DWord, let n := bitsOf d.toNat 0 25
        let a := getF s (rXfmStageBulkAddr scope) fXfmStageBulkAddrAddr
        xBusy s scope = false → xState s scope = 1 → stageFieldsOk s scope none = true → n ≠ 0 → n % 8 = 0 → n ≤ 0x1000000 →
        a % 64 = 0 → bulkSourceOk s scope a n = true →
        Does (.stageBulkWrite scope d) s
          (setBusy (setX s scope { getX s scope with bulk := some (a, n, bitsOf d.toNat 32 32) }) scope true)) ∧
      (∀ a n crc : Nat, (getX s scope).bulk = some (a, n, crc) →
        let u := setBusy (setX s scope { getX s scope with bulk := none }) scope false
        readsWell s a n = true → goneIn u a n = none → stageFieldsOk u scope (some (memBytes u a n)) = true →
        (crc32c (memBytes u a n) = crc → stageKibAfter u scope n ≤ 16384 →
          Does (.stageBulkDone scope none) s (stagePut u scope (memBytes u a n))) ∧
        (crc32c (memBytes u a n) ≠ crc → Does (.stageBulkDone scope none) s (setResult u scope 0x13))) ∧
      (xBusy s scope = false → xState s scope ≠ 0 → xState s scope ≠ 4 →
        Does (.xfmRollBack scope) s
          (bumpF (raiseF (setResult (closeTxn s scope) scope 0) (rXfmEvents scope) fXfmEventsRolledBack)
            (rXfmCounts scope) fXfmCountsRollbacks 1)) ∧
      (xBusy s scope = false → xState s scope = 1 →
        Does (.xfmCommitStepBoundary scope) s (commitRequest s scope true) ∧
        Does (.xfmCommitImmediate scope) s (commitRequest s scope false) ∧
        ∀ b : Bool, (getX (commitRequest s scope b) scope).validating = true ∧
          (getX (commitRequest s scope b) scope).atBoundary = waitsBoundary (getX s scope) b) ∧
      ((getX s scope).validating = true →
        (∀ f, commitCheck s scope = some f → Does (.validationDone scope) s (refuseCommit s scope f)) ∧
        (commitCheck s scope = none →
          let x := getX s scope
          let u := setFail (setBusy s scope false) scope none
          let u := match x.fwSel with | some _ => { u with lnt := { u.lnt with fwStaged := x.image.getD [] } } | none => u
          let u := setResult (setXState (setX u scope { x with validating := false }) scope 2) scope 0
          Does (.validationDone scope) s (if x.touched.isEmpty then applyCommit u scope else tryPoint u scope))) ∧
      Does .xfmSlotConfirm s (setF s rXfmSerialFloor fXfmSerialFloorFloor
        (max (getF s rXfmSerialFloor fXfmSerialFloorFloor) (getF s rXfmSlot fXfmSlotActiveSerial))) ∧
      (xState s scope = 3 → drained s (getX s scope) = true → earlierCommit s scope (getX s scope) = false →
        let bad := firstV [if (getX s scope).recheck then commitCheck s scope else none,
          if scope = 8 && (getX s scope).fwSel.isNone then check17 s (candidate s scope) else none]
        (bad = none → Does (.commitApply scope) s (applyCommit s scope)) ∧
        (∀ f, bad = some f → Does (.commitApply scope) s (refuseCommit s scope f))) ∧
      (xState s scope = 3 → drained s (getX s scope) = false →
        Does (.drainTimeout scope) s
          (bumpF (raiseF (reopen s scope 0x3C) (rXfmEvents scope) fXfmEventsTimedOut) (rXfmCounts scope) fXfmCountsTimeouts 1))

/-- O39. A read in flight whose every burst verifies is delivered, and one that meets a burst that is lost or does not
verify ends with that failure; a write whose part blocks merge and whose bytes can land reaches its copies, one of a
class with no mirror storing its bytes where nothing of it is lost; a load/store request offered enters its tread's
queue, and the first that may issue is answered or takes a slot; a mover's request that its command requires waits in
turn, and the one whose turn it is takes a free slot. (R257, R263, R270, R279, R280, R281, R282, R283, R285, R286, R288,
R292.) -/
def Obligations.MemoryRequests : Prop :=
  (∀ (q : MemReq) (os : List (Nat × ReadOutcome)) (rg : Region) (s : State), q.write = false → reqOk s q = true →
      inFlight s q = true → unzeroed s q.addr q.len = false → regionOfAddr s q.addr = some rg →
      let x := readAll rg os q.addr (List.range (q.len / 64)) (freeSlot s q)
      (x.2 = none → Does (.memoryRead q os) s (deliver x.1 q)) ∧
      (∀ e a, x.2 = some (e, a) → Does (.memoryRead q os) s (failReqSeen x.1 q.cmd e a)) ∧
      (∀ e, burstErr (freeSlot s q) q.addr = some e → Does (.memoryRead q os) s (failReqSeen (freeSlot s q) q.cmd e q.addr))) ∧
    (∀ (q : MemReq) (o : WriteOutcome) (rg : Region) (s : State), q.write = true → reqOk s q = true → inFlight s q = true →
      unzeroed s q.addr q.len = false → regionOfAddr s q.addr = some rg →
      (∀ e a, writeGone s q.addr q.len = some (e, a) → Does (.memoryWrite q o) s (failReqSeen (freeSlot s q) q.cmd e a)) ∧
      (writeGone s q.addr q.len = none →
        let x := mergeAll rg q o.merge (partBlocks q) (freeSlot s q)
        (∀ e a, x.2 = some (e, a) → Does (.memoryWrite q o) s (failReqSeen x.1 q.cmd e a)) ∧
        (x.2 = none → Does (.memoryWrite q o) s (writeCopies x.1 rg q o)) ∧
        (∀ p, x.2 = none → rg.resolve x.1 q.addr = (p, none) →
          let u := satF (touchCheck (driveDs x.1 p) p) (rUndChanErr (physOf x.1 p).1) fUndChanErrLinkReplay (min o.replays 4)
          let u := missed u p o.primary
          writeGone u q.addr q.len = none → Does (.memoryWrite q o) s (land u q)))) ∧
    (∀ (t h : Nat) (q : MemReq) (s : State), t < 128 → flightHall s.run (t / 8) = some h → q.owner = .tread t →
      let u := countHeld (lsuEnqueue s t h q) t
      let tr := getT u t
      (tr.slots.length < 48 →
        ∀ w, nextReq u t h tr.slots [] tr.queue = some w →
          let v := setT u t { tr with queue := tr.queue.erase w }
          (answersNow v t h w = true → Does (.lsuRequestIssue t (some q)) s (answerReq v t w)) ∧
          (answersNow v t h w = false →
            Does (.lsuRequestIssue t (some q)) s
              (setT v t { tr with queue := tr.queue.erase w, slots := tr.slots ++ [w] }))) ∧
      (48 ≤ tr.slots.length ∨ nextReq u t h tr.slots [] tr.queue = none → Does (.lsuRequestIssue t (some q)) s u)) ∧
    (∀ (hall : Nat) (q0 : MemReq) (r : CmdRef) (s : State), hall < 8 → q0.cmd = some r → r.scope = hall →
      let q := { q0 with owner := .mover hall }
      serves s q = true →
      let u := { s with und := { s.und with moverWait := s.und.moverWait ++ [q] } }
      (∀ h w, moverNext u = some (h, w) →
        Does (.moverSlotGrant hall q0) s { u with und := { u.und with
          moverWait := u.und.moverWait.erase w, moverSlots := u.und.moverSlots ++ [w], moverLast := h } }) ∧
      (moverNext u = none → Does (.moverSlotGrant hall q0) s u))

/-- O40. A refresh drives the die of its channel; retiring the last healthy channel is refused, retiring another or a
device failure retires it with its source; a rebuild block that verifies, or that no copy holds, moves on, the extent
after its last block counted done, and one that does not verify stays; zeroing clears the next extent of the ranges, so
that each of its bytes reads 0, but for the fields of scale entries that a layer record still gives, and every other
byte as before. (R181, R257, R259, R269, R289, R290, R291, R293.) -/
def Obligations.ChannelUpkeep : Prop :=
  (∀ (chan die bank : Nat) (s : State), chan < 24 → die < 16 → bank < 16 → s.und.selfRefresh.contains chan = false →
      Does (.memoryRefresh chan die bank) s { s with und := { s.und with ds := fmPut s.und.ds chan (die, false) } }) ∧
    (∀ (chan : Nat) (s : State), chan < 24 →
      (s.lnt.heldCode = none → chanHealthy s chan = true → ((List.range 24).filter (chanHealthy s)).length ≤ 1 →
        Does (.channelRetire chan) s (raiseF s rUndEvents fUndEventsRefused)) ∧
      (s.lnt.heldCode = none → chanHealthy s chan = true → 1 < ((List.range 24).filter (chanHealthy s)).length →
        Does (.channelRetire chan) s (retireChannel s chan 2)) ∧
      Does (.memoryDeviceFailed chan) s (retireChannel s chan 1)) ∧
    (∀ (c src : Nat) (rest : List (Nat × Nat)) (k : Nat) (ks : List Nat) (ok : Bool) (s : State), s.und.rebuildQ = (c, src) :: rest →
      fmFind s.und.todo c = some (k :: ks) → s.und.selfRefresh = [] →
      let u := match rebuildPlaces s k with
        | some (p, q) => if rebuildDead s k then s else driveDs (driveDs s p) q
        | none => s
      (ok = true ∨ rebuildDead u k = true → u.und.block + 1 < 8192 →
        Does (.rebuildBlockCopy ok) s { u with und := { u.und with block := u.und.block + 1 } }) ∧
      (ok = true ∨ rebuildDead u k = true → 8192 ≤ u.und.block + 1 →
        Does (.rebuildBlockCopy ok) s (endRebuilds 24
          (bumpF { u with und := { u.und with block := 0, todo := fmPut u.und.todo c ks } } rUndRebuild fUndRebuildDone 1))) ∧
      (ok = false → rebuildDead u k = false → Does (.rebuildBlockCopy ok) s u)) ∧
    (∀ (a n : Nat) (zs : List (Nat × Nat)) (s : State), s.und.zeroing = (a, n) :: zs →
      ∃ u, Does .regionZeroing s u ∧ (s.und.layersDue = [] → ∀ x, a ≤ x → x < a + min n extBytes → memGet u x = 0) ∧
        SameMemBut s u a (min n extBytes) ∧
        u.und.zeroing = (if n ≤ extBytes then zs else (a + min n extBytes, n - min n extBytes) :: zs))

/-- O41. A whole message of another epoch than the hall's is refused with epoch-mismatch; a reduction block whose
position follows on, for a shard this device owns and with right residues, adds its final blocks and is counted, for
another's shard is added to and passed on; a thinned group and a gathered parameter message in their turn are stored and
counted; a request for retained data, which comes from the shard's owner, is answered with it, and one for data not kept
is refused with data-lost; mirror bytes in their turn are stored; a message of a later generation that waits too long is
refused. (R347, R348, R353, R358, R363, R369, R370, R371, R380, R381.) -/
def Obligations.CloisterMessages : Prop :=
  (∀ (ctx h : Nat) (g : Ring) (m : List Byte) (s : State), cmEpoch m ≠ hallEpoch s h →
      (msgReady s ctx 1 h g m = true → Does (.reductionBlock ctx) s (refuseMsg s ctx 0x32)) ∧
      (msgReady s ctx 2 h g m = true → Does (.thinnedGroup ctx) s (refuseMsg s ctx 0x32)) ∧
      (msgReady s ctx 5 h g m = true → Does (.retainedReplay ctx) s (refuseMsg s ctx 0x32)) ∧
      (msgReady s ctx 6 h g m = true → Does (.mirrorBytes ctx) s (refuseMsg s ctx 0x32))) ∧
    (∀ (ctx h : Nat) (g : Ring) (m : List Byte) (r : CmdRef) (c : Cmd) (s : State), cmEpoch m = hallEpoch s h →
      collDead s h (cmId m) = false → collCmd s h (cmId m) = some (r, c) →
      let b := c.job.rec1
      let j := cmShard m
      let next (x : State) : State :=
        collSettle (takeMsg (updJob x r fun y => { y with aux := y.aux.set j (y.aux.getD j 0 + cmCount m) }) ctx) r
      (msgReady s ctx 1 h g m = true → addersBusy s h = false → clKind b = 0 → clRing b = g.num → j < g.n →
        cmFirst m = (g.shard (clBlocks b) j).1 + c.job.aux.getD j 0 →
        (g.shard (clBlocks b) j).1 + c.job.aux.getD j 0 + cmCount m ≤ (g.shard (clBlocks b) j).2 →
        let cs := (List.range (cmCount m)).map fun i => rblkOf (((cmPay m).drop (80 * i)).take 80)
        cs.zipIdx.all (fun p => p.1.index = cmFirst m + p.2 && p.1.epoch = cmEpoch m) = true →
        (g.owner j = g.self → cs.all (fun c => residueOf c.mant = c.residue) = true →
          writesStuck s (cs.map fun c => finalSpan b g j c.index) = none →
          Does (.reductionBlock ctx) s (next (cs.foldl (fun s c => finalBlock s h b g j c) s))) ∧
        (∀ t os u, g.owner j ≠ g.self → readsStuck s [clSrcRange b (32 * cmFirst m) (32 * cmCount m)] = none →
          writesStuck s (passSpans b g j (cmFirst m) (cmCount m)) = none → addBlocks s h b c.job.kA cs = some (t, os) →
          passBlocks t r b g j os = some u → Does (.reductionBlock ctx) s (next u))) ∧
      (msgReady s ctx 2 h g m = true → addersBusy s h = false → clKind b = 1 → clRing b = g.num → j < g.n → g.owner j = g.self →
        (g.shard (clGroups b) j).1 ≤ cmFirst m → cmFirst m + cmCount m ≤ (g.shard (clGroups b) j).2 →
        let is := (List.range (cmCount m)).map (cmFirst m + ·)
        writesStuck s (is.map (thinSpan b g)) = none →
        let u := updJob s r fun x => { x with
          buf := is.foldl (fun f i => fmPut f (thinKey i (cmSender m)) (((cmPay m).drop (36 * (i - cmFirst m))).take 36)) x.buf }
        Does (.thinnedGroup ctx) s (collSettle (takeMsg (is.foldl (fun s i => thinWrite s r b g i) u) ctx) r)) ∧
      (msgReady s ctx 3 h g m = true → clKind b = 2 → clRing b = g.num → j < g.n → g.owner j = cmSender m →
        cmFirst m = c.job.aux.getD j 0 →
        let k := min (64 * cmCount m) ((gatherBytes b g j).2 - 64 * cmFirst m)
        let a := clRecv b + (gatherBytes b g j).1 + 64 * cmFirst m
        writeStuck s a k = none →
        Does (.parameterMessage ctx) s (next (store s a ((cmPay m).take k))))) ∧
    (∀ (ctx h : Nat) (g : Ring) (m : List Byte) (s : State), msgReady s ctx 5 h g m = true → cmEpoch m = hallEpoch s h →
      g.owner (cmShard m) = cmSender m →
      let got := (findColl s h (cmId m)).bind fun x => (keptHere s x (cmShard m)).map fun d => (d, keptSpan x (cmShard m))
      (got = none → Does (.retainedReplay ctx) s (refuseMsg s ctx 0x21)) ∧
      (∀ d sp t, got = some (d, sp) → readStuck s sp.1 sp.2 = none →
        let d := d.drop (64 * cmFirst m)
        let n := min 1023 (ceilDiv d.length 64)
        let pay := d.take (64 * n) ++ zeros (64 * n - (d.take (64 * n)).length)
        n ≠ 0 → logMessage s (g.ctx (cmSender m)) none h
          (collHdr 5 g (cmShard m) (hallEpoch s h) (cmId m) n (cmFirst m) pay ++ pay) = some t →
        Does (.retainedReplay ctx) s (takeMsg t ctx))) ∧
    (∀ (ctx h : Nat) (g g' : Ring) (m : List Byte) (r : CmdRef) (c : Cmd) (x : Coll) (s : State),
      msgReady s ctx 5 h g m = true → cmEpoch m = hallEpoch s h → g.owner (cmShard m) ≠ cmSender m →
      updCmd? s h (cmId m) (cmShard m) 0 = some (r, c) → ouColl s h c.job.rec1 = some (x, g') →
      ((fmFind c.job.buf (cmSender m)).getD []).length = 64 * cmFirst m →
      let new := ((fmFind c.job.buf (cmSender m)).getD [] ++ cmPay m).take (keptBytes x (cmShard m))
      let u := updJob s r fun k =>
        { k with buf := fmPut k.buf (cmSender m) new, groupsDone := k.groupsDone.filter (· ≠ cmSender m) }
      Does (.retainedReplay ctx) s (updSettle (refetch (takeMsg u ctx) r) r)) ∧
    (∀ (ctx h : Nat) (g g' : Ring) (m : List Byte) (r : CmdRef) (c : Cmd) (x : Coll) (s : State),
      msgReady s ctx 6 h g m = true → cmEpoch m = hallEpoch s h → updCmd? s h (cmId m) (cmShard m) 1 = some (r, c) →
      let b := c.job.rec1
      let p := ouUnits b x.bytes g
      ouColl s h b = some (x, g') → cmFirst m = c.job.aux.getD 2 0 → cmFirst m + cmCount m ≤ p.1 + p.2 →
      g.owner (cmShard m) = cmSender m → (cmFirst m < p.1 → cmFirst m + cmCount m ≤ p.1) →
      let o := if cmFirst m < p.1 then ouParamBytes b x.bytes g else ouStateRange b x.bytes g
      let base := if cmFirst m < p.1 then ouParam b (ouEpoch c + 1) else ouState b (ouEpoch c + 1)
      let k := if cmFirst m < p.1 then cmFirst m else cmFirst m - p.1
      let pay := (cmPay m).take (o.2 - 64 * k)
      writeStuck s (base + o.1 + 64 * k) pay.length = none →
      let u := store s (base + o.1 + 64 * k) pay
      let u := updJob u r fun j => { j with aux := j.aux.set 2 (j.aux.getD 2 0 + cmCount m) }
      Does (.mirrorBytes ctx) s (updSettle (takeMsg u ctx) r)) ∧
    (∀ (ctx : Nat) (m : List Byte) (g : Ring) (s : State), ctxNum ctx = true → (getCtx s ctx).whole = some m →
      ringAt s.run (getCtx s ctx).hall (cmRing m) = some g → (getCtx s ctx).hall < 8 → 1 ≤ cmType m → cmType m ≤ 6 →
      g.gen < cmGen m →
      Does (.genWaitExpiry ctx) s
        (raiseCls (refuseMsg s ctx 0x31) (getCtx s ctx).hall fClsHallEventsGenRefused))

/-- O42. The commit of a hall with no commit ring that is ready applies at once; the lead position of a ring that is
ready starts the token; a collect token at another member waits there until the member is ready; an apply token applies
the record and goes on; an abandon token abandons the step and goes on, and ends its pass at the lead; a late step
commit raises SLOW; a rotating attention block whose shard has come, its items and sending done, begins its next step.
(R246, R248, R372, R373, R374, R375, R376, R377, R378.) -/
def Obligations.CommitTokens : Prop :=
  (∀ (r : CmdRef) (c : Cmd) (s : State), r.scope < 8 → runsAs s r 0x22 c = true → scPhase c = 0 →
      appliedFor s r.scope (scEpoch c) = none → commitReady s r.scope c.job.rec1 = true →
      (ringAt s.run r.scope (scRing c) = none →
        Does (.commitCollectStart r) s
          (applyRecord s r c (tokBody 2 false true c.job.rec1 1 (ownVals s r.scope c.job.rec1)))) ∧
      (∀ (g : Ring) (u : State), ringAt s.run r.scope (scRing c) = some g → g.lead = g.self → g.next g.self ≠ g.self →
        (getClo s r.scope).abandoning = false →
        sendToken s (some r) r.scope g (scEpoch c)
          (tokBody 1 (scResume c) false c.job.rec1 1 (ownVals s r.scope c.job.rec1)) = some u →
        Does (.commitCollectStart r) s (setPhase u r))) ∧
    (∀ (ctx h : Nat) (g : Ring) (m : List Byte) (s : State), msgReady s ctx 4 h g m = true →
      let u := setF s (rClsHallCommit h) fClsHallCommitMerged (tokMerged (cmPay m))
      (tokPass (cmPay m) = 1 → g.lead ≠ g.self →
        Does (.commitToken ctx) s (mergeToken (takeMsg (setClo u h { getClo u h with token := some m }) ctx) h)) ∧
      (∀ (r : CmdRef) (c : Cmd) (v : State), tokPass (cmPay m) = 2 → g.lead ≠ g.self → scCmd u h (cmEpoch m) = some (r, c) →
        appliedFor u h (cmEpoch m) = none → sendToken u none h g (cmEpoch m) (cmPay m) = some v →
        Does (.commitToken ctx) s (takeMsg (applyRecord v r c (cmPay m)) ctx)) ∧
      (tokPass (cmPay m) = 2 → g.lead = g.self → Does (.commitToken ctx) s (takeMsg u ctx)) ∧
      (∀ v : State, tokPass (cmPay m) = 3 → g.lead ≠ g.self → sendToken u none h g (cmEpoch m) (cmPay m) = some v →
        Does (.commitToken ctx) s (takeMsg (abandonHere v h (cmEpoch m)) ctx)) ∧
      (tokPass (cmPay m) = 3 → g.lead = g.self →
        Does (.commitToken ctx) s (takeMsg (setClo u h { getClo u h with abandoning := false }) ctx))) ∧
    (∀ (hall : Nat) (s : State), hall < 8 → (hallCommits s hall).isEmpty = false →
      Does (.commitSlowExpiry hall) s (raiseCls s hall fClsHallEventsSlow)) ∧
    (∀ (r : CmdRef) (c : Cmd) (ra : Nat) (k : CacheRec) (g : Ring) (s : State), r.scope < 8 → runsAs s r 0x03 c = true →
      hallCache s r.scope = some (ra, k) → attnRing s r.scope (attOf c.job.rec1) = some g →
      attnStepNo c + 1 < g.n → (getCtx s (g.ctx ((g.self + g.n - 1) % g.n))).whole = none → attnGot c = true →
      c.job.total ≤ c.job.done.length → cmdUnacked s r = false →
      Does (.ringRotationStep r) s (startStep (updJob s r fun j => { j with
        aux := [attnStepNo c + 1, 0], rec2 := (fmFind j.buf (2 ^ 40)).getD [], buf := fmErase j.buf (2 ^ 40) }) r))

/-- O43. A frame that is not good, or not the next expected, is discarded with a REPLAY request; an ack frame frees what
it acknowledges; the next frame of a segment for this device waits at the port, one for another device goes through; a
HELLO shows the peer and raises PEER when it changed; a REPLAY sends again from the number named; a QUIESCE is noted; a
replay timeout sends everything again. (R385, R390, R391, R392, R393, R395, R396.) -/
def Obligations.LinkFrames : Prop :=
  (∀ (port : Nat) (frame : List Byte) (s : State), port < 34 → portUp s port = true →
      let ft := leAt frame 0 1 % 8
      (frameOk frame = false → Does (.linkFrameReceive port frame) s (sendReplayReq s port)) ∧
      (frameOk frame = true → ft = 0 → Does (.linkFrameReceive port frame) s (pumpLinks (takeAck s port frame))) ∧
      (frameOk frame = true → ft = 1 ∨ ft = 2 → leAt frame 2 2 ≠ (getPort s port).rxSeq →
        Does (.linkFrameReceive port frame) s (sendReplayReq s port)) ∧
      (frameOk frame = true → leAt frame 2 2 = (getPort s port).rxSeq →
        let u := takeAck s port frame
        let q := { getPort u port with rxSeq := ((getPort u port).rxSeq + 1) % 65536 }
        let vc := bitsOf (leAt frame 0 1) 3 2
        let b := (frame.drop 16).take 608
        (ft = 2 → Does (.linkFrameReceive port frame) s (pumpLinks (setPort u port { q with ctl := q.ctl ++ [frame] }))) ∧
        (ft = 1 → sgDest b = devNum u →
          Does (.linkFrameReceive port frame) s (pumpLinks (setPort u port { q with rx := q.rx ++ [(vc, b)] }))) ∧
        (ft = 1 → sgDest b ≠ devNum u →
          let v := setPort u port q
          Does (.linkFrameReceive port frame) s
            (pumpLinks { v with orl := { v.orl with through := v.orl.through ++ [(port, vc, b)] } })))) ∧
    (∀ (port : Nat) (f : List Byte) (rest : List (List Byte)) (s : State),
      let u := setPort s port { getPort s port with ctl := rest }
      (ctlReady s port 1 f rest = true →
        let dev := leAt f 8 2 % 16384
        let changed := dev ≠ getF u (rOrlPortStatus port) fOrlPortStatusPeerDev || leAt f 20 4 ≠ (getPort u port).peerInc
        let v := setF (setF u (rOrlPortStatus port) fOrlPortStatusPeerDev dev) (rOrlPortStatus port) fOrlPortStatusPeerPort
          (leAt f 10 1 % 64)
        let v := setPort v port { getPort v port with peerInc := leAt f 20 4 }
        Does (.hello port) s (if changed then raiseF v rOrlEvents fOrlEventsPeer else v)) ∧
      (ctlReady s port 2 f rest = true →
        let q := getPort u port
        let n := (leAt f 18 2 + 65536 - (q.txSeq + 65536 - q.replay.length) % 65536) % 65536
        (n < q.replay.length → Does (.replay port) s (resendFrom (countReplay u port) port n)) ∧
        (q.replay.length ≤ n → Does (.replay port) s u)) ∧
      (ctlReady s port 3 f rest = true →
        Does (.quiesce port) s (setPort u port { getPort u port with peerQuiet := true }))) ∧
    (∀ (port : Nat) (s : State), port < 34 → portUp s port = true → (getPort s port).replay.isEmpty = false →
      Does (.linkReplayTimeout port) s (resendFrom (countReplay s port) port 0)) ∧
    (∀ s : State, Does .helloTimer s ((List.range 34).foldl (fun s p => if portUp s p then sendHello s p else s) s))

/-- O44. With a fourth lane aligned a training port is up and says HELLO; lanes lost leave the port; a port outside a
light switch with too few lanes or 16 replays without progress fails; a light switch that ends without lanes fails it,
with lanes ends; a role write of spare quiesces, at once where nothing is unacknowledged, and a role write of active
cancels it; a failed port told to retrain starts over as a spare; a device number is refused while any context is not
free. (R386, R387, R391, R392, R397, R398, R399, R403.) -/
def Obligations.PortStates : Prop :=
  (∀ (port lane : Nat) (s : State), port < 34 → lane < 8 →
      let st := rOrlPortStatus port
      let u := setF s st fOrlPortStatusLanes (getF s st fOrlPortStatusLanes ||| 2 ^ lane)
      (orielPowered s port = true → portState u port = 0 → 4 ≤ lanesUp u port →
        let v := setPort u port { getPort u port with switching := false }
        Does (.laneAligned port lane) s (pumpLinks (sendHello (setPortState v port 1) port))) ∧
      (orielPowered s port = true → portState u port ≠ 0 → Does (.laneAligned port lane) s u) ∧
      Does (.laneAlignmentLost port lane) s (loseLanes s port (2 ^ lane))) ∧
    (∀ (port : Nat) (s : State), port < 34 →
      (portState s port ≠ 2 → (getPort s port).switching = false → (lanesUp s port < 4 ∨ 16 ≤ (getPort s port).noProg) →
        Does (.portFailure port) s (failPort s port)) ∧
      ((getPort s port).switching = true → lanesUp s port < 4 → Does (.lightSwitchTimeout port) s (failPort s port)) ∧
      ((getPort s port).switching = true → 4 ≤ lanesUp s port →
        Does (.lightSwitchTimeout port) s (setPort s port { getPort s port with switching := false })) ∧
      (s.lnt.heldCode = none → portSpare s port = false →
        let u := sendCtl s port (leBytes 4 3)
        ((getPort u port).replay.isEmpty = true →
          Does (.portRoleWrite port true) s (setF u (rOrlPortCtl port) fOrlPortCtlRole 1)) ∧
        ((getPort u port).replay.isEmpty = false →
          Does (.portRoleWrite port true) s (setPort u port { getPort u port with quiescing := true }))) ∧
      (s.lnt.heldCode = none → portSpare s port = false →
        Does (.portRoleWrite port false) s (setPort s port { getPort s port with quiescing := false })) ∧
      (s.lnt.heldCode = none → portSpare s port = true → activePorts s < 32 →
        let u := setF s (rOrlPortCtl port) fOrlPortCtlRole 0
        Does (.portRoleWrite port false) s { u with orl := { u.orl with standIn := fmErase u.orl.standIn port } }) ∧
      (s.lnt.heldCode = none → portState s port = 2 →
        let u := setF (setPortState s port 0) (rOrlPortCtl port) fOrlPortCtlRole 1
        let u := setF u (rOrlPortStatus port) fOrlPortStatusLanes 0
        Does (.portRetrain port) s (setPort u port { getPort u port with noProg := 0, quiescing := false }))) ∧
    (∀ (dev : Nat) (s : State), s.lnt.heldCode = none →
      (s.orl.ctxs.any (fun p => p.2.st ≠ 0) = true → Does (.deviceNumberWrite dev) s (raiseF s rOrlEvents fOrlEventsRefused)) ∧
      (s.orl.ctxs.any (fun p => p.2.st ≠ 0) = false → Does (.deviceNumberWrite dev) s (setF s rOrlDevice fOrlDeviceDevice dev)))

/-- O45. A fault takes a ready module down; removal takes it down and clears what it showed, insertion enables it with
the state its poll shows, and where it is in use and ready its ports take its light: its primary ports, and its
secondary ports whose primary does not feed; the timer enables a failed module again; a poll that finds a ready module
bad takes it down, one that finds an enabled module good that was absent or failed makes it ready, else failed; a
release with every other module ready moves its ports off it, else it is refused; a restore of a ready module puts it in
use again. (R387, R388, R389.) -/
def Obligations.LaserModules : Prop :=
  ∀ (m : Nat) (s : State), m < 5 →
      let l := getLaser s m
      let faulted := setLaser s m { l with fault := true }
      (laserState faulted m = 1 → Does (.laserFault m) s (laserDown faulted m 2)) ∧
      (∀ ok : Bool,
        let u := laserDown s m 0
        Does (.laserPresenceChange m false ok) s (setLaser u m { getLaser u m with present := false, fault := false }) ∧
        Does (.laserPresenceChange m true ok) s
          (lightUp (setLaserState (setLaser s m { l with present := true, en := true, fault := false }) m (if ok then 1 else 2)) m)) ∧
      (l.present = true → laserState s m = 2 → Does (.laserReenableTimer m) s (setLaser s m { l with en := true })) ∧
      (laserState s m = 1 → Does (.laserPoll m false) s (laserDown s m 2)) ∧
      (laserState s m = 0 ∨ laserState s m = 2 → l.present = true → l.en = true →
        Does (.laserPoll m true) s (lightUp (setLaser (setLaserState s m 1) m { l with fault := false }) m) ∧
        Does (.laserPoll m false) s (setLaserState s m 2)) ∧
      (s.lnt.heldCode = none → (List.range 5).all (fun x => x = m || laserState s x = 1) = false →
        Does (.laserRelease m) s (raiseF s rOrlEvents fOrlEventsRefused)) ∧
      (s.lnt.heldCode = none → (List.range 5).all (fun x => x = m || laserState s x = 1) = true →
        Does (.laserRelease m) s (moveOff (setLaser (setLaserState s m 3) m { l with en := false, out := true }) m)) ∧
      (s.lnt.heldCode = none → laserState s m = 1 →
        let u := setLaser s m { l with out := false }
        Does (.laserRestore m) s (refreshLight ((List.range 34).foldl (fun s p =>
          if primaryOf p = m && (portLight s p ≠ m || lanesUp s p = 0) then switchLight s p m
          else if secondaryOf p = m && !laserFeeds s (primaryOf p) && portLight s p ≠ m then switchLight s p m
          else s) u))) ∧
      (laserFeeds s m = false → lightUp s m = refreshLight s) ∧
      (laserFeeds s m = true → lightUp s m = refreshLight ((List.range 34).foldl (fun s p =>
          if primaryOf p = m && (portLight s p ≠ m || lanesUp s p = 0) then switchLight s p m
          else if secondaryOf p = m && !laserFeeds s (primaryOf p) && portLight s p ≠ m then switchLight s p m
          else s) s))

/-- O46. Reading a context fills the window with it; opening a free one from a good window sends OPEN; closing an open
one turns it closing; evicting one that is not free evicts it with cause 4; freeing an evicted one frees it; each of any
other state is refused as a bad operation. A resend timer sends OPEN again; the next segment inside the window is sent;
a timeout sends again everything sent, counted; an eviction timeout evicts with cause 1; an ack delay sends the ack that
is due. (R400, R402, R404, R406, R409, R411, R412.) -/
def Obligations.ContextOperations : Prop :=
  (∀ s : State, s.lnt.heldCode = none →
      let k := ctxIndex s
      let c := getCtx s k
      Does .contextRead s (setWin s (ctxBytes c)) ∧
      (∀ x, ctxFromWin s = some x → k ≠ 0 → c.st = 0 → Does .contextOpen s (sendOpen (setCtx s k x) k)) ∧
      (c.st = 2 → Does .contextClose s (setCtx s k { c with st := 3, closeSent := false })) ∧
      (c.st ≠ 2 → Does .contextClose s (badOp s)) ∧
      (c.st = 1 ∨ c.st = 2 ∨ c.st = 3 → Does .contextEvict s (evict s k 4)) ∧
      (c.st = 4 → Does .contextFree s (setCtx s k { c with st := 0 })) ∧
      (c.st ≠ 4 → Does .contextFree s (badOp s))) ∧
    (∀ (k : Nat) (s : State), ctxNum k = true →
      let c := getCtx s k
      (c.st = 1 → Does (.openResendTimer k) s (sendOpen s k)) ∧
      (∀ g, c.st = 2 → nextSeg c = some g → Does (.segmentSend k) s (sendSeg s k g)) ∧
      (c.st = 3 → nextSeg c = none → c.closeSent = false → c.out.all (·.sent) = true → c.peerClosed = false →
        Does (.segmentSend k) s (sendClose (setCtx s k { c with closeSent := true }) k)) ∧
      (c.st = 2 → (c.out.filter (·.sent)).isEmpty = false →
        let gs := c.out.filter (·.sent)
        Does (.retransmitTimeout k) s (resendAll k (gs.map fun g => { g with sent := false })
          (setCtx s k { c with retx := (c.retx + gs.length) % 2 ^ 32, out := c.out.map fun g => { g with sent := false } }))) ∧
      (c.st = 1 ∨ (c.st = 2 ∧ c.out.any (·.sent) = true) → Does (.evictionTimeout k) s (evict s k 1)) ∧
      (c.st = 2 → 0 < c.acksDue → Does (.ackDelayExpiry k) s (sendAck s k)))

/-- O47. A numbered segment (data, void, reject) whose number lies before the next expected is counted as a duplicate
and acknowledged; one that is next, with no message waiting, is delivered and what follows it in the reorder store too;
one further on inside the window waits in the reorder store. An ack frees what it acknowledges; an OPEN of an opening
context opens it and is answered; an OPEN reply opens it; a CLOSE of an open context evicts it with cause 3. A numbered
segment of a stale incarnation evicts the context with cause 2. (R402, R403, R404, R405, R409, R410, R411.) -/
def Obligations.SegmentsReceived : Prop :=
  (∀ (port vc : Nat) (b : List Byte) (rest : List (Nat × List Byte)) (s : State),
      let u := segTaken s port vc rest
      let k := sgCtx b
      let c := getCtx u k
      let received (i : Instr) (ty : Nat) : Prop := segReady s port ty vc b rest = true → c.st = 2 →
        (staleInc c b = true → Does i s (evict u k 2)) ∧
        (staleInc c b = false → serialLt (sgSeq b) c.due = true →
          Does i s (sendAck (ackIn (setCtx u k { c with dups := (c.dups + 1) % 2 ^ 32 }) k (sgAck b)) k)) ∧
        (∀ v, staleInc c b = false → serialLt (sgSeq b) c.due = false → sgSeq b = c.due → c.whole = none →
          deliverSeg u k b = some v → Does i s (ackIn (drainHeld k (getCtx v k).reorder.length v) k (sgAck b))) ∧
        (staleInc c b = false → serialLt (sgSeq b) c.due = false → sgSeq b ≠ c.due →
          serialDist c.rxNext (sgSeq b) < c.window → (fmFind c.reorder (sgSeq b)).isSome = true ∨ reorderUsed u < reorderRoom →
          Does i s (ackIn (setCtx u k { c with reorder := fmPut c.reorder (sgSeq b) b }) k (sgAck b)))
      received (.dataSegment port) 0 ∧ received (.voidSegment port) 5 ∧ received (.rejectSegment port) 6) ∧
    (∀ (port vc : Nat) (b : List Byte) (rest : List (Nat × List Byte)) (s : State),
      let u := segTaken s port vc rest
      let k := sgCtx b
      let c := getCtx u k
      (segReady s port 1 vc b rest = true → c.st = 2 → staleInc c b = false → Does (.ackSegment port) s (ackIn u k (sgAck b))) ∧
      (segReady s port 2 vc b rest = true → c.st = 1 →
        Does (.openSegment port) s (sendOpenReply (openCtx u k (sgFaddr b % 2 ^ 32)) k)) ∧
      (segReady s port 3 vc b rest = true → c.st = 1 →
        Does (.openReplySegment port) s (openCtx u k (sgFaddr b % 2 ^ 32))) ∧
      (segReady s port 4 vc b rest = true → c.st = 2 → staleInc c b = false → Does (.closeSegment port) s (evict u k 3)) ∧
      (segReady s port 4 vc b rest = true → c.st = 3 → staleInc c b = false → c.closeSent = true →
        Does (.closeSegment port) s (freeCtx u k)))

/-- O48. A text slot whose bytes are readable with a right CRC is tokenised, one whose CRC is wrong becomes a hole of
cause 2, a clip slot is cut from its stream, and slots before it in the order of taking are taken with it; a free pipe
takes the picture its choice names; a decoded picture with its references, whose buffer is free, is written with its
record and frees its pipe; an encode slice within its allowance adds its rows and bytes, or writes them where slices are
delivered as they come; an encode picture whose rows are all coded writes its output, spends its bits and records;
OUT_READ of the selected context moves. (R421, R422, R424, R443, R450, R454, R455, R456, R457, R458.) -/
def Obligations.MediaPipes : Prop :=
  (∀ (r : CmdRef) (slot : Nat) (c : Cmd) (s : State), r.scope < 8 → runsAs s r 0x28 c = true → slot < c.job.total →
      c.job.done.contains slot = false → s.mediaAsleep = false →
      let u := takeSlots s c slot
      let e := mfSlot c.job.rec2 slot
      let src := memBytes u (slSrc e) (slLen e)
      writesStuck u (slotSpans c slot) = none →
      (slKind e = 2 → Does (.slotResolve r slot none) s (clipSlot u r c slot)) ∧
      (slKind e ≠ 2 → slLen e = 0 ∨ readable u r.scope (slSrc e) (slLen e) = .ok () →
        ((slCrcEn e && crc32c src ≠ slCrc e) = true → Does (.slotResolve r slot none) s (holeSlot u r c slot 2)) ∧
        ((slCrcEn e && crc32c src ≠ slCrc e) = false → slKind e = 0 →
          Does (.slotResolve r slot none) s (textSlot u r c slot src)) ∧
        ((slCrcEn e && crc32c src ≠ slCrc e) = false → slKind e ≠ 0 →
          Does (.slotResolve r slot none) s (pictureSlot u r c slot src)))) ∧
    (∀ (pipe k p o : Nat) (v : Stream) (r : CmdRef) (c : Cmd) (s : State), pipe < 10 → (fmFind s.frz.pipes pipe).isSome = false →
      s.mediaAsleep = false → pipePick (pipeChoices s (decide (8 ≤ pipe))) = some (k, v, r, p, o) → findCmd s r = some c →
      let rap := decide (8 ≤ pipe) && (v.forceRap || bitOf c.o0 8 || decide (srGop v.bytes ≤ v.sinceRap))
      let u := setStream s k { v with
        todo := v.todo.drop 1, sinceRap := if rap then 1 else v.sinceRap + 1, forceRap := v.forceRap && !rap }
      Does (.pipePictureStart pipe) s { u with frz := { u.frz with
        pipes := fmPut u.frz.pipes pipe { ctx := k, cmd := r, pic := p, rap := rap, start := v.outWrite } } }) ∧
    (∀ (pipe ref : Nat) (x : Pipe) (p : DecPic) (s : State), pipe < 8 → fmFind s.frz.pipes pipe = some x →
      let v := getStream s x.ctx
      decodeState v p = (0, ref) → unreleased v x.pic = false → p.missing = [] →
      writesStuck s [(bufAddr v.bytes x.pic, picBytes { width := p.width, height := p.height, depth := p.depth }), recSpan v] = none →
      let boxes := if srRoiWait v.bytes then (roiBoxes ((fmFind v.roi x.pic).getD [])).map fun b =>
          (b.1, b.2.1, min b.2.2.1 p.width, min b.2.2.2 p.height) else []
      let v := { v with
        wait := v.wait && !p.rap, endRap := if v.wait && p.rap then some x.pic else v.endRap
        missing := satAdd 16 v.missing 0, bufs := fmPut v.bufs (bufIndex v.bytes x.pic) x.pic
        pics := fmPut v.pics x.pic { st := 0, width := p.width, height := p.height, depth := p.depth }
        roi := fmErase v.roi x.pic }
      let u := putRec (setStream (putPicture s (bufAddr v.bytes x.pic) p boxes) x.ctx v) x.ctx
        (recBytes x.pic 0 p.grain (!boxes.isEmpty) false p.rap p.depth 0 0 p.width p.height p.bits ref p.cycles 0)
      Does (.decodePictureDone pipe p) s (picRecorded (freePipe u pipe) x.cmd x.pic)) ∧
    (∀ (pipe : Nat) (x : Pipe) (bytes : List Byte) (s : State), 8 ≤ pipe → pipe < 10 → fmFind s.frz.pipes pipe = some x →
      let v := getStream s x.ctx
      let w := (encSize s x).1
      let h := (encSize s x).2
      let rows := min (x.rows + srSliceRows v.bytes) (codeRows h)
      let bits := x.bits + 8 * bytes.length
      x.rows < codeRows h → (srRc v.bytes = 0 ∨ bits ≤ allowance v w h x.rap rows) →
      let put (x : Pipe) (s : State) : State := { s with frz := { s.frz with pipes := fmPut s.frz.pipes pipe x } }
      (srSub v.bytes = false →
        Does (.encodeSliceDone pipe bytes) s (put { x with rows := rows, bits := bits, data := x.data ++ bytes } s)) ∧
      (srSub v.bytes = true → bytes.length + 16 ≤ outRoom v → writesStuck s (outSpans v (bytes.length + 16)) = none →
        Does (.encodeSliceDone pipe bytes) s (put { x with rows := rows, bits := bits }
          (putOut s x.ctx (bytes ++ sliceRec bytes.length x.pic x.rows (rows = codeRows h) bytes))))) ∧
    (∀ (pipe qp cycles : Nat) (x : Pipe) (filler : List Byte) (s : State), 8 ≤ pipe → pipe < 10 →
      fmFind s.frz.pipes pipe = some x →
      let v := getStream s x.ctx
      let w := (encSize s x).1
      let h := (encSize s x).2
      let out := (if srSub v.bytes then [] else x.data ++ sliceRec x.data.length x.pic 0 true x.data) ++ filler
      codeRows h ≤ x.rows → filler.length = ceilDiv (shortfall v x.bits) 8 → out.length ≤ outRoom v →
      writesStuck s (recSpan v :: outSpans v out.length) = none →
      let u := putOut s x.ctx out
      let u := setStream u x.ctx (spendBits (getStream u x.ctx) x.bits)
      let u := putRec u x.ctx (recBytes x.pic 0 false false false x.rap (srDepth v.bytes) 0 qp w h x.bits 0 cycles x.start)
      Does (.encodePictureDone pipe 0 qp cycles filler) s (picRecorded (freePipe u pipe) x.cmd x.pic)) ∧
    (∀ (v : Word) (s : State), s.lnt.heldCode = none → (getStream s (getF s rFrzCtxSel fFrzCtxSelCtx)).st ≠ 0 →
      Does (.outReadWrite v) s (setStream s (getF s rFrzCtxSel fFrzCtxSelCtx)
        { getStream s (getF s rFrzCtxSel fFrzCtxSelCtx) with outRead := v.toNat }))

/-- O49. A running core whose next instruction lies in reach and in zeroed memory fetches its lines and executes the
word, one whose fetch page is absent traps with cause 12, one whose fetch leaves its reach with cause 1, and one whose
fetch is not yet zeroed waits; the timer brings a working core's clock to its compare value; a first missed watchdog
period is counted and raised, a second in a row with AUTO_RETIRE retires the core; a kick clears the count; a retire
retires; a firmware confirm raises the floor to the version running and never lowers it. (R493, R494, R495, R496, R500,
R501, R502.) -/
def Obligations.MezzanineCores : Prop :=
  (∀ (core ce : Nat) (s : State), core < 16 → coreRuns s core = true →
      let u := cacheCe (latchRaised s) core ce
      Does (.coreInstruction core ce none none) s
        (match Config.coreFetch (getCore u core) with
        | none => coreTrap u core 12 (getCore u core).pc.toNat
        | some a =>
          if coreReach u a 2 = false ∨ inRegSpace a = true then coreTrap (coreMissed u core a 2 true) core 1 a
          else if unzeroed u a 4 then u
          else
            let n := if leNat (cacheBytes u a 1) % 4 = 3 then 4 else 2
            if coreReach u a n then
              let v := (linesOf a n).foldl (fillLine core) u
              coreWord core (BitVec.ofNat 32 (leNat (cacheBytes v a n))) none v
            else coreTrap (coreMissed u core a n true) core 1 a)) ∧
    (∀ (core : Nat) (bad : List Nat) (s : State), core < 16 →
      let k := getCore s core
      (s.lnt.heldCode = none → Does (.coreRetire core bad) s (retireCore s core 2 bad) ∧
        (coreWorking s core = true → Does (.coreKick core) s (setCore s core { k with missed := 0 }))) ∧
      (coreWorking s core = true →
        Does (.coreTimer core) s
          (setCore s core { k with mtime := if k.mtime ≤ k.mtimecmp then k.mtimecmp else k.mtime }) ∧
        (k.missed = 0 →
          Does (.coreWatchdogExpiry core bad) s (raiseF (setCore s core { k with missed := 1 }) rMezEvents fMezEventsWdog)) ∧
        (1 ≤ k.missed →
          let u := raiseF (setCore s core { k with missed := 2 }) rMezEvents fMezEventsWdog
          isF u rMezCtl fMezCtlAutoRetire = true → Does (.coreWatchdogExpiry core bad) s (retireCore u core 1 bad)))) ∧
    (∀ s : State, s.lnt.heldCode = none → Does .mezFwConfirm s
      (setF s rMezFwConfirm fMezFwConfirmFloor (max (getF s rMezFwConfirm fMezFwConfirmFloor) (fwVersion s))))

/-- O50. A claim with a qualifying source answers the best one, makes it active for the core and clears RAISED; with
none and RAISED it counts a spurious claim and answers 1023, otherwise 0. A completion of a source active on the core
ends the claim, any other is counted as stray. SET and CLR of a software source make it pending or not. The debug window
answers zero while debug is locked and passes the access on otherwise. (R506, R507, R508, R509, R575.) -/
def Obligations.InterruptClaims : Prop :=
  (∀ (core : Nat) (s : State), core < 16 → s.lnt.heldCode = none →
      let st := rIcuCoreStatus core
      (∀ p n, bestSource (qualifying s core) = some (p, n) →
        let u := { s with mez := { s.mez with claimed := fmPut s.mez.claimed (srcKey core n) (p, core) } }
        let u := setF (raiseF u (rIcuSrc core n) fIcuSrcActive) (rIcuSrc core n) fIcuSrcActiveCore core
        Does (.icuClaim core) s { refreshCore (setF u st fIcuCoreStatusRaised 0) core with resp := .value 8 n }) ∧
      (bestSource (qualifying s core) = none → isF s st fIcuCoreStatusRaised = true →
        Does (.icuClaim core) s
          { satF (setF s st fIcuCoreStatusRaised 0) (rIcuCoreCounts core) fIcuCoreCountsSpurious 1 with resp := .value 8 1023 }) ∧
      (bestSource (qualifying s core) = none → isF s st fIcuCoreStatusRaised = false →
        Does (.icuClaim core) s { s with resp := .value 8 0 })) ∧
    (∀ (core id : Nat) (s : State), core < 16 → s.lnt.heldCode = none →
      (∀ x, srcActive s core id = some (x, core) →
        Does (.icuComplete core id) s (refreshCore (endClaim s core id) core)) ∧
      (srcActive s core id = none →
        Does (.icuComplete core id) s (satF s (rIcuCoreCounts core) fIcuCoreCountsStray 1))) ∧
    (∀ (core n : Nat) (s : State), core < 16 → 1 ≤ n → n < 1023 → s.lnt.heldCode = none →
      Does (.icuSet core n) s (setSoft s core n 1) ∧ Does (.icuClr core n) s (setSoft (latchRaised s) core n 0)) ∧
    (∀ (a : Nat) (w : Word) (s : State), s.lnt.heldCode = none →
      (isF s rLntPresence fLntPresenceDebug = false →
        Does (.debugDmiAccess a none) s { s with resp := .value 8 0 } ∧
        Does (.debugDmiAccess a (some w)) s { s with resp := .nothing }) ∧
      (isF s rLntPresence fLntPresenceDebug = true →
        let d := Config.dmiAccess a none s.mez.dmi s.mez.cores
        let e := Config.dmiAccess a (some w) s.mez.dmi s.mez.cores
        Does (.debugDmiAccess a none) s
          { s with mez := { s.mez with dmi := d.1, cores := d.2.1 }, resp := .value 8 d.2.2.toNat } ∧
        Does (.debugDmiAccess a (some w)) s
          { s with mez := { s.mez with dmi := e.1, cores := e.2.1 }, resp := .nothing }))

/-- O51. Power-on of an unpowered rail, a falling power-good, the cold-reset input and LNT_RESET.COLD each make a cold
reset with their own cause; LNT_RESET.WARM and an enabled Lantern watchdog with a working core ask for a warm reset with
theirs; the kick changes nothing; a shutdown with a command incomplete is refused; a stage that fails with one of its
codes holds the device; stage 4 waits for PERST# and then service begins; PG_CORE rising alone holds the device; loss of
the Lantern rail stops everything; loss of the reference shows. (R516, R528, R529, R534, R535, R536, R539, R563, R603,
R604.) -/
def Obligations.ResetSources : Prop :=
  (∀ (straps : Nat) (s : State), s.lnt.railUp = false →
      let v := (takeFree s).1
      let u := coldReset { (takeFree s).2 with lnt := { (takeFree s).2.lnt with railUp := true } } 0
      Does (.powerOn straps) s { u with lnt := { u.lnt with
        lfsr := v.toNat % 2 ^ 16, sealOut := bitOf v.toNat 0, mism := 0, matched := 0, armed := true
        strapPins := straps % 16, straps := straps % 16, tap := 8 } }) ∧
    (∀ (s : State), s.lnt.railUp = true →
      (s.lnt.pgIo = true →
        Does (.powerGoodFall true false) s (coldReset { s with lnt := { s.lnt with pgIo := false } } 1)) ∧
      (s.lnt.coldRst = false →
        Does .coldResetInput s (coldReset { s with lnt := { s.lnt with coldRst := true } } 2)) ∧
      (s.lnt.pgCore = false → s.lnt.pgIo = false →
        Does (.powerGoodRise false true) s (holdReset { s with lnt := { s.lnt with pgCore := true } } 2)) ∧
      Does .lanternRailLoss s { wipe s with lnt := { (wipe s).lnt with railUp := false } } ∧
      Does .referenceClockLoss s (raiseF s rLntStatus fLntStatusOsc)) ∧
    (∀ s : State,
      (lntWritable s = true → Does .lntColdReset s (coldReset s 3)) ∧ Does .lntWarmReset s (warmReset s 5) ∧
      (isF s rLntWdog fLntWdogEnable = true → (workingCores s).isEmpty = false → Does .lanternWatchdogExpiry s (warmReset s 6)) ∧
      Does .lanternWatchdogKick s s ∧
      (s.lnt.stopping = false → s.lnt.off = false → s.lnt.warm = false → s.lnt.railUp = true → s.lnt.heldCode = none →
        (List.range 9).any (fun k => !(incompleteCmds s k).isEmpty) = true →
        Does .lntShutdown s (raiseF s rLntEvents fLntEventsRefused))) ∧
    (∀ (bc bb : List Nat) (tr : List (Nat × Training)) (us : List CmdRef) (s : State), s.lnt.railUp = true → s.lnt.off = false →
      s.lnt.heldCode = none →
      (∀ code, stageOf s ≠ 0xF → code ≠ 3 → stageCode (stageOf s) code = true →
        Does (.startUpStage (some code) bc tr bb us) s (holdReset s code)) ∧
      (stageOf s = 0 → Does (.startUpStage none bc tr bb us) s (stage0 s)) ∧
      (stageOf s = 1 → isF s rLntStatus fLntStatusOsc = false → s.lnt.pgIo = true → s.lnt.pgCore = true →
        Does (.startUpStage none bc tr bb us) s (stage1 s)) ∧
      (stageOf s = 2 → Does (.startUpStage none bc tr bb us) s (stage2 s bc)) ∧
      (stageOf s = 3 → Does (.startUpStage none bc tr bb us) s (stage3 s)) ∧
      (stageOf s = 4 → s.lnt.perst = true → Does (.startUpStage none bc tr bb us) s s) ∧
      (stageOf s = 4 → s.lnt.perst = false → Does (.startUpStage none bc tr bb us) s (serviceBegins s)) ∧
      (stageOf s = 5 → Does (.startUpStage none bc tr bb us) s (if s.lnt.warm then warm6 s tr else stage5 s tr)) ∧
      (stageOf s = 6 → Does (.startUpStage none bc tr bb us) s (if s.lnt.warm then warm7 s else stage6 s)) ∧
      (stageOf s = 7 → Does (.startUpStage none bc tr bb us) s (setStage (replay s us) 8)) ∧
      (stageOf s = 8 → s.lnt.hot = false → Does (.startUpStage none bc tr bb us) s (stage8 s bb)))

/-- O52. An LNT_RESET.SHUTDOWN with every accepted command complete turns the device to stopping, marks the slices left
out as skipped, and starts the run over the others, those with pending records first and the shared ones and the boot
core last. (R539, R553.) -/
def Obligations.ShutdownRuns : Prop :=
  ∀ s : State, s.lnt.stopping = false → s.lnt.off = false → s.lnt.warm = false → s.lnt.railUp = true → s.lnt.heldCode = none →
      (List.range 9).any (fun k => !(incompleteCmds s k).isEmpty) = false →
      let own := 74 + getF s rMezStatus fMezStatusBoot
      let skip := (List.range 101).filter (sliceOut s)
      let pend (n : Nat) : Bool := s.integ.records.any fun x => x.slice = n && ((x.kind = 8 && x.state = 0) || x.bad)
      let go := (List.range 101).filter fun n => !skip.contains n
      let order := (go.filter fun n => n < 98 && n ≠ own && pend n) ++ (go.filter fun n => n < 98 && n ≠ own && !pend n)
        ++ go.filter (fun n => 98 ≤ n) ++ go.filter (· = own)
      Does .lntShutdown s (endRun (fillTests { s with
        lnt := { s.lnt with stopping := true }
        integ := { s.integ with
          results := skip.foldl (fun m n => fmPut m n { result := 5 }) s.integ.results, waiting := order, testing := [] } }))

/-- O53. An idle hall with an idle time set, all its flights running and no wake due puts them all into sleep entry; the
entry done, a flight sleeps with its PLL unlocked; the lowest waiting flight of a hall that is to wake starts and counts
a wake; a lock within 100 us runs the flight, a lock timeout isolates it and faults its domain; an idle media domain
sleeps and wakes when work has come; a domain reset of a domain in use is refused. (R519, R520, R521, R523, R524, R533.)
-/
def Obligations.FlightPower : Prop :=
  (∀ (hall : Nat) (s : State), hall < 8 → flightIdle s ≠ 0 → (incompleteCmds s hall).isEmpty = true → hallSegments s hall = false →
      (getH s hall).wake = false → (workingFlights s hall).any (fun f => fltState s f ≠ 2) = false →
      Does (.flightSleep hall) s ((workingFlights s hall).foldl (fun s f => setFlt s f 3) s)) ∧
    (∀ (f us h : Nat) (s : State), f < 16 →
      (fltState s f = 3 → Does (.sleepEntryDone f) s (setF (setFlt s f 4) (rFltPllCtl f) fFltPllCtlLocked 0)) ∧
      (fltState s f = 1 → us ≤ 100 → Does (.flightPllLock f us) s (flightRuns s f us)) ∧
      (fltState s f = 1 → Does (.flightLockTimeout f) s (domainFault (isolateFlight s f true) f)) ∧
      (flightHall s.run f = some h → (getH s h).wake = true →
        ((workingFlights s h).filter fun g => fltState s g = 0 || fltState s g = 4).head? = some f →
        let u := if fltState s f = 0 then setDomain (zeroFlight s f) f true else s
        let u := bumpF (setFlt u f 1) (rFltPwrStatus f) fFltPwrStatusWakes 1
        Does (.flightWakeStart f) s
          (if (workingFlights u h).all (fun g => fltState u g = 1 || fltState u g = 2)
            then setH u h { getH u h with wake := false } else u))) ∧
    (∀ s : State,
      (s.mediaAsleep = false → mediaIdle s ≠ 0 → mediaWork s = false → liveOpen s = false → Does .mediaSleep s (setMedia s true)) ∧
      (s.mediaAsleep = true → mediaWork s = true → Does .mediaWakeDone s (setMedia s false))) ∧
    (∀ (dom : Nat) (s : State), dom < 32 → s.lnt.heldCode = none →
      (domainFree s dom = false → Does (.domainReset dom) s (raiseF s rLntEvents fLntEventsRefused)) ∧
      (domainFree s dom = true →
        let u := setF (latchRaised s) rLntDomainCtl fLntDomainCtlDomain dom
        (dom < 16 → Does (.domainReset dom) s
          (flightOff (resetRange (zeroFlight u dom) (0x1000000 + 0x100000 * dom) 0x80020) dom)) ∧
        (dom = 22 → Does (.domainReset dom) s
          (setMedia (resetRange (resetRange u 0x600000 0x1000) 0x700000 0x1000) true)) ∧
        (16 ≤ dom → dom ≠ 22 → Does (.domainReset dom) s (resetHalf u (dom - 19)))))

/-- O54. A sample shows the six temperatures, throttles each die by its own, and, below every trip point, lets a device
that has cooled leave its hold; the critical comparator shows and clears; a step of the core voltage moves 5 mV toward
the set point and ends there; a regulator that fails leaves the boot voltage and shows, and where the set point lies
above 0.80 V the running flights go at half rate. (R526, R527, R601, R606, R607.) -/
def Obligations.ThermalAndVoltage : Prop :=
  (∀ (temps : List Int) (s : State), temps.length = 6 → s.lnt.railUp = true →
      let t (i : Nat) : Int := temps.getD i 0
      let u := [(fLntThermStorey0, 0), (fLntThermStorey1, 1), (fLntThermStorey2, 2), (fLntThermStorey3, 3), (fLntThermAtrium, 4),
        (fLntThermPhotonic, 5)].foldl (fun s p => setF s rLntTherm p.1 (tempBits (t p.2))) s
      let u := (List.range 4).foldl (fun s d => throttle s d (t d)) u
      let cool := (List.range 4).all (fun d => decide (t d < 100)) && decide (t 4 < 95)
      (∀ d, d < 4 → t d < 110) → t 4 < 105 →
      Does (.thermalSample temps) s (setHot u (u.lnt.hot && !cool))) ∧
    (∀ s : State, Does .criticalTemperature s (raiseF s rLntTherm fLntThermCrit) ∧
      Does .criticalTemperatureClear s (setF s rLntTherm fLntThermCrit 0)) ∧
    (∀ s : State, s.lnt.railUp = true → stageOf s ≠ 0 → s.lnt.vidDone = false → s.lnt.off = false → s.lnt.heldCode = none →
      let v := if s.lnt.vout < setPoint then min (s.lnt.vout + 5) setPoint else max (s.lnt.vout - 5) setPoint
      Does (.vidStep true) s { s with lnt := { s.lnt with vout := v, vidDone := v = setPoint } } ∧
      (let u := raiseF s rLntTherm fLntThermVidFail
       let u := { u with lnt := { u.lnt with vout := 800, vidDone := true, vidHalf := decide (800 < setPoint) } }
       Does (.vidStep false) s (if 800 < setPoint then (List.range 16).foldl (fun s f =>
         if fltState s f = 2 then setF s (rFltPwrStatus f) fFltPwrStatusHalf 1 else s) u else u)))

/-- O55. An isolate of a working flight isolates it; an unisolate clears ISOLATE, applies the repairs and, if the flight
stays working, returns its treads and wakes its hall; an isolate of a block isolates it; the return of a block whose
last test did not pass is refused, of one that passed clears its bit; an in-service test of a slice that may be tested
starts and shows BUSY; a test that ends gives its slice its result, a budget that runs out gives untested or partial.
(R519, R550, R551, R553, R554, R555, R556, R558.) -/
def Obligations.UnitIsolation : Prop :=
  (∀ (f : Nat) (force : Bool) (s : State), f < 16 → s.lnt.heldCode = none →
      (flightWorking s f = true → Does (.flightIsolate f force) s (isolateFlight (latchRaised s) f force)) ∧
      (flightWorking s f = true → Does (.flightUnisolate f) s s) ∧
      (flightWorking s f = false →
        let u := setF s (rFltIsolate f) fFltIsolateIsolate 0
        let u := applySram { u with integ := { u.integ with galleryFaults := fmErase u.integ.galleryFaults f } } f
        (flightWorking u f = false → Does (.flightUnisolate f) s u) ∧
        (flightWorking u f = true →
          let v := (List.range 8).foldl (fun s i => returnTread s (8 * f + i)) u
          Does (.flightUnisolate f) s
            (refreshLevel (match flightHall v.run f with | some h => wakeHall v h | none => v))))) ∧
    (∀ (b : Nat) (s : State), b < 8 → s.lnt.heldCode = none →
      Does (.blockIsolate b) s (isolateBlock s b) ∧
      (blockIsolated s b = true → s.integ.passed.contains b = false →
        Does (.blockReturn b) s (raiseF s rLntIntegEvents fLntIntegEventsRefused)) ∧
      (blockIsolated s b = true → s.integ.passed.contains b = true →
        let u := setF s rLntBlockIsolate fLntBlockIsolateBlocks (getF s rLntBlockIsolate fLntBlockIsolateBlocks - 2 ^ b)
        Does (.blockReturn b) s (refreshLevel (if b = 7 then setF u rMezStatus fMezStatusSharedL2 1 else u)))) ∧
    (∀ (slice us cursor : Nat) (fails : List (Nat × Nat × Nat × Nat)) (s : State),
      (s.lnt.heldCode = none → runOk s slice = false → Does (.selftestRun slice) s (raiseF s rLntIntegEvents fLntIntegEventsRefused)) ∧
      (s.lnt.heldCode = none → runOk s slice = true →
        let u := { s with integ := { s.integ with testing := [slice] } }
        Does (.selftestRun slice) s
          (setF (setF u rLntSelftestCtl fLntSelftestCtlSlice slice) rLntSelftestStatus fLntSelftestStatusBusy 1)) ∧
      (slice < 101 → s.integ.testing.contains slice = true → fails.all (fun f => sliceKind slice f.1) = true →
        Does (.sliceTestDone slice us fails) s
          (sliceEnds (latchRaised s) slice us (if fails.isEmpty then 1 else 2) 0 fails) ∧
        Does (.sliceBudgetExpiry slice us cursor fails) s
          (sliceEnds (latchRaised s) slice us (if 16 ≤ slice && slice < 40 then 4 else 3) cursor fails)))

/-- O56. A debounced assertion opens the window for 60 s and counts, OPENED raised if it was closed; the release after
the time is over closes it; its close with the level still asserted only runs the time to 0; a tick takes the next LFSR
bit and a millisecond off the window; a sample that matches clears the mismatches and after 1,000 in a row arms the loop
again; the fourth mismatch in a row of an armed loop is a seal event. (R568, R569, R578, R579.) -/
def Obligations.PresenceAndSeal : Prop :=
  (∀ s : State, isF s rLntPresence fLntPresencePin = false →
      let r := rLntPresence
      let u := setF (setF (setF s r fLntPresencePin 1) r fLntPresenceOpen 1) r fLntPresenceRemainMs 60000
      let u := bumpF u r fLntPresenceAssertions 1
      Does (.presenceDebounce true) s (if windowOpen s then u else raiseF u rLntSecEvents fLntSecEventsOpened) ∧
      (windowOpen s = true → Does .presenceWindowClose s (closeWindow s))) ∧
    (∀ s : State, isF s rLntPresence fLntPresencePin = true →
      let u := setF s rLntPresence fLntPresencePin 0
      Does (.presenceDebounce true) s s ∧
      Does (.presenceDebounce false) s
        (if windowOpen u && getF u rLntPresence fLntPresenceRemainMs = 0 then closeWindow u else u) ∧
      (windowOpen s = true → Does .presenceWindowClose s (setF s rLntPresence fLntPresenceRemainMs 0))) ∧
    (∀ s : State, s.lnt.railUp = true →
      let l := lfsrNext s.lnt.lfsr
      let u := setF s rLntPresence fLntPresenceRemainMs (getF s rLntPresence fLntPresenceRemainMs - 1)
      let m := min (s.lnt.matched + 1) 1000
      let v := { s with lnt := { s.lnt with mism := 4, matched := 0 } }
      Does .sealTick s { u with lnt := { u.lnt with lfsr := l, sealOut := bitOf l 0 } } ∧
      Does (.sealSample s.lnt.sealOut) s
        { s with lnt := { s.lnt with mism := 0, matched := m, armed := s.lnt.armed || decide (1000 ≤ m) } } ∧
      (s.lnt.mism < 3 →
        Does (.sealSample (!s.lnt.sealOut)) s { s with lnt := { s.lnt with mism := s.lnt.mism + 1, matched := 0 } }) ∧
      (3 ≤ s.lnt.mism → s.lnt.armed = true → Does (.sealSample (!s.lnt.sealOut)) s (sealEvent v)) ∧
      (3 ≤ s.lnt.mism → s.lnt.armed = false → Does (.sealSample (!s.lnt.sealOut)) s v))

/-- O57. The status read answers the status word and the incarnation while the rail is powered, and nothing otherwise.
While the side band serves: a control message is answered by the control protocol and may change the endpoint; the
terminus is read and set; version, types, commands, repository and records are answered, an unknown type or record with
its code; a sensor answers its reading as last refreshed; a refresh takes every sensor; an unsupported PLDM type or
command is answered with an error and another message type is discarded. (R594, R595, R615, R616.) -/
def Obligations.SidebandAnswers : Prop :=
  (∀ s : State, s.lnt.railUp = true →
      Does .statusRead s { s with resp := .bytes (leBytes 4 (statusWord s) ++ leBytes 4 (incarnation s)) } ∧
      (∀ v i : Option Nat, Does (.sensorRefresh v i) s { s with lnt := { s.lnt with
        sensors :=
          (List.range' 1 14 ++ List.range' 16 8).foldl (fun m n => fmPut m n (sensorNow s v i n)) s.lnt.sensors } })) ∧
    (∀ s : State, s.lnt.railUp = false → Does .statusRead s { s with resp := .nothing }) ∧
    (∀ (ty pldm cmd : Nat) (s : State), ty ≠ 0 → ty ≠ 1 → Does (.unsupportedMctpMessage ty pldm cmd) s { s with resp := .nothing }) ∧
    (∀ (msg : List Byte) (tid ty handle sensor pldm cmd : Nat) (s : State), sideband s = true → tid < 256 →
      Does (.mctpControlMessage msg) s
        { s with resp := .bytes (Config.mctpControl msg s.lnt.eid).1, lnt := { s.lnt with eid := (Config.mctpControl msg s.lnt.eid).2 } } ∧
      Does .getTid s { s with resp := .value 1 s.lnt.tid } ∧
      Does (.setTid tid) s
        (if Config.tidOk tid then { s with resp := pldmSays 0, lnt := { s.lnt with tid := tid } }
        else { s with resp := pldmSays 6 }) ∧
      Does (.getPldmVersion ty) s
        { s with resp := if ty = 0 || ty = 2 then .bytes (Config.pldmVersion ty) else pldmSays 1 } ∧
      Does .getPldmTypes s { s with resp := .bytes Config.pldmTypes } ∧
      Does (.getPldmCommands ty) s
        { s with resp := if ty = 0 || ty = 2 then .bytes (Config.pldmCommands ty) else pldmSays 1 } ∧
      Does .getPdrRepositoryInfo s { s with resp := .bytes (Config.pdrInfo (pdrNames s)) } ∧
      Does (.getPdr handle) s
        { s with resp := match Config.pdrRecord (pdrNames s) handle with | some b => .bytes b | none => pldmSays 4 } ∧
      (∀ n v, sensorSize sensor = some n → (fmFind s.lnt.sensors sensor).getD none = some v →
        Does (.getSensorReading sensor) s { s with resp := .value n (v % (2 ^ (8 * n) : Nat)).toNat }) ∧
      (∀ v, (fmFind s.lnt.sensors 9).getD none = some v →
        Does (.getStateSensorReadings 9) s { s with resp := .value 1 (v % 256).toNat }) ∧
      (sensor ≠ 9 → Does (.getStateSensorReadings sensor) s { s with resp := pldmSays 3 }) ∧
      (pldmServed pldm cmd = false →
        Does (.unsupportedMctpMessage 1 pldm cmd) s { s with resp := pldmSays (if pldm = 0 || pldm = 2 then 2 else 1) }))

/-- O58. BYPASS, IDCODE and SAMPLE/PRELOAD load their instruction, each other one loads its own with the cold-reset
input asserted and acts as BYPASS otherwise; IDCODE also shifts out version 1, part 0940H, the manufacturer's number and
a final 1; Test-Logic-Reset with a test instruction loaded and the cold-reset input asserted releases the input, at any
other time it is entered. (R597.) -/
def Obligations.BoundaryScan : Prop :=
  ∀ s : State,
      (let at' (n : Nat) : State := { s with lnt := { s.lnt with tap := n } }
       Does .bypass s (at' 0) ∧ Does .samplePreload s (at' 2) ∧
       Does .idcode s
        { at' 1 with resp := .value 4 (0x1 * 2 ^ 28 + 0x0940 * 2 ^ 12 + Config.jep106.toNat * 2 + 1) } ∧
       (s.lnt.coldRst = true →
         Does .extest s (at' 3) ∧ Does .extestPulse s (at' 4) ∧ Does .extestTrain s (at' 5) ∧ Does .clamp s (at' 6) ∧
         Does .highz s (at' 7)) ∧
       (s.lnt.coldRst = false →
         Does .extest s (at' 0) ∧ Does .extestPulse s (at' 0) ∧ Does .extestTrain s (at' 0) ∧ Does .clamp s (at' 0) ∧
         Does .highz s (at' 0))) ∧
      (s.lnt.coldRst = true → 3 ≤ s.lnt.tap → Does .testLogicReset s (releaseCold s)) ∧
      (s.lnt.coldRst = false ∨ s.lnt.tap < 3 → Does .testLogicReset s { s with lnt := { s.lnt with tap := 8 } })

/-- O59. An access of register space of a size or alignment other than the two allowed answers all ones where it reads,
stores nothing where it writes, and either way changes only the malformed-access counter, which it raises by 1 up to its
limit (a write that meets a transaction register taking 64-bit writes alone sets BAD_WRITE too, R78); the same access of
a Mezzanine core does so too. A read of an unimplemented address answers zero and a write to it changes nothing, for the
host and for a core. (R11, R12.) -/
def Obligations.BadAccessesDoNothing : Prop :=
  (∀ (s : State), getF (countMalformed s) rCmdCounts fCmdCountsMalformed = min (getF s rCmdCounts fCmdCountsMalformed + 1) (2 ^ 32 - 1) ∧
      countMalformed s = { s with regs := (countMalformed s).regs } ∧ SameRegsBut s (countMalformed s) rCmdCounts) ∧
    (∀ (fn off size : Nat) (s : State), inBar fn off size = true → barOpen s = true →
      ¬((size = 4 ∨ size = 8) ∧ size ∣ off) →
      Does (.malformedRegisterAccess false fn off size) s { countMalformed s with resp := .ones size } ∧
      (xfmHit (barOffset fn off) size = none →
        Does (.malformedRegisterAccess true fn off size) s (countMalformed { s with resp := .nothing }))) ∧
    (∀ (c a : Nat) (bs : List Byte) (s : State) (wr : Bool),
      ¬((bs.length = 4 ∨ bs.length = 8) ∧ bs.length ∣ a - regSpace) →
      coreReg c wr a bs s = .done (countMalformed s) (bs.map fun _ => 0xFF)) ∧
    (∀ (fn off size : Nat) (data : DWord) (s : State), inBar fn off size = true → barOpen s = true →
      size = 4 ∨ size = 8 → size ∣ off → implemented s (barOffset fn off / 8 * 8) = false →
      Does (.registerRead fn off size) s { s with resp := .value size 0 } ∧
      Does (.registerWrite fn off size data) s { s with resp := .nothing }) ∧
    (∀ (c a : Nat) (bs : List Byte) (s : State), bs.length = 4 ∨ bs.length = 8 → bs.length ∣ a - regSpace →
      implemented s ((a - regSpace) / 8 * 8) = false →
      coreReg c false a bs s = .done s (leBytes bs.length 0) ∧ coreReg c true a bs s = .done s [])

/-- O60. The Undercroft, Oriel, delivery-engine, Foyer, Frieze and Mezzanine sources 40 to 44 and 46 are asserted
exactly while some field of their event register is not zero; source 47 while some field of one of the three Lantern
event registers is not zero; private source 961 of a core exactly while CACHE_CE or CACHE_UE of that core is set. (R295,
R417, R437, R462, R515, R540, R562, R586, R514.) -/
def Obligations.EventRegistersDriveTheirSources : Prop :=
  ∀ (s : State) (c : Nat),
      let on (r : Nat) : Prop := ∃ f ∈ regFields r, getF s r f ≠ 0
      (srcLine s c 40 = true ↔ on rUndEvents) ∧ (srcLine s c 41 = true ↔ on rOrlEvents) ∧ (srcLine s c 42 = true ↔ on rDlvEvents) ∧
      (srcLine s c 43 = true ↔ on rFoyEvents) ∧ (srcLine s c 44 = true ↔ on rFrzEvents) ∧ (srcLine s c 46 = true ↔ on rMezEvents) ∧
      (srcLine s c 47 = true ↔ on rLntEvents ∨ on rLntIntegEvents ∨ on rLntSecEvents) ∧
      (c < 16 → (srcLine s c 961 = true ↔
        getF s (rMezCoreStatus c) fMezCoreStatusCacheCe = 1 ∨ getF s (rMezCoreStatus c) fMezCoreStatusCacheUe = 1))
end

