-- ==== Sys2Proof/Laws/Bits.lean ====
section
/-! SUPPORT. The laws of bit fields: reading a field after writing it or another one. -/

namespace Sys2Proof.Machine

theorem bitsOf_eq (v lo w : Nat) : bitsOf v lo w = v / 2 ^ lo % 2 ^ w := by
  simp [bitsOf, Nat.shiftRight_eq_div_pow]

theorem bitsOf_lt (v lo w : Nat) : bitsOf v lo w < 2 ^ w := Nat.mod_lt _ (by positivity)

/-- A number is its part above a field, the field, and its part below. -/
theorem bits_split (v lo w : Nat) : v = (v / 2 ^ (lo + w)) * 2 ^ (lo + w) + bitsOf v lo w * 2 ^ lo + v % 2 ^ lo := by
  rw [bitsOf_eq]
  have h1 := Nat.div_add_mod v (2 ^ lo)
  have h2 := Nat.div_add_mod (v / 2 ^ lo) (2 ^ w)
  have h3 : v / 2 ^ (lo + w) = v / 2 ^ lo / 2 ^ w := by rw [Nat.pow_add, Nat.div_div_eq_div_mul]
  calc v = 2 ^ lo * (v / 2 ^ lo) + v % 2 ^ lo := h1.symm
    _ = 2 ^ lo * (2 ^ w * (v / 2 ^ lo / 2 ^ w) + v / 2 ^ lo % 2 ^ w) + v % 2 ^ lo := by rw [h2]
    _ = _ := by rw [h3, Nat.pow_add]; ring

theorem setBits_eq (v lo w x : Nat) :
    setBits v lo w x = (v / 2 ^ (lo + w)) * 2 ^ (lo + w) + (x % 2 ^ w) * 2 ^ lo + v % 2 ^ lo := by
  have h := bits_split v lo w
  unfold setBits
  omega

theorem setBits_div (v lo w x : Nat) : setBits v lo w x / 2 ^ lo = (v / 2 ^ (lo + w)) * 2 ^ w + x % 2 ^ w := by
  rw [setBits_eq]
  have hp : 0 < 2 ^ lo := by positivity
  have e : v / 2 ^ (lo + w) * 2 ^ (lo + w) + x % 2 ^ w * 2 ^ lo + v % 2 ^ lo
      = v % 2 ^ lo + (v / 2 ^ (lo + w) * 2 ^ w + x % 2 ^ w) * 2 ^ lo := by
    rw [Nat.pow_add]; ring
  rw [e, Nat.add_mul_div_right _ _ hp, Nat.div_eq_of_lt (Nat.mod_lt _ hp), Nat.zero_add]

/-- A field reads as what was written to it. -/
theorem bitsOf_setBits_same (v lo w x : Nat) : bitsOf (setBits v lo w x) lo w = x % 2 ^ w := by
  rw [bitsOf_eq, setBits_div, Nat.mul_comm, Nat.mul_add_mod, Nat.mod_mod]

/-- A write of a field leaves the fields below it. -/
theorem bitsOf_setBits_below (v lo w x lo' w' : Nat) (h : lo' + w' ≤ lo) :
    bitsOf (setBits v lo w x) lo' w' = bitsOf v lo' w' := by
  have key : setBits v lo w x % 2 ^ lo = v % 2 ^ lo := by
    rw [setBits_eq]
    have e : v / 2 ^ (lo + w) * 2 ^ (lo + w) + x % 2 ^ w * 2 ^ lo + v % 2 ^ lo
        = 2 ^ lo * (v / 2 ^ (lo + w) * 2 ^ w + x % 2 ^ w) + v % 2 ^ lo := by
      rw [Nat.pow_add]; ring
    rw [e, Nat.mul_add_mod, Nat.mod_mod]
  have f : ∀ n, bitsOf n lo' w' = bitsOf (n % 2 ^ lo) lo' w' := by
    intro n
    apply Nat.eq_of_testBit_eq
    intro i
    simp only [bitsOf, Nat.testBit_mod_two_pow, Nat.testBit_shiftRight]
    by_cases hi : i < w'
    · have : lo' + i < lo := by omega
      simp [hi, this]
    · simp [hi]
  rw [f (setBits v lo w x), f v, key]

/-- A write of a field leaves the fields above it. -/
theorem bitsOf_setBits_above (v lo w x lo' w' : Nat) (h : lo + w ≤ lo') :
    bitsOf (setBits v lo w x) lo' w' = bitsOf v lo' w' := by
  have key : setBits v lo w x / 2 ^ (lo + w) = v / 2 ^ (lo + w) := by
    rw [Nat.pow_add, ← Nat.div_div_eq_div_mul, setBits_div, ← Nat.div_div_eq_div_mul]
    have hp : 0 < 2 ^ w := by positivity
    rw [Nat.mul_comm, Nat.mul_add_div hp, Nat.div_eq_of_lt (Nat.mod_lt _ hp), Nat.pow_add, Nat.add_zero,
      ← Nat.div_div_eq_div_mul]
  obtain ⟨k, rfl⟩ := Nat.exists_eq_add_of_le h
  simp only [bitsOf_eq]
  rw [Nat.pow_add 2 (lo + w) k, ← Nat.div_div_eq_div_mul, key, Nat.div_div_eq_div_mul]

theorem setBits_lt (v lo w x n : Nat) (hv : v < 2 ^ n) (h : lo + w ≤ n) : setBits v lo w x < 2 ^ n := by
  rw [setBits_eq]
  obtain ⟨k, rfl⟩ := Nat.exists_eq_add_of_le h
  have h1 : v / 2 ^ (lo + w) < 2 ^ k := by
    rw [Nat.div_lt_iff_lt_mul (by positivity)]
    calc v < 2 ^ (lo + w + k) := hv
      _ = 2 ^ k * 2 ^ (lo + w) := by rw [Nat.pow_add 2 (lo + w) k]; ring
  have h2 : x % 2 ^ w < 2 ^ w := Nat.mod_lt _ (by positivity)
  have h3 : v % 2 ^ lo < 2 ^ lo := Nat.mod_lt _ (by positivity)
  have hA : v / 2 ^ (lo + w) + 1 ≤ 2 ^ k := h1
  have hB : x % 2 ^ w + 1 ≤ 2 ^ w := h2
  have hA' := Nat.mul_le_mul_right (2 ^ (lo + w)) hA
  have hB' := Nat.mul_le_mul_right (2 ^ lo) hB
  rw [Nat.pow_add 2 (lo + w) k]
  rw [Nat.pow_add 2 lo w] at *
  nlinarith

end Sys2Proof.Machine
end

