-- ==== Sys2Proof/Laws/FMap.lean ====
section
/-! SUPPORT. The laws of sparse maps: reading after writing, and that every operation keeps the canonical form. -/

namespace Sys2Proof.Machine

variable {α : Type}

theorem fmFind_put_same (m : FMap α) (k : Nat) (v : α) : fmFind (fmPut m k v) k = some v := by
  induction m with
  | nil => simp [fmPut, fmFind]
  | cons c m ih =>
    obtain ⟨j, x⟩ := c
    unfold fmPut
    split
    · simp [fmFind]
    · split
      · simp [fmFind]
      · rename_i h₁ h₂
        simp [fmFind, Ne.symm h₂, ih]

theorem fmFind_put_ne (m : FMap α) {k j : Nat} (v : α) (h : j ≠ k) : fmFind (fmPut m k v) j = fmFind m j := by
  induction m with
  | nil => simp [fmPut, fmFind, Ne.symm h]
  | cons c m ih =>
    obtain ⟨i, x⟩ := c
    unfold fmPut
    split
    · simp [fmFind, Ne.symm h]
    · split
      · rename_i h₁ h₂
        subst h₂
        simp [fmFind, Ne.symm h]
      · simp [fmFind, ih]

theorem fmFind_erase_same (m : FMap α) (k : Nat) : fmFind (fmErase m k) k = none := by
  induction m with
  | nil => simp [fmErase, fmFind]
  | cons c m ih =>
    obtain ⟨i, x⟩ := c
    by_cases h : i = k <;> simp_all [fmErase, fmFind]

theorem fmFind_erase_ne (m : FMap α) {k j : Nat} (h : j ≠ k) : fmFind (fmErase m k) j = fmFind m j := by
  induction m with
  | nil => simp [fmErase, fmFind]
  | cons c m ih =>
    obtain ⟨i, x⟩ := c
    by_cases hi : i = k
    · subst hi
      simp_all [fmErase, fmFind, Ne.symm h]
    · simp_all [fmErase, fmFind]

variable [DecidableEq α] (d : Nat → α)

/-- Reading what was just written. -/
theorem fmGet_set_same (m : FMap α) (k : Nat) (v : α) : fmGet d (fmSet d m k v) k = v := by
  unfold fmSet fmGet
  split <;> simp_all [fmFind_put_same, fmFind_erase_same]

/-- A write leaves every other key alone. -/
theorem fmGet_set_ne (m : FMap α) {k j : Nat} (v : α) (h : j ≠ k) : fmGet d (fmSet d m k v) j = fmGet d m j := by
  unfold fmSet fmGet
  split <;> simp_all [fmFind_put_ne, fmFind_erase_ne]

/-! ## The canonical form -/

theorem fmWfFrom_mono (m : FMap α) {a b : Nat} (h : b ≤ a) (w : fmWfFrom d a m = true) : fmWfFrom d b m = true := by
  cases m with
  | nil => rfl
  | cons c m =>
    obtain ⟨k, v⟩ := c
    simp only [fmWfFrom, Bool.and_eq_true, decide_eq_true_eq] at w ⊢
    exact ⟨⟨h.trans w.1.1, w.1.2⟩, w.2⟩

theorem fmWfFrom_put (m : FMap α) {lo k : Nat} {v : α} (hk : lo ≤ k) (hv : v ≠ d k) (w : fmWfFrom d lo m = true) :
    fmWfFrom d lo (fmPut m k v) = true := by
  induction m generalizing lo with
  | nil => simp [fmPut, fmWfFrom, hk, hv]
  | cons c m ih =>
    obtain ⟨j, x⟩ := c
    simp only [fmWfFrom, Bool.and_eq_true, decide_eq_true_eq, Bool.not_eq_true', decide_eq_false_iff_not] at w
    unfold fmPut
    split
    · rename_i h
      simp only [fmWfFrom, Bool.and_eq_true, decide_eq_true_eq, Bool.not_eq_true', decide_eq_false_iff_not]
      exact ⟨⟨hk, hv⟩, ⟨h, w.1.2⟩, w.2⟩
    · split
      · rename_i h₁ h₂
        subst h₂
        simp only [fmWfFrom, Bool.and_eq_true, decide_eq_true_eq, Bool.not_eq_true', decide_eq_false_iff_not]
        exact ⟨⟨hk, hv⟩, w.2⟩
      · rename_i h₁ h₂
        simp only [fmWfFrom, Bool.and_eq_true, decide_eq_true_eq, Bool.not_eq_true', decide_eq_false_iff_not]
        exact ⟨w.1, ih (by omega) w.2⟩

theorem fmWfFrom_filter (p : Nat × α → Bool) (m : FMap α) {lo : Nat} (w : fmWfFrom d lo m = true) :
    fmWfFrom d lo (m.filter p) = true := by
  induction m generalizing lo with
  | nil => simpa using w
  | cons c m ih =>
    obtain ⟨j, x⟩ := c
    simp only [fmWfFrom, Bool.and_eq_true, decide_eq_true_eq, Bool.not_eq_true', decide_eq_false_iff_not] at w
    by_cases h : p (j, x) = true
    · simp only [List.filter_cons, h, if_true, fmWfFrom, Bool.and_eq_true, decide_eq_true_eq, Bool.not_eq_true',
        decide_eq_false_iff_not]
      exact ⟨w.1, ih w.2⟩
    · simp only [List.filter_cons, h]
      exact fmWfFrom_mono d _ (by omega) (ih w.2)

/-- Setting a key keeps the canonical form. -/
theorem fmWf_set (m : FMap α) (k : Nat) (v : α) (w : fmWf d m = true) : fmWf d (fmSet d m k v) = true := by
  unfold fmSet fmErase
  split
  · exact fmWfFrom_filter d _ m w
  · rename_i h
    exact fmWfFrom_put d m (Nat.zero_le k) h w

/-- Clearing a range keeps the canonical form. -/
theorem fmWf_clearRange (m : FMap α) (lo n : Nat) (w : fmWf d m = true) : fmWf d (fmClearRange m lo n) = true :=
  fmWfFrom_filter d _ m w

theorem fmWfFrom_mem (m : FMap α) {lo : Nat} (w : fmWfFrom d lo m = true) {c : Nat × α} (h : c ∈ m) : c.2 ≠ d c.1 := by
  induction m generalizing lo with
  | nil => simp at h
  | cons x m ih =>
    obtain ⟨k, v⟩ := x
    simp only [fmWfFrom, Bool.and_eq_true, decide_eq_true_eq, Bool.not_eq_true', decide_eq_false_iff_not] at w
    rcases List.mem_cons.1 h with rfl | h
    · exact w.1.2
    · exact ih w.2 h

theorem fmWf_foldr_put (l : FMap α) (f : Nat → Nat) (m : FMap α) (hl : ∀ c ∈ l, c.2 ≠ d (f c.1)) (w : fmWf d m = true) :
    fmWf d (l.foldr (fun c acc => fmPut acc (f c.1) c.2) m) = true := by
  induction l with
  | nil => simpa using w
  | cons c l ih =>
    simp only [List.foldr_cons]
    exact fmWfFrom_put d _ (Nat.zero_le _) (hl c List.mem_cons_self) (ih fun c hc => hl c (List.mem_cons_of_mem _ hc))

/-- Copying a range keeps the canonical form of a map whose default does not depend on the key. -/
theorem fmWf_copyRange (x : α) (m : FMap α) (src dst n : Nat) (w : fmWf (fun _ => x) m = true) :
    fmWf (fun _ => x) (fmCopyRange m src dst n) = true := by
  unfold fmCopyRange
  refine fmWf_foldr_put _ _ (fun k => k - src + dst) _ ?_ (fmWf_clearRange _ _ _ _ w)
  intro c hc
  have h : c ∈ m := List.mem_of_mem_filter hc
  exact fmWfFrom_mem _ m w h

omit [DecidableEq α] in
/-- Looking up a key in the entries whose key passes a test. -/
theorem fmFind_filter (p : Nat → Bool) (m : FMap α) (k : Nat) :
    fmFind (m.filter fun c => p c.1) k = if p k then fmFind m k else none := by
  induction m with
  | nil => simp [fmFind]
  | cons c m ih =>
    obtain ⟨j, v⟩ := c
    by_cases hp : p j = true
    · by_cases hj : j = k
      · subst hj; simp [hp, fmFind]
      · simp only [List.filter_cons, hp, if_true, fmFind, hj, if_false, ih]
    · by_cases hj : j = k
      · subst hj; simp only [List.filter_cons, hp]; rw [if_neg (by simp), ih]; simp [hp]
      · simp only [List.filter_cons, hp]; rw [if_neg (by simp), ih]; simp [fmFind, hj]

omit [DecidableEq α] in
/-- Looking up a key after the entries of a list were put at shifted keys. -/
theorem fmFind_foldr_put (l acc : FMap α) (src dst k : Nat) (hl : ∀ c ∈ l, src ≤ c.1) :
    fmFind (l.foldr (fun c a => fmPut a (c.1 - src + dst) c.2) acc) k
      = if dst ≤ k then (fmFind l (k - dst + src)).or (fmFind acc k) else fmFind acc k := by
  induction l with
  | nil => simp [fmFind]
  | cons c l ih =>
    obtain ⟨j, v⟩ := c
    have hj : src ≤ j := hl _ List.mem_cons_self
    have ih := ih fun c hc => hl c (List.mem_cons_of_mem _ hc)
    simp only [List.foldr_cons]
    by_cases hk : k = j - src + dst
    · subst hk
      rw [fmFind_put_same, if_pos (by omega)]
      have e : j - src + dst - dst + src = j := by omega
      rw [e]; simp [fmFind]
    · rw [fmFind_put_ne _ _ hk, ih]
      split
      · have e : j ≠ k - dst + src := by omega
        simp [fmFind, e]
      · rfl

omit [DecidableEq α] in
/-- A key outside the cleared range reads as before; one inside it reads as its default. -/
theorem fmGet_clearRange (m : FMap α) (lo n k : Nat) :
    fmGet d (fmClearRange m lo n) k = if lo ≤ k ∧ k < lo + n then d k else fmGet d m k := by
  unfold fmGet fmClearRange
  rw [fmFind_filter (fun j => j < lo || lo + n ≤ j)]
  by_cases h : lo ≤ k ∧ k < lo + n
  · rw [if_pos h, if_neg (by simp; omega)]; rfl
  · rw [if_neg h, if_pos (by simp; omega)]

omit [DecidableEq α] in
/-- A key inside the range copied to reads as its source did; one outside it as before. -/
theorem fmGet_copyRange (x : α) (m : FMap α) (src dst n k : Nat) :
    fmGet (fun _ => x) (fmCopyRange m src dst n) k
      = if dst ≤ k ∧ k < dst + n then fmGet (fun _ => x) m (k - dst + src) else fmGet (fun _ => x) m k := by
  unfold fmGet fmCopyRange
  rw [fmFind_foldr_put _ _ _ _ _ (by intro c hc; simp [fmRange] at hc; omega)]
  have h1 := fmFind_filter (fun j => src ≤ j && j < src + n) m (k - dst + src)
  have h2 := fmFind_filter (fun j => j < dst || dst + n ≤ j) m k
  simp only [fmRange, fmClearRange]
  rw [h1, h2]
  by_cases hd : dst ≤ k
  · by_cases hn : k < dst + n
    · rw [if_pos hd, if_pos (by simp; omega), if_neg (by simp; omega), if_pos ⟨hd, hn⟩]
      simp
    · rw [if_pos hd, if_neg (by simp; omega), if_pos (by simp; omega), if_neg (by omega)]
      simp
  · rw [if_neg hd, if_pos (by simp; omega), if_neg (by omega)]

end Sys2Proof.Machine
end

