-- ==== Sys2Proof/Laws/Regs.lean ====
section
/-! SUPPORT. The laws of the register bank: what a write of a register or field leaves to be read, in the register written
and in every other. -/

namespace Sys2Proof.Machine

theorem regGet_lt (s : State) (r : Nat) : regGet s r < 2 ^ 64 := (fmGet regReset s.regs r).isLt

/-- A register reads as written, in 64 bits. -/
theorem regGet_regSet_same (s : State) (r v : Nat) : regGet (regSet s r v) r = v % 2 ^ 64 := by
  simp [regGet, regSet, fmGet_set_same]

/-- A write of a register leaves every other. -/
theorem regGet_regSet_ne (s : State) {r q : Nat} (v : Nat) (h : q ≠ r) : regGet (regSet s r v) q = regGet s q := by
  simp [regGet, regSet, fmGet_set_ne _ _ _ h]

theorem regGet_setF_ne (s : State) {r q : Nat} (f : Fld) (v : Nat) (h : q ≠ r) : regGet (setF s r f v) q = regGet s q :=
  regGet_regSet_ne s _ h

/-- A write of a field leaves every other register's fields. -/
theorem getF_setF_ne (s : State) {r q : Nat} (f g : Fld) (v : Nat) (h : q ≠ r) : getF (setF s r f v) q g = getF s q g := by
  simp [getF, regGet_setF_ne s f v h]

/-- A field reads as written, in its width. -/
theorem getF_setF_same (s : State) (r : Nat) (f : Fld) (v : Nat) (h : f.lo + f.w ≤ 64) :
    getF (setF s r f v) r f = v % 2 ^ f.w := by
  have hlt := setBits_lt (regGet s r) f.lo f.w v 64 (regGet_lt s r) h
  simp only [getF, setF, regGet_regSet_same, Nat.mod_eq_of_lt hlt, bitsOf_setBits_same]

/-- A write of a field leaves the register's fields that it does not touch. -/
theorem getF_setF_field (s : State) (r : Nat) (f g : Fld) (v : Nat) (h : f.lo + f.w ≤ 64)
    (hd : g.lo + g.w ≤ f.lo ∨ f.lo + f.w ≤ g.lo) : getF (setF s r f v) r g = getF s r g := by
  have hlt := setBits_lt (regGet s r) f.lo f.w v 64 (regGet_lt s r) h
  simp only [getF, setF, regGet_regSet_same, Nat.mod_eq_of_lt hlt]
  rcases hd with hd | hd
  · exact bitsOf_setBits_below _ _ _ _ _ _ hd
  · exact bitsOf_setBits_above _ _ _ _ _ _ hd

/-- A raised flag reads 1. -/
theorem isF_raiseF_same (s : State) (r : Nat) (f : Fld) (h : f.lo + f.w ≤ 64) (hw : 0 < f.w) : isF (raiseF s r f) r f = true := by
  have : (1 : Nat) % 2 ^ f.w = 1 := Nat.mod_eq_of_lt (Nat.one_lt_two_pow (Nat.pos_iff_ne_zero.1 hw))
  simp [isF, raiseF, getF_setF_same s r f 1 h, this]

theorem isF_setF_ne (s : State) {r q : Nat} (f g : Fld) (v : Nat) (h : q ≠ r) : isF (setF s r f v) q g = isF s q g := by
  simp [isF, getF_setF_ne s f g v h]

theorem isF_raiseF_ne (s : State) {r q : Nat} (f g : Fld) (h : q ≠ r) : isF (raiseF s r f) q g = isF s q g :=
  isF_setF_ne s f g 1 h

theorem getF_raiseF_ne (s : State) {r q : Nat} (f g : Fld) (h : q ≠ r) : getF (raiseF s r f) q g = getF s q g :=
  getF_setF_ne s f g 1 h

/-- Every field is below the bound of its width. -/
theorem getF_lt (s : State) (r : Nat) (f : Fld) : getF s r f < 2 ^ f.w := bitsOf_lt _ _ _

/-- The register bank keeps its canonical form. -/
theorem regs_wf_regSet (s : State) (r v : Nat) (h : fmWf regReset s.regs = true) :
    fmWf regReset (regSet s r v).regs = true := fmWf_set _ _ _ _ h

theorem regs_wf_setF (s : State) (r : Nat) (f : Fld) (v : Nat) (h : fmWf regReset s.regs = true) :
    fmWf regReset (setF s r f v).regs = true := regs_wf_regSet s _ _ h

/-! ## Memory -/

theorem memGet_put_nil (s : State) (a : Nat) : memPut s a [] = s := rfl

theorem putBytes_outside (m : FMap Byte) (a : Nat) (bs : List Byte) (x : Nat) (h : x < a ∨ a + bs.length ≤ x) :
    fmGet memDflt (putBytes m a bs) x = fmGet memDflt m x := by
  induction bs generalizing m a with
  | nil => rfl
  | cons b bs ih =>
    simp only [putBytes, List.length_cons] at *
    rw [ih _ _ (by omega), fmGet_set_ne _ _ _ (by omega)]

/-- A store leaves every byte outside it. -/
theorem memGet_memPut_outside (s : State) (a : Nat) (bs : List Byte) (x : Nat) (h : x < a ∨ a + bs.length ≤ x) :
    memGet (memPut s a bs) x = memGet s x := putBytes_outside s.mem a bs x h

theorem putBytes_inside (m : FMap Byte) (a : Nat) (bs : List Byte) (i : Nat) (h : i < bs.length) :
    fmGet memDflt (putBytes m a bs) (a + i) = bs[i] := by
  induction bs generalizing m a i with
  | nil => simp at h
  | cons b bs ih =>
    simp only [putBytes]
    cases i with
    | zero =>
      rw [putBytes_outside _ _ _ _ (by omega)]
      simp [fmGet_set_same]
    | succ i =>
      have := ih (fmSet memDflt m a b) (a + 1) i (by simpa using h)
      simpa [Nat.add_assoc, Nat.add_comm 1 i] using this

/-- A store is read back. -/
theorem memGet_memPut_inside (s : State) (a : Nat) (bs : List Byte) (i : Nat) (h : i < bs.length) :
    memGet (memPut s a bs) (a + i) = bs[i] := putBytes_inside s.mem a bs i h

theorem putBytes_wf (m : FMap Byte) (a : Nat) (bs : List Byte) (h : memWf m = true) : memWf (putBytes m a bs) = true := by
  induction bs generalizing m a with
  | nil => exact h
  | cons b bs ih => exact ih _ _ (fmWf_set memDflt m a b h)

/-- Every memory operation keeps the canonical form. -/
theorem memWf_memPut (s : State) (a : Nat) (bs : List Byte) (h : memWf s.mem = true) : memWf (memPut s a bs).mem = true :=
  putBytes_wf s.mem a bs h
theorem memWf_memPutNat (s : State) (a n v : Nat) (h : memWf s.mem = true) : memWf (memPutNat s a n v).mem = true :=
  memWf_memPut s a _ h
theorem memWf_memCopy (s : State) (src dst n : Nat) (h : memWf s.mem = true) : memWf (memCopy s src dst n).mem = true :=
  fmWf_copyRange (0 : Byte) s.mem src dst n h
/-- Every byte of the range copied to reads as its source did before; every other byte as before (R26). -/
theorem memGet_memCopy (s : State) (src dst n x : Nat) :
    memGet (memCopy s src dst n) x = if dst ≤ x ∧ x < dst + n then memGet s (x - dst + src) else memGet s x :=
  fmGet_copyRange (0 : Byte) s.mem src dst n x
/-- Every byte of a zeroed range reads 0; every other byte as before. -/
theorem memGet_memZero (s : State) (a n x : Nat) :
    memGet (memZero s a n) x = if a ≤ x ∧ x < a + n then 0 else memGet s x :=
  fmGet_clearRange memDflt s.mem a n x
theorem memWf_memZero (s : State) (a n : Nat) (h : memWf s.mem = true) : memWf (memZero s a n).mem = true :=
  fmWf_clearRange memDflt s.mem a n h
/-- The memory of the reset state has it. -/
theorem memWf_reset : memWf State.reset.mem = true := rfl

end Sys2Proof.Machine
end

