-- ==== Sys2Proof/Laws/Command.lean ====
section
/-! SUPPORT. What dispatch, the gates before a command's effect, and the ends of commands do: one lemma each. -/

namespace Sys2Proof.Machine

variable {s : State} {r : CmdRef} {op : Nat} {c : Cmd} {k : State → Cmd → Disp}

/-- A command that is ready reaches its owning chapter's tests in the state in which it is dispatched. -/
theorem dispatch_ready (h : readyFor s r op c = true) :
    dispatch op r s k =
      match k (markDispatched s r) c with
      | .wait => .next s
      | .stop code check info => .next (endCmd s r code check 0 info)
      | .stopIn t code check info => .next (updCmd (endCmd t r code check 0 info) r fun c => { c with order := 0 })
      | .gone code check =>
        .next (endCmd s r (if c.gen = getF s (rXfmGen r.scope) fXfmGenGeneration then code else 0x17)
          (if c.gen = getF s (rXfmGen r.scope) fXfmGenGeneration then check else 0) 0 0)
      | .go t => .next t := by
  simp only [readyFor, Bool.and_eq_true, decide_eq_true_eq, Bool.not_eq_true', Bool.and_or_distrib_left, Bool.or_eq_false_iff] at h
  obtain ⟨⟨⟨⟨⟨⟨⟨⟨hf, hs⟩, ho⟩, hh⟩, hr⟩, hd⟩, hop⟩, hb⟩, hq, hg⟩ := h
  subst ho
  have hc : ∀ code check, goneCode s r c code check = (if c.gen = getF s (rXfmGen r.scope) fXfmGenGeneration then code else 0x17,
      if c.gen = getF s (rXfmGen r.scope) fXfmGenGeneration then check else 0) := by
    intro code check
    by_cases h : c.gen = getF s (rXfmGen r.scope) fXfmGenGeneration <;> simp [goneCode, genDiffers, h]
  unfold dispatch
  rw [hf]
  simp only [hs, hh, hr, hd, hop, hb, hq, hg, hc]
  simp only [ne_eq, not_true_eq_false, or_self, Bool.true_eq_false, if_false, Bool.not_true, Bool.false_eq_true]
  all_goals (cases k (markDispatched s r) c <;> rfl)
/-- One whose tests let it go on ends in the state they give. -/
theorem dispatch_go {t : State} (h : readyFor s r op c = true) (hk : k (markDispatched s r) c = .go t) :
    dispatch op r s k = .next t := by
  rw [dispatch_ready h, hk]
/-- One that waits changes nothing. -/
theorem dispatch_wait (h : readyFor s r op c = true) (hk : k (markDispatched s r) c = .wait) : dispatch op r s k = .next s := by
  rw [dispatch_ready h, hk]
/-- One that its chapter refuses ends with that code. -/
theorem dispatch_stop {code check info : Nat} (h : readyFor s r op c = true)
    (hk : k (markDispatched s r) c = .stop code check info) : dispatch op r s k = .next (endCmd s r code check 0 info) := by
  rw [dispatch_ready h, hk]
/-- Dispatch always goes on. -/
theorem dispatch_next (op : Nat) (r : CmdRef) (s : State) (k : State → Cmd → Disp) : ∃ t, dispatch op r s k = .next t := by
  unfold dispatch
  repeat' split
  all_goals exact ⟨_, rfl⟩
/-- What a ready command is. -/
theorem readyFor_cmd (h : readyFor s r op c = true) : findCmd s r = some c ∧ c.st = .accepted ∧ c.opcode = op := by
  simp only [readyFor, Bool.and_eq_true, decide_eq_true_eq] at h
  exact ⟨h.1.1.1.1.1.1.1.1, h.1.1.1.1.1.1.1.2, h.1.1.1.1.1.1.2⟩
/-- What a running command is. -/
theorem runsAs_cmd (h : runsAs s r op c = true) : findCmd s r = some c ∧ c.st = .dispatched ∧ c.opcode = op := by
  simpa only [runsAs, Bool.and_eq_true, decide_eq_true_eq, and_assoc] using h

/-- A copying command that its dispatch lets go on runs its course from there. -/
theorem moveCmd_go {t : State} {c' : Cmd} {go : State → Cmd → State} (hs : r.scope < 8) (h : readyFor s r op c = true)
    (hk : k (markDispatched s r) c = .go t) (hf : findCmd t r = some c') (hd : c'.st = .dispatched) :
    moveCmd op r s k go = .next (go t c') := by
  obtain ⟨hc, ha, -⟩ := readyFor_cmd h
  unfold moveCmd guardUnit
  simp [hs, hc, ha, dispatch_go h hk, hf, hd]
/-- A copying command that runs goes on with its course. -/
theorem moveCmd_runs {go : State → Cmd → State} (hs : r.scope < 8) (h : runsAs s r op c = true) :
    moveCmd op r s k go = .next (go s c) := by
  obtain ⟨hc, hd, ho⟩ := runsAs_cmd h
  unfold moveCmd guardUnit
  simp [hs, hc, hd, ho]

/-- A read that meets nothing goes on. -/
theorem readOk_well {a n : Nat} {b : Bool} {d : Disp} (h : readsWell s a n = true) : readOk s r none b a n d = d := by
  simp only [readsWell, Bool.and_eq_true, Bool.not_eq_true', Option.isNone_iff_eq_none] at h
  simp [readOk, h.1, h.2]
/-- What software asks is served where no hold stands. -/
theorem whileServed_of (h : s.lnt.heldCode = none) (k : Out) : whileServed s k = k := by simp [whileServed, h]

/-- A privileged command whose record is good reaches the tests of the seal, the window and its own fields. -/
theorem privCmd_ready {k : State → Cmd → List Byte → Disp} (hs : r.scope = 8) (h : readyFor s r op c = true)
    (hw : (earlierCmds (markDispatched s r) 8).any (fun p => 0x42 ≤ p.2.opcode && p.2.opcode ≤ 0x46) = false)
    (ha : c.o0 % 128 = 0) (hm : mgmtReach (markDispatched s r) false c.o0 128 = true)
    (hr : readsWell (markDispatched s r) c.o0 128 = true)
    (hc : crc32c ((memBytes (markDispatched s r) c.o0 128).take 0x7C) = leAt (memBytes (markDispatched s r) c.o0 128) 0x7C 4) :
    privCmd op r none s k = dispatch op r s fun m c =>
      privileged m (need (prFieldsOk op (memBytes m c.o0 128)) 0x10 4
        (k (updJob m r fun j => { j with rec1 := memBytes m c.o0 128 }) c (memBytes m c.o0 128))) := by
  unfold privCmd guardUnit
  rw [if_pos (by simpa using hs), dispatch_ready h, dispatch_ready h]
  simp only [readOk_well hr, need, waitWhile, ha, hm, hc, hw, Bool.false_eq_true, if_false, if_true, decide_true, Bool.and_self]

/-- A vector instruction runs where the tread's program stands at its opcode. -/
theorem vecOp_at {t : Nat} {i : VIns} {k : State → Tread → VIns → Out} (ht : t < 128) (hf : vecFetch s t = some i)
    (ho : i.op = op) : vecOp t op s k = k s (getT s t) i := by
  unfold vecOp guardUnit
  simp [ht, hf, ho]

/-- A good message of the type is handled. -/
theorem withMsg_ready {ctx ty h : Nat} {g : Ring} {m : List Byte} {k : State → Nat → Ring → List Byte → Out}
    (hm : msgReady s ctx ty h g m = true) : withMsg ctx ty s k = k s h g m := by
  simp only [msgReady, Bool.and_eq_true, decide_eq_true_eq] at hm
  obtain ⟨⟨⟨⟨⟨⟨⟨h1, h2⟩, h3⟩, h4⟩, h5⟩, h6⟩, h7⟩, h8⟩ := hm
  subst h4
  unfold withMsg guardUnit
  rw [if_pos h1]
  simp only [h2]
  rw [if_neg (by omega), h6]
  simp [h7, h8]

/-- A control frame of the type is taken. -/
theorem takeCtl_ready {port ty : Nat} {f : List Byte} {rest : List (List Byte)} {k : State → List Byte → Out}
    (hc : ctlReady s port ty f rest = true) :
    takeCtl s port ty k = k (setPort s port { getPort s port with ctl := rest }) f := by
  simp only [ctlReady, Bool.and_eq_true, decide_eq_true_eq] at hc
  obtain ⟨⟨h1, h2⟩, h3⟩ := hc
  unfold takeCtl guardUnit
  simp [h1, h2, h3]

/-- A good segment of the type is taken off its port. -/
theorem takeSeg_ready {port ty vc : Nat} {b : List Byte} {rest : List (Nat × List Byte)} {k : State → Nat → List Byte → Out}
    (hc : segReady s port ty vc b rest = true) : takeSeg s port ty k = k (segTaken s port vc rest) (sgCtx b) b := by
  simp only [segReady, Bool.and_eq_true, decide_eq_true_eq, Bool.not_eq_true'] at hc
  obtain ⟨⟨⟨⟨⟨⟨h1, h2⟩, h3⟩, h4⟩, -⟩, -⟩, -⟩ := hc
  unfold takeSeg guardUnit
  simp [h1, h2, h3, h4, segTaken]

/-- A command whose reaches are open passes the gate. -/
theorem reachGate_open {h : Nat} {rs ws : List (Nat × Nat)} {d : Disp} (ho : reachOpen s h rs ws = true) :
    reachGate s h rs ws d = d := by
  simp only [reachOpen, Bool.and_eq_true, Bool.or_eq_true, Bool.not_eq_true'] at ho
  obtain ⟨⟨h1, h2⟩, h3⟩ := ho
  unfold reachGate waitWhile
  rw [h1, h3]
  rcases h2 with h2 | h2 <;> simp [h2]
/-- A command that passes the learning tests goes on. -/
theorem learnGate_open {h : Nat} {d : Disp} (ho : learnOpen s h c = true) :
    learnGate s h c (c.pass = 1 || c.pass = 2) (c.pass = 2) d = d := by
  simp only [learnOpen, Bool.and_eq_true, Bool.not_eq_true'] at ho
  obtain ⟨⟨h1, h2⟩, h3⟩ := ho
  unfold learnGate
  rw [h1, h2, h3]
  simp
@[simp] theorem need_true (code check : Nat) (d : Disp) : need true code check d = d := rfl
@[simp] theorem need_false (code check : Nat) (d : Disp) : need false code check d = .stop code check 0 := rfl
@[simp] theorem waitWhile_false (d : Disp) : waitWhile false d = d := rfl
@[simp] theorem waitWhile_true (d : Disp) : waitWhile true d = .wait := rfl
@[simp] theorem guardUnit_true (k : Out) : guardUnit true k = k := rfl
@[simp] theorem guardUnit_false (k : Out) : guardUnit false k = .fault .noSuchUnit := rfl
/-- Guarded meanings go on where the unit exists. -/
theorem guardUnit_of {ok : Bool} (h : ok = true) (k : Out) : guardUnit ok k = k := by rw [h]; rfl

end Sys2Proof.Machine
end

