-- ==== Sys2Proof/Laws/Keeps.lean ====
section
/-! SUPPORT. What no operation of the machine touches: the commands that wait, the canonical form of memory and register
bank, and the free values already drawn. `Keeps s t` says it of a state `t` reached from `s`; a predicate beside it says it
of what an operation answers where that is not just a state. The files beside this one have one lemma per operation. -/

namespace Sys2Proof.Machine

/-- What every operation keeps from `s` to `t`. -/
structure Keeps (s t : State) : Prop where
  pending : t.pending = s.pending
  mem : memWf s.mem = true → memWf t.mem = true
  regs : fmWf regReset s.regs = true → fmWf regReset t.regs = true
  free : s.freeCtr ≤ t.freeCtr

/-- It holds of what an operation may answer. -/
def OptAll {α : Type} (P : α → Prop) (o : Option α) : Prop := ∀ x, o = some x → P x
def ExcAll {ε α : Type} (P : α → Prop) (o : Except ε α) : Prop := ∀ x, o = .ok x → P x
def AtFst {α β : Type} (P : α → Prop) (p : α × β) : Prop := P p.1
def AtSnd {α β : Type} (P : β → Prop) (p : α × β) : Prop := P p.2
def OutKeeps (s : State) : Out → Prop
  | .next t => Keeps s t
  | _ => True
def DispKeeps (s : State) : Disp → Prop
  | .stopIn t _ _ _ => Keeps s t
  | .go t => Keeps s t
  | _ => True
def AcsKeeps (s : State) : Acs → Prop
  | .done t _ => Keeps s t
  | .trap t _ _ => Keeps s t
  | .stall t => Keeps s t

theorem Keeps.refl (s : State) : Keeps s s := ⟨rfl, id, id, le_refl _⟩

section
variable {α β ε : Type} {P : α → Prop} {s x : State}

theorem OptAll.none : OptAll P none := nofun
theorem OptAll.some {a : α} (h : P a) : OptAll P (some a) := fun _ e => (Option.some.inj e) ▸ h
theorem OptAll.get {a : α} (h : OptAll P (.some a)) : P a := h a rfl
theorem OptAll.getD {o : Option α} {d : α} (h : OptAll P o) (hd : P d) : P (o.getD d) := by
  cases o with
  | none => exact hd
  | some a => exact h a rfl
theorem ExcAll.error {e : ε} : ExcAll P (.error e : Except ε α) := nofun
theorem ExcAll.ok {a : α} (h : P a) : ExcAll P (.ok a : Except ε α) := fun _ e => (Except.ok.inj e) ▸ h
theorem ExcAll.get {a : α} (h : ExcAll P (.ok a : Except ε α)) : P a := h a rfl
theorem AtFst.mk {a : α} {b : β} (h : P a) : AtFst P (a, b) := h
theorem AtSnd.mk {a : α} {b : β} (h : P a) : AtSnd P (b, a) := h
theorem AtFst.fst {p : α × β} (h : AtFst P p) : P p.1 := h
theorem AtSnd.snd {p : β × α} (h : AtSnd P p) : P p.2 := h
theorem OutKeeps.next (h : Keeps s x) : OutKeeps s (.next x) := h
theorem OutKeeps.fault {f : Fault} : OutKeeps s (.fault f) := trivial
theorem OutKeeps.refused {r : Refusal} : OutKeeps s (.refused r) := trivial
theorem OutKeeps.get {o : Out} (h : OutKeeps s o) (e : o = .next x) : Keeps s x := by subst e; exact h
theorem DispKeeps.wait : DispKeeps s .wait := trivial
theorem DispKeeps.stop {a b c : Nat} : DispKeeps s (.stop a b c) := trivial
theorem DispKeeps.gone {a b : Nat} : DispKeeps s (.gone a b) := trivial
theorem DispKeeps.stopIn {a b c : Nat} (h : Keeps s x) : DispKeeps s (.stopIn x a b c) := h
theorem DispKeeps.go (h : Keeps s x) : DispKeeps s (.go x) := h
theorem AcsKeeps.done {bs : List Byte} (h : Keeps s x) : AcsKeeps s (.done x bs) := h
theorem AcsKeeps.trap {a b : Nat} (h : Keeps s x) : AcsKeeps s (.trap x a b) := h
theorem AcsKeeps.stall (h : Keeps s x) : AcsKeeps s (.stall x) := h

theorem all_ite {c : Prop} [Decidable c] {a b : α} (ha : P a) (hb : P b) : P (if c then a else b) := by
  split <;> assumption
theorem all_dite {c : Prop} [Decidable c] {a : c → α} {b : ¬c → α} (ha : ∀ h, P (a h)) (hb : ∀ h, P (b h)) :
    P (if h : c then a h else b h) := by
  split
  · exact ha _
  · exact hb _
theorem all_foldl {f : α → β → α} {x : α} (l : List β) (hf : ∀ t b, P t → P (f t b)) (hx : P x) : P (l.foldl f x) := by
  induction l generalizing x with
  | nil => exact hx
  | cons a l ih => exact ih (hf _ _ hx)
theorem all_foldr {f : β → α → α} {x : α} (l : List β) (hf : ∀ t b, P t → P (f b t)) (hx : P x) : P (l.foldr f x) := by
  induction l with
  | nil => exact hx
  | cons a l ih => exact hf _ _ ih
theorem all_of_eq {a b : α} (e : a = b) (h : P a) : P b := e ▸ h

/-- An update of fields that hold none of it. -/
theorem Keeps.upd {a : Resp} {b : Nat} {c : FMap (List Byte)} {d : FMap Xfm} {e : FMap Queue} {f g : List (Nat × Nat)}
    {h : FMap Tread} {i : FMap Hall} {j : Undercroft} {k : Bool} {l : Integ} {m : Oriel} {n : Frieze} {o : Mez} {p : Lantern}
    {q : Pcie} (hx : Keeps s x) : Keeps s ⟨x.pending, x.regs, x.mem, a, x.freeCtr, b, c, d, e, f, g, h, i, j, k, l, m, n, o, p, q⟩ :=
  ⟨hx.1, hx.2, hx.3, hx.4⟩
/-- An update of any fields but the queue. -/
theorem Keeps.updAll {R : FMap DWord} {M : FMap Byte} {F : Nat} {a : Resp} {b : Nat} {c : FMap (List Byte)} {d : FMap Xfm}
    {e : FMap Queue} {f g : List (Nat × Nat)}
    {h : FMap Tread} {i : FMap Hall} {j : Undercroft} {k : Bool} {l : Integ} {m : Oriel} {n : Frieze} {o : Mez} {p : Lantern}
    {q : Pcie} (hx : Keeps s x) (hm : memWf x.mem = true → memWf M = true)
    (hr : fmWf regReset x.regs = true → fmWf regReset R = true) (hf : x.freeCtr ≤ F) :
    Keeps s ⟨x.pending, R, M, a, F, b, c, d, e, f, g, h, i, j, k, l, m, n, o, p, q⟩ :=
  ⟨hx.1, fun w => hm (hx.2 w), fun w => hr (hx.3 w), hx.4.trans hf⟩
theorem regs_wf_warm (m l : FMap DWord) (h : fmWf regReset m = true) :
    fmWf regReset (l.foldl (fun m p => fmSet regReset m p.1 (BitVec.ofNat 64 (regWarm p.1 p.2.toNat))) m) = true := by
  induction l generalizing m with
  | nil => exact h
  | cons a l ih => exact ih _ (fmWf_set _ m _ _ h)
end

end Sys2Proof.Machine
end

