-- ==== Sys2Proof/Laws/KeepsBase.lean ====
section
/-! SUPPORT. No operation of these files touches what waits, the canonical form of memory and registers, or the free values
drawn: Ops, Flags, Chan, Scale, Coded, Alcove, Operands, Product, ProductCmd, Attn, Fail, Undercroft, Move. -/

namespace Sys2Proof.Machine

/-! ## Ops -/

theorem guardUnit_keeps {s0 : State} {ok : Bool} {k : Out} (h2 : OutKeeps s0 k) :
    OutKeeps s0 (guardUnit ok k) := by
  unfold guardUnit
  apply all_ite (P := OutKeeps s0)
  · assumption
  · exact OutKeeps.fault

theorem memCopy_keeps {s0 : State} {s : Machine.State} (h1 : Keeps s0 s) {src : ℕ} {dst : ℕ} {n : ℕ} :
    Keeps s0 (memCopy s src dst n) := by
  unfold memCopy
  apply Keeps.updAll
  · assumption
  · exact fun w => fmWf_copyRange _ _ _ _ _ w
  · exact id
  · exact le_refl _

theorem memPut_keeps {s0 : State} {s : Machine.State} (h1 : Keeps s0 s) {a : ℕ} {bs : List Byte} :
    Keeps s0 (memPut s a bs) := by
  unfold memPut
  apply Keeps.updAll
  · assumption
  · exact fun w => putBytes_wf _ _ _ w
  · exact id
  · exact le_refl _

theorem memPutNat_keeps {s0 : State} {s : Machine.State} (h1 : Keeps s0 s) {a : ℕ} {n : ℕ} {v : ℕ} :
    Keeps s0 (memPutNat s a n v) := by
  unfold memPutNat
  apply memPut_keeps
  assumption

theorem memZero_keeps {s0 : State} {s : Machine.State} (h1 : Keeps s0 s) {a : ℕ} {n : ℕ} :
    Keeps s0 (memZero s a n) := by
  unfold memZero
  apply Keeps.updAll
  · assumption
  · exact fun w => fmWfFrom_filter _ _ _ w
  · exact id
  · exact le_refl _

theorem need_keeps {s0 : State} {ok : Bool} {code : ℕ} {check : ℕ} {k : Disp} (h4 : DispKeeps s0 k) :
    DispKeeps s0 (need ok code check k) := by
  unfold need
  apply all_ite (P := DispKeeps s0)
  · assumption
  · exact DispKeeps.stop

theorem regSet_keeps {s0 : State} {s : Machine.State} (h1 : Keeps s0 s) {r : ℕ} {v : ℕ} :
    Keeps s0 (regSet s r v) := by
  unfold regSet
  apply Keeps.updAll
  · assumption
  · exact id
  · exact fun w => fmWf_set _ _ _ _ w
  · exact le_refl _

theorem setF_keeps {s0 : State} {s : Machine.State} (h1 : Keeps s0 s) {r : ℕ} {f : Fld} {v : ℕ} :
    Keeps s0 (setF s r f v) := by
  unfold setF
  apply regSet_keeps
  assumption

theorem bumpF_keeps {s0 : State} {s : Machine.State} (h1 : Keeps s0 s) {r : ℕ} {f : Fld} {n : ℕ} :
    Keeps s0 (bumpF s r f n) := by
  unfold bumpF
  apply setF_keeps
  assumption

theorem countHall_keeps {s0 : State} {s : Machine.State} (h1 : Keeps s0 s) {h : ℕ} {off : ℕ} {n : ℕ} :
    Keeps s0 (countHall s h off n) := by
  unfold countHall
  apply bumpF_keeps
  assumption

theorem countErr_keeps {s0 : State} {s : Machine.State} (h1 : Keeps s0 s) {h : ℕ} {e : ReadErr} :
    Keeps s0 (countErr s h e) := by
  unfold countErr
  apply all_ite (P := Keeps s0)
  · assumption
  · split
    · rename_i x4 x5 x6
      apply countHall_keeps
      assumption
    · rename_i x7 x8 x9
      apply countHall_keeps
      assumption
    · rename_i x10 x11 x12
      apply countHall_keeps
      assumption
    · rename_i x13 x14 x15 x16
      apply all_ite (P := Keeps s0)
      · apply countHall_keeps
        assumption
      · assumption
    · rename_i x17 x18 x19 x20 x21
      assumption

theorem raiseF_keeps {s0 : State} {s : Machine.State} (h1 : Keeps s0 s) {r : ℕ} {f : Fld} :
    Keeps s0 (raiseF s r f) := by
  unfold raiseF
  apply setF_keeps
  assumption

theorem raiseCmdEvent_keeps {s0 : State} {s : Machine.State} (h1 : Keeps s0 s) {f : Fld} :
    Keeps s0 (raiseCmdEvent s f) := by
  unfold raiseCmdEvent
  apply all_ite (P := Keeps s0)
  · assumption
  · extract_lets +onlyGivenNames x3
    have h4 : Keeps s0 x3 := by
      unfold x3
      apply raiseF_keeps
      assumption
    clear_value x3
    apply Keeps.upd
    assumption

theorem satF_keeps {s0 : State} {s : Machine.State} (h1 : Keeps s0 s) {r : ℕ} {f : Fld} {n : ℕ} :
    Keeps s0 (satF s r f n) := by
  unfold satF
  apply setF_keeps
  assumption

theorem countMalformed_keeps {s0 : State} {s : Machine.State} (h1 : Keeps s0 s) :
    Keeps s0 (countMalformed s) := by
  unfold countMalformed
  apply satF_keeps
  assumption

theorem setH_keeps {s0 : State} {s : Machine.State} (h1 : Keeps s0 s) {h : ℕ} {v : Hall} :
    Keeps s0 (setH s h v) := by
  unfold setH
  apply Keeps.upd
  assumption

theorem setQ_keeps {s0 : State} {s : Machine.State} (h1 : Keeps s0 s) {scope : ℕ} {q : ℕ} {v : Queue} :
    Keeps s0 (setQ s scope q v) := by
  unfold setQ
  apply Keeps.upd
  assumption

theorem setT_keeps {s0 : State} {s : Machine.State} (h1 : Keeps s0 s) {t : ℕ} {v : Tread} :
    Keeps s0 (setT s t v) := by
  unfold setT
  apply Keeps.upd
  assumption

theorem setX_keeps {s0 : State} {s : Machine.State} (h1 : Keeps s0 s) {scope : ℕ} {v : Xfm} :
    Keeps s0 (setX s scope v) := by
  unfold setX
  apply Keeps.upd
  assumption

theorem takeFree_keeps {s0 : State} {s : Machine.State} (h1 : Keeps s0 s) :
    AtSnd (Keeps s0) (takeFree s) := by
  unfold takeFree
  apply AtSnd.mk
  apply Keeps.updAll
  · assumption
  · exact id
  · exact id
  · exact Nat.le_add_right _ _

theorem treadStatus_keeps {s0 : State} {s : Machine.State} (h1 : Keeps s0 s) {t : ℕ} :
    Keeps s0 (treadStatus s t) := by
  unfold treadStatus
  extract_lets +onlyGivenNames x3
  clear_value x3
  extract_lets +onlyGivenNames x4
  clear_value x4
  extract_lets +onlyGivenNames x5
  clear_value x5
  extract_lets +onlyGivenNames x6
  clear_value x6
  extract_lets +onlyGivenNames x7
  have h8 : Keeps s0 x7 := by
    unfold x7
    apply setF_keeps
    assumption
  clear_value x7
  extract_lets +onlyGivenNames x9
  have h10 : Keeps s0 x9 := by
    unfold x9
    apply setF_keeps
    assumption
  clear_value x9
  extract_lets +onlyGivenNames x11
  have h12 : Keeps s0 x11 := by
    unfold x11
    apply setF_keeps
    assumption
  clear_value x11
  extract_lets +onlyGivenNames x13
  have h14 : Keeps s0 x13 := by
    unfold x13
    apply setF_keeps
    assumption
  clear_value x13
  extract_lets +onlyGivenNames x15
  clear_value x15
  apply all_ite (P := Keeps s0)
  · assumption
  · apply setF_keeps
    assumption

theorem dropItems_keeps {s0 : State} {s : Machine.State} (h1 : Keeps s0 s) {r : CmdRef} :
    Keeps s0 (dropItems s r) := by
  unfold dropItems
  apply all_foldl (P := Keeps s0)
  · intro x3 x4 x5
    extract_lets +onlyGivenNames x6
    clear_value x6
    apply all_ite (P := Keeps s0)
    · apply treadStatus_keeps
      apply setT_keeps
      assumption
    · assumption
  · assumption

theorem updCmd_keeps {s0 : State} {s : Machine.State} (h1 : Keeps s0 s) {r : CmdRef} {f : Cmd → Cmd} :
    Keeps s0 (updCmd s r f) := by
  unfold updCmd
  extract_lets +onlyGivenNames x4
  clear_value x4
  apply setQ_keeps
  assumption

theorem endCmd_keeps {s0 : State} {s : Machine.State} (h1 : Keeps s0 s) {r : CmdRef} {code : ℕ} {check : ℕ} {extent : ℕ} {info : ℕ} :
    Keeps s0 (endCmd s r code check extent info) := by
  unfold endCmd
  apply updCmd_keeps
  assumption

theorem markDispatched_keeps {s0 : State} {s : Machine.State} (h1 : Keeps s0 s) {r : CmdRef} :
    Keeps s0 (markDispatched s r) := by
  unfold markDispatched
  extract_lets +onlyGivenNames x3
  have h4 : Keeps s0 x3 := by
    unfold x3
    apply updCmd_keeps
    assumption
  clear_value x3
  apply Keeps.upd
  assumption

theorem dispatch_keeps {s0 : State} {opcode : ℕ} {r : CmdRef} {s : Machine.State} (h3 : Keeps s0 s) {k : Machine.State → Cmd → Disp} (h5 : ∀ (x6 : Machine.State), Keeps s0 x6 → ∀ (x7 : Cmd), DispKeeps s0 (k x6 x7)) :
    OutKeeps s0 (dispatch opcode r s k) := by
  unfold dispatch
  split
  · rename_i x8 x9
    apply OutKeeps.next
    assumption
  · rename_i x10 x11 x12
    apply all_ite (P := OutKeeps s0)
    · apply OutKeeps.next
      assumption
    · apply all_ite (P := OutKeeps s0)
      · apply OutKeeps.next
        apply endCmd_keeps
        assumption
      · split
        · rename_i x13 x14 x15
          apply OutKeeps.next
          assumption
        · rename_i x16 x17 x18
          apply OutKeeps.next
          apply endCmd_keeps
          assumption
        · rename_i x19 x20
          split
          · rename_i x21 x22
            have h23 := all_of_eq (P := DispKeeps s0) x22 (by
                apply all_ite (P := DispKeeps s0)
                · exact DispKeeps.stop
                · apply all_ite (P := DispKeeps s0)
                  · exact DispKeeps.stop
                  · apply all_ite (P := DispKeeps s0)
                    · exact DispKeeps.stop
                    · apply h5
                      apply markDispatched_keeps
                      assumption)
            apply OutKeeps.next
            assumption
          · rename_i x24 x25 x26 x27 x28
            have h29 := all_of_eq (P := DispKeeps s0) x28 (by
                apply all_ite (P := DispKeeps s0)
                · exact DispKeeps.stop
                · apply all_ite (P := DispKeeps s0)
                  · exact DispKeeps.stop
                  · apply all_ite (P := DispKeeps s0)
                    · exact DispKeeps.stop
                    · apply h5
                      apply markDispatched_keeps
                      assumption)
            apply OutKeeps.next
            apply endCmd_keeps
            assumption
          · rename_i x30 x31 x32 x33 x34 x35
            have h36 := all_of_eq (P := DispKeeps s0) x35 (by
                apply all_ite (P := DispKeeps s0)
                · exact DispKeeps.stop
                · apply all_ite (P := DispKeeps s0)
                  · exact DispKeeps.stop
                  · apply all_ite (P := DispKeeps s0)
                    · exact DispKeeps.stop
                    · apply h5
                      apply markDispatched_keeps
                      assumption)
            apply OutKeeps.next
            apply updCmd_keeps
            apply endCmd_keeps
            assumption
          · rename_i x37 x38 x39 x40
            have h41 := all_of_eq (P := DispKeeps s0) x40 (by
                apply all_ite (P := DispKeeps s0)
                · exact DispKeeps.stop
                · apply all_ite (P := DispKeeps s0)
                  · exact DispKeeps.stop
                  · apply all_ite (P := DispKeeps s0)
                    · exact DispKeeps.stop
                    · apply h5
                      apply markDispatched_keeps
                      assumption)
            apply OutKeeps.next
            apply endCmd_keeps
            assumption
          · rename_i x42 x43 x44
            have h45 := all_of_eq (P := DispKeeps s0) x44 (by
                apply all_ite (P := DispKeeps s0)
                · exact DispKeeps.stop
                · apply all_ite (P := DispKeeps s0)
                  · exact DispKeeps.stop
                  · apply all_ite (P := DispKeeps s0)
                    · exact DispKeeps.stop
                    · apply h5
                      apply markDispatched_keeps
                      assumption)
            apply OutKeeps.next
            assumption

theorem succeed_keeps {s0 : State} {s : Machine.State} (h1 : Keeps s0 s) {r : CmdRef} {extent : ℕ} {info : ℕ} :
    Keeps s0 (succeed s r extent info) := by
  unfold succeed
  apply endCmd_keeps
  assumption

theorem updJob_keeps {s0 : State} {s : Machine.State} (h1 : Keeps s0 s) {r : CmdRef} {f : Job → Job} :
    Keeps s0 (updJob s r f) := by
  unfold updJob
  apply updCmd_keeps
  assumption

theorem waitWhile_keeps {s0 : State} {c : Bool} {k : Disp} (h2 : DispKeeps s0 k) :
    DispKeeps s0 (waitWhile c k) := by
  unfold waitWhile
  apply all_ite (P := DispKeeps s0)
  · exact DispKeeps.wait
  · assumption

theorem reachGate_keeps {s0 : State} {s : Machine.State} (h1 : Keeps s0 s) {h : ℕ} {reads : List (ℕ × ℕ)} {writes : List (ℕ × ℕ)} {k : Disp} (h6 : DispKeeps s0 k) :
    DispKeeps s0 (reachGate s h reads writes k) := by
  unfold reachGate
  apply all_ite (P := DispKeeps s0)
  · exact DispKeeps.stop
  · apply waitWhile_keeps
    assumption

theorem wakeHall_keeps {s0 : State} {s : Machine.State} (h1 : Keeps s0 s) {h : ℕ} :
    Keeps s0 (wakeHall s h) := by
  unfold wakeHall
  apply all_ite (P := Keeps s0)
  · apply setH_keeps
    assumption
  · assumption

theorem whileServed_keeps {s0 : State} {s : Machine.State} (h1 : Keeps s0 s) {k : Out} (h3 : OutKeeps s0 k) :
    OutKeeps s0 (whileServed s k) := by
  unfold whileServed
  apply all_ite (P := OutKeeps s0)
  · apply OutKeeps.next
    assumption
  · assumption

/-! ## Flags -/

theorem countCvts_keeps {s0 : State} {s : Machine.State} (h1 : Keeps s0 s) {h : ℕ} {cs : List Cvt} :
    Keeps s0 (countCvts s h cs) := by
  unfold countCvts
  extract_lets +onlyGivenNames x4
  have h5 : Keeps s0 x4 := by
    unfold x4
    apply countHall_keeps
    assumption
  clear_value x4
  extract_lets +onlyGivenNames x6
  have h7 : Keeps s0 x6 := by
    unfold x6
    apply countHall_keeps
    assumption
  clear_value x6
  apply countHall_keeps
  assumption

theorem raiseFp_keeps {s0 : State} {s : Machine.State} (h1 : Keeps s0 s) {h : ℕ} {fl : ℕ} :
    Keeps s0 (raiseFp s h fl) := by
  unfold raiseFp
  apply regSet_keeps
  assumption

/-! ## Chan -/

theorem badCopy_keeps {s0 : State} {s : Machine.State} (h1 : Keeps s0 s) {a : ℕ} {p : LPlace} {mirror : Bool} {corrected : Bool} :
    Keeps s0 (badCopy s a p mirror corrected) := by
  unfold badCopy
  split
  rename_i x6 x7 x8 x9 x10
  extract_lets +onlyGivenNames x11
  clear_value x11
  extract_lets +onlyGivenNames x12
  have h13 : Keeps s0 x12 := by
    unfold x12
    apply all_ite (P := Keeps s0)
    · apply satF_keeps
      assumption
    · apply satF_keeps
      assumption
  clear_value x12
  extract_lets +onlyGivenNames x14
  clear_value x14
  extract_lets +onlyGivenNames x15
  clear_value x15
  extract_lets +onlyGivenNames x16
  have h17 : Keeps s0 x16 := by
    unfold x16
    apply all_ite (P := Keeps s0)
    · apply raiseF_keeps
      assumption
    · assumption
  clear_value x16
  extract_lets +onlyGivenNames x18
  clear_value x18
  extract_lets +onlyGivenNames x19
  have h20 : Keeps s0 x19 := by
    unfold x19
    apply setF_keeps
    assumption
  clear_value x19
  extract_lets +onlyGivenNames x21
  have h22 : Keeps s0 x21 := by
    unfold x21
    apply setF_keeps
    assumption
  clear_value x21
  extract_lets +onlyGivenNames x23
  have h24 : Keeps s0 x23 := by
    unfold x23
    apply setF_keeps
    assumption
  clear_value x23
  apply setF_keeps
  assumption

theorem driveDs_keeps {s0 : State} {s : Machine.State} (h1 : Keeps s0 s) {p : LPlace} :
    Keeps s0 (driveDs s p) := by
  unfold driveDs
  split
  rename_i x3 x4 x5 x6 x7
  apply all_ite (P := Keeps s0)
  · apply Keeps.upd
    assumption
  · assumption

theorem driveRange_keeps {s0 : State} {s : Machine.State} (h1 : Keeps s0 s) {wr : Bool} {a : ℕ} {n : ℕ} :
    Keeps s0 (driveRange s wr a n) := by
  unfold driveRange
  split
  · rename_i x5 x6
    assumption
  · rename_i x7 x8 x9
    apply all_ite (P := Keeps s0)
    · assumption
    · apply all_foldl (P := Keeps s0)
      · intro x10 x11 x12
        split
        rename_i x13 x14 x15 x16
        split
        · rename_i x17
          apply driveDs_keeps
          assumption
        · rename_i x18 x19
          apply all_ite (P := Keeps s0)
          · apply driveDs_keeps
            apply driveDs_keeps
            assumption
          · apply all_ite (P := Keeps s0)
            · apply driveDs_keeps
              assumption
            · apply driveDs_keeps
              assumption
      · assumption

theorem freeCleared_keeps {s0 : State} {s : Machine.State} (h1 : Keeps s0 s) :
    Keeps s0 (freeCleared s) := by
  unfold freeCleared
  apply Keeps.upd
  assumption

theorem recordBurst_keeps {s0 : State} {s : Machine.State} (h1 : Keeps s0 s) {a : ℕ} :
    Keeps s0 (recordBurst s a) := by
  unfold recordBurst
  split
  · rename_i x3 x4
    assumption
  · rename_i x5 x6 x7
    split
    rename_i x8 x9 x10 x11
    split
    · rename_i x12
      apply badCopy_keeps
      assumption
    · rename_i x13 x14
      extract_lets +onlyGivenNames x15
      have h16 : Keeps s0 x15 := by
        unfold x15
        apply all_ite (P := Keeps s0)
        · apply badCopy_keeps
          assumption
        · assumption
      clear_value x15
      apply all_ite (P := Keeps s0)
      · apply badCopy_keeps
        assumption
      · assumption

theorem recordErr_keeps {s0 : State} {s : Machine.State} (h1 : Keeps s0 s) {e : ReadErr} {a : ℕ} :
    Keeps s0 (recordErr s e a) := by
  unfold recordErr
  split
  · rename_i x4 x5 x6
    apply recordBurst_keeps
    assumption
  · rename_i x7 x8
    assumption

theorem noteErr_keeps {s0 : State} {s : Machine.State} (h1 : Keeps s0 s) {h : ℕ} {e : ReadErr} {a : ℕ} :
    Keeps s0 (noteErr s h e a) := by
  unfold noteErr
  apply countErr_keeps
  apply recordErr_keeps
  assumption

theorem failRead_keeps {s0 : State} {s : Machine.State} (h1 : Keeps s0 s) {r : CmdRef} {e : ReadErr} {asCopy : Bool} {a : ℕ} :
    DispKeeps s0 (failRead s r e asCopy a) := by
  unfold failRead
  extract_lets +onlyGivenNames x6
  clear_value x6
  apply DispKeeps.stopIn
  apply noteErr_keeps
  assumption

theorem readOk_keeps {s0 : State} {s : Machine.State} (h1 : Keeps s0 s) {r : CmdRef} {e : Option ReadErr} {asCopy : Bool} {a : ℕ} {n : ℕ} {k : Disp} (h8 : DispKeeps s0 k) :
    DispKeeps s0 (readOk s r e asCopy a n k) := by
  unfold readOk
  apply all_ite (P := DispKeeps s0)
  · exact DispKeeps.wait
  · split
    · rename_i x9 x10 x11 x12 x13 x14
      apply failRead_keeps
      assumption
    · rename_i x15 x16 x17 x18
      apply failRead_keeps
      assumption
    · rename_i x19 x20 x21
      assumption

theorem refreshLevel_keeps {s0 : State} {s : Machine.State} (h1 : Keeps s0 s) :
    Keeps s0 (refreshLevel s) := by
  unfold refreshLevel
  apply all_ite (P := Keeps s0)
  · assumption
  · extract_lets +onlyGivenNames x2
    clear_value x2
    apply setF_keeps
    assumption

theorem refreshLost_keeps {s0 : State} {s : Machine.State} (h1 : Keeps s0 s) :
    Keeps s0 (refreshLost s) := by
  unfold refreshLost
  apply setF_keeps
  assumption

theorem clearLost1_keeps {s0 : State} {s : Machine.State} (h1 : Keeps s0 s) {a : ℕ} :
    Keeps s0 (clearLost1 s a) := by
  unfold clearLost1
  split
  · rename_i x3 x4
    assumption
  · rename_i x5 x6 x7 x8
    split
    · rename_i x9 x10
      assumption
    · rename_i x11 x12 x13
      extract_lets +onlyGivenNames x14
      clear_value x14
      extract_lets +onlyGivenNames x15
      clear_value x15
      apply refreshLost_keeps
      apply Keeps.upd
      assumption

theorem refreshRepair_keeps {s0 : State} {s : Machine.State} (h1 : Keeps s0 s) :
    Keeps s0 (refreshRepair s) := by
  unfold refreshRepair
  extract_lets +onlyGivenNames x2
  clear_value x2
  extract_lets +onlyGivenNames x3
  have h4 : Keeps s0 x3 := by
    unfold x3
    apply setF_keeps
    assumption
  clear_value x3
  extract_lets +onlyGivenNames x5
  have h6 : Keeps s0 x5 := by
    unfold x5
    apply setF_keeps
    assumption
  clear_value x5
  apply setF_keeps
  assumption

theorem addRecord_keeps {s0 : State} {s : Machine.State} (h1 : Keeps s0 s) {r : Repair} :
    Keeps s0 (addRecord s r) := by
  unfold addRecord
  apply all_ite (P := Keeps s0)
  · apply Keeps.upd
    assumption
  · apply all_ite (P := Keeps s0)
    · apply raiseF_keeps
      assumption
    · extract_lets +onlyGivenNames x3
      clear_value x3
      apply refreshRepair_keeps
      apply Keeps.upd
      assumption

theorem wrote_keeps {s0 : State} {s : Machine.State} (h1 : Keeps s0 s) {a : ℕ} {n : ℕ} :
    Keeps s0 (wrote s a n) := by
  unfold wrote
  apply all_ite (P := Keeps s0)
  · assumption
  · extract_lets +onlyGivenNames x4
    clear_value x4
    extract_lets +onlyGivenNames x5
    clear_value x5
    apply all_ite (P := Keeps s0)
    · assumption
    · apply all_foldl (P := Keeps s0)
      · intro x6 x7 x8
        apply clearLost1_keeps
        assumption
      · assumption

theorem spansWrote_keeps {s0 : State} {s : Machine.State} (h1 : Keeps s0 s) {xs : List (ℕ × ℕ)} :
    Keeps s0 (spansWrote s xs) := by
  unfold spansWrote
  apply all_foldl (P := Keeps s0)
  · intro x3 x4 x5
    apply driveRange_keeps
    apply wrote_keeps
    assumption
  · assumption

theorem store_keeps {s0 : State} {s : Machine.State} (h1 : Keeps s0 s) {a : ℕ} {bs : List Byte} :
    Keeps s0 (store s a bs) := by
  unfold store
  apply driveRange_keeps
  apply wrote_keeps
  apply memPut_keeps
  assumption

theorem storeCopy_keeps {s0 : State} {s : Machine.State} (h1 : Keeps s0 s) {src : ℕ} {dst : ℕ} {n : ℕ} :
    Keeps s0 (storeCopy s src dst n) := by
  unfold storeCopy
  apply driveRange_keeps
  apply wrote_keeps
  apply memCopy_keeps
  apply driveRange_keeps
  assumption

/-! ## Scale -/

theorem applyLayerScale_keeps {s0 : State} {p : ℕ → Bool} {h : ℕ} {len : ℕ} {margin : ℕ} {first : ℕ} {x5 : ℕ} {x6 : Machine.State} (h7 : Keeps s0 x6) :
    Keeps s0 (applyLayerScale p h len margin first x5 x6) := by
  fun_induction applyLayerScale
  · rename_i x8
    assumption
  · rename_i x9 x10 x11 x12 x13
    apply x13
    apply all_ite (P := Keeps s0)
    · apply memPutNat_keeps
      unfold x12
      apply all_ite (P := Keeps s0)
      · apply memPutNat_keeps
        assumption
      · assumption
    · unfold x12
      apply all_ite (P := Keeps s0)
      · apply memPutNat_keeps
        assumption
      · assumption

theorem applyLayersAt_keeps {s0 : State} {p : ℕ → Bool} {s : Machine.State} (h2 : Keeps s0 s) {h : ℕ} :
    Keeps s0 (applyLayersAt p s h) := by
  unfold applyLayersAt
  apply all_foldl (P := Keeps s0)
  · intro x4 x5 x6
    split
    · rename_i x7 x8 x9
      extract_lets +onlyGivenNames x10
      clear_value x10
      apply applyLayerScale_keeps
      assumption
    · rename_i x11 x12
      assumption
  · assumption

theorem applyLayers_keeps {s0 : State} {s : Machine.State} (h1 : Keeps s0 s) {h : ℕ} :
    Keeps s0 (applyLayers s h) := by
  unfold applyLayers
  apply applyLayersAt_keeps
  assumption

theorem applyLayersIn_keeps {s0 : State} {s : Machine.State} (h1 : Keeps s0 s) {h : ℕ} {a : ℕ} {n : ℕ} :
    Keeps s0 (applyLayersIn s h a n) := by
  unfold applyLayersIn
  apply applyLayersAt_keeps
  assumption

theorem learnGate_keeps {s0 : State} {s : Machine.State} (h1 : Keeps s0 s) {h : ℕ} {c : Cmd} {learn : Bool} {skips : Bool} {k : Disp} (h7 : DispKeeps s0 k) :
    DispKeeps s0 (learnGate s h c learn skips k) := by
  unfold learnGate
  apply all_ite (P := DispKeeps s0)
  · exact DispKeeps.stop
  · apply all_ite (P := DispKeeps s0)
    · exact DispKeeps.stop
    · apply all_ite (P := DispKeeps s0)
      · exact DispKeeps.stop
      · assumption

theorem pushHist_keeps {s0 : State} {s : Machine.State} (h1 : Keeps s0 s) {a : ℕ} {x : ℤ} {amax : Option ℕ} :
    Keeps s0 (pushHist s a x amax) := by
  unfold pushHist
  extract_lets +onlyGivenNames x5
  clear_value x5
  extract_lets +onlyGivenNames x6
  clear_value x6
  extract_lets +onlyGivenNames x7
  have h8 : Keeps s0 x7 := by
    unfold x7
    apply memPutNat_keeps
    assumption
  clear_value x7
  extract_lets +onlyGivenNames x9
  have h10 : Keeps s0 x9 := by
    unfold x9
    apply memPutNat_keeps
    assumption
  clear_value x9
  extract_lets +onlyGivenNames x11
  have h12 : Keeps s0 x11 := by
    unfold x11
    apply memPutNat_keeps
    assumption
  clear_value x11
  extract_lets +onlyGivenNames x13
  have h14 : Keeps s0 x13 := by
    unfold x13
    split
    · rename_i x15 x16
      apply memPutNat_keeps
      assumption
    · rename_i x17
      assumption
  clear_value x13
  extract_lets +onlyGivenNames x18
  have h19 : Keeps s0 x18 := by
    unfold x18
    apply memPutNat_keeps
    assumption
  clear_value x18
  split
  · rename_i x20 x21
    assumption
  · rename_i x22 x23 x24
    apply memPutNat_keeps
    assumption

theorem scaleUpdate_keeps {s0 : State} {s : Machine.State} (h1 : Keeps s0 s) {h : ℕ} {e : ℕ} {k : ℤ} {presented : Bool} {amax : ℕ} :
    Keeps s0 (scaleUpdate s h e k presented amax) := by
  unfold scaleUpdate
  extract_lets +onlyGivenNames x7
  clear_value x7
  extract_lets +onlyGivenNames x8
  have h9 : Keeps s0 x8 := by
    unfold x8
    apply memPutNat_keeps
    assumption
  clear_value x8
  apply all_ite (P := Keeps s0)
  · assumption
  · split
    · rename_i x10 x11 x12 x13 x14
      apply pushHist_keeps
      assumption
    · rename_i x15 x16
      assumption

/-! ## Coded -/

theorem xtabQueue_keeps {s0 : State} {s : Machine.State} (h1 : Keeps s0 s) {hall : ℕ} {slot : ℕ} {n : ℕ} :
    Keeps s0 (xtabQueue s hall slot n) := by
  unfold xtabQueue
  apply bumpF_keeps
  assumption

theorem xtabUnqueue_keeps {s0 : State} {s : Machine.State} (h1 : Keeps s0 s) {hall : ℕ} {slot : ℕ} {n : ℕ} :
    Keeps s0 (xtabUnqueue s hall slot n) := by
  unfold xtabUnqueue
  extract_lets +onlyGivenNames x5
  clear_value x5
  extract_lets +onlyGivenNames x6
  clear_value x6
  extract_lets +onlyGivenNames x7
  have h8 : Keeps s0 x7 := by
    unfold x7
    apply setF_keeps
    assumption
  clear_value x7
  apply all_ite (P := Keeps s0)
  · apply setF_keeps
    assumption
  · assumption

/-! ## Alcove -/

theorem copyTail_keeps {s0 : State} {s : Machine.State} (h1 : Keeps s0 s) {c : CacheRec} {old : ℕ} {new : ℕ} {t : ℕ} :
    Keeps s0 (copyTail s c old new t) := by
  unfold copyTail
  apply all_foldl (P := Keeps s0)
  · intro x6 x7 x8
    apply storeCopy_keeps
    assumption
  · assumption

theorem putAlc_keeps {s0 : State} {s : Machine.State} (h1 : Keeps s0 s) {ra : ℕ} {c : CacheRec} {a : ℕ} :
    Keeps s0 (putAlc s ra c a) := by
  unfold putAlc
  extract_lets +onlyGivenNames x5
  have h6 : Keeps s0 x5 := by
    unfold x5
    apply memPutNat_keeps
    assumption
  clear_value x5
  extract_lets +onlyGivenNames x7
  have h8 : Keeps s0 x7 := by
    unfold x7
    apply memPutNat_keeps
    assumption
  clear_value x7
  apply memPutNat_keeps
  assumption

theorem setRefs_keeps {s0 : State} {s : Machine.State} (h1 : Keeps s0 s) {c : CacheRec} {a : ℕ} {v : ℕ} :
    Keeps s0 (setRefs s c a v) := by
  unfold setRefs
  apply memPutNat_keeps
  assumption

theorem dropAlc_keeps {s0 : State} {s : Machine.State} (h1 : Keeps s0 s) {ra : ℕ} {c : CacheRec} {a : ℕ} :
    Keeps s0 (dropAlc s ra c a) := by
  unfold dropAlc
  extract_lets +onlyGivenNames x5
  clear_value x5
  extract_lets +onlyGivenNames x6
  have h7 : Keeps s0 x6 := by
    unfold x6
    apply setRefs_keeps
    assumption
  clear_value x6
  apply all_ite (P := Keeps s0)
  · apply putAlc_keeps
    assumption
  · assumption

theorem releasePage_keeps {s0 : State} {s : Machine.State} (h1 : Keeps s0 s) {ra : ℕ} {c : CacheRec} {n : ℕ} {layer : ℕ} {p : ℕ} :
    Keeps s0 (releasePage s ra c n layer p) := by
  unfold releasePage
  extract_lets +onlyGivenNames x7
  clear_value x7
  apply all_ite (P := Keeps s0)
  · assumption
  · apply dropAlc_keeps
    apply memPutNat_keeps
    assumption

theorem releasePages_keeps {s0 : State} {ra : ℕ} {c : CacheRec} {n : ℕ} {layer : ℕ} {p : ℕ} {x5 : ℕ} {x6 : Machine.State} (h7 : Keeps s0 x6) :
    Keeps s0 (releasePages ra c n layer p x5 x6) := by
  fun_induction releasePages
  · rename_i x8 x9
    assumption
  · rename_i x10 x11 x12 x13
    apply x13
    apply releasePage_keeps
    assumption

theorem takeAlc_keeps {s0 : State} {s : Machine.State} (h1 : Keeps s0 s) {ra : ℕ} {c : CacheRec} :
    AtSnd (Keeps s0) (takeAlc s ra c) := by
  unfold takeAlc
  extract_lets +onlyGivenNames x4
  clear_value x4
  extract_lets +onlyGivenNames x5
  have h6 : Keeps s0 x5 := by
    unfold x5
    apply memPutNat_keeps
    assumption
  clear_value x5
  extract_lets +onlyGivenNames x7
  have h8 : Keeps s0 x7 := by
    unfold x7
    apply memPutNat_keeps
    assumption
  clear_value x7
  apply AtSnd.mk
  apply setRefs_keeps
  assumption

theorem resolvePage_keeps {s0 : State} {ra : ℕ} {c : CacheRec} {n : ℕ} {layer : ℕ} {len : ℕ} {s : Machine.State} (h6 : Keeps s0 s) {p : ℕ} :
    Keeps s0 (resolvePage ra c n layer len s p) := by
  unfold resolvePage
  extract_lets +onlyGivenNames x8
  clear_value x8
  apply all_ite (P := Keeps s0)
  · split
    rename_i x9 x10 x11 x12
    have h13 := all_of_eq (P := AtSnd (Keeps s0)) x12 (by
        apply takeAlc_keeps
        assumption)
    apply memPutNat_keeps
    assumption
  · apply all_ite (P := Keeps s0)
    · split
      rename_i x14 x15 x16 x17
      have h18 := all_of_eq (P := AtSnd (Keeps s0)) x17 (by
          apply takeAlc_keeps
          assumption)
      extract_lets +onlyGivenNames x19
      have h20 : Keeps s0 x19 := by
        unfold x19
        apply copyTail_keeps
        assumption
      clear_value x19
      extract_lets +onlyGivenNames x21
      have h22 : Keeps s0 x21 := by
        unfold x21
        apply memPutNat_keeps
        assumption
      clear_value x21
      extract_lets +onlyGivenNames x23
      have h24 : Keeps s0 x23 := by
        unfold x23
        apply setRefs_keeps
        assumption
      clear_value x23
      apply memPutNat_keeps
      assumption
    · assumption

theorem resolveAppend_keeps {s0 : State} {s : Machine.State} (h1 : Keeps s0 s) {ra : ℕ} {c : CacheRec} {n : ℕ} {layer : ℕ} {pos : ℕ} {len : ℕ} :
    Keeps s0 (resolveAppend s ra c n layer pos len) := by
  unfold resolveAppend
  apply all_ite (P := Keeps s0)
  · assumption
  · extract_lets +onlyGivenNames x8
    clear_value x8
    apply all_foldl (P := Keeps s0)
    · intro x9 x10 x11
      apply resolvePage_keeps
      assumption
    · assumption

/-! ## Operands -/

theorem freeLanes_keeps {s0 : State} {r : ℕ} {x1 : List ℕ} {x2 : Tread} {x3 : Machine.State} (h4 : Keeps s0 x3) :
    AtSnd (Keeps s0) (freeLanes r x1 x2 x3) := by
  fun_induction freeLanes
  · rename_i x5 x6
    apply AtSnd.mk
    assumption
  · rename_i x7 x8 x9 x10 x11 x12 x13 x14
    have h15 := all_of_eq (P := AtSnd (Keeps s0)) x13 (by
        apply takeFree_keeps
        assumption)
    apply x14
    assumption

theorem itemDone_keeps {s0 : State} {s : Machine.State} (h1 : Keeps s0 s) {r : CmdRef} {item : ℕ} :
    Keeps s0 (itemDone s r item) := by
  unfold itemDone
  extract_lets +onlyGivenNames x4
  have h5 : Keeps s0 x4 := by
    unfold x4
    apply updJob_keeps
    assumption
  clear_value x4
  split
  · rename_i x6 x7 x8
    apply all_ite (P := Keeps s0)
    · apply succeed_keeps
      assumption
    · assumption
  · rename_i x9 x10
    assumption

theorem vecDone_keeps {s0 : State} {s : Machine.State} (h1 : Keeps s0 s) {t : ℕ} {tr : Tread} {fl : ℕ} :
    OutKeeps s0 (vecDone s t tr fl) := by
  unfold vecDone
  extract_lets +onlyGivenNames x5
  clear_value x5
  extract_lets +onlyGivenNames x6
  clear_value x6
  extract_lets +onlyGivenNames x7
  have h8 : Keeps s0 x7 := by
    unfold x7
    apply setT_keeps
    assumption
  clear_value x7
  apply OutKeeps.next
  split
  · rename_i x9 x10 x11
    apply all_ite (P := Keeps s0)
    · assumption
    · apply raiseFp_keeps
      assumption
  · rename_i x12 x13
    assumption

theorem vecJump_keeps {s0 : State} {s : Machine.State} (h1 : Keeps s0 s) {t : ℕ} {tr : Tread} {pc : ℕ} :
    OutKeeps s0 (vecJump s t tr pc) := by
  unfold vecJump
  apply OutKeeps.next
  apply setT_keeps
  assumption

theorem vecLanes_keeps {s0 : State} {s : Machine.State} (h1 : Keeps s0 s) {t : ℕ} {tr : Tread} {i : VIns} {f : ℕ → ℕ × ℕ} :
    OutKeeps s0 (vecLanes s t tr i f) := by
  unfold vecLanes
  extract_lets +onlyGivenNames x6
  clear_value x6
  extract_lets +onlyGivenNames x7
  clear_value x7
  apply vecDone_keeps
  assumption

theorem vecInt_keeps {s0 : State} {s : Machine.State} (h1 : Keeps s0 s) {t : ℕ} {tr : Tread} {i : VIns} {f : Word → Word → Word} :
    OutKeeps s0 (vecInt s t tr i f) := by
  unfold vecInt
  apply vecLanes_keeps
  assumption

theorem vecOp_keeps {s0 : State} {t : ℕ} {op : ℕ} {s : Machine.State} (h3 : Keeps s0 s) {k : Machine.State → Tread → VIns → Out} (h5 : ∀ (x6 : Machine.State), Keeps s0 x6 → ∀ (x7 : Tread) (x8 : VIns), OutKeeps s0 (k x6 x7 x8)) :
    OutKeeps s0 (vecOp t op s k) := by
  unfold vecOp
  apply guardUnit_keeps
  split
  · rename_i x9 x10 x11
    apply all_ite (P := OutKeeps s0)
    · apply h5
      assumption
    · apply OutKeeps.next
      assumption
  · rename_i x12 x13
    apply OutKeeps.next
    assumption

theorem vecReduce_keeps {s0 : State} {s : Machine.State} (h1 : Keeps s0 s) {t : ℕ} {tr : Tread} {i : VIns} {tree : List (Option ℕ) → Option (ℕ × ℕ)} :
    OutKeeps s0 (vecReduce s t tr i tree) := by
  unfold vecReduce
  extract_lets +onlyGivenNames x6
  clear_value x6
  split
  · rename_i x7 x8
    apply vecDone_keeps
    assumption
  · rename_i x9 x10 x11 x12
    extract_lets +onlyGivenNames x13
    clear_value x13
    extract_lets +onlyGivenNames x14
    clear_value x14
    split
    rename_i x15 x16 x17 x18
    have h19 := all_of_eq (P := AtSnd (Keeps s0)) x18 (by
        apply freeLanes_keeps
        assumption)
    apply vecDone_keeps
    assumption

theorem vecStop_keeps {s0 : State} {s : Machine.State} (h1 : Keeps s0 s) {t : ℕ} :
    Keeps s0 (vecStop s t) := by
  unfold vecStop
  apply treadStatus_keeps
  apply setT_keeps
  assumption

theorem endProgram_keeps {s0 : State} {s : Machine.State} (h1 : Keeps s0 s) {t : ℕ} {code : ℕ} {info : ℕ} :
    OutKeeps s0 (endProgram s t code info) := by
  unfold endProgram
  split
  · rename_i x5 x6 x7
    extract_lets +onlyGivenNames x8
    clear_value x8
    apply OutKeeps.next
    apply vecStop_keeps
    apply dropItems_keeps
    apply endCmd_keeps
    assumption
  · rename_i x9 x10
    apply OutKeeps.next
    apply vecStop_keeps
    assumption

theorem haltProgram_keeps {s0 : State} {s : Machine.State} (h1 : Keeps s0 s) {t : ℕ} {tr : Tread} :
    OutKeeps s0 (haltProgram s t tr) := by
  unfold haltProgram
  extract_lets +onlyGivenNames x4
  clear_value x4
  split
  · rename_i x5 x6 x7
    apply OutKeeps.next
    apply itemDone_keeps
    apply vecStop_keeps
    assumption
  · rename_i x8 x9
    apply OutKeeps.next
    apply vecStop_keeps
    assumption

/-! ## Product -/

theorem PCtx.mergeBest_keeps {s0 : State} {s : Machine.State} (h1 : Keeps s0 s) {c : PCtx} {t : ℕ} {best : List (Option (ℕ × ℕ))} :
    Keeps s0 (PCtx.mergeBest s c t best) := by
  unfold PCtx.mergeBest
  apply all_foldl (P := Keeps s0)
  · intro x5 x6 x7
    split
    · rename_i x8 x9
      assumption
    · rename_i x10 x11 x12 x13
      extract_lets +onlyGivenNames x14
      clear_value x14
      extract_lets +onlyGivenNames x15
      clear_value x15
      extract_lets +onlyGivenNames x16
      clear_value x16
      extract_lets +onlyGivenNames x17
      clear_value x17
      apply all_ite (P := Keeps s0)
      · apply memPutNat_keeps
        apply memPutNat_keeps
        assumption
      · assumption
  · assumption

theorem PCtx.putAcc_keeps {s0 : State} {s : Machine.State} (h1 : Keeps s0 s) {c : PCtx} {t : ℕ} {r : ℕ} {accs : List (Option Machine.Acc)} :
    Keeps s0 (PCtx.putAcc s c t r accs) := by
  unfold PCtx.putAcc
  extract_lets +onlyGivenNames x6
  clear_value x6
  extract_lets +onlyGivenNames x7
  clear_value x7
  apply all_foldl (P := Keeps s0)
  · intro x8 x9 x10
    split
    · rename_i x11 x12 x13
      apply all_ite (P := Keeps s0)
      · assumption
      · apply memPut_keeps
        assumption
    · rename_i x14 x15
      assumption
  · assumption

theorem PCtx.putPartial_keeps {s0 : State} {s : Machine.State} (h1 : Keeps s0 s) {c : PCtx} {t : ℕ} {r : ℕ} {accs : List (Option Machine.Acc)} :
    Keeps s0 (PCtx.putPartial s c t r accs) := by
  unfold PCtx.putPartial
  extract_lets +onlyGivenNames x6
  clear_value x6
  apply all_foldl (P := Keeps s0)
  · intro x7 x8 x9
    split
    · rename_i x10 x11
      assumption
    · rename_i x12 x13 x14
      apply memPut_keeps
      assumption
  · assumption

theorem putElem_keeps {s0 : State} {s : Machine.State} (h1 : Keeps s0 s) {a : ℕ} {bits : ℕ} {i : ℕ} {v : ℕ} :
    Keeps s0 (putElem s a bits i v) := by
  unfold putElem
  extract_lets +onlyGivenNames x6
  clear_value x6
  apply all_ite (P := Keeps s0)
  · apply memPutNat_keeps
    assumption
  · apply memPutNat_keeps
    assumption

theorem PCtx.putPlain_keeps {s0 : State} {s : Machine.State} (h1 : Keeps s0 s) {c : PCtx} {t : ℕ} {r : ℕ} {vals : List (Option (FNum × ℕ))} :
    AtFst (Keeps s0) (PCtx.putPlain s c t r vals) := by
  unfold PCtx.putPlain
  extract_lets +onlyGivenNames x6
  clear_value x6
  extract_lets +onlyGivenNames x7
  clear_value x7
  extract_lets +onlyGivenNames x8
  clear_value x8
  extract_lets +onlyGivenNames x9
  clear_value x9
  extract_lets +onlyGivenNames x10
  have h13 : ∀ (x11 : Machine.State × List FNum × List Cvt), AtFst (Keeps s0) x11 → ∀ (x12 : ℕ), AtFst (Keeps s0) (x10 x11 x12) := by
    intro x14 x15 x16
    unfold x10
    split
    · rename_i x17 x18
      assumption
    · rename_i x19 x20 x21 x22
      apply all_ite (P := AtFst (Keeps s0))
      · split
        · rename_i x23
          assumption
        · rename_i x24 x25 x26
          extract_lets +onlyGivenNames x27
          clear_value x27
          extract_lets +onlyGivenNames x28
          clear_value x28
          extract_lets +onlyGivenNames x29
          clear_value x29
          split
          rename_i x30 x31 x32 x33
          apply AtFst.mk
          apply putElem_keeps
          apply AtFst.fst
          assumption
      · extract_lets +onlyGivenNames x34
        clear_value x34
        apply AtFst.mk
        apply putElem_keeps
        apply AtFst.fst
        assumption
  clear_value x10
  split
  rename_i x35 x36 x37 x38 x39
  have h43 := all_of_eq (P := AtFst (Keeps s0)) x39 (by
      apply all_foldl (P := AtFst (Keeps s0))
      · intro x40 x41 x42
        apply h13
        assumption
      · apply AtFst.mk
        assumption)
  apply AtFst.mk
  apply countCvts_keeps
  assumption

theorem putGather_keeps {s0 : State} {s : Machine.State} (h1 : Keeps s0 s) {r : CmdRef} {g : Gather} :
    Keeps s0 (putGather s r g) := by
  unfold putGather
  apply updJob_keeps
  assumption

theorem putMxBlock_keeps {s0 : State} {s : Machine.State} (h1 : Keeps s0 s) {hall : ℕ} {fmt : ℕ} {conv : ℕ} {sa : ℕ} {la : ℕ} {i0 : ℕ} {vs : List (ℕ × FNum)} :
    AtFst (Keeps s0) (putMxBlock s hall fmt conv sa la i0 vs) := by
  unfold putMxBlock
  apply all_ite (P := AtFst (Keeps s0))
  · apply AtFst.mk
    assumption
  · split
    rename_i x9 x10 x11 x12
    extract_lets +onlyGivenNames x13
    have h14 : Keeps s0 x13 := by
      unfold x13
      apply memPutNat_keeps
      assumption
    clear_value x13
    extract_lets +onlyGivenNames x15
    have h16 : Keeps s0 x15 := by
      unfold x15
      apply all_foldl (P := Keeps s0)
      · intro x17 x18 x19
        apply putElem_keeps
        assumption
      · assumption
    clear_value x15
    extract_lets +onlyGivenNames x20
    have h21 : Keeps s0 x20 := by
      unfold x20
      apply countCvts_keeps
      assumption
    clear_value x20
    extract_lets +onlyGivenNames x22
    have h23 : Keeps s0 x22 := by
      unfold x22
      apply all_ite (P := Keeps s0)
      · apply countHall_keeps
        assumption
      · assumption
    clear_value x22
    apply AtFst.mk
    assumption

theorem PCtx.putMx_keeps {s0 : State} {s : Machine.State} (h1 : Keeps s0 s) {c : PCtx} {t : ℕ} {r : ℕ} {vals : List (Option (FNum × ℕ))} :
    AtFst (Keeps s0) (PCtx.putMx s c t r vals) := by
  unfold PCtx.putMx
  extract_lets +onlyGivenNames x6
  clear_value x6
  extract_lets +onlyGivenNames x7
  clear_value x7
  extract_lets +onlyGivenNames x8
  clear_value x8
  extract_lets +onlyGivenNames x9
  clear_value x9
  apply all_foldl (P := AtFst (Keeps s0))
  · intro x10 x11 x12
    extract_lets +onlyGivenNames x13
    clear_value x13
    split
    rename_i x14 x15 x16 x17
    have h18 := all_of_eq (P := AtFst (Keeps s0)) x17 (by
        apply putMxBlock_keeps
        apply AtFst.fst
        assumption)
    apply AtFst.mk
    assumption
  · apply AtFst.mk
    assumption

theorem PCtx.putTwin_keeps {s0 : State} {s : Machine.State} (h1 : Keeps s0 s) {c : PCtx} {t : ℕ} {b : ℕ} {d5 : List (List (Option FNum))} :
    Keeps s0 (PCtx.putTwin s c t b d5) := by
  unfold PCtx.putTwin
  extract_lets +onlyGivenNames x6
  clear_value x6
  apply all_foldl (P := Keeps s0)
  · intro x7 x8 x9
    extract_lets +onlyGivenNames x10
    clear_value x10
    extract_lets +onlyGivenNames x11
    clear_value x11
    extract_lets +onlyGivenNames x12
    clear_value x12
    extract_lets +onlyGivenNames x13
    clear_value x13
    apply all_ite (P := Keeps s0)
    · assumption
    · apply AtFst.fst
      apply putMxBlock_keeps
      assumption
  · assumption

theorem PCtx.drainRow_keeps {s0 : State} {s : Machine.State} (h1 : Keeps s0 s) {c : PCtx} {normAt : Option ℕ} {t : ℕ} {h : Held} {g : Gather} :
    AtFst (Keeps s0) (PCtx.drainRow s c normAt t h g) := by
  unfold PCtx.drainRow
  extract_lets +onlyGivenNames x7
  clear_value x7
  extract_lets +onlyGivenNames x8
  clear_value x8
  extract_lets +onlyGivenNames x9
  clear_value x9
  extract_lets +onlyGivenNames x10
  clear_value x10
  extract_lets +onlyGivenNames x11
  have h12 : Keeps s0 x11 := by
    unfold x11
    apply countHall_keeps
    assumption
  clear_value x11
  apply all_ite (P := AtFst (Keeps s0))
  · apply AtFst.mk
    apply PCtx.putAcc_keeps
    assumption
  · extract_lets +onlyGivenNames x13
    clear_value x13
    extract_lets +onlyGivenNames x14
    clear_value x14
    split
    rename_i x15 x16 x17 x18
    have h19 := all_of_eq (P := AtFst (Keeps s0)) x18 (by
        apply all_ite (P := AtFst (Keeps s0))
        · apply PCtx.putMx_keeps
          assumption
        · apply PCtx.putPlain_keeps
          assumption)
    extract_lets +onlyGivenNames x20
    clear_value x20
    extract_lets +onlyGivenNames x21
    clear_value x21
    extract_lets +onlyGivenNames x22
    clear_value x22
    extract_lets +onlyGivenNames x23
    have h24 : Keeps s0 x23 := by
      unfold x23
      apply all_ite (P := Keeps s0)
      · apply PCtx.putTwin_keeps
        assumption
      · assumption
    clear_value x23
    apply AtFst.mk
    assumption

theorem PCtx.drainRows_keeps {s0 : State} {c : PCtx} {normAt : Option ℕ} {t : ℕ} {x3 : ℕ} {x4 : Machine.State × Held × Gather} (h5 : AtFst (Keeps s0) x4) :
    AtFst (AtFst (Keeps s0)) (c.drainRows normAt t x3 x4) := by
  fun_induction PCtx.drainRows
  · rename_i x6
    apply AtFst.mk
    assumption
  · rename_i x7 x8 x9 x10 x11
    apply AtFst.mk
    apply AtFst.mk
    assumption
  · rename_i x12 x13 x14 x15 x16 x17 x18
    apply AtFst.mk
    apply AtFst.mk
    assumption
  · rename_i x19 x20 x21 x22 x23 x24 x25 x26 x27 x28 x29 x30
    have h31 := all_of_eq (P := AtFst (Keeps s0)) x29 (by
        apply PCtx.drainRow_keeps
        assumption)
    apply x30
    apply AtFst.mk
    apply spansWrote_keeps
    assumption

/-! ## ProductCmd -/

theorem queueSlots_keeps {s0 : State} {h : ℕ} {x1 : List ℕ} {x2 : Machine.State} (h3 : Keeps s0 x2) :
    Keeps s0 (queueSlots h x1 x2) := by
  fun_induction queueSlots
  · rename_i x4 x5 x6 x7 x8
    apply x8
    apply xtabQueue_keeps
    assumption
  · rename_i x9 x10 x11
    assumption

theorem productGo_keeps {s0 : State} {s : Machine.State} (h1 : Keeps s0 s) {r : CmdRef} {c : Cmd} {d : Desc} {db : List Byte} {ol : List Byte} :
    DispKeeps s0 (productGo s r c d db ol) := by
  unfold productGo
  extract_lets +onlyGivenNames x7
  clear_value x7
  extract_lets +onlyGivenNames x8
  clear_value x8
  extract_lets +onlyGivenNames x9
  clear_value x9
  extract_lets +onlyGivenNames x10
  clear_value x10
  extract_lets +onlyGivenNames x11
  clear_value x11
  extract_lets +onlyGivenNames x12
  clear_value x12
  extract_lets +onlyGivenNames x13
  clear_value x13
  extract_lets +onlyGivenNames x14
  clear_value x14
  apply waitWhile_keeps
  apply reachGate_keeps
  · assumption
  · apply DispKeeps.go
    apply updJob_keeps
    apply queueSlots_keeps
    apply dropItems_keeps
    assumption

theorem productChecks_keeps {s0 : State} {s : Machine.State} (h1 : Keeps s0 s) {r : CmdRef} {c : Cmd} {d : Desc} {db : List Byte} {ol : List Byte} {stop : ℕ → ℕ → Disp} (h8 : ∀ (x9 x10 : ℕ), DispKeeps s0 (stop x9 x10)) :
    DispKeeps s0 (productChecks s r c d db ol stop) := by
  unfold productChecks
  extract_lets +onlyGivenNames x11
  clear_value x11
  extract_lets +onlyGivenNames x12
  clear_value x12
  extract_lets +onlyGivenNames x13
  have h16 : ∀ (x14 x15 : ℕ), DispKeeps s0 (x13 x14 x15) := by
    intro x17 x18
    unfold x13
    apply h8
  clear_value x13
  split
  · rename_i x19 x20 x21 x22
    apply all_ite (P := DispKeeps s0)
    · apply h16
    · apply h8
  · rename_i x23 x24
    extract_lets +onlyGivenNames x25
    clear_value x25
    apply all_ite (P := DispKeeps s0)
    · apply h8
    · apply all_ite (P := DispKeeps s0)
      · apply h8
      · apply all_ite (P := DispKeeps s0)
        · apply h8
        · apply all_ite (P := DispKeeps s0)
          · apply h8
          · apply readOk_keeps
            · assumption
            · apply readOk_keeps
              · assumption
              · apply waitWhile_keeps
                split
                · rename_i x26 x27 x28 x29 x30
                  apply h8
                · rename_i x31 x32 x33 x34 x35 x36
                  apply h8
                · rename_i x37 x38 x39 x40
                  apply productGo_keeps
                  assumption

theorem execProduct_keeps {s0 : State} {r : CmdRef} {reads : LoaderReads} {s : Machine.State} (h3 : Keeps s0 s) :
    OutKeeps s0 (execProduct r reads s) := by
  unfold execProduct
  apply guardUnit_keeps
  apply dispatch_keeps
  · assumption
  · intro x4 x5 x6
    extract_lets +onlyGivenNames x7
    clear_value x7
    extract_lets +onlyGivenNames x8
    clear_value x8
    extract_lets +onlyGivenNames x9
    clear_value x9
    extract_lets +onlyGivenNames x10
    clear_value x10
    extract_lets +onlyGivenNames x11
    clear_value x11
    extract_lets +onlyGivenNames x12
    clear_value x12
    apply learnGate_keeps
    · assumption
    · apply readOk_keeps
      · assumption
      · apply waitWhile_keeps
        split
        · rename_i x13 x14 x15
          exact DispKeeps.stop
        · rename_i x16 x17
          split
          · rename_i x18 x19
            exact DispKeeps.wait
          · rename_i x20 x21 x22 x23
            apply failRead_keeps
            assumption
          · rename_i x24 x25
            extract_lets +onlyGivenNames x26
            have h27 : Keeps s0 x26 := by
              unfold x26
              split
              · rename_i x28 x29 x30 x31 x32
                apply resolveAppend_keeps
                assumption
              · rename_i x33 x34 x35 x36
                assumption
            clear_value x26
            extract_lets +onlyGivenNames x37
            have h40 : ∀ (x38 x39 : ℕ), DispKeeps s0 (x37 x38 x39) := by
              intro x41 x42
              unfold x37
              apply DispKeeps.stopIn
              assumption
            clear_value x37
            apply all_ite (P := DispKeeps s0)
            · apply h40
            · extract_lets +onlyGivenNames x43
              clear_value x43
              extract_lets +onlyGivenNames x44
              clear_value x44
              extract_lets +onlyGivenNames x45
              clear_value x45
              apply readOk_keeps
              · assumption
              · split
                · rename_i x46 x47 x48 x49 x50 x51 x52
                  apply h40
                · rename_i x53 x54 x55 x56 x57
                  apply failRead_keeps
                  assumption
                · rename_i x58 x59 x60
                  apply waitWhile_keeps
                  apply productChecks_keeps
                  · assumption
                  · intro x61 x62
                    apply h40

theorem raiseProgCheck_keeps {s0 : State} {s : Machine.State} (h1 : Keeps s0 s) {h : ℕ} :
    Keeps s0 (raiseProgCheck s h) := by
  unfold raiseProgCheck
  apply all_foldl (P := Keeps s0)
  · intro x3 x4 x5
    apply raiseF_keeps
    assumption
  · assumption

theorem execVectorProgram_keeps {s0 : State} {r : CmdRef} {err : Option ReadErr} {s : Machine.State} (h3 : Keeps s0 s) :
    OutKeeps s0 (execVectorProgram r err s) := by
  unfold execVectorProgram
  apply guardUnit_keeps
  apply dispatch_keeps
  · assumption
  · intro x4 x5 x6
    extract_lets +onlyGivenNames x7
    clear_value x7
    apply learnGate_keeps
    · assumption
    · apply readOk_keeps
      · assumption
      · split
        · rename_i x8 x9
          exact DispKeeps.gone
        · rename_i x10 x11
          apply DispKeeps.stopIn
          apply raiseProgCheck_keeps
          assumption
        · rename_i x12 x13 x14 x15 x16
          exact DispKeeps.stop
        · rename_i x17 x18
          extract_lets +onlyGivenNames x19
          clear_value x19
          extract_lets +onlyGivenNames x20
          clear_value x20
          apply all_ite (P := DispKeeps s0)
          · exact DispKeeps.stop
          · apply reachGate_keeps
            · assumption
            · extract_lets +onlyGivenNames x21
              have h22 : Keeps s0 x21 := by
                unfold x21
                apply updJob_keeps
                assumption
              clear_value x21
              apply DispKeeps.go
              apply all_ite (P := Keeps s0)
              · apply succeed_keeps
                assumption
              · assumption

theorem unqueueSlots_keeps {s0 : State} {h : ℕ} {x1 : List ℕ} {x2 : Machine.State} (h3 : Keeps s0 x2) :
    Keeps s0 (unqueueSlots h x1 x2) := by
  fun_induction unqueueSlots
  · rename_i x4 x5 x6 x7 x8
    apply x8
    apply xtabUnqueue_keeps
    assumption
  · rename_i x9 x10 x11
    assumption

/-! ## Attn -/

theorem attnPut_keeps {s0 : State} {s : Machine.State} (h1 : Keeps s0 s) {hall : ℕ} {c : CacheRec} {a : Att} {kOut : ℤ} {t : ℕ} {i : ℕ} {r : ARow} {g : Gather} :
    AtFst (Keeps s0) (attnPut s hall c a kOut t i r g) := by
  unfold attnPut
  extract_lets +onlyGivenNames x10
  clear_value x10
  extract_lets +onlyGivenNames x11
  clear_value x11
  extract_lets +onlyGivenNames x12
  clear_value x12
  extract_lets +onlyGivenNames x13
  clear_value x13
  extract_lets +onlyGivenNames x14
  clear_value x14
  extract_lets +onlyGivenNames x15
  clear_value x15
  extract_lets +onlyGivenNames x16
  clear_value x16
  split
  rename_i x17 x18 x19 x20 x21
  have h27 := all_of_eq (P := AtFst (Keeps s0)) x21 (by
      apply all_foldl (P := AtFst (Keeps s0))
      · intro x22 x23 x24
        extract_lets +onlyGivenNames x25
        clear_value x25
        extract_lets +onlyGivenNames x26
        clear_value x26
        apply AtFst.mk
        apply putElem_keeps
        apply AtFst.fst
        assumption
      · apply AtFst.mk
        assumption)
  extract_lets +onlyGivenNames x28
  have h29 : Keeps s0 x28 := by
    unfold x28
    apply countCvts_keeps
    assumption
  clear_value x28
  extract_lets +onlyGivenNames x30
  clear_value x30
  apply AtFst.mk
  apply all_ite (P := Keeps s0)
  · apply memPutNat_keeps
    apply memPutNat_keeps
    assumption
  · assumption

theorem attnPutAll_keeps {s0 : State} {hall : ℕ} {c : CacheRec} {a : Att} {kOut : ℤ} {x4 : List (ℕ × ℕ × ARow)} {x5 : Machine.State} (h6 : Keeps s0 x5) {x7 : Gather} :
    AtFst (Keeps s0) (attnPutAll hall c a kOut x4 x5 x7) := by
  fun_induction attnPutAll
  · rename_i x8 x9
    apply AtFst.mk
    assumption
  · rename_i x10 x11 x12 x13 x14 x15 x16 x17
    have h18 := all_of_eq (P := AtFst (Keeps s0)) x16 (by
        apply attnPut_keeps
        assumption)
    apply x17
    apply spansWrote_keeps
    assumption

theorem attnPutPart_keeps {s0 : State} {s : Machine.State} (h1 : Keeps s0 s) {c : CacheRec} {a : Att} {t : ℕ} {i : ℕ} {r : ARow} :
    Keeps s0 (attnPutPart s c a t i r) := by
  unfold attnPutPart
  apply memPut_keeps
  assumption

theorem attnDrain_keeps {s0 : State} {hall : ℕ} {c : CacheRec} {a : Att} {kOut : ℤ} {part : Bool} {t : ℕ} {rows : List (List ℕ)} {x7 : ℕ} {x8 : Machine.State × ℕ × Gather} (h9 : AtFst (Keeps s0) x8) :
    AtFst (Keeps s0) (attnDrain hall c a kOut part t rows x7 x8) := by
  fun_induction attnDrain
  · rename_i x10 x11 x12
    apply AtFst.mk
    assumption
  · rename_i x13 x14 x15 x16 x17
    apply AtFst.mk
    assumption
  · rename_i x18 x19 x20 x21 x22 x23 x24 x25
    apply AtFst.mk
    assumption
  · rename_i x26 x27 x28 x29 x30 x31 x32 x33 x34 x35 x36 x37
    have h38 := all_of_eq (P := AtFst (Keeps s0)) x36 (by
        apply all_ite (P := AtFst (Keeps s0))
        · apply AtFst.mk
          apply attnPutPart_keeps
          assumption
        · apply attnPut_keeps
          assumption)
    apply x37
    apply AtFst.mk
    apply spansWrote_keeps
    assumption

/-! ## Fail -/

theorem voidRun_keeps {s0 : State} {s : Machine.State} (h1 : Keeps s0 s) {c : Cmd} :
    Keeps s0 (voidRun s c) := by
  unfold voidRun
  apply all_ite (P := Keeps s0)
  · apply memPutNat_keeps
    assumption
  · assumption

theorem failSeen_keeps {s0 : State} {s : Machine.State} (h1 : Keeps s0 s) {r : CmdRef} {e : ReadErr} {addr : ℕ} :
    Keeps s0 (failSeen s r e addr) := by
  unfold failSeen
  split
  · rename_i x5 x6 x7
    apply all_ite (P := Keeps s0)
    · extract_lets +onlyGivenNames x8
      clear_value x8
      extract_lets +onlyGivenNames x9
      clear_value x9
      apply dropItems_keeps
      apply endCmd_keeps
      apply voidRun_keeps
      apply countErr_keeps
      assumption
    · assumption
  · rename_i x10 x11
    assumption

theorem failCmd_keeps {s0 : State} {s : Machine.State} (h1 : Keeps s0 s) {r : CmdRef} {e : ReadErr} {addr : ℕ} :
    Keeps s0 (failCmd s r e addr) := by
  unfold failCmd
  apply all_ite (P := Keeps s0)
  · apply failSeen_keeps
    apply recordErr_keeps
    assumption
  · assumption

theorem failReq_keeps {s0 : State} {s : Machine.State} (h1 : Keeps s0 s) {r : Option CmdRef} {e : ReadErr} {addr : ℕ} :
    Keeps s0 (failReq s r e addr) := by
  unfold failReq
  split
  · rename_i x5 x6
    apply failCmd_keeps
    assumption
  · rename_i x7
    assumption

theorem failReqSeen_keeps {s0 : State} {s : Machine.State} (h1 : Keeps s0 s) {r : Option CmdRef} {e : ReadErr} {addr : ℕ} :
    Keeps s0 (failReqSeen s r e addr) := by
  unfold failReqSeen
  split
  · rename_i x5 x6
    apply failSeen_keeps
    assumption
  · rename_i x7
    assumption

/-! ## Undercroft -/

theorem blockBack_keeps {s0 : State} {s : Machine.State} (h1 : Keeps s0 s) {b : CBlk} :
    Keeps s0 (blockBack s b) := by
  unfold blockBack
  apply all_ite (P := Keeps s0)
  · assumption
  · apply all_foldl (P := Keeps s0)
    · intro x3 x4 x5
      extract_lets +onlyGivenNames x6
      clear_value x6
      split
      · rename_i x7 x8 x9 x10
        apply failReqSeen_keeps
        assumption
      · rename_i x11 x12
        apply store_keeps
        assumption
    · assumption

theorem cacheDrop_keeps {s0 : State} {s : Machine.State} (h1 : Keeps s0 s) {r : CmdRef} :
    Keeps s0 (cacheDrop s r) := by
  unfold cacheDrop
  extract_lets +onlyGivenNames x3
  clear_value x3
  extract_lets +onlyGivenNames x4
  have h5 : Keeps s0 x4 := by
    unfold x4
    apply all_foldl (P := Keeps s0)
    · intro x6 x7 x8
      apply all_foldl (P := Keeps s0)
      · intro x9 x10 x11
        apply blockBack_keeps
        assumption
      · assumption
    · assumption
  clear_value x4
  apply Keeps.upd
  assumption

theorem cachePut_keeps {s0 : State} {s : Machine.State} (h1 : Keeps s0 s) {t : ℕ} {cmd : Option CmdRef} {a : ℕ} {bytes : List Byte} {dirty : Bool} :
    Keeps s0 (cachePut s t cmd a bytes dirty) := by
  unfold cachePut
  extract_lets +onlyGivenNames x7
  clear_value x7
  extract_lets +onlyGivenNames x8
  clear_value x8
  extract_lets +onlyGivenNames x9
  clear_value x9
  extract_lets +onlyGivenNames x10
  clear_value x10
  extract_lets +onlyGivenNames x11
  clear_value x11
  extract_lets +onlyGivenNames x12
  clear_value x12
  extract_lets +onlyGivenNames x13
  clear_value x13
  extract_lets +onlyGivenNames x14
  clear_value x14
  extract_lets +onlyGivenNames x15
  have h16 : Keeps s0 x15 := by
    unfold x15
    split
    · rename_i x17 x18
      apply blockBack_keeps
      assumption
    · rename_i x19
      assumption
  clear_value x15
  extract_lets +onlyGivenNames x20
  clear_value x20
  extract_lets +onlyGivenNames x21
  clear_value x21
  apply Keeps.upd
  assumption

theorem countHeld_keeps {s0 : State} {s : Machine.State} (h1 : Keeps s0 s) {t : ℕ} :
    Keeps s0 (countHeld s t) := by
  unfold countHeld
  extract_lets +onlyGivenNames x3
  clear_value x3
  extract_lets +onlyGivenNames x4
  clear_value x4
  extract_lets +onlyGivenNames x5
  have h6 : Keeps s0 x5 := by
    unfold x5
    apply setT_keeps
    assumption
  clear_value x5
  split
  · rename_i x7 x8 x9
    apply all_ite (P := Keeps s0)
    · assumption
    · apply countHall_keeps
      assumption
  · rename_i x10 x11
    assumption

theorem dropTodo_keeps {s0 : State} {s : Machine.State} (h1 : Keeps s0 s) {gone : ℕ → Bool} :
    Keeps s0 (dropTodo s gone) := by
  unfold dropTodo
  extract_lets +onlyGivenNames x3
  clear_value x3
  extract_lets +onlyGivenNames x4
  clear_value x4
  apply Keeps.upd
  assumption

theorem execMemoryRefresh_keeps {s0 : State} {chan : ℕ} {die : ℕ} {bank : ℕ} {s : Machine.State} (h4 : Keeps s0 s) :
    OutKeeps s0 (execMemoryRefresh chan die bank s) := by
  unfold execMemoryRefresh
  apply guardUnit_keeps
  apply all_ite (P := OutKeeps s0)
  · apply OutKeeps.next
    assumption
  · apply OutKeeps.next
    apply Keeps.upd
    assumption

theorem execMoverSlotGrant_keeps {s0 : State} {hall : ℕ} {q : MemReq} {s : Machine.State} (h3 : Keeps s0 s) :
    OutKeeps s0 (execMoverSlotGrant hall q s) := by
  unfold execMoverSlotGrant
  apply guardUnit_keeps
  extract_lets +onlyGivenNames x4
  clear_value x4
  extract_lets +onlyGivenNames x5
  clear_value x5
  extract_lets +onlyGivenNames x6
  clear_value x6
  extract_lets +onlyGivenNames x7
  have h8 : Keeps s0 x7 := by
    unfold x7
    apply all_ite (P := Keeps s0)
    · apply Keeps.upd
      assumption
    · assumption
  clear_value x7
  split
  · rename_i x9 x10
    apply OutKeeps.next
    assumption
  · rename_i x11 x12 x13 x14
    apply OutKeeps.next
    apply Keeps.upd
    assumption

theorem execRegionZeroing_keeps {s0 : State} {s : Machine.State} (h1 : Keeps s0 s) :
    OutKeeps s0 (execRegionZeroing s) := by
  unfold execRegionZeroing
  split
  · rename_i x2 x3
    apply OutKeeps.next
    assumption
  · rename_i x4 x5 x6 x7 x8
    extract_lets +onlyGivenNames x9
    clear_value x9
    extract_lets +onlyGivenNames x10
    clear_value x10
    extract_lets +onlyGivenNames x11
    have h12 : Keeps s0 x11 := by
      unfold x11
      apply driveRange_keeps
      apply memZero_keeps
      assumption
    clear_value x11
    extract_lets +onlyGivenNames x13
    have h14 : Keeps s0 x13 := by
      unfold x13
      apply all_foldl (P := Keeps s0)
      · intro x15 x16 x17
        apply applyLayersIn_keeps
        assumption
      · assumption
    clear_value x13
    extract_lets +onlyGivenNames x18
    clear_value x18
    apply OutKeeps.next
    apply setF_keeps
    apply Keeps.upd
    assumption

theorem freeSlot_keeps {s0 : State} {s : Machine.State} (h1 : Keeps s0 s) {q : MemReq} :
    Keeps s0 (freeSlot s q) := by
  unfold freeSlot
  split
  · rename_i x3 x4 x5
    extract_lets +onlyGivenNames x6
    clear_value x6
    apply setT_keeps
    assumption
  · rename_i x7 x8 x9
    apply Keeps.upd
    assumption
  · rename_i x10 x11
    assumption

theorem land_keeps {s0 : State} {s : Machine.State} (h1 : Keeps s0 s) {q : MemReq} :
    Keeps s0 (land s q) := by
  unfold land
  split
  · rename_i x3 x4 x5 x6
    assumption
  · rename_i x7 x8 x9 x10 x11
    apply wrote_keeps
    apply memCopy_keeps
    assumption
  · rename_i x12 x13 x14 x15
    assumption

theorem landRead_keeps {s0 : State} {s : Machine.State} (h1 : Keeps s0 s) {t : ℕ} {q : MemReq} {dst : ℕ} :
    Keeps s0 (landRead s t q dst) := by
  unfold landRead
  apply all_ite (P := Keeps s0)
  · apply memCopy_keeps
    assumption
  · apply all_foldl (P := Keeps s0)
    · intro x5 x6 x7
      extract_lets +onlyGivenNames x8
      clear_value x8
      apply memPut_keeps
      apply cachePut_keeps
      assumption
    · assumption

theorem answerReq_keeps {s0 : State} {s : Machine.State} (h1 : Keeps s0 s) {t : ℕ} {q : MemReq} :
    Keeps s0 (answerReq s t q) := by
  unfold answerReq
  split
  · rename_i x4 x5
    assumption
  · rename_i x6 x7 x8
    apply all_ite (P := Keeps s0)
    · apply landRead_keeps
      assumption
    · apply all_ite (P := Keeps s0)
      · apply memCopy_keeps
        assumption
      · split
        · rename_i x9 x10 x11 x12
          apply failReqSeen_keeps
          assumption
        · rename_i x13 x14
          apply all_foldl (P := Keeps s0)
          · intro x15 x16 x17
            apply cachePut_keeps
            assumption
          · assumption

theorem deliver_keeps {s0 : State} {s : Machine.State} (h1 : Keeps s0 s) {q : MemReq} :
    Keeps s0 (deliver s q) := by
  unfold deliver
  split
  · rename_i x3 x4 x5 x6 x7 x8
    apply landRead_keeps
    assumption
  · rename_i x9 x10 x11 x12
    assumption
  · rename_i x13 x14 x15 x16
    apply Keeps.upd
    assumption

theorem loseInFlight_keeps {s0 : State} {c : ℕ} {s : Machine.State} (h2 : Keeps s0 s) :
    Keeps s0 (loseInFlight c s) := by
  unfold loseInFlight
  extract_lets +onlyGivenNames x3
  have h4 : Keeps s0 x3 := by
    unfold x3
    apply all_foldl (P := Keeps s0)
    · intro x5 x6 x7
      extract_lets +onlyGivenNames x8
      clear_value x8
      extract_lets +onlyGivenNames x9
      have h10 : Keeps s0 x9 := by
        unfold x9
        apply setT_keeps
        assumption
      clear_value x9
      apply all_foldl (P := Keeps s0)
      · intro x11 x12 x13
        apply failReq_keeps
        assumption
      · assumption
    · assumption
  clear_value x3
  extract_lets +onlyGivenNames x14
  clear_value x14
  extract_lets +onlyGivenNames x15
  clear_value x15
  extract_lets +onlyGivenNames x16
  have h17 : Keeps s0 x16 := by
    unfold x16
    apply Keeps.upd
    assumption
  clear_value x16
  apply all_foldl (P := Keeps s0)
  · intro x18 x19 x20
    apply failReq_keeps
    assumption
  · assumption

theorem lsuEnqueue_keeps {s0 : State} {s : Machine.State} (h1 : Keeps s0 s) {t : ℕ} {h : ℕ} {q : MemReq} :
    Keeps s0 (lsuEnqueue s t h q) := by
  unfold lsuEnqueue
  extract_lets +onlyGivenNames x5
  clear_value x5
  apply all_ite (P := Keeps s0)
  · assumption
  · apply all_ite (P := Keeps s0)
    · apply failReq_keeps
      assumption
    · apply all_ite (P := Keeps s0)
      · assumption
      · apply setT_keeps
        assumption

theorem execLsuRequestIssue_keeps {s0 : State} {t : ℕ} {req : Option MemReq} {s : Machine.State} (h3 : Keeps s0 s) :
    OutKeeps s0 (execLsuRequestIssue t req s) := by
  unfold execLsuRequestIssue
  apply guardUnit_keeps
  split
  · rename_i x4 x5
    apply OutKeeps.next
    assumption
  · rename_i x6 x7 x8
    extract_lets +onlyGivenNames x9
    have h10 : Keeps s0 x9 := by
      unfold x9
      split
      · rename_i x11 x12
        apply all_ite (P := Keeps s0)
        · apply lsuEnqueue_keeps
          assumption
        · assumption
      · rename_i x13
        assumption
    clear_value x9
    extract_lets +onlyGivenNames x14
    have h15 : Keeps s0 x14 := by
      unfold x14
      apply countHeld_keeps
      assumption
    clear_value x14
    extract_lets +onlyGivenNames x16
    clear_value x16
    apply all_ite (P := OutKeeps s0)
    · apply OutKeeps.next
      assumption
    · split
      · rename_i x17 x18
        apply OutKeeps.next
        assumption
      · rename_i x19 x20 x21
        extract_lets +onlyGivenNames x22
        have h23 : Keeps s0 x22 := by
          unfold x22
          apply setT_keeps
          assumption
        clear_value x22
        apply all_ite (P := OutKeeps s0)
        · apply OutKeeps.next
          apply answerReq_keeps
          assumption
        · apply OutKeeps.next
          apply setT_keeps
          assumption

theorem markDead_keeps {s0 : State} {s : Machine.State} (h1 : Keeps s0 s) {c : ℕ} {key : ℕ} {r : Region} :
    Keeps s0 (markDead s c key r) := by
  unfold markDead
  split
  · rename_i x5 x6
    assumption
  · rename_i x7 x8 x9
    extract_lets +onlyGivenNames x10
    clear_value x10
    extract_lets +onlyGivenNames x11
    clear_value x11
    extract_lets +onlyGivenNames x12
    clear_value x12
    apply Keeps.upd
    assumption

theorem markAllDead_keeps {s0 : State} {c : ℕ} {ks : List ℕ} {s : Machine.State} (h3 : Keeps s0 s) :
    Keeps s0 (markAllDead c ks s) := by
  unfold markAllDead
  apply all_foldl (P := Keeps s0)
  · intro x4 x5 x6
    split
    · rename_i x7 x8 x9
      apply all_ite (P := Keeps s0)
      · apply markDead_keeps
        assumption
      · assumption
    · rename_i x10 x11
      assumption
  · assumption

theorem needRebuild_keeps {s0 : State} {s : Machine.State} (h1 : Keeps s0 s) {c : ℕ} {key : ℕ} :
    Keeps s0 (needRebuild s c key) := by
  unfold needRebuild
  extract_lets +onlyGivenNames x4
  have h5 : Keeps s0 x4 := by
    unfold x4
    apply dropTodo_keeps
    assumption
  clear_value x4
  apply Keeps.upd
  assumption

theorem onlyOnce_keeps {s0 : State} {s : Machine.State} (h1 : Keeps s0 s) {key : ℕ} :
    Keeps s0 (onlyOnce s key) := by
  unfold onlyOnce
  extract_lets +onlyGivenNames x3
  have h4 : Keeps s0 x3 := by
    unfold x3
    apply dropTodo_keeps
    assumption
  clear_value x3
  apply Keeps.upd
  assumption

theorem putPlace_keeps {s0 : State} {s : Machine.State} (h1 : Keeps s0 s) {key : ℕ} {p : Place} :
    Keeps s0 (putPlace s key p) := by
  unfold putPlace
  apply Keeps.upd
  assumption

theorem placeBeside_keeps {s0 : State} {s : Machine.State} (h1 : Keeps s0 s) {c : ℕ} {key : ℕ} {oc : ℕ} :
    Keeps s0 (placeBeside s c key oc) := by
  unfold placeBeside
  extract_lets +onlyGivenNames x5
  clear_value x5
  extract_lets +onlyGivenNames x6
  clear_value x6
  split
  · rename_i x7 x8 x9 x10
    apply needRebuild_keeps
    apply putPlace_keeps
    apply Keeps.upd
    assumption
  · rename_i x11 x12
    apply onlyOnce_keeps
    assumption

theorem placeM_keeps {s0 : State} {s : Machine.State} (h1 : Keeps s0 s) {c : ℕ} {key : ℕ} {r : Region} :
    Keeps s0 (placeM s c key r) := by
  unfold placeM
  extract_lets +onlyGivenNames x5
  clear_value x5
  extract_lets +onlyGivenNames x6
  clear_value x6
  extract_lets +onlyGivenNames x7
  clear_value x7
  extract_lets +onlyGivenNames x8
  clear_value x8
  split
  · rename_i x9 x10 x11 x12
    apply needRebuild_keeps
    apply putPlace_keeps
    apply Keeps.upd
    assumption
  · rename_i x13 x14
    split
    · rename_i x15 x16 x17 x18
      extract_lets +onlyGivenNames x19
      have h20 : Keeps s0 x19 := by
        unfold x19
        apply all_ite (P := Keeps s0)
        · assumption
        · apply raiseF_keeps
          assumption
      clear_value x19
      extract_lets +onlyGivenNames x21
      have h22 : Keeps s0 x21 := by
        unfold x21
        apply raiseF_keeps
        assumption
      clear_value x21
      apply needRebuild_keeps
      apply putPlace_keeps
      apply Keeps.upd
      assumption
    · rename_i x23 x24
      apply placeBeside_keeps
      apply raiseF_keeps
      assumption

theorem placeS_keeps {s0 : State} {s : Machine.State} (h1 : Keeps s0 s) {c : ℕ} {key : ℕ} :
    Keeps s0 (placeS s c key) := by
  unfold placeS
  extract_lets +onlyGivenNames x4
  clear_value x4
  split
  · rename_i x5 x6 x7 x8
    extract_lets +onlyGivenNames x9
    clear_value x9
    extract_lets +onlyGivenNames x10
    have h11 : Keeps s0 x10 := by
      unfold x10
      apply putPlace_keeps
      apply Keeps.upd
      assumption
    clear_value x10
    apply Keeps.upd
    assumption
  · rename_i x12 x13
    apply Keeps.upd
    assumption

theorem placeAll_keeps {s0 : State} {c : ℕ} {x1 : List ℕ} {x2 : Machine.State} (h3 : Keeps s0 x2) :
    Keeps s0 (placeAll c x1 x2) := by
  fun_induction placeAll
  · rename_i x4
    assumption
  · rename_i x5 x6 x7 x8
    apply x8
    split
    · rename_i x9 x10 x11
      apply all_ite (P := Keeps s0)
      · apply placeM_keeps
        assumption
      · apply placeS_keeps
        assumption
    · rename_i x12 x13
      assumption

theorem refreshUnd_keeps {s0 : State} {s : Machine.State} (h1 : Keeps s0 s) :
    Keeps s0 (refreshUnd s) := by
  unfold refreshUnd
  extract_lets +onlyGivenNames x2
  clear_value x2
  extract_lets +onlyGivenNames x3
  clear_value x3
  extract_lets +onlyGivenNames x4
  have h5 : Keeps s0 x4 := by
    unfold x4
    apply setF_keeps
    assumption
  clear_value x4
  extract_lets +onlyGivenNames x6
  have h7 : Keeps s0 x6 := by
    unfold x6
    apply setF_keeps
    assumption
  clear_value x6
  extract_lets +onlyGivenNames x8
  have h9 : Keeps s0 x8 := by
    unfold x8
    apply setF_keeps
    assumption
  clear_value x8
  extract_lets +onlyGivenNames x10
  have h11 : Keeps s0 x10 := by
    unfold x10
    apply setF_keeps
    assumption
  clear_value x10
  extract_lets +onlyGivenNames x12
  have h13 : Keeps s0 x12 := by
    unfold x12
    apply all_foldl (P := Keeps s0)
    · intro x14 x15 x16
      extract_lets +onlyGivenNames x17
      clear_value x17
      extract_lets +onlyGivenNames x18
      clear_value x18
      extract_lets +onlyGivenNames x19
      have h20 : Keeps s0 x19 := by
        unfold x19
        apply setF_keeps
        assumption
      clear_value x19
      apply setF_keeps
      assumption
    · assumption
  clear_value x12
  extract_lets +onlyGivenNames x21
  clear_value x21
  apply refreshLost_keeps
  apply setF_keeps
  assumption

theorem startRebuild_keeps {s0 : State} {s : Machine.State} (h1 : Keeps s0 s) :
    Keeps s0 (startRebuild s) := by
  unfold startRebuild
  split
  · rename_i x2 x3
    apply setF_keeps
    apply setF_keeps
    assumption
  · rename_i x4 x5 x6 x7 x8
    extract_lets +onlyGivenNames x9
    have h10 : Keeps s0 x9 := by
      unfold x9
      apply setF_keeps
      assumption
    clear_value x9
    extract_lets +onlyGivenNames x11
    have h12 : Keeps s0 x11 := by
      unfold x11
      apply setF_keeps
      assumption
    clear_value x11
    extract_lets +onlyGivenNames x13
    have h14 : Keeps s0 x13 := by
      unfold x13
      apply setF_keeps
      assumption
    clear_value x13
    extract_lets +onlyGivenNames x15
    have h16 : Keeps s0 x15 := by
      unfold x15
      apply setF_keeps
      assumption
    clear_value x15
    apply Keeps.upd
    assumption

theorem endRebuilds_keeps {s0 : State} {x0 : ℕ} {x1 : Machine.State} (h2 : Keeps s0 x1) :
    Keeps s0 (endRebuilds x0 x1) := by
  fun_induction endRebuilds
  · rename_i x3
    assumption
  · rename_i x4 x5 x6
    assumption
  · rename_i x7 x8 x9 x10 x11 x12 x13 x14 x15 x16 x17 x18
    apply x18
    apply startRebuild_keeps
    unfold x17
    apply Keeps.upd
    unfold x16
    apply raiseF_keeps
    unfold x15
    apply setF_keeps
    unfold x14
    apply addRecord_keeps
    assumption
  · rename_i x19 x20 x21 x22 x23 x24 x25
    assumption

theorem execRebuildBlockCopy_keeps {s0 : State} {ok : Bool} {s : Machine.State} (h2 : Keeps s0 s) :
    OutKeeps s0 (execRebuildBlockCopy ok s) := by
  unfold execRebuildBlockCopy
  split
  · rename_i x3 x4
    apply OutKeeps.next
    assumption
  · rename_i x5 x6 x7 x8 x9
    split
    · rename_i x10 x11
      apply OutKeeps.next
      apply endRebuilds_keeps
      assumption
    · rename_i x12 x13 x14 x15
      apply all_ite (P := OutKeeps s0)
      · apply OutKeeps.next
        assumption
      · extract_lets +onlyGivenNames x16
        have h17 : Keeps s0 x16 := by
          unfold x16
          split
          · rename_i x18 x19 x20 x21
            apply all_ite (P := Keeps s0)
            · assumption
            · apply driveDs_keeps
              apply driveDs_keeps
              assumption
          · rename_i x22 x23
            assumption
        clear_value x16
        apply all_ite (P := OutKeeps s0)
        · apply OutKeeps.next
          assumption
        · apply all_ite (P := OutKeeps s0)
          · apply OutKeeps.next
            apply Keeps.upd
            assumption
          · extract_lets +onlyGivenNames x24
            clear_value x24
            extract_lets +onlyGivenNames x25
            have h26 : Keeps s0 x25 := by
              unfold x25
              apply Keeps.upd
              assumption
            clear_value x25
            apply OutKeeps.next
            apply endRebuilds_keeps
            apply bumpF_keeps
            assumption

theorem retireChannel_keeps {s0 : State} {s : Machine.State} (h1 : Keeps s0 s) {c : ℕ} {src : ℕ} :
    Keeps s0 (retireChannel s c src) := by
  unfold retireChannel
  apply all_ite (P := Keeps s0)
  · assumption
  · extract_lets +onlyGivenNames x4
    have h5 : Keeps s0 x4 := by
      unfold x4
      apply loseInFlight_keeps
      assumption
    clear_value x4
    extract_lets +onlyGivenNames x6
    clear_value x6
    extract_lets +onlyGivenNames x7
    have h8 : Keeps s0 x7 := by
      unfold x7
      apply setF_keeps
      assumption
    clear_value x7
    extract_lets +onlyGivenNames x9
    have h10 : Keeps s0 x9 := by
      unfold x9
      apply raiseF_keeps
      assumption
    clear_value x9
    extract_lets +onlyGivenNames x11
    clear_value x11
    extract_lets +onlyGivenNames x12
    clear_value x12
    extract_lets +onlyGivenNames x13
    have h14 : Keeps s0 x13 := by
      unfold x13
      apply Keeps.upd
      assumption
    clear_value x13
    extract_lets +onlyGivenNames x15
    have h16 : Keeps s0 x15 := by
      unfold x15
      apply refreshLevel_keeps
      apply refreshUnd_keeps
      apply placeAll_keeps
      apply markAllDead_keeps
      assumption
    clear_value x15
    apply endRebuilds_keeps
    apply all_ite (P := Keeps s0)
    · apply startRebuild_keeps
      assumption
    · assumption

theorem execChannelRetire_keeps {s0 : State} {chan : ℕ} {s : Machine.State} (h2 : Keeps s0 s) :
    OutKeeps s0 (execChannelRetire chan s) := by
  unfold execChannelRetire
  apply guardUnit_keeps
  apply whileServed_keeps
  · assumption
  · apply all_ite (P := OutKeeps s0)
    · apply OutKeeps.next
      assumption
    · apply all_ite (P := OutKeeps s0)
      · apply OutKeeps.next
        apply raiseF_keeps
        assumption
      · apply OutKeeps.next
        apply retireChannel_keeps
        assumption

theorem execMemoryDeviceFailed_keeps {s0 : State} {chan : ℕ} {s : Machine.State} (h2 : Keeps s0 s) :
    OutKeeps s0 (execMemoryDeviceFailed chan s) := by
  unfold execMemoryDeviceFailed
  apply guardUnit_keeps
  apply OutKeeps.next
  apply retireChannel_keeps
  assumption

theorem missed_keeps {s0 : State} {s : Machine.State} (h1 : Keeps s0 s) {p : LPlace} {reached : Bool} :
    Keeps s0 (missed s p reached) := by
  unfold missed
  apply all_ite (P := Keeps s0)
  · assumption
  · apply retireChannel_keeps
    assumption

theorem touchCheck_keeps {s0 : State} {s : Machine.State} (h1 : Keeps s0 s) {p : LPlace} :
    Keeps s0 (touchCheck s p) := by
  unfold touchCheck
  extract_lets +onlyGivenNames x3
  clear_value x3
  extract_lets +onlyGivenNames x4
  clear_value x4
  extract_lets +onlyGivenNames x5
  clear_value x5
  apply Keeps.upd
  assumption

theorem readBurst_keeps {s0 : State} {s : Machine.State} (h1 : Keeps s0 s) {a : ℕ} {oc : ReadOutcome} {p : LPlace} {mirror : Bool} {o : Option LPlace} :
    AtFst (Keeps s0) (readBurst s a oc p mirror o) := by
  unfold readBurst
  extract_lets +onlyGivenNames x7
  clear_value x7
  extract_lets +onlyGivenNames x8
  have h9 : Keeps s0 x8 := by
    unfold x8
    apply satF_keeps
    apply touchCheck_keeps
    apply driveDs_keeps
    assumption
  clear_value x8
  apply all_ite (P := AtFst (Keeps s0))
  · apply AtFst.mk
    assumption
  · apply all_ite (P := AtFst (Keeps s0))
    · apply AtFst.mk
      apply satF_keeps
      assumption
    · split
      · rename_i x10
        apply AtFst.mk
        apply badCopy_keeps
        assumption
      · rename_i x11 x12
        extract_lets +onlyGivenNames x13
        have h14 : Keeps s0 x13 := by
          unfold x13
          apply touchCheck_keeps
          apply driveDs_keeps
          assumption
        clear_value x13
        apply all_ite (P := AtFst (Keeps s0))
        · apply AtFst.mk
          apply driveDs_keeps
          apply badCopy_keeps
          assumption
        · apply AtFst.mk
          apply badCopy_keeps
          apply badCopy_keeps
          assumption

theorem readFrom_keeps {s0 : State} {s : Machine.State} (h1 : Keeps s0 s) {r : Region} {a : ℕ} {oc : ReadOutcome} :
    AtFst (Keeps s0) (readFrom s r a oc) := by
  unfold readFrom
  split
  rename_i x5 x6 x7 x8
  split
  · rename_i x9
    split
    rename_i x10 x11 x12 x13
    have h14 := all_of_eq (P := AtFst (Keeps s0)) x13 (by
        apply readBurst_keeps
        assumption)
    apply AtFst.mk
    assumption
  · rename_i x15 x16
    split
    · rename_i x17 x18 x19
      split
      rename_i x20 x21 x22 x23
      have h24 := all_of_eq (P := AtFst (Keeps s0)) x23 (by
          apply readBurst_keeps
          assumption)
      apply AtFst.mk
      assumption
    · rename_i x25 x26 x27 x28
      split
      rename_i x29 x30 x31 x32
      have h33 := all_of_eq (P := AtFst (Keeps s0)) x32 (by
          apply readBurst_keeps
          assumption)
      apply AtFst.mk
      assumption
    · rename_i x34 x35 x36 x37
      apply AtFst.mk
      assumption

theorem mergeAll_keeps {s0 : State} {r : Region} {q : MemReq} {os : List (ℕ × ReadOutcome)} {x3 : List ℕ} {x4 : Machine.State} (h5 : Keeps s0 x4) :
    AtFst (Keeps s0) (mergeAll r q os x3 x4) := by
  fun_induction mergeAll
  · rename_i x6
    apply AtFst.mk
    assumption
  · rename_i x7 x8 x9 x10 x11 x12 x13 x14
    have h15 := all_of_eq (P := AtFst (Keeps s0)) x13 (by
        apply readFrom_keeps
        assumption)
    apply x14
    assumption
  · rename_i x16 x17 x18 x19 x20 x21 x22 x23 x24
    have h25 := all_of_eq (P := AtFst (Keeps s0)) x23 (by
        apply readFrom_keeps
        assumption)
    apply AtFst.mk
    assumption

theorem readAll_keeps {s0 : State} {r : Region} {os : List (ℕ × ReadOutcome)} {a : ℕ} {x3 : List ℕ} {x4 : Machine.State} (h5 : Keeps s0 x4) :
    AtFst (Keeps s0) (readAll r os a x3 x4) := by
  fun_induction readAll
  · rename_i x6
    apply AtFst.mk
    assumption
  · rename_i x7 x8 x9 x10 x11
    apply AtFst.mk
    assumption
  · rename_i x12 x13 x14 x15 x16 x17 x18 x19
    have h20 := all_of_eq (P := AtFst (Keeps s0)) x18 (by
        apply readFrom_keeps
        assumption)
    apply x19
    assumption
  · rename_i x21 x22 x23 x24 x25 x26 x27 x28 x29
    have h30 := all_of_eq (P := AtFst (Keeps s0)) x28 (by
        apply readFrom_keeps
        assumption)
    apply AtFst.mk
    assumption

theorem execMemoryRead_keeps {s0 : State} {q : MemReq} {os : List (ℕ × ReadOutcome)} {s : Machine.State} (h3 : Keeps s0 s) :
    OutKeeps s0 (execMemoryRead q os s) := by
  unfold execMemoryRead
  apply all_ite (P := OutKeeps s0)
  · apply OutKeeps.next
    assumption
  · split
    · rename_i x4 x5
      apply OutKeeps.next
      assumption
    · rename_i x6 x7 x8
      split
      · rename_i x9 x10 x11
        have h12 := all_of_eq (P := AtFst (Keeps s0)) x11 (by
            apply readAll_keeps
            apply freeSlot_keeps
            assumption)
        apply OutKeeps.next
        apply deliver_keeps
        assumption
      · rename_i x13 x14 x15 x16 x17
        have h18 := all_of_eq (P := AtFst (Keeps s0)) x17 (by
            apply readAll_keeps
            apply freeSlot_keeps
            assumption)
        apply OutKeeps.next
        apply failReqSeen_keeps
        assumption

theorem writeCopies_keeps {s0 : State} {s : Machine.State} (h1 : Keeps s0 s) {r : Region} {q : MemReq} {o : WriteOutcome} :
    Keeps s0 (writeCopies s r q o) := by
  unfold writeCopies
  split
  rename_i x5 x6 x7 x8
  extract_lets +onlyGivenNames x9
  clear_value x9
  extract_lets +onlyGivenNames x10
  have h13 : ∀ (x11 : Machine.State), Keeps s0 x11 → ∀ (x12 : LPlace), Keeps s0 (x10 x11 x12) := by
    intro x14 x15 x16
    unfold x10
    apply touchCheck_keeps
    apply driveDs_keeps
    assumption
  clear_value x10
  split
  · rename_i x17
    extract_lets +onlyGivenNames x18
    have h19 : Keeps s0 x18 := by
      unfold x18
      apply missed_keeps
      apply satF_keeps
      apply h13
      assumption
    clear_value x18
    split
    · rename_i x20 x21 x22 x23
      apply failReqSeen_keeps
      assumption
    · rename_i x24 x25
      apply land_keeps
      assumption
  · rename_i x26 x27
    extract_lets +onlyGivenNames x28
    clear_value x28
    extract_lets +onlyGivenNames x29
    clear_value x29
    extract_lets +onlyGivenNames x30
    clear_value x30
    extract_lets +onlyGivenNames x31
    have h32 : Keeps s0 x31 := by
      unfold x31
      apply all_ite (P := Keeps s0)
      · apply h13
        assumption
      · assumption
    clear_value x31
    extract_lets +onlyGivenNames x33
    have h34 : Keeps s0 x33 := by
      unfold x33
      apply satF_keeps
      apply all_ite (P := Keeps s0)
      · apply h13
        assumption
      · assumption
    clear_value x33
    extract_lets +onlyGivenNames x35
    have h36 : Keeps s0 x35 := by
      unfold x35
      apply all_ite (P := Keeps s0)
      · apply missed_keeps
        assumption
      · assumption
    clear_value x35
    extract_lets +onlyGivenNames x37
    have h38 : Keeps s0 x37 := by
      unfold x37
      apply all_ite (P := Keeps s0)
      · apply missed_keeps
        assumption
      · assumption
    clear_value x37
    apply all_ite (P := Keeps s0)
    · apply land_keeps
      assumption
    · apply failReqSeen_keeps
      assumption

theorem execMemoryWrite_keeps {s0 : State} {q : MemReq} {o : WriteOutcome} {s : Machine.State} (h3 : Keeps s0 s) :
    OutKeeps s0 (execMemoryWrite q o s) := by
  unfold execMemoryWrite
  apply all_ite (P := OutKeeps s0)
  · apply OutKeeps.next
    assumption
  · split
    · rename_i x4 x5
      apply OutKeeps.next
      assumption
    · rename_i x6 x7 x8
      split
      · rename_i x9 x10 x11 x12
        apply OutKeeps.next
        apply failReqSeen_keeps
        apply freeSlot_keeps
        assumption
      · rename_i x13 x14
        split
        · rename_i x15 x16 x17 x18 x19
          have h20 := all_of_eq (P := AtFst (Keeps s0)) x19 (by
              apply mergeAll_keeps
              apply freeSlot_keeps
              assumption)
          apply OutKeeps.next
          apply failReqSeen_keeps
          assumption
        · rename_i x21 x22 x23
          have h24 := all_of_eq (P := AtFst (Keeps s0)) x23 (by
              apply mergeAll_keeps
              apply freeSlot_keeps
              assumption)
          apply OutKeeps.next
          apply writeCopies_keeps
          assumption

/-! ## Move -/

theorem moveCmd_keeps {s0 : State} {opcode : ℕ} {r : CmdRef} {s : Machine.State} (h3 : Keeps s0 s) {k : Machine.State → Cmd → Disp} (h5 : ∀ (x6 : Machine.State), Keeps s0 x6 → ∀ (x7 : Cmd), DispKeeps s0 (k x6 x7)) {go : Machine.State → Cmd → Machine.State} (h9 : ∀ (x10 : Machine.State), Keeps s0 x10 → ∀ (x11 : Cmd), Keeps s0 (go x10 x11)) :
    OutKeeps s0 (moveCmd opcode r s k go) := by
  unfold moveCmd
  apply guardUnit_keeps
  split
  · rename_i x12 x13
    apply OutKeeps.next
    assumption
  · rename_i x14 x15 x16
    apply all_ite (P := OutKeeps s0)
    · apply OutKeeps.next
      apply h9
      assumption
    · split
      · rename_i x17 x18 x19
        have h23 := all_of_eq (P := OutKeeps s0) x19 (by
            apply dispatch_keeps
            · assumption
            · intro x20 x21 x22
              apply h5
              assumption)
        split
        · rename_i x24 x25 x26
          have h30 := all_of_eq (P := OutKeeps s0) x19 (by
              apply dispatch_keeps
              · assumption
              · intro x27 x28 x29
                apply h5
                assumption)
          apply all_ite (P := OutKeeps s0)
          · apply OutKeeps.next
            apply h9
            assumption
          · apply OutKeeps.next
            assumption
        · rename_i x31 x32
          have h36 := all_of_eq (P := OutKeeps s0) x19 (by
              apply dispatch_keeps
              · assumption
              · intro x33 x34 x35
                apply h5
                assumption)
          apply OutKeeps.next
          assumption
      · rename_i x37 x38
        apply dispatch_keeps
        · assumption
        · intro x39 x40 x41
          apply h5
          assumption

theorem moveFail_keeps {s0 : State} {s : Machine.State} (h1 : Keeps s0 s) {r : CmdRef} {i : ℕ} {e : ReadErr} {addr : ℕ} :
    Keeps s0 (moveFail s r i e addr) := by
  unfold moveFail
  apply endCmd_keeps
  apply noteErr_keeps
  assumption

theorem moveUnits_keeps {s0 : State} {f : ℕ → Machine.State → Except Stuck Machine.State} (h1 : ∀ (x2 : ℕ) (x3 : Machine.State), Keeps s0 x3 → ExcAll (Keeps s0) (f x2 x3)) {x4 : ℕ} {x5 : ℕ} {x6 : Machine.State} (h7 : Keeps s0 x6) :
    AtFst (Keeps s0) (moveUnits f x4 x5 x6) := by
  fun_induction moveUnits
  · rename_i x8 x9
    apply AtFst.mk
    assumption
  · rename_i x10 x11 x12 x13 x14 x15
    have h16 := all_of_eq (P := ExcAll (Keeps s0)) x14 (by
        apply h1
        assumption)
    have h16a := h16.get
    apply x15
    assumption
  · rename_i x17 x18 x19 x20 x21
    have h22 := all_of_eq (P := ExcAll (Keeps s0)) x21 (by
        apply h1
        assumption)
    apply AtFst.mk
    assumption

theorem moveRun_keeps {s0 : State} {s : Machine.State} (h1 : Keeps s0 s) {r : CmdRef} {m : Move} {total : ℕ} {addr : ℕ → ℕ} {f : ℕ → Machine.State → Except Stuck Machine.State} (h7 : ∀ (x8 : ℕ) (x9 : Machine.State), Keeps s0 x9 → ExcAll (Keeps s0) (f x8 x9)) {fin : Machine.State → Machine.State} (h11 : ∀ (x12 : Machine.State), Keeps s0 x12 → Keeps s0 (fin x12)) {bad : Machine.State → Machine.State} (h14 : ∀ (x15 : Machine.State), Keeps s0 x15 → Keeps s0 (bad x15)) :
    Keeps s0 (moveRun s r m total addr f fin bad) := by
  unfold moveRun
  split
  · rename_i x16 x17
    assumption
  · rename_i x18 x19 x20
    split
    rename_i x21 x22 x23 x24 x25
    have h29 := all_of_eq (P := AtFst (Keeps s0)) x25 (by
        apply moveUnits_keeps
        · intro x26 x27 x28
          apply h7
          assumption
        · assumption)
    extract_lets +onlyGivenNames x30
    have h31 : Keeps s0 x30 := by
      unfold x30
      apply updJob_keeps
      assumption
    clear_value x30
    split
    · rename_i x32 x33 x34
      have h38 := all_of_eq (P := AtFst (Keeps s0)) x25 (by
          apply moveUnits_keeps
          · intro x35 x36 x37
            apply h7
            assumption
          · assumption)
      apply moveFail_keeps
      apply h14
      assumption
    · rename_i x39
      have h43 := all_of_eq (P := AtFst (Keeps s0)) x25 (by
          apply moveUnits_keeps
          · intro x40 x41 x42
            apply h7
            assumption
          · assumption)
      assumption
    · rename_i x44
      have h48 := all_of_eq (P := AtFst (Keeps s0)) x25 (by
          apply moveUnits_keeps
          · intro x45 x46 x47
            apply h7
            assumption
          · assumption)
      apply all_ite (P := Keeps s0)
      · split
        · rename_i x49 x50 x51
          have h55 := all_of_eq (P := AtFst (Keeps s0)) x25 (by
              apply moveUnits_keeps
              · intro x52 x53 x54
                apply h7
                assumption
              · assumption)
          apply moveFail_keeps
          apply h14
          assumption
        · rename_i x56 x57
          have h61 := all_of_eq (P := AtFst (Keeps s0)) x25 (by
              apply moveUnits_keeps
              · intro x58 x59 x60
                apply h7
                assumption
              · assumption)
          assumption
      · apply h11
        assumption

end Sys2Proof.Machine
end

