-- ==== Sys2Proof/Laws/KeepsData.lean ====
section
/-! SUPPORT. No operation of these files touches what waits, the canonical form of memory and registers, or the free values
drawn: Foyer, Frieze, Cache, Offload, CodeCmd. -/

namespace Sys2Proof.Machine

/-! ## Foyer -/

theorem dictLoaded_keeps {s0 : State} {s : Machine.State} (h1 : Keeps s0 s) {h : ℕ} :
    Keeps s0 (dictLoaded s h) := by
  unfold dictLoaded
  extract_lets +onlyGivenNames x3
  clear_value x3
  extract_lets +onlyGivenNames x4
  have h5 : Keeps s0 x4 := by
    unfold x4
    apply setF_keeps
    apply setF_keeps
    assumption
  clear_value x4
  apply setF_keeps
  apply bumpF_keeps
  assumption

theorem execDictLoad_keeps {s0 : State} {r : CmdRef} {err : Option ReadErr} {s : Machine.State} (h3 : Keeps s0 s) :
    OutKeeps s0 (execDictLoad r err s) := by
  unfold execDictLoad
  apply guardUnit_keeps
  apply dispatch_keeps
  · assumption
  · intro x4 x5 x6
    extract_lets +onlyGivenNames x7
    clear_value x7
    apply waitWhile_keeps
    extract_lets +onlyGivenNames x8
    have h9 : Keeps s0 x8 := by
      unfold x8
      apply raiseF_keeps
      assumption
    clear_value x8
    extract_lets +onlyGivenNames x10
    clear_value x10
    extract_lets +onlyGivenNames x11
    clear_value x11
    apply all_ite (P := DispKeeps s0)
    · exact DispKeeps.stop
    · apply all_ite (P := DispKeeps s0)
      · apply DispKeeps.stopIn
        assumption
      · apply all_ite (P := DispKeeps s0)
        · exact DispKeeps.wait
        · split
          · rename_i x12 x13 x14 x15
            apply DispKeeps.stopIn
            apply noteErr_keeps
            assumption
          · rename_i x16 x17
            extract_lets +onlyGivenNames x18
            clear_value x18
            apply all_ite (P := DispKeeps s0)
            · apply DispKeeps.stopIn
              assumption
            · apply all_ite (P := DispKeeps s0)
              · apply DispKeeps.stopIn
                assumption
              · extract_lets +onlyGivenNames x19
                clear_value x19
                extract_lets +onlyGivenNames x20
                have h21 : Keeps s0 x20 := by
                  unfold x20
                  apply setH_keeps
                  assumption
                clear_value x20
                apply DispKeeps.go
                apply succeed_keeps
                apply setF_keeps
                assumption

theorem execFoyerBatch_keeps {s0 : State} {r : CmdRef} {err : Option ReadErr} {s : Machine.State} (h3 : Keeps s0 s) :
    OutKeeps s0 (execFoyerBatch r err s) := by
  unfold execFoyerBatch
  apply guardUnit_keeps
  apply dispatch_keeps
  · assumption
  · intro x4 x5 x6
    extract_lets +onlyGivenNames x7
    clear_value x7
    apply waitWhile_keeps
    apply all_ite (P := DispKeeps s0)
    · exact DispKeeps.gone
    · apply readOk_keeps
      · assumption
      · extract_lets +onlyGivenNames x8
        clear_value x8
        apply all_ite (P := DispKeeps s0)
        · exact DispKeeps.gone
        · apply readOk_keeps
          · assumption
          · extract_lets +onlyGivenNames x9
            clear_value x9
            apply need_keeps
            split
            · rename_i x10 x11 x12 x13
              apply all_ite (P := DispKeeps s0)
              · exact DispKeeps.gone
              · exact DispKeeps.stop
            · rename_i x14 x15
              extract_lets +onlyGivenNames x16
              clear_value x16
              apply reachGate_keeps
              · assumption
              · apply DispKeeps.go
                apply updJob_keeps
                assumption

theorem putBit_keeps {s0 : State} {s : Machine.State} (h1 : Keeps s0 s) {base : ℕ} {i : ℕ} {v : Bool} :
    Keeps s0 (putBit s base i v) := by
  unfold putBit
  extract_lets +onlyGivenNames x5
  clear_value x5
  apply memPutNat_keeps
  assumption

theorem putCounts_keeps {s0 : State} {s : Machine.State} (h1 : Keeps s0 s) {a : ℕ} {b : List Byte} {es : List Byte} :
    Keeps s0 (putCounts s a b es) := by
  unfold putCounts
  extract_lets +onlyGivenNames x5
  clear_value x5
  extract_lets +onlyGivenNames x6
  clear_value x6
  extract_lets +onlyGivenNames x7
  clear_value x7
  extract_lets +onlyGivenNames x8
  clear_value x8
  apply memPut_keeps
  assumption

theorem abortBatch_keeps {s0 : State} {s : Machine.State} (h1 : Keeps s0 s) {c : Cmd} :
    Keeps s0 (abortBatch s c) := by
  unfold abortBatch
  apply all_ite (P := Keeps s0)
  · assumption
  · extract_lets +onlyGivenNames x3
    clear_value x3
    extract_lets +onlyGivenNames x4
    have h5 : Keeps s0 x4 := by
      unfold x4
      apply all_foldl (P := Keeps s0)
      · intro x6 x7 x8
        apply memPut_keeps
        assumption
      · assumption
    clear_value x4
    apply spansWrote_keeps
    apply putCounts_keeps
    assumption

theorem putRowBits_keeps {s0 : State} {s : Machine.State} (h1 : Keeps s0 s) {b : List Byte} {slot : ℕ} {lo : ℕ} {n : ℕ} {f : ℕ → Bool} :
    Keeps s0 (putRowBits s b slot lo n f) := by
  unfold putRowBits
  apply all_ite (P := Keeps s0)
  · assumption
  · apply all_foldl (P := Keeps s0)
    · intro x7 x8 x9
      apply putBit_keeps
      assumption
    · assumption

theorem padSlot_keeps {s0 : State} {s : Machine.State} (h1 : Keeps s0 s) {b : List Byte} {slot : ℕ} {n : ℕ} :
    Keeps s0 (padSlot s b slot n) := by
  unfold padSlot
  extract_lets +onlyGivenNames x5
  clear_value x5
  apply putRowBits_keeps
  apply memZero_keeps
  assumption

theorem putFrame_keeps {s0 : State} {s : Machine.State} (h1 : Keeps s0 s) {h : ℕ} {b : List Byte} {e : List Byte} {slot : ℕ} {f : ℕ} {fmt : ℕ} {src : List Byte} {boxes : List (ℕ × ℕ × ℕ × ℕ)} :
    Keeps s0 (putFrame s h b e slot f fmt src boxes) := by
  unfold putFrame
  extract_lets +onlyGivenNames x10
  clear_value x10
  extract_lets +onlyGivenNames x11
  clear_value x11
  extract_lets +onlyGivenNames x12
  clear_value x12
  extract_lets +onlyGivenNames x13
  have h14 : Keeps s0 x13 := by
    unfold x13
    apply all_foldl (P := Keeps s0)
    · intro x15 x16 x17
      extract_lets +onlyGivenNames x18
      clear_value x18
      extract_lets +onlyGivenNames x19
      clear_value x19
      extract_lets +onlyGivenNames x20
      clear_value x20
      apply all_ite (P := Keeps s0)
      · extract_lets +onlyGivenNames x21
        clear_value x21
        apply memPut_keeps
        apply countCvts_keeps
        assumption
      · apply memZero_keeps
        assumption
    · assumption
  clear_value x13
  extract_lets +onlyGivenNames x22
  have h23 : Keeps s0 x22 := by
    unfold x22
    apply spansWrote_keeps
    assumption
  clear_value x22
  apply putRowBits_keeps
  assumption

theorem clipFrame_keeps {s0 : State} {s : Machine.State} (h1 : Keeps s0 s) {r : CmdRef} {c : Cmd} {slot : ℕ} {x : ClipAt} :
    OptAll (AtFst (Keeps s0)) (clipFrame s r c slot x) := by
  unfold clipFrame
  extract_lets +onlyGivenNames x6
  clear_value x6
  extract_lets +onlyGivenNames x7
  clear_value x7
  extract_lets +onlyGivenNames x8
  clear_value x8
  extract_lets +onlyGivenNames x9
  clear_value x9
  extract_lets +onlyGivenNames x10
  clear_value x10
  extract_lets +onlyGivenNames x11
  have h16 : ∀ (x12 : Machine.State), Keeps s0 x12 → ∀ (x13 : ClipAt) (x14 x15 : ℕ), OptAll (AtFst (Keeps s0)) (x11 x12 x13 x14 x15) := by
    intro x17 x18 x19 x20 x21
    unfold x11
    apply OptAll.some
    apply AtFst.mk
    assumption
  clear_value x11
  apply all_ite (P := OptAll (AtFst (Keeps s0)))
  · apply h16
    assumption
  · split
    · rename_i x22 x23
      exact OptAll.none
    · rename_i x24 x25 x26
      apply all_ite (P := OptAll (AtFst (Keeps s0)))
      · apply h16
        assumption
      · apply all_ite (P := OptAll (AtFst (Keeps s0)))
        · apply h16
          assumption
        · apply all_ite (P := OptAll (AtFst (Keeps s0)))
          · apply h16
            assumption
          · apply all_ite (P := OptAll (AtFst (Keeps s0)))
            · exact OptAll.none
            · apply all_ite (P := OptAll (AtFst (Keeps s0)))
              · apply h16
                assumption
              · apply all_ite (P := OptAll (AtFst (Keeps s0)))
                · apply h16
                  assumption
                · extract_lets +onlyGivenNames x27
                  clear_value x27
                  extract_lets +onlyGivenNames x28
                  clear_value x28
                  apply h16
                  apply putFrame_keeps
                  assumption

theorem resolveSlot_keeps {s0 : State} {s : Machine.State} (h1 : Keeps s0 s) {r : CmdRef} {c : Cmd} {slot : ℕ} {valid : Bool} {trunc : Bool} {cause : ℕ} {rows : ℕ} :
    Keeps s0 (resolveSlot s r c slot valid trunc cause rows) := by
  unfold resolveSlot
  extract_lets +onlyGivenNames x9
  clear_value x9
  extract_lets +onlyGivenNames x10
  clear_value x10
  extract_lets +onlyGivenNames x11
  have h12 : Keeps s0 x11 := by
    unfold x11
    apply all_ite (P := Keeps s0)
    · assumption
    · apply putBit_keeps
      assumption
  clear_value x11
  extract_lets +onlyGivenNames x13
  have h14 : Keeps s0 x13 := by
    unfold x13
    apply memPut_keeps
    assumption
  clear_value x13
  extract_lets +onlyGivenNames x15
  clear_value x15
  extract_lets +onlyGivenNames x16
  clear_value x16
  extract_lets +onlyGivenNames x17
  have h18 : Keeps s0 x17 := by
    unfold x17
    apply memPutNat_keeps
    assumption
  clear_value x17
  extract_lets +onlyGivenNames x19
  have h20 : Keeps s0 x19 := by
    unfold x19
    apply spansWrote_keeps
    assumption
  clear_value x19
  extract_lets +onlyGivenNames x21
  clear_value x21
  extract_lets +onlyGivenNames x22
  clear_value x22
  extract_lets +onlyGivenNames x23
  have h24 : Keeps s0 x23 := by
    unfold x23
    apply countHall_keeps
    assumption
  clear_value x23
  extract_lets +onlyGivenNames x25
  have h26 : Keeps s0 x25 := by
    unfold x25
    apply updJob_keeps
    assumption
  clear_value x25
  apply all_ite (P := Keeps s0)
  · extract_lets +onlyGivenNames x27
    have h28 : Keeps s0 x27 := by
      unfold x27
      apply putCounts_keeps
      assumption
    clear_value x27
    apply endCmd_keeps
    assumption
  · assumption

theorem holeSlot_keeps {s0 : State} {s : Machine.State} (h1 : Keeps s0 s) {r : CmdRef} {c : Cmd} {slot : ℕ} {cause : ℕ} :
    Keeps s0 (holeSlot s r c slot cause) := by
  unfold holeSlot
  extract_lets +onlyGivenNames x6
  clear_value x6
  extract_lets +onlyGivenNames x7
  clear_value x7
  extract_lets +onlyGivenNames x8
  have h9 : Keeps s0 x8 := by
    unfold x8
    apply memZero_keeps
    assumption
  clear_value x8
  extract_lets +onlyGivenNames x10
  have h11 : Keeps s0 x10 := by
    unfold x10
    apply all_ite (P := Keeps s0)
    · apply memPut_keeps
      assumption
    · assumption
  clear_value x10
  apply resolveSlot_keeps
  apply putRowBits_keeps
  assumption

theorem pictureSlot_keeps {s0 : State} {s : Machine.State} (h1 : Keeps s0 s) {r : CmdRef} {c : Cmd} {slot : ℕ} {src : List Byte} :
    Keeps s0 (pictureSlot s r c slot src) := by
  unfold pictureSlot
  extract_lets +onlyGivenNames x6
  clear_value x6
  extract_lets +onlyGivenNames x7
  clear_value x7
  extract_lets +onlyGivenNames x8
  clear_value x8
  apply all_ite (P := Keeps s0)
  · apply holeSlot_keeps
    assumption
  · extract_lets +onlyGivenNames x9
    clear_value x9
    apply resolveSlot_keeps
    apply padSlot_keeps
    apply putFrame_keeps
    assumption

theorem setStream_keeps {s0 : State} {s : Machine.State} (h1 : Keeps s0 s) {k : ℕ} {v : Machine.Stream} :
    Keeps s0 (setStream s k v) := by
  unfold setStream
  apply Keeps.upd
  assumption

theorem readRoi_keeps {s0 : State} {s : Machine.State} (h1 : Keeps s0 s) {h : ℕ} {b : List Byte} {e : List Byte} {x : ClipAt} :
    AtFst (Keeps s0) (readRoi s h b e x) := by
  unfold readRoi
  extract_lets +onlyGivenNames x6
  clear_value x6
  extract_lets +onlyGivenNames x7
  clear_value x7
  extract_lets +onlyGivenNames x8
  clear_value x8
  split
  rename_i x9 x10 x11 x12
  have h15 := all_of_eq (P := AtFst (Keeps s0)) x12 (by
      apply all_ite (P := AtFst (Keeps s0))
      · apply AtFst.mk
        apply setStream_keeps
        assumption
      · extract_lets +onlyGivenNames x13
        have h14 : Keeps s0 x13 := by
          unfold x13
          apply countHall_keeps
          apply raiseF_keeps
          assumption
        clear_value x13
        apply AtFst.mk
        assumption)
  extract_lets +onlyGivenNames x16
  clear_value x16
  apply AtFst.mk
  apply setStream_keeps
  assumption

theorem clipFrames_keeps {s0 : State} {r : CmdRef} {c : Cmd} {slot : ℕ} {x3 : ℕ} {x4 : Machine.State} (h5 : Keeps s0 x4) {x6 : ClipAt} :
    AtFst (Keeps s0) (clipFrames r c slot x3 x4 x6) := by
  fun_induction clipFrames
  · rename_i x7 x8
    apply AtFst.mk
    assumption
  · rename_i x9 x10 x11 x12 x13
    apply AtFst.mk
    assumption
  · rename_i x14 x15 x16 x17 x18 x19 x20
    apply AtFst.mk
    assumption
  · rename_i x21 x22 x23 x24 x25 x26 x27 x28 x29 x30 x31
    have h32 := all_of_eq (P := AtFst (Keeps s0)) x30 (by
        apply all_ite (P := AtFst (Keeps s0))
        · apply readRoi_keeps
          assumption
        · apply AtFst.mk
          assumption)
    have h33 := all_of_eq (P := OptAll (AtFst (Keeps s0))) x31 (by
        apply clipFrame_keeps
        assumption)
    apply AtFst.mk
    assumption
  · rename_i x34 x35 x36 x37 x38 x39 x40 x41 x42 x43 x44 x45 x46 x47
    have h48 := all_of_eq (P := AtFst (Keeps s0)) x43 (by
        apply all_ite (P := AtFst (Keeps s0))
        · apply readRoi_keeps
          assumption
        · apply AtFst.mk
          assumption)
    have h49 := all_of_eq (P := OptAll (AtFst (Keeps s0))) x46 (by
        apply clipFrame_keeps
        assumption)
    have h49a := h49.get
    apply x47
    assumption

theorem clipSlot_keeps {s0 : State} {s : Machine.State} (h1 : Keeps s0 s) {r : CmdRef} {c : Cmd} {slot : ℕ} :
    Keeps s0 (clipSlot s r c slot) := by
  unfold clipSlot
  extract_lets +onlyGivenNames x5
  clear_value x5
  extract_lets +onlyGivenNames x6
  clear_value x6
  split
  rename_i x7 x8 x9 x10
  have h11 := all_of_eq (P := AtFst (Keeps s0)) x10 (by
      apply clipFrames_keeps
      assumption)
  apply all_ite (P := Keeps s0)
  · apply updJob_keeps
    assumption
  · extract_lets +onlyGivenNames x12
    clear_value x12
    apply all_ite (P := Keeps s0)
    · apply holeSlot_keeps
      assumption
    · apply resolveSlot_keeps
      apply padSlot_keeps
      assumption

theorem takeSlots_keeps {s0 : State} {s : Machine.State} (h1 : Keeps s0 s) {c : Cmd} {slot : ℕ} :
    Keeps s0 (takeSlots s c slot) := by
  unfold takeSlots
  apply all_ite (P := Keeps s0)
  · assumption
  · extract_lets +onlyGivenNames x4
    clear_value x4
    apply all_foldl (P := Keeps s0)
    · intro x5 x6 x7
      extract_lets +onlyGivenNames x8
      clear_value x8
      apply all_ite (P := Keeps s0)
      · assumption
      · apply updJob_keeps
        assumption
    · assumption

theorem textSlot_keeps {s0 : State} {s : Machine.State} (h1 : Keeps s0 s) {r : CmdRef} {c : Cmd} {slot : ℕ} {src : List Byte} :
    Keeps s0 (textSlot s r c slot src) := by
  unfold textSlot
  extract_lets +onlyGivenNames x6
  clear_value x6
  extract_lets +onlyGivenNames x7
  clear_value x7
  apply all_ite (P := Keeps s0)
  · apply holeSlot_keeps
    assumption
  · split
    rename_i x8 x9 x10 x11
    extract_lets +onlyGivenNames x12
    have h13 : Keeps s0 x12 := by
      unfold x12
      apply countHall_keeps
      apply countHall_keeps
      assumption
    clear_value x12
    extract_lets +onlyGivenNames x14
    have h15 : Keeps s0 x14 := by
      unfold x14
      apply all_ite (P := Keeps s0)
      · assumption
      · apply raiseF_keeps
        assumption
    clear_value x14
    apply all_ite (P := Keeps s0)
    · apply holeSlot_keeps
      assumption
    · extract_lets +onlyGivenNames x16
      clear_value x16
      extract_lets +onlyGivenNames x17
      have h18 : Keeps s0 x17 := by
        unfold x17
        apply memZero_keeps
        assumption
      clear_value x17
      extract_lets +onlyGivenNames x19
      have h20 : Keeps s0 x19 := by
        unfold x19
        apply memPut_keeps
        assumption
      clear_value x19
      apply resolveSlot_keeps
      apply putRowBits_keeps
      assumption

theorem sourceSlot_keeps {s0 : State} {s : Machine.State} (h1 : Keeps s0 s) {r : CmdRef} {c : Cmd} {slot : ℕ} {err : Option ReadErr} :
    Keeps s0 (sourceSlot s r c slot err) := by
  unfold sourceSlot
  extract_lets +onlyGivenNames x6
  clear_value x6
  extract_lets +onlyGivenNames x7
  clear_value x7
  extract_lets +onlyGivenNames x8
  clear_value x8
  split
  · rename_i x9
    assumption
  · rename_i x10 x11 x12
    apply holeSlot_keeps
    apply noteErr_keeps
    assumption
  · rename_i x13 x14
    extract_lets +onlyGivenNames x15
    clear_value x15
    apply all_ite (P := Keeps s0)
    · apply holeSlot_keeps
      assumption
    · apply all_ite (P := Keeps s0)
      · apply textSlot_keeps
        assumption
      · apply pictureSlot_keeps
        assumption

theorem execSlotResolve_keeps {s0 : State} {r : CmdRef} {slot : ℕ} {err : Option ReadErr} {s : Machine.State} (h4 : Keeps s0 s) :
    OutKeeps s0 (execSlotResolve r slot err s) := by
  unfold execSlotResolve
  apply guardUnit_keeps
  split
  · rename_i x5 x6
    apply OutKeeps.next
    assumption
  · rename_i x7 x8 x9
    apply all_ite (P := OutKeeps s0)
    · apply OutKeeps.next
      assumption
    · extract_lets +onlyGivenNames x10
      have h11 : Keeps s0 x10 := by
        unfold x10
        apply takeSlots_keeps
        assumption
      clear_value x10
      split
      · rename_i x12 x13
        apply OutKeeps.next
        assumption
      · rename_i x14 x15 x16 x17
        apply OutKeeps.next
        apply failCmd_keeps
        assumption
      · rename_i x18 x19
        apply OutKeeps.next
        apply all_ite (P := Keeps s0)
        · apply clipSlot_keeps
          assumption
        · apply sourceSlot_keeps
          assumption

/-! ## Frieze -/

theorem dropPictures_keeps {s0 : State} {s : Machine.State} (h1 : Keeps s0 s) {r : CmdRef} {k : ℕ} :
    Keeps s0 (dropPictures s r k) := by
  unfold dropPictures
  extract_lets +onlyGivenNames x4
  clear_value x4
  extract_lets +onlyGivenNames x5
  have h6 : Keeps s0 x5 := by
    unfold x5
    apply setStream_keeps
    assumption
  clear_value x5
  apply Keeps.upd
  assumption

theorem abortData_keeps {s0 : State} {s : Machine.State} (h1 : Keeps s0 s) {r : CmdRef} {c : Cmd} :
    Keeps s0 (abortData s r c) := by
  unfold abortData
  extract_lets +onlyGivenNames x4
  clear_value x4
  apply all_ite (P := Keeps s0)
  · assumption
  · extract_lets +onlyGivenNames x5
    have h6 : Keeps s0 x5 := by
      unfold x5
      apply dropPictures_keeps
      assumption
    clear_value x5
    apply setStream_keeps
    assumption

theorem execEncodePicture_keeps {s0 : State} {r : CmdRef} {err : Option ReadErr} {s : Machine.State} (h3 : Keeps s0 s) :
    OutKeeps s0 (execEncodePicture r err s) := by
  unfold execEncodePicture
  apply guardUnit_keeps
  apply dispatch_keeps
  · assumption
  · intro x4 x5 x6
    extract_lets +onlyGivenNames x7
    clear_value x7
    extract_lets +onlyGivenNames x8
    clear_value x8
    extract_lets +onlyGivenNames x9
    clear_value x9
    extract_lets +onlyGivenNames x10
    clear_value x10
    extract_lets +onlyGivenNames x11
    clear_value x11
    apply need_keeps
    extract_lets +onlyGivenNames x12
    clear_value x12
    apply all_ite (P := DispKeeps s0)
    · exact DispKeeps.gone
    · apply readOk_keeps
      · assumption
      · apply readOk_keeps
        · assumption
        · extract_lets +onlyGivenNames x13
          clear_value x13
          extract_lets +onlyGivenNames x14
          clear_value x14
          apply need_keeps
          extract_lets +onlyGivenNames x15
          have h16 : Keeps s0 x15 := by
            unfold x15
            apply all_ite (P := Keeps s0)
            · apply countHall_keeps
              assumption
            · assumption
          clear_value x15
          extract_lets +onlyGivenNames x17
          have h18 : Keeps s0 x17 := by
            unfold x17
            apply setStream_keeps
            assumption
          clear_value x17
          apply DispKeeps.go
          apply updJob_keeps
          assumption

theorem execFrzRelease_keeps {s0 : State} {r : CmdRef} {s : Machine.State} (h2 : Keeps s0 s) :
    OutKeeps s0 (execFrzRelease r s) := by
  unfold execFrzRelease
  apply guardUnit_keeps
  apply dispatch_keeps
  · assumption
  · intro x3 x4 x5
    extract_lets +onlyGivenNames x6
    clear_value x6
    apply need_keeps
    apply DispKeeps.go
    apply succeed_keeps
    apply setStream_keeps
    assumption

theorem execOutReadWrite_keeps {s0 : State} {v : Word} {s : Machine.State} (h2 : Keeps s0 s) :
    OutKeeps s0 (execOutReadWrite v s) := by
  unfold execOutReadWrite
  apply whileServed_keeps
  · assumption
  · extract_lets +onlyGivenNames x3
    clear_value x3
    apply OutKeeps.next
    apply all_ite (P := Keeps s0)
    · assumption
    · apply setStream_keeps
      assumption

theorem execPipePictureStart_keeps {s0 : State} {pipe : ℕ} {s : Machine.State} (h2 : Keeps s0 s) :
    OutKeeps s0 (execPipePictureStart pipe s) := by
  unfold execPipePictureStart
  apply guardUnit_keeps
  extract_lets +onlyGivenNames x3
  apply all_ite (P := OutKeeps s0)
  · apply OutKeeps.next
    assumption
  · split
    · rename_i x4 x5
      apply OutKeeps.next
      assumption
    · rename_i x6 x7 x8 x9 x10 x11 x12
      extract_lets +onlyGivenNames x13
      clear_value x13
      extract_lets +onlyGivenNames x14
      clear_value x14
      extract_lets +onlyGivenNames x15
      have h16 : Keeps s0 x15 := by
        unfold x15
        apply setStream_keeps
        assumption
      clear_value x15
      apply OutKeeps.next
      apply Keeps.upd
      assumption

theorem execStreamData_keeps {s0 : State} {r : CmdRef} {pics : List ℕ} {err : Option ReadErr} {s : Machine.State} (h4 : Keeps s0 s) :
    OutKeeps s0 (execStreamData r pics err s) := by
  unfold execStreamData
  apply guardUnit_keeps
  apply dispatch_keeps
  · assumption
  · intro x5 x6 x7
    extract_lets +onlyGivenNames x8
    clear_value x8
    extract_lets +onlyGivenNames x9
    clear_value x9
    extract_lets +onlyGivenNames x10
    clear_value x10
    apply need_keeps
    apply all_ite (P := DispKeeps s0)
    · exact DispKeeps.gone
    · apply readOk_keeps
      · assumption
      · apply need_keeps
        extract_lets +onlyGivenNames x11
        clear_value x11
        extract_lets +onlyGivenNames x12
        clear_value x12
        extract_lets +onlyGivenNames x13
        have h14 : Keeps s0 x13 := by
          unfold x13
          apply setStream_keeps
          assumption
        clear_value x13
        extract_lets +onlyGivenNames x15
        have h16 : Keeps s0 x15 := by
          unfold x15
          apply updJob_keeps
          assumption
        clear_value x15
        apply DispKeeps.go
        apply all_ite (P := Keeps s0)
        · apply succeed_keeps
          assumption
        · assumption

theorem execStreamOpen_keeps {s0 : State} {r : CmdRef} {err : Option ReadErr} {s : Machine.State} (h3 : Keeps s0 s) :
    OutKeeps s0 (execStreamOpen r err s) := by
  unfold execStreamOpen
  apply guardUnit_keeps
  apply dispatch_keeps
  · assumption
  · intro x4 x5 x6
    extract_lets +onlyGivenNames x7
    clear_value x7
    extract_lets +onlyGivenNames x8
    clear_value x8
    apply all_ite (P := DispKeeps s0)
    · exact DispKeeps.gone
    · apply readOk_keeps
      · assumption
      · extract_lets +onlyGivenNames x9
        clear_value x9
        apply need_keeps
        apply need_keeps
        apply all_ite (P := DispKeeps s0)
        · exact DispKeeps.gone
        · apply need_keeps
          apply need_keeps
          apply need_keeps
          extract_lets +onlyGivenNames x10
          clear_value x10
          apply DispKeeps.go
          apply succeed_keeps
          apply setStream_keeps
          assumption

theorem freePipe_keeps {s0 : State} {s : Machine.State} (h1 : Keeps s0 s) {pipe : ℕ} :
    Keeps s0 (freePipe s pipe) := by
  unfold freePipe
  apply Keeps.upd
  assumption

theorem freeStream_keeps {s0 : State} {s : Machine.State} (h1 : Keeps s0 s) {k : ℕ} :
    Keeps s0 (freeStream s k) := by
  unfold freeStream
  extract_lets +onlyGivenNames x3
  have h4 : Keeps s0 x3 := by
    unfold x3
    apply all_foldl (P := Keeps s0)
    · intro x5 x6 x7
      apply all_foldl (P := Keeps s0)
      · intro x8 x9 x10
        apply all_ite (P := Keeps s0)
        · extract_lets +onlyGivenNames x11
          clear_value x11
          apply updJob_keeps
          assumption
        · assumption
      · assumption
    · assumption
  clear_value x3
  apply Keeps.upd
  assumption

theorem closeSettle_keeps {s0 : State} {s : Machine.State} (h1 : Keeps s0 s) {k : ℕ} :
    Keeps s0 (closeSettle s k) := by
  unfold closeSettle
  apply all_ite (P := Keeps s0)
  · assumption
  · extract_lets +onlyGivenNames x3
    clear_value x3
    apply all_foldl (P := Keeps s0)
    · intro x4 x5 x6
      apply all_ite (P := Keeps s0)
      · apply succeed_keeps
        assumption
      · assumption
    · apply freeStream_keeps
      assumption

theorem execStreamClose_keeps {s0 : State} {r : CmdRef} {s : Machine.State} (h2 : Keeps s0 s) :
    OutKeeps s0 (execStreamClose r s) := by
  unfold execStreamClose
  apply guardUnit_keeps
  apply dispatch_keeps
  · assumption
  · intro x3 x4 x5
    extract_lets +onlyGivenNames x6
    clear_value x6
    extract_lets +onlyGivenNames x7
    clear_value x7
    apply need_keeps
    apply DispKeeps.go
    apply closeSettle_keeps
    apply setStream_keeps
    assumption

theorem outFull_keeps {s0 : State} {s : Machine.State} (h1 : Keeps s0 s) :
    Keeps s0 (outFull s) := by
  unfold outFull
  apply raiseF_keeps
  assumption

theorem picRecorded_keeps {s0 : State} {s : Machine.State} (h1 : Keeps s0 s) {r : CmdRef} {p : ℕ} :
    Keeps s0 (picRecorded s r p) := by
  unfold picRecorded
  extract_lets +onlyGivenNames x4
  have h5 : Keeps s0 x4 := by
    unfold x4
    apply updJob_keeps
    assumption
  clear_value x4
  split
  · rename_i x6 x7 x8
    apply all_ite (P := Keeps s0)
    · apply succeed_keeps
      assumption
    · assumption
  · rename_i x9 x10
    assumption

theorem pipeWrites_keeps {s0 : State} {s : Machine.State} (h1 : Keeps s0 s) {x : Pipe} {spans : List (ℕ × ℕ)} {go : Machine.State} (h5 : Keeps s0 go) :
    Keeps s0 (pipeWrites s x spans go) := by
  unfold pipeWrites
  split
  · rename_i x6 x7
    assumption
  · rename_i x8 x9
    assumption
  · rename_i x10 x11 x12 x13
    extract_lets +onlyGivenNames x14
    have h15 : Keeps s0 x14 := by
      unfold x14
      apply dropPictures_keeps
      apply failCmd_keeps
      assumption
    clear_value x14
    extract_lets +onlyGivenNames x16
    clear_value x16
    apply setStream_keeps
    assumption

theorem putOut_keeps {s0 : State} {s : Machine.State} (h1 : Keeps s0 s) {k : ℕ} {bs : List Byte} :
    Keeps s0 (putOut s k bs) := by
  unfold putOut
  extract_lets +onlyGivenNames x4
  clear_value x4
  extract_lets +onlyGivenNames x5
  clear_value x5
  extract_lets +onlyGivenNames x6
  clear_value x6
  extract_lets +onlyGivenNames x7
  have h8 : Keeps s0 x7 := by
    unfold x7
    apply store_keeps
    assumption
  clear_value x7
  extract_lets +onlyGivenNames x9
  have h10 : Keeps s0 x9 := by
    unfold x9
    apply all_ite (P := Keeps s0)
    · apply store_keeps
      assumption
    · assumption
  clear_value x9
  apply setStream_keeps
  assumption

theorem execEncodeSliceDone_keeps {s0 : State} {pipe : ℕ} {bytes : List Byte} {s : Machine.State} (h3 : Keeps s0 s) :
    OutKeeps s0 (execEncodeSliceDone pipe bytes s) := by
  unfold execEncodeSliceDone
  apply guardUnit_keeps
  split
  · rename_i x4 x5
    apply OutKeeps.next
    assumption
  · rename_i x6 x7 x8
    extract_lets +onlyGivenNames x9
    clear_value x9
    split
    rename_i x10 x11 x12 x13
    extract_lets +onlyGivenNames x14
    clear_value x14
    extract_lets +onlyGivenNames x15
    clear_value x15
    apply all_ite (P := OutKeeps s0)
    · apply OutKeeps.next
      assumption
    · extract_lets +onlyGivenNames x16
      clear_value x16
      extract_lets +onlyGivenNames x17
      have h20 : ∀ (x18 : Pipe) (x19 : Machine.State), Keeps s0 x19 → Keeps s0 (x17 x18 x19) := by
        intro x21 x22 x23
        unfold x17
        apply Keeps.upd
        assumption
      clear_value x17
      apply all_ite (P := OutKeeps s0)
      · apply OutKeeps.next
        apply h20
        assumption
      · apply all_ite (P := OutKeeps s0)
        · apply OutKeeps.next
          apply outFull_keeps
          assumption
        · apply OutKeeps.next
          apply pipeWrites_keeps
          · assumption
          · apply h20
            apply putOut_keeps
            assumption

theorem putPicture_keeps {s0 : State} {s : Machine.State} (h1 : Keeps s0 s) {a : ℕ} {p : DecPic} {boxes : List (ℕ × ℕ × ℕ × ℕ)} :
    Keeps s0 (putPicture s a p boxes) := by
  unfold putPicture
  extract_lets +onlyGivenNames x5
  clear_value x5
  extract_lets +onlyGivenNames x6
  clear_value x6
  extract_lets +onlyGivenNames x7
  clear_value x7
  extract_lets +onlyGivenNames x8
  clear_value x8
  apply all_ite (P := Keeps s0)
  · apply store_keeps
    assumption
  · extract_lets +onlyGivenNames x9
    clear_value x9
    extract_lets +onlyGivenNames x10
    clear_value x10
    extract_lets +onlyGivenNames x11
    clear_value x11
    extract_lets +onlyGivenNames x12
    extract_lets +onlyGivenNames x13
    clear_value x13
    apply store_keeps
    apply Keeps.updAll
    · assumption
    · exact id
    · exact id
    · exact Nat.le_add_right _ _

theorem putRec_keeps {s0 : State} {s : Machine.State} (h1 : Keeps s0 s) {k : ℕ} {bs : List Byte} :
    Keeps s0 (putRec s k bs) := by
  unfold putRec
  extract_lets +onlyGivenNames x4
  clear_value x4
  extract_lets +onlyGivenNames x5
  have h6 : Keeps s0 x5 := by
    unfold x5
    apply store_keeps
    assumption
  clear_value x5
  apply setStream_keeps
  assumption

theorem abortEncode_keeps {s0 : State} {s : Machine.State} (h1 : Keeps s0 s) {r : CmdRef} {c : Cmd} :
    Keeps s0 (abortEncode s r c) := by
  unfold abortEncode
  extract_lets +onlyGivenNames x4
  clear_value x4
  extract_lets +onlyGivenNames x5
  clear_value x5
  apply all_ite (P := Keeps s0)
  · assumption
  · extract_lets +onlyGivenNames x6
    clear_value x6
    extract_lets +onlyGivenNames x7
    clear_value x7
    split
    rename_i x8 x9 x10 x11 x12
    split
    · rename_i x13
      assumption
    · rename_i x14 x15
      extract_lets +onlyGivenNames x16
      have h17 : Keeps s0 x16 := by
        unfold x16
        apply dropPictures_keeps
        assumption
      clear_value x16
      extract_lets +onlyGivenNames x18
      clear_value x18
      extract_lets +onlyGivenNames x19
      clear_value x19
      extract_lets +onlyGivenNames x20
      have h21 : Keeps s0 x20 := by
        unfold x20
        apply setStream_keeps
        assumption
      clear_value x20
      apply putRec_keeps
      assumption

theorem execDecodePictureDone_keeps {s0 : State} {pipe : ℕ} {p : DecPic} {s : Machine.State} (h3 : Keeps s0 s) :
    OutKeeps s0 (execDecodePictureDone pipe p s) := by
  unfold execDecodePictureDone
  apply guardUnit_keeps
  split
  · rename_i x4 x5
    apply OutKeeps.next
    assumption
  · rename_i x6 x7 x8
    extract_lets +onlyGivenNames x9
    clear_value x9
    extract_lets +onlyGivenNames x10
    clear_value x10
    split
    rename_i x11 x12 x13 x14
    apply all_ite (P := OutKeeps s0)
    · apply OutKeeps.next
      assumption
    · extract_lets +onlyGivenNames x15
      clear_value x15
      apply OutKeeps.next
      apply pipeWrites_keeps
      · assumption
      · extract_lets +onlyGivenNames x16
        clear_value x16
        extract_lets +onlyGivenNames x17
        have h18 : Keeps s0 x17 := by
          unfold x17
          apply all_ite (P := Keeps s0)
          · apply countHall_keeps
            apply raiseF_keeps
            assumption
          · assumption
        clear_value x17
        extract_lets +onlyGivenNames x19
        clear_value x19
        extract_lets +onlyGivenNames x20
        have h21 : Keeps s0 x20 := by
          unfold x20
          apply all_ite (P := Keeps s0)
          · assumption
          · apply countHall_keeps
            apply raiseF_keeps
            assumption
        clear_value x20
        extract_lets +onlyGivenNames x22
        have h23 : Keeps s0 x22 := by
          unfold x22
          apply all_ite (P := Keeps s0)
          · apply countHall_keeps
            apply raiseF_keeps
            assumption
          · assumption
        clear_value x22
        extract_lets +onlyGivenNames x24
        clear_value x24
        extract_lets +onlyGivenNames x25
        clear_value x25
        extract_lets +onlyGivenNames x26
        have h27 : Keeps s0 x26 := by
          unfold x26
          apply all_ite (P := Keeps s0)
          · apply putPicture_keeps
            assumption
          · assumption
        clear_value x26
        extract_lets +onlyGivenNames x28
        clear_value x28
        extract_lets +onlyGivenNames x29
        have h30 : Keeps s0 x29 := by
          unfold x29
          apply putRec_keeps
          apply setStream_keeps
          assumption
        clear_value x29
        apply picRecorded_keeps
        apply freePipe_keeps
        assumption

theorem execEncodePictureDone_keeps {s0 : State} {pipe : ℕ} {floorRows : ℕ} {qpAvg : ℕ} {cycles : ℕ} {filler : List Byte} {s : Machine.State} (h6 : Keeps s0 s) :
    OutKeeps s0 (execEncodePictureDone pipe floorRows qpAvg cycles filler s) := by
  unfold execEncodePictureDone
  apply guardUnit_keeps
  split
  · rename_i x7 x8
    apply OutKeeps.next
    assumption
  · rename_i x9 x10 x11
    extract_lets +onlyGivenNames x12
    clear_value x12
    split
    rename_i x13 x14 x15 x16
    extract_lets +onlyGivenNames x17
    clear_value x17
    apply all_ite (P := OutKeeps s0)
    · apply OutKeeps.next
      assumption
    · apply all_ite (P := OutKeeps s0)
      · apply OutKeeps.next
        apply outFull_keeps
        assumption
      · apply OutKeeps.next
        apply pipeWrites_keeps
        · assumption
        · extract_lets +onlyGivenNames x18
          extract_lets +onlyGivenNames x19
          have h20 : Keeps s0 x19 := by
            unfold x19
            apply all_ite (P := Keeps s0)
            · apply countHall_keeps
              apply raiseF_keeps
              assumption
            · assumption
          clear_value x19
          extract_lets +onlyGivenNames x21
          have h22 : Keeps s0 x21 := by
            unfold x21
            apply putOut_keeps
            assumption
          clear_value x21
          extract_lets +onlyGivenNames x23
          have h24 : Keeps s0 x23 := by
            unfold x23
            apply setStream_keeps
            assumption
          clear_value x23
          extract_lets +onlyGivenNames x25
          have h26 : Keeps s0 x25 := by
            unfold x25
            apply putRec_keeps
            assumption
          clear_value x25
          apply picRecorded_keeps
          apply freePipe_keeps
          assumption

/-! ## Cache -/

theorem appendGo_keeps {s0 : State} {r : CmdRef} {m : Move} {s : Machine.State} (h3 : Keeps s0 s) {c : Cmd} :
    Keeps s0 (appendGo r m s c) := by
  unfold appendGo
  split
  · rename_i x5 x6
    assumption
  · rename_i x7 x8 x9 x10
    extract_lets +onlyGivenNames x11
    clear_value x11
    extract_lets +onlyGivenNames x12
    have h15 : ∀ (x13 : ℕ) (x14 : Machine.State), Keeps s0 x14 → ExcAll (Keeps s0) (x12 x13 x14) := by
      intro x16 x17 x18
      unfold x12
      split
      rename_i x19 x20 x21 x22
      apply all_ite (P := ExcAll (Keeps s0))
      · exact ExcAll.error
      · split
        · rename_i x23 x24 x25 x26 x27 x28
          apply ExcAll.ok
          apply storeCopy_keeps
          assumption
        · rename_i x29 x30 x31 x32
          exact ExcAll.error
        · rename_i x33 x34 x35 x36 x37
          exact ExcAll.error
    clear_value x12
    apply moveRun_keeps
    · assumption
    · intro x38 x39 x40
      apply h15
      assumption
    · intro x41 x42
      apply succeed_keeps
      apply memPutNat_keeps
      assumption
    · intro x43 x44
      unfold id
      assumption

theorem execSeqAppendCopy_keeps {s0 : State} {r : CmdRef} {m : Move} {s : Machine.State} (h3 : Keeps s0 s) :
    OutKeeps s0 (execSeqAppendCopy r m s) := by
  unfold execSeqAppendCopy
  apply moveCmd_keeps
  · assumption
  · intro x4 x5 x6
    extract_lets +onlyGivenNames x7
    clear_value x7
    apply waitWhile_keeps
    split
    · rename_i x8 x9 x10 x11
      exact DispKeeps.stop
    · rename_i x12 x13 x14 x15
      exact DispKeeps.stop
    · rename_i x16 x17 x18 x19 x20 x21
      apply all_ite (P := DispKeeps s0)
      · exact DispKeeps.gone
      · extract_lets +onlyGivenNames x22
        clear_value x22
        apply reachGate_keeps
        · assumption
        · extract_lets +onlyGivenNames x23
          have h24 : Keeps s0 x23 := by
            unfold x23
            apply resolveAppend_keeps
            assumption
          clear_value x23
          apply DispKeeps.go
          apply updJob_keeps
          assumption
  · intro x25 x26 x27
    apply appendGo_keeps
    assumption

theorem forkLayer_keeps {s0 : State} {c : CacheRec} {child : ℕ} {parent : ℕ} {len : ℕ} {s : Machine.State} (h5 : Keeps s0 s) {l : ℕ} :
    Keeps s0 (forkLayer c child parent len s l) := by
  unfold forkLayer
  extract_lets +onlyGivenNames x7
  have h8 : Keeps s0 x7 := by
    unfold x7
    apply memPutNat_keeps
    assumption
  clear_value x7
  apply all_foldl (P := Keeps s0)
  · intro x9 x10 x11
    extract_lets +onlyGivenNames x12
    clear_value x12
    extract_lets +onlyGivenNames x13
    have h14 : Keeps s0 x13 := by
      unfold x13
      apply memPutNat_keeps
      assumption
    clear_value x13
    apply all_ite (P := Keeps s0)
    · assumption
    · apply setRefs_keeps
      assumption
  · assumption

theorem openSeq_keeps {s0 : State} {s : Machine.State} (h1 : Keeps s0 s) {c : CacheRec} {n : ℕ} {pt : ℕ} {pages : ℕ} {tag : ℕ} :
    Keeps s0 (openSeq s c n pt pages tag) := by
  unfold openSeq
  extract_lets +onlyGivenNames x7
  clear_value x7
  extract_lets +onlyGivenNames x8
  have h9 : Keeps s0 x8 := by
    unfold x8
    apply memPutNat_keeps
    assumption
  clear_value x8
  extract_lets +onlyGivenNames x10
  have h11 : Keeps s0 x10 := by
    unfold x10
    apply memPutNat_keeps
    assumption
  clear_value x10
  extract_lets +onlyGivenNames x12
  have h13 : Keeps s0 x12 := by
    unfold x12
    apply memPutNat_keeps
    assumption
  clear_value x12
  extract_lets +onlyGivenNames x14
  have h15 : Keeps s0 x14 := by
    unfold x14
    apply memPutNat_keeps
    assumption
  clear_value x14
  apply all_foldl (P := Keeps s0)
  · intro x16 x17 x18
    apply memPut_keeps
    assumption
  · assumption

theorem seqCmd_keeps {s0 : State} {s : Machine.State} (h1 : Keeps s0 s) {h : ℕ} {us : List (ℕ × ℕ)} {k : ℕ → CacheRec → Disp} (h5 : ∀ (x6 : ℕ) (x7 : CacheRec), DispKeeps s0 (k x6 x7)) :
    DispKeeps s0 (seqCmd s h us k) := by
  unfold seqCmd
  apply waitWhile_keeps
  split
  · rename_i x8 x9
    exact DispKeeps.stop
  · rename_i x10 x11 x12 x13
    apply h5

theorem execSeqFork_keeps {s0 : State} {r : CmdRef} {err : Option ReadErr} {s : Machine.State} (h3 : Keeps s0 s) :
    OutKeeps s0 (execSeqFork r err s) := by
  unfold execSeqFork
  apply guardUnit_keeps
  apply dispatch_keeps
  · assumption
  · intro x4 x5 x6
    apply seqCmd_keeps
    · assumption
    · intro x7 x8
      extract_lets +onlyGivenNames x9
      clear_value x9
      extract_lets +onlyGivenNames x10
      clear_value x10
      extract_lets +onlyGivenNames x11
      clear_value x11
      extract_lets +onlyGivenNames x12
      clear_value x12
      apply readOk_keeps
      · assumption
      · apply need_keeps
        apply need_keeps
        apply need_keeps
        apply all_ite (P := DispKeeps s0)
        · exact DispKeeps.gone
        · apply reachGate_keeps
          · assumption
          · extract_lets +onlyGivenNames x13
            have h14 : Keeps s0 x13 := by
              unfold x13
              apply openSeq_keeps
              assumption
            clear_value x13
            apply DispKeeps.go
            apply succeed_keeps
            apply all_foldl (P := Keeps s0)
            · intro x15 x16 x17
              apply forkLayer_keeps
              assumption
            · assumption

theorem execSeqOpen_keeps {s0 : State} {r : CmdRef} {err : Option ReadErr} {s : Machine.State} (h3 : Keeps s0 s) :
    OutKeeps s0 (execSeqOpen r err s) := by
  unfold execSeqOpen
  apply guardUnit_keeps
  apply dispatch_keeps
  · assumption
  · intro x4 x5 x6
    apply seqCmd_keeps
    · assumption
    · intro x7 x8
      extract_lets +onlyGivenNames x9
      clear_value x9
      extract_lets +onlyGivenNames x10
      clear_value x10
      apply readOk_keeps
      · assumption
      · apply need_keeps
        apply need_keeps
        apply all_ite (P := DispKeeps s0)
        · exact DispKeeps.gone
        · apply reachGate_keeps
          · assumption
          · apply DispKeeps.go
            apply succeed_keeps
            apply openSeq_keeps
            assumption

theorem execSeqRelease_keeps {s0 : State} {r : CmdRef} {err : Option ReadErr} {s : Machine.State} (h3 : Keeps s0 s) :
    OutKeeps s0 (execSeqRelease r err s) := by
  unfold execSeqRelease
  apply guardUnit_keeps
  apply dispatch_keeps
  · assumption
  · intro x4 x5 x6
    apply seqCmd_keeps
    · assumption
    · intro x7 x8
      extract_lets +onlyGivenNames x9
      clear_value x9
      apply readOk_keeps
      · assumption
      · apply need_keeps
        extract_lets +onlyGivenNames x10
        have h11 : Keeps s0 x10 := by
          unfold x10
          apply all_foldl (P := Keeps s0)
          · intro x12 x13 x14
            apply releasePages_keeps
            assumption
          · assumption
        clear_value x10
        apply DispKeeps.go
        apply succeed_keeps
        apply memPutNat_keeps
        assumption

theorem execSeqTrim_keeps {s0 : State} {r : CmdRef} {err : Option ReadErr} {s : Machine.State} (h3 : Keeps s0 s) :
    OutKeeps s0 (execSeqTrim r err s) := by
  unfold execSeqTrim
  apply guardUnit_keeps
  apply dispatch_keeps
  · assumption
  · intro x4 x5 x6
    apply seqCmd_keeps
    · assumption
    · intro x7 x8
      extract_lets +onlyGivenNames x9
      clear_value x9
      extract_lets +onlyGivenNames x10
      clear_value x10
      apply readOk_keeps
      · assumption
      · apply need_keeps
        extract_lets +onlyGivenNames x11
        clear_value x11
        extract_lets +onlyGivenNames x12
        have h13 : Keeps s0 x12 := by
          unfold x12
          apply all_foldl (P := Keeps s0)
          · intro x14 x15 x16
            extract_lets +onlyGivenNames x17
            have h18 : Keeps s0 x17 := by
              unfold x17
              apply all_ite (P := Keeps s0)
              · apply memPutNat_keeps
                assumption
              · assumption
            clear_value x17
            apply releasePages_keeps
            assumption
          · assumption
        clear_value x12
        apply DispKeeps.go
        apply succeed_keeps
        assumption

theorem setupCache_keeps {s0 : State} {s : Machine.State} (h1 : Keeps s0 s) {h : ℕ} {a : ℕ} {c : CacheRec} :
    Keeps s0 (setupCache s h a c) := by
  unfold setupCache
  extract_lets +onlyGivenNames x5
  have h6 : Keeps s0 x5 := by
    unfold x5
    apply Keeps.updAll
    · assumption
    · exact fun w => fmWfFrom_filter _ _ _ w
    · exact id
    · exact le_refl _
  clear_value x5
  extract_lets +onlyGivenNames x7
  have h8 : Keeps s0 x7 := by
    unfold x7
    apply memPut_keeps
    assumption
  clear_value x7
  extract_lets +onlyGivenNames x9
  have h10 : Keeps s0 x9 := by
    unfold x9
    apply memPutNat_keeps
    assumption
  clear_value x9
  extract_lets +onlyGivenNames x11
  have h12 : Keeps s0 x11 := by
    unfold x11
    apply memPutNat_keeps
    assumption
  clear_value x11
  extract_lets +onlyGivenNames x13
  have h14 : Keeps s0 x13 := by
    unfold x13
    apply memPutNat_keeps
    assumption
  clear_value x13
  apply setH_keeps
  assumption

theorem execCacheSetup_keeps {s0 : State} {r : CmdRef} {err : Option ReadErr} {s : Machine.State} (h3 : Keeps s0 s) :
    OutKeeps s0 (execCacheSetup r err s) := by
  unfold execCacheSetup
  apply guardUnit_keeps
  apply dispatch_keeps
  · assumption
  · intro x4 x5 x6
    extract_lets +onlyGivenNames x7
    clear_value x7
    apply all_ite (P := DispKeeps s0)
    · exact DispKeeps.gone
    · apply readOk_keeps
      · assumption
      · extract_lets +onlyGivenNames x8
        clear_value x8
        extract_lets +onlyGivenNames x9
        clear_value x9
        apply need_keeps
        apply need_keeps
        apply need_keeps
        apply need_keeps
        apply waitWhile_keeps
        apply reachGate_keeps
        · assumption
        · apply DispKeeps.go
          apply succeed_keeps
          apply setupCache_keeps
          assumption

/-! ## Offload -/

theorem openHandle_keeps {s0 : State} {s : Machine.State} (h1 : Keeps s0 s) {r : CmdRef} {c : Cmd} :
    Keeps s0 (openHandle s r c) := by
  unfold openHandle
  extract_lets +onlyGivenNames x4
  clear_value x4
  extract_lets +onlyGivenNames x5
  clear_value x5
  extract_lets +onlyGivenNames x6
  have h7 : Keeps s0 x6 := by
    unfold x6
    apply setH_keeps
    assumption
  clear_value x6
  apply memPut_keeps
  assumption

theorem prefetchFail_keeps {s0 : State} {s : Machine.State} (h1 : Keeps s0 s) {r : CmdRef} {code : ℕ} {i : ℕ} {w : ℕ} :
    Keeps s0 (prefetchFail s r code i w) := by
  unfold prefetchFail
  apply endCmd_keeps
  assumption

theorem prefetchSettle_keeps {s0 : State} {r : CmdRef} {p0 : ℕ} {s : Machine.State} (h3 : Keeps s0 s) :
    Keeps s0 (prefetchSettle r p0 s) := by
  unfold prefetchSettle
  split
  · rename_i x4 x5 x6
    split
    · rename_i x7 x8 x9 x10
      apply all_ite (P := Keeps s0)
      · apply prefetchFail_keeps
        assumption
      · assumption
    · rename_i x11 x12
      assumption
  · rename_i x13 x14
    assumption

theorem prefetchBad_keeps {s0 : State} {s : Machine.State} (h1 : Keeps s0 s) {r : CmdRef} {p0 : ℕ} {page : ℕ} {code : ℕ} :
    Keeps s0 (prefetchBad s r p0 page code) := by
  unfold prefetchBad
  apply prefetchSettle_keeps
  apply updJob_keeps
  assumption

theorem sealPage_keeps {s0 : State} {s : Machine.State} (h1 : Keeps s0 s) {hd : ℕ} {i : ℕ} {bytes : List Byte} :
    Keeps s0 (sealPage s hd i bytes) := by
  unfold sealPage
  apply store_keeps
  assumption

theorem sealUnit_keeps {s0 : State} {s : Machine.State} (h1 : Keeps s0 s) {r : CmdRef} {c : Cmd} {i : ℕ} {unit : List Byte} :
    Keeps s0 (sealUnit s r c i unit) := by
  unfold sealUnit
  extract_lets +onlyGivenNames x6
  clear_value x6
  extract_lets +onlyGivenNames x7
  clear_value x7
  apply all_ite (P := Keeps s0)
  · apply updJob_keeps
    apply sealPage_keeps
    assumption
  · apply updJob_keeps
    assumption

theorem offloadUnit_keeps {s0 : State} {r : CmdRef} {c : Cmd} {i : ℕ} {s : Machine.State} (h4 : Keeps s0 s) :
    ExcAll (Keeps s0) (offloadUnit r c i s) := by
  unfold offloadUnit
  apply all_ite (P := ExcAll (Keeps s0))
  · apply all_ite (P := ExcAll (Keeps s0))
    · apply ExcAll.ok
      assumption
    · exact ExcAll.error
  · split
    · rename_i x5 x6 x7
      exact ExcAll.error
    · rename_i x8 x9 x10
      apply all_ite (P := ExcAll (Keeps s0))
      · exact ExcAll.error
      · extract_lets +onlyGivenNames x11
        clear_value x11
        extract_lets +onlyGivenNames x12
        have h13 : Keeps s0 x12 := by
          unfold x12
          apply memPut_keeps
          apply driveRange_keeps
          assumption
        clear_value x12
        apply ExcAll.ok
        apply sealUnit_keeps
        apply countHall_keeps
        assumption

theorem setHdState_keeps {s0 : State} {s : Machine.State} (h1 : Keeps s0 s) {a : ℕ} {v : ℕ} :
    Keeps s0 (setHdState s a v) := by
  unfold setHdState
  apply memPutNat_keeps
  assumption

theorem offloadGo_keeps {s0 : State} {r : CmdRef} {m : Move} {s : Machine.State} (h3 : Keeps s0 s) {c : Cmd} :
    Keeps s0 (offloadGo r m s c) := by
  unfold offloadGo
  apply moveRun_keeps
  · assumption
  · intro x5 x6 x7
    apply offloadUnit_keeps
    assumption
  · intro x8 x9
    apply succeed_keeps
    apply setHdState_keeps
    assumption
  · intro x10 x11
    apply setHdState_keeps
    assumption

theorem execOffload_keeps {s0 : State} {r : CmdRef} {m : Move} {s : Machine.State} (h3 : Keeps s0 s) :
    OutKeeps s0 (execOffload r m s) := by
  unfold execOffload
  apply moveCmd_keeps
  · assumption
  · intro x4 x5 x6
    extract_lets +onlyGivenNames x7
    clear_value x7
    apply waitWhile_keeps
    apply readOk_keeps
    · assumption
    · split
      · rename_i x8 x9 x10 x11
        apply all_ite (P := DispKeeps s0)
        · exact DispKeeps.gone
        · exact DispKeeps.stop
      · rename_i x12 x13
        extract_lets +onlyGivenNames x14
        clear_value x14
        extract_lets +onlyGivenNames x15
        apply waitWhile_keeps
        apply need_keeps
        apply waitWhile_keeps
        apply reachGate_keeps
        · assumption
        · extract_lets +onlyGivenNames x16
          have h17 : Keeps s0 x16 := by
            unfold x16
            apply openHandle_keeps
            assumption
          clear_value x16
          extract_lets +onlyGivenNames x18
          have h19 : Keeps s0 x18 := by
            unfold x18
            apply setF_keeps
            assumption
          clear_value x18
          apply DispKeeps.go
          apply updJob_keeps
          assumption
  · intro x20 x21 x22
    apply offloadGo_keeps
    assumption

theorem releaseHandle_keeps {s0 : State} {s : Machine.State} (h1 : Keeps s0 s) {h : ℕ} {a : ℕ} :
    Keeps s0 (releaseHandle s h a) := by
  unfold releaseHandle
  extract_lets +onlyGivenNames x4
  have h5 : Keeps s0 x4 := by
    unfold x4
    apply setF_keeps
    assumption
  clear_value x4
  apply setHdState_keeps
  assumption

theorem execOffloadRelease_keeps {s0 : State} {r : CmdRef} {err : Option ReadErr} {s : Machine.State} (h3 : Keeps s0 s) :
    OutKeeps s0 (execOffloadRelease r err s) := by
  unfold execOffloadRelease
  apply guardUnit_keeps
  apply dispatch_keeps
  · assumption
  · intro x4 x5 x6
    extract_lets +onlyGivenNames x7
    clear_value x7
    apply waitWhile_keeps
    apply all_ite (P := DispKeeps s0)
    · exact DispKeeps.gone
    · apply readOk_keeps
      · assumption
      · apply need_keeps
        apply reachGate_keeps
        · assumption
        · apply DispKeeps.go
          apply succeed_keeps
          apply releaseHandle_keeps
          assumption

theorem prefetchDone_keeps {s0 : State} {s : Machine.State} (h1 : Keeps s0 s) {r : CmdRef} {c : Cmd} {n : ℕ} :
    Keeps s0 (prefetchDone s r c n) := by
  unfold prefetchDone
  extract_lets +onlyGivenNames x5
  have h6 : Keeps s0 x5 := by
    unfold x5
    apply memPutNat_keeps
    assumption
  clear_value x5
  extract_lets +onlyGivenNames x7
  have h8 : Keeps s0 x7 := by
    unfold x7
    apply all_ite (P := Keeps s0)
    · apply releaseHandle_keeps
      assumption
    · assumption
  clear_value x7
  apply succeed_keeps
  assumption

theorem execPrefetch_keeps {s0 : State} {r : CmdRef} {err : Option ReadErr} {s : Machine.State} (h3 : Keeps s0 s) :
    OutKeeps s0 (execPrefetch r err s) := by
  unfold execPrefetch
  apply guardUnit_keeps
  apply dispatch_keeps
  · assumption
  · intro x4 x5 x6
    extract_lets +onlyGivenNames x7
    clear_value x7
    apply waitWhile_keeps
    apply all_ite (P := DispKeeps s0)
    · exact DispKeeps.gone
    · apply readOk_keeps
      · assumption
      · split
        · rename_i x8 x9 x10 x11
          apply all_ite (P := DispKeeps s0)
          · exact DispKeeps.gone
          · exact DispKeeps.stop
        · rename_i x12 x13
          split
          rename_i x14 x15 x16 x17
          extract_lets +onlyGivenNames x18
          clear_value x18
          extract_lets +onlyGivenNames x19
          clear_value x19
          apply waitWhile_keeps
          apply reachGate_keeps
          · assumption
          · extract_lets +onlyGivenNames x20
            have h21 : Keeps s0 x20 := by
              unfold x20
              apply updJob_keeps
              assumption
            clear_value x20
            apply DispKeeps.go
            apply all_ite (P := Keeps s0)
            · apply prefetchDone_keeps
              assumption
            · assumption

theorem prefetchWrite_keeps {s0 : State} {r : CmdRef} {c : Cmd} {p0 : ℕ} {x3 : ℕ} {x4 : Machine.State} (h5 : Keeps s0 x4) :
    Keeps s0 (prefetchWrite r c p0 x3 x4) := by
  fun_induction prefetchWrite
  · rename_i x6
    assumption
  · rename_i x7 x8 x9
    assumption
  · rename_i x10 x11 x12 x13 x14
    assumption
  · rename_i x15 x16 x17 x18 x19 x20 x21 x22
    assumption
  · rename_i x23 x24 x25 x26 x27 x28 x29 x30 x31 x32
    apply prefetchFail_keeps
    apply noteErr_keeps
    assumption
  · rename_i x33 x34 x35 x36 x37 x38 x39 x40 x41 x42 x43 x44
    apply prefetchDone_keeps
    unfold x43
    apply updJob_keeps
    unfold x42
    apply countHall_keeps
    apply store_keeps
    assumption
  · rename_i x45 x46 x47 x48 x49 x50 x51 x52 x53 x54 x55 x56 x57
    apply x57
    unfold x55
    apply updJob_keeps
    unfold x54
    apply countHall_keeps
    apply store_keeps
    assumption

theorem prefetchTurn_keeps {s0 : State} {s : Machine.State} (h1 : Keeps s0 s) {r : CmdRef} {c : Cmd} {p0 : ℕ} {n : ℕ} :
    Keeps s0 (prefetchTurn s r c p0 n) := by
  unfold prefetchTurn
  apply prefetchSettle_keeps
  apply prefetchWrite_keeps
  assumption

theorem execPrefetchPageRead_keeps {s0 : State} {r : CmdRef} {page : ℕ} {err : Option ReadErr} {s : Machine.State} (h4 : Keeps s0 s) :
    OutKeeps s0 (execPrefetchPageRead r page err s) := by
  unfold execPrefetchPageRead
  apply guardUnit_keeps
  split
  · rename_i x5 x6
    apply OutKeeps.next
    assumption
  · rename_i x7 x8 x9
    split
    rename_i x10 x11 x12 x13
    apply all_ite (P := OutKeeps s0)
    · apply OutKeeps.next
      assumption
    · apply all_ite (P := OutKeeps s0)
      · apply OutKeeps.next
        apply prefetchTurn_keeps
        assumption
      · split
        · rename_i x14 x15 x16
          apply OutKeeps.next
          apply prefetchBad_keeps
          apply noteErr_keeps
          assumption
        · rename_i x17 x18
          extract_lets +onlyGivenNames x19
          clear_value x19
          extract_lets +onlyGivenNames x20
          clear_value x20
          apply all_ite (P := OutKeeps s0)
          · apply OutKeeps.next
            apply prefetchBad_keeps
            apply countErr_keeps
            assumption
          · apply OutKeeps.next
            apply prefetchTurn_keeps
            apply updJob_keeps
            assumption

/-! ## CodeCmd -/

theorem expandTile_keeps {s0 : State} {s : Machine.State} (h1 : Keeps s0 s) {h : ℕ} {hd : CHdr} {t : ℕ} {lo : ℕ} {hi : ℕ} {dsts : List ℕ} :
    ExcAll (Keeps s0) (expandTile s h hd t lo hi dsts) := by
  unfold expandTile
  extract_lets +onlyGivenNames x8
  clear_value x8
  split
  · rename_i x9 x10 x11 x12
    exact ExcAll.error
  · rename_i x13 x14 x15 x16 x17
    exact ExcAll.error
  · rename_i x18 x19 x20 x21 x22 x23
    apply ExcAll.ok
    apply spansWrote_keeps
    apply all_foldl (P := Keeps s0)
    · intro x24 x25 x26
      extract_lets +onlyGivenNames x27
      clear_value x27
      extract_lets +onlyGivenNames x28
      clear_value x28
      extract_lets +onlyGivenNames x29
      clear_value x29
      apply all_ite (P := Keeps s0)
      · extract_lets +onlyGivenNames x30
        clear_value x30
        extract_lets +onlyGivenNames x31
        have h32 : Keeps s0 x31 := by
          unfold x31
          apply all_foldl (P := Keeps s0)
          · intro x33 x34 x35
            apply memPutNat_keeps
            assumption
          · assumption
        clear_value x31
        apply all_ite (P := Keeps s0)
        · assumption
        · apply countCvts_keeps
          assumption
      · assumption
    · assumption

theorem killHeader_keeps {s0 : State} {s : Machine.State} (h1 : Keeps s0 s) {a : ℕ} {cap : ℕ} :
    Keeps s0 (killHeader s a cap) := by
  unfold killHeader
  apply all_ite (P := Keeps s0)
  · assumption
  · extract_lets +onlyGivenNames x4
    clear_value x4
    apply store_keeps
    assumption

theorem execPack_keeps {s0 : State} {r : CmdRef} {err : Option ReadErr} {s : Machine.State} (h3 : Keeps s0 s) :
    OutKeeps s0 (execPack r err s) := by
  unfold execPack
  apply guardUnit_keeps
  apply dispatch_keeps
  · assumption
  · intro x4 x5 x6
    extract_lets +onlyGivenNames x7
    clear_value x7
    extract_lets +onlyGivenNames x8
    clear_value x8
    apply learnGate_keeps
    · assumption
    · apply need_keeps
      apply all_ite (P := DispKeeps s0)
      · exact DispKeeps.gone
      · apply readOk_keeps
        · assumption
        · apply need_keeps
          apply waitWhile_keeps
          apply reachGate_keeps
          · assumption
          · apply DispKeeps.go
            apply updJob_keeps
            apply killHeader_keeps
            assumption

theorem loadSlot_keeps {s0 : State} {s : Machine.State} (h1 : Keeps s0 s) {h : ℕ} {slot : ℕ} {state : ℕ} {tab : List Byte} :
    Keeps s0 (loadSlot s h slot state tab) := by
  unfold loadSlot
  extract_lets +onlyGivenNames x6
  clear_value x6
  extract_lets +onlyGivenNames x7
  have h8 : Keeps s0 x7 := by
    unfold x7
    apply setF_keeps
    assumption
  clear_value x7
  extract_lets +onlyGivenNames x9
  have h10 : Keeps s0 x9 := by
    unfold x9
    apply setF_keeps
    assumption
  clear_value x9
  extract_lets +onlyGivenNames x11
  clear_value x11
  apply setH_keeps
  assumption

theorem execXtabLoad_keeps {s0 : State} {r : CmdRef} {err : Option ReadErr} {s : Machine.State} (h3 : Keeps s0 s) :
    OutKeeps s0 (execXtabLoad r err s) := by
  unfold execXtabLoad
  apply guardUnit_keeps
  apply dispatch_keeps
  · assumption
  · intro x4 x5 x6
    extract_lets +onlyGivenNames x7
    clear_value x7
    extract_lets +onlyGivenNames x8
    clear_value x8
    extract_lets +onlyGivenNames x9
    clear_value x9
    apply all_ite (P := DispKeeps s0)
    · exact DispKeeps.gone
    · apply waitWhile_keeps
      apply readOk_keeps
      · assumption
      · extract_lets +onlyGivenNames x10
        clear_value x10
        apply need_keeps
        apply need_keeps
        apply need_keeps
        split
        · rename_i x11 x12
          apply all_ite (P := DispKeeps s0)
          · exact DispKeeps.wait
          · exact DispKeeps.stop
        · rename_i x13 x14 x15
          apply reachGate_keeps
          · assumption
          · extract_lets +onlyGivenNames x16
            have h17 : Keeps s0 x16 := by
              unfold x16
              apply loadSlot_keeps
              assumption
            clear_value x16
            extract_lets +onlyGivenNames x18
            clear_value x18
            apply DispKeeps.go
            apply succeed_keeps
            apply updJob_keeps
            assumption

theorem packItem_keeps {s0 : State} {s : Machine.State} (h1 : Keeps s0 s) {h : ℕ} {c : Cmd} {t : ℕ} :
    Keeps s0 (packItem s h c t) := by
  unfold packItem
  extract_lets +onlyGivenNames x5
  clear_value x5
  extract_lets +onlyGivenNames x6
  have h10 : ∀ (x7 : Bool) (x8 : ℕ) (x9 : Machine.State), Keeps s0 x9 → Keeps s0 (x6 x7 x8 x9) := by
    intro x11 x12 x13 x14
    unfold x6
    apply all_ite (P := Keeps s0)
    · assumption
    · apply store_keeps
      assumption
  clear_value x6
  split
  rename_i x15 x16 x17 x18 x19
  extract_lets +onlyGivenNames x20
  have h21 : Keeps s0 x20 := by
    unfold x20
    apply raiseFp_keeps
    apply countCvts_keeps
    assumption
  clear_value x20
  split
  · rename_i x22
    apply countHall_keeps
    apply h10
    apply store_keeps
    assumption
  · rename_i x23 x24 x25 x26
    apply countHall_keeps
    apply h10
    apply store_keeps
    assumption
  · rename_i x27 x28 x29 x30
    extract_lets +onlyGivenNames x31
    clear_value x31
    extract_lets +onlyGivenNames x32
    clear_value x32
    apply countHall_keeps
    apply h10
    apply store_keeps
    assumption

theorem putListed_keeps {s0 : State} {s : Machine.State} (h1 : Keeps s0 s) {base : ℕ} {l : List (ℕ × Byte)} :
    Keeps s0 (putListed s base l) := by
  unfold putListed
  apply all_foldl (P := Keeps s0)
  · intro x4 x5 x6
    apply memPut_keeps
    assumption
  · assumption

theorem expandTo_keeps {s0 : State} {r : CmdRef} {hd : CHdr} {dsts : List ℕ} {i : ℕ} {s : Machine.State} (h5 : Keeps s0 s) :
    ExcAll (Keeps s0) (expandTo r hd dsts i s) := by
  unfold expandTo
  split
  · rename_i x6 x7 x8
    exact ExcAll.error
  · rename_i x9 x10 x11
    split
    · rename_i x12 x13 x14
      exact ExcAll.error
    · rename_i x15 x16 x17 x18
      extract_lets +onlyGivenNames x19
      have h20 : Keeps s0 x19 := by
        unfold x19
        apply all_foldl (P := Keeps s0)
        · intro x21 x22 x23
          apply spansWrote_keeps
          apply putListed_keeps
          assumption
        · assumption
      clear_value x19
      apply ExcAll.ok
      apply all_ite (P := Keeps s0)
      · apply countCvts_keeps
        assumption
      · assumption

theorem expandGo_keeps {s0 : State} {r : CmdRef} {m : Move} {s : Machine.State} (h3 : Keeps s0 s) {c : Cmd} :
    Keeps s0 (expandGo r m s c) := by
  unfold expandGo
  extract_lets +onlyGivenNames x5
  clear_value x5
  apply all_ite (P := Keeps s0)
  · assumption
  · apply moveRun_keeps
    · assumption
    · intro x6 x7 x8
      apply expandTo_keeps
      assumption
    · intro x9 x10
      apply succeed_keeps
      assumption
    · intro x11 x12
      unfold id
      assumption

theorem execCodedExpand_keeps {s0 : State} {r : CmdRef} {m : Move} {s : Machine.State} (h3 : Keeps s0 s) :
    OutKeeps s0 (execCodedExpand r m s) := by
  unfold execCodedExpand
  apply moveCmd_keeps
  · assumption
  · intro x4 x5 x6
    extract_lets +onlyGivenNames x7
    clear_value x7
    extract_lets +onlyGivenNames x8
    clear_value x8
    apply all_ite (P := DispKeeps s0)
    · exact DispKeeps.gone
    · split
      · rename_i x9 x10 x11 x12 x13
        apply failRead_keeps
        assumption
      · rename_i x14 x15 x16
        apply readOk_keeps
        · assumption
        · extract_lets +onlyGivenNames x17
          clear_value x17
          apply waitWhile_keeps
          split
          · rename_i x18 x19 x20 x21
            exact DispKeeps.stop
          · rename_i x22 x23
            apply all_ite (P := DispKeeps s0)
            · exact DispKeeps.gone
            · apply need_keeps
              apply reachGate_keeps
              · assumption
              · extract_lets +onlyGivenNames x24
                clear_value x24
                extract_lets +onlyGivenNames x25
                have h26 : Keeps s0 x25 := by
                  unfold x25
                  apply updJob_keeps
                  apply queueSlots_keeps
                  assumption
                clear_value x25
                apply DispKeeps.go
                apply all_ite (P := Keeps s0)
                · apply succeed_keeps
                  assumption
                · assumption
  · intro x27 x28 x29
    apply expandGo_keeps
    assumption

theorem putUnits_keeps {s0 : State} {s : Machine.State} (h1 : Keeps s0 s) {a : ℕ} {bytes : List Byte} {i : ℕ} {n : ℕ} :
    Keeps s0 (putUnits s a bytes i n) := by
  unfold putUnits
  apply store_keeps
  assumption

theorem encodeGo_keeps {s0 : State} {r : CmdRef} {m : Move} {s : Machine.State} (h3 : Keeps s0 s) {c : Cmd} :
    Keeps s0 (encodeGo r m s c) := by
  unfold encodeGo
  extract_lets +onlyGivenNames x5
  clear_value x5
  extract_lets +onlyGivenNames x6
  clear_value x6
  extract_lets +onlyGivenNames x7
  clear_value x7
  split
  · rename_i x8 x9
    assumption
  · rename_i x10 x11 x12 x13
    apply moveFail_keeps
    assumption
  · rename_i x14 x15 x16
    extract_lets +onlyGivenNames x17
    clear_value x17
    extract_lets +onlyGivenNames x18
    clear_value x18
    extract_lets +onlyGivenNames x19
    clear_value x19
    extract_lets +onlyGivenNames x20
    clear_value x20
    extract_lets +onlyGivenNames x21
    clear_value x21
    extract_lets +onlyGivenNames x22
    have h23 : Keeps s0 x22 := by
      unfold x22
      apply store_keeps
      assumption
    clear_value x22
    apply all_ite (P := Keeps s0)
    · apply endCmd_keeps
      assumption
    · extract_lets +onlyGivenNames x24
      clear_value x24
      extract_lets +onlyGivenNames x25
      clear_value x25
      extract_lets +onlyGivenNames x26
      have h27 : Keeps s0 x26 := by
        unfold x26
        apply putUnits_keeps
        assumption
      clear_value x26
      extract_lets +onlyGivenNames x28
      have h29 : Keeps s0 x28 := by
        unfold x28
        apply updJob_keeps
        assumption
      clear_value x28
      apply all_ite (P := Keeps s0)
      · split
        · rename_i x30 x31 x32
          apply moveFail_keeps
          assumption
        · rename_i x33 x34
          assumption
      · extract_lets +onlyGivenNames x35
        have h36 : Keeps s0 x35 := by
          unfold x35
          apply all_ite (P := Keeps s0)
          · assumption
          · apply store_keeps
            assumption
        clear_value x35
        extract_lets +onlyGivenNames x37
        clear_value x37
        extract_lets +onlyGivenNames x38
        have h39 : Keeps s0 x38 := by
          unfold x38
          apply countHall_keeps
          apply countHall_keeps
          assumption
        clear_value x38
        apply succeed_keeps
        apply store_keeps
        assumption

theorem execExpEncode_keeps {s0 : State} {r : CmdRef} {m : Move} {s : Machine.State} (h3 : Keeps s0 s) :
    OutKeeps s0 (execExpEncode r m s) := by
  unfold execExpEncode
  apply moveCmd_keeps
  · assumption
  · intro x4 x5 x6
    extract_lets +onlyGivenNames x7
    clear_value x7
    extract_lets +onlyGivenNames x8
    clear_value x8
    extract_lets +onlyGivenNames x9
    clear_value x9
    extract_lets +onlyGivenNames x10
    clear_value x10
    apply waitWhile_keeps
    apply need_keeps
    apply all_ite (P := DispKeeps s0)
    · exact DispKeeps.gone
    · apply need_keeps
      apply reachGate_keeps
      · assumption
      · apply DispKeeps.go
        apply updJob_keeps
        apply killHeader_keeps
        assumption
  · intro x11 x12 x13
    apply encodeGo_keeps
    assumption

theorem execPackAssemble_keeps {s0 : State} {r : CmdRef} {m : Move} {s : Machine.State} (h3 : Keeps s0 s) :
    OutKeeps s0 (execPackAssemble r m s) := by
  unfold execPackAssemble
  apply guardUnit_keeps
  split
  · rename_i x4 x5
    apply OutKeeps.next
    assumption
  · rename_i x6 x7 x8
    apply all_ite (P := OutKeeps s0)
    · apply OutKeeps.next
      assumption
    · extract_lets +onlyGivenNames x9
      clear_value x9
      extract_lets +onlyGivenNames x10
      clear_value x10
      extract_lets +onlyGivenNames x11
      clear_value x11
      apply all_ite (P := OutKeeps s0)
      · apply OutKeeps.next
        apply endCmd_keeps
        assumption
      · extract_lets +onlyGivenNames x12
        have h13 : Keeps s0 x12 := by
          unfold x12
          apply store_keeps
          assumption
        clear_value x12
        extract_lets +onlyGivenNames x14
        clear_value x14
        split
        · rename_i x15 x16 x17
          extract_lets +onlyGivenNames x18
          have h19 : Keeps s0 x18 := by
            unfold x18
            apply putUnits_keeps
            assumption
          clear_value x18
          apply OutKeeps.next
          apply endCmd_keeps
          apply noteErr_keeps
          assumption
        · rename_i x20 x21
          extract_lets +onlyGivenNames x22
          have h23 : Keeps s0 x22 := by
            unfold x22
            apply putUnits_keeps
            assumption
          clear_value x22
          apply OutKeeps.next
          apply succeed_keeps
          apply store_keeps
          assumption

theorem retireSlot_keeps {s0 : State} {s : Machine.State} (h1 : Keeps s0 s) {h : ℕ} {slot : ℕ} :
    Keeps s0 (retireSlot s h slot) := by
  unfold retireSlot
  apply xtabUnqueue_keeps
  apply setF_keeps
  assumption

theorem execXtabRetire_keeps {s0 : State} {r : CmdRef} {s : Machine.State} (h2 : Keeps s0 s) :
    OutKeeps s0 (execXtabRetire r s) := by
  unfold execXtabRetire
  apply guardUnit_keeps
  apply dispatch_keeps
  · assumption
  · intro x3 x4 x5
    extract_lets +onlyGivenNames x6
    clear_value x6
    extract_lets +onlyGivenNames x7
    clear_value x7
    apply waitWhile_keeps
    apply need_keeps
    apply DispKeeps.go
    apply succeed_keeps
    apply retireSlot_keeps
    assumption

theorem xtabLoaded_keeps {s0 : State} {s : Machine.State} (h1 : Keeps s0 s) {h : ℕ} {c : Cmd} :
    Keeps s0 (xtabLoaded s h c) := by
  unfold xtabLoaded
  split
  · rename_i x4 x5 x6 x7
    extract_lets +onlyGivenNames x8
    have h9 : Keeps s0 x8 := by
      unfold x8
      apply setF_keeps
      assumption
    clear_value x8
    apply all_ite (P := Keeps s0)
    · apply retireSlot_keeps
      assumption
    · assumption
  · rename_i x10 x11
    assumption

end Sys2Proof.Machine
end

