-- ==== Sys2Proof/Laws/KeepsLink.lean ====
section
/-! SUPPORT. No operation of these files touches what waits, the canonical form of memory and registers, or the free values
drawn: Link, Ring, Context, Transfer, Deliver, Reduce, Update, Commit, AttnCmd, Segments. -/

namespace Sys2Proof.Machine

/-! ## Link -/

theorem refreshLight_keeps {s0 : State} {s : Machine.State} (h1 : Keeps s0 s) :
    Keeps s0 (refreshLight s) := by
  unfold refreshLight
  apply all_foldl (P := Keeps s0)
  · intro x2 x3 x4
    apply setF_keeps
    assumption
  · assumption

theorem resendFrom_keeps {s0 : State} {s : Machine.State} (h1 : Keeps s0 s) {p : ℕ} {i : ℕ} :
    Keeps s0 (resendFrom s p i) := by
  unfold resendFrom
  apply all_ite (P := Keeps s0)
  · assumption
  · extract_lets +onlyGivenNames x4
    clear_value x4
    apply Keeps.upd
    assumption

theorem setLaser_keeps {s0 : State} {s : Machine.State} (h1 : Keeps s0 s) {m : ℕ} {v : Laser} :
    Keeps s0 (setLaser s m v) := by
  unfold setLaser
  apply Keeps.upd
  assumption

theorem execLaserReenableTimer_keeps {s0 : State} {m : ℕ} {s : Machine.State} (h2 : Keeps s0 s) :
    OutKeeps s0 (execLaserReenableTimer m s) := by
  unfold execLaserReenableTimer
  apply guardUnit_keeps
  apply all_ite (P := OutKeeps s0)
  · apply OutKeeps.next
    apply setLaser_keeps
    assumption
  · apply OutKeeps.next
    assumption

theorem setLaserState_keeps {s0 : State} {s : Machine.State} (h1 : Keeps s0 s) {m : ℕ} {v : ℕ} :
    Keeps s0 (setLaserState s m v) := by
  unfold setLaserState
  apply setF_keeps
  assumption

theorem setPort_keeps {s0 : State} {s : Machine.State} (h1 : Keeps s0 s) {p : ℕ} {v : Port} :
    Keeps s0 (setPort s p v) := by
  unfold setPort
  apply Keeps.upd
  assumption

theorem countReplay_keeps {s0 : State} {s : Machine.State} (h1 : Keeps s0 s) {p : ℕ} :
    Keeps s0 (countReplay s p) := by
  unfold countReplay
  extract_lets +onlyGivenNames x3
  have h4 : Keeps s0 x3 := by
    unfold x3
    apply satF_keeps
    assumption
  clear_value x3
  apply setPort_keeps
  assumption

theorem execLinkReplayTimeout_keeps {s0 : State} {port : ℕ} {s : Machine.State} (h2 : Keeps s0 s) :
    OutKeeps s0 (execLinkReplayTimeout port s) := by
  unfold execLinkReplayTimeout
  apply guardUnit_keeps
  apply all_ite (P := OutKeeps s0)
  · apply OutKeeps.next
    assumption
  · apply OutKeeps.next
    apply resendFrom_keeps
    apply countReplay_keeps
    assumption

theorem freeBuf_keeps {s0 : State} {s : Machine.State} (h1 : Keeps s0 s) {p : ℕ} {vc : ℕ} :
    Keeps s0 (freeBuf s p vc) := by
  unfold freeBuf
  extract_lets +onlyGivenNames x4
  clear_value x4
  apply setPort_keeps
  assumption

theorem sendFrame_keeps {s0 : State} {s : Machine.State} (h1 : Keeps s0 s) {p : ℕ} {ftype : ℕ} {vc : ℕ} {body : List Byte} :
    Keeps s0 (sendFrame s p ftype vc body) := by
  unfold sendFrame
  extract_lets +onlyGivenNames x6
  clear_value x6
  extract_lets +onlyGivenNames x7
  clear_value x7
  split
  rename_i x8 x9 x10 x11
  extract_lets +onlyGivenNames x12
  clear_value x12
  extract_lets +onlyGivenNames x13
  have h14 : Keeps s0 x13 := by
    unfold x13
    apply setPort_keeps
    assumption
  clear_value x13
  apply Keeps.upd
  assumption

theorem sendCtl_keeps {s0 : State} {s : Machine.State} (h1 : Keeps s0 s) {p : ℕ} {body : List Byte} :
    Keeps s0 (sendCtl s p body) := by
  unfold sendCtl
  apply all_ite (P := Keeps s0)
  · apply sendFrame_keeps
    assumption
  · assumption

theorem execPortRoleWrite_keeps {s0 : State} {port : ℕ} {spare : Bool} {s : Machine.State} (h3 : Keeps s0 s) :
    OutKeeps s0 (execPortRoleWrite port spare s) := by
  unfold execPortRoleWrite
  apply guardUnit_keeps
  apply whileServed_keeps
  · assumption
  · apply all_ite (P := OutKeeps s0)
    · apply OutKeeps.next
      apply all_ite (P := Keeps s0)
      · assumption
      · apply setPort_keeps
        assumption
    · apply all_ite (P := OutKeeps s0)
      · extract_lets +onlyGivenNames x4
        have h5 : Keeps s0 x4 := by
          unfold x4
          apply sendCtl_keeps
          assumption
        clear_value x4
        apply all_ite (P := OutKeeps s0)
        · apply OutKeeps.next
          apply setF_keeps
          assumption
        · apply OutKeeps.next
          apply setPort_keeps
          assumption
      · apply all_ite (P := OutKeeps s0)
        · apply OutKeeps.next
          apply raiseF_keeps
          assumption
        · extract_lets +onlyGivenNames x6
          have h7 : Keeps s0 x6 := by
            unfold x6
            apply setF_keeps
            assumption
          clear_value x6
          apply OutKeeps.next
          apply Keeps.upd
          assumption

theorem sendHello_keeps {s0 : State} {s : Machine.State} (h1 : Keeps s0 s) {p : ℕ} :
    Keeps s0 (sendHello s p) := by
  unfold sendHello
  apply sendCtl_keeps
  assumption

theorem execHelloTimer_keeps {s0 : State} {s : Machine.State} (h1 : Keeps s0 s) :
    OutKeeps s0 (execHelloTimer s) := by
  unfold execHelloTimer
  apply OutKeeps.next
  apply all_foldl (P := Keeps s0)
  · intro x2 x3 x4
    apply all_ite (P := Keeps s0)
    · apply sendHello_keeps
      assumption
    · assumption
  · assumption

theorem sendReplayReq_keeps {s0 : State} {s : Machine.State} (h1 : Keeps s0 s) {p : ℕ} :
    Keeps s0 (sendReplayReq s p) := by
  unfold sendReplayReq
  apply sendCtl_keeps
  assumption

theorem setPortState_keeps {s0 : State} {s : Machine.State} (h1 : Keeps s0 s) {p : ℕ} {v : ℕ} :
    Keeps s0 (setPortState s p v) := by
  unfold setPortState
  apply setF_keeps
  assumption

theorem execPortRetrain_keeps {s0 : State} {port : ℕ} {s : Machine.State} (h2 : Keeps s0 s) :
    OutKeeps s0 (execPortRetrain port s) := by
  unfold execPortRetrain
  apply guardUnit_keeps
  apply whileServed_keeps
  · assumption
  · apply all_ite (P := OutKeeps s0)
    · apply OutKeeps.next
      assumption
    · extract_lets +onlyGivenNames x3
      have h4 : Keeps s0 x3 := by
        unfold x3
        apply setF_keeps
        apply setPortState_keeps
        assumption
      clear_value x3
      extract_lets +onlyGivenNames x5
      have h6 : Keeps s0 x5 := by
        unfold x5
        apply setF_keeps
        assumption
      clear_value x5
      apply OutKeeps.next
      apply setPort_keeps
      assumption

theorem loseLanes_keeps {s0 : State} {s : Machine.State} (h1 : Keeps s0 s) {p : ℕ} {mask : ℕ} :
    Keeps s0 (loseLanes s p mask) := by
  unfold loseLanes
  extract_lets +onlyGivenNames x4
  clear_value x4
  extract_lets +onlyGivenNames x5
  clear_value x5
  extract_lets +onlyGivenNames x6
  have h7 : Keeps s0 x6 := by
    unfold x6
    apply setF_keeps
    assumption
  clear_value x6
  apply all_ite (P := Keeps s0)
  · apply setPortState_keeps
    assumption
  · assumption

theorem execLaneAlignmentLost_keeps {s0 : State} {port : ℕ} {lane : ℕ} {s : Machine.State} (h3 : Keeps s0 s) :
    OutKeeps s0 (execLaneAlignmentLost port lane s) := by
  unfold execLaneAlignmentLost
  apply guardUnit_keeps
  apply OutKeeps.next
  apply loseLanes_keeps
  assumption

theorem switchLight_keeps {s0 : State} {s : Machine.State} (h1 : Keeps s0 s) {p : ℕ} {m : ℕ} :
    Keeps s0 (switchLight s p m) := by
  unfold switchLight
  extract_lets +onlyGivenNames x4
  have h5 : Keeps s0 x4 := by
    unfold x4
    apply setF_keeps
    assumption
  clear_value x4
  extract_lets +onlyGivenNames x6
  have h7 : Keeps s0 x6 := by
    unfold x6
    apply loseLanes_keeps
    assumption
  clear_value x6
  apply setPort_keeps
  assumption

theorem lightUp_keeps {s0 : State} {s : Machine.State} (h1 : Keeps s0 s) {m : ℕ} :
    Keeps s0 (lightUp s m) := by
  unfold lightUp
  apply all_ite (P := Keeps s0)
  · apply refreshLight_keeps
    assumption
  · apply refreshLight_keeps
    apply all_foldl (P := Keeps s0)
    · intro x3 x4 x5
      apply all_ite (P := Keeps s0)
      · apply switchLight_keeps
        assumption
      · apply all_ite (P := Keeps s0)
        · apply switchLight_keeps
          assumption
        · assumption
    · assumption

theorem execLaserRestore_keeps {s0 : State} {m : ℕ} {s : Machine.State} (h2 : Keeps s0 s) :
    OutKeeps s0 (execLaserRestore m s) := by
  unfold execLaserRestore
  apply guardUnit_keeps
  apply whileServed_keeps
  · assumption
  · apply all_ite (P := OutKeeps s0)
    · apply OutKeeps.next
      assumption
    · apply OutKeeps.next
      apply lightUp_keeps
      apply setLaser_keeps
      assumption

theorem moveOff_keeps {s0 : State} {s : Machine.State} (h1 : Keeps s0 s) {m : ℕ} :
    Keeps s0 (moveOff s m) := by
  unfold moveOff
  apply refreshLight_keeps
  apply all_foldl (P := Keeps s0)
  · intro x3 x4 x5
    apply all_ite (P := Keeps s0)
    · extract_lets +onlyGivenNames x6
      clear_value x6
      apply all_ite (P := Keeps s0)
      · apply switchLight_keeps
        assumption
      · apply loseLanes_keeps
        assumption
    · assumption
  · assumption

theorem execLaserRelease_keeps {s0 : State} {m : ℕ} {s : Machine.State} (h2 : Keeps s0 s) :
    OutKeeps s0 (execLaserRelease m s) := by
  unfold execLaserRelease
  apply guardUnit_keeps
  apply whileServed_keeps
  · assumption
  · apply all_ite (P := OutKeeps s0)
    · apply OutKeeps.next
      apply raiseF_keeps
      assumption
    · extract_lets +onlyGivenNames x3
      clear_value x3
      extract_lets +onlyGivenNames x4
      have h5 : Keeps s0 x4 := by
        unfold x4
        apply setLaser_keeps
        apply setLaserState_keeps
        assumption
      clear_value x4
      apply OutKeeps.next
      apply moveOff_keeps
      assumption

theorem laserDown_keeps {s0 : State} {s : Machine.State} (h1 : Keeps s0 s) {m : ℕ} {st : ℕ} :
    Keeps s0 (laserDown s m st) := by
  unfold laserDown
  extract_lets +onlyGivenNames x4
  extract_lets +onlyGivenNames x5
  clear_value x5
  extract_lets +onlyGivenNames x6
  have h7 : Keeps s0 x6 := by
    unfold x6
    apply setLaser_keeps
    apply setLaserState_keeps
    assumption
  clear_value x6
  apply all_ite (P := Keeps s0)
  · apply moveOff_keeps
    apply raiseF_keeps
    assumption
  · assumption

theorem execLaserFault_keeps {s0 : State} {m : ℕ} {s : Machine.State} (h2 : Keeps s0 s) :
    OutKeeps s0 (execLaserFault m s) := by
  unfold execLaserFault
  apply guardUnit_keeps
  extract_lets +onlyGivenNames x3
  clear_value x3
  extract_lets +onlyGivenNames x4
  have h5 : Keeps s0 x4 := by
    unfold x4
    apply setLaser_keeps
    assumption
  clear_value x4
  apply all_ite (P := OutKeeps s0)
  · apply OutKeeps.next
    apply laserDown_keeps
    assumption
  · apply OutKeeps.next
    assumption

theorem execLaserPoll_keeps {s0 : State} {m : ℕ} {ok : Bool} {s : Machine.State} (h3 : Keeps s0 s) :
    OutKeeps s0 (execLaserPoll m ok s) := by
  unfold execLaserPoll
  apply guardUnit_keeps
  extract_lets +onlyGivenNames x4
  clear_value x4
  apply all_ite (P := OutKeeps s0)
  · apply OutKeeps.next
    apply laserDown_keeps
    assumption
  · apply all_ite (P := OutKeeps s0)
    · apply all_ite (P := OutKeeps s0)
      · apply OutKeeps.next
        apply lightUp_keeps
        apply setLaser_keeps
        apply setLaserState_keeps
        assumption
      · apply OutKeeps.next
        apply setLaserState_keeps
        assumption
    · apply OutKeeps.next
      assumption

theorem execLaserPresenceChange_keeps {s0 : State} {m : ℕ} {present : Bool} {ok : Bool} {s : Machine.State} (h4 : Keeps s0 s) :
    OutKeeps s0 (execLaserPresenceChange m present ok s) := by
  unfold execLaserPresenceChange
  apply guardUnit_keeps
  apply all_ite (P := OutKeeps s0)
  · extract_lets +onlyGivenNames x5
    have h6 : Keeps s0 x5 := by
      unfold x5
      apply laserDown_keeps
      assumption
    clear_value x5
    apply OutKeeps.next
    apply setLaser_keeps
    assumption
  · extract_lets +onlyGivenNames x7
    clear_value x7
    extract_lets +onlyGivenNames x8
    have h9 : Keeps s0 x8 := by
      unfold x8
      apply setLaser_keeps
      assumption
    clear_value x8
    apply OutKeeps.next
    apply lightUp_keeps
    apply setLaserState_keeps
    assumption

theorem takeAck_keeps {s0 : State} {s : Machine.State} (h1 : Keeps s0 s) {p : ℕ} {f : List Byte} :
    Keeps s0 (takeAck s p f) := by
  unfold takeAck
  extract_lets +onlyGivenNames x4
  clear_value x4
  extract_lets +onlyGivenNames x5
  clear_value x5
  extract_lets +onlyGivenNames x6
  clear_value x6
  extract_lets +onlyGivenNames x7
  clear_value x7
  extract_lets +onlyGivenNames x8
  clear_value x8
  extract_lets +onlyGivenNames x9
  clear_value x9
  apply all_ite (P := Keeps s0)
  · apply setF_keeps
    apply setPort_keeps
    assumption
  · apply setPort_keeps
    assumption

theorem takeCtl_keeps {s0 : State} {s : Machine.State} (h1 : Keeps s0 s) {p : ℕ} {ctype : ℕ} {k : Machine.State → List Byte → Out} (h5 : ∀ (x6 : Machine.State), Keeps s0 x6 → ∀ (x7 : List Byte), OutKeeps s0 (k x6 x7)) :
    OutKeeps s0 (takeCtl s p ctype k) := by
  unfold takeCtl
  apply guardUnit_keeps
  split
  · rename_i x8 x9
    apply OutKeeps.next
    assumption
  · rename_i x10 x11 x12 x13
    apply all_ite (P := OutKeeps s0)
    · apply h5
      apply setPort_keeps
      assumption
    · apply OutKeeps.next
      assumption

theorem execHello_keeps {s0 : State} {port : ℕ} {s : Machine.State} (h2 : Keeps s0 s) :
    OutKeeps s0 (execHello port s) := by
  unfold execHello
  apply takeCtl_keeps
  · assumption
  · intro x3 x4 x5
    extract_lets +onlyGivenNames x6
    clear_value x6
    extract_lets +onlyGivenNames x7
    clear_value x7
    extract_lets +onlyGivenNames x8
    clear_value x8
    extract_lets +onlyGivenNames x9
    clear_value x9
    extract_lets +onlyGivenNames x10
    have h11 : Keeps s0 x10 := by
      unfold x10
      apply setF_keeps
      assumption
    clear_value x10
    extract_lets +onlyGivenNames x12
    have h13 : Keeps s0 x12 := by
      unfold x12
      apply setF_keeps
      assumption
    clear_value x12
    extract_lets +onlyGivenNames x14
    clear_value x14
    extract_lets +onlyGivenNames x15
    have h16 : Keeps s0 x15 := by
      unfold x15
      apply setPort_keeps
      assumption
    clear_value x15
    apply OutKeeps.next
    apply all_ite (P := Keeps s0)
    · apply raiseF_keeps
      assumption
    · assumption

theorem execQuiesce_keeps {s0 : State} {port : ℕ} {s : Machine.State} (h2 : Keeps s0 s) :
    OutKeeps s0 (execQuiesce port s) := by
  unfold execQuiesce
  apply takeCtl_keeps
  · assumption
  · intro x3 x4 x5
    apply OutKeeps.next
    apply setPort_keeps
    assumption

theorem execReplay_keeps {s0 : State} {port : ℕ} {s : Machine.State} (h2 : Keeps s0 s) :
    OutKeeps s0 (execReplay port s) := by
  unfold execReplay
  apply takeCtl_keeps
  · assumption
  · intro x3 x4 x5
    extract_lets +onlyGivenNames x6
    clear_value x6
    extract_lets +onlyGivenNames x7
    clear_value x7
    extract_lets +onlyGivenNames x8
    clear_value x8
    apply all_ite (P := OutKeeps s0)
    · apply OutKeeps.next
      apply resendFrom_keeps
      apply countReplay_keeps
      assumption
    · apply OutKeeps.next
      assumption

theorem unrouted_keeps {s0 : State} {s : Machine.State} (h1 : Keeps s0 s) :
    Keeps s0 (unrouted s) := by
  unfold unrouted
  apply satF_keeps
  assumption

theorem flushOutbox_keeps {s0 : State} {x0 : List (List Byte)} {x1 : Machine.State} (h2 : Keeps s0 x1) :
    Keeps s0 (flushOutbox x0 x1) := by
  fun_induction flushOutbox
  · rename_i x3
    assumption
  · rename_i x4 x5 x6 x7 x8
    apply x8
    apply unrouted_keeps
    apply Keeps.upd
    assumption
  · rename_i x9 x10 x11 x12 x13 x14 x15 x16
    apply x16
    apply sendFrame_keeps
    apply Keeps.upd
    assumption
  · rename_i x17 x18 x19 x20 x21 x22
    apply x22
    assumption

theorem forward1_keeps {s0 : State} {s : Machine.State} (h1 : Keeps s0 s) {b : List Byte} :
    OptAll (Keeps s0) (forward1 s b) := by
  unfold forward1
  extract_lets +onlyGivenNames x3
  clear_value x3
  apply all_ite (P := OptAll (Keeps s0))
  · apply OptAll.some
    apply unrouted_keeps
    assumption
  · split
    rename_i x4 x5 x6 x7
    apply all_ite (P := OptAll (Keeps s0))
    · apply OptAll.some
      apply sendFrame_keeps
      assumption
    · exact OptAll.none

theorem forwardAll_keeps {s0 : State} {x0 : List (ℕ × ℕ × List Byte)} {x1 : Machine.State} (h2 : Keeps s0 x1) :
    Keeps s0 (forwardAll x0 x1) := by
  fun_induction forwardAll
  · rename_i x3
    assumption
  · rename_i x4 x5 x6 x7 x8 x9 x10 x11
    have h12 := all_of_eq (P := OptAll (Keeps s0)) x10 (by
        apply forward1_keeps
        assumption)
    have h12a := h12.get
    apply x11
    apply freeBuf_keeps
    apply Keeps.upd
    assumption
  · rename_i x13 x14 x15 x16 x17 x18 x19
    have h20 := all_of_eq (P := OptAll (Keeps s0)) x18 (by
        apply forward1_keeps
        assumption)
    apply x19
    assumption

theorem pumpLinks_keeps {s0 : State} {s : Machine.State} (h1 : Keeps s0 s) :
    Keeps s0 (pumpLinks s) := by
  unfold pumpLinks
  extract_lets +onlyGivenNames x2
  have h3 : Keeps s0 x2 := by
    unfold x2
    apply forwardAll_keeps
    assumption
  clear_value x2
  apply all_ite (P := Keeps s0)
  · assumption
  · apply flushOutbox_keeps
    assumption

theorem execLaneAligned_keeps {s0 : State} {port : ℕ} {lane : ℕ} {s : Machine.State} (h3 : Keeps s0 s) :
    OutKeeps s0 (execLaneAligned port lane s) := by
  unfold execLaneAligned
  apply guardUnit_keeps
  apply all_ite (P := OutKeeps s0)
  · apply OutKeeps.next
    assumption
  · extract_lets +onlyGivenNames x4
    clear_value x4
    extract_lets +onlyGivenNames x5
    have h6 : Keeps s0 x5 := by
      unfold x5
      apply setF_keeps
      assumption
    clear_value x5
    apply all_ite (P := OutKeeps s0)
    · extract_lets +onlyGivenNames x7
      clear_value x7
      extract_lets +onlyGivenNames x8
      have h9 : Keeps s0 x8 := by
        unfold x8
        apply setPort_keeps
        assumption
      clear_value x8
      apply OutKeeps.next
      apply pumpLinks_keeps
      apply sendHello_keeps
      apply setPortState_keeps
      assumption
    · apply OutKeeps.next
      assumption

theorem execLinkFrameReceive_keeps {s0 : State} {port : ℕ} {frame : List Byte} {s : Machine.State} (h3 : Keeps s0 s) :
    OutKeeps s0 (execLinkFrameReceive port frame s) := by
  unfold execLinkFrameReceive
  apply guardUnit_keeps
  apply all_ite (P := OutKeeps s0)
  · apply OutKeeps.next
    assumption
  · extract_lets +onlyGivenNames x4
    clear_value x4
    apply all_ite (P := OutKeeps s0)
    · apply OutKeeps.next
      apply sendReplayReq_keeps
      assumption
    · apply all_ite (P := OutKeeps s0)
      · apply OutKeeps.next
        apply pumpLinks_keeps
        apply takeAck_keeps
        assumption
      · apply all_ite (P := OutKeeps s0)
        · apply OutKeeps.next
          apply sendReplayReq_keeps
          assumption
        · extract_lets +onlyGivenNames x5
          have h6 : Keeps s0 x5 := by
            unfold x5
            apply takeAck_keeps
            assumption
          clear_value x5
          extract_lets +onlyGivenNames x7
          clear_value x7
          extract_lets +onlyGivenNames x8
          clear_value x8
          apply all_ite (P := OutKeeps s0)
          · apply OutKeeps.next
            apply pumpLinks_keeps
            apply setPort_keeps
            assumption
          · extract_lets +onlyGivenNames x9
            clear_value x9
            extract_lets +onlyGivenNames x10
            clear_value x10
            apply all_ite (P := OutKeeps s0)
            · apply OutKeeps.next
              apply pumpLinks_keeps
              apply setPort_keeps
              assumption
            · extract_lets +onlyGivenNames x11
              have h12 : Keeps s0 x11 := by
                unfold x11
                apply setPort_keeps
                assumption
              clear_value x11
              apply OutKeeps.next
              apply pumpLinks_keeps
              apply Keeps.upd
              assumption

theorem failPort_keeps {s0 : State} {s : Machine.State} (h1 : Keeps s0 s) {p : ℕ} :
    Keeps s0 (failPort s p) := by
  unfold failPort
  extract_lets +onlyGivenNames x3
  clear_value x3
  extract_lets +onlyGivenNames x4
  have h5 : Keeps s0 x4 := by
    unfold x4
    apply setPort_keeps
    apply setPortState_keeps
    assumption
  clear_value x4
  apply all_ite (P := Keeps s0)
  · assumption
  · extract_lets +onlyGivenNames x6
    have h7 : Keeps s0 x6 := by
      unfold x6
      apply raiseF_keeps
      assumption
    clear_value x6
    split
    · rename_i x8 x9 x10
      extract_lets +onlyGivenNames x11
      have h12 : Keeps s0 x11 := by
        unfold x11
        apply setF_keeps
        assumption
      clear_value x11
      extract_lets +onlyGivenNames x13
      clear_value x13
      extract_lets +onlyGivenNames x14
      have h15 : Keeps s0 x14 := by
        unfold x14
        apply Keeps.upd
        assumption
      clear_value x14
      apply pumpLinks_keeps
      assumption
    · rename_i x16 x17
      apply pumpLinks_keeps
      assumption

theorem execLightSwitchTimeout_keeps {s0 : State} {port : ℕ} {s : Machine.State} (h2 : Keeps s0 s) :
    OutKeeps s0 (execLightSwitchTimeout port s) := by
  unfold execLightSwitchTimeout
  apply guardUnit_keeps
  apply all_ite (P := OutKeeps s0)
  · apply OutKeeps.next
    assumption
  · apply all_ite (P := OutKeeps s0)
    · apply OutKeeps.next
      apply failPort_keeps
      assumption
    · apply OutKeeps.next
      apply setPort_keeps
      assumption

theorem execPortFailure_keeps {s0 : State} {port : ℕ} {s : Machine.State} (h2 : Keeps s0 s) :
    OutKeeps s0 (execPortFailure port s) := by
  unfold execPortFailure
  apply guardUnit_keeps
  extract_lets +onlyGivenNames x3
  clear_value x3
  apply all_ite (P := OutKeeps s0)
  · apply OutKeeps.next
    assumption
  · apply all_ite (P := OutKeeps s0)
    · apply OutKeeps.next
      apply failPort_keeps
      assumption
    · apply OutKeeps.next
      assumption

/-! ## Ring -/

theorem commitUnreached_keeps {s0 : State} {s : Machine.State} (h1 : Keeps s0 s) {r : CmdRef} {c : Cmd} :
    Keeps s0 (commitUnreached s r c) := by
  unfold commitUnreached
  extract_lets +onlyGivenNames x4
  clear_value x4
  extract_lets +onlyGivenNames x5
  have h6 : Keeps s0 x5 := by
    unfold x5
    apply endCmd_keeps
    assumption
  clear_value x5
  apply all_ite (P := Keeps s0)
  · apply raiseF_keeps
    apply setF_keeps
    assumption
  · apply setF_keeps
    assumption

theorem ringEvicted_keeps {s0 : State} {s : Machine.State} (h1 : Keeps s0 s) {h : ℕ} {k : ℕ} :
    Keeps s0 (ringEvicted s h k) := by
  unfold ringEvicted
  extract_lets +onlyGivenNames x4
  have h5 : Keeps s0 x4 := by
    unfold x4
    apply all_foldl (P := Keeps s0)
    · intro x6 x7 x8
      split
      · rename_i x9 x10 x11
        apply all_ite (P := Keeps s0)
        · apply commitUnreached_keeps
          assumption
        · assumption
      · rename_i x12 x13
        assumption
    · assumption
  clear_value x4
  apply all_foldl (P := Keeps s0)
  · intro x14 x15 x16
    split
    · rename_i x17 x18 x19
      apply all_ite (P := Keeps s0)
      · apply dropItems_keeps
        apply endCmd_keeps
        assumption
      · assumption
    · rename_i x20 x21
      assumption
  · assumption

theorem setClo_keeps {s0 : State} {s : Machine.State} (h1 : Keeps s0 s) {h : ℕ} {v : Clo} :
    Keeps s0 (setClo s h v) := by
  unfold setClo
  apply setH_keeps
  assumption

theorem updColl_keeps {s0 : State} {s : Machine.State} (h1 : Keeps s0 s) {h : ℕ} {id : ℕ} {f : Coll → Coll} :
    Keeps s0 (updColl s h id f) := by
  unfold updColl
  extract_lets +onlyGivenNames x5
  clear_value x5
  apply setClo_keeps
  assumption

/-! ## Context -/

theorem badOp_keeps {s0 : State} {s : Machine.State} (h1 : Keeps s0 s) :
    Keeps s0 (badOp s) := by
  unfold badOp
  apply raiseF_keeps
  assumption

theorem badSeg_keeps {s0 : State} {s : Machine.State} (h1 : Keeps s0 s) :
    Keeps s0 (badSeg s) := by
  unfold badSeg
  apply satF_keeps
  assumption

theorem execDeviceNumberWrite_keeps {s0 : State} {dev : ℕ} {s : Machine.State} (h2 : Keeps s0 s) :
    OutKeeps s0 (execDeviceNumberWrite dev s) := by
  unfold execDeviceNumberWrite
  apply whileServed_keeps
  · assumption
  · apply all_ite (P := OutKeeps s0)
    · apply OutKeeps.next
      apply raiseF_keeps
      assumption
    · apply OutKeeps.next
      apply setF_keeps
      assumption

theorem sendPlain_keeps {s0 : State} {s : Machine.State} (h1 : Keeps s0 s) {k : ℕ} {stype : ℕ} {faddr : ℕ} :
    Keeps s0 (sendPlain s k stype faddr) := by
  unfold sendPlain
  extract_lets +onlyGivenNames x5
  clear_value x5
  apply pumpLinks_keeps
  apply Keeps.upd
  assumption

theorem sendClose_keeps {s0 : State} {s : Machine.State} (h1 : Keeps s0 s) {k : ℕ} :
    Keeps s0 (sendClose s k) := by
  unfold sendClose
  apply sendPlain_keeps
  assumption

theorem sendOpen_keeps {s0 : State} {s : Machine.State} (h1 : Keeps s0 s) {k : ℕ} :
    Keeps s0 (sendOpen s k) := by
  unfold sendOpen
  apply sendPlain_keeps
  assumption

theorem execOpenResendTimer_keeps {s0 : State} {ctx : ℕ} {s : Machine.State} (h2 : Keeps s0 s) :
    OutKeeps s0 (execOpenResendTimer ctx s) := by
  unfold execOpenResendTimer
  apply guardUnit_keeps
  apply all_ite (P := OutKeeps s0)
  · apply OutKeeps.next
    apply sendOpen_keeps
    assumption
  · apply OutKeeps.next
    assumption

theorem sendOpenReply_keeps {s0 : State} {s : Machine.State} (h1 : Keeps s0 s) {k : ℕ} :
    Keeps s0 (sendOpenReply s k) := by
  unfold sendOpenReply
  apply sendPlain_keeps
  assumption

theorem setCtx_keeps {s0 : State} {s : Machine.State} (h1 : Keeps s0 s) {k : ℕ} {v : Ctx} :
    Keeps s0 (setCtx s k v) := by
  unfold setCtx
  apply Keeps.upd
  assumption

theorem accept_keeps {s0 : State} {s : Machine.State} (h1 : Keeps s0 s) {k : ℕ} {gs : List Seg} :
    Keeps s0 (accept s k gs) := by
  unfold accept
  extract_lets +onlyGivenNames x4
  clear_value x4
  extract_lets +onlyGivenNames x5
  clear_value x5
  apply setCtx_keeps
  assumption

theorem ackTo_keeps {s0 : State} {s : Machine.State} (h1 : Keeps s0 s) {k : ℕ} {a : ℕ} :
    Keeps s0 (ackTo s k a) := by
  unfold ackTo
  extract_lets +onlyGivenNames x4
  clear_value x4
  apply all_ite (P := Keeps s0)
  · split
    rename_i x5 x6 x7 x8
    apply setCtx_keeps
    assumption
  · assumption

theorem execContextClose_keeps {s0 : State} {s : Machine.State} (h1 : Keeps s0 s) :
    OutKeeps s0 (execContextClose s) := by
  unfold execContextClose
  apply whileServed_keeps
  · assumption
  · extract_lets +onlyGivenNames x2
    clear_value x2
    extract_lets +onlyGivenNames x3
    clear_value x3
    apply all_ite (P := OutKeeps s0)
    · apply OutKeeps.next
      apply setCtx_keeps
      assumption
    · apply OutKeeps.next
      apply badOp_keeps
      assumption

theorem execContextFree_keeps {s0 : State} {s : Machine.State} (h1 : Keeps s0 s) :
    OutKeeps s0 (execContextFree s) := by
  unfold execContextFree
  apply whileServed_keeps
  · assumption
  · extract_lets +onlyGivenNames x2
    clear_value x2
    extract_lets +onlyGivenNames x3
    clear_value x3
    apply all_ite (P := OutKeeps s0)
    · apply OutKeeps.next
      apply setCtx_keeps
      assumption
    · apply OutKeeps.next
      apply badOp_keeps
      assumption

theorem execContextOpen_keeps {s0 : State} {s : Machine.State} (h1 : Keeps s0 s) :
    OutKeeps s0 (execContextOpen s) := by
  unfold execContextOpen
  apply whileServed_keeps
  · assumption
  · extract_lets +onlyGivenNames x2
    clear_value x2
    split
    · rename_i x3 x4 x5
      apply all_ite (P := OutKeeps s0)
      · apply OutKeeps.next
        apply badOp_keeps
        assumption
      · apply OutKeeps.next
        apply sendOpen_keeps
        apply setCtx_keeps
        assumption
    · rename_i x6 x7
      apply OutKeeps.next
      apply badOp_keeps
      assumption

theorem logMessage_keeps {s0 : State} {s : Machine.State} (h1 : Keeps s0 s) {k : ℕ} {cmd : Option CmdRef} {h : ℕ} {data : List Byte} :
    OptAll (Keeps s0) (Machine.logMessage s k cmd h data) := by
  unfold logMessage
  extract_lets +onlyGivenNames x6
  clear_value x6
  apply all_ite (P := OptAll (Keeps s0))
  · apply OptAll.some
    apply accept_keeps
    assumption
  · exact OptAll.none

theorem rejectSeg_keeps {s0 : State} {s : Machine.State} (h1 : Keeps s0 s) {k : ℕ} {seq : ℕ} {code : ℕ} :
    Keeps s0 (rejectSeg s k seq code) := by
  unfold rejectSeg
  apply accept_keeps
  assumption

theorem sendAck_keeps {s0 : State} {s : Machine.State} (h1 : Keeps s0 s) {k : ℕ} :
    Keeps s0 (sendAck s k) := by
  unfold sendAck
  apply sendPlain_keeps
  apply setCtx_keeps
  assumption

theorem delivered_keeps {s0 : State} {s : Machine.State} (h1 : Keeps s0 s) {k : ℕ} :
    Keeps s0 (delivered s k) := by
  unfold delivered
  extract_lets +onlyGivenNames x3
  clear_value x3
  extract_lets +onlyGivenNames x4
  clear_value x4
  extract_lets +onlyGivenNames x5
  have h6 : Keeps s0 x5 := by
    unfold x5
    apply setCtx_keeps
    assumption
  clear_value x5
  apply all_ite (P := Keeps s0)
  · apply sendAck_keeps
    assumption
  · assumption

theorem execAckDelayExpiry_keeps {s0 : State} {ctx : ℕ} {s : Machine.State} (h2 : Keeps s0 s) :
    OutKeeps s0 (execAckDelayExpiry ctx s) := by
  unfold execAckDelayExpiry
  apply guardUnit_keeps
  extract_lets +onlyGivenNames x3
  clear_value x3
  apply all_ite (P := OutKeeps s0)
  · apply OutKeeps.next
    apply sendAck_keeps
    assumption
  · apply OutKeeps.next
    assumption

theorem serveRead_keeps {s0 : State} {s : Machine.State} (h1 : Keeps s0 s) {k : ℕ} {b : List Byte} :
    OptAll (Keeps s0) (serveRead s k b) := by
  unfold serveRead
  extract_lets +onlyGivenNames x4
  clear_value x4
  extract_lets +onlyGivenNames x5
  clear_value x5
  extract_lets +onlyGivenNames x6
  clear_value x6
  apply all_ite (P := OptAll (Keeps s0))
  · apply OptAll.some
    apply rejectSeg_keeps
    assumption
  · apply all_ite (P := OptAll (Keeps s0))
    · exact OptAll.none
    · split
      · rename_i x7 x8 x9 x10
        apply OptAll.some
        apply rejectSeg_keeps
        apply recordErr_keeps
        assumption
      · rename_i x11 x12
        apply OptAll.some
        apply accept_keeps
        assumption

theorem serveWrite_keeps {s0 : State} {s : Machine.State} (h1 : Keeps s0 s) {k : ℕ} {b : List Byte} :
    OptAll (Keeps s0) (serveWrite s k b) := by
  unfold serveWrite
  extract_lets +onlyGivenNames x4
  clear_value x4
  extract_lets +onlyGivenNames x5
  clear_value x5
  apply all_ite (P := OptAll (Keeps s0))
  · apply OptAll.some
    apply rejectSeg_keeps
    assumption
  · apply all_ite (P := OptAll (Keeps s0))
    · exact OptAll.none
    · split
      · rename_i x6 x7 x8 x9
        apply OptAll.some
        apply rejectSeg_keeps
        apply recordErr_keeps
        assumption
      · rename_i x10 x11
        apply OptAll.some
        apply store_keeps
        assumption

theorem setWin_keeps {s0 : State} {s : Machine.State} (h1 : Keeps s0 s) {b : List Byte} :
    Keeps s0 (setWin s b) := by
  unfold setWin
  apply all_foldl (P := Keeps s0)
  · intro x3 x4 x5
    apply regSet_keeps
    assumption
  · assumption

theorem execContextRead_keeps {s0 : State} {s : Machine.State} (h1 : Keeps s0 s) :
    OutKeeps s0 (execContextRead s) := by
  unfold execContextRead
  apply whileServed_keeps
  · assumption
  · apply OutKeeps.next
    apply setWin_keeps
    assumption

theorem takeSeg_keeps {s0 : State} {s : Machine.State} (h1 : Keeps s0 s) {p : ℕ} {stype : ℕ} {k : Machine.State → ℕ → List Byte → Out} (h5 : ∀ (x6 : Machine.State), Keeps s0 x6 → ∀ (x7 : ℕ) (x8 : List Byte), OutKeeps s0 (k x6 x7 x8)) :
    OutKeeps s0 (takeSeg s p stype k) := by
  unfold takeSeg
  apply guardUnit_keeps
  apply all_ite (P := OutKeeps s0)
  · apply OutKeeps.next
    assumption
  · split
    · rename_i x9 x10
      apply OutKeeps.next
      assumption
    · rename_i x11 x12 x13 x14 x15
      apply all_ite (P := OutKeeps s0)
      · apply h5
        apply freeBuf_keeps
        apply setPort_keeps
        assumption
      · apply OutKeeps.next
        assumption

theorem updSeg_keeps {s0 : State} {s : Machine.State} (h1 : Keeps s0 s) {k : ℕ} {seq : ℕ} {f : Seg → Seg} :
    Keeps s0 (updSeg s k seq f) := by
  unfold updSeg
  extract_lets +onlyGivenNames x5
  clear_value x5
  apply setCtx_keeps
  assumption

theorem voidCmd_keeps {s0 : State} {s : Machine.State} (h1 : Keeps s0 s) {r : CmdRef} :
    Keeps s0 (voidCmd s r) := by
  unfold voidCmd
  apply Keeps.upd
  assumption

theorem failRemote_keeps {s0 : State} {s : Machine.State} (h1 : Keeps s0 s) {r : CmdRef} {e : ReadErr} {addr : ℕ} :
    Keeps s0 (failRemote s r e addr) := by
  unfold failRemote
  extract_lets +onlyGivenNames x5
  clear_value x5
  extract_lets +onlyGivenNames x6
  have h7 : Keeps s0 x6 := by
    unfold x6
    apply voidCmd_keeps
    apply failCmd_keeps
    assumption
  clear_value x6
  apply updCmd_keeps
  assumption

theorem evict_keeps {s0 : State} {s : Machine.State} (h1 : Keeps s0 s) {k : ℕ} {cause : ℕ} :
    Keeps s0 (evict s k cause) := by
  unfold evict
  extract_lets +onlyGivenNames x4
  clear_value x4
  extract_lets +onlyGivenNames x5
  clear_value x5
  extract_lets +onlyGivenNames x6
  have h7 : Keeps s0 x6 := by
    unfold x6
    apply ringEvicted_keeps
    assumption
  clear_value x6
  extract_lets +onlyGivenNames x8
  have h9 : Keeps s0 x8 := by
    unfold x8
    apply setCtx_keeps
    assumption
  clear_value x8
  extract_lets +onlyGivenNames x10
  have h11 : Keeps s0 x10 := by
    unfold x10
    apply raiseF_keeps
    assumption
  clear_value x10
  apply all_foldl (P := Keeps s0)
  · intro x12 x13 x14
    apply failRemote_keeps
    assumption
  · assumption

theorem execContextEvict_keeps {s0 : State} {s : Machine.State} (h1 : Keeps s0 s) :
    OutKeeps s0 (execContextEvict s) := by
  unfold execContextEvict
  apply whileServed_keeps
  · assumption
  · extract_lets +onlyGivenNames x2
    clear_value x2
    extract_lets +onlyGivenNames x3
    clear_value x3
    apply all_ite (P := OutKeeps s0)
    · apply OutKeeps.next
      apply evict_keeps
      assumption
    · apply OutKeeps.next
      apply badOp_keeps
      assumption

theorem execEvictionTimeout_keeps {s0 : State} {ctx : ℕ} {s : Machine.State} (h2 : Keeps s0 s) :
    OutKeeps s0 (execEvictionTimeout ctx s) := by
  unfold execEvictionTimeout
  apply guardUnit_keeps
  extract_lets +onlyGivenNames x3
  clear_value x3
  apply all_ite (P := OutKeeps s0)
  · apply OutKeeps.next
    apply evict_keeps
    assumption
  · apply OutKeeps.next
    assumption

theorem freeCtx_keeps {s0 : State} {s : Machine.State} (h1 : Keeps s0 s) {k : ℕ} :
    Keeps s0 (freeCtx s k) := by
  unfold freeCtx
  extract_lets +onlyGivenNames x3
  clear_value x3
  extract_lets +onlyGivenNames x4
  clear_value x4
  extract_lets +onlyGivenNames x5
  have h6 : Keeps s0 x5 := by
    unfold x5
    apply ringEvicted_keeps
    assumption
  clear_value x5
  extract_lets +onlyGivenNames x7
  have h8 : Keeps s0 x7 := by
    unfold x7
    apply setCtx_keeps
    assumption
  clear_value x7
  apply all_foldl (P := Keeps s0)
  · intro x9 x10 x11
    apply failRemote_keeps
    assumption
  · assumption

theorem sendSeg_keeps {s0 : State} {s : Machine.State} (h1 : Keeps s0 s) {k : ℕ} {g : Seg} :
    Keeps s0 (sendSeg s k g) := by
  unfold sendSeg
  extract_lets +onlyGivenNames x4
  clear_value x4
  extract_lets +onlyGivenNames x5
  clear_value x5
  extract_lets +onlyGivenNames x6
  clear_value x6
  split
  · rename_i x7 x8 x9 x10 x11 x12
    apply failRemote_keeps
    assumption
  · rename_i x13 x14
    assumption
  · rename_i x15 x16 x17 x18 x19
    apply all_ite (P := Keeps s0)
    · assumption
    · apply all_ite (P := Keeps s0)
      · apply updSeg_keeps
        apply unrouted_keeps
        assumption
      · split
        rename_i x20 x21 x22 x23
        apply all_ite (P := Keeps s0)
        · extract_lets +onlyGivenNames x24
          clear_value x24
          extract_lets +onlyGivenNames x25
          have h26 : Keeps s0 x25 := by
            unfold x25
            apply setCtx_keeps
            apply sendFrame_keeps
            assumption
          clear_value x25
          apply updSeg_keeps
          assumption
        · assumption

theorem execSegmentSend_keeps {s0 : State} {ctx : ℕ} {s : Machine.State} (h2 : Keeps s0 s) :
    OutKeeps s0 (execSegmentSend ctx s) := by
  unfold execSegmentSend
  apply guardUnit_keeps
  extract_lets +onlyGivenNames x3
  clear_value x3
  apply all_ite (P := OutKeeps s0)
  · apply OutKeeps.next
    assumption
  · split
    · rename_i x4 x5 x6
      apply OutKeeps.next
      apply sendSeg_keeps
      assumption
    · rename_i x7 x8
      apply all_ite (P := OutKeeps s0)
      · extract_lets +onlyGivenNames x9
        have h10 : Keeps s0 x9 := by
          unfold x9
          apply sendClose_keeps
          apply setCtx_keeps
          assumption
        clear_value x9
        apply OutKeeps.next
        apply all_ite (P := Keeps s0)
        · apply freeCtx_keeps
          assumption
        · assumption
      · apply OutKeeps.next
        assumption

theorem resendAll_keeps {s0 : State} {k : ℕ} {x1 : List Seg} {x2 : Machine.State} (h3 : Keeps s0 x2) :
    Keeps s0 (resendAll k x1 x2) := by
  fun_induction resendAll
  · rename_i x4
    assumption
  · rename_i x5 x6 x7 x8
    apply x8
    apply sendSeg_keeps
    assumption

theorem execRetransmitTimeout_keeps {s0 : State} {ctx : ℕ} {s : Machine.State} (h2 : Keeps s0 s) :
    OutKeeps s0 (execRetransmitTimeout ctx s) := by
  unfold execRetransmitTimeout
  apply guardUnit_keeps
  extract_lets +onlyGivenNames x3
  clear_value x3
  extract_lets +onlyGivenNames x4
  clear_value x4
  apply all_ite (P := OutKeeps s0)
  · apply OutKeeps.next
    assumption
  · extract_lets +onlyGivenNames x5
    have h6 : Keeps s0 x5 := by
      unfold x5
      apply setCtx_keeps
      assumption
    clear_value x5
    apply OutKeeps.next
    apply resendAll_keeps
    assumption

/-! ## Transfer -/

theorem acceptReads_keeps {s0 : State} {s : Machine.State} (h1 : Keeps s0 s) {r : CmdRef} {ks : List ℕ} {fa : ℕ} {o : ℕ} {n : ℕ} :
    Keeps s0 (acceptReads s r ks fa o n) := by
  unfold acceptReads
  apply all_foldl (P := Keeps s0)
  · intro x7 x8 x9
    extract_lets +onlyGivenNames x10
    clear_value x10
    extract_lets +onlyGivenNames x11
    clear_value x11
    extract_lets +onlyGivenNames x12
    have h13 : Keeps s0 x12 := by
      unfold x12
      apply accept_keeps
      assumption
    clear_value x12
    extract_lets +onlyGivenNames x14
    clear_value x14
    apply setCtx_keeps
    assumption
  · assumption

theorem acceptWrites_keeps {s0 : State} {s : Machine.State} (h1 : Keeps s0 s) {r : CmdRef} {k : ℕ} {src : ℕ} {fa : ℕ} {n : ℕ} :
    Keeps s0 (acceptWrites s r k src fa n) := by
  unfold acceptWrites
  apply accept_keeps
  assumption

theorem copySettle_keeps {s0 : State} {s : Machine.State} (h1 : Keeps s0 s) {r : CmdRef} :
    Keeps s0 (copySettle s r) := by
  unfold copySettle
  split
  · rename_i x3 x4
    assumption
  · rename_i x5 x6 x7
    apply all_ite (P := Keeps s0)
    · assumption
    · apply all_ite (P := Keeps s0)
      · apply all_ite (P := Keeps s0)
        · assumption
        · apply succeed_keeps
          assumption
      · apply all_ite (P := Keeps s0)
        · apply succeed_keeps
          assumption
        · assumption

theorem copyUnit_keeps {s0 : State} {h : ℕ} {src : ℕ} {dsts : List ℕ} {i : ℕ} {s : Machine.State} (h5 : Keeps s0 s) :
    ExcAll (Keeps s0) (copyUnit h src dsts i s) := by
  unfold copyUnit
  split
  · rename_i x6 x7 x8
    exact ExcAll.error
  · rename_i x9 x10 x11
    split
    · rename_i x12 x13 x14
      exact ExcAll.error
    · rename_i x15 x16 x17
      apply ExcAll.ok
      apply all_foldl (P := Keeps s0)
      · intro x18 x19 x20
        apply storeCopy_keeps
        assumption
      · assumption

theorem execPoolLease_keeps {s0 : State} {r : CmdRef} {err : Option ReadErr} {s : Machine.State} (h3 : Keeps s0 s) :
    OutKeeps s0 (execPoolLease r err s) := by
  unfold execPoolLease
  apply guardUnit_keeps
  apply dispatch_keeps
  · assumption
  · intro x4 x5 x6
    extract_lets +onlyGivenNames x7
    clear_value x7
    apply all_ite (P := DispKeeps s0)
    · exact DispKeeps.gone
    · apply readOk_keeps
      · assumption
      · extract_lets +onlyGivenNames x8
        clear_value x8
        apply need_keeps
        extract_lets +onlyGivenNames x9
        clear_value x9
        extract_lets +onlyGivenNames x10
        apply waitWhile_keeps
        apply need_keeps
        apply DispKeeps.go
        apply succeed_keeps
        apply setF_keeps
        assumption

theorem execPoolReturn_keeps {s0 : State} {r : CmdRef} {err : Option ReadErr} {s : Machine.State} (h3 : Keeps s0 s) :
    OutKeeps s0 (execPoolReturn r err s) := by
  unfold execPoolReturn
  apply guardUnit_keeps
  apply dispatch_keeps
  · assumption
  · intro x4 x5 x6
    extract_lets +onlyGivenNames x7
    clear_value x7
    apply all_ite (P := DispKeeps s0)
    · exact DispKeeps.gone
    · apply readOk_keeps
      · assumption
      · extract_lets +onlyGivenNames x8
        clear_value x8
        apply need_keeps
        extract_lets +onlyGivenNames x9
        clear_value x9
        apply DispKeeps.go
        apply succeed_keeps
        apply setF_keeps
        assumption

theorem farExpand_keeps {s0 : State} {s : Machine.State} (h1 : Keeps s0 s) {r : CmdRef} {c : Cmd} {hd : CHdr} :
    Keeps s0 (farExpand s r c hd) := by
  unfold farExpand
  extract_lets +onlyGivenNames x5
  clear_value x5
  apply all_ite (P := Keeps s0)
  · apply updJob_keeps
    assumption
  · extract_lets +onlyGivenNames x6
    have h7 : Keeps s0 x6 := by
      unfold x6
      apply Keeps.updAll
      · assumption
      · exact fun w => putBytes_wf _ _ _ w
      · exact id
      · exact le_refl _
    clear_value x6
    split
    rename_i x8 x9 x10 x11 x12
    have h16 := all_of_eq (P := AtFst (Keeps s0)) x12 (by
        apply moveUnits_keeps
        · intro x13 x14 x15
          apply expandTo_keeps
          assumption
        · assumption)
    extract_lets +onlyGivenNames x17
    have h18 : Keeps s0 x17 := by
      unfold x17
      apply Keeps.updAll
      · assumption
      · exact fun w => fmWfFrom_filter _ _ _ w
      · exact id
      · exact le_refl _
    clear_value x17
    split
    · rename_i x19 x20 x21
      have h25 := all_of_eq (P := AtFst (Keeps s0)) x12 (by
          apply moveUnits_keeps
          · intro x22 x23 x24
            apply expandTo_keeps
            assumption
          · assumption)
      apply voidCmd_keeps
      apply endCmd_keeps
      apply noteErr_keeps
      assumption
    · rename_i x26
      have h30 := all_of_eq (P := AtFst (Keeps s0)) x12 (by
          apply moveUnits_keeps
          · intro x27 x28 x29
            apply expandTo_keeps
            assumption
          · assumption)
      assumption
    · rename_i x31
      have h35 := all_of_eq (P := AtFst (Keeps s0)) x12 (by
          apply moveUnits_keeps
          · intro x32 x33 x34
            apply expandTo_keeps
            assumption
          · assumption)
      apply succeed_keeps
      assumption

theorem codedPull_keeps {s0 : State} {s : Machine.State} (h1 : Keeps s0 s) {r : CmdRef} {c : Cmd} :
    Keeps s0 (codedPull s r c) := by
  unfold codedPull
  extract_lets +onlyGivenNames x4
  clear_value x4
  extract_lets +onlyGivenNames x5
  clear_value x5
  extract_lets +onlyGivenNames x6
  have h9 : ∀ (x7 x8 : ℕ), Keeps s0 (x6 x7 x8) := by
    intro x10 x11
    unfold x6
    apply voidCmd_keeps
    apply endCmd_keeps
    assumption
  clear_value x6
  extract_lets +onlyGivenNames x12
  clear_value x12
  apply all_ite (P := Keeps s0)
  · assumption
  · split
    · rename_i x13 x14 x15 x16
      apply all_ite (P := Keeps s0)
      · apply h9
      · extract_lets +onlyGivenNames x17
        clear_value x17
        extract_lets +onlyGivenNames x18
        have h19 : Keeps s0 x18 := by
          unfold x18
          apply updJob_keeps
          apply queueSlots_keeps
          assumption
        clear_value x18
        apply acceptReads_keeps
        assumption
    · rename_i x20 x21
      apply farExpand_keeps
      assumption

theorem copyGo_keeps {s0 : State} {r : CmdRef} {m : Move} {s : Machine.State} (h3 : Keeps s0 s) {c : Cmd} :
    Keeps s0 (copyGo r m s c) := by
  unfold copyGo
  apply all_ite (P := Keeps s0)
  · apply all_ite (P := Keeps s0)
    · apply codedPull_keeps
      assumption
    · assumption
  · apply all_ite (P := Keeps s0)
    · extract_lets +onlyGivenNames x5
      clear_value x5
      apply all_ite (P := Keeps s0)
      · assumption
      · apply moveRun_keeps
        · assumption
        · intro x6 x7 x8
          apply expandTo_keeps
          assumption
        · intro x9 x10
          apply succeed_keeps
          assumption
        · intro x11 x12
          unfold id
          assumption
    · apply moveRun_keeps
      · assumption
      · intro x13 x14 x15
        apply copyUnit_keeps
        assumption
      · intro x16 x17
        apply succeed_keeps
        assumption
      · intro x18 x19
        unfold id
        assumption

theorem flushPull_keeps {s0 : State} {r : CmdRef} {dsts : List ℕ} {x2 : ℕ} {x3 : Machine.State} (h4 : Keeps s0 x3) :
    Keeps s0 (flushPull r dsts x2 x3) := by
  fun_induction flushPull
  · rename_i x5
    assumption
  · rename_i x6 x7 x8
    assumption
  · rename_i x9 x10 x11 x12 x13 x14
    assumption
  · rename_i x15 x16 x17 x18 x19 x20 x21 x22 x23 x24
    apply failRemote_keeps
    assumption
  · rename_i x25 x26 x27 x28 x29 x30 x31 x32
    assumption
  · rename_i x33 x34 x35 x36 x37 x38 x39 x40 x41 x42 x43
    apply x43
    apply updJob_keeps
    unfold x42
    apply all_foldl (P := Keeps s0)
    · intro x44 x45 x46
      apply store_keeps
      assumption
    · assumption

theorem remoteGo_keeps {s0 : State} {s : Machine.State} (h1 : Keeps s0 s) {r : CmdRef} {c : Cmd} {guards : List (ℕ × ℕ)} :
    DispKeeps s0 (remoteGo s r c guards) := by
  unfold remoteGo
  extract_lets +onlyGivenNames x5
  clear_value x5
  extract_lets +onlyGivenNames x6
  clear_value x6
  extract_lets +onlyGivenNames x7
  extract_lets +onlyGivenNames x8
  clear_value x8
  split
  · rename_i x9 x10 x11
    apply all_ite (P := DispKeeps s0)
    · exact DispKeeps.gone
    · exact DispKeeps.stop
  · rename_i x12 x13 x14 x15
    apply all_ite (P := DispKeeps s0)
    · apply all_ite (P := DispKeeps s0)
      · exact DispKeeps.stop
      · apply reachGate_keeps
        · assumption
        · extract_lets +onlyGivenNames x16
          have h17 : Keeps s0 x16 := by
            unfold x16
            apply updJob_keeps
            assumption
          clear_value x16
          apply DispKeeps.go
          apply acceptWrites_keeps
          assumption
    · extract_lets +onlyGivenNames x18
      clear_value x18
      apply reachGate_keeps
      · assumption
      · extract_lets +onlyGivenNames x19
        clear_value x19
        extract_lets +onlyGivenNames x20
        have h21 : Keeps s0 x20 := by
          unfold x20
          apply updJob_keeps
          assumption
        clear_value x20
        apply DispKeeps.go
        apply acceptReads_keeps
        assumption

theorem execCopy_keeps {s0 : State} {r : CmdRef} {m : Move} {s : Machine.State} (h3 : Keeps s0 s) :
    OutKeeps s0 (execCopy r m s) := by
  unfold execCopy
  apply moveCmd_keeps
  · assumption
  · intro x4 x5 x6
    extract_lets +onlyGivenNames x7
    clear_value x7
    extract_lets +onlyGivenNames x8
    clear_value x8
    extract_lets +onlyGivenNames x9
    clear_value x9
    apply need_keeps
    apply all_ite (P := DispKeeps s0)
    · apply DispKeeps.go
      apply succeed_keeps
      assumption
    · apply all_ite (P := DispKeeps s0)
      · apply waitWhile_keeps
        apply remoteGo_keeps
        assumption
      · apply waitWhile_keeps
        apply reachGate_keeps
        · assumption
        · apply DispKeeps.go
          apply updJob_keeps
          assumption
  · intro x10 x11 x12
    apply copyGo_keeps
    assumption

theorem execFill_keeps {s0 : State} {r : CmdRef} {m : Move} {s : Machine.State} (h3 : Keeps s0 s) :
    OutKeeps s0 (execFill r m s) := by
  unfold execFill
  apply moveCmd_keeps
  · assumption
  · intro x4 x5 x6
    extract_lets +onlyGivenNames x7
    clear_value x7
    extract_lets +onlyGivenNames x8
    clear_value x8
    extract_lets +onlyGivenNames x9
    clear_value x9
    extract_lets +onlyGivenNames x10
    clear_value x10
    apply need_keeps
    apply all_ite (P := DispKeeps s0)
    · apply DispKeeps.go
      apply succeed_keeps
      assumption
    · apply all_ite (P := DispKeeps s0)
      · exact DispKeeps.stop
      · apply all_ite (P := DispKeeps s0)
        · exact DispKeeps.gone
        · apply waitWhile_keeps
          apply all_ite (P := DispKeeps s0)
          · apply remoteGo_keeps
            assumption
          · apply all_ite (P := DispKeeps s0)
            · extract_lets +onlyGivenNames x11
              clear_value x11
              apply all_ite (P := DispKeeps s0)
              · exact DispKeeps.gone
              · apply readOk_keeps
                · assumption
                · extract_lets +onlyGivenNames x12
                  clear_value x12
                  apply waitWhile_keeps
                  split
                  · rename_i x13 x14 x15 x16
                    exact DispKeeps.stop
                  · rename_i x17 x18
                    apply reachGate_keeps
                    · assumption
                    · extract_lets +onlyGivenNames x19
                      clear_value x19
                      apply DispKeeps.go
                      apply updJob_keeps
                      apply queueSlots_keeps
                      assumption
            · apply reachGate_keeps
              · assumption
              · apply DispKeeps.go
                apply updJob_keeps
                assumption
  · intro x20 x21 x22
    apply copyGo_keeps
    assumption

theorem serveReply_keeps {s0 : State} {s : Machine.State} (h1 : Keeps s0 s) {k : ℕ} {b : List Byte} :
    Keeps s0 (serveReply s k b) := by
  unfold serveReply
  extract_lets +onlyGivenNames x4
  clear_value x4
  split
  · rename_i x5 x6
    assumption
  · rename_i x7 x8 x9 x10
    extract_lets +onlyGivenNames x11
    clear_value x11
    extract_lets +onlyGivenNames x12
    have h13 : Keeps s0 x12 := by
      unfold x12
      apply setCtx_keeps
      assumption
    clear_value x12
    split
    · rename_i x14 x15
      assumption
    · rename_i x16 x17 x18
      apply all_ite (P := Keeps s0)
      · assumption
      · apply all_ite (P := Keeps s0)
        · extract_lets +onlyGivenNames x19
          clear_value x19
          extract_lets +onlyGivenNames x20
          clear_value x20
          extract_lets +onlyGivenNames x21
          have h22 : Keeps s0 x21 := by
            unfold x21
            apply updJob_keeps
            assumption
          clear_value x21
          split
          · rename_i x23 x24 x25
            apply all_ite (P := Keeps s0)
            · apply codedPull_keeps
              assumption
            · assumption
          · rename_i x26 x27
            assumption
        · extract_lets +onlyGivenNames x28
          have h29 : Keeps s0 x28 := by
            unfold x28
            apply updJob_keeps
            assumption
          clear_value x28
          apply flushPull_keeps
          assumption

theorem unstaged_keeps {s0 : State} {s : Machine.State} (h1 : Keeps s0 s) {c : Cmd} {f : Machine.State → Except RdErr Machine.State} (h4 : ∀ (x5 : Machine.State), Keeps s0 x5 → ExcAll (Keeps s0) (f x5)) :
    ExcAll (Keeps s0) (unstaged s c f) := by
  unfold unstaged
  apply all_ite (P := ExcAll (Keeps s0))
  · apply h4
    assumption
  · split
    · rename_i x6 x7 x8
      have h9 := all_of_eq (P := ExcAll (Keeps s0)) x8 (by
          apply h4
          apply Keeps.updAll
          · assumption
          · exact fun w => putBytes_wf _ _ _ w
          · exact id
          · exact le_refl _)
      exact ExcAll.error
    · rename_i x10 x11 x12
      have h13 := all_of_eq (P := ExcAll (Keeps s0)) x12 (by
          apply h4
          apply Keeps.updAll
          · assumption
          · exact fun w => putBytes_wf _ _ _ w
          · exact id
          · exact le_refl _)
      have h13a := h13.get
      apply ExcAll.ok
      apply Keeps.updAll
      · assumption
      · exact fun w => fmWfFrom_filter _ _ _ w
      · exact id
      · exact le_refl _

/-! ## Deliver -/

theorem takeReject_keeps {s0 : State} {s : Machine.State} (h1 : Keeps s0 s) {k : ℕ} {fa : ℕ} :
    Keeps s0 (takeReject s k fa) := by
  unfold takeReject
  extract_lets +onlyGivenNames x4
  clear_value x4
  extract_lets +onlyGivenNames x5
  clear_value x5
  extract_lets +onlyGivenNames x6
  clear_value x6
  extract_lets +onlyGivenNames x7
  clear_value x7
  split
  · rename_i x8 x9
    apply failRemote_keeps
    assumption
  · rename_i x10
    assumption

theorem deliverSeg_keeps {s0 : State} {s : Machine.State} (h1 : Keeps s0 s) {k : ℕ} {b : List Byte} :
    OptAll (Keeps s0) (deliverSeg s k b) := by
  unfold deliverSeg
  extract_lets +onlyGivenNames x4
  clear_value x4
  extract_lets +onlyGivenNames x5
  have h6 : Keeps s0 x5 := by
    unfold x5
    apply all_ite (P := Keeps s0)
    · apply wakeHall_keeps
      assumption
    · assumption
  clear_value x5
  apply all_ite (P := OptAll (Keeps s0))
  · apply OptAll.some
    apply delivered_keeps
    assumption
  · apply all_ite (P := OptAll (Keeps s0))
    · apply OptAll.some
      apply delivered_keeps
      apply takeReject_keeps
      assumption
    · split
      · rename_i x7 x8
        extract_lets +onlyGivenNames x9
        clear_value x9
        apply all_ite (P := OptAll (Keeps s0))
        · apply all_ite (P := OptAll (Keeps s0))
          · apply OptAll.some
            apply setCtx_keeps
            assumption
          · apply OptAll.some
            apply delivered_keeps
            extract_lets +onlyGivenNames x10
            have h11 : Keeps s0 x10 := by
              unfold x10
              apply setCtx_keeps
              assumption
            clear_value x10
            apply Keeps.upd
            assumption
        · apply all_ite (P := OptAll (Keeps s0))
          · apply OptAll.some
            apply setCtx_keeps
            assumption
          · apply OptAll.some
            apply delivered_keeps
            apply setCtx_keeps
            assumption
      · rename_i x12 x13
        unfold Option.map
        split
        · rename_i x14 x15 x16
          have h17 := all_of_eq (P := OptAll (Keeps s0)) x16 (by
              apply serveWrite_keeps
              assumption)
          have h17a := h17.get
          apply OptAll.some
          apply delivered_keeps
          assumption
        · rename_i x18 x19
          have h20 := all_of_eq (P := OptAll (Keeps s0)) x19 (by
              apply serveWrite_keeps
              assumption)
          exact OptAll.none
      · rename_i x21 x22
        unfold Option.map
        split
        · rename_i x23 x24 x25
          have h26 := all_of_eq (P := OptAll (Keeps s0)) x25 (by
              apply serveRead_keeps
              assumption)
          have h26a := h26.get
          apply OptAll.some
          apply delivered_keeps
          assumption
        · rename_i x27 x28
          have h29 := all_of_eq (P := OptAll (Keeps s0)) x28 (by
              apply serveRead_keeps
              assumption)
          exact OptAll.none
      · rename_i x30 x31 x32 x33
        extract_lets +onlyGivenNames x34
        have h35 : Keeps s0 x34 := by
          unfold x34
          apply serveReply_keeps
          assumption
        clear_value x34
        extract_lets +onlyGivenNames x36
        have h37 : Keeps s0 x36 := by
          unfold x36
          split
          · rename_i x38 x39 x40 x41
            apply copySettle_keeps
            assumption
          · rename_i x42 x43
            assumption
        clear_value x36
        apply OptAll.some
        apply delivered_keeps
        assumption

theorem drainHeld_keeps {s0 : State} {k : ℕ} {x1 : ℕ} {x2 : Machine.State} (h3 : Keeps s0 x2) :
    Keeps s0 (drainHeld k x1 x2) := by
  fun_induction drainHeld
  · rename_i x4
    assumption
  · rename_i x5 x6 x7 x8
    assumption
  · rename_i x9 x10 x11 x12 x13
    assumption
  · rename_i x14 x15 x16 x17 x18 x19 x20
    have h21 := all_of_eq (P := OptAll (Keeps s0)) x20 (by
        apply deliverSeg_keeps
        apply setCtx_keeps
        assumption)
    assumption
  · rename_i x22 x23 x24 x25 x26 x27 x28 x29 x30
    have h31 := all_of_eq (P := OptAll (Keeps s0)) x29 (by
        apply deliverSeg_keeps
        apply setCtx_keeps
        assumption)
    have h31a := h31.get
    apply x30
    assumption

/-! ## Reduce -/

theorem addBlocks_keeps {s0 : State} {s : Machine.State} (h1 : Keeps s0 s) {h : ℕ} {b : List Byte} {k : ℤ} {x5 : List RBlk} :
    OptAll (AtFst (Keeps s0)) (addBlocks s h b k x5) := by
  fun_induction addBlocks
  · rename_i x6
    apply OptAll.some
    apply AtFst.mk
    assumption
  · rename_i x7 x8 x9 x10 x11
    exact OptAll.none
  · rename_i x12 x13 x14 x15 x16 x17 x18 x19 x20 x21 x22 x23 x24
    have h25 := all_of_eq (P := OptAll (AtFst (Keeps s0))) x23 (by
        apply x24
        unfold x22
        apply all_ite (P := Keeps s0)
        · apply countHall_keeps
          unfold x21
          apply all_ite (P := Keeps s0)
          · apply countHall_keeps
            unfold x20
            apply countCvts_keeps
            assumption
          · unfold x20
            apply countCvts_keeps
            assumption
        · unfold x21
          apply all_ite (P := Keeps s0)
          · apply countHall_keeps
            unfold x20
            apply countCvts_keeps
            assumption
          · unfold x20
            apply countCvts_keeps
            assumption)
    exact OptAll.none
  · rename_i x26 x27 x28 x29 x30 x31 x32 x33 x34 x35 x36 x37 x38 x39 x40
    have h41 := all_of_eq (P := OptAll (AtFst (Keeps s0))) x39 (by
        apply x40
        unfold x36
        apply all_ite (P := Keeps s0)
        · apply countHall_keeps
          unfold x35
          apply all_ite (P := Keeps s0)
          · apply countHall_keeps
            unfold x34
            apply countCvts_keeps
            assumption
          · unfold x34
            apply countCvts_keeps
            assumption
        · unfold x35
          apply all_ite (P := Keeps s0)
          · apply countHall_keeps
            unfold x34
            apply countCvts_keeps
            assumption
          · unfold x34
            apply countCvts_keeps
            assumption)
    have h41a := h41.get
    apply OptAll.some
    apply AtFst.mk
    assumption

theorem collSettle_keeps {s0 : State} {s : Machine.State} (h1 : Keeps s0 s) {r : CmdRef} :
    Keeps s0 (collSettle s r) := by
  unfold collSettle
  split
  · rename_i x3 x4 x5
    apply all_ite (P := Keeps s0)
    · apply succeed_keeps
      assumption
    · assumption
  · rename_i x6 x7
    assumption

theorem finalBlock_keeps {s0 : State} {s : Machine.State} (h1 : Keeps s0 s) {h : ℕ} {b : List Byte} {g : Machine.Ring} {j : ℕ} {c : RBlk} :
    Keeps s0 (finalBlock s h b g j c) := by
  unfold finalBlock
  split
  rename_i x7 x8 x9 x10
  extract_lets +onlyGivenNames x11
  clear_value x11
  extract_lets +onlyGivenNames x12
  have h13 : Keeps s0 x12 := by
    unfold x12
    apply countHall_keeps
    apply store_keeps
    assumption
  clear_value x12
  apply updColl_keeps
  assumption

theorem raiseCls_keeps {s0 : State} {s : Machine.State} (h1 : Keeps s0 s) {h : ℕ} {f : Fld} :
    Keeps s0 (raiseCls s h f) := by
  unfold raiseCls
  apply raiseF_keeps
  assumption

theorem residueFail_keeps {s0 : State} {s : Machine.State} (h1 : Keeps s0 s) {r : CmdRef} :
    Keeps s0 (residueFail s r) := by
  unfold residueFail
  apply raiseCls_keeps
  apply voidCmd_keeps
  apply endCmd_keeps
  assumption

theorem retainBlocks_keeps {s0 : State} {s : Machine.State} (h1 : Keeps s0 s) {b : List Byte} {g : Machine.Ring} {j : ℕ} {cs : List RBlk} :
    Keeps s0 (retainBlocks s b g j cs) := by
  unfold retainBlocks
  split
  · rename_i x6
    assumption
  · rename_i x7 x8 x9
    apply store_keeps
    assumption

theorem passBlocks_keeps {s0 : State} {s : Machine.State} (h1 : Keeps s0 s) {r : CmdRef} {b : List Byte} {g : Machine.Ring} {j : ℕ} {cs : List RBlk} :
    OptAll (Keeps s0) (passBlocks s r b g j cs) := by
  unfold passBlocks
  extract_lets +onlyGivenNames x7
  clear_value x7
  apply all_ite (P := OptAll (Keeps s0))
  · apply OptAll.some
    apply all_foldl (P := Keeps s0)
    · intro x8 x9 x10
      apply finalBlock_keeps
      assumption
    · assumption
  · extract_lets +onlyGivenNames x11
    have h12 : Keeps s0 x11 := by
      unfold x11
      apply all_ite (P := Keeps s0)
      · apply retainBlocks_keeps
        assumption
      · assumption
    clear_value x11
    extract_lets +onlyGivenNames x13
    clear_value x13
    extract_lets +onlyGivenNames x14
    clear_value x14
    apply logMessage_keeps
    assumption

theorem firstAdds_keeps {s0 : State} {r : CmdRef} {x1 : ℕ} {x2 : Machine.State} (h3 : Keeps s0 x2) :
    Keeps s0 (firstAdds r x1 x2) := by
  fun_induction firstAdds
  · rename_i x4
    assumption
  · rename_i x5 x6 x7
    assumption
  · rename_i x8 x9 x10 x11 x12
    assumption
  · rename_i x13 x14 x15 x16 x17 x18 x19
    assumption
  · rename_i x20 x21 x22 x23 x24 x25 x26 x27 x28
    assumption
  · rename_i x29 x30 x31 x32 x33 x34 x35 x36 x37 x38 x39 x40 x41 x42
    assumption
  · rename_i x43 x44 x45 x46 x47 x48 x49 x50 x51 x52 x53 x54 x55 x56 x57 x58
    apply voidCmd_keeps
    apply failCmd_keeps
    assumption
  · rename_i x59 x60 x61 x62 x63 x64 x65 x66 x67 x68 x69 x70 x71 x72 x73 x74
    have h75 := all_of_eq (P := OptAll (AtFst (Keeps s0))) x74 (by
        apply addBlocks_keeps
        assumption)
    apply residueFail_keeps
    assumption
  · rename_i x76 x77 x78 x79 x80 x81 x82 x83 x84 x85 x86 x87 x88 x89 x90 x91 x92 x93 x94
    have h95 := all_of_eq (P := OptAll (AtFst (Keeps s0))) x93 (by
        apply addBlocks_keeps
        assumption)
    have h95a := h95.get
    have h96 := all_of_eq (P := OptAll (Keeps s0)) x94 (by
        apply passBlocks_keeps
        assumption)
    apply raiseF_keeps
    assumption
  · rename_i x97 x98 x99 x100 x101 x102 x103 x104 x105 x106 x107 x108 x109 x110 x111 x112 x113 x114 x115 x116 x117 x118
    have h119 := all_of_eq (P := OptAll (AtFst (Keeps s0))) x114 (by
        apply addBlocks_keeps
        assumption)
    have h119a := h119.get
    have h120 := all_of_eq (P := OptAll (Keeps s0)) x116 (by
        apply passBlocks_keeps
        assumption)
    have h120a := h120.get
    apply x118
    apply updJob_keeps
    assumption

theorem sendUnits_keeps {s0 : State} {s : Machine.State} (h1 : Keeps s0 s) {k : ℕ} {cmd : Option CmdRef} {ty : ℕ} {g : Machine.Ring} {shard : ℕ} {epoch : ℕ} {id : ℕ} {u0 : ℕ} {a : ℕ} {real : ℕ} :
    Keeps s0 (sendUnits s k cmd ty g shard epoch id u0 a real) := by
  unfold sendUnits
  extract_lets +onlyGivenNames x12
  clear_value x12
  apply all_foldl (P := Keeps s0)
  · intro x13 x14 x15
    extract_lets +onlyGivenNames x16
    clear_value x16
    extract_lets +onlyGivenNames x17
    clear_value x17
    extract_lets +onlyGivenNames x18
    clear_value x18
    extract_lets +onlyGivenNames x19
    clear_value x19
    apply accept_keeps
    assumption
  · assumption

theorem gatherStart_keeps {s0 : State} {s : Machine.State} (h1 : Keeps s0 s) {r : CmdRef} {b : List Byte} {g : Machine.Ring} :
    Keeps s0 (gatherStart s r b g) := by
  unfold gatherStart
  extract_lets +onlyGivenNames x5
  clear_value x5
  apply all_foldl (P := Keeps s0)
  · intro x6 x7 x8
    split
    rename_i x9 x10 x11 x12
    extract_lets +onlyGivenNames x13
    have h14 : Keeps s0 x13 := by
      unfold x13
      apply storeCopy_keeps
      assumption
    clear_value x13
    apply all_foldl (P := Keeps s0)
    · intro x15 x16 x17
      apply sendUnits_keeps
      assumption
    · assumption
  · assumption

theorem takeMsg_keeps {s0 : State} {s : Machine.State} (h1 : Keeps s0 s) {k : ℕ} :
    Keeps s0 (takeMsg s k) := by
  unfold takeMsg
  apply drainHeld_keeps
  apply delivered_keeps
  apply setCtx_keeps
  assumption

theorem refuseMsg_keeps {s0 : State} {s : Machine.State} (h1 : Keeps s0 s) {k : ℕ} {code : ℕ} :
    Keeps s0 (refuseMsg s k code) := by
  unfold refuseMsg
  extract_lets +onlyGivenNames x4
  clear_value x4
  apply takeMsg_keeps
  apply rejectSeg_keeps
  assumption

theorem execGenWaitExpiry_keeps {s0 : State} {ctx : ℕ} {s : Machine.State} (h2 : Keeps s0 s) :
    OutKeeps s0 (execGenWaitExpiry ctx s) := by
  unfold execGenWaitExpiry
  apply guardUnit_keeps
  extract_lets +onlyGivenNames x3
  clear_value x3
  split
  · rename_i x4 x5
    apply OutKeeps.next
    assumption
  · rename_i x6 x7 x8
    split
    · rename_i x9 x10
      apply OutKeeps.next
      assumption
    · rename_i x11 x12 x13
      apply all_ite (P := OutKeeps s0)
      · apply OutKeeps.next
        apply raiseCls_keeps
        apply refuseMsg_keeps
        assumption
      · apply OutKeeps.next
        assumption

theorem thinWrite_keeps {s0 : State} {s : Machine.State} (h1 : Keeps s0 s) {r : CmdRef} {b : List Byte} {g : Machine.Ring} {i : ℕ} :
    Keeps s0 (thinWrite s r b g i) := by
  unfold thinWrite
  split
  · rename_i x6 x7
    assumption
  · rename_i x8 x9 x10
    extract_lets +onlyGivenNames x11
    clear_value x11
    apply all_ite (P := Keeps s0)
    · assumption
    · split
      rename_i x12 x13 x14 x15
      extract_lets +onlyGivenNames x16
      clear_value x16
      extract_lets +onlyGivenNames x17
      have h18 : Keeps s0 x17 := by
        unfold x17
        apply countHall_keeps
        apply store_keeps
        assumption
      clear_value x17
      apply updJob_keeps
      assumption

theorem thinAll_keeps {s0 : State} {r : CmdRef} {x1 : ℕ} {x2 : Machine.State} (h3 : Keeps s0 x2) :
    Keeps s0 (thinAll r x1 x2) := by
  fun_induction thinAll
  · rename_i x4
    assumption
  · rename_i x5 x6 x7
    assumption
  · rename_i x8 x9 x10 x11 x12 x13
    assumption
  · rename_i x14 x15 x16 x17 x18 x19 x20 x21 x22
    assumption
  · rename_i x23 x24 x25 x26 x27 x28 x29 x30 x31 x32 x33
    assumption
  · rename_i x34 x35 x36 x37 x38 x39 x40 x41 x42 x43 x44 x45 x46 x47 x48 x49 x50 x51 x52
    assumption
  · rename_i x53 x54 x55 x56 x57 x58 x59 x60 x61 x62 x63 x64 x65 x66 x67 x68 x69 x70 x71 x72 x73
    apply voidCmd_keeps
    apply failCmd_keeps
    assumption
  · rename_i x74 x75 x76 x77 x78 x79 x80 x81 x82 x83 x84 x85 x86 x87 x88 x89 x90 x91 x92 x93 x94 x95 x96 x97 x98 x99
    unfold x96
    apply x99
    apply updJob_keeps
    apply all_foldl (P := Keeps s0)
    · intro x100 x101 x102
      apply thinWrite_keeps
      assumption
    · unfold x98
      apply all_foldl (P := Keeps s0)
      · intro x103 x104 x105
        apply updJob_keeps
        assumption
      · unfold x95
        apply countCvts_keeps
        apply store_keeps
        assumption
  · rename_i x106 x107 x108 x109 x110 x111 x112 x113 x114 x115 x116 x117 x118 x119 x120 x121 x122 x123 x124 x125 x126 x127 x128 x129 x130 x131 x132
    have h133 := all_of_eq (P := OptAll (Keeps s0)) x131 (by
        apply logMessage_keeps
        unfold x130
        apply store_keeps
        unfold x127
        apply countCvts_keeps
        apply store_keeps
        assumption)
    apply raiseF_keeps
    assumption
  · rename_i x134 x135 x136 x137 x138 x139 x140 x141 x142 x143 x144 x145 x146 x147 x148 x149 x150 x151 x152 x153 x154 x155 x156 x157 x158 x159 x160 x161 x162
    have h163 := all_of_eq (P := OptAll (Keeps s0)) x161 (by
        apply logMessage_keeps
        unfold x159
        apply store_keeps
        unfold x155
        apply countCvts_keeps
        apply store_keeps
        assumption)
    have h163a := h163.get
    unfold x157
    apply x162
    apply updJob_keeps
    assumption

theorem collGo_keeps {s0 : State} {s : Machine.State} (h1 : Keeps s0 s) {r : CmdRef} :
    Keeps s0 (collGo s r) := by
  unfold collGo
  split
  · rename_i x3 x4
    assumption
  · rename_i x5 x6 x7
    extract_lets +onlyGivenNames x8
    clear_value x8
    extract_lets +onlyGivenNames x9
    have h10 : Keeps s0 x9 := by
      unfold x9
      split
      · rename_i x11 x12
        apply firstAdds_keeps
        assumption
      · rename_i x13 x14
        apply thinAll_keeps
        assumption
      · rename_i x15 x16 x17
        assumption
    clear_value x9
    apply collSettle_keeps
    assumption

theorem execCollective_keeps {s0 : State} {r : CmdRef} {err : Option ReadErr} {s : Machine.State} (h3 : Keeps s0 s) :
    OutKeeps s0 (execCollective r err s) := by
  unfold execCollective
  apply guardUnit_keeps
  split
  · rename_i x4 x5
    apply OutKeeps.next
    assumption
  · rename_i x6 x7 x8
    apply all_ite (P := OutKeeps s0)
    · apply OutKeeps.next
      apply collGo_keeps
      assumption
    · apply dispatch_keeps
      · assumption
      · intro x9 x10 x11
        extract_lets +onlyGivenNames x12
        clear_value x12
        extract_lets +onlyGivenNames x13
        clear_value x13
        apply readOk_keeps
        · assumption
        · extract_lets +onlyGivenNames x14
          clear_value x14
          extract_lets +onlyGivenNames x15
          clear_value x15
          apply all_ite (P := DispKeeps s0)
          · apply DispKeeps.stopIn
            apply updJob_keeps
            assumption
          · apply all_ite (P := DispKeeps s0)
            · exact DispKeeps.stop
            · apply all_ite (P := DispKeeps s0)
              · exact DispKeeps.gone
              · apply all_ite (P := DispKeeps s0)
                · exact DispKeeps.stop
                · apply all_ite (P := DispKeeps s0)
                  · exact DispKeeps.stop
                  · split
                    · rename_i x16 x17
                      exact DispKeeps.stop
                    · rename_i x18 x19 x20
                      apply waitWhile_keeps
                      split
                      · rename_i x21 x22 x23 x24
                        apply all_ite (P := DispKeeps s0)
                        · exact DispKeeps.gone
                        · exact DispKeeps.stop
                      · rename_i x25 x26
                        apply all_ite (P := DispKeeps s0)
                        · exact DispKeeps.stop
                        · extract_lets +onlyGivenNames x27
                          clear_value x27
                          extract_lets +onlyGivenNames x28
                          clear_value x28
                          extract_lets +onlyGivenNames x29
                          clear_value x29
                          extract_lets +onlyGivenNames x30
                          clear_value x30
                          apply waitWhile_keeps
                          apply reachGate_keeps
                          · assumption
                          · extract_lets +onlyGivenNames x31
                            clear_value x31
                            split
                            · rename_i x32 x33
                              exact DispKeeps.wait
                            · rename_i x34 x35 x36 x37
                              apply failRead_keeps
                              assumption
                            · rename_i x38 x39
                              extract_lets +onlyGivenNames x40
                              have h41 : Keeps s0 x40 := by
                                unfold x40
                                apply updJob_keeps
                                assumption
                              clear_value x40
                              extract_lets +onlyGivenNames x42
                              clear_value x42
                              extract_lets +onlyGivenNames x43
                              have h44 : Keeps s0 x43 := by
                                unfold x43
                                apply setClo_keeps
                                assumption
                              clear_value x43
                              apply DispKeeps.go
                              apply collGo_keeps
                              apply all_ite (P := Keeps s0)
                              · apply gatherStart_keeps
                                assumption
                              · assumption

theorem withMsg_keeps {s0 : State} {ctx : ℕ} {ty : ℕ} {s : Machine.State} (h3 : Keeps s0 s) {k : Machine.State → ℕ → Machine.Ring → List Byte → Out} (h5 : ∀ (x6 : Machine.State), Keeps s0 x6 → ∀ (x7 : ℕ) (x8 : Machine.Ring) (x9 : List Byte), OutKeeps s0 (k x6 x7 x8 x9)) :
    OutKeeps s0 (withMsg ctx ty s k) := by
  unfold withMsg
  apply guardUnit_keeps
  extract_lets +onlyGivenNames x10
  clear_value x10
  split
  · rename_i x11 x12
    apply OutKeeps.next
    assumption
  · rename_i x13 x14 x15
    apply all_ite (P := OutKeeps s0)
    · apply OutKeeps.next
      assumption
    · apply all_ite (P := OutKeeps s0)
      · apply OutKeeps.next
        apply raiseCls_keeps
        apply refuseMsg_keeps
        assumption
      · split
        · rename_i x16 x17
          apply OutKeeps.next
          apply raiseCls_keeps
          apply refuseMsg_keeps
          assumption
        · rename_i x18 x19 x20
          apply all_ite (P := OutKeeps s0)
          · apply OutKeeps.next
            apply raiseCls_keeps
            apply refuseMsg_keeps
            assumption
          · apply all_ite (P := OutKeeps s0)
            · apply OutKeeps.next
              assumption
            · apply h5
              assumption

theorem execParameterMessage_keeps {s0 : State} {ctx : ℕ} {s : Machine.State} (h2 : Keeps s0 s) :
    OutKeeps s0 (execParameterMessage ctx s) := by
  unfold execParameterMessage
  apply withMsg_keeps
  · assumption
  · intro x3 x4 x5 x6 x7
    apply all_ite (P := OutKeeps s0)
    · apply OutKeeps.next
      apply takeMsg_keeps
      assumption
    · split
      · rename_i x8 x9
        apply OutKeeps.next
        assumption
      · rename_i x10 x11 x12 x13
        extract_lets +onlyGivenNames x14
        clear_value x14
        extract_lets +onlyGivenNames x15
        clear_value x15
        apply all_ite (P := OutKeeps s0)
        · apply OutKeeps.next
          apply takeMsg_keeps
          apply voidCmd_keeps
          apply endCmd_keeps
          assumption
        · apply all_ite (P := OutKeeps s0)
          · apply OutKeeps.next
            apply raiseCls_keeps
            apply refuseMsg_keeps
            assumption
          · split
            rename_i x16 x17 x18 x19
            extract_lets +onlyGivenNames x20
            clear_value x20
            extract_lets +onlyGivenNames x21
            clear_value x21
            split
            · rename_i x22 x23
              apply OutKeeps.next
              assumption
            · rename_i x24 x25 x26 x27
              apply OutKeeps.next
              apply takeMsg_keeps
              apply voidCmd_keeps
              apply failCmd_keeps
              assumption
            · rename_i x28 x29
              extract_lets +onlyGivenNames x30
              have h31 : Keeps s0 x30 := by
                unfold x30
                apply store_keeps
                assumption
              clear_value x30
              extract_lets +onlyGivenNames x32
              have h33 : Keeps s0 x32 := by
                unfold x32
                apply updJob_keeps
                assumption
              clear_value x32
              apply OutKeeps.next
              apply collSettle_keeps
              apply takeMsg_keeps
              assumption

theorem execReductionBlock_keeps {s0 : State} {ctx : ℕ} {s : Machine.State} (h2 : Keeps s0 s) :
    OutKeeps s0 (execReductionBlock ctx s) := by
  unfold execReductionBlock
  apply withMsg_keeps
  · assumption
  · intro x3 x4 x5 x6 x7
    apply all_ite (P := OutKeeps s0)
    · apply OutKeeps.next
      apply refuseMsg_keeps
      assumption
    · apply all_ite (P := OutKeeps s0)
      · apply OutKeeps.next
        assumption
      · apply all_ite (P := OutKeeps s0)
        · apply OutKeeps.next
          apply takeMsg_keeps
          assumption
        · split
          · rename_i x8 x9
            apply OutKeeps.next
            assumption
          · rename_i x10 x11 x12 x13
            extract_lets +onlyGivenNames x14
            clear_value x14
            extract_lets +onlyGivenNames x15
            clear_value x15
            extract_lets +onlyGivenNames x16
            clear_value x16
            extract_lets +onlyGivenNames x17
            clear_value x17
            extract_lets +onlyGivenNames x18
            clear_value x18
            apply all_ite (P := OutKeeps s0)
            · apply OutKeeps.next
              apply raiseCls_keeps
              apply refuseMsg_keeps
              assumption
            · extract_lets +onlyGivenNames x19
              have h21 : ∀ (x20 : Machine.State), Keeps s0 x20 → Keeps s0 (x19 x20) := by
                intro x22 x23
                unfold x19
                apply collSettle_keeps
                apply takeMsg_keeps
                apply updJob_keeps
                assumption
              clear_value x19
              apply all_ite (P := OutKeeps s0)
              · apply all_ite (P := OutKeeps s0)
                · split
                  · rename_i x24 x25
                    apply OutKeeps.next
                    assumption
                  · rename_i x26 x27 x28 x29
                    apply OutKeeps.next
                    apply takeMsg_keeps
                    apply voidCmd_keeps
                    apply failCmd_keeps
                    assumption
                  · rename_i x30 x31
                    apply OutKeeps.next
                    apply h21
                    apply all_foldl (P := Keeps s0)
                    · intro x32 x33 x34
                      apply finalBlock_keeps
                      assumption
                    · assumption
                · apply OutKeeps.next
                  apply takeMsg_keeps
                  apply residueFail_keeps
                  assumption
              · split
                · rename_i x35 x36
                  apply OutKeeps.next
                  assumption
                · rename_i x37 x38 x39 x40
                  apply OutKeeps.next
                  apply takeMsg_keeps
                  apply voidCmd_keeps
                  apply failCmd_keeps
                  assumption
                · rename_i x41 x42
                  split
                  · rename_i x43 x44
                    have h45 := all_of_eq (P := OptAll (AtFst (Keeps s0))) x44 (by
                        apply addBlocks_keeps
                        assumption)
                    apply OutKeeps.next
                    apply takeMsg_keeps
                    apply residueFail_keeps
                    assumption
                  · rename_i x46 x47 x48 x49
                    have h50 := all_of_eq (P := OptAll (AtFst (Keeps s0))) x49 (by
                        apply addBlocks_keeps
                        assumption)
                    have h50a := h50.get
                    split
                    · rename_i x51 x52
                      have h53 := all_of_eq (P := OptAll (AtFst (Keeps s0))) x49 (by
                          apply addBlocks_keeps
                          assumption)
                      have h53a := h53.get
                      have h54 := all_of_eq (P := OptAll (Keeps s0)) x52 (by
                          apply passBlocks_keeps
                          assumption)
                      apply OutKeeps.next
                      apply raiseF_keeps
                      assumption
                    · rename_i x55 x56 x57
                      have h58 := all_of_eq (P := OptAll (AtFst (Keeps s0))) x49 (by
                          apply addBlocks_keeps
                          assumption)
                      have h58a := h58.get
                      have h59 := all_of_eq (P := OptAll (Keeps s0)) x57 (by
                          apply passBlocks_keeps
                          assumption)
                      have h59a := h59.get
                      apply OutKeeps.next
                      apply h21
                      assumption

theorem execThinnedGroup_keeps {s0 : State} {ctx : ℕ} {s : Machine.State} (h2 : Keeps s0 s) :
    OutKeeps s0 (execThinnedGroup ctx s) := by
  unfold execThinnedGroup
  apply withMsg_keeps
  · assumption
  · intro x3 x4 x5 x6 x7
    apply all_ite (P := OutKeeps s0)
    · apply OutKeeps.next
      apply refuseMsg_keeps
      assumption
    · apply all_ite (P := OutKeeps s0)
      · apply OutKeeps.next
        apply takeMsg_keeps
        assumption
      · split
        · rename_i x8 x9
          apply OutKeeps.next
          assumption
        · rename_i x10 x11 x12 x13
          extract_lets +onlyGivenNames x14
          clear_value x14
          extract_lets +onlyGivenNames x15
          clear_value x15
          split
          rename_i x16 x17 x18 x19
          apply all_ite (P := OutKeeps s0)
          · apply OutKeeps.next
            apply raiseCls_keeps
            apply refuseMsg_keeps
            assumption
          · extract_lets +onlyGivenNames x20
            clear_value x20
            apply all_ite (P := OutKeeps s0)
            · apply OutKeeps.next
              assumption
            · split
              · rename_i x21 x22
                apply OutKeeps.next
                assumption
              · rename_i x23 x24 x25 x26
                apply OutKeeps.next
                apply takeMsg_keeps
                apply voidCmd_keeps
                apply failCmd_keeps
                assumption
              · rename_i x27 x28
                extract_lets +onlyGivenNames x29
                have h30 : Keeps s0 x29 := by
                  unfold x29
                  apply updJob_keeps
                  assumption
                clear_value x29
                apply OutKeeps.next
                apply collSettle_keeps
                apply takeMsg_keeps
                apply all_foldl (P := Keeps s0)
                · intro x31 x32 x33
                  apply thinWrite_keeps
                  assumption
                · assumption

/-! ## Update -/

theorem askKept_keeps {s0 : State} {s : Machine.State} (h1 : Keeps s0 s) {r : CmdRef} {g : Machine.Ring} {b : List Byte} {p : ℕ} {first : ℕ} :
    OptAll (Keeps s0) (askKept s r g b p first) := by
  unfold askKept
  apply logMessage_keeps
  assumption

theorem mirrorOut_keeps {s0 : State} {s : Machine.State} (h1 : Keeps s0 s) {r : CmdRef} :
    Keeps s0 (mirrorOut s r) := by
  unfold mirrorOut
  split
  · rename_i x3 x4
    assumption
  · rename_i x5 x6 x7
    extract_lets +onlyGivenNames x8
    clear_value x8
    apply all_ite (P := Keeps s0)
    · extract_lets +onlyGivenNames x9
      have h10 : Keeps s0 x9 := by
        unfold x9
        apply updJob_keeps
        assumption
      clear_value x9
      split
      · rename_i x11 x12 x13 x14
        split
        · rename_i x15 x16 x17
          split
          rename_i x18 x19 x20 x21
          split
          rename_i x22 x23 x24 x25
          extract_lets +onlyGivenNames x26
          clear_value x26
          extract_lets +onlyGivenNames x27
          have h28 : Keeps s0 x27 := by
            unfold x27
            apply sendUnits_keeps
            assumption
          clear_value x27
          apply sendUnits_keeps
          assumption
        · rename_i x29 x30
          assumption
      · rename_i x31 x32
        assumption
    · assumption

theorem rebuildGrad_keeps {s0 : State} {s : Machine.State} (h1 : Keeps s0 s) {h : ℕ} {x : Coll} {b : List Byte} {j : ℕ} {data : List (ℕ × List Byte)} :
    OptAll (Keeps s0) (rebuildGrad s h x b j data) := by
  unfold rebuildGrad
  extract_lets +onlyGivenNames x7
  clear_value x7
  split
  rename_i x8 x9 x10 x11
  apply all_ite (P := OptAll (Keeps s0))
  · extract_lets +onlyGivenNames x12
    clear_value x12
    extract_lets +onlyGivenNames x13
    clear_value x13
    extract_lets +onlyGivenNames x14
    clear_value x14
    extract_lets +onlyGivenNames x15
    clear_value x15
    apply OptAll.some
    apply all_foldl (P := Keeps s0)
    · intro x16 x17 x18
      extract_lets +onlyGivenNames x19
      clear_value x19
      apply store_keeps
      assumption
    · assumption
  · extract_lets +onlyGivenNames x20
    clear_value x20
    extract_lets +onlyGivenNames x21
    clear_value x21
    apply all_ite (P := OptAll (Keeps s0))
    · exact OptAll.none
    · extract_lets +onlyGivenNames x22
      clear_value x22
      extract_lets +onlyGivenNames x23
      have h24 : Keeps s0 x23 := by
        unfold x23
        apply all_foldl (P := Keeps s0)
        · intro x25 x26 x27
          apply store_keeps
          assumption
        · assumption
      clear_value x23
      apply OptAll.some
      apply updColl_keeps
      assumption

theorem refetch_keeps {s0 : State} {s : Machine.State} (h1 : Keeps s0 s) {r : CmdRef} :
    Keeps s0 (refetch s r) := by
  unfold refetch
  split
  · rename_i x3 x4
    assumption
  · rename_i x5 x6 x7
    extract_lets +onlyGivenNames x8
    clear_value x8
    split
    · rename_i x9 x10
      assumption
    · rename_i x11 x12 x13 x14
      apply all_ite (P := Keeps s0)
      · assumption
      · extract_lets +onlyGivenNames x15
        clear_value x15
        extract_lets +onlyGivenNames x16
        clear_value x16
        extract_lets +onlyGivenNames x17
        clear_value x17
        apply all_ite (P := Keeps s0)
        · split
          · rename_i x18 x19
            assumption
          · rename_i x20 x21 x22 x23
            apply voidCmd_keeps
            apply failCmd_keeps
            assumption
          · rename_i x24 x25
            split
            · rename_i x26 x27 x28
              have h29 := all_of_eq (P := OptAll (Keeps s0)) x28 (by
                  apply rebuildGrad_keeps
                  assumption)
              have h29a := h29.get
              apply mirrorOut_keeps
              apply updJob_keeps
              assumption
            · rename_i x30 x31
              have h32 := all_of_eq (P := OptAll (Keeps s0)) x31 (by
                  apply rebuildGrad_keeps
                  assumption)
              apply residueFail_keeps
              assumption
        · apply all_foldl (P := Keeps s0)
          · intro x33 x34 x35
            extract_lets +onlyGivenNames x36
            clear_value x36
            apply all_ite (P := Keeps s0)
            · assumption
            · split
              · rename_i x37 x38 x39
                have h40 := all_of_eq (P := OptAll (Keeps s0)) x39 (by
                    apply askKept_keeps
                    assumption)
                have h40a := h40.get
                apply updJob_keeps
                assumption
              · rename_i x41 x42
                have h43 := all_of_eq (P := OptAll (Keeps s0)) x42 (by
                    apply askKept_keeps
                    assumption)
                apply raiseF_keeps
                assumption
          · assumption

theorem updPut_keeps {s0 : State} {s : Machine.State} (h1 : Keeps s0 s) {r : CmdRef} {c : Cmd} {t : ℕ} {i : ℕ} :
    Keeps s0 (updPut s r c t i) := by
  unfold updPut
  extract_lets +onlyGivenNames x6
  clear_value x6
  split
  · rename_i x7 x8
    assumption
  · rename_i x9 x10 x11 x12
    split
    rename_i x13 x14 x15 x16
    extract_lets +onlyGivenNames x17
    clear_value x17
    extract_lets +onlyGivenNames x18
    clear_value x18
    extract_lets +onlyGivenNames x19
    clear_value x19
    extract_lets +onlyGivenNames x20
    clear_value x20
    extract_lets +onlyGivenNames x21
    clear_value x21
    extract_lets +onlyGivenNames x22
    clear_value x22
    extract_lets +onlyGivenNames x23
    clear_value x23
    extract_lets +onlyGivenNames x24
    clear_value x24
    extract_lets +onlyGivenNames x25
    have h26 : Keeps s0 x25 := by
      unfold x25
      apply store_keeps
      assumption
    clear_value x25
    extract_lets +onlyGivenNames x27
    have h28 : Keeps s0 x27 := by
      unfold x27
      apply store_keeps
      assumption
    clear_value x27
    apply updJob_keeps
    assumption

theorem updSettle_keeps {s0 : State} {s : Machine.State} (h1 : Keeps s0 s) {r : CmdRef} :
    Keeps s0 (updSettle s r) := by
  unfold updSettle
  split
  · rename_i x3 x4
    assumption
  · rename_i x5 x6 x7
    extract_lets +onlyGivenNames x8
    clear_value x8
    apply all_ite (P := Keeps s0)
    · assumption
    · apply all_ite (P := Keeps s0)
      · split
        · rename_i x9 x10 x11 x12
          extract_lets +onlyGivenNames x13
          clear_value x13
          apply all_ite (P := Keeps s0)
          · apply succeed_keeps
            assumption
          · assumption
        · rename_i x14 x15
          assumption
      · apply all_ite (P := Keeps s0)
        · apply succeed_keeps
          assumption
        · assumption

theorem execHalt_keeps {s0 : State} {t : ℕ} {s : Machine.State} (h2 : Keeps s0 s) :
    OutKeeps s0 (execHalt t s) := by
  unfold execHalt
  apply vecOp_keeps
  · assumption
  · intro x3 x4 x5 x6
    split
    · rename_i x7 x8
      apply haltProgram_keeps
      assumption
    · rename_i x9 x10 x11
      split
      · rename_i x12 x13
        apply haltProgram_keeps
        assumption
      · rename_i x14 x15 x16
        apply all_ite (P := OutKeeps s0)
        · split
          · rename_i x17 x18
            apply OutKeeps.next
            assumption
          · rename_i x19 x20 x21 x22
            apply haltProgram_keeps
            apply failCmd_keeps
            assumption
          · rename_i x23 x24
            split
            · rename_i x25 x26 x27
              have h28 := all_of_eq (P := OutKeeps s0) x27 (by
                  apply haltProgram_keeps
                  apply updPut_keeps
                  assumption)
              apply OutKeeps.next
              apply updSettle_keeps
              apply mirrorOut_keeps
              assumption
            · rename_i x29 x30
              apply haltProgram_keeps
              apply updPut_keeps
              assumption
        · apply haltProgram_keeps
          assumption

theorem execMirrorBytes_keeps {s0 : State} {ctx : ℕ} {s : Machine.State} (h2 : Keeps s0 s) :
    OutKeeps s0 (execMirrorBytes ctx s) := by
  unfold execMirrorBytes
  apply withMsg_keeps
  · assumption
  · intro x3 x4 x5 x6 x7
    apply all_ite (P := OutKeeps s0)
    · apply OutKeeps.next
      apply refuseMsg_keeps
      assumption
    · split
      · rename_i x8 x9
        apply OutKeeps.next
        assumption
      · rename_i x10 x11 x12 x13
        extract_lets +onlyGivenNames x14
        clear_value x14
        split
        · rename_i x15 x16
          apply OutKeeps.next
          assumption
        · rename_i x17 x18 x19 x20
          split
          rename_i x21 x22 x23 x24
          apply all_ite (P := OutKeeps s0)
          · apply OutKeeps.next
            apply raiseCls_keeps
            apply refuseMsg_keeps
            assumption
          · split
            rename_i x25 x26 x27 x28
            extract_lets +onlyGivenNames x29
            clear_value x29
            extract_lets +onlyGivenNames x30
            clear_value x30
            extract_lets +onlyGivenNames x31
            clear_value x31
            split
            · rename_i x32 x33
              apply OutKeeps.next
              assumption
            · rename_i x34 x35 x36 x37
              apply OutKeeps.next
              apply takeMsg_keeps
              apply voidCmd_keeps
              apply failCmd_keeps
              assumption
            · rename_i x38 x39
              extract_lets +onlyGivenNames x40
              have h41 : Keeps s0 x40 := by
                unfold x40
                apply store_keeps
                assumption
              clear_value x40
              extract_lets +onlyGivenNames x42
              have h43 : Keeps s0 x42 := by
                unfold x42
                apply updJob_keeps
                assumption
              clear_value x42
              apply OutKeeps.next
              apply updSettle_keeps
              apply takeMsg_keeps
              assumption

theorem execOwnerUpdate_keeps {s0 : State} {r : CmdRef} {err : Option ReadErr} {s : Machine.State} (h3 : Keeps s0 s) :
    OutKeeps s0 (execOwnerUpdate r err s) := by
  unfold execOwnerUpdate
  apply guardUnit_keeps
  split
  · rename_i x4 x5
    apply OutKeeps.next
    assumption
  · rename_i x6 x7 x8
    apply all_ite (P := OutKeeps s0)
    · apply OutKeeps.next
      apply updSettle_keeps
      apply mirrorOut_keeps
      apply refetch_keeps
      assumption
    · apply dispatch_keeps
      · assumption
      · intro x9 x10 x11
        extract_lets +onlyGivenNames x12
        clear_value x12
        extract_lets +onlyGivenNames x13
        clear_value x13
        apply readOk_keeps
        · assumption
        · extract_lets +onlyGivenNames x14
          clear_value x14
          apply all_ite (P := DispKeeps s0)
          · exact DispKeeps.stop
          · apply all_ite (P := DispKeeps s0)
            · exact DispKeeps.stop
            · apply all_ite (P := DispKeeps s0)
              · exact DispKeeps.gone
              · apply all_ite (P := DispKeeps s0)
                · exact DispKeeps.stop
                · apply all_ite (P := DispKeeps s0)
                  · exact DispKeeps.stop
                  · split
                    · rename_i x15 x16
                      exact DispKeeps.stop
                    · rename_i x17 x18 x19 x20
                      extract_lets +onlyGivenNames x21
                      clear_value x21
                      extract_lets +onlyGivenNames x22
                      clear_value x22
                      apply all_ite (P := DispKeeps s0)
                      · exact DispKeeps.gone
                      · split
                        · rename_i x23 x24
                          exact DispKeeps.gone
                        · rename_i x25 x26
                          apply DispKeeps.stopIn
                          apply raiseProgCheck_keeps
                          assumption
                        · rename_i x27 x28 x29 x30 x31
                          exact DispKeeps.stop
                        · rename_i x32 x33
                          extract_lets +onlyGivenNames x34
                          clear_value x34
                          extract_lets +onlyGivenNames x35
                          clear_value x35
                          extract_lets +onlyGivenNames x36
                          clear_value x36
                          apply all_ite (P := DispKeeps s0)
                          · exact DispKeeps.stop
                          · apply all_ite (P := DispKeeps s0)
                            · exact DispKeeps.stop
                            · split
                              rename_i x37 x38 x39 x40
                              apply waitWhile_keeps
                              apply reachGate_keeps
                              · assumption
                              · extract_lets +onlyGivenNames x41
                                clear_value x41
                                extract_lets +onlyGivenNames x42
                                clear_value x42
                                extract_lets +onlyGivenNames x43
                                have h44 : Keeps s0 x43 := by
                                  unfold x43
                                  apply updJob_keeps
                                  assumption
                                clear_value x43
                                extract_lets +onlyGivenNames x45
                                clear_value x45
                                extract_lets +onlyGivenNames x46
                                clear_value x46
                                extract_lets +onlyGivenNames x47
                                have h48 : Keeps s0 x47 := by
                                  unfold x47
                                  apply setClo_keeps
                                  assumption
                                clear_value x47
                                apply DispKeeps.go
                                apply updSettle_keeps
                                apply mirrorOut_keeps
                                apply refetch_keeps
                                assumption

theorem execRetainedReplay_keeps {s0 : State} {ctx : ℕ} {s : Machine.State} (h2 : Keeps s0 s) :
    OutKeeps s0 (execRetainedReplay ctx s) := by
  unfold execRetainedReplay
  apply withMsg_keeps
  · assumption
  · intro x3 x4 x5 x6 x7
    apply all_ite (P := OutKeeps s0)
    · apply OutKeeps.next
      apply refuseMsg_keeps
      assumption
    · apply all_ite (P := OutKeeps s0)
      · split
        · rename_i x8 x9
          apply OutKeeps.next
          apply refuseMsg_keeps
          assumption
        · rename_i x10 x11 x12 x13
          split
          · rename_i x14 x15
            apply OutKeeps.next
            assumption
          · rename_i x16 x17 x18 x19
            apply OutKeeps.next
            apply refuseMsg_keeps
            apply recordErr_keeps
            assumption
          · rename_i x20 x21
            extract_lets +onlyGivenNames x22
            clear_value x22
            extract_lets +onlyGivenNames x23
            clear_value x23
            extract_lets +onlyGivenNames x24
            clear_value x24
            extract_lets +onlyGivenNames x25
            clear_value x25
            apply all_ite (P := OutKeeps s0)
            · apply OutKeeps.next
              apply takeMsg_keeps
              assumption
            · split
              · rename_i x26 x27 x28
                have h29 := all_of_eq (P := OptAll (Keeps s0)) x28 (by
                    apply logMessage_keeps
                    assumption)
                have h29a := h29.get
                apply OutKeeps.next
                apply takeMsg_keeps
                assumption
              · rename_i x30 x31
                have h32 := all_of_eq (P := OptAll (Keeps s0)) x31 (by
                    apply logMessage_keeps
                    assumption)
                apply OutKeeps.next
                apply raiseF_keeps
                assumption
      · split
        · rename_i x33 x34
          apply OutKeeps.next
          apply takeMsg_keeps
          assumption
        · rename_i x35 x36 x37 x38
          split
          · rename_i x39 x40
            apply OutKeeps.next
            apply takeMsg_keeps
            assumption
          · rename_i x41 x42 x43 x44
            extract_lets +onlyGivenNames x45
            clear_value x45
            extract_lets +onlyGivenNames x46
            clear_value x46
            apply all_ite (P := OutKeeps s0)
            · apply OutKeeps.next
              apply raiseCls_keeps
              apply refuseMsg_keeps
              assumption
            · extract_lets +onlyGivenNames x47
              clear_value x47
              extract_lets +onlyGivenNames x48
              have h49 : Keeps s0 x48 := by
                unfold x48
                apply updJob_keeps
                assumption
              clear_value x48
              apply OutKeeps.next
              apply updSettle_keeps
              apply refetch_keeps
              apply takeMsg_keeps
              assumption

theorem updTake_keeps {s0 : State} {s : Machine.State} (h1 : Keeps s0 s) {r : CmdRef} {c : Cmd} {t : ℕ} {i : ℕ} :
    Keeps s0 (updTake s r c t i) := by
  unfold updTake
  extract_lets +onlyGivenNames x6
  clear_value x6
  split
  · rename_i x7 x8
    assumption
  · rename_i x9 x10 x11 x12
    split
    rename_i x13 x14 x15 x16
    extract_lets +onlyGivenNames x17
    clear_value x17
    extract_lets +onlyGivenNames x18
    clear_value x18
    extract_lets +onlyGivenNames x19
    have h20 : Keeps s0 x19 := by
      unfold x19
      apply memCopy_keeps
      assumption
    clear_value x19
    extract_lets +onlyGivenNames x21
    have h22 : Keeps s0 x21 := by
      unfold x21
      apply memCopy_keeps
      assumption
    clear_value x21
    extract_lets +onlyGivenNames x23
    have h24 : Keeps s0 x23 := by
      unfold x23
      apply memCopy_keeps
      assumption
    clear_value x23
    extract_lets +onlyGivenNames x25
    clear_value x25
    extract_lets +onlyGivenNames x26
    clear_value x26
    extract_lets +onlyGivenNames x27
    clear_value x27
    apply treadStatus_keeps
    apply setT_keeps
    assumption

/-! ## Commit -/

theorem abandonHere_keeps {s0 : State} {s : Machine.State} (h1 : Keeps s0 s) {h : ℕ} {e : ℕ} :
    Keeps s0 (abandonHere s h e) := by
  unfold abandonHere
  extract_lets +onlyGivenNames x4
  have h5 : Keeps s0 x4 := by
    unfold x4
    apply all_foldl (P := Keeps s0)
    · intro x6 x7 x8
      apply all_ite (P := Keeps s0)
      · apply voidCmd_keeps
        apply endCmd_keeps
        assumption
      · assumption
    · assumption
  clear_value x4
  extract_lets +onlyGivenNames x9
  clear_value x9
  extract_lets +onlyGivenNames x10
  have h11 : Keeps s0 x10 := by
    unfold x10
    apply setClo_keeps
    assumption
  clear_value x10
  apply raiseCls_keeps
  apply setF_keeps
  assumption

theorem applyScales_keeps {s0 : State} {h : ℕ} {table : List Byte} {x2 : List ((ℤ × ℕ) × ℕ)} {x3 : Machine.State} (h4 : Keeps s0 x3) :
    Keeps s0 (applyScales h table x2 x3) := by
  fun_induction applyScales
  · rename_i x5
    assumption
  · rename_i x6 x7 x8 x9 x10 x11 x12 x13 x14
    apply x14
    apply memPutNat_keeps
    unfold x13
    apply pushHist_keeps
    assumption
  · rename_i x15 x16 x17 x18 x19 x20 x21
    apply x21
    assumption

theorem applyRecord_keeps {s0 : State} {s : Machine.State} (h1 : Keeps s0 s) {r : CmdRef} {c : Cmd} {body : List Byte} :
    Keeps s0 (applyRecord s r c body) := by
  unfold applyRecord
  extract_lets +onlyGivenNames x5
  clear_value x5
  extract_lets +onlyGivenNames x6
  clear_value x6
  extract_lets +onlyGivenNames x7
  clear_value x7
  extract_lets +onlyGivenNames x8
  have h9 : Keeps s0 x8 := by
    unfold x8
    apply setClo_keeps
    assumption
  clear_value x8
  extract_lets +onlyGivenNames x10
  have h11 : Keeps s0 x10 := by
    unfold x10
    apply setF_keeps
    assumption
  clear_value x10
  extract_lets +onlyGivenNames x12
  have h13 : Keeps s0 x12 := by
    unfold x12
    apply applyScales_keeps
    assumption
  clear_value x12
  extract_lets +onlyGivenNames x14
  clear_value x14
  extract_lets +onlyGivenNames x15
  clear_value x15
  extract_lets +onlyGivenNames x16
  have h17 : Keeps s0 x16 := by
    unfold x16
    apply setClo_keeps
    assumption
  clear_value x16
  extract_lets +onlyGivenNames x18
  have h19 : Keeps s0 x18 := by
    unfold x18
    apply setF_keeps
    assumption
  clear_value x18
  extract_lets +onlyGivenNames x20
  have h21 : Keeps s0 x20 := by
    unfold x20
    apply bumpF_keeps
    assumption
  clear_value x20
  apply succeed_keeps
  apply raiseCls_keeps
  assumption

theorem cloComplete_keeps {s0 : State} {s : Machine.State} (h1 : Keeps s0 s) {h : ℕ} {c : Cmd} :
    Keeps s0 (cloComplete s h c) := by
  unfold cloComplete
  extract_lets +onlyGivenNames x4
  clear_value x4
  extract_lets +onlyGivenNames x5
  clear_value x5
  apply all_ite (P := Keeps s0)
  · extract_lets +onlyGivenNames x6
    clear_value x6
    apply all_ite (P := Keeps s0)
    · assumption
    · apply all_ite (P := Keeps s0)
      · apply updColl_keeps
        assumption
      · apply all_ite (P := Keeps s0)
        · apply setClo_keeps
          assumption
        · assumption
  · apply all_ite (P := Keeps s0)
    · extract_lets +onlyGivenNames x7
      clear_value x7
      extract_lets +onlyGivenNames x8
      clear_value x8
      apply setClo_keeps
      assumption
    · assumption

theorem execCommitSlowExpiry_keeps {s0 : State} {hall : ℕ} {s : Machine.State} (h2 : Keeps s0 s) :
    OutKeeps s0 (execCommitSlowExpiry hall s) := by
  unfold execCommitSlowExpiry
  apply guardUnit_keeps
  apply all_ite (P := OutKeeps s0)
  · apply OutKeeps.next
    assumption
  · apply OutKeeps.next
    apply raiseCls_keeps
    assumption

theorem execEpochSet_keeps {s0 : State} {r : CmdRef} {s : Machine.State} (h2 : Keeps s0 s) :
    OutKeeps s0 (execEpochSet r s) := by
  unfold execEpochSet
  apply guardUnit_keeps
  apply dispatch_keeps
  · assumption
  · intro x3 x4 x5
    extract_lets +onlyGivenNames x6
    clear_value x6
    extract_lets +onlyGivenNames x7
    clear_value x7
    apply all_ite (P := DispKeeps s0)
    · exact DispKeeps.stop
    · apply DispKeeps.go
      apply succeed_keeps
      apply setF_keeps
      assumption

theorem execStepCommit_keeps {s0 : State} {r : CmdRef} {err : Option ReadErr} {s : Machine.State} (h3 : Keeps s0 s) :
    OutKeeps s0 (execStepCommit r err s) := by
  unfold execStepCommit
  apply guardUnit_keeps
  apply dispatch_keeps
  · assumption
  · intro x4 x5 x6
    extract_lets +onlyGivenNames x7
    clear_value x7
    extract_lets +onlyGivenNames x8
    clear_value x8
    extract_lets +onlyGivenNames x9
    clear_value x9
    extract_lets +onlyGivenNames x10
    clear_value x10
    apply need_keeps
    apply waitWhile_keeps
    extract_lets +onlyGivenNames x11
    clear_value x11
    extract_lets +onlyGivenNames x12
    clear_value x12
    apply all_ite (P := DispKeeps s0)
    · exact DispKeeps.stop
    · apply all_ite (P := DispKeeps s0)
      · exact DispKeeps.stop
      · apply all_ite (P := DispKeeps s0)
        · exact DispKeeps.gone
        · apply readOk_keeps
          · assumption
          · extract_lets +onlyGivenNames x13
            clear_value x13
            apply need_keeps
            apply need_keeps
            apply waitWhile_keeps
            extract_lets +onlyGivenNames x14
            have h15 : Keeps s0 x14 := by
              unfold x14
              apply updJob_keeps
              assumption
            clear_value x14
            apply all_ite (P := DispKeeps s0)
            · apply DispKeeps.go
              apply commitUnreached_keeps
              assumption
            · apply DispKeeps.go
              apply all_ite (P := Keeps s0)
              · assumption
              · apply setF_keeps
                assumption

theorem execStepMark_keeps {s0 : State} {r : CmdRef} {s : Machine.State} (h2 : Keeps s0 s) :
    OutKeeps s0 (execStepMark r s) := by
  unfold execStepMark
  apply guardUnit_keeps
  apply dispatch_keeps
  · assumption
  · intro x3 x4 x5
    apply DispKeeps.go
    apply succeed_keeps
    assumption

theorem lostEnds_keeps {s0 : State} {s : Machine.State} (h1 : Keeps s0 s) {h : ℕ} {g : Machine.Ring} {p : ℕ} :
    Keeps s0 (lostEnds s h g p) := by
  unfold lostEnds
  apply all_foldl (P := Keeps s0)
  · intro x5 x6 x7
    split
    rename_i x8 x9 x10
    apply all_ite (P := Keeps s0)
    · assumption
    · apply all_ite (P := Keeps s0)
      · apply voidCmd_keeps
        apply commitUnreached_keeps
        assumption
      · extract_lets +onlyGivenNames x11
        clear_value x11
        extract_lets +onlyGivenNames x12
        clear_value x12
        apply all_ite (P := Keeps s0)
        · apply dropItems_keeps
          apply voidCmd_keeps
          apply endCmd_keeps
          assumption
        · assumption
  · assumption

theorem sendToken_keeps {s0 : State} {s : Machine.State} (h1 : Keeps s0 s) {cmd : Option CmdRef} {h : ℕ} {g : Machine.Ring} {epoch : ℕ} {body : List Byte} :
    OptAll (Keeps s0) (sendToken s cmd h g epoch body) := by
  unfold sendToken
  extract_lets +onlyGivenNames x7
  clear_value x7
  extract_lets +onlyGivenNames x8
  clear_value x8
  apply logMessage_keeps
  assumption

theorem decide'_keeps {s0 : State} {s : Machine.State} (h1 : Keeps s0 s) {r : CmdRef} {c : Cmd} {g : Machine.Ring} {body : List Byte} :
    OptAll (Keeps s0) (decide' s r c g body) := by
  unfold decide'
  extract_lets +onlyGivenNames x6
  clear_value x6
  extract_lets +onlyGivenNames x7
  clear_value x7
  split
  · rename_i x8 x9
    have h10 := all_of_eq (P := OptAll (Keeps s0)) x9 (by
        apply all_ite (P := OptAll (Keeps s0))
        · apply OptAll.some
          assumption
        · apply sendToken_keeps
          assumption)
    exact OptAll.none
  · rename_i x11 x12 x13
    have h14 := all_of_eq (P := OptAll (Keeps s0)) x13 (by
        apply all_ite (P := OptAll (Keeps s0))
        · apply OptAll.some
          assumption
        · apply sendToken_keeps
          assumption)
    have h14a := h14.get
    split
    · rename_i x15 x16 x17
      have h18 := all_of_eq (P := OptAll (Keeps s0)) x13 (by
          apply all_ite (P := OptAll (Keeps s0))
          · apply OptAll.some
            assumption
          · apply sendToken_keeps
            assumption)
      have h18a := h18.get
      apply OptAll.some
      apply setF_keeps
      apply endCmd_keeps
      assumption
    · rename_i x19 x20
      have h21 := all_of_eq (P := OptAll (Keeps s0)) x13 (by
          apply all_ite (P := OptAll (Keeps s0))
          · apply OptAll.some
            assumption
          · apply sendToken_keeps
            assumption)
      have h21a := h21.get
      apply OptAll.some
      apply applyRecord_keeps
      assumption

theorem execStepAbandon_keeps {s0 : State} {r : CmdRef} {s : Machine.State} (h2 : Keeps s0 s) :
    OutKeeps s0 (execStepAbandon r s) := by
  unfold execStepAbandon
  apply guardUnit_keeps
  apply dispatch_keeps
  · assumption
  · intro x3 x4 x5
    extract_lets +onlyGivenNames x6
    clear_value x6
    extract_lets +onlyGivenNames x7
    clear_value x7
    extract_lets +onlyGivenNames x8
    clear_value x8
    split
    · rename_i x9 x10
      apply all_ite (P := DispKeeps s0)
      · apply DispKeeps.go
        apply succeed_keeps
        apply abandonHere_keeps
        assumption
      · apply all_ite (P := DispKeeps s0)
        · exact DispKeeps.stop
        · exact DispKeeps.stop
    · rename_i x11 x12 x13
      apply all_ite (P := DispKeeps s0)
      · exact DispKeeps.stop
      · apply all_ite (P := DispKeeps s0)
        · apply all_ite (P := DispKeeps s0)
          · apply DispKeeps.go
            apply succeed_keeps
            apply abandonHere_keeps
            assumption
          · split
            · rename_i x14 x15 x16
              have h17 := all_of_eq (P := OptAll (Keeps s0)) x16 (by
                  apply sendToken_keeps
                  assumption)
              have h17a := h17.get
              extract_lets +onlyGivenNames x18
              have h19 : Keeps s0 x18 := by
                unfold x18
                apply abandonHere_keeps
                assumption
              clear_value x18
              apply DispKeeps.go
              apply succeed_keeps
              apply setClo_keeps
              assumption
            · rename_i x20 x21
              have h22 := all_of_eq (P := OptAll (Keeps s0)) x21 (by
                  apply sendToken_keeps
                  assumption)
              exact DispKeeps.wait
        · apply all_ite (P := DispKeeps s0)
          · exact DispKeeps.stop
          · exact DispKeeps.stop

theorem setPhase_keeps {s0 : State} {s : Machine.State} (h1 : Keeps s0 s) {r : CmdRef} :
    Keeps s0 (setPhase s r) := by
  unfold setPhase
  apply updJob_keeps
  assumption

theorem execCommitCollectStart_keeps {s0 : State} {r : CmdRef} {s : Machine.State} (h2 : Keeps s0 s) :
    OutKeeps s0 (execCommitCollectStart r s) := by
  unfold execCommitCollectStart
  apply guardUnit_keeps
  split
  · rename_i x3 x4
    apply OutKeeps.next
    assumption
  · rename_i x5 x6 x7
    extract_lets +onlyGivenNames x8
    clear_value x8
    extract_lets +onlyGivenNames x9
    clear_value x9
    extract_lets +onlyGivenNames x10
    clear_value x10
    apply all_ite (P := OutKeeps s0)
    · apply OutKeeps.next
      assumption
    · extract_lets +onlyGivenNames x11
      clear_value x11
      split
      · rename_i x12 x13
        split
        · rename_i x14 x15
          apply OutKeeps.next
          apply endCmd_keeps
          assumption
        · rename_i x16
          apply OutKeeps.next
          apply applyRecord_keeps
          assumption
      · rename_i x17 x18 x19
        apply all_ite (P := OutKeeps s0)
        · apply OutKeeps.next
          assumption
        · extract_lets +onlyGivenNames x20
          clear_value x20
          apply all_ite (P := OutKeeps s0)
          · split
            · rename_i x21 x22 x23
              have h24 := all_of_eq (P := OptAll (Keeps s0)) x23 (by
                  apply decide'_keeps
                  assumption)
              have h24a := h24.get
              apply OutKeeps.next
              assumption
            · rename_i x25 x26
              have h27 := all_of_eq (P := OptAll (Keeps s0)) x26 (by
                  apply decide'_keeps
                  assumption)
              apply OutKeeps.next
              assumption
          · split
            · rename_i x28 x29 x30
              have h31 := all_of_eq (P := OptAll (Keeps s0)) x30 (by
                  apply sendToken_keeps
                  assumption)
              have h31a := h31.get
              apply OutKeeps.next
              apply setPhase_keeps
              assumption
            · rename_i x32 x33
              have h34 := all_of_eq (P := OptAll (Keeps s0)) x33 (by
                  apply sendToken_keeps
                  assumption)
              apply OutKeeps.next
              apply raiseF_keeps
              assumption

theorem mergeToken_keeps {s0 : State} {s : Machine.State} (h1 : Keeps s0 s) {h : ℕ} :
    Keeps s0 (mergeToken s h) := by
  unfold mergeToken
  extract_lets +onlyGivenNames x3
  clear_value x3
  split
  · rename_i x4 x5
    assumption
  · rename_i x6 x7 x8
    extract_lets +onlyGivenNames x9
    clear_value x9
    split
    · rename_i x10 x11 x12 x13 x14 x15 x16
      extract_lets +onlyGivenNames x17
      clear_value x17
      extract_lets +onlyGivenNames x18
      clear_value x18
      apply all_ite (P := Keeps s0)
      · assumption
      · apply all_ite (P := Keeps s0)
        · apply setF_keeps
          apply endCmd_keeps
          apply setClo_keeps
          assumption
        · apply all_ite (P := Keeps s0)
          · assumption
          · extract_lets +onlyGivenNames x19
            clear_value x19
            extract_lets +onlyGivenNames x20
            clear_value x20
            split
            · rename_i x21 x22
              have h23 := all_of_eq (P := OptAll (Keeps s0)) x22 (by
                  apply sendToken_keeps
                  assumption)
              apply raiseF_keeps
              assumption
            · rename_i x24 x25 x26
              have h27 := all_of_eq (P := OptAll (Keeps s0)) x26 (by
                  apply sendToken_keeps
                  assumption)
              have h27a := h27.get
              extract_lets +onlyGivenNames x28
              clear_value x28
              extract_lets +onlyGivenNames x29
              have h30 : Keeps s0 x29 := by
                unfold x29
                apply setPhase_keeps
                apply setClo_keeps
                assumption
              clear_value x29
              apply all_ite (P := Keeps s0)
              · apply setF_keeps
                apply endCmd_keeps
                assumption
              · assumption
    · rename_i x31 x32 x33
      assumption

theorem execCommitToken_keeps {s0 : State} {ctx : ℕ} {s : Machine.State} (h2 : Keeps s0 s) :
    OutKeeps s0 (execCommitToken ctx s) := by
  unfold execCommitToken
  apply guardUnit_keeps
  split
  · rename_i x3 x4
    apply OutKeeps.next
    apply all_ite (P := Keeps s0)
    · apply mergeToken_keeps
      assumption
    · assumption
  · rename_i x5 x6 x7
    apply withMsg_keeps
    · assumption
    · intro x8 x9 x10 x11 x12
      extract_lets +onlyGivenNames x13
      clear_value x13
      extract_lets +onlyGivenNames x14
      clear_value x14
      extract_lets +onlyGivenNames x15
      extract_lets +onlyGivenNames x16
      have h17 : Keeps s0 x16 := by
        unfold x16
        apply setF_keeps
        assumption
      clear_value x16
      extract_lets +onlyGivenNames x18
      have h21 : ∀ (x19 : Machine.State), Keeps s0 x19 → ∀ (x20 : Option CmdRef), OutKeeps s0 (x18 x19 x20) := by
        intro x22 x23 x24
        unfold x18
        split
        · rename_i x25 x26 x27
          have h28 := all_of_eq (P := OptAll (Keeps s0)) x27 (by
              apply sendToken_keeps
              assumption)
          have h28a := h28.get
          apply OutKeeps.next
          apply takeMsg_keeps
          assumption
        · rename_i x29 x30
          have h31 := all_of_eq (P := OptAll (Keeps s0)) x30 (by
              apply sendToken_keeps
              assumption)
          apply OutKeeps.next
          apply raiseF_keeps
          assumption
      clear_value x18
      split
      · rename_i x32 x33
        apply all_ite (P := OutKeeps s0)
        · apply all_ite (P := OutKeeps s0)
          · apply OutKeeps.next
            apply takeMsg_keeps
            assumption
          · split
            · rename_i x34 x35 x36 x37
              apply all_ite (P := OutKeeps s0)
              · apply OutKeeps.next
                apply takeMsg_keeps
                assumption
              · split
                · rename_i x38 x39 x40
                  have h41 := all_of_eq (P := OptAll (Keeps s0)) x40 (by
                      apply decide'_keeps
                      assumption)
                  have h41a := h41.get
                  apply OutKeeps.next
                  apply takeMsg_keeps
                  assumption
                · rename_i x42 x43
                  have h44 := all_of_eq (P := OptAll (Keeps s0)) x43 (by
                      apply decide'_keeps
                      assumption)
                  apply OutKeeps.next
                  apply raiseF_keeps
                  assumption
            · rename_i x45 x46
              apply OutKeeps.next
              apply takeMsg_keeps
              assumption
        · apply OutKeeps.next
          apply mergeToken_keeps
          apply takeMsg_keeps
          apply setClo_keeps
          assumption
      · rename_i x47 x48
        apply all_ite (P := OutKeeps s0)
        · apply OutKeeps.next
          apply takeMsg_keeps
          assumption
        · split
          · rename_i x49 x50 x51 x52 x53 x54
            split
            · rename_i x55 x56 x57
              have h58 := all_of_eq (P := OptAll (Keeps s0)) x57 (by
                  apply sendToken_keeps
                  assumption)
              have h58a := h58.get
              apply OutKeeps.next
              apply takeMsg_keeps
              apply applyRecord_keeps
              assumption
            · rename_i x59 x60
              have h61 := all_of_eq (P := OptAll (Keeps s0)) x60 (by
                  apply sendToken_keeps
                  assumption)
              apply OutKeeps.next
              apply raiseF_keeps
              assumption
          · rename_i x62 x63 x64 x65
            apply h21
            assumption
          · rename_i x66 x67 x68 x69
            apply OutKeeps.next
            assumption
      · rename_i x70 x71
        apply all_ite (P := OutKeeps s0)
        · apply OutKeeps.next
          apply takeMsg_keeps
          apply setClo_keeps
          assumption
        · split
          · rename_i x72 x73 x74
            have h75 := all_of_eq (P := OptAll (Keeps s0)) x74 (by
                apply sendToken_keeps
                assumption)
            have h75a := h75.get
            apply OutKeeps.next
            apply takeMsg_keeps
            apply abandonHere_keeps
            assumption
          · rename_i x76 x77
            have h78 := all_of_eq (P := OptAll (Keeps s0)) x77 (by
                apply sendToken_keeps
                assumption)
            apply OutKeeps.next
            apply raiseF_keeps
            assumption
      · rename_i x79 x80 x81 x82
        apply OutKeeps.next
        apply raiseCls_keeps
        apply refuseMsg_keeps
        assumption

/-! ## AttnCmd -/

theorem attnFinish_keeps {s0 : State} {s : Machine.State} (h1 : Keeps s0 s) {r : CmdRef} :
    Keeps s0 (attnFinish s r) := by
  unfold attnFinish
  split
  · rename_i x3 x4
    assumption
  · rename_i x5 x6 x7
    extract_lets +onlyGivenNames x8
    clear_value x8
    split
    · rename_i x9 x10
      assumption
    · rename_i x11 x12 x13 x14
      extract_lets +onlyGivenNames x15
      clear_value x15
      split
      · rename_i x16 x17
        assumption
      · rename_i x18 x19 x20 x21
        apply failCmd_keeps
        assumption
      · rename_i x22 x23
        extract_lets +onlyGivenNames x24
        clear_value x24
        split
        rename_i x25 x26 x27 x28
        have h29 := all_of_eq (P := AtFst (Keeps s0)) x28 (by
            apply attnPutAll_keeps
            assumption)
        apply succeed_keeps
        apply putGather_keeps
        assumption

theorem attnKeep_keeps {s0 : State} {s : Machine.State} (h1 : Keeps s0 s) {r : CmdRef} {t : ℕ} {rows : List (List ℕ)} :
    Keeps s0 (attnKeep s r t rows) := by
  unfold attnKeep
  apply updJob_keeps
  assumption

theorem attnRows_keeps {s0 : State} {s : Machine.State} (h1 : Keeps s0 s) {h : ℕ} {cmd : Cmd} {t : ℕ} :
    AtSnd (Keeps s0) (attnRows s h cmd t) := by
  unfold attnRows
  extract_lets +onlyGivenNames x5
  clear_value x5
  split
  · rename_i x6 x7
    apply AtSnd.mk
    assumption
  · rename_i x8 x9 x10 x11
    split
    rename_i x12 x13 x14 x15
    apply AtSnd.mk
    apply countCvts_keeps
    assumption

theorem shardSend_keeps {s0 : State} {s : Machine.State} (h1 : Keeps s0 s) {r : CmdRef} :
    Keeps s0 (shardSend s r) := by
  unfold shardSend
  split
  · rename_i x3 x4
    assumption
  · rename_i x5 x6 x7
    extract_lets +onlyGivenNames x8
    clear_value x8
    extract_lets +onlyGivenNames x9
    clear_value x9
    split
    · rename_i x10 x11 x12 x13 x14 x15 x16
      apply all_ite (P := Keeps s0)
      · assumption
      · extract_lets +onlyGivenNames x17
        clear_value x17
        extract_lets +onlyGivenNames x18
        clear_value x18
        extract_lets +onlyGivenNames x19
        clear_value x19
        extract_lets +onlyGivenNames x20
        clear_value x20
        extract_lets +onlyGivenNames x21
        clear_value x21
        apply accept_keeps
        assumption
    · rename_i x22 x23 x24
      assumption

theorem startStep_keeps {s0 : State} {s : Machine.State} (h1 : Keeps s0 s) {r : CmdRef} :
    Keeps s0 (startStep s r) := by
  unfold startStep
  split
  · rename_i x3 x4
    assumption
  · rename_i x5 x6 x7
    extract_lets +onlyGivenNames x8
    clear_value x8
    split
    · rename_i x9 x10
      assumption
    · rename_i x11 x12 x13 x14
      extract_lets +onlyGivenNames x15
      clear_value x15
      apply shardSend_keeps
      apply updJob_keeps
      assumption

theorem execAttention_keeps {s0 : State} {r : CmdRef} {err : Option ReadErr} {s : Machine.State} (h3 : Keeps s0 s) :
    OutKeeps s0 (execAttention r err s) := by
  unfold execAttention
  apply guardUnit_keeps
  apply dispatch_keeps
  · assumption
  · intro x4 x5 x6
    extract_lets +onlyGivenNames x7
    clear_value x7
    apply learnGate_keeps
    · assumption
    · apply all_ite (P := DispKeeps s0)
      · exact DispKeeps.gone
      · apply readOk_keeps
        · assumption
        · extract_lets +onlyGivenNames x8
          clear_value x8
          extract_lets +onlyGivenNames x9
          clear_value x9
          apply waitWhile_keeps
          apply all_ite (P := DispKeeps s0)
          · exact DispKeeps.stop
          · extract_lets +onlyGivenNames x10
            clear_value x10
            apply waitWhile_keeps
            split
            · rename_i x11 x12 x13 x14 x15
              apply all_ite (P := DispKeeps s0)
              · exact DispKeeps.gone
              · exact DispKeeps.stop
            · rename_i x16 x17 x18 x19
              exact DispKeeps.stop
            · rename_i x20 x21 x22 x23 x24 x25
              apply all_ite (P := DispKeeps s0)
              · exact DispKeeps.stop
              · extract_lets +onlyGivenNames x26
                clear_value x26
                extract_lets +onlyGivenNames x27
                clear_value x27
                apply all_ite (P := DispKeeps s0)
                · exact DispKeeps.stop
                · extract_lets +onlyGivenNames x28
                  clear_value x28
                  apply waitWhile_keeps
                  apply reachGate_keeps
                  · assumption
                  · extract_lets +onlyGivenNames x29
                    clear_value x29
                    extract_lets +onlyGivenNames x30
                    have h31 : Keeps s0 x30 := by
                      unfold x30
                      apply updJob_keeps
                      assumption
                    clear_value x30
                    apply DispKeeps.go
                    apply all_ite (P := Keeps s0)
                    · apply startStep_keeps
                      assumption
                    · assumption

theorem storeShard_keeps {s0 : State} {s : Machine.State} (h1 : Keeps s0 s) {r : CmdRef} {cmd : Cmd} {c : CacheRec} {a : Att} {m : List Byte} :
    Keeps s0 (storeShard s r cmd c a m) := by
  unfold storeShard
  extract_lets +onlyGivenNames x7
  clear_value x7
  extract_lets +onlyGivenNames x8
  clear_value x8
  extract_lets +onlyGivenNames x9
  have h10 : Keeps s0 x9 := by
    unfold x9
    apply all_foldl (P := Keeps s0)
    · intro x11 x12 x13
      apply all_foldl (P := Keeps s0)
      · intro x14 x15 x16
        apply store_keeps
        assumption
      · assumption
    · assumption
  clear_value x9
  apply updJob_keeps
  assumption

theorem execRingRotationStep_keeps {s0 : State} {r : CmdRef} {s : Machine.State} (h2 : Keeps s0 s) :
    OutKeeps s0 (execRingRotationStep r s) := by
  unfold execRingRotationStep
  apply guardUnit_keeps
  split
  · rename_i x3 x4
    apply OutKeeps.next
    assumption
  · rename_i x5 x6 x7
    extract_lets +onlyGivenNames x8
    clear_value x8
    extract_lets +onlyGivenNames x9
    clear_value x9
    apply all_ite (P := OutKeeps s0)
    · apply OutKeeps.next
      assumption
    · split
      · rename_i x10 x11 x12 x13 x14 x15 x16
        extract_lets +onlyGivenNames x17
        clear_value x17
        apply all_ite (P := OutKeeps s0)
        · apply OutKeeps.next
          apply all_ite (P := Keeps s0)
          · apply attnFinish_keeps
            assumption
          · assumption
        · extract_lets +onlyGivenNames x18
          clear_value x18
          extract_lets +onlyGivenNames x19
          clear_value x19
          extract_lets +onlyGivenNames x20
          have h21 : OutKeeps s0 x20 := by
            unfold x20
            split
            · rename_i x22 x23 x24
              apply all_ite (P := OutKeeps s0)
              · apply OutKeeps.next
                assumption
              · apply all_ite (P := OutKeeps s0)
                · apply OutKeeps.next
                  apply raiseCls_keeps
                  apply refuseMsg_keeps
                  assumption
                · apply all_ite (P := OutKeeps s0)
                  · apply OutKeeps.next
                    apply takeMsg_keeps
                    apply dropItems_keeps
                    apply voidCmd_keeps
                    apply endCmd_keeps
                    assumption
                  · apply all_ite (P := OutKeeps s0)
                    · apply OutKeeps.next
                      apply takeMsg_keeps
                      apply dropItems_keeps
                      apply voidCmd_keeps
                      apply endCmd_keeps
                      assumption
                    · split
                      · rename_i x25 x26
                        apply OutKeeps.next
                        assumption
                      · rename_i x27 x28 x29 x30
                        apply OutKeeps.next
                        apply takeMsg_keeps
                        apply dropItems_keeps
                        apply voidCmd_keeps
                        apply failCmd_keeps
                        assumption
                      · rename_i x31 x32
                        apply OutKeeps.next
                        apply takeMsg_keeps
                        apply storeShard_keeps
                        assumption
            · rename_i x33 x34
              apply OutKeeps.next
              assumption
          clear_value x20
          split
          · rename_i x35 x36
            split
            · rename_i x37 x38 x39
              apply all_ite (P := OutKeeps s0)
              · apply OutKeeps.next
                apply startStep_keeps
                apply updJob_keeps
                assumption
              · apply OutKeeps.next
                assumption
            · rename_i x40 x41
              apply OutKeeps.next
              assumption
          · rename_i x42 x43
            assumption
      · rename_i x44 x45 x46
        apply OutKeeps.next
        assumption

/-! ## Segments -/

theorem openCtx_keeps {s0 : State} {s : Machine.State} (h1 : Keeps s0 s) {k : ℕ} {inc : ℕ} :
    Keeps s0 (openCtx s k inc) := by
  unfold openCtx
  apply setCtx_keeps
  assumption

theorem settle_keeps {s0 : State} {s : Machine.State} (h1 : Keeps s0 s) {r : CmdRef} :
    Keeps s0 (settle s r) := by
  unfold settle
  apply updSettle_keeps
  apply collSettle_keeps
  apply copySettle_keeps
  assumption

theorem ackIn_keeps {s0 : State} {s : Machine.State} (h1 : Keeps s0 s) {k : ℕ} {a : ℕ} :
    Keeps s0 (ackIn s k a) := by
  unfold ackIn
  extract_lets +onlyGivenNames x4
  clear_value x4
  apply all_foldl (P := Keeps s0)
  · intro x5 x6 x7
    apply settle_keeps
    assumption
  · apply ackTo_keeps
    assumption

theorem numbered_keeps {s0 : State} {port : ℕ} {stype : ℕ} {x2 : Machine.State} (h3 : Keeps s0 x2) :
    OutKeeps s0 (numbered port stype x2) := by
  unfold numbered
  apply takeSeg_keeps
  · assumption
  · intro x4 x5 x6 x7
    extract_lets +onlyGivenNames x8
    clear_value x8
    apply all_ite (P := OutKeeps s0)
    · apply OutKeeps.next
      apply badSeg_keeps
      assumption
    · apply all_ite (P := OutKeeps s0)
      · apply OutKeeps.next
        apply sendClose_keeps
        apply badSeg_keeps
        assumption
      · apply all_ite (P := OutKeeps s0)
        · apply OutKeeps.next
          apply evict_keeps
          assumption
        · extract_lets +onlyGivenNames x9
          clear_value x9
          apply all_ite (P := OutKeeps s0)
          · apply OutKeeps.next
            apply sendAck_keeps
            apply ackIn_keeps
            apply setCtx_keeps
            assumption
          · apply all_ite (P := OutKeeps s0)
            · apply all_ite (P := OutKeeps s0)
              · apply OutKeeps.next
                apply ackIn_keeps
                assumption
              · split
                · rename_i x10 x11 x12
                  have h13 := all_of_eq (P := OptAll (Keeps s0)) x12 (by
                      apply deliverSeg_keeps
                      assumption)
                  have h13a := h13.get
                  apply OutKeeps.next
                  apply ackIn_keeps
                  apply drainHeld_keeps
                  assumption
                · rename_i x14 x15
                  have h16 := all_of_eq (P := OptAll (Keeps s0)) x15 (by
                      apply deliverSeg_keeps
                      assumption)
                  apply OutKeeps.next
                  assumption
            · apply all_ite (P := OutKeeps s0)
              · apply OutKeeps.next
                apply ackIn_keeps
                apply setCtx_keeps
                assumption
              · apply OutKeeps.next
                assumption

theorem execDataSegment_keeps {s0 : State} {port : ℕ} {s : Machine.State} (h2 : Keeps s0 s) :
    OutKeeps s0 (execDataSegment port s) := by
  unfold execDataSegment
  apply numbered_keeps
  assumption

theorem execRejectSegment_keeps {s0 : State} {port : ℕ} {s : Machine.State} (h2 : Keeps s0 s) :
    OutKeeps s0 (execRejectSegment port s) := by
  unfold execRejectSegment
  apply numbered_keeps
  assumption

theorem execVoidSegment_keeps {s0 : State} {port : ℕ} {s : Machine.State} (h2 : Keeps s0 s) :
    OutKeeps s0 (execVoidSegment port s) := by
  unfold execVoidSegment
  apply numbered_keeps
  assumption

theorem unnumbered_keeps {s0 : State} {port : ℕ} {stype : ℕ} {x2 : Machine.State} (h3 : Keeps s0 x2) {f : Machine.State → ℕ → Ctx → List Byte → Out} (h5 : ∀ (x6 : Machine.State), Keeps s0 x6 → ∀ (x7 : ℕ) (x8 : Ctx) (x9 : List Byte), OutKeeps s0 (f x6 x7 x8 x9)) :
    OutKeeps s0 (unnumbered port stype x2 f) := by
  unfold unnumbered
  apply takeSeg_keeps
  · assumption
  · intro x10 x11 x12 x13
    extract_lets +onlyGivenNames x14
    clear_value x14
    apply all_ite (P := OutKeeps s0)
    · apply OutKeeps.next
      apply badSeg_keeps
      assumption
    · apply h5
      assumption

theorem execAckSegment_keeps {s0 : State} {port : ℕ} {s : Machine.State} (h2 : Keeps s0 s) :
    OutKeeps s0 (execAckSegment port s) := by
  unfold execAckSegment
  apply unnumbered_keeps
  · assumption
  · intro x3 x4 x5 x6 x7
    apply all_ite (P := OutKeeps s0)
    · apply OutKeeps.next
      apply evict_keeps
      assumption
    · apply all_ite (P := OutKeeps s0)
      · apply OutKeeps.next
        apply ackIn_keeps
        assumption
      · apply OutKeeps.next
        apply badSeg_keeps
        assumption

theorem execCloseSegment_keeps {s0 : State} {port : ℕ} {s : Machine.State} (h2 : Keeps s0 s) :
    OutKeeps s0 (execCloseSegment port s) := by
  unfold execCloseSegment
  apply unnumbered_keeps
  · assumption
  · intro x3 x4 x5 x6 x7
    apply all_ite (P := OutKeeps s0)
    · apply OutKeeps.next
      apply evict_keeps
      assumption
    · apply all_ite (P := OutKeeps s0)
      · apply OutKeeps.next
        apply evict_keeps
        assumption
      · apply all_ite (P := OutKeeps s0)
        · apply all_ite (P := OutKeeps s0)
          · apply OutKeeps.next
            apply freeCtx_keeps
            assumption
          · apply OutKeeps.next
            apply setCtx_keeps
            assumption
        · apply OutKeeps.next
          assumption

theorem execOpenReplySegment_keeps {s0 : State} {port : ℕ} {s : Machine.State} (h2 : Keeps s0 s) :
    OutKeeps s0 (execOpenReplySegment port s) := by
  unfold execOpenReplySegment
  apply unnumbered_keeps
  · assumption
  · intro x3 x4 x5 x6 x7
    apply all_ite (P := OutKeeps s0)
    · apply OutKeeps.next
      apply openCtx_keeps
      assumption
    · apply all_ite (P := OutKeeps s0)
      · apply OutKeeps.next
        apply evict_keeps
        assumption
      · apply OutKeeps.next
        assumption

theorem execOpenSegment_keeps {s0 : State} {port : ℕ} {s : Machine.State} (h2 : Keeps s0 s) :
    OutKeeps s0 (execOpenSegment port s) := by
  unfold execOpenSegment
  apply unnumbered_keeps
  · assumption
  · intro x3 x4 x5 x6 x7
    extract_lets +onlyGivenNames x8
    clear_value x8
    apply all_ite (P := OutKeeps s0)
    · apply OutKeeps.next
      apply sendOpenReply_keeps
      apply openCtx_keeps
      assumption
    · apply all_ite (P := OutKeeps s0)
      · apply all_ite (P := OutKeeps s0)
        · apply all_ite (P := OutKeeps s0)
          · apply OutKeeps.next
            apply evict_keeps
            assumption
          · apply OutKeeps.next
            apply sendOpenReply_keeps
            assumption
        · apply all_ite (P := OutKeeps s0)
          · apply OutKeeps.next
            apply evict_keeps
            assumption
          · apply OutKeeps.next
            apply setCtx_keeps
            assumption
      · apply OutKeeps.next
        assumption

end Sys2Proof.Machine
end

