-- ==== Sys2Proof/Laws/KeepsRun.lean ====
section
/-! SUPPORT. No operation of these files touches what waits, the canonical form of memory and registers, or the free values
drawn: Items, Power, Icu, Image, Validate, Xfm, Security, Mez, Queue, Cold, Complete. -/

namespace Sys2Proof.Machine

/-! ## Items -/

theorem abandonItem_keeps {s0 : State} {s : Machine.State} (h1 : Keeps s0 s) {r : CmdRef} {i : ℕ} :
    Keeps s0 (abandonItem s r i) := by
  unfold abandonItem
  split
  · rename_i x4 x5
    assumption
  · rename_i x6 x7 x8
    apply all_ite (P := Keeps s0)
    · assumption
    · apply all_ite (P := Keeps s0)
      · apply dropItems_keeps
        apply endCmd_keeps
        assumption
      · apply updJob_keeps
        assumption

theorem combineTile_keeps {s0 : State} {s : Machine.State} (h1 : Keeps s0 s) {r : CmdRef} {c : Cmd} {i : ℕ} :
    Keeps s0 (combineTile s r c i) := by
  unfold combineTile
  apply all_ite (P := Keeps s0)
  · extract_lets +onlyGivenNames x5
    clear_value x5
    split
    · rename_i x6 x7
      assumption
    · rename_i x8 x9 x10 x11
      extract_lets +onlyGivenNames x12
      clear_value x12
      split
      rename_i x13 x14 x15 x16
      have h17 := all_of_eq (P := AtFst (Keeps s0)) x16 (by
          apply attnPutAll_keeps
          assumption)
      apply putGather_keeps
      assumption
  · extract_lets +onlyGivenNames x18
    clear_value x18
    extract_lets +onlyGivenNames x19
    clear_value x19
    split
    rename_i x20 x21 x22 x23 x24 x25
    have h26 := all_of_eq (P := AtFst (AtFst (Keeps s0))) x25 (by
        apply PCtx.drainRows_keeps
        apply AtFst.mk
        assumption)
    extract_lets +onlyGivenNames x27
    have h28 : Keeps s0 x27 := by
      unfold x27
      apply all_ite (P := Keeps s0)
      · apply PCtx.mergeBest_keeps
        assumption
      · assumption
    clear_value x27
    apply putGather_keeps
    assumption

theorem directItem_keeps {s0 : State} {s : Machine.State} (h1 : Keeps s0 s) {r : CmdRef} {c : Cmd} {i : ℕ} :
    ExcAll (Keeps s0) (directItem s r c i) := by
  unfold directItem
  apply all_ite (P := ExcAll (Keeps s0))
  · split
    · rename_i x5 x6 x7
      exact ExcAll.error
    · rename_i x8 x9
      apply ExcAll.ok
      apply packItem_keeps
      assumption
  · extract_lets +onlyGivenNames x10
    clear_value x10
    apply all_ite (P := ExcAll (Keeps s0))
    · apply expandTile_keeps
      assumption
    · apply unstaged_keeps
      · assumption
      · intro x11 x12
        apply expandTile_keeps
        assumption

theorem drainHeldRows_keeps {s0 : State} {s : Machine.State} (h1 : Keeps s0 s) {hd : Held} {n : ℕ} :
    AtFst (Keeps s0) (drainHeldRows s hd n) := by
  unfold drainHeldRows
  split
  · rename_i x4 x5
    apply AtFst.mk
    assumption
  · rename_i x6 x7 x8
    apply all_ite (P := AtFst (Keeps s0))
    · extract_lets +onlyGivenNames x9
      clear_value x9
      split
      · rename_i x10 x11
        apply AtFst.mk
        assumption
      · rename_i x12 x13 x14 x15
        apply all_ite (P := AtFst (Keeps s0))
        · apply AtFst.mk
          assumption
        · extract_lets +onlyGivenNames x16
          clear_value x16
          split
          rename_i x17 x18 x19 x20 x21 x22
          have h23 := all_of_eq (P := AtFst (Keeps s0)) x22 (by
              apply attnDrain_keeps
              apply AtFst.mk
              assumption)
          apply AtFst.mk
          apply putGather_keeps
          assumption
    · extract_lets +onlyGivenNames x24
      clear_value x24
      apply all_ite (P := AtFst (Keeps s0))
      · extract_lets +onlyGivenNames x25
        clear_value x25
        split
        · rename_i x26 x27 x28
          apply AtFst.mk
          assumption
        · rename_i x29 x30
          extract_lets +onlyGivenNames x31
          have h32 : Keeps s0 x31 := by
            unfold x31
            apply all_foldl (P := Keeps s0)
            · intro x33 x34 x35
              apply PCtx.putPartial_keeps
              assumption
            · assumption
          clear_value x31
          apply AtFst.mk
          apply spansWrote_keeps
          assumption
      · split
        rename_i x36 x37 x38 x39 x40 x41
        have h42 := all_of_eq (P := AtFst (AtFst (Keeps s0))) x41 (by
            apply PCtx.drainRows_keeps
            apply AtFst.mk
            assumption)
        apply AtFst.mk
        apply putGather_keeps
        assumption

theorem drainTread_keeps {s0 : State} {s : Machine.State} (h1 : Keeps s0 s) {t : ℕ} {n : ℕ} :
    Keeps s0 (drainTread s t n) := by
  unfold drainTread
  split
  · rename_i x4 x5
    assumption
  · rename_i x6 x7 x8
    split
    · rename_i x9 x10 x11 x12 x13 x14
      have h15 := all_of_eq (P := AtFst (Keeps s0)) x14 (by
          apply drainHeldRows_keeps
          assumption)
      apply failCmd_keeps
      assumption
    · rename_i x16 x17 x18 x19 x20 x21
      have h22 := all_of_eq (P := AtFst (Keeps s0)) x21 (by
          apply drainHeldRows_keeps
          assumption)
      apply setT_keeps
      assumption

theorem execGroupBlockFetch_keeps {s0 : State} {r : CmdRef} {f : BlockFetch} {s : Machine.State} (h3 : Keeps s0 s) :
    OutKeeps s0 (execGroupBlockFetch r f s) := by
  unfold execGroupBlockFetch
  apply guardUnit_keeps
  split
  · rename_i x4 x5
    apply OutKeeps.next
    assumption
  · rename_i x6 x7 x8
    split
    · rename_i x9 x10
      apply OutKeeps.next
      assumption
    · rename_i x11 x12 x13
      extract_lets +onlyGivenNames x14
      clear_value x14
      extract_lets +onlyGivenNames x15
      clear_value x15
      extract_lets +onlyGivenNames x16
      have h17 : Keeps s0 x16 := by
        unfold x16
        apply updJob_keeps
        assumption
      clear_value x16
      apply all_ite (P := OutKeeps s0)
      · apply OutKeeps.next
        assumption
      · apply OutKeeps.next
        apply updJob_keeps
        assumption

theorem forceTread_keeps {s0 : State} {s : Machine.State} (h1 : Keeps s0 s) {t : ℕ} :
    Keeps s0 (forceTread s t) := by
  unfold forceTread
  extract_lets +onlyGivenNames x3
  clear_value x3
  extract_lets +onlyGivenNames x4
  have h5 : Keeps s0 x4 := by
    unfold x4
    apply setT_keeps
    assumption
  clear_value x4
  extract_lets +onlyGivenNames x6
  have h7 : Keeps s0 x6 := by
    unfold x6
    apply all_foldl (P := Keeps s0)
    · intro x8 x9 x10
      apply abandonItem_keeps
      assumption
    · assumption
  clear_value x6
  extract_lets +onlyGivenNames x11
  have h12 : Keeps s0 x11 := by
    unfold x11
    split
    · rename_i x13 x14 x15
      apply abandonItem_keeps
      assumption
    · rename_i x16 x17
      assumption
  clear_value x11
  extract_lets +onlyGivenNames x18
  have h19 : Keeps s0 x18 := by
    unfold x18
    apply treadStatus_keeps
    assumption
  clear_value x18
  apply all_ite (P := Keeps s0)
  · assumption
  · apply setF_keeps
    assumption

theorem groupPassed_keeps {s0 : State} {s : Machine.State} (h1 : Keeps s0 s) {r : CmdRef} {i : ℕ} :
    Keeps s0 (groupPassed s r i) := by
  unfold groupPassed
  split
  · rename_i x4 x5
    assumption
  · rename_i x6 x7 x8
    apply all_ite (P := Keeps s0)
    · assumption
    · extract_lets +onlyGivenNames x9
      clear_value x9
      apply updJob_keeps
      assumption

theorem groupTake_keeps {s0 : State} {s : Machine.State} (h1 : Keeps s0 s) {r : CmdRef} {t : ℕ} {i : ℕ} :
    Keeps s0 (groupTake s r t i) := by
  unfold groupTake
  split
  · rename_i x5 x6
    assumption
  · rename_i x7 x8 x9
    extract_lets +onlyGivenNames x10
    clear_value x10
    apply all_ite (P := Keeps s0)
    · assumption
    · extract_lets +onlyGivenNames x11
      clear_value x11
      apply updJob_keeps
      assumption

theorem execItemTake_keeps {s0 : State} {t : ℕ} {r : CmdRef} {x2 : Machine.State} (h3 : Keeps s0 x2) :
    OutKeeps s0 (execItemTake t r x2) := by
  unfold execItemTake
  apply guardUnit_keeps
  split
  · rename_i x4 x5
    apply OutKeeps.next
    assumption
  · rename_i x6 x7 x8
    split
    · rename_i x9 x10 x11 x12 x13 x14 x15
      apply all_ite (P := OutKeeps s0)
      · apply OutKeeps.next
        assumption
      · extract_lets +onlyGivenNames x16
        have h17 : Keeps s0 x16 := by
          unfold x16
          apply updJob_keeps
          assumption
        clear_value x16
        apply all_ite (P := OutKeeps s0)
        · split
          · rename_i x18 x19
            apply OutKeeps.next
            assumption
          · rename_i x20 x21 x22 x23
            apply OutKeeps.next
            apply failCmd_keeps
            assumption
          · rename_i x24 x25
            apply OutKeeps.next
            apply updTake_keeps
            assumption
        · apply all_ite (P := OutKeeps s0)
          · extract_lets +onlyGivenNames x26
            clear_value x26
            extract_lets +onlyGivenNames x27
            clear_value x27
            apply OutKeeps.next
            apply treadStatus_keeps
            apply setT_keeps
            assumption
          · extract_lets +onlyGivenNames x28
            clear_value x28
            extract_lets +onlyGivenNames x29
            have h30 : Keeps s0 x29 := by
              unfold x29
              apply setT_keeps
              assumption
            clear_value x29
            apply OutKeeps.next
            apply treadStatus_keeps
            apply groupTake_keeps
            assumption
    · rename_i x31 x32 x33
      apply OutKeeps.next
      assumption

theorem hallStops_keeps {s0 : State} {s : Machine.State} (h1 : Keeps s0 s) {h : ℕ} :
    Keeps s0 (hallStops s h) := by
  unfold hallStops
  apply all_ite (P := Keeps s0)
  · assumption
  · apply all_foldl (P := Keeps s0)
    · intro x3 x4 x5
      apply all_ite (P := Keeps s0)
      · extract_lets +onlyGivenNames x6
        have h7 : Keeps s0 x6 := by
          unfold x6
          apply unqueueSlots_keeps
          assumption
        clear_value x6
        apply updCmd_keeps
        assumption
      · assumption
    · assumption

theorem itemsOver_keeps {s0 : State} {s : Machine.State} (h1 : Keeps s0 s) {r : CmdRef} :
    Keeps s0 (itemsOver s r) := by
  unfold itemsOver
  split
  · rename_i x3 x4
    assumption
  · rename_i x5 x6 x7
    apply all_ite (P := Keeps s0)
    · assumption
    · split
      · rename_i x8 x9
        apply succeed_keeps
        assumption
      · rename_i x10 x11
        apply all_ite (P := Keeps s0)
        · apply succeed_keeps
          assumption
        · apply all_ite (P := Keeps s0)
          · apply attnFinish_keeps
            assumption
          · assumption
      · rename_i x12 x13
        apply succeed_keeps
        assumption
      · rename_i x14 x15
        apply succeed_keeps
        assumption
      · rename_i x16 x17 x18 x19 x20
        assumption

theorem loadTables_keeps {s0 : State} {s : Machine.State} (h1 : Keeps s0 s) {t : ℕ} :
    Keeps s0 (loadTables s t) := by
  unfold loadTables
  split
  · rename_i x3 x4
    assumption
  · rename_i x5 x6 x7
    extract_lets +onlyGivenNames x8
    clear_value x8
    extract_lets +onlyGivenNames x9
    clear_value x9
    extract_lets +onlyGivenNames x10
    clear_value x10
    extract_lets +onlyGivenNames x11
    clear_value x11
    extract_lets +onlyGivenNames x12
    have h13 : Keeps s0 x12 := by
      unfold x12
      apply setF_keeps
      assumption
    clear_value x12
    extract_lets +onlyGivenNames x14
    have h15 : Keeps s0 x14 := by
      unfold x14
      apply setF_keeps
      assumption
    clear_value x14
    extract_lets +onlyGivenNames x16
    have h17 : Keeps s0 x16 := by
      unfold x16
      apply setF_keeps
      assumption
    clear_value x16
    extract_lets +onlyGivenNames x18
    have h19 : Keeps s0 x18 := by
      unfold x18
      apply setF_keeps
      assumption
    clear_value x18
    extract_lets +onlyGivenNames x20
    clear_value x20
    extract_lets +onlyGivenNames x21
    have h22 : Keeps s0 x21 := by
      unfold x21
      apply setH_keeps
      assumption
    clear_value x21
    apply all_ite (P := Keeps s0)
    · assumption
    · apply raiseF_keeps
      assumption

theorem recordItem_keeps {s0 : State} {s : Machine.State} (h1 : Keeps s0 s) {r : CmdRef} {i : ℕ} :
    Keeps s0 (recordItem s r i) := by
  unfold recordItem
  apply all_ite (P := Keeps s0)
  · assumption
  · extract_lets +onlyGivenNames x4
    have h5 : Keeps s0 x4 := by
      unfold x4
      apply updJob_keeps
      assumption
    clear_value x4
    split
    · rename_i x6 x7
      assumption
    · rename_i x8 x9 x10
      extract_lets +onlyGivenNames x11
      clear_value x11
      extract_lets +onlyGivenNames x12
      clear_value x12
      extract_lets +onlyGivenNames x13
      have h14 : Keeps s0 x13 := by
        unfold x13
        apply all_ite (P := Keeps s0)
        · apply combineTile_keeps
          assumption
        · assumption
      clear_value x13
      apply itemsOver_keeps
      assumption

theorem execItemDrained_keeps {s0 : State} {t : ℕ} {s : Machine.State} (h2 : Keeps s0 s) :
    OutKeeps s0 (execItemDrained t s) := by
  unfold execItemDrained
  apply guardUnit_keeps
  split
  · rename_i x3 x4
    apply OutKeeps.next
    assumption
  · rename_i x5 x6 x7
    split
    · rename_i x8 x9
      apply OutKeeps.next
      assumption
    · rename_i x10 x11 x12
      split
      · rename_i x13 x14 x15 x16 x17 x18
        have h19 := all_of_eq (P := AtFst (Keeps s0)) x18 (by
            apply drainHeldRows_keeps
            assumption)
        apply OutKeeps.next
        apply treadStatus_keeps
        apply failCmd_keeps
        assumption
      · rename_i x20 x21 x22 x23
        have h24 := all_of_eq (P := AtFst (Keeps s0)) x23 (by
            apply drainHeldRows_keeps
            assumption)
        apply OutKeeps.next
        apply treadStatus_keeps
        apply setT_keeps
        assumption
      · rename_i x25 x26 x27 x28
        have h29 := all_of_eq (P := AtFst (Keeps s0)) x28 (by
            apply drainHeldRows_keeps
            assumption)
        split
        · rename_i x30 x31 x32 x33
          have h34 := all_of_eq (P := AtFst (Keeps s0)) x28 (by
              apply drainHeldRows_keeps
              assumption)
          apply OutKeeps.next
          apply treadStatus_keeps
          apply failCmd_keeps
          assumption
        · rename_i x35 x36
          have h37 := all_of_eq (P := AtFst (Keeps s0)) x28 (by
              apply drainHeldRows_keeps
              assumption)
          apply OutKeeps.next
          apply treadStatus_keeps
          apply setT_keeps
          assumption
        · rename_i x38 x39
          have h40 := all_of_eq (P := AtFst (Keeps s0)) x28 (by
              apply drainHeldRows_keeps
              assumption)
          extract_lets +onlyGivenNames x41
          clear_value x41
          extract_lets +onlyGivenNames x42
          have h43 : Keeps s0 x42 := by
            unfold x42
            apply setT_keeps
            assumption
          clear_value x42
          extract_lets +onlyGivenNames x44
          clear_value x44
          extract_lets +onlyGivenNames x45
          have h46 : Keeps s0 x45 := by
            unfold x45
            apply all_ite (P := Keeps s0)
            · apply all_ite (P := Keeps s0)
              · apply attnKeep_keeps
                assumption
              · assumption
            · apply all_ite (P := Keeps s0)
              · apply PCtx.mergeBest_keeps
                assumption
              · assumption
          clear_value x45
          apply OutKeeps.next
          apply treadStatus_keeps
          apply recordItem_keeps
          assumption

theorem rejoinTread_keeps {s0 : State} {s : Machine.State} (h1 : Keeps s0 s) {t : ℕ} :
    Keeps s0 (rejoinTread s t) := by
  unfold rejoinTread
  extract_lets +onlyGivenNames x3
  clear_value x3
  extract_lets +onlyGivenNames x4
  have h5 : Keeps s0 x4 := by
    unfold x4
    apply setT_keeps
    assumption
  clear_value x4
  extract_lets +onlyGivenNames x6
  have h7 : Keeps s0 x6 := by
    unfold x6
    apply setF_keeps
    apply memZero_keeps
    assumption
  clear_value x6
  apply treadStatus_keeps
  apply loadTables_keeps
  assumption

theorem execTreadUnisolate_keeps {s0 : State} {t : ℕ} {s : Machine.State} (h2 : Keeps s0 s) :
    OutKeeps s0 (execTreadUnisolate t s) := by
  unfold execTreadUnisolate
  apply guardUnit_keeps
  apply whileServed_keeps
  · assumption
  · apply all_ite (P := OutKeeps s0)
    · apply OutKeeps.next
      assumption
    · extract_lets +onlyGivenNames x3
      have h4 : Keeps s0 x3 := by
        unfold x3
        apply setF_keeps
        assumption
      clear_value x3
      extract_lets +onlyGivenNames x5
      clear_value x5
      extract_lets +onlyGivenNames x6
      have h7 : Keeps s0 x6 := by
        unfold x6
        apply setT_keeps
        assumption
      clear_value x6
      apply all_ite (P := OutKeeps s0)
      · apply OutKeeps.next
        apply rejoinTread_keeps
        assumption
      · apply all_ite (P := OutKeeps s0)
        · apply OutKeeps.next
          assumption
        · apply OutKeeps.next
          apply setT_keeps
          assumption

theorem setDomain_keeps {s0 : State} {s : Machine.State} (h1 : Keeps s0 s) {d : ℕ} {on : Bool} :
    Keeps s0 (setDomain s d on) := by
  unfold setDomain
  extract_lets +onlyGivenNames x4
  clear_value x4
  apply setF_keeps
  assumption

theorem flightDown_keeps {s0 : State} {s : Machine.State} (h1 : Keeps s0 s) {f : ℕ} :
    Keeps s0 (flightDown s f) := by
  unfold flightDown
  extract_lets +onlyGivenNames x3
  have h4 : Keeps s0 x3 := by
    unfold x3
    apply all_foldl (P := Keeps s0)
    · intro x5 x6 x7
      extract_lets +onlyGivenNames x8
      clear_value x8
      apply setF_keeps
      apply setF_keeps
      apply setF_keeps
      assumption
    · assumption
  clear_value x3
  extract_lets +onlyGivenNames x9
  have h10 : Keeps s0 x9 := by
    unfold x9
    apply setF_keeps
    apply setF_keeps
    assumption
  clear_value x9
  extract_lets +onlyGivenNames x11
  clear_value x11
  extract_lets +onlyGivenNames x12
  have h13 : Keeps s0 x12 := by
    unfold x12
    apply Keeps.upd
    assumption
  clear_value x12
  apply setDomain_keeps
  apply setF_keeps
  assumption

theorem flightGone_keeps {s0 : State} {s : Machine.State} (h1 : Keeps s0 s) {f : ℕ} :
    Keeps s0 (flightGone s f) := by
  unfold flightGone
  extract_lets +onlyGivenNames x3
  clear_value x3
  apply all_ite (P := Keeps s0)
  · assumption
  · extract_lets +onlyGivenNames x4
    clear_value x4
    extract_lets +onlyGivenNames x5
    have h6 : Keeps s0 x5 := by
      unfold x5
      apply all_foldl (P := Keeps s0)
      · intro x7 x8 x9
        apply dropItems_keeps
        apply voidCmd_keeps
        apply endCmd_keeps
        apply voidRun_keeps
        assumption
      · assumption
    clear_value x5
    extract_lets +onlyGivenNames x10
    have h11 : Keeps s0 x10 := by
      unfold x10
      apply memZero_keeps
      assumption
    clear_value x10
    extract_lets +onlyGivenNames x12
    have h13 : Keeps s0 x12 := by
      unfold x12
      apply memZero_keeps
      assumption
    clear_value x12
    apply flightDown_keeps
    assumption

theorem execTreadForce_keeps {s0 : State} {t : ℕ} {rows : ℕ} {s : Machine.State} (h3 : Keeps s0 s) :
    OutKeeps s0 (execTreadForce t rows s) := by
  unfold execTreadForce
  apply guardUnit_keeps
  apply whileServed_keeps
  · assumption
  · apply all_ite (P := OutKeeps s0)
    · apply OutKeeps.next
      apply flightGone_keeps
      apply forceTread_keeps
      apply drainTread_keeps
      assumption
    · apply OutKeeps.next
      assumption

theorem execTreadIsolationDone_keeps {s0 : State} {t : ℕ} {s : Machine.State} (h2 : Keeps s0 s) :
    OutKeeps s0 (execTreadIsolationDone t s) := by
  unfold execTreadIsolationDone
  apply guardUnit_keeps
  extract_lets +onlyGivenNames x3
  clear_value x3
  extract_lets +onlyGivenNames x4
  clear_value x4
  apply all_ite (P := OutKeeps s0)
  · apply all_ite (P := OutKeeps s0)
    · apply OutKeeps.next
      apply flightGone_keeps
      apply setF_keeps
      assumption
    · apply all_ite (P := OutKeeps s0)
      · apply OutKeeps.next
        apply rejoinTread_keeps
        assumption
      · apply OutKeeps.next
        assumption
  · apply OutKeeps.next
    assumption

theorem isolateFlight_keeps {s0 : State} {s : Machine.State} (h1 : Keeps s0 s) {f : ℕ} {force : Bool} :
    Keeps s0 (isolateFlight s f force) := by
  unfold isolateFlight
  extract_lets +onlyGivenNames x4
  clear_value x4
  extract_lets +onlyGivenNames x5
  have h6 : Keeps s0 x5 := by
    unfold x5
    apply setF_keeps
    assumption
  clear_value x5
  extract_lets +onlyGivenNames x7
  have h8 : Keeps s0 x7 := by
    unfold x7
    apply all_foldl (P := Keeps s0)
    · intro x9 x10 x11
      extract_lets +onlyGivenNames x12
      clear_value x12
      extract_lets +onlyGivenNames x13
      clear_value x13
      apply all_ite (P := Keeps s0)
      · apply forceTread_keeps
        assumption
      · assumption
    · assumption
  clear_value x7
  extract_lets +onlyGivenNames x14
  have h15 : Keeps s0 x14 := by
    unfold x14
    apply refreshLevel_keeps
    apply flightGone_keeps
    assumption
  clear_value x14
  split
  · rename_i x16 x17
    apply hallStops_keeps
    assumption
  · rename_i x18
    assumption

theorem isolateTread_keeps {s0 : State} {s : Machine.State} (h1 : Keeps s0 s) {t : ℕ} :
    Keeps s0 (isolateTread s t) := by
  unfold isolateTread
  extract_lets +onlyGivenNames x3
  have h4 : Keeps s0 x3 := by
    unfold x3
    apply setF_keeps
    assumption
  clear_value x3
  extract_lets +onlyGivenNames x5
  clear_value x5
  extract_lets +onlyGivenNames x6
  have h7 : Keeps s0 x6 := by
    unfold x6
    apply setT_keeps
    assumption
  clear_value x6
  extract_lets +onlyGivenNames x8
  clear_value x8
  apply all_ite (P := Keeps s0)
  · apply flightGone_keeps
    apply setF_keeps
    assumption
  · assumption

theorem countFault_keeps {s0 : State} {s : Machine.State} (h1 : Keeps s0 s) {t : ℕ} {gallery : Bool} :
    Keeps s0 (countFault s t gallery) := by
  unfold countFault
  extract_lets +onlyGivenNames x4
  clear_value x4
  extract_lets +onlyGivenNames x5
  clear_value x5
  extract_lets +onlyGivenNames x6
  have h8 : ∀ (x7 : Machine.State), Keeps s0 x7 → Keeps s0 (x6 x7) := by
    intro x9 x10
    unfold x6
    apply raiseF_keeps
    assumption
  clear_value x6
  apply all_ite (P := Keeps s0)
  · extract_lets +onlyGivenNames x11
    clear_value x11
    extract_lets +onlyGivenNames x12
    clear_value x12
    extract_lets +onlyGivenNames x13
    have h14 : Keeps s0 x13 := by
      unfold x13
      apply Keeps.upd
      assumption
    clear_value x13
    apply all_ite (P := Keeps s0)
    · apply isolateFlight_keeps
      apply h8
      apply addRecord_keeps
      assumption
    · assumption
  · extract_lets +onlyGivenNames x15
    clear_value x15
    extract_lets +onlyGivenNames x16
    have h17 : Keeps s0 x16 := by
      unfold x16
      apply setT_keeps
      assumption
    clear_value x16
    apply all_ite (P := Keeps s0)
    · apply isolateTread_keeps
      apply h8
      apply addRecord_keeps
      assumption
    · assumption

theorem execTreadIsolate_keeps {s0 : State} {t : ℕ} {s : Machine.State} (h2 : Keeps s0 s) :
    OutKeeps s0 (execTreadIsolate t s) := by
  unfold execTreadIsolate
  apply guardUnit_keeps
  apply whileServed_keeps
  · assumption
  · apply OutKeeps.next
    apply isolateTread_keeps
    assumption

theorem passFails_keeps {s0 : State} {s : Machine.State} (h1 : Keeps s0 s) {t : ℕ} {hd : Held} {f : CheckFail} :
    Keeps s0 (passFails s t hd f) := by
  unfold passFails
  extract_lets +onlyGivenNames x5
  have h6 : Keeps s0 x5 := by
    unfold x5
    apply failCmd_keeps
    assumption
  clear_value x5
  extract_lets +onlyGivenNames x7
  have h8 : Keeps s0 x7 := by
    unfold x7
    apply all_ite (P := Keeps s0)
    · apply raiseF_keeps
      assumption
    · assumption
  clear_value x7
  extract_lets +onlyGivenNames x9
  have h10 : Keeps s0 x9 := by
    unfold x9
    apply all_ite (P := Keeps s0)
    · apply raiseF_keeps
      assumption
    · assumption
  clear_value x9
  extract_lets +onlyGivenNames x11
  have h12 : Keeps s0 x11 := by
    unfold x11
    apply all_ite (P := Keeps s0)
    · apply countFault_keeps
      assumption
    · assumption
  clear_value x11
  split
  · rename_i x13 x14 x15
    apply all_ite (P := Keeps s0)
    · assumption
    · apply countFault_keeps
      apply raiseF_keeps
      assumption
  · rename_i x16 x17
    assumption

theorem execMainPassEnd_keeps {s0 : State} {t : ℕ} {rows : ℕ} {fail : Option CheckFail} {s : Machine.State} (h4 : Keeps s0 s) :
    OutKeeps s0 (execMainPassEnd t rows fail s) := by
  unfold execMainPassEnd
  apply guardUnit_keeps
  split
  · rename_i x5 x6
    apply OutKeeps.next
    assumption
  · rename_i x7 x8 x9
    split
    · rename_i x10 x11
      apply OutKeeps.next
      assumption
    · rename_i x12 x13 x14
      extract_lets +onlyGivenNames x15
      clear_value x15
      extract_lets +onlyGivenNames x16
      clear_value x16
      apply all_ite (P := OutKeeps s0)
      · apply OutKeeps.next
        assumption
      · split
        · rename_i x17 x18
          apply OutKeeps.next
          apply treadStatus_keeps
          apply passFails_keeps
          assumption
        · rename_i x19
          apply all_ite (P := OutKeeps s0)
          · split
            · rename_i x20 x21
              have h22 := all_of_eq (P := ExcAll (Keeps s0)) x21 (by
                  apply directItem_keeps
                  assumption)
              apply OutKeeps.next
              assumption
            · rename_i x23 x24 x25 x26
              have h27 := all_of_eq (P := ExcAll (Keeps s0)) x26 (by
                  apply directItem_keeps
                  assumption)
              apply OutKeeps.next
              apply treadStatus_keeps
              apply failCmd_keeps
              assumption
            · rename_i x28 x29 x30
              have h31 := all_of_eq (P := ExcAll (Keeps s0)) x30 (by
                  apply directItem_keeps
                  assumption)
              have h31a := h31.get
              extract_lets +onlyGivenNames x32
              clear_value x32
              extract_lets +onlyGivenNames x33
              have h34 : Keeps s0 x33 := by
                unfold x33
                apply setT_keeps
                assumption
              clear_value x33
              apply OutKeeps.next
              apply treadStatus_keeps
              apply recordItem_keeps
              assumption
          · apply all_ite (P := OutKeeps s0)
            · split
              · rename_i x35 x36
                apply OutKeeps.next
                assumption
              · rename_i x37 x38 x39 x40
                apply OutKeeps.next
                apply treadStatus_keeps
                apply failCmd_keeps
                assumption
              · rename_i x41 x42
                split
                rename_i x43 x44 x45 x46
                have h47 := all_of_eq (P := AtSnd (Keeps s0)) x46 (by
                    apply attnRows_keeps
                    assumption)
                extract_lets +onlyGivenNames x48
                clear_value x48
                extract_lets +onlyGivenNames x49
                have h50 : Keeps s0 x49 := by
                  unfold x49
                  apply setT_keeps
                  assumption
                clear_value x49
                apply OutKeeps.next
                apply treadStatus_keeps
                apply drainTread_keeps
                assumption
            · extract_lets +onlyGivenNames x51
              clear_value x51
              split
              · rename_i x52 x53
                apply OutKeeps.next
                assumption
              · rename_i x54 x55 x56 x57
                apply OutKeeps.next
                apply treadStatus_keeps
                apply failCmd_keeps
                assumption
              · rename_i x58 x59 x60
                extract_lets +onlyGivenNames x61
                have h62 : Keeps s0 x61 := by
                  unfold x61
                  apply groupPassed_keeps
                  apply countCvts_keeps
                  assumption
                clear_value x61
                extract_lets +onlyGivenNames x63
                clear_value x63
                extract_lets +onlyGivenNames x64
                have h65 : Keeps s0 x64 := by
                  unfold x64
                  apply setT_keeps
                  assumption
                clear_value x64
                apply OutKeeps.next
                apply treadStatus_keeps
                apply drainTread_keeps
                assumption

/-! ## Power -/

theorem applyOriel_keeps {s0 : State} {s : Machine.State} (h1 : Keeps s0 s) :
    Keeps s0 (applyOriel s) := by
  unfold applyOriel
  apply all_foldl (P := Keeps s0)
  · intro x2 x3 x4
    extract_lets +onlyGivenNames x5
    have h6 : Keeps s0 x5 := by
      unfold x5
      apply setDomain_keeps
      assumption
    clear_value x5
    apply all_ite (P := Keeps s0)
    · assumption
    · apply all_foldl (P := Keeps s0)
      · intro x7 x8 x9
        apply setF_keeps
        apply setPortState_keeps
        assumption
      · assumption
  · assumption

theorem domainFault_keeps {s0 : State} {s : Machine.State} (h1 : Keeps s0 s) {d : ℕ} :
    Keeps s0 (domainFault s d) := by
  unfold domainFault
  apply raiseF_keeps
  apply setF_keeps
  assumption

theorem execFlightLockTimeout_keeps {s0 : State} {f : ℕ} {s : Machine.State} (h2 : Keeps s0 s) :
    OutKeeps s0 (execFlightLockTimeout f s) := by
  unfold execFlightLockTimeout
  apply guardUnit_keeps
  apply OutKeeps.next
  apply all_ite (P := Keeps s0)
  · apply domainFault_keeps
    apply isolateFlight_keeps
    assumption
  · assumption

theorem flightOff_keeps {s0 : State} {s : Machine.State} (h1 : Keeps s0 s) {f : ℕ} :
    Keeps s0 (flightOff s f) := by
  unfold flightOff
  extract_lets +onlyGivenNames x3
  have h4 : Keeps s0 x3 := by
    unfold x3
    apply all_foldl (P := Keeps s0)
    · intro x5 x6 x7
      apply setF_keeps
      assumption
    · assumption
  clear_value x3
  apply flightDown_keeps
  assumption

theorem setFlt_keeps {s0 : State} {s : Machine.State} (h1 : Keeps s0 s) {f : ℕ} {v : ℕ} :
    Keeps s0 (setFlt s f v) := by
  unfold setFlt
  apply setF_keeps
  assumption

theorem execFlightSleep_keeps {s0 : State} {hall : ℕ} {s : Machine.State} (h2 : Keeps s0 s) :
    OutKeeps s0 (execFlightSleep hall s) := by
  unfold execFlightSleep
  apply guardUnit_keeps
  extract_lets +onlyGivenNames x3
  clear_value x3
  apply all_ite (P := OutKeeps s0)
  · apply OutKeeps.next
    assumption
  · apply OutKeeps.next
    apply all_foldl (P := Keeps s0)
    · intro x4 x5 x6
      apply setFlt_keeps
      assumption
    · assumption

theorem execSleepEntryDone_keeps {s0 : State} {f : ℕ} {s : Machine.State} (h2 : Keeps s0 s) :
    OutKeeps s0 (execSleepEntryDone f s) := by
  unfold execSleepEntryDone
  apply guardUnit_keeps
  apply OutKeeps.next
  apply all_ite (P := Keeps s0)
  · apply setF_keeps
    apply setFlt_keeps
    assumption
  · assumption

theorem setMedia_keeps {s0 : State} {s : Machine.State} (h1 : Keeps s0 s) {asleep : Bool} :
    Keeps s0 (setMedia s asleep) := by
  unfold setMedia
  apply setDomain_keeps
  apply Keeps.upd
  assumption

theorem execMediaSleep_keeps {s0 : State} {s : Machine.State} (h1 : Keeps s0 s) :
    OutKeeps s0 (execMediaSleep s) := by
  unfold execMediaSleep
  apply OutKeeps.next
  apply all_ite (P := Keeps s0)
  · assumption
  · apply setMedia_keeps
    assumption

theorem execMediaWakeDone_keeps {s0 : State} {s : Machine.State} (h1 : Keeps s0 s) :
    OutKeeps s0 (execMediaWakeDone s) := by
  unfold execMediaWakeDone
  apply OutKeeps.next
  apply all_ite (P := Keeps s0)
  · apply setMedia_keeps
    assumption
  · assumption

theorem throttleFlight_keeps {s0 : State} {s : Machine.State} (h1 : Keeps s0 s) {f : ℕ} {t : ℤ} :
    Keeps s0 (throttleFlight s f t) := by
  unfold throttleFlight
  apply all_ite (P := Keeps s0)
  · extract_lets +onlyGivenNames x4
    clear_value x4
    extract_lets +onlyGivenNames x5
    have h6 : Keeps s0 x5 := by
      unfold x5
      apply setF_keeps
      assumption
    clear_value x5
    apply all_ite (P := Keeps s0)
    · apply raiseF_keeps
      assumption
    · assumption
  · apply all_ite (P := Keeps s0)
    · apply setF_keeps
      assumption
    · assumption

theorem flightRuns_keeps {s0 : State} {s : Machine.State} (h1 : Keeps s0 s) {f : ℕ} {us : ℕ} :
    Keeps s0 (flightRuns s f us) := by
  unfold flightRuns
  extract_lets +onlyGivenNames x4
  have h5 : Keeps s0 x4 := by
    unfold x4
    apply setF_keeps
    apply setF_keeps
    assumption
  clear_value x4
  extract_lets +onlyGivenNames x6
  have h7 : Keeps s0 x6 := by
    unfold x6
    apply all_ite (P := Keeps s0)
    · apply setF_keeps
      assumption
    · assumption
  clear_value x6
  extract_lets +onlyGivenNames x8
  have h9 : Keeps s0 x8 := by
    unfold x8
    apply throttleFlight_keeps
    assumption
  clear_value x8
  apply all_foldl (P := Keeps s0)
  · intro x10 x11 x12
    extract_lets +onlyGivenNames x13
    clear_value x13
    apply all_ite (P := Keeps s0)
    · assumption
    · extract_lets +onlyGivenNames x14
      clear_value x14
      apply treadStatus_keeps
      apply loadTables_keeps
      apply setF_keeps
      assumption
  · apply setFlt_keeps
    assumption

theorem execFlightPllLock_keeps {s0 : State} {f : ℕ} {us : ℕ} {s : Machine.State} (h3 : Keeps s0 s) :
    OutKeeps s0 (execFlightPllLock f us s) := by
  unfold execFlightPllLock
  apply guardUnit_keeps
  apply OutKeeps.next
  apply all_ite (P := Keeps s0)
  · apply flightRuns_keeps
    assumption
  · assumption

theorem zeroFlight_keeps {s0 : State} {s : Machine.State} (h1 : Keeps s0 s) {f : ℕ} :
    Keeps s0 (zeroFlight s f) := by
  unfold zeroFlight
  extract_lets +onlyGivenNames x3
  have h4 : Keeps s0 x3 := by
    unfold x3
    apply memZero_keeps
    apply memZero_keeps
    assumption
  clear_value x3
  extract_lets +onlyGivenNames x5
  have h6 : Keeps s0 x5 := by
    unfold x5
    apply all_foldl (P := Keeps s0)
    · intro x7 x8 x9
      apply setT_keeps
      assumption
    · assumption
  clear_value x5
  apply Keeps.upd
  assumption

theorem execFlightWakeStart_keeps {s0 : State} {f : ℕ} {s : Machine.State} (h2 : Keeps s0 s) :
    OutKeeps s0 (execFlightWakeStart f s) := by
  unfold execFlightWakeStart
  apply guardUnit_keeps
  split
  · rename_i x3 x4
    apply OutKeeps.next
    assumption
  · rename_i x5 x6 x7
    extract_lets +onlyGivenNames x8
    clear_value x8
    apply all_ite (P := OutKeeps s0)
    · apply OutKeeps.next
      assumption
    · extract_lets +onlyGivenNames x9
      have h10 : Keeps s0 x9 := by
        unfold x9
        apply all_ite (P := Keeps s0)
        · apply setDomain_keeps
          apply zeroFlight_keeps
          assumption
        · assumption
      clear_value x9
      extract_lets +onlyGivenNames x11
      have h12 : Keeps s0 x11 := by
        unfold x11
        apply bumpF_keeps
        apply setFlt_keeps
        assumption
      clear_value x11
      extract_lets +onlyGivenNames x13
      clear_value x13
      apply OutKeeps.next
      apply all_ite (P := Keeps s0)
      · apply setH_keeps
        assumption
      · assumption

/-! ## Icu -/

theorem endClaim_keeps {s0 : State} {s : Machine.State} (h1 : Keeps s0 s) {c : ℕ} {n : ℕ} :
    Keeps s0 (endClaim s c n) := by
  unfold endClaim
  extract_lets +onlyGivenNames x4
  clear_value x4
  extract_lets +onlyGivenNames x5
  have h6 : Keeps s0 x5 := by
    unfold x5
    apply Keeps.upd
    assumption
  clear_value x5
  apply setF_keeps
  apply setF_keeps
  assumption

theorem latchRaised_keeps {s0 : State} {s : Machine.State} (h1 : Keeps s0 s) :
    Keeps s0 (latchRaised s) := by
  unfold latchRaised
  apply all_foldl (P := Keeps s0)
  · intro x2 x3 x4
    apply all_ite (P := Keeps s0)
    · assumption
    · apply raiseF_keeps
      assumption
  · assumption

theorem loadIrq_keeps {s0 : State} {old : List Byte} {s : Machine.State} (h2 : Keeps s0 s) :
    Keeps s0 (loadIrq old s) := by
  unfold loadIrq
  apply all_foldl (P := Keeps s0)
  · intro x3 x4 x5
    apply all_ite (P := Keeps s0)
    · assumption
    · extract_lets +onlyGivenNames x6
      clear_value x6
      apply setF_keeps
      assumption
  · assumption

theorem refreshCore_keeps {s0 : State} {s : Machine.State} (h1 : Keeps s0 s) {c : ℕ} :
    Keeps s0 (refreshCore s c) := by
  unfold refreshCore
  extract_lets +onlyGivenNames x3
  have h4 : Keeps s0 x3 := by
    unfold x3
    apply setF_keeps
    assumption
  clear_value x3
  apply setF_keeps
  assumption

theorem endClaims_keeps {s0 : State} {s : Machine.State} (h1 : Keeps s0 s) {c : ℕ} :
    Keeps s0 (endClaims s c) := by
  unfold endClaims
  extract_lets +onlyGivenNames x3
  have h4 : Keeps s0 x3 := by
    unfold x3
    apply all_foldl (P := Keeps s0)
    · intro x5 x6 x7
      apply endClaim_keeps
      assumption
    · assumption
  clear_value x3
  apply refreshCore_keeps
  assumption

theorem execIcuClaim_keeps {s0 : State} {core : ℕ} {s : Machine.State} (h2 : Keeps s0 s) :
    OutKeeps s0 (execIcuClaim core s) := by
  unfold execIcuClaim
  apply guardUnit_keeps
  apply whileServed_keeps
  · assumption
  · extract_lets +onlyGivenNames x3
    clear_value x3
    split
    · rename_i x4 x5 x6 x7
      extract_lets +onlyGivenNames x8
      clear_value x8
      extract_lets +onlyGivenNames x9
      have h10 : Keeps s0 x9 := by
        unfold x9
        apply Keeps.upd
        assumption
      clear_value x9
      extract_lets +onlyGivenNames x11
      have h12 : Keeps s0 x11 := by
        unfold x11
        apply raiseF_keeps
        assumption
      clear_value x11
      extract_lets +onlyGivenNames x13
      have h14 : Keeps s0 x13 := by
        unfold x13
        apply setF_keeps
        assumption
      clear_value x13
      apply OutKeeps.next
      extract_lets +onlyGivenNames x15
      have h16 : Keeps s0 x15 := by
        unfold x15
        apply refreshCore_keeps
        apply setF_keeps
        assumption
      clear_value x15
      apply Keeps.upd
      assumption
    · rename_i x17 x18
      apply all_ite (P := OutKeeps s0)
      · extract_lets +onlyGivenNames x19
        have h20 : Keeps s0 x19 := by
          unfold x19
          apply satF_keeps
          apply setF_keeps
          assumption
        clear_value x19
        apply OutKeeps.next
        apply Keeps.upd
        assumption
      · apply OutKeeps.next
        apply Keeps.upd
        assumption

theorem execIcuComplete_keeps {s0 : State} {core : ℕ} {id : ℕ} {s : Machine.State} (h3 : Keeps s0 s) :
    OutKeeps s0 (execIcuComplete core id s) := by
  unfold execIcuComplete
  apply guardUnit_keeps
  apply whileServed_keeps
  · assumption
  · split
    · rename_i x4 x5 x6 x7
      apply all_ite (P := OutKeeps s0)
      · apply OutKeeps.next
        apply refreshCore_keeps
        apply endClaim_keeps
        assumption
      · apply OutKeeps.next
        apply satF_keeps
        assumption
    · rename_i x8 x9
      apply OutKeeps.next
      apply satF_keeps
      assumption

theorem setSoft_keeps {s0 : State} {s : Machine.State} (h1 : Keeps s0 s) {c : ℕ} {n : ℕ} {v : ℕ} :
    Keeps s0 (setSoft s c n v) := by
  unfold setSoft
  apply all_ite (P := Keeps s0)
  · apply setF_keeps
    assumption
  · assumption

theorem execIcuClr_keeps {s0 : State} {core : ℕ} {n : ℕ} {s : Machine.State} (h3 : Keeps s0 s) :
    OutKeeps s0 (execIcuClr core n s) := by
  unfold execIcuClr
  apply guardUnit_keeps
  apply whileServed_keeps
  · assumption
  · apply OutKeeps.next
    apply setSoft_keeps
    apply latchRaised_keeps
    assumption

theorem execIcuSet_keeps {s0 : State} {core : ℕ} {n : ℕ} {s : Machine.State} (h3 : Keeps s0 s) :
    OutKeeps s0 (execIcuSet core n s) := by
  unfold execIcuSet
  apply guardUnit_keeps
  apply whileServed_keeps
  · assumption
  · apply OutKeeps.next
    apply setSoft_keeps
    assumption

/-! ## Image -/

theorem setSlotState_keeps {s0 : State} {s : Machine.State} (h1 : Keeps s0 s) {fw : Bool} {slot : ℕ} {v : ℕ} :
    Keeps s0 (setSlotState s fw slot v) := by
  unfold setSlotState
  apply setF_keeps
  assumption

/-! ## Validate -/

theorem zeroedExts_keeps {s0 : State} {s : Machine.State} (h1 : Keeps s0 s) {ks : List ℕ} :
    Keeps s0 (zeroedExts s ks) := by
  unfold zeroedExts
  extract_lets +onlyGivenNames x3
  have h4 : Keeps s0 x3 := by
    unfold x3
    apply dropTodo_keeps
    assumption
  clear_value x3
  apply Keeps.upd
  assumption

theorem placeFresh_keeps {s0 : State} {s : Machine.State} (h1 : Keeps s0 s) {fresh : List ℕ} :
    Keeps s0 (placeFresh s fresh) := by
  unfold placeFresh
  extract_lets +onlyGivenNames x3
  clear_value x3
  extract_lets +onlyGivenNames x4
  clear_value x4
  apply zeroedExts_keeps
  apply all_foldl (P := Keeps s0)
  · intro x5 x6 x7
    apply placeAll_keeps
    assumption
  · assumption

theorem moveRegions_keeps {s0 : State} {s : Machine.State} (h1 : Keeps s0 s) {st : FMap (List Byte)} :
    Keeps s0 (moveRegions s st) := by
  unfold moveRegions
  extract_lets +onlyGivenNames x3
  clear_value x3
  extract_lets +onlyGivenNames x4
  clear_value x4
  extract_lets +onlyGivenNames x5
  clear_value x5
  extract_lets +onlyGivenNames x6
  clear_value x6
  extract_lets +onlyGivenNames x7
  have h8 : Keeps s0 x7 := by
    unfold x7
    apply dropTodo_keeps
    assumption
  clear_value x7
  extract_lets +onlyGivenNames x9
  clear_value x9
  extract_lets +onlyGivenNames x10
  have h11 : Keeps s0 x10 := by
    unfold x10
    apply Keeps.upd
    assumption
  clear_value x10
  apply placeFresh_keeps
  assumption

/-! ## Xfm -/

theorem badWrite_keeps {s0 : State} {s : Machine.State} (h1 : Keeps s0 s) {sc : ℕ} :
    Keeps s0 (badWrite s sc) := by
  unfold badWrite
  apply raiseF_keeps
  assumption

theorem bumpGens_keeps {s0 : State} {s : Machine.State} (h1 : Keeps s0 s) {sc : ℕ} {touched : List ℕ} :
    Keeps s0 (bumpGens s sc touched) := by
  unfold bumpGens
  apply all_foldl (P := Keeps s0)
  · intro x4 x5 x6
    apply bumpF_keeps
    assumption
  · assumption

theorem encKeys_keeps {s0 : State} {olds : List Region} {s : Machine.State} (h2 : Keeps s0 s) :
    Keeps s0 (encKeys olds s) := by
  unfold encKeys
  apply all_foldl (P := Keeps s0)
  · intro x3 x4 x5
    split
    rename_i x6 x7 x8
    apply all_ite (P := Keeps s0)
    · apply all_ite (P := Keeps s0)
      · assumption
      · split
        rename_i x9 x10 x11 x12
        have h13 := all_of_eq (P := AtSnd (Keeps s0)) x12 (by
            apply takeFree_keeps
            assumption)
        split
        rename_i x14 x15 x16 x17
        have h18 := all_of_eq (P := AtSnd (Keeps s0)) x12 (by
            apply takeFree_keeps
            assumption)
        have h19 := all_of_eq (P := AtSnd (Keeps s0)) x17 (by
            apply takeFree_keeps
            assumption)
        split
        rename_i x20 x21 x22 x23
        have h24 := all_of_eq (P := AtSnd (Keeps s0)) x12 (by
            apply takeFree_keeps
            assumption)
        have h25 := all_of_eq (P := AtSnd (Keeps s0)) x17 (by
            apply takeFree_keeps
            assumption)
        have h26 := all_of_eq (P := AtSnd (Keeps s0)) x23 (by
            apply takeFree_keeps
            assumption)
        split
        rename_i x27 x28 x29 x30
        have h31 := all_of_eq (P := AtSnd (Keeps s0)) x12 (by
            apply takeFree_keeps
            assumption)
        have h32 := all_of_eq (P := AtSnd (Keeps s0)) x17 (by
            apply takeFree_keeps
            assumption)
        have h33 := all_of_eq (P := AtSnd (Keeps s0)) x23 (by
            apply takeFree_keeps
            assumption)
        have h34 := all_of_eq (P := AtSnd (Keeps s0)) x30 (by
            apply takeFree_keeps
            assumption)
        apply Keeps.upd
        assumption
    · apply Keeps.upd
      assumption
  · assumption

theorem enforceMemory_keeps {s0 : State} {st : FMap (List Byte)} {s : Machine.State} (h2 : Keeps s0 s) :
    Keeps s0 (enforceMemory st s) := by
  unfold enforceMemory
  extract_lets +onlyGivenNames x3
  clear_value x3
  extract_lets +onlyGivenNames x4
  have h5 : Keeps s0 x4 := by
    unfold x4
    apply moveRegions_keeps
    assumption
  clear_value x4
  extract_lets +onlyGivenNames x6
  clear_value x6
  extract_lets +onlyGivenNames x7
  clear_value x7
  extract_lets +onlyGivenNames x8
  clear_value x8
  extract_lets +onlyGivenNames x9
  clear_value x9
  extract_lets +onlyGivenNames x10
  clear_value x10
  extract_lets +onlyGivenNames x11
  have h12 : Keeps s0 x11 := by
    unfold x11
    apply Keeps.upd
    assumption
  clear_value x11
  extract_lets +onlyGivenNames x13
  have h14 : Keeps s0 x13 := by
    unfold x13
    apply setF_keeps
    assumption
  clear_value x13
  extract_lets +onlyGivenNames x15
  have h16 : Keeps s0 x15 := by
    unfold x15
    apply refreshUnd_keeps
    apply encKeys_keeps
    assumption
  clear_value x15
  apply all_foldl (P := Keeps s0)
  · intro x17 x18 x19
    extract_lets +onlyGivenNames x20
    have h21 : Keeps s0 x20 := by
      unfold x20
      apply setF_keeps
      assumption
    clear_value x20
    apply setF_keeps
    assumption
  · assumption

theorem execXfmSlotConfirm_keeps {s0 : State} {s : Machine.State} (h1 : Keeps s0 s) :
    OutKeeps s0 (execXfmSlotConfirm s) := by
  unfold execXfmSlotConfirm
  apply whileServed_keeps
  · assumption
  · apply OutKeeps.next
    apply setF_keeps
    assumption

theorem layersNow_keeps {s0 : State} {s : Machine.State} (h1 : Keeps s0 s) {h : ℕ} :
    Keeps s0 (layersNow s h) := by
  unfold layersNow
  extract_lets +onlyGivenNames x3
  have h4 : Keeps s0 x3 := by
    unfold x3
    apply applyLayers_keeps
    assumption
  clear_value x3
  apply Keeps.upd
  assumption

theorem enforceHall_keeps {s0 : State} {old : FMap (List Byte)} {s : Machine.State} (h2 : Keeps s0 s) {h : ℕ} :
    Keeps s0 (enforceHall old s h) := by
  unfold enforceHall
  extract_lets +onlyGivenNames x4
  clear_value x4
  apply all_ite (P := Keeps s0)
  · assumption
  · extract_lets +onlyGivenNames x5
    clear_value x5
    extract_lets +onlyGivenNames x6
    have h7 : Keeps s0 x6 := by
      unfold x6
      apply all_ite (P := Keeps s0)
      · apply Keeps.updAll
        · assumption
        · exact id
        · exact fun w => fmWfFrom_filter _ _ _ w
        · exact le_refl _
      · assumption
    clear_value x6
    extract_lets +onlyGivenNames x8
    have h9 : Keeps s0 x8 := by
      unfold x8
      apply all_foldl (P := Keeps s0)
      · intro x10 x11 x12
        apply all_ite (P := Keeps s0)
        · assumption
        · apply all_foldl (P := Keeps s0)
          · intro x13 x14 x15
            apply loadTables_keeps
            assumption
          · assumption
      · assumption
    clear_value x8
    extract_lets +onlyGivenNames x16
    have h17 : Keeps s0 x16 := by
      unfold x16
      apply all_ite (P := Keeps s0)
      · apply layersNow_keeps
        assumption
      · assumption
    clear_value x16
    extract_lets +onlyGivenNames x18
    clear_value x18
    extract_lets +onlyGivenNames x19
    have h20 : Keeps s0 x19 := by
      unfold x19
      apply all_ite (P := Keeps s0)
      · assumption
      · apply all_foldl (P := Keeps s0)
        · intro x21 x22 x23
          apply loadSlot_keeps
          assumption
        · assumption
    clear_value x19
    apply setH_keeps
    assumption

theorem loadFirmware_keeps {s0 : State} {s : Machine.State} (h1 : Keeps s0 s) {b : List Byte} {tables : Bool} :
    Keeps s0 (loadFirmware s b tables) := by
  unfold loadFirmware
  apply all_foldl (P := Keeps s0)
  · intro x4 x5 x6
    apply all_ite (P := Keeps s0)
    · assumption
    · apply memPut_keeps
      assumption
  · assumption

theorem markRecheck_keeps {s0 : State} {s : Machine.State} (h1 : Keeps s0 s) {sc : ℕ} {touched : List ℕ} :
    Keeps s0 (markRecheck s sc touched) := by
  unfold markRecheck
  extract_lets +onlyGivenNames x4
  clear_value x4
  apply Keeps.upd
  assumption

theorem moveFlight_keeps {s0 : State} {old : FMap (List Byte)} {s : Machine.State} (h2 : Keeps s0 s) {f : ℕ} :
    Keeps s0 (moveFlight old s f) := by
  unfold moveFlight
  extract_lets +onlyGivenNames x4
  clear_value x4
  apply all_ite (P := Keeps s0)
  · assumption
  · extract_lets +onlyGivenNames x5
    have h6 : Keeps s0 x5 := by
      unfold x5
      apply all_ite (P := Keeps s0)
      · apply zeroFlight_keeps
        assumption
      · assumption
    clear_value x5
    split
    · rename_i x7
      apply flightOff_keeps
      assumption
    · rename_i x8 x9
      extract_lets +onlyGivenNames x10
      have h11 : Keeps s0 x10 := by
        unfold x10
        apply all_foldl (P := Keeps s0)
        · intro x12 x13 x14
          extract_lets +onlyGivenNames x15
          clear_value x15
          extract_lets +onlyGivenNames x16
          have h17 : Keeps s0 x16 := by
            unfold x16
            apply Keeps.updAll
            · assumption
            · exact id
            · exact fun w => fmWfFrom_filter _ _ _ w
            · exact le_refl _
          clear_value x16
          apply setF_keeps
          assumption
        · assumption
      clear_value x10
      apply all_ite (P := Keeps s0)
      · apply wakeHall_keeps
        assumption
      · assumption

theorem enforce_keeps {s0 : State} {s : Machine.State} (h1 : Keeps s0 s) {st : FMap (List Byte)} :
    Keeps s0 (enforce s st) := by
  unfold enforce
  extract_lets +onlyGivenNames x3
  clear_value x3
  extract_lets +onlyGivenNames x4
  have h5 : Keeps s0 x4 := by
    unfold x4
    apply enforceMemory_keeps
    apply latchRaised_keeps
    assumption
  clear_value x4
  extract_lets +onlyGivenNames x6
  have h7 : Keeps s0 x6 := by
    unfold x6
    apply all_foldl (P := Keeps s0)
    · intro x8 x9 x10
      apply moveFlight_keeps
      assumption
    · assumption
  clear_value x6
  extract_lets +onlyGivenNames x11
  have h12 : Keeps s0 x11 := by
    unfold x11
    apply all_foldl (P := Keeps s0)
    · intro x13 x14 x15
      apply enforceHall_keeps
      assumption
    · assumption
  clear_value x11
  extract_lets +onlyGivenNames x16
  have h17 : Keeps s0 x16 := by
    unfold x16
    apply all_ite (P := Keeps s0)
    · assumption
    · apply applyOriel_keeps
      assumption
  clear_value x16
  apply loadIrq_keeps
  assumption

theorem setBusy_keeps {s0 : State} {s : Machine.State} (h1 : Keeps s0 s) {sc : ℕ} {b : Bool} :
    Keeps s0 (setBusy s sc b) := by
  unfold setBusy
  apply setF_keeps
  assumption

theorem commitRequest_keeps {s0 : State} {s : Machine.State} (h1 : Keeps s0 s) {sc : ℕ} {step : Bool} :
    Keeps s0 (commitRequest s sc step) := by
  unfold commitRequest
  apply all_ite (P := Keeps s0)
  · apply badWrite_keeps
    assumption
  · extract_lets +onlyGivenNames x4
    clear_value x4
    extract_lets +onlyGivenNames x5
    clear_value x5
    extract_lets +onlyGivenNames x6
    have h7 : Keeps s0 x6 := by
      unfold x6
      apply setX_keeps
      apply Keeps.upd
      assumption
    clear_value x6
    apply setBusy_keeps
    apply setX_keeps
    assumption

theorem execXfmCommitImmediate_keeps {s0 : State} {scope : ℕ} {s : Machine.State} (h2 : Keeps s0 s) :
    OutKeeps s0 (execXfmCommitImmediate scope s) := by
  unfold execXfmCommitImmediate
  apply guardUnit_keeps
  apply whileServed_keeps
  · assumption
  · apply OutKeeps.next
    apply commitRequest_keeps
    assumption

theorem execXfmCommitStepBoundary_keeps {s0 : State} {scope : ℕ} {s : Machine.State} (h2 : Keeps s0 s) :
    OutKeeps s0 (execXfmCommitStepBoundary scope s) := by
  unfold execXfmCommitStepBoundary
  apply guardUnit_keeps
  apply whileServed_keeps
  · assumption
  · apply OutKeeps.next
    apply commitRequest_keeps
    assumption

theorem setFail_keeps {s0 : State} {s : Machine.State} (h1 : Keeps s0 s) {sc : ℕ} {f : Option VFail} :
    Keeps s0 (setFail s sc f) := by
  unfold setFail
  extract_lets +onlyGivenNames x4
  clear_value x4
  split
  · rename_i x5
    apply regSet_keeps
    assumption
  · rename_i x6 x7
    apply setF_keeps
    apply setF_keeps
    apply setF_keeps
    apply setF_keeps
    assumption

theorem setResult_keeps {s0 : State} {s : Machine.State} (h1 : Keeps s0 s) {sc : ℕ} {code : ℕ} :
    Keeps s0 (setResult s sc code) := by
  unfold setResult
  apply setF_keeps
  assumption

theorem execStageBulkWrite_keeps {s0 : State} {scope : ℕ} {data : DWord} {s : Machine.State} (h3 : Keeps s0 s) :
    OutKeeps s0 (execStageBulkWrite scope data s) := by
  unfold execStageBulkWrite
  apply guardUnit_keeps
  apply whileServed_keeps
  · assumption
  · extract_lets +onlyGivenNames x4
    clear_value x4
    extract_lets +onlyGivenNames x5
    clear_value x5
    apply all_ite (P := OutKeeps s0)
    · apply OutKeeps.next
      apply badWrite_keeps
      assumption
    · apply all_ite (P := OutKeeps s0)
      · apply OutKeeps.next
        apply setResult_keeps
        assumption
      · apply all_ite (P := OutKeeps s0)
        · apply OutKeeps.next
          apply setResult_keeps
          assumption
        · apply OutKeeps.next
          apply setBusy_keeps
          apply setX_keeps
          assumption

theorem setXState_keeps {s0 : State} {s : Machine.State} (h1 : Keeps s0 s) {sc : ℕ} {v : ℕ} :
    Keeps s0 (setXState s sc v) := by
  unfold setXState
  apply setF_keeps
  assumption

theorem closeTxn_keeps {s0 : State} {s : Machine.State} (h1 : Keeps s0 s) {sc : ℕ} :
    Keeps s0 (closeTxn s sc) := by
  unfold closeTxn
  apply setF_keeps
  apply setXState_keeps
  apply setBusy_keeps
  apply setX_keeps
  assumption

theorem commitPoint_keeps {s0 : State} {s : Machine.State} (h1 : Keeps s0 s) {sc : ℕ} :
    Keeps s0 (commitPoint s sc) := by
  unfold commitPoint
  extract_lets +onlyGivenNames x3
  clear_value x3
  extract_lets +onlyGivenNames x4
  have h5 : Keeps s0 x4 := by
    unfold x4
    apply setXState_keeps
    apply setX_keeps
    assumption
  clear_value x4
  apply all_ite (P := Keeps s0)
  · extract_lets +onlyGivenNames x6
    clear_value x6
    apply all_ite (P := Keeps s0)
    · assumption
    · apply all_foldl (P := Keeps s0)
      · intro x7 x8 x9
        apply lostEnds_keeps
        assumption
      · assumption
  · assumption

theorem dropHall_keeps {s0 : State} {switch : Bool} {s : Machine.State} (h2 : Keeps s0 s) {h : ℕ} :
    Keeps s0 (dropHall switch s h) := by
  unfold dropHall
  extract_lets +onlyGivenNames x4
  have h5 : Keeps s0 x4 := by
    unfold x4
    apply all_ite (P := Keeps s0)
    · assumption
    · apply Keeps.upd
      assumption
  clear_value x4
  apply all_ite (P := Keeps s0)
  · assumption
  · apply raiseF_keeps
    apply closeTxn_keeps
    assumption

theorem execXfmBegin_keeps {s0 : State} {scope : ℕ} {s : Machine.State} (h2 : Keeps s0 s) :
    OutKeeps s0 (execXfmBegin scope s) := by
  unfold execXfmBegin
  apply guardUnit_keeps
  apply whileServed_keeps
  · assumption
  · apply all_ite (P := OutKeeps s0)
    · apply OutKeeps.next
      apply badWrite_keeps
      assumption
    · apply all_ite (P := OutKeeps s0)
      · apply OutKeeps.next
        apply setResult_keeps
        assumption
      · extract_lets +onlyGivenNames x3
        have h4 : Keeps s0 x3 := by
          unfold x3
          apply setXState_keeps
          apply setX_keeps
          assumption
        clear_value x3
        extract_lets +onlyGivenNames x5
        have h6 : Keeps s0 x5 := by
          unfold x5
          apply bumpF_keeps
          assumption
        clear_value x5
        apply OutKeeps.next
        apply setResult_keeps
        apply setF_keeps
        assumption

theorem execXfmRollBack_keeps {s0 : State} {scope : ℕ} {s : Machine.State} (h2 : Keeps s0 s) :
    OutKeeps s0 (execXfmRollBack scope s) := by
  unfold execXfmRollBack
  apply guardUnit_keeps
  apply whileServed_keeps
  · assumption
  · apply all_ite (P := OutKeeps s0)
    · apply OutKeeps.next
      apply badWrite_keeps
      assumption
    · apply all_ite (P := OutKeeps s0)
      · apply OutKeeps.next
        apply setResult_keeps
        assumption
      · extract_lets +onlyGivenNames x3
        have h4 : Keeps s0 x3 := by
          unfold x3
          apply setResult_keeps
          apply closeTxn_keeps
          assumption
        clear_value x3
        apply OutKeeps.next
        apply bumpF_keeps
        apply raiseF_keeps
        assumption

theorem reopen_keeps {s0 : State} {s : Machine.State} (h1 : Keeps s0 s) {sc : ℕ} {code : ℕ} :
    Keeps s0 (reopen s sc code) := by
  unfold reopen
  extract_lets +onlyGivenNames x4
  clear_value x4
  extract_lets +onlyGivenNames x5
  have h6 : Keeps s0 x5 := by
    unfold x5
    apply setX_keeps
    assumption
  clear_value x5
  apply setResult_keeps
  apply setXState_keeps
  apply setBusy_keeps
  assumption

theorem execDrainTimeout_keeps {s0 : State} {scope : ℕ} {s : Machine.State} (h2 : Keeps s0 s) :
    OutKeeps s0 (execDrainTimeout scope s) := by
  unfold execDrainTimeout
  apply guardUnit_keeps
  apply whileServed_keeps
  · assumption
  · extract_lets +onlyGivenNames x3
    clear_value x3
    extract_lets +onlyGivenNames x4
    clear_value x4
    apply all_ite (P := OutKeeps s0)
    · apply OutKeeps.next
      assumption
    · extract_lets +onlyGivenNames x5
      have h6 : Keeps s0 x5 := by
        unfold x5
        apply raiseF_keeps
        apply reopen_keeps
        assumption
      clear_value x5
      apply OutKeeps.next
      apply bumpF_keeps
      assumption

theorem refuseCommit_keeps {s0 : State} {s : Machine.State} (h1 : Keeps s0 s) {sc : ℕ} {f : VFail} :
    Keeps s0 (refuseCommit s sc f) := by
  unfold refuseCommit
  extract_lets +onlyGivenNames x4
  have h5 : Keeps s0 x4 := by
    unfold x4
    apply reopen_keeps
    apply setFail_keeps
    assumption
  clear_value x4
  apply bumpF_keeps
  apply raiseF_keeps
  assumption

theorem stagePut_keeps {s0 : State} {s : Machine.State} (h1 : Keeps s0 s) {sc : ℕ} {bs : List Byte} :
    Keeps s0 (stagePut s sc bs) := by
  unfold stagePut
  extract_lets +onlyGivenNames x4
  clear_value x4
  extract_lets +onlyGivenNames x5
  clear_value x5
  extract_lets +onlyGivenNames x6
  clear_value x6
  extract_lets +onlyGivenNames x7
  clear_value x7
  extract_lets +onlyGivenNames x8
  have h9 : Keeps s0 x8 := by
    unfold x8
    apply setX_keeps
    assumption
  clear_value x8
  extract_lets +onlyGivenNames x10
  have h11 : Keeps s0 x10 := by
    unfold x10
    apply setF_keeps
    assumption
  clear_value x10
  apply setResult_keeps
  apply bumpF_keeps
  assumption

theorem execStageBulkDone_keeps {s0 : State} {scope : ℕ} {err : Option ReadErr} {s : Machine.State} (h3 : Keeps s0 s) :
    OutKeeps s0 (execStageBulkDone scope err s) := by
  unfold execStageBulkDone
  apply guardUnit_keeps
  apply whileServed_keeps
  · assumption
  · split
    · rename_i x4 x5
      apply OutKeeps.next
      assumption
    · rename_i x6 x7 x8 x9 x10
      apply all_ite (P := OutKeeps s0)
      · apply OutKeeps.next
        assumption
      · extract_lets +onlyGivenNames x11
        clear_value x11
        extract_lets +onlyGivenNames x12
        have h13 : Keeps s0 x12 := by
          unfold x12
          apply setBusy_keeps
          apply setX_keeps
          assumption
        clear_value x12
        extract_lets +onlyGivenNames x14
        clear_value x14
        split
        · rename_i x15 x16
          apply OutKeeps.next
          apply setResult_keeps
          assumption
        · rename_i x17
          split
          · rename_i x18 x19 x20 x21
            apply OutKeeps.next
            apply setResult_keeps
            apply recordErr_keeps
            assumption
          · rename_i x22 x23
            apply all_ite (P := OutKeeps s0)
            · apply OutKeeps.next
              apply setResult_keeps
              assumption
            · apply all_ite (P := OutKeeps s0)
              · apply OutKeeps.next
                apply setResult_keeps
                assumption
              · apply all_ite (P := OutKeeps s0)
                · apply OutKeeps.next
                  apply setResult_keeps
                  assumption
                · apply OutKeeps.next
                  apply stagePut_keeps
                  assumption

theorem execStageDataWrite_keeps {s0 : State} {scope : ℕ} {data : DWord} {s : Machine.State} (h3 : Keeps s0 s) :
    OutKeeps s0 (execStageDataWrite scope data s) := by
  unfold execStageDataWrite
  apply guardUnit_keeps
  apply whileServed_keeps
  · assumption
  · extract_lets +onlyGivenNames x4
    clear_value x4
    apply all_ite (P := OutKeeps s0)
    · apply OutKeeps.next
      apply badWrite_keeps
      assumption
    · apply all_ite (P := OutKeeps s0)
      · apply OutKeeps.next
        apply setResult_keeps
        assumption
      · apply all_ite (P := OutKeeps s0)
        · apply OutKeeps.next
          apply setResult_keeps
          assumption
        · apply OutKeeps.next
          apply stagePut_keeps
          assumption

theorem startCores_keeps {s0 : State} {s : Machine.State} (h1 : Keeps s0 s) {b : List Byte} :
    Keeps s0 (startCores s b) := by
  unfold startCores
  apply all_foldl (P := Keeps s0)
  · intro x3 x4 x5
    apply all_ite (P := Keeps s0)
    · extract_lets +onlyGivenNames x6
      clear_value x6
      apply Keeps.upd
      assumption
    · assumption
  · assumption

theorem applyFirmware_keeps {s0 : State} {s : Machine.State} (h1 : Keeps s0 s) {slot : ℕ} :
    Keeps s0 (applyFirmware s slot) := by
  unfold applyFirmware
  extract_lets +onlyGivenNames x3
  clear_value x3
  extract_lets +onlyGivenNames x4
  have h5 : Keeps s0 x4 := by
    unfold x4
    apply all_foldl (P := Keeps s0)
    · intro x6 x7 x8
      apply endClaims_keeps
      assumption
    · apply latchRaised_keeps
      assumption
  clear_value x4
  extract_lets +onlyGivenNames x9
  have h10 : Keeps s0 x9 := by
    unfold x9
    apply startCores_keeps
    apply loadFirmware_keeps
    assumption
  clear_value x9
  extract_lets +onlyGivenNames x11
  have h12 : Keeps s0 x11 := by
    unfold x11
    apply setF_keeps
    apply setF_keeps
    assumption
  clear_value x11
  apply Keeps.upd
  assumption

theorem applyCommit_keeps {s0 : State} {s : Machine.State} (h1 : Keeps s0 s) {sc : ℕ} :
    Keeps s0 (applyCommit s sc) := by
  unfold applyCommit
  extract_lets +onlyGivenNames x3
  clear_value x3
  extract_lets +onlyGivenNames x4
  clear_value x4
  extract_lets +onlyGivenNames x5
  clear_value x5
  extract_lets +onlyGivenNames x6
  clear_value x6
  extract_lets +onlyGivenNames x7
  have h8 : Keeps s0 x7 := by
    unfold x7
    apply bumpGens_keeps
    assumption
  clear_value x7
  extract_lets +onlyGivenNames x9
  have h10 : Keeps s0 x9 := by
    unfold x9
    split
    · rename_i x11 x12 x13
      apply applyFirmware_keeps
      assumption
    · rename_i x14 x15
      apply enforce_keeps
      assumption
  clear_value x9
  extract_lets +onlyGivenNames x16
  have h17 : Keeps s0 x16 := by
    unfold x16
    apply all_foldl (P := Keeps s0)
    · intro x18 x19 x20
      apply dropHall_keeps
      assumption
    · assumption
  clear_value x16
  extract_lets +onlyGivenNames x21
  clear_value x21
  extract_lets +onlyGivenNames x22
  have h23 : Keeps s0 x22 := by
    unfold x22
    split
    · rename_i x24 x25 x26
      extract_lets +onlyGivenNames x27
      have h28 : Keeps s0 x27 := by
        unfold x27
        apply all_ite (P := Keeps s0)
        · apply setSlotState_keeps
          assumption
        · assumption
      clear_value x27
      extract_lets +onlyGivenNames x29
      have h30 : Keeps s0 x29 := by
        unfold x29
        apply setF_keeps
        apply setF_keeps
        assumption
      clear_value x29
      apply Keeps.upd
      assumption
    · rename_i x31 x32
      assumption
  clear_value x22
  extract_lets +onlyGivenNames x33
  have h34 : Keeps s0 x33 := by
    unfold x33
    apply markRecheck_keeps
    assumption
  clear_value x33
  extract_lets +onlyGivenNames x35
  have h36 : Keeps s0 x35 := by
    unfold x35
    apply setResult_keeps
    apply closeTxn_keeps
    assumption
  clear_value x35
  apply bumpF_keeps
  apply raiseF_keeps
  assumption

theorem execCommitApply_keeps {s0 : State} {scope : ℕ} {s : Machine.State} (h2 : Keeps s0 s) :
    OutKeeps s0 (execCommitApply scope s) := by
  unfold execCommitApply
  apply guardUnit_keeps
  apply whileServed_keeps
  · assumption
  · extract_lets +onlyGivenNames x3
    clear_value x3
    apply all_ite (P := OutKeeps s0)
    · apply OutKeeps.next
      assumption
    · extract_lets +onlyGivenNames x4
      clear_value x4
      split
      · rename_i x5 x6 x7
        apply OutKeeps.next
        apply refuseCommit_keeps
        assumption
      · rename_i x8 x9
        apply OutKeeps.next
        apply applyCommit_keeps
        assumption

theorem tryPoint_keeps {s0 : State} {s : Machine.State} (h1 : Keeps s0 s) {sc : ℕ} :
    Keeps s0 (tryPoint s sc) := by
  unfold tryPoint
  extract_lets +onlyGivenNames x3
  clear_value x3
  apply all_ite (P := Keeps s0)
  · apply commitPoint_keeps
    assumption
  · assumption

theorem execValidationDone_keeps {s0 : State} {scope : ℕ} {s : Machine.State} (h2 : Keeps s0 s) :
    OutKeeps s0 (execValidationDone scope s) := by
  unfold execValidationDone
  apply guardUnit_keeps
  apply whileServed_keeps
  · assumption
  · extract_lets +onlyGivenNames x3
    clear_value x3
    apply all_ite (P := OutKeeps s0)
    · apply OutKeeps.next
      assumption
    · split
      · rename_i x4 x5 x6
        apply OutKeeps.next
        apply refuseCommit_keeps
        assumption
      · rename_i x7 x8
        extract_lets +onlyGivenNames x9
        have h10 : Keeps s0 x9 := by
          unfold x9
          apply setFail_keeps
          apply setBusy_keeps
          assumption
        clear_value x9
        extract_lets +onlyGivenNames x11
        clear_value x11
        extract_lets +onlyGivenNames x12
        have h13 : Keeps s0 x12 := by
          unfold x12
          split
          · rename_i x14 x15 x16
            apply Keeps.upd
            assumption
          · rename_i x17 x18
            assumption
        clear_value x12
        extract_lets +onlyGivenNames x19
        have h20 : Keeps s0 x19 := by
          unfold x19
          apply setResult_keeps
          apply setXState_keeps
          apply setX_keeps
          assumption
        clear_value x19
        apply all_ite (P := OutKeeps s0)
        · apply OutKeeps.next
          apply applyCommit_keeps
          assumption
        · apply OutKeeps.next
          apply tryPoint_keeps
          assumption

theorem stepBoundary_keeps {s0 : State} {s : Machine.State} (h1 : Keeps s0 s) {h : ℕ} :
    Keeps s0 (stepBoundary s h) := by
  unfold stepBoundary
  apply all_foldl (P := Keeps s0)
  · intro x3 x4 x5
    extract_lets +onlyGivenNames x6
    clear_value x6
    apply all_ite (P := Keeps s0)
    · apply tryPoint_keeps
      apply setX_keeps
      assumption
    · assumption
  · assumption

/-! ## Security -/

theorem clearRecords_keeps {s0 : State} {s : Machine.State} (h1 : Keeps s0 s) {first : ℕ} {count : ℕ} :
    Keeps s0 (clearRecords s first count) := by
  unfold clearRecords
  apply refreshRepair_keeps
  apply Keeps.upd
  assumption

theorem execSealTick_keeps {s0 : State} {s : Machine.State} (h1 : Keeps s0 s) :
    OutKeeps s0 (execSealTick s) := by
  unfold execSealTick
  apply all_ite (P := OutKeeps s0)
  · apply OutKeeps.next
    assumption
  · extract_lets +onlyGivenNames x2
    clear_value x2
    extract_lets +onlyGivenNames x3
    have h4 : Keeps s0 x3 := by
      unfold x3
      apply setF_keeps
      assumption
    clear_value x3
    apply OutKeeps.next
    apply Keeps.upd
    assumption

theorem mgmtWrite_keeps {s0 : State} {s : Machine.State} (h1 : Keeps s0 s) {r : CmdRef} {a : ℕ} {bs : List Byte} :
    DispKeeps s0 (mgmtWrite s r a bs) := by
  unfold mgmtWrite
  split
  · rename_i x5 x6
    exact DispKeeps.wait
  · rename_i x7 x8 x9 x10
    apply failRead_keeps
    assumption
  · rename_i x11 x12
    apply DispKeeps.go
    apply succeed_keeps
    apply store_keeps
    assumption

theorem execAttest_keeps {s0 : State} {r : CmdRef} {err : Option ReadErr} {s : Machine.State} (h3 : Keeps s0 s) :
    OutKeeps s0 (execAttest r err s) := by
  unfold execAttest
  apply guardUnit_keeps
  apply dispatch_keeps
  · assumption
  · intro x4 x5 x6
    apply need_keeps
    apply readOk_keeps
    · assumption
    · extract_lets +onlyGivenNames x7
      clear_value x7
      extract_lets +onlyGivenNames x8
      clear_value x8
      apply need_keeps
      extract_lets +onlyGivenNames x9
      clear_value x9
      extract_lets +onlyGivenNames x10
      clear_value x10
      apply need_keeps
      extract_lets +onlyGivenNames x11
      clear_value x11
      extract_lets +onlyGivenNames x12
      clear_value x12
      apply need_keeps
      apply mgmtWrite_keeps
      apply Keeps.updAll
      · assumption
      · exact id
      · exact id
      · exact Nat.le_add_right _ _

theorem execSelftestRead_keeps {s0 : State} {r : CmdRef} {err : Option ReadErr} {s : Machine.State} (h3 : Keeps s0 s) :
    OutKeeps s0 (execSelftestRead r err s) := by
  unfold execSelftestRead
  apply guardUnit_keeps
  apply dispatch_keeps
  · assumption
  · intro x4 x5 x6
    apply need_keeps
    apply readOk_keeps
    · assumption
    · extract_lets +onlyGivenNames x7
      clear_value x7
      extract_lets +onlyGivenNames x8
      clear_value x8
      apply need_keeps
      extract_lets +onlyGivenNames x9
      clear_value x9
      extract_lets +onlyGivenNames x10
      clear_value x10
      extract_lets +onlyGivenNames x11
      clear_value x11
      apply need_keeps
      apply need_keeps
      apply mgmtWrite_keeps
      assumption

theorem privileged_keeps {s0 : State} {s : Machine.State} (h1 : Keeps s0 s) {k : Disp} (h3 : DispKeeps s0 k) :
    DispKeeps s0 (privileged s k) := by
  unfold privileged
  apply need_keeps
  apply need_keeps
  assumption

theorem execImageLoad_keeps {s0 : State} {r : CmdRef} {err : Option ReadErr} {s : Machine.State} (h3 : Keeps s0 s) :
    OutKeeps s0 (execImageLoad r err s) := by
  unfold execImageLoad
  apply guardUnit_keeps
  apply dispatch_keeps
  · assumption
  · intro x4 x5 x6
    extract_lets +onlyGivenNames x7
    clear_value x7
    apply need_keeps
    apply need_keeps
    apply readOk_keeps
    · assumption
    · apply need_keeps
      extract_lets +onlyGivenNames x8
      clear_value x8
      extract_lets +onlyGivenNames x9
      clear_value x9
      extract_lets +onlyGivenNames x10
      clear_value x10
      extract_lets +onlyGivenNames x11
      have h12 : Keeps s0 x11 := by
        unfold x11
        apply updJob_keeps
        assumption
      clear_value x11
      extract_lets +onlyGivenNames x13
      have h14 : DispKeeps s0 x13 := by
        unfold x13
        apply DispKeeps.go
        apply all_ite (P := Keeps s0)
        · apply succeed_keeps
          assumption
        · apply endCmd_keeps
          assumption
      clear_value x13
      apply all_ite (P := DispKeeps s0)
      · apply privileged_keeps
        · assumption
        · assumption
      · assumption

theorem privCmd_keeps {s0 : State} {opcode : ℕ} {r : CmdRef} {err : Option ReadErr} {s : Machine.State} (h4 : Keeps s0 s) {k : Machine.State → Cmd → List Byte → Disp} (h6 : ∀ (x7 : Machine.State), Keeps s0 x7 → ∀ (x8 : Cmd) (x9 : List Byte), DispKeeps s0 (k x7 x8 x9)) :
    OutKeeps s0 (privCmd opcode r err s k) := by
  unfold privCmd
  apply guardUnit_keeps
  apply dispatch_keeps
  · assumption
  · intro x10 x11 x12
    apply waitWhile_keeps
    apply need_keeps
    apply readOk_keeps
    · assumption
    · extract_lets +onlyGivenNames x13
      clear_value x13
      apply need_keeps
      apply privileged_keeps
      · assumption
      · apply need_keeps
        apply h6
        apply updJob_keeps
        assumption

theorem execDebugUnlock_keeps {s0 : State} {r : CmdRef} {err : Option ReadErr} {s : Machine.State} (h3 : Keeps s0 s) :
    OutKeeps s0 (execDebugUnlock r err s) := by
  unfold execDebugUnlock
  apply privCmd_keeps
  · assumption
  · intro x4 x5 x6 x7
    apply need_keeps
    apply DispKeeps.go
    apply succeed_keeps
    assumption

theorem execKeyEnroll_keeps {s0 : State} {r : CmdRef} {err : Option ReadErr} {s : Machine.State} (h3 : Keeps s0 s) :
    OutKeeps s0 (execKeyEnroll r err s) := by
  unfold execKeyEnroll
  apply privCmd_keeps
  · assumption
  · intro x4 x5 x6 x7
    extract_lets +onlyGivenNames x8
    clear_value x8
    apply need_keeps
    apply DispKeeps.go
    apply succeed_keeps
    assumption

theorem execKeyRevoke_keeps {s0 : State} {r : CmdRef} {err : Option ReadErr} {s : Machine.State} (h3 : Keeps s0 s) :
    OutKeeps s0 (execKeyRevoke r err s) := by
  unfold execKeyRevoke
  apply privCmd_keeps
  · assumption
  · intro x4 x5 x6 x7
    split
    · rename_i x8 x9
      exact DispKeeps.stop
    · rename_i x10 x11 x12
      apply need_keeps
      apply DispKeeps.go
      apply succeed_keeps
      assumption

theorem execRepairClear_keeps {s0 : State} {r : CmdRef} {err : Option ReadErr} {s : Machine.State} (h3 : Keeps s0 s) :
    OutKeeps s0 (execRepairClear r err s) := by
  unfold execRepairClear
  apply privCmd_keeps
  · assumption
  · intro x4 x5 x6 x7
    apply DispKeeps.go
    apply succeed_keeps
    assumption

theorem execSecureErase_keeps {s0 : State} {r : CmdRef} {failed : List ℕ} {err : Option ReadErr} {s : Machine.State} (h4 : Keeps s0 s) :
    OutKeeps s0 (execSecureErase r failed err s) := by
  unfold execSecureErase
  apply privCmd_keeps
  · assumption
  · intro x5 x6 x7 x8
    apply need_keeps
    extract_lets +onlyGivenNames x9
    clear_value x9
    extract_lets +onlyGivenNames x10
    clear_value x10
    extract_lets +onlyGivenNames x11
    clear_value x11
    extract_lets +onlyGivenNames x12
    clear_value x12
    extract_lets +onlyGivenNames x13
    clear_value x13
    extract_lets +onlyGivenNames x14
    have h15 : Keeps s0 x14 := by
      unfold x14
      apply memZero_keeps
      apply Keeps.upd
      assumption
    clear_value x14
    extract_lets +onlyGivenNames x16
    have h17 : Keeps s0 x16 := by
      unfold x16
      apply all_foldl (P := Keeps s0)
      · intro x18 x19 x20
        apply addRecord_keeps
        assumption
      · assumption
    clear_value x16
    apply DispKeeps.go
    apply succeed_keeps
    assumption

theorem setKeys_keeps {s0 : State} {s : Machine.State} (h1 : Keeps s0 s) {keys : FMap Key} {transient : Option Key} :
    Keeps s0 (setKeys s keys transient) := by
  unfold setKeys
  extract_lets +onlyGivenNames x4
  clear_value x4
  extract_lets +onlyGivenNames x5
  clear_value x5
  extract_lets +onlyGivenNames x6
  clear_value x6
  extract_lets +onlyGivenNames x7
  clear_value x7
  extract_lets +onlyGivenNames x8
  have h9 : Keeps s0 x8 := by
    unfold x8
    apply Keeps.upd
    assumption
  clear_value x8
  extract_lets +onlyGivenNames x10
  have h11 : Keeps s0 x10 := by
    unfold x10
    apply setF_keeps
    assumption
  clear_value x10
  extract_lets +onlyGivenNames x12
  have h13 : Keeps s0 x12 := by
    unfold x12
    apply setF_keeps
    assumption
  clear_value x12
  extract_lets +onlyGivenNames x14
  have h15 : Keeps s0 x14 := by
    unfold x14
    apply setF_keeps
    assumption
  clear_value x14
  extract_lets +onlyGivenNames x16
  have h17 : Keeps s0 x16 := by
    unfold x16
    apply setF_keeps
    assumption
  clear_value x16
  apply all_ite (P := Keeps s0)
  · apply raiseF_keeps
    assumption
  · assumption

theorem closeWindow_keeps {s0 : State} {s : Machine.State} (h1 : Keeps s0 s) :
    Keeps s0 (closeWindow s) := by
  unfold closeWindow
  apply setKeys_keeps
  apply setF_keeps
  apply setF_keeps
  assumption

theorem execPresenceDebounce_keeps {s0 : State} {low : Bool} {s : Machine.State} (h2 : Keeps s0 s) :
    OutKeeps s0 (execPresenceDebounce low s) := by
  unfold execPresenceDebounce
  extract_lets +onlyGivenNames x3
  clear_value x3
  apply all_ite (P := OutKeeps s0)
  · apply all_ite (P := OutKeeps s0)
    · apply OutKeeps.next
      assumption
    · extract_lets +onlyGivenNames x4
      clear_value x4
      extract_lets +onlyGivenNames x5
      have h6 : Keeps s0 x5 := by
        unfold x5
        apply setF_keeps
        apply setF_keeps
        apply setF_keeps
        assumption
      clear_value x5
      extract_lets +onlyGivenNames x7
      have h8 : Keeps s0 x7 := by
        unfold x7
        apply bumpF_keeps
        assumption
      clear_value x7
      apply OutKeeps.next
      apply all_ite (P := Keeps s0)
      · apply raiseF_keeps
        assumption
      · assumption
  · apply all_ite (P := OutKeeps s0)
    · apply OutKeeps.next
      assumption
    · extract_lets +onlyGivenNames x9
      have h10 : Keeps s0 x9 := by
        unfold x9
        apply setF_keeps
        assumption
      clear_value x9
      apply OutKeeps.next
      apply all_ite (P := Keeps s0)
      · apply closeWindow_keeps
        assumption
      · assumption

theorem execPresenceWindowClose_keeps {s0 : State} {s : Machine.State} (h1 : Keeps s0 s) :
    OutKeeps s0 (execPresenceWindowClose s) := by
  unfold execPresenceWindowClose
  apply all_ite (P := OutKeeps s0)
  · apply OutKeeps.next
    assumption
  · apply all_ite (P := OutKeeps s0)
    · apply OutKeeps.next
      apply setF_keeps
      assumption
    · apply OutKeeps.next
      apply closeWindow_keeps
      assumption

theorem mgmtDone_keeps {s0 : State} {s : Machine.State} (h1 : Keeps s0 s) {c : Cmd} :
    Keeps s0 (mgmtDone s c) := by
  unfold mgmtDone
  extract_lets +onlyGivenNames x3
  clear_value x3
  split
  · rename_i x4 x5 x6 x7
    apply setSlotState_keeps
    apply Keeps.upd
    assumption
  · rename_i x8 x9 x10 x11
    apply all_ite (P := Keeps s0)
    · assumption
    · apply setSlotState_keeps
      apply Keeps.upd
      assumption
  · rename_i x12 x13 x14 x15
    apply all_ite (P := Keeps s0)
    · apply setKeys_keeps
      assumption
    · apply setKeys_keeps
      assumption
  · rename_i x16 x17 x18 x19
    apply setKeys_keeps
    assumption
  · rename_i x20 x21 x22 x23
    apply raiseF_keeps
    apply setF_keeps
    apply Keeps.upd
    assumption
  · rename_i x24 x25 x26 x27
    apply clearRecords_keeps
    assumption
  · rename_i x28 x29 x30 x31 x32 x33 x34 x35
    assumption

theorem sealEvent_keeps {s0 : State} {s : Machine.State} (h1 : Keeps s0 s) :
    Keeps s0 (sealEvent s) := by
  unfold sealEvent
  extract_lets +onlyGivenNames x2
  clear_value x2
  extract_lets +onlyGivenNames x3
  clear_value x3
  extract_lets +onlyGivenNames x4
  have h5 : Keeps s0 x4 := by
    unfold x4
    apply Keeps.upd
    assumption
  clear_value x4
  extract_lets +onlyGivenNames x6
  have h7 : Keeps s0 x6 := by
    unfold x6
    apply setF_keeps
    apply setKeys_keeps
    assumption
  clear_value x6
  apply all_foldl (P := Keeps s0)
  · intro x8 x9 x10
    apply all_ite (P := Keeps s0)
    · apply updCmd_keeps
      assumption
    · assumption
  · assumption

theorem execSealSample_keeps {s0 : State} {bit : Bool} {s : Machine.State} (h2 : Keeps s0 s) :
    OutKeeps s0 (execSealSample bit s) := by
  unfold execSealSample
  apply all_ite (P := OutKeeps s0)
  · apply OutKeeps.next
    assumption
  · apply all_ite (P := OutKeeps s0)
    · extract_lets +onlyGivenNames x3
      clear_value x3
      apply OutKeeps.next
      apply Keeps.upd
      assumption
    · extract_lets +onlyGivenNames x4
      clear_value x4
      extract_lets +onlyGivenNames x5
      clear_value x5
      extract_lets +onlyGivenNames x6
      have h7 : Keeps s0 x6 := by
        unfold x6
        apply Keeps.upd
        assumption
      clear_value x6
      apply OutKeeps.next
      apply all_ite (P := Keeps s0)
      · apply sealEvent_keeps
        assumption
      · assumption

/-! ## Mez -/

theorem execDebugDmiAccess_keeps {s0 : State} {a : ℕ} {data : Option Word} {s : Machine.State} (h3 : Keeps s0 s) :
    OutKeeps s0 (execDebugDmiAccess a data s) := by
  unfold execDebugDmiAccess
  apply whileServed_keeps
  · assumption
  · apply all_ite (P := OutKeeps s0)
    · apply OutKeeps.next
      apply Keeps.upd
      assumption
    · split
      rename_i x4 x5 x6 x7 x8
      extract_lets +onlyGivenNames x9
      clear_value x9
      extract_lets +onlyGivenNames x10
      have h11 : Keeps s0 x10 := by
        unfold x10
        apply Keeps.upd
        assumption
      clear_value x10
      apply OutKeeps.next
      apply Keeps.upd
      assumption

theorem execMezFwConfirm_keeps {s0 : State} {s : Machine.State} (h1 : Keeps s0 s) :
    OutKeeps s0 (execMezFwConfirm s) := by
  unfold execMezFwConfirm
  apply whileServed_keeps
  · assumption
  · apply OutKeeps.next
    apply setF_keeps
    assumption

theorem lineBack_keeps {s0 : State} {s : Machine.State} (h1 : Keeps s0 s) {ln : ℕ} {data : List Byte} :
    Keeps s0 (lineBack s ln data) := by
  unfold lineBack
  apply all_ite (P := Keeps s0)
  · assumption
  · apply store_keeps
    assumption

theorem dropLines_keeps {s0 : State} {s : Machine.State} (h1 : Keeps s0 s) {which : ℕ × CLine → Bool} {keep : ℕ × CLine → Bool} :
    Keeps s0 (dropLines s which keep) := by
  unfold dropLines
  extract_lets +onlyGivenNames x4
  clear_value x4
  extract_lets +onlyGivenNames x5
  clear_value x5
  extract_lets +onlyGivenNames x6
  have h7 : Keeps s0 x6 := by
    unfold x6
    apply Keeps.upd
    assumption
  clear_value x6
  apply all_foldl (P := Keeps s0)
  · intro x8 x9 x10
    apply all_ite (P := Keeps s0)
    · apply lineBack_keeps
      assumption
    · assumption
  · assumption

theorem flushCore_keeps {s0 : State} {s : Machine.State} (h1 : Keeps s0 s) {c : ℕ} {bad : List ℕ} :
    Keeps s0 (flushCore s c bad) := by
  unfold flushCore
  apply dropLines_keeps
  assumption

theorem reroute_keeps {s0 : State} {s : Machine.State} (h1 : Keeps s0 s) {c : ℕ} :
    Keeps s0 (reroute s c) := by
  unfold reroute
  extract_lets +onlyGivenNames x3
  clear_value x3
  apply all_ite (P := Keeps s0)
  · assumption
  · extract_lets +onlyGivenNames x4
    clear_value x4
    extract_lets +onlyGivenNames x5
    have h6 : Keeps s0 x5 := by
      unfold x5
      apply loadIrq_keeps
      apply Keeps.upd
      assumption
    clear_value x5
    extract_lets +onlyGivenNames x7
    have h8 : Keeps s0 x7 := by
      unfold x7
      apply bumpF_keeps
      assumption
    clear_value x7
    extract_lets +onlyGivenNames x9
    have h10 : Keeps s0 x9 := by
      unfold x9
      apply bumpF_keeps
      assumption
    clear_value x9
    extract_lets +onlyGivenNames x11
    have h12 : Keeps s0 x11 := by
      unfold x11
      apply raiseF_keeps
      assumption
    clear_value x11
    apply all_ite (P := Keeps s0)
    · apply setX_keeps
      assumption
    · assumption

theorem setCore_keeps {s0 : State} {s : Machine.State} (h1 : Keeps s0 s) {c : ℕ} {k : Core} :
    Keeps s0 (setCore s c k) := by
  unfold setCore
  apply Keeps.upd
  assumption

theorem execCoreKick_keeps {s0 : State} {core : ℕ} {s : Machine.State} (h2 : Keeps s0 s) :
    OutKeeps s0 (execCoreKick core s) := by
  unfold execCoreKick
  apply guardUnit_keeps
  apply whileServed_keeps
  · assumption
  · apply OutKeeps.next
    apply all_ite (P := Keeps s0)
    · apply setCore_keeps
      assumption
    · assumption

theorem execCoreTimer_keeps {s0 : State} {core : ℕ} {s : Machine.State} (h2 : Keeps s0 s) :
    OutKeeps s0 (execCoreTimer core s) := by
  unfold execCoreTimer
  apply guardUnit_keeps
  extract_lets +onlyGivenNames x3
  clear_value x3
  apply OutKeeps.next
  apply all_ite (P := Keeps s0)
  · apply setCore_keeps
    assumption
  · assumption

theorem markRetired_keeps {s0 : State} {s : Machine.State} (h1 : Keeps s0 s) {c : ℕ} :
    Keeps s0 (markRetired s c) := by
  unfold markRetired
  extract_lets +onlyGivenNames x3
  clear_value x3
  extract_lets +onlyGivenNames x4
  clear_value x4
  extract_lets +onlyGivenNames x5
  have h6 : Keeps s0 x5 := by
    unfold x5
    apply setF_keeps
    assumption
  clear_value x5
  extract_lets +onlyGivenNames x7
  have h8 : Keeps s0 x7 := by
    unfold x7
    apply setF_keeps
    assumption
  clear_value x7
  extract_lets +onlyGivenNames x9
  have h10 : Keeps s0 x9 := by
    unfold x9
    apply setF_keeps
    apply setCore_keeps
    assumption
  clear_value x9
  apply all_ite (P := Keeps s0)
  · apply setF_keeps
    assumption
  · assumption

theorem retireCore_keeps {s0 : State} {s : Machine.State} (h1 : Keeps s0 s) {c : ℕ} {src : ℕ} {bad : List ℕ} :
    Keeps s0 (retireCore s c src bad) := by
  unfold retireCore
  apply all_ite (P := Keeps s0)
  · assumption
  · apply all_ite (P := Keeps s0)
    · apply raiseF_keeps
      assumption
    · extract_lets +onlyGivenNames x5
      have h6 : Keeps s0 x5 := by
        unfold x5
        apply endClaims_keeps
        apply flushCore_keeps
        apply latchRaised_keeps
        assumption
      clear_value x5
      extract_lets +onlyGivenNames x7
      have h8 : Keeps s0 x7 := by
        unfold x7
        apply reroute_keeps
        apply markRetired_keeps
        assumption
      clear_value x7
      apply raiseF_keeps
      apply addRecord_keeps
      assumption

theorem execCoreRetire_keeps {s0 : State} {core : ℕ} {bad : List ℕ} {s : Machine.State} (h3 : Keeps s0 s) :
    OutKeeps s0 (execCoreRetire core bad s) := by
  unfold execCoreRetire
  apply guardUnit_keeps
  apply whileServed_keeps
  · assumption
  · apply OutKeeps.next
    apply retireCore_keeps
    assumption

theorem execCoreWatchdogExpiry_keeps {s0 : State} {core : ℕ} {bad : List ℕ} {s : Machine.State} (h3 : Keeps s0 s) :
    OutKeeps s0 (execCoreWatchdogExpiry core bad s) := by
  unfold execCoreWatchdogExpiry
  apply guardUnit_keeps
  apply all_ite (P := OutKeeps s0)
  · apply OutKeeps.next
    assumption
  · extract_lets +onlyGivenNames x4
    clear_value x4
    extract_lets +onlyGivenNames x5
    clear_value x5
    extract_lets +onlyGivenNames x6
    have h7 : Keeps s0 x6 := by
      unfold x6
      apply raiseF_keeps
      apply setCore_keeps
      assumption
    clear_value x6
    apply OutKeeps.next
    apply all_ite (P := Keeps s0)
    · apply retireCore_keeps
      assumption
    · assumption

/-! ## Queue -/

theorem execQueueEnable_keeps {s0 : State} {fn : ℕ} {scope : ℕ} {queue : ℕ} {on : Bool} {s : Machine.State} (h5 : Keeps s0 s) :
    OutKeeps s0 (execQueueEnable fn scope queue on s) := by
  unfold execQueueEnable
  apply guardUnit_keeps
  apply whileServed_keeps
  · assumption
  · apply all_ite (P := OutKeeps s0)
    · apply OutKeeps.next
      assumption
    · apply all_ite (P := OutKeeps s0)
      · apply OutKeeps.next
        apply countMalformed_keeps
        assumption
      · extract_lets +onlyGivenNames x6
        clear_value x6
        apply all_ite (P := OutKeeps s0)
        · apply all_ite (P := OutKeeps s0)
          · apply OutKeeps.next
            apply setQ_keeps
            assumption
          · apply all_ite (P := OutKeeps s0)
            · apply OutKeeps.next
              apply countMalformed_keeps
              assumption
            · extract_lets +onlyGivenNames x7
              have h8 : Keeps s0 x7 := by
                unfold x7
                apply setF_keeps
                assumption
              clear_value x7
              extract_lets +onlyGivenNames x9
              have h10 : Keeps s0 x9 := by
                unfold x9
                apply setF_keeps
                assumption
              clear_value x9
              extract_lets +onlyGivenNames x11
              have h12 : Keeps s0 x11 := by
                unfold x11
                apply setF_keeps
                assumption
              clear_value x11
              extract_lets +onlyGivenNames x13
              have h14 : Keeps s0 x13 := by
                unfold x13
                apply setF_keeps
                assumption
              clear_value x13
              extract_lets +onlyGivenNames x15
              have h16 : Keeps s0 x15 := by
                unfold x15
                apply setF_keeps
                assumption
              clear_value x15
              apply OutKeeps.next
              apply setQ_keeps
              assumption
        · apply all_ite (P := OutKeeps s0)
          · extract_lets +onlyGivenNames x17
            have h18 : Keeps s0 x17 := by
              unfold x17
              apply setF_keeps
              assumption
            clear_value x17
            apply OutKeeps.next
            apply setF_keeps
            assumption
          · apply OutKeeps.next
            apply countMalformed_keeps
            assumption

theorem execSubmissionTailDoorbell_keeps {s0 : State} {fn : ℕ} {scope : ℕ} {queue : ℕ} {off : ℕ} {size : ℕ} {data : DWord} {s : Machine.State} (h7 : Keeps s0 s) :
    OutKeeps s0 (execSubmissionTailDoorbell fn scope queue off size data s) := by
  unfold execSubmissionTailDoorbell
  apply whileServed_keeps
  · assumption
  · apply all_ite (P := OutKeeps s0)
    · apply OutKeeps.next
      apply setQ_keeps
      assumption
    · apply OutKeeps.next
      apply countMalformed_keeps
      assumption

theorem holdEntry_keeps {s0 : State} {s : Machine.State} (h1 : Keeps s0 s) {scope : ℕ} {q : ℕ} {e : Entry} :
    Keeps s0 (holdEntry s scope q e) := by
  unfold holdEntry
  extract_lets +onlyGivenNames x5
  clear_value x5
  apply setQ_keeps
  assumption

theorem nextSlot_keeps {s0 : State} {s : Machine.State} (h1 : Keeps s0 s) {scope : ℕ} {q : ℕ} :
    Keeps s0 (nextSlot s scope q) := by
  unfold nextSlot
  extract_lets +onlyGivenNames x4
  clear_value x4
  apply setF_keeps
  assumption

theorem signalQueue_keeps {s0 : State} {s : Machine.State} (h1 : Keeps s0 s) {scope : ℕ} {q : ℕ} :
    Keeps s0 (signalQueue s scope q) := by
  unfold signalQueue
  extract_lets +onlyGivenNames x4
  clear_value x4
  extract_lets +onlyGivenNames x5
  clear_value x5
  apply all_ite (P := Keeps s0)
  · extract_lets +onlyGivenNames x6
    have h7 : Keeps s0 x6 := by
      unfold x6
      apply setQ_keeps
      assumption
    clear_value x6
    apply Keeps.upd
    assumption
  · assumption

theorem stopQueue_keeps {s0 : State} {s : Machine.State} (h1 : Keeps s0 s) {scope : ℕ} {q : ℕ} {code : ℕ} :
    Keeps s0 (stopQueue s scope q code) := by
  unfold stopQueue
  extract_lets +onlyGivenNames x5
  have h6 : Keeps s0 x5 := by
    unfold x5
    apply setF_keeps
    assumption
  clear_value x5
  extract_lets +onlyGivenNames x7
  have h8 : Keeps s0 x7 := by
    unfold x7
    apply setF_keeps
    assumption
  clear_value x7
  apply raiseCmdEvent_keeps
  assumption

theorem writeEntry_keeps {s0 : State} {s : Machine.State} (h1 : Keeps s0 s) {scope : ℕ} {q : ℕ} {e : Entry} :
    Keeps s0 (writeEntry s scope q e) := by
  unfold writeEntry
  extract_lets +onlyGivenNames x5
  clear_value x5
  extract_lets +onlyGivenNames x6
  clear_value x6
  extract_lets +onlyGivenNames x7
  clear_value x7
  extract_lets +onlyGivenNames x8
  clear_value x8
  extract_lets +onlyGivenNames x9
  clear_value x9
  extract_lets +onlyGivenNames x10
  have h11 : Keeps s0 x10 := by
    unfold x10
    apply memPut_keeps
    assumption
  clear_value x10
  extract_lets +onlyGivenNames x12
  have h13 : Keeps s0 x12 := by
    unfold x12
    apply setF_keeps
    assumption
  clear_value x12
  extract_lets +onlyGivenNames x14
  have h15 : Keeps s0 x14 := by
    unfold x14
    apply all_ite (P := Keeps s0)
    · apply setF_keeps
      assumption
    · assumption
  clear_value x14
  extract_lets +onlyGivenNames x16
  clear_value x16
  extract_lets +onlyGivenNames x17
  have h18 : Keeps s0 x17 := by
    unfold x17
    apply setQ_keeps
    assumption
  clear_value x17
  apply signalQueue_keeps
  assumption

theorem flushList_keeps {s0 : State} {scope : ℕ} {q : ℕ} {x2 : List Entry} {x3 : Machine.State} (h4 : Keeps s0 x3) :
    Keeps s0 (flushList scope q x2 x3) := by
  fun_induction flushList
  · rename_i x5
    assumption
  · rename_i x6 x7 x8 x9 x10 x11
    apply x11
    apply setQ_keeps
    unfold x10
    apply writeEntry_keeps
    assumption
  · rename_i x12 x13 x14 x15
    assumption

theorem flushHeld_keeps {s0 : State} {s : Machine.State} (h1 : Keeps s0 s) {scope : ℕ} {q : ℕ} :
    Keeps s0 (flushHeld s scope q) := by
  unfold flushHeld
  apply flushList_keeps
  assumption

theorem pushEntry_keeps {s0 : State} {s : Machine.State} (h1 : Keeps s0 s) {scope : ℕ} {q : ℕ} {e : Entry} {err : Option ReadErr} :
    Keeps s0 (pushEntry s scope q e err) := by
  unfold pushEntry
  apply all_ite (P := Keeps s0)
  · split
    · rename_i x6
      apply writeEntry_keeps
      assumption
    · rename_i x7 x8
      extract_lets +onlyGivenNames x9
      have h10 : Keeps s0 x9 := by
        unfold x9
        apply holdEntry_keeps
        assumption
      clear_value x9
      apply stopQueue_keeps
      apply setQ_keeps
      assumption
  · apply holdEntry_keeps
    assumption

theorem acceptEntry_keeps {s0 : State} {s : Machine.State} (h1 : Keeps s0 s) {scope : ℕ} {q : ℕ} {err : Option ReadErr} :
    Keeps s0 (acceptEntry s scope q err) := by
  unfold acceptEntry
  extract_lets +onlyGivenNames x5
  clear_value x5
  extract_lets +onlyGivenNames x6
  apply all_ite (P := Keeps s0)
  · extract_lets +onlyGivenNames x7
    have h8 : Keeps s0 x7 := by
      unfold x7
      apply pushEntry_keeps
      assumption
    clear_value x7
    apply setQ_keeps
    assumption
  · assumption

theorem execCompletionHeadDoorbell_keeps {s0 : State} {fn : ℕ} {scope : ℕ} {queue : ℕ} {off : ℕ} {size : ℕ} {data : DWord} {s : Machine.State} (h7 : Keeps s0 s) :
    OutKeeps s0 (execCompletionHeadDoorbell fn scope queue off size data s) := by
  unfold execCompletionHeadDoorbell
  apply whileServed_keeps
  · assumption
  · apply all_ite (P := OutKeeps s0)
    · extract_lets +onlyGivenNames x8
      clear_value x8
      extract_lets +onlyGivenNames x9
      have h10 : Keeps s0 x9 := by
        unfold x9
        apply latchRaised_keeps
        assumption
      clear_value x9
      extract_lets +onlyGivenNames x11
      clear_value x11
      extract_lets +onlyGivenNames x12
      have h13 : Keeps s0 x12 := by
        unfold x12
        apply setQ_keeps
        assumption
      clear_value x12
      apply OutKeeps.next
      apply acceptEntry_keeps
      apply flushHeld_keeps
      assumption
    · apply OutKeeps.next
      apply countMalformed_keeps
      assumption

theorem execQueueRestart_keeps {s0 : State} {fn : ℕ} {scope : ℕ} {queue : ℕ} {entryErr : Option ReadErr} {s : Machine.State} (h5 : Keeps s0 s) :
    OutKeeps s0 (execQueueRestart fn scope queue entryErr s) := by
  unfold execQueueRestart
  apply guardUnit_keeps
  apply whileServed_keeps
  · assumption
  · apply all_ite (P := OutKeeps s0)
    · apply OutKeeps.next
      apply countMalformed_keeps
      assumption
    · apply all_ite (P := OutKeeps s0)
      · apply OutKeeps.next
        assumption
      · split
        · rename_i x6 x7 x8 x9 x10 x11
          apply OutKeeps.next
          apply stopQueue_keeps
          assumption
        · rename_i x12 x13 x14 x15
          extract_lets +onlyGivenNames x16
          clear_value x16
          extract_lets +onlyGivenNames x17
          have h18 : Keeps s0 x17 := by
            unfold x17
            apply setQ_keeps
            assumption
          clear_value x17
          extract_lets +onlyGivenNames x19
          have h20 : Keeps s0 x19 := by
            unfold x19
            apply flushHeld_keeps
            apply setF_keeps
            assumption
          clear_value x19
          apply OutKeeps.next
          apply acceptEntry_keeps
          assumption

theorem execQueueResume_keeps {s0 : State} {fn : ℕ} {scope : ℕ} {queue : ℕ} {head : ℕ} {s : Machine.State} (h5 : Keeps s0 s) :
    OutKeeps s0 (execQueueResume fn scope queue head s) := by
  unfold execQueueResume
  apply guardUnit_keeps
  apply whileServed_keeps
  · assumption
  · extract_lets +onlyGivenNames x6
    clear_value x6
    apply all_ite (P := OutKeeps s0)
    · apply OutKeeps.next
      apply countMalformed_keeps
      assumption
    · apply all_ite (P := OutKeeps s0)
      · apply OutKeeps.next
        assumption
      · apply all_ite (P := OutKeeps s0)
        · apply OutKeeps.next
          apply countMalformed_keeps
          assumption
        · extract_lets +onlyGivenNames x7
          have h8 : Keeps s0 x7 := by
            unfold x7
            apply latchRaised_keeps
            assumption
          clear_value x7
          extract_lets +onlyGivenNames x9
          have h10 : Keeps s0 x9 := by
            unfold x9
            apply setF_keeps
            assumption
          clear_value x9
          extract_lets +onlyGivenNames x11
          have h12 : Keeps s0 x11 := by
            unfold x11
            apply setF_keeps
            assumption
          clear_value x11
          extract_lets +onlyGivenNames x13
          have h14 : Keeps s0 x13 := by
            unfold x13
            apply setF_keeps
            assumption
          clear_value x13
          extract_lets +onlyGivenNames x15
          have h16 : Keeps s0 x15 := by
            unfold x15
            apply setF_keeps
            assumption
          clear_value x15
          extract_lets +onlyGivenNames x17
          clear_value x17
          extract_lets +onlyGivenNames x18
          clear_value x18
          extract_lets +onlyGivenNames x19
          have h20 : Keeps s0 x19 := by
            unfold x19
            apply setQ_keeps
            assumption
          clear_value x19
          apply OutKeeps.next
          apply acceptEntry_keeps
          apply flushHeld_keeps
          assumption

theorem intakeRefuse_keeps {s0 : State} {s : Machine.State} (h1 : Keeps s0 s) {scope : ℕ} {q : ℕ} {code : ℕ} {check : ℕ} {seq : ℕ} {slot : ℕ} {stops : Bool} {err : Option ReadErr} :
    Keeps s0 (intakeRefuse s scope q code check seq slot stops err) := by
  unfold intakeRefuse
  extract_lets +onlyGivenNames x10
  have h11 : Keeps s0 x10 := by
    unfold x10
    apply all_ite (P := Keeps s0)
    · apply stopQueue_keeps
      assumption
    · assumption
  clear_value x10
  apply pushEntry_keeps
  assumption

theorem intakeSlot_keeps {s0 : State} {s : Machine.State} (h1 : Keeps s0 s) {scope : ℕ} {q : ℕ} {fetchErr : Option ReadErr} {entryErr : Option ReadErr} :
    Keeps s0 (intakeSlot s scope q fetchErr entryErr) := by
  unfold intakeSlot
  extract_lets +onlyGivenNames x6
  clear_value x6
  extract_lets +onlyGivenNames x7
  clear_value x7
  split
  · rename_i x8 x9
    apply intakeRefuse_keeps
    assumption
  · rename_i x10
    extract_lets +onlyGivenNames x11
    clear_value x11
    extract_lets +onlyGivenNames x12
    clear_value x12
    apply all_ite (P := Keeps s0)
    · apply intakeRefuse_keeps
      assumption
    · apply all_ite (P := Keeps s0)
      · apply intakeRefuse_keeps
        assumption
      · apply all_ite (P := Keeps s0)
        · apply acceptEntry_keeps
          apply intakeRefuse_keeps
          apply nextSlot_keeps
          assumption
        · apply all_ite (P := Keeps s0)
          · apply intakeRefuse_keeps
            assumption
          · extract_lets +onlyGivenNames x13
            have h14 : Keeps s0 x13 := by
              unfold x13
              apply nextSlot_keeps
              assumption
            clear_value x13
            extract_lets +onlyGivenNames x15
            have h16 : Keeps s0 x15 := by
              unfold x15
              apply setF_keeps
              assumption
            clear_value x15
            extract_lets +onlyGivenNames x17
            clear_value x17
            extract_lets +onlyGivenNames x18
            have h19 : Keeps s0 x18 := by
              unfold x18
              apply setQ_keeps
              assumption
            clear_value x18
            apply acceptEntry_keeps
            assumption

/-! ## Cold -/

theorem wipe_keeps {s0 : State} {s : Machine.State} (h1 : Keeps s0 s) :
    Keeps s0 (wipe s) := by
  unfold wipe
  extract_lets +onlyGivenNames x2
  clear_value x2
  extract_lets +onlyGivenNames x3
  have h4 : Keeps s0 x3 := by
    unfold x3
    apply Keeps.updAll
    · assumption
    · exact fun _ => rfl
    · exact fun _ => rfl
    · exact le_refl _
  clear_value x3
  extract_lets +onlyGivenNames x5
  have h6 : Keeps s0 x5 := by
    unfold x5
    apply all_foldl (P := Keeps s0)
    · intro x7 x8 x9
      apply regSet_keeps
      assumption
    · assumption
  clear_value x5
  extract_lets +onlyGivenNames x10
  have h11 : Keeps s0 x10 := by
    unfold x10
    apply setF_keeps
    assumption
  clear_value x10
  extract_lets +onlyGivenNames x12
  have h13 : Keeps s0 x12 := by
    unfold x12
    apply setF_keeps
    assumption
  clear_value x12
  extract_lets +onlyGivenNames x14
  have h15 : Keeps s0 x14 := by
    unfold x14
    apply setF_keeps
    assumption
  clear_value x14
  apply setF_keeps
  assumption

theorem coldReset_keeps {s0 : State} {s : Machine.State} (h1 : Keeps s0 s) {cause : ℕ} :
    Keeps s0 (coldReset s cause) := by
  unfold coldReset
  apply setF_keeps
  apply setF_keeps
  apply wipe_keeps
  assumption

/-! ## Complete -/

theorem abortOwner_keeps {s0 : State} {s : Machine.State} (h1 : Keeps s0 s) {r : CmdRef} {c : Cmd} :
    Keeps s0 (abortOwner s r c) := by
  unfold abortOwner
  split
  · rename_i x4 x5
    apply setHdState_keeps
    assumption
  · rename_i x6 x7
    apply abortBatch_keeps
    assumption
  · rename_i x8 x9
    apply abortData_keeps
    assumption
  · rename_i x10 x11
    apply abortEncode_keeps
    assumption
  · rename_i x12 x13 x14 x15 x16
    assumption

theorem abortCmd_keeps {s0 : State} {s : Machine.State} (h1 : Keeps s0 s) {r : CmdRef} {c : Cmd} :
    Keeps s0 (abortCmd s r c) := by
  unfold abortCmd
  apply all_ite (P := Keeps s0)
  · apply endCmd_keeps
    assumption
  · apply all_ite (P := Keeps s0)
    · split
      rename_i x4 x5 x6 x7
      apply dropItems_keeps
      apply voidCmd_keeps
      apply endCmd_keeps
      apply abortOwner_keeps
      assumption
    · assumption

theorem appendDone_keeps {s0 : State} {s : Machine.State} (h1 : Keeps s0 s) {h : ℕ} {c : Cmd} :
    Keeps s0 (appendDone s h c) := by
  unfold appendDone
  split
  · rename_i x4 x5 x6 x7
    extract_lets +onlyGivenNames x8
    clear_value x8
    apply memPutNat_keeps
    assumption
  · rename_i x9 x10
    assumption

theorem countCode_keeps {s0 : State} {s : Machine.State} (h1 : Keeps s0 s) {h : ℕ} {code : ℕ} :
    Keeps s0 (countCode s h code) := by
  unfold countCode
  split
  · rename_i x4
    apply countHall_keeps
    assumption
  · rename_i x5
    apply countHall_keeps
    assumption
  · rename_i x6
    apply countHall_keeps
    assumption
  · rename_i x7 x8 x9 x10
    assumption

theorem execAbort_keeps {s0 : State} {r : CmdRef} {s : Machine.State} (h2 : Keeps s0 s) :
    OutKeeps s0 (execAbort r s) := by
  unfold execAbort
  apply guardUnit_keeps
  split
  · rename_i x3 x4
    apply OutKeeps.next
    assumption
  · rename_i x5 x6 x7
    apply all_ite (P := OutKeeps s0)
    · apply OutKeeps.next
      assumption
    · extract_lets +onlyGivenNames x8
      clear_value x8
      apply all_ite (P := OutKeeps s0)
      · apply OutKeeps.next
        apply endCmd_keeps
        assumption
      · split
        · rename_i x9 x10 x11
          apply OutKeeps.next
          apply endCmd_keeps
          assumption
        · rename_i x12 x13
          extract_lets +onlyGivenNames x14
          have h15 : Keeps s0 x14 := by
            unfold x14
            apply latchRaised_keeps
            apply markDispatched_keeps
            assumption
          clear_value x14
          split
          · rename_i x16 x17 x18
            apply OutKeeps.next
            apply abortCmd_keeps
            assumption
          · rename_i x19 x20
            apply OutKeeps.next
            assumption

theorem execCommandIntake_keeps {s0 : State} {scope : ℕ} {queue : ℕ} {fetchErr : Option ReadErr} {entryErr : Option ReadErr} {s : Machine.State} (h5 : Keeps s0 s) :
    OutKeeps s0 (execCommandIntake scope queue fetchErr entryErr s) := by
  unfold execCommandIntake
  apply guardUnit_keeps
  extract_lets +onlyGivenNames x6
  clear_value x6
  apply all_ite (P := OutKeeps s0)
  · apply OutKeeps.next
    assumption
  · apply all_ite (P := OutKeeps s0)
    · apply OutKeeps.next
      apply raiseCmdEvent_keeps
      assumption
    · extract_lets +onlyGivenNames x7
      clear_value x7
      extract_lets +onlyGivenNames x8
      have h9 : Keeps s0 x8 := by
        unfold x8
        apply intakeSlot_keeps
        assumption
      clear_value x8
      apply OutKeeps.next
      apply all_ite (P := Keeps s0)
      · apply wakeHall_keeps
        assumption
      · assumption

theorem execNop_keeps {s0 : State} {r : CmdRef} {s : Machine.State} (h2 : Keeps s0 s) :
    OutKeeps s0 (execNop r s) := by
  unfold execNop
  apply guardUnit_keeps
  apply dispatch_keeps
  · assumption
  · intro x3 x4 x5
    apply DispKeeps.go
    apply succeed_keeps
    assumption

theorem mergeNorm_keeps {s0 : State} {s : Machine.State} (h1 : Keeps s0 s) {a : ℕ} {n : NormAcc} :
    Keeps s0 (mergeNorm s a n) := by
  unfold mergeNorm
  extract_lets +onlyGivenNames x4
  clear_value x4
  extract_lets +onlyGivenNames x5
  clear_value x5
  extract_lets +onlyGivenNames x6
  have h7 : Keeps s0 x6 := by
    unfold x6
    apply memPutNat_keeps
    assumption
  clear_value x6
  extract_lets +onlyGivenNames x8
  have h9 : Keeps s0 x8 := by
    unfold x8
    apply memPutNat_keeps
    assumption
  clear_value x8
  extract_lets +onlyGivenNames x10
  have h11 : Keeps s0 x10 := by
    unfold x10
    apply memPutNat_keeps
    assumption
  clear_value x10
  apply spansWrote_keeps
  apply memPutNat_keeps
  assumption

theorem mergeJob_keeps {s0 : State} {s : Machine.State} (h1 : Keeps s0 s) {h : ℕ} {j : Job} :
    Keeps s0 (mergeJob s h j) := by
  unfold mergeJob
  extract_lets +onlyGivenNames x4
  have h5 : Keeps s0 x4 := by
    unfold x4
    split
    · rename_i x6 x7 x8
      apply scaleUpdate_keeps
      assumption
    · rename_i x9 x10
      assumption
  clear_value x4
  extract_lets +onlyGivenNames x11
  have h12 : Keeps s0 x11 := by
    unfold x11
    split
    · rename_i x13 x14 x15
      apply mergeNorm_keeps
      assumption
    · rename_i x16 x17
      assumption
  clear_value x11
  apply all_foldl (P := Keeps s0)
  · intro x18 x19 x20
    apply mergeNorm_keeps
    assumption
  · assumption

theorem completeHall_keeps {s0 : State} {s : Machine.State} (h1 : Keeps s0 s) {r : CmdRef} {c : Cmd} :
    Keeps s0 (completeHall s r c) := by
  unfold completeHall
  extract_lets +onlyGivenNames x4
  clear_value x4
  extract_lets +onlyGivenNames x5
  extract_lets +onlyGivenNames x6
  have h7 : Keeps s0 x6 := by
    unfold x6
    apply all_ite (P := Keeps s0)
    · apply mergeJob_keeps
      assumption
    · assumption
  clear_value x6
  extract_lets +onlyGivenNames x8
  have h9 : Keeps s0 x8 := by
    unfold x8
    apply all_ite (P := Keeps s0)
    · apply appendDone_keeps
      assumption
    · assumption
  clear_value x8
  extract_lets +onlyGivenNames x10
  have h11 : Keeps s0 x10 := by
    unfold x10
    apply unqueueSlots_keeps
    assumption
  clear_value x10
  extract_lets +onlyGivenNames x12
  have h13 : Keeps s0 x12 := by
    unfold x12
    apply all_ite (P := Keeps s0)
    · apply xtabLoaded_keeps
      assumption
    · assumption
  clear_value x12
  extract_lets +onlyGivenNames x14
  have h15 : Keeps s0 x14 := by
    unfold x14
    apply all_ite (P := Keeps s0)
    · assumption
    · apply all_ite (P := Keeps s0)
      · apply dictLoaded_keeps
        assumption
      · apply setF_keeps
        assumption
  clear_value x14
  extract_lets +onlyGivenNames x16
  have h17 : Keeps s0 x16 := by
    unfold x16
    apply all_ite (P := Keeps s0)
    · apply cloComplete_keeps
      assumption
    · assumption
  clear_value x16
  apply cacheDrop_keeps
  apply countCode_keeps
  assumption

theorem settleAborts_keeps {s0 : State} {s : Machine.State} (h1 : Keeps s0 s) {r : CmdRef} :
    Keeps s0 (settleAborts s r) := by
  unfold settleAborts
  apply all_foldl (P := Keeps s0)
  · intro x3 x4 x5
    apply all_foldl (P := Keeps s0)
    · intro x6 x7 x8
      apply all_ite (P := Keeps s0)
      · apply succeed_keeps
        assumption
      · assumption
    · assumption
  · assumption

theorem afterRecord_keeps {s0 : State} {s : Machine.State} (h1 : Keeps s0 s) {r : CmdRef} {c : Cmd} :
    Keeps s0 (afterRecord s r c) := by
  unfold afterRecord
  extract_lets +onlyGivenNames x4
  have h5 : Keeps s0 x4 := by
    unfold x4
    apply all_ite (P := Keeps s0)
    · apply closeSettle_keeps
      assumption
    · assumption
  clear_value x4
  extract_lets +onlyGivenNames x6
  have h7 : Keeps s0 x6 := by
    unfold x6
    apply all_ite (P := Keeps s0)
    · apply stepBoundary_keeps
      assumption
    · assumption
  clear_value x6
  apply settleAborts_keeps
  assumption

theorem recordCmd_keeps {s0 : State} {s : Machine.State} (h1 : Keeps s0 s) {r : CmdRef} {c : Cmd} {elapsed : ℕ} :
    Keeps s0 (recordCmd s r c elapsed) := by
  unfold recordCmd
  extract_lets +onlyGivenNames x5
  have h6 : Keeps s0 x5 := by
    unfold x5
    apply all_ite (P := Keeps s0)
    · apply completeHall_keeps
      assumption
    · apply mgmtDone_keeps
      assumption
  clear_value x5
  extract_lets +onlyGivenNames x7
  have h8 : Keeps s0 x7 := by
    unfold x7
    apply updCmd_keeps
    assumption
  clear_value x7
  extract_lets +onlyGivenNames x9
  clear_value x9
  extract_lets +onlyGivenNames x10
  clear_value x10
  apply afterRecord_keeps
  apply setQ_keeps
  assumption

theorem execCommandCompletion_keeps {s0 : State} {r : CmdRef} {elapsed : ℕ} {entryErr : Option ReadErr} {s : Machine.State} (h4 : Keeps s0 s) :
    OutKeeps s0 (execCommandCompletion r elapsed entryErr s) := by
  unfold execCommandCompletion
  apply guardUnit_keeps
  split
  · rename_i x5 x6
    apply OutKeeps.next
    assumption
  · rename_i x7 x8 x9
    apply all_ite (P := OutKeeps s0)
    · apply OutKeeps.next
      assumption
    · extract_lets +onlyGivenNames x10
      have h11 : Keeps s0 x10 := by
        unfold x10
        apply latchRaised_keeps
        assumption
      clear_value x10
      extract_lets +onlyGivenNames x12
      clear_value x12
      extract_lets +onlyGivenNames x13
      clear_value x13
      extract_lets +onlyGivenNames x14
      have h15 : Keeps s0 x14 := by
        unfold x14
        apply pushEntry_keeps
        apply recordCmd_keeps
        assumption
      clear_value x14
      apply OutKeeps.next
      apply all_ite (P := Keeps s0)
      · apply coldReset_keeps
        assumption
      · assumption

end Sys2Proof.Machine
end

