-- ==== Sys2Proof/Laws/KeepsHost.lean ====
section
/-! SUPPORT. No operation of these files touches what waits, the canonical form of memory and registers, or the free values
drawn: HostIf, Repair, Start, Access, Board, CoreCmd, Vector. -/

namespace Sys2Proof.Machine

/-! ## HostIf -/

theorem bar4Drop_keeps {s0 : State} {s : Machine.State} (h1 : Keeps s0 s) :
    Keeps s0 (bar4Drop s) := by
  unfold bar4Drop
  apply satF_keeps
  assumption

theorem cfgSwitch_keeps {s0 : State} {s : Machine.State} (h1 : Keeps s0 s) {fn : ℕ} {off : ℕ} {v : ℕ} :
    Keeps s0 (cfgSwitch s fn off v) := by
  unfold cfgSwitch
  extract_lets +onlyGivenNames x5
  clear_value x5
  extract_lets +onlyGivenNames x6
  have h7 : Keeps s0 x6 := by
    unfold x6
    apply all_ite (P := Keeps s0)
    · apply Keeps.upd
      assumption
    · assumption
  clear_value x6
  apply all_ite (P := Keeps s0)
  · apply Keeps.upd
    assumption
  · assumption

theorem execAtsInvalidation_keeps {s0 : State} {lo : ℕ} {n : ℕ} {s : Machine.State} (h3 : Keeps s0 s) :
    OutKeeps s0 (execAtsInvalidation lo n s) := by
  unfold execAtsInvalidation
  apply OutKeeps.next
  apply Keeps.upd
  assumption

theorem execBar4Read_keeps {s0 : State} {x : ℕ} {n : ℕ} {bad : Bool} {s : Machine.State} (h4 : Keeps s0 s) :
    OutKeeps s0 (execBar4Read x n bad s) := by
  unfold execBar4Read
  extract_lets +onlyGivenNames x5
  clear_value x5
  apply all_ite (P := OutKeeps s0)
  · apply OutKeeps.next
    apply Keeps.upd
    assumption
  · apply all_ite (P := OutKeeps s0)
    · apply OutKeeps.next
      extract_lets +onlyGivenNames x6
      have h7 : Keeps s0 x6 := by
        unfold x6
        apply bar4Drop_keeps
        assumption
      clear_value x6
      apply Keeps.upd
      assumption
    · apply all_ite (P := OutKeeps s0)
      · apply OutKeeps.next
        assumption
      · extract_lets +onlyGivenNames x8
        have h9 : Keeps s0 x8 := by
          unfold x8
          apply driveRange_keeps
          assumption
        clear_value x8
        split
        · rename_i x10 x11 x12 x13 x14 x15
          apply OutKeeps.next
          extract_lets +onlyGivenNames x16
          have h17 : Keeps s0 x16 := by
            unfold x16
            apply bar4Drop_keeps
            apply recordErr_keeps
            assumption
          clear_value x16
          apply Keeps.upd
          assumption
        · rename_i x18 x19 x20
          apply OutKeeps.next
          extract_lets +onlyGivenNames x21
          have h22 : Keeps s0 x21 := by
            unfold x21
            apply bar4Drop_keeps
            apply recordBurst_keeps
            assumption
          clear_value x21
          apply Keeps.upd
          assumption
        · rename_i x23 x24 x25
          apply OutKeeps.next
          apply Keeps.upd
          assumption

theorem execBar4Write_keeps {s0 : State} {x : ℕ} {data : List Byte} {bad : Bool} {s : Machine.State} (h4 : Keeps s0 s) :
    OutKeeps s0 (execBar4Write x data bad s) := by
  unfold execBar4Write
  extract_lets +onlyGivenNames x5
  clear_value x5
  apply all_ite (P := OutKeeps s0)
  · apply OutKeeps.next
    assumption
  · apply all_ite (P := OutKeeps s0)
    · apply OutKeeps.next
      apply bar4Drop_keeps
      assumption
    · apply all_ite (P := OutKeeps s0)
      · apply OutKeeps.next
        assumption
      · apply all_ite (P := OutKeeps s0)
        · apply OutKeeps.next
          apply bar4Drop_keeps
          assumption
        · apply OutKeeps.next
          apply store_keeps
          assumption

theorem execConfigurationRequest_keeps {s0 : State} {fn : ℕ} {off : ℕ} {data : Option Word} {s : Machine.State} (h4 : Keeps s0 s) :
    OutKeeps s0 (execConfigurationRequest fn off data s) := by
  unfold execConfigurationRequest
  apply guardUnit_keeps
  apply all_ite (P := OutKeeps s0)
  · apply OutKeeps.next
    apply Keeps.upd
    assumption
  · split
    · rename_i x5
      apply OutKeeps.next
      apply Keeps.upd
      assumption
    · rename_i x6 x7
      apply all_ite (P := OutKeeps s0)
      · apply OutKeeps.next
        apply Keeps.upd
        assumption
      · extract_lets +onlyGivenNames x8
        have h9 : Keeps s0 x8 := by
          unfold x8
          apply cfgSwitch_keeps
          apply Keeps.upd
          assumption
        clear_value x8
        apply OutKeeps.next
        apply Keeps.upd
        assumption

theorem execD3hotTransition_keeps {s0 : State} {toD3 : Bool} {s : Machine.State} (h2 : Keeps s0 s) :
    OutKeeps s0 (execD3hotTransition toD3 s) := by
  unfold execD3hotTransition
  apply OutKeeps.next
  apply Keeps.upd
  assumption

theorem flrQueue_keeps {s0 : State} {s : Machine.State} (h1 : Keeps s0 s) {p : ℕ × ℕ} :
    Keeps s0 (flrQueue s p) := by
  unfold flrQueue
  extract_lets +onlyGivenNames x3
  have h4 : Keeps s0 x3 := by
    unfold x3
    apply all_foldl (P := Keeps s0)
    · intro x5 x6 x7
      apply all_ite (P := Keeps s0)
      · assumption
      · extract_lets +onlyGivenNames x8
        have h9 : Keeps s0 x8 := by
          unfold x8
          apply abortCmd_keeps
          assumption
        clear_value x8
        split
        · rename_i x10 x11 x12
          apply recordCmd_keeps
          assumption
        · rename_i x13 x14
          assumption
    · assumption
  clear_value x3
  extract_lets +onlyGivenNames x15
  have h16 : Keeps s0 x15 := by
    unfold x15
    apply setF_keeps
    assumption
  clear_value x15
  extract_lets +onlyGivenNames x17
  have h18 : Keeps s0 x17 := by
    unfold x17
    apply setF_keeps
    assumption
  clear_value x17
  apply setQ_keeps
  assumption

theorem flrScope_keeps {s0 : State} {s : Machine.State} (h1 : Keeps s0 s) {scope : ℕ} :
    Keeps s0 (flrScope s scope) := by
  unfold flrScope
  apply all_foldl (P := Keeps s0)
  · intro x3 x4 x5
    apply flrQueue_keeps
    assumption
  · assumption

theorem execFlrPf_keeps {s0 : State} {s : Machine.State} (h1 : Keeps s0 s) :
    OutKeeps s0 (execFlrPf s) := by
  unfold execFlrPf
  extract_lets +onlyGivenNames x2
  have h3 : Keeps s0 x2 := by
    unfold x2
    apply all_foldl (P := Keeps s0)
    · intro x4 x5 x6
      apply flrScope_keeps
      assumption
    · apply latchRaised_keeps
      assumption
  clear_value x2
  apply OutKeeps.next
  apply Keeps.upd
  assumption

theorem execFlrVf_keeps {s0 : State} {n : ℕ} {s : Machine.State} (h2 : Keeps s0 s) :
    OutKeeps s0 (execFlrVf n s) := by
  unfold execFlrVf
  apply guardUnit_keeps
  apply OutKeeps.next
  apply flrScope_keeps
  apply latchRaised_keeps
  assumption

theorem hostFault_keeps {s0 : State} {s : Machine.State} (h1 : Keeps s0 s) {q : MemReq} :
    Keeps s0 (hostFault s q) := by
  unfold hostFault
  apply failReq_keeps
  apply freeSlot_keeps
  assumption

theorem execAtsTranslationCompletion_keeps {s0 : State} {q : MemReq} {ok : Bool} {s : Machine.State} (h3 : Keeps s0 s) :
    OutKeeps s0 (execAtsTranslationCompletion q ok s) := by
  unfold execAtsTranslationCompletion
  apply all_ite (P := OutKeeps s0)
  · apply OutKeeps.next
    assumption
  · apply all_ite (P := OutKeeps s0)
    · apply OutKeeps.next
      apply hostFault_keeps
      assumption
    · apply all_ite (P := OutKeeps s0)
      · extract_lets +onlyGivenNames x4
        clear_value x4
        extract_lets +onlyGivenNames x5
        clear_value x5
        extract_lets +onlyGivenNames x6
        have h7 : Keeps s0 x6 := by
          unfold x6
          apply Keeps.upd
          assumption
        clear_value x6
        apply OutKeeps.next
        apply all_ite (P := Keeps s0)
        · apply land_keeps
          apply freeSlot_keeps
          assumption
        · assumption
      · apply all_ite (P := OutKeeps s0)
        · apply OutKeeps.next
          assumption
        · apply OutKeeps.next
          apply Keeps.upd
          assumption

theorem execHostReadCompletion_keeps {s0 : State} {q : MemReq} {err : Option ReadErr} {s : Machine.State} (h3 : Keeps s0 s) :
    OutKeeps s0 (execHostReadCompletion q err s) := by
  unfold execHostReadCompletion
  apply all_ite (P := OutKeeps s0)
  · apply OutKeeps.next
    assumption
  · apply all_ite (P := OutKeeps s0)
    · apply OutKeeps.next
      apply hostFault_keeps
      assumption
    · apply all_ite (P := OutKeeps s0)
      · apply OutKeeps.next
        assumption
      · split
        · rename_i x4 x5
          apply OutKeeps.next
          apply failReq_keeps
          apply freeSlot_keeps
          assumption
        · rename_i x6
          apply OutKeeps.next
          apply deliver_keeps
          apply freeSlot_keeps
          assumption

theorem hostGone_keeps {s0 : State} {s : Machine.State} (h1 : Keeps s0 s) :
    Keeps s0 (hostGone s) := by
  unfold hostGone
  extract_lets +onlyGivenNames x2
  have h3 : Keeps s0 x2 := by
    unfold x2
    apply all_foldl (P := Keeps s0)
    · intro x4 x5 x6
      apply all_foldl (P := Keeps s0)
      · intro x7 x8 x9
        apply hostFault_keeps
        assumption
      · assumption
    · assumption
  clear_value x2
  extract_lets +onlyGivenNames x10
  have h11 : Keeps s0 x10 := by
    unfold x10
    apply all_foldl (P := Keeps s0)
    · intro x12 x13 x14
      apply hostFault_keeps
      assumption
    · assumption
  clear_value x10
  apply all_foldl (P := Keeps s0)
  · intro x15 x16 x17
    split
    · rename_i x18 x19 x20
      apply all_ite (P := Keeps s0)
      · apply failRemote_keeps
        assumption
      · apply failCmd_keeps
        assumption
    · rename_i x21 x22
      assumption
  · assumption

theorem pcieReset_keeps {s0 : State} {s : Machine.State} (h1 : Keeps s0 s) :
    Keeps s0 (pcieReset s) := by
  unfold pcieReset
  apply Keeps.upd
  assumption

theorem suspendQueues_keeps {s0 : State} {s : Machine.State} (h1 : Keeps s0 s) {qs : List (ℕ × ℕ)} :
    Keeps s0 (suspendQueues s qs) := by
  unfold suspendQueues
  extract_lets +onlyGivenNames x3
  have h4 : Keeps s0 x3 := by
    unfold x3
    apply all_foldl (P := Keeps s0)
    · intro x5 x6 x7
      apply setF_keeps
      assumption
    · assumption
  clear_value x3
  apply all_ite (P := Keeps s0)
  · assumption
  · apply raiseCmdEvent_keeps
    assumption

theorem execHotReset_keeps {s0 : State} {s : Machine.State} (h1 : Keeps s0 s) :
    OutKeeps s0 (execHotReset s) := by
  unfold execHotReset
  extract_lets +onlyGivenNames x2
  have h3 : Keeps s0 x2 := by
    unfold x2
    apply latchRaised_keeps
    assumption
  clear_value x2
  apply OutKeeps.next
  apply hostGone_keeps
  apply pcieReset_keeps
  apply suspendQueues_keeps
  assumption

theorem takePageReq_keeps {s0 : State} {s : Machine.State} (h1 : Keeps s0 s) {id : ℕ} :
    OptAll (AtSnd (Keeps s0)) (takePageReq s id) := by
  unfold takePageReq
  unfold Option.map
  split
  · rename_i x3 x4 x5
    apply OptAll.some
    apply AtSnd.mk
    apply Keeps.upd
    assumption
  · rename_i x6 x7
    exact OptAll.none

theorem execPageRequestResponse_keeps {s0 : State} {id : ℕ} {ok : Bool} {s : Machine.State} (h3 : Keeps s0 s) :
    OutKeeps s0 (execPageRequestResponse id ok s) := by
  unfold execPageRequestResponse
  split
  · rename_i x4 x5
    have h6 := all_of_eq (P := OptAll (AtSnd (Keeps s0))) x5 (by
        apply takePageReq_keeps
        assumption)
    apply OutKeeps.next
    assumption
  · rename_i x7 x8 x9 x10
    have h11 := all_of_eq (P := OptAll (AtSnd (Keeps s0))) x10 (by
        apply takePageReq_keeps
        assumption)
    have h11a := h11.get
    apply OutKeeps.next
    apply all_ite (P := Keeps s0)
    · assumption
    · apply hostFault_keeps
      assumption

theorem execPageRequestTimeout_keeps {s0 : State} {id : ℕ} {s : Machine.State} (h2 : Keeps s0 s) :
    OutKeeps s0 (execPageRequestTimeout id s) := by
  unfold execPageRequestTimeout
  split
  · rename_i x3 x4
    have h5 := all_of_eq (P := OptAll (AtSnd (Keeps s0))) x4 (by
        apply takePageReq_keeps
        assumption)
    apply OutKeeps.next
    assumption
  · rename_i x6 x7 x8 x9
    have h10 := all_of_eq (P := OptAll (AtSnd (Keeps s0))) x9 (by
        apply takePageReq_keeps
        assumption)
    have h10a := h10.get
    apply OutKeeps.next
    apply hostFault_keeps
    assumption

/-! ## Repair -/

theorem applySram_keeps {s0 : State} {s : Machine.State} (h1 : Keeps s0 s) {f : ℕ} :
    Keeps s0 (applySram s f) := by
  unfold applySram
  extract_lets +onlyGivenNames x3
  clear_value x3
  extract_lets +onlyGivenNames x4
  clear_value x4
  extract_lets +onlyGivenNames x5
  clear_value x5
  extract_lets +onlyGivenNames x6
  have h7 : Keeps s0 x6 := by
    unfold x6
    apply refreshRepair_keeps
    apply Keeps.upd
    assumption
  clear_value x6
  apply all_foldl (P := Keeps s0)
  · intro x8 x9 x10
    apply all_ite (P := Keeps s0)
    · apply isolateTread_keeps
      assumption
    · apply isolateFlight_keeps
      assumption
  · assumption

theorem execBlockReturn_keeps {s0 : State} {b : ℕ} {s : Machine.State} (h2 : Keeps s0 s) :
    OutKeeps s0 (execBlockReturn b s) := by
  unfold execBlockReturn
  apply guardUnit_keeps
  apply whileServed_keeps
  · assumption
  · apply all_ite (P := OutKeeps s0)
    · apply OutKeeps.next
      assumption
    · apply all_ite (P := OutKeeps s0)
      · apply OutKeeps.next
        apply raiseF_keeps
        assumption
      · extract_lets +onlyGivenNames x3
        have h4 : Keeps s0 x3 := by
          unfold x3
          apply setF_keeps
          assumption
        clear_value x3
        apply OutKeeps.next
        apply refreshLevel_keeps
        apply all_ite (P := Keeps s0)
        · apply setF_keeps
          assumption
        · assumption

theorem execFlightIsolate_keeps {s0 : State} {f : ℕ} {force : Bool} {s : Machine.State} (h3 : Keeps s0 s) :
    OutKeeps s0 (execFlightIsolate f force s) := by
  unfold execFlightIsolate
  apply guardUnit_keeps
  apply whileServed_keeps
  · assumption
  · apply OutKeeps.next
    apply all_ite (P := Keeps s0)
    · apply isolateFlight_keeps
      apply latchRaised_keeps
      assumption
    · assumption

theorem execSelftestRun_keeps {s0 : State} {slice : ℕ} {s : Machine.State} (h2 : Keeps s0 s) :
    OutKeeps s0 (execSelftestRun slice s) := by
  unfold execSelftestRun
  apply whileServed_keeps
  · assumption
  · apply all_ite (P := OutKeeps s0)
    · apply OutKeeps.next
      apply raiseF_keeps
      assumption
    · extract_lets +onlyGivenNames x3
      clear_value x3
      extract_lets +onlyGivenNames x4
      have h5 : Keeps s0 x4 := by
        unfold x4
        apply Keeps.upd
        assumption
      clear_value x4
      apply OutKeeps.next
      apply setF_keeps
      apply setF_keeps
      assumption

theorem fillTests_keeps {s0 : State} {s : Machine.State} (h1 : Keeps s0 s) :
    Keeps s0 (fillTests s) := by
  unfold fillTests
  extract_lets +onlyGivenNames x2
  clear_value x2
  extract_lets +onlyGivenNames x3
  clear_value x3
  extract_lets +onlyGivenNames x4
  clear_value x4
  extract_lets +onlyGivenNames x5
  clear_value x5
  extract_lets +onlyGivenNames x6
  clear_value x6
  extract_lets +onlyGivenNames x7
  have h8 : Keeps s0 x7 := by
    unfold x7
    apply Keeps.upd
    assumption
  clear_value x7
  apply setF_keeps
  assumption

theorem isolateBlock_keeps {s0 : State} {s : Machine.State} (h1 : Keeps s0 s) {b : ℕ} :
    Keeps s0 (isolateBlock s b) := by
  unfold isolateBlock
  apply all_ite (P := Keeps s0)
  · assumption
  · extract_lets +onlyGivenNames x3
    have h4 : Keeps s0 x3 := by
      unfold x3
      apply setF_keeps
      assumption
    clear_value x3
    extract_lets +onlyGivenNames x5
    have h6 : Keeps s0 x5 := by
      unfold x5
      apply raiseF_keeps
      assumption
    clear_value x5
    extract_lets +onlyGivenNames x7
    have h8 : Keeps s0 x7 := by
      unfold x7
      apply all_ite (P := Keeps s0)
      · apply setF_keeps
        assumption
      · assumption
    clear_value x7
    apply refreshLevel_keeps
    apply Keeps.upd
    assumption

theorem execBlockIsolate_keeps {s0 : State} {b : ℕ} {s : Machine.State} (h2 : Keeps s0 s) :
    OutKeeps s0 (execBlockIsolate b s) := by
  unfold execBlockIsolate
  apply guardUnit_keeps
  apply whileServed_keeps
  · assumption
  · apply OutKeeps.next
    apply isolateBlock_keeps
    assumption

theorem isolateSlice_keeps {s0 : State} {s : Machine.State} (h1 : Keeps s0 s) {n : ℕ} :
    Keeps s0 (isolateSlice s n) := by
  unfold isolateSlice
  apply all_ite (P := Keeps s0)
  · apply isolateFlight_keeps
    assumption
  · apply all_ite (P := Keeps s0)
    · apply retireChannel_keeps
      assumption
    · apply all_ite (P := Keeps s0)
      · apply failPort_keeps
        assumption
      · apply all_ite (P := Keeps s0)
        · apply retireCore_keeps
          assumption
        · apply all_ite (P := Keeps s0)
          · apply isolateBlock_keeps
            assumption
          · assumption

theorem markApplied_keeps {s0 : State} {s : Machine.State} (h1 : Keeps s0 s) {which : Repair → Bool} :
    Keeps s0 (markApplied s which) := by
  unfold markApplied
  apply refreshRepair_keeps
  apply Keeps.upd
  assumption

theorem powerDown_keeps {s0 : State} {s : Machine.State} (h1 : Keeps s0 s) :
    Keeps s0 (powerDown s) := by
  unfold powerDown
  extract_lets +onlyGivenNames x2
  have h3 : Keeps s0 x2 := by
    unfold x2
    apply all_foldl (P := Keeps s0)
    · intro x4 x5 x6
      apply flightOff_keeps
      assumption
    · assumption
  clear_value x2
  extract_lets +onlyGivenNames x7
  have h8 : Keeps s0 x7 := by
    unfold x7
    apply all_foldl (P := Keeps s0)
    · intro x9 x10 x11
      apply setF_keeps
      apply setPortState_keeps
      assumption
    · assumption
  clear_value x7
  extract_lets +onlyGivenNames x12
  clear_value x12
  extract_lets +onlyGivenNames x13
  have h14 : Keeps s0 x13 := by
    unfold x13
    apply setF_keeps
    assumption
  clear_value x13
  apply Keeps.upd
  assumption

theorem endRun_keeps {s0 : State} {s : Machine.State} (h1 : Keeps s0 s) :
    Keeps s0 (endRun s) := by
  unfold endRun
  apply all_ite (P := Keeps s0)
  · assumption
  · extract_lets +onlyGivenNames x2
    have h3 : Keeps s0 x2 := by
      unfold x2
      apply bumpF_keeps
      assumption
    clear_value x2
    apply powerDown_keeps
    apply Keeps.upd
    assumption

theorem execLntShutdown_keeps {s0 : State} {s : Machine.State} (h1 : Keeps s0 s) :
    OutKeeps s0 (execLntShutdown s) := by
  unfold execLntShutdown
  apply all_ite (P := OutKeeps s0)
  · apply OutKeeps.next
    assumption
  · apply all_ite (P := OutKeeps s0)
    · apply OutKeeps.next
      apply raiseF_keeps
      assumption
    · extract_lets +onlyGivenNames x2
      clear_value x2
      extract_lets +onlyGivenNames x3
      clear_value x3
      extract_lets +onlyGivenNames x4
      clear_value x4
      extract_lets +onlyGivenNames x5
      clear_value x5
      extract_lets +onlyGivenNames x6
      clear_value x6
      extract_lets +onlyGivenNames x7
      clear_value x7
      extract_lets +onlyGivenNames x8
      clear_value x8
      extract_lets +onlyGivenNames x9
      clear_value x9
      extract_lets +onlyGivenNames x10
      clear_value x10
      extract_lets +onlyGivenNames x11
      clear_value x11
      extract_lets +onlyGivenNames x12
      clear_value x12
      extract_lets +onlyGivenNames x13
      have h14 : Keeps s0 x13 := by
        unfold x13
        apply Keeps.upd
        assumption
      clear_value x13
      apply OutKeeps.next
      apply endRun_keeps
      apply fillTests_keeps
      assumption

theorem recordFailure_keeps {s0 : State} {s : Machine.State} (h1 : Keeps s0 s) {x : Repair} :
    Keeps s0 (recordFailure s x) := by
  unfold recordFailure
  extract_lets +onlyGivenNames x3
  clear_value x3
  extract_lets +onlyGivenNames x4
  have h5 : Keeps s0 x4 := by
    unfold x4
    apply addRecord_keeps
    assumption
  clear_value x4
  apply all_ite (P := Keeps s0)
  · apply isolateSlice_keeps
    assumption
  · assumption

theorem returnTread_keeps {s0 : State} {s : Machine.State} (h1 : Keeps s0 s) {t : ℕ} :
    Keeps s0 (returnTread s t) := by
  unfold returnTread
  apply all_ite (P := Keeps s0)
  · extract_lets +onlyGivenNames x3
    have h4 : Keeps s0 x3 := by
      unfold x3
      apply setF_keeps
      apply memZero_keeps
      apply setT_keeps
      assumption
    clear_value x3
    apply treadStatus_keeps
    apply loadTables_keeps
    assumption
  · assumption

theorem execFlightUnisolate_keeps {s0 : State} {f : ℕ} {s : Machine.State} (h2 : Keeps s0 s) :
    OutKeeps s0 (execFlightUnisolate f s) := by
  unfold execFlightUnisolate
  apply guardUnit_keeps
  apply whileServed_keeps
  · assumption
  · apply all_ite (P := OutKeeps s0)
    · apply OutKeeps.next
      assumption
    · extract_lets +onlyGivenNames x3
      have h4 : Keeps s0 x3 := by
        unfold x3
        apply setF_keeps
        assumption
      clear_value x3
      extract_lets +onlyGivenNames x5
      clear_value x5
      extract_lets +onlyGivenNames x6
      have h7 : Keeps s0 x6 := by
        unfold x6
        apply Keeps.upd
        assumption
      clear_value x6
      extract_lets +onlyGivenNames x8
      have h9 : Keeps s0 x8 := by
        unfold x8
        apply applySram_keeps
        assumption
      clear_value x8
      apply all_ite (P := OutKeeps s0)
      · apply OutKeeps.next
        assumption
      · extract_lets +onlyGivenNames x10
        have h11 : Keeps s0 x10 := by
          unfold x10
          apply all_foldl (P := Keeps s0)
          · intro x12 x13 x14
            apply returnTread_keeps
            assumption
          · assumption
        clear_value x10
        extract_lets +onlyGivenNames x15
        have h16 : Keeps s0 x15 := by
          unfold x15
          split
          · rename_i x17 x18 x19
            apply wakeHall_keeps
            assumption
          · rename_i x20 x21
            assumption
        clear_value x15
        apply OutKeeps.next
        apply refreshLevel_keeps
        assumption

theorem sliceEnds_keeps {s0 : State} {s : Machine.State} (h1 : Keeps s0 s) {n : ℕ} {us : ℕ} {result : ℕ} {cursor : ℕ} {fails : List (ℕ × ℕ × ℕ × ℕ)} :
    Keeps s0 (sliceEnds s n us result cursor fails) := by
  unfold sliceEnds
  extract_lets +onlyGivenNames x7
  clear_value x7
  extract_lets +onlyGivenNames x8
  clear_value x8
  extract_lets +onlyGivenNames x9
  have h10 : Keeps s0 x9 := by
    unfold x9
    apply all_foldl (P := Keeps s0)
    · intro x11 x12 x13
      apply recordFailure_keeps
      assumption
    · assumption
  clear_value x9
  extract_lets +onlyGivenNames x14
  have h15 : Keeps s0 x14 := by
    unfold x14
    apply all_ite (P := Keeps s0)
    · apply recordFailure_keeps
      assumption
    · assumption
  clear_value x14
  extract_lets +onlyGivenNames x16
  clear_value x16
  extract_lets +onlyGivenNames x17
  have h18 : Keeps s0 x17 := by
    unfold x17
    apply all_ite (P := Keeps s0)
    · apply refreshRepair_keeps
      apply Keeps.upd
      assumption
    · assumption
  clear_value x17
  extract_lets +onlyGivenNames x19
  clear_value x19
  extract_lets +onlyGivenNames x20
  clear_value x20
  extract_lets +onlyGivenNames x21
  clear_value x21
  extract_lets +onlyGivenNames x22
  have h23 : Keeps s0 x22 := by
    unfold x22
    apply Keeps.upd
    assumption
  clear_value x22
  extract_lets +onlyGivenNames x24
  have h25 : Keeps s0 x24 := by
    unfold x24
    apply setF_keeps
    apply setF_keeps
    assumption
  clear_value x24
  extract_lets +onlyGivenNames x26
  have h27 : Keeps s0 x26 := by
    unfold x26
    apply all_ite (P := Keeps s0)
    · apply zeroFlight_keeps
      assumption
    · assumption
  clear_value x26
  apply all_ite (P := Keeps s0)
  · apply raiseF_keeps
    apply setF_keeps
    assumption
  · apply endRun_keeps
    apply fillTests_keeps
    assumption

theorem execSliceBudgetExpiry_keeps {s0 : State} {slice : ℕ} {us : ℕ} {cursor : ℕ} {fails : List (ℕ × ℕ × ℕ × ℕ)} {s : Machine.State} (h5 : Keeps s0 s) :
    OutKeeps s0 (execSliceBudgetExpiry slice us cursor fails s) := by
  unfold execSliceBudgetExpiry
  apply guardUnit_keeps
  apply all_ite (P := OutKeeps s0)
  · apply OutKeeps.next
    assumption
  · apply OutKeeps.next
    apply sliceEnds_keeps
    apply latchRaised_keeps
    assumption

theorem execSliceTestDone_keeps {s0 : State} {slice : ℕ} {us : ℕ} {fails : List (ℕ × ℕ × ℕ × ℕ)} {s : Machine.State} (h4 : Keeps s0 s) :
    OutKeeps s0 (execSliceTestDone slice us fails s) := by
  unfold execSliceTestDone
  apply guardUnit_keeps
  apply all_ite (P := OutKeeps s0)
  · apply OutKeeps.next
    assumption
  · apply OutKeeps.next
    apply sliceEnds_keeps
    apply latchRaised_keeps
    assumption

/-! ## Start -/

theorem dropTxns_keeps {s0 : State} {s : Machine.State} (h1 : Keeps s0 s) {open' : List ℕ} :
    Keeps s0 (dropTxns s open') := by
  unfold dropTxns
  apply all_foldl (P := Keeps s0)
  · intro x3 x4 x5
    apply raiseF_keeps
    apply closeTxn_keeps
    assumption
  · assumption

theorem execColdResetInput_keeps {s0 : State} {s : Machine.State} (h1 : Keeps s0 s) :
    OutKeeps s0 (execColdResetInput s) := by
  unfold execColdResetInput
  apply OutKeeps.next
  apply all_ite (P := Keeps s0)
  · apply coldReset_keeps
    apply Keeps.upd
    assumption
  · assumption

theorem execCriticalTemperature_keeps {s0 : State} {s : Machine.State} (h1 : Keeps s0 s) :
    OutKeeps s0 (execCriticalTemperature s) := by
  unfold execCriticalTemperature
  apply OutKeeps.next
  apply raiseF_keeps
  assumption

theorem execCriticalTemperatureClear_keeps {s0 : State} {s : Machine.State} (h1 : Keeps s0 s) :
    OutKeeps s0 (execCriticalTemperatureClear s) := by
  unfold execCriticalTemperatureClear
  apply OutKeeps.next
  apply setF_keeps
  assumption

theorem execLanternRailLoss_keeps {s0 : State} {s : Machine.State} (h1 : Keeps s0 s) :
    OutKeeps s0 (execLanternRailLoss s) := by
  unfold execLanternRailLoss
  apply OutKeeps.next
  apply all_ite (P := Keeps s0)
  · extract_lets +onlyGivenNames x2
    have h3 : Keeps s0 x2 := by
      unfold x2
      apply wipe_keeps
      assumption
    clear_value x2
    apply Keeps.upd
    assumption
  · assumption

theorem execLanternWatchdogKick_keeps {s0 : State} {s : Machine.State} (h1 : Keeps s0 s) :
    OutKeeps s0 (execLanternWatchdogKick s) := by
  unfold execLanternWatchdogKick
  apply OutKeeps.next
  assumption

theorem execLntColdReset_keeps {s0 : State} {s : Machine.State} (h1 : Keeps s0 s) :
    OutKeeps s0 (execLntColdReset s) := by
  unfold execLntColdReset
  apply OutKeeps.next
  apply all_ite (P := Keeps s0)
  · apply coldReset_keeps
    assumption
  · assumption

theorem execPerstDeassert_keeps {s0 : State} {s : Machine.State} (h1 : Keeps s0 s) :
    OutKeeps s0 (execPerstDeassert s) := by
  unfold execPerstDeassert
  apply OutKeeps.next
  apply Keeps.upd
  assumption

theorem execPowerGoodFall_keeps {s0 : State} {io : Bool} {core : Bool} {s : Machine.State} (h3 : Keeps s0 s) :
    OutKeeps s0 (execPowerGoodFall io core s) := by
  unfold execPowerGoodFall
  extract_lets +onlyGivenNames x4
  clear_value x4
  extract_lets +onlyGivenNames x5
  clear_value x5
  extract_lets +onlyGivenNames x6
  have h7 : Keeps s0 x6 := by
    unfold x6
    apply Keeps.upd
    assumption
  clear_value x6
  apply OutKeeps.next
  apply all_ite (P := Keeps s0)
  · apply coldReset_keeps
    assumption
  · assumption

theorem execPowerOn_keeps {s0 : State} {straps : ℕ} {s : Machine.State} (h2 : Keeps s0 s) :
    OutKeeps s0 (execPowerOn straps s) := by
  unfold execPowerOn
  apply all_ite (P := OutKeeps s0)
  · apply OutKeeps.next
    assumption
  · split
    rename_i x3 x4 x5 x6
    have h7 := all_of_eq (P := AtSnd (Keeps s0)) x6 (by
        apply takeFree_keeps
        assumption)
    extract_lets +onlyGivenNames x8
    clear_value x8
    extract_lets +onlyGivenNames x9
    have h10 : Keeps s0 x9 := by
      unfold x9
      apply coldReset_keeps
      apply Keeps.upd
      assumption
    clear_value x9
    apply OutKeeps.next
    apply Keeps.upd
    assumption

theorem execReferenceClockLoss_keeps {s0 : State} {s : Machine.State} (h1 : Keeps s0 s) :
    OutKeeps s0 (execReferenceClockLoss s) := by
  unfold execReferenceClockLoss
  apply OutKeeps.next
  apply all_ite (P := Keeps s0)
  · apply raiseF_keeps
    assumption
  · assumption

theorem execVidStep_keeps {s0 : State} {ok : Bool} {s : Machine.State} (h2 : Keeps s0 s) :
    OutKeeps s0 (execVidStep ok s) := by
  unfold execVidStep
  apply all_ite (P := OutKeeps s0)
  · apply OutKeeps.next
    assumption
  · apply all_ite (P := OutKeeps s0)
    · extract_lets +onlyGivenNames x3
      clear_value x3
      extract_lets +onlyGivenNames x4
      clear_value x4
      apply OutKeeps.next
      apply Keeps.upd
      assumption
    · extract_lets +onlyGivenNames x5
      clear_value x5
      extract_lets +onlyGivenNames x6
      have h7 : Keeps s0 x6 := by
        unfold x6
        apply raiseF_keeps
        assumption
      clear_value x6
      extract_lets +onlyGivenNames x8
      clear_value x8
      extract_lets +onlyGivenNames x9
      have h10 : Keeps s0 x9 := by
        unfold x9
        apply Keeps.upd
        assumption
      clear_value x9
      apply OutKeeps.next
      apply all_ite (P := Keeps s0)
      · apply all_foldl (P := Keeps s0)
        · intro x11 x12 x13
          apply all_ite (P := Keeps s0)
          · apply setF_keeps
            assumption
          · assumption
        · assumption
      · assumption

theorem holdReset_keeps {s0 : State} {s : Machine.State} (h1 : Keeps s0 s) {code : ℕ} :
    Keeps s0 (holdReset s code) := by
  unfold holdReset
  extract_lets +onlyGivenNames x3
  clear_value x3
  extract_lets +onlyGivenNames x4
  have h5 : Keeps s0 x4 := by
    unfold x4
    apply setF_keeps
    assumption
  clear_value x4
  apply Keeps.upd
  assumption

theorem execPowerGoodRise_keeps {s0 : State} {io : Bool} {core : Bool} {s : Machine.State} (h3 : Keeps s0 s) :
    OutKeeps s0 (execPowerGoodRise io core s) := by
  unfold execPowerGoodRise
  extract_lets +onlyGivenNames x4
  clear_value x4
  extract_lets +onlyGivenNames x5
  clear_value x5
  extract_lets +onlyGivenNames x6
  have h7 : Keeps s0 x6 := by
    unfold x6
    apply Keeps.upd
    assumption
  clear_value x6
  apply OutKeeps.next
  apply all_ite (P := Keeps s0)
  · apply holdReset_keeps
    assumption
  · assumption

theorem judgeSlot_keeps {s0 : State} {s : Machine.State} (h1 : Keeps s0 s) {fw : Bool} {slot : ℕ} :
    Keeps s0 (judgeSlot s fw slot) := by
  unfold judgeSlot
  apply all_ite (P := Keeps s0)
  · apply setSlotState_keeps
    assumption
  · assumption

theorem placeSystem_keeps {s0 : State} {s : Machine.State} (h1 : Keeps s0 s) {st : FMap (List Byte)} :
    Keeps s0 (placeSystem s st) := by
  unfold placeSystem
  extract_lets +onlyGivenNames x3
  have h4 : Keeps s0 x3 := by
    unfold x3
    apply placeFresh_keeps
    apply Keeps.upd
    assumption
  clear_value x3
  apply Keeps.upd
  assumption

theorem releaseCold_keeps {s0 : State} {s : Machine.State} (h1 : Keeps s0 s) :
    Keeps s0 (releaseCold s) := by
  unfold releaseCold
  apply Keeps.upd
  assumption

theorem reopenCmd_keeps {s0 : State} {s : Machine.State} (h1 : Keeps s0 s) {r : CmdRef} {c : Cmd} :
    Keeps s0 (reopenCmd s r c) := by
  unfold reopenCmd
  apply all_ite (P := Keeps s0)
  · assumption
  · apply all_ite (P := Keeps s0)
    · apply updCmd_keeps
      assumption
    · apply all_ite (P := Keeps s0)
      · apply updCmd_keeps
        assumption
      · assumption

theorem replayBatch_keeps {s0 : State} {s : Machine.State} (h1 : Keeps s0 s) {r : CmdRef} {c : Cmd} :
    Keeps s0 (replayBatch s r c) := by
  unfold replayBatch
  extract_lets +onlyGivenNames x4
  clear_value x4
  extract_lets +onlyGivenNames x5
  have h6 : Keeps s0 x5 := by
    unfold x5
    apply all_foldl (P := Keeps s0)
    · intro x7 x8 x9
      apply memPut_keeps
      assumption
    · assumption
  clear_value x5
  extract_lets +onlyGivenNames x10
  have h11 : Keeps s0 x10 := by
    unfold x10
    apply updJob_keeps
    assumption
  clear_value x10
  apply all_foldl (P := Keeps s0)
  · intro x12 x13 x14
    split
    · rename_i x15 x16 x17
      apply all_ite (P := Keeps s0)
      · apply holeSlot_keeps
        assumption
      · assumption
    · rename_i x18 x19
      assumption
  · assumption

theorem replayEncode_keeps {s0 : State} {s : Machine.State} (h1 : Keeps s0 s) {r : CmdRef} {c : Cmd} :
    Keeps s0 (replayEncode s r c) := by
  unfold replayEncode
  extract_lets +onlyGivenNames x4
  clear_value x4
  extract_lets +onlyGivenNames x5
  clear_value x5
  extract_lets +onlyGivenNames x6
  have h7 : Keeps s0 x6 := by
    unfold x6
    apply abortEncode_keeps
    assumption
  clear_value x6
  split
  · rename_i x8 x9
    apply setStream_keeps
    assumption
  · rename_i x10
    assumption

theorem replayCmd_keeps {s0 : State} {s : Machine.State} (h1 : Keeps s0 s) {r : CmdRef} {c : Cmd} :
    Keeps s0 (replayCmd s r c) := by
  unfold replayCmd
  extract_lets +onlyGivenNames x4
  have h6 : ∀ (x5 : Machine.State), Keeps s0 x5 → Keeps s0 (x4 x5) := by
    intro x7 x8
    unfold x4
    apply updJob_keeps
    assumption
  clear_value x4
  extract_lets +onlyGivenNames x9
  have h11 : ∀ (x10 : Machine.State), Keeps s0 x10 → Keeps s0 (x9 x10) := by
    intro x12 x13
    unfold x9
    apply endCmd_keeps
    assumption
  clear_value x9
  extract_lets +onlyGivenNames x14
  have h16 : ∀ (x15 : Machine.State), Keeps s0 x15 → Keeps s0 (x14 x15) := by
    intro x17 x18
    unfold x14
    split
    · rename_i x19 x20
      apply killHeader_keeps
      assumption
    · rename_i x21 x22
      apply killHeader_keeps
      assumption
    · rename_i x23 x24 x25
      assumption
  clear_value x14
  split
  · rename_i x26 x27
    apply all_ite (P := Keeps s0)
    · apply h11
      apply setHdState_keeps
      assumption
    · apply h6
      apply openHandle_keeps
      assumption
  · rename_i x28 x29
    apply updJob_keeps
    apply h6
    assumption
  · rename_i x30 x31
    apply all_ite (P := Keeps s0)
    · apply h11
      apply h16
      assumption
    · apply h6
      apply h16
      assumption
  · rename_i x32 x33
    apply all_ite (P := Keeps s0)
    · apply h11
      apply h16
      assumption
    · apply h6
      apply h16
      assumption
  · rename_i x34 x35
    apply all_ite (P := Keeps s0)
    · apply h11
      apply h16
      assumption
    · apply h6
      apply h16
      assumption
  · rename_i x36 x37
    apply all_ite (P := Keeps s0)
    · apply h6
      assumption
    · assumption
  · rename_i x38 x39
    apply all_ite (P := Keeps s0)
    · apply h6
      assumption
    · assumption
  · rename_i x40 x41
    apply h6
    assumption
  · rename_i x42 x43
    apply h6
    assumption
  · rename_i x44 x45
    apply h6
    assumption
  · rename_i x46 x47
    apply all_ite (P := Keeps s0)
    · apply h6
      assumption
    · apply updJob_keeps
      assumption
  · rename_i x48 x49
    apply updJob_keeps
    assumption
  · rename_i x50 x51
    apply replayBatch_keeps
    assumption
  · rename_i x52 x53
    apply replayEncode_keeps
    assumption
  · rename_i x54 x55 x56 x57 x58 x59 x60 x61 x62 x63 x64 x65 x66 x67 x68
    assumption

theorem replayQueue_keeps {s0 : State} {s : Machine.State} (h1 : Keeps s0 s) {p : ℕ × ℕ} :
    Keeps s0 (replayQueue s p) := by
  unfold replayQueue
  extract_lets +onlyGivenNames x3
  clear_value x3
  extract_lets +onlyGivenNames x4
  clear_value x4
  extract_lets +onlyGivenNames x5
  clear_value x5
  extract_lets +onlyGivenNames x6
  have h7 : Keeps s0 x6 := by
    unfold x6
    apply all_foldl (P := Keeps s0)
    · intro x8 x9 x10
      apply store_keeps
      assumption
    · assumption
  clear_value x6
  apply flushHeld_keeps
  assumption

theorem replayStreams_keeps {s0 : State} {s : Machine.State} (h1 : Keeps s0 s) :
    Keeps s0 (replayStreams s) := by
  unfold replayStreams
  extract_lets +onlyGivenNames x2
  have h3 : Keeps s0 x2 := by
    unfold x2
    apply all_foldl (P := Keeps s0)
    · intro x4 x5 x6
      extract_lets +onlyGivenNames x7
      clear_value x7
      apply setStream_keeps
      assumption
    · assumption
  clear_value x2
  apply all_foldl (P := Keeps s0)
  · intro x8 x9 x10
    extract_lets +onlyGivenNames x11
    clear_value x11
    apply all_ite (P := Keeps s0)
    · apply setStream_keeps
      assumption
    · assumption
  · apply Keeps.upd
    assumption

theorem requeueSlots_keeps {s0 : State} {s : Machine.State} (h1 : Keeps s0 s) :
    Keeps s0 (requeueSlots s) := by
  unfold requeueSlots
  extract_lets +onlyGivenNames x2
  have h3 : Keeps s0 x2 := by
    unfold x2
    apply all_foldl (P := Keeps s0)
    · intro x4 x5 x6
      apply all_foldl (P := Keeps s0)
      · intro x7 x8 x9
        apply all_ite (P := Keeps s0)
        · assumption
        · apply queueSlots_keeps
          assumption
      · assumption
    · assumption
  clear_value x2
  apply all_foldl (P := Keeps s0)
  · intro x10 x11 x12
    apply all_foldl (P := Keeps s0)
    · intro x13 x14 x15
      apply xtabUnqueue_keeps
      assumption
    · assumption
  · assumption

theorem replay_keeps {s0 : State} {s : Machine.State} (h1 : Keeps s0 s) {unverified : List CmdRef} :
    Keeps s0 (replay s unverified) := by
  unfold replay
  extract_lets +onlyGivenNames x3
  have h4 : Keeps s0 x3 := by
    unfold x3
    apply Keeps.upd
    assumption
  clear_value x3
  extract_lets +onlyGivenNames x5
  clear_value x5
  extract_lets +onlyGivenNames x6
  have h7 : Keeps s0 x6 := by
    unfold x6
    apply Keeps.upd
    assumption
  clear_value x6
  extract_lets +onlyGivenNames x8
  have h9 : Keeps s0 x8 := by
    unfold x8
    apply requeueSlots_keeps
    apply replayStreams_keeps
    assumption
  clear_value x8
  extract_lets +onlyGivenNames x10
  have h11 : Keeps s0 x10 := by
    unfold x10
    apply all_foldl (P := Keeps s0)
    · intro x12 x13 x14
      apply all_foldl (P := Keeps s0)
      · intro x15 x16 x17
        apply reopenCmd_keeps
        assumption
      · assumption
    · assumption
  clear_value x10
  extract_lets +onlyGivenNames x18
  have h19 : Keeps s0 x18 := by
    unfold x18
    apply all_foldl (P := Keeps s0)
    · intro x20 x21 x22
      apply all_foldl (P := Keeps s0)
      · intro x23 x24 x25
        apply all_ite (P := Keeps s0)
        · apply replayCmd_keeps
          assumption
        · assumption
      · assumption
    · assumption
  clear_value x18
  extract_lets +onlyGivenNames x26
  have h27 : Keeps s0 x26 := by
    unfold x26
    apply suspendQueues_keeps
    assumption
  clear_value x26
  extract_lets +onlyGivenNames x28
  have h29 : Keeps s0 x28 := by
    unfold x28
    apply all_foldl (P := Keeps s0)
    · intro x30 x31 x32
      apply replayQueue_keeps
      assumption
    · assumption
  clear_value x28
  extract_lets +onlyGivenNames x33
  clear_value x33
  extract_lets +onlyGivenNames x34
  have h35 : Keeps s0 x34 := by
    unfold x34
    apply Keeps.upd
    assumption
  clear_value x34
  apply raiseF_keeps
  assumption

theorem resetRange_keeps {s0 : State} {s : Machine.State} (h1 : Keeps s0 s) {lo : ℕ} {n : ℕ} :
    Keeps s0 (resetRange s lo n) := by
  unfold resetRange
  apply Keeps.updAll
  · assumption
  · exact id
  · exact fun w => regs_wf_warm _ _ w
  · exact le_refl _

theorem resetHalf_keeps {s0 : State} {s : Machine.State} (h1 : Keeps s0 s) {k : ℕ} :
    Keeps s0 (resetHalf s k) := by
  unfold resetHalf
  extract_lets +onlyGivenNames x3
  have h4 : Keeps s0 x3 := by
    unfold x3
    apply resetRange_keeps
    assumption
  clear_value x3
  extract_lets +onlyGivenNames x5
  have h6 : Keeps s0 x5 := by
    unfold x5
    apply all_foldl (P := Keeps s0)
    · intro x7 x8 x9
      apply setPort_keeps
      assumption
    · assumption
  clear_value x5
  apply all_ite (P := Keeps s0)
  · apply resetRange_keeps
    assumption
  · assumption

theorem execDomainReset_keeps {s0 : State} {dom : ℕ} {s : Machine.State} (h2 : Keeps s0 s) :
    OutKeeps s0 (execDomainReset dom s) := by
  unfold execDomainReset
  apply guardUnit_keeps
  apply whileServed_keeps
  · assumption
  · apply all_ite (P := OutKeeps s0)
    · apply OutKeeps.next
      apply raiseF_keeps
      assumption
    · extract_lets +onlyGivenNames x3
      have h4 : Keeps s0 x3 := by
        unfold x3
        apply setF_keeps
        apply latchRaised_keeps
        assumption
      clear_value x3
      apply all_ite (P := OutKeeps s0)
      · apply OutKeeps.next
        apply flightOff_keeps
        apply resetRange_keeps
        apply zeroFlight_keeps
        assumption
      · apply all_ite (P := OutKeeps s0)
        · apply OutKeeps.next
          apply setMedia_keeps
          apply resetRange_keeps
          apply resetRange_keeps
          assumption
        · apply OutKeeps.next
          apply resetHalf_keeps
          assumption

theorem setHot_keeps {s0 : State} {s : Machine.State} (h1 : Keeps s0 s) {b : Bool} :
    Keeps s0 (setHot s b) := by
  unfold setHot
  apply Keeps.upd
  assumption

theorem setStage_keeps {s0 : State} {s : Machine.State} (h1 : Keeps s0 s) {n : ℕ} :
    Keeps s0 (setStage s n) := by
  unfold setStage
  apply setF_keeps
  assumption

theorem serviceBegins_keeps {s0 : State} {s : Machine.State} (h1 : Keeps s0 s) :
    Keeps s0 (serviceBegins s) := by
  unfold serviceBegins
  apply setStage_keeps
  apply setF_keeps
  apply Keeps.upd
  assumption

theorem stage0_keeps {s0 : State} {s : Machine.State} (h1 : Keeps s0 s) :
    Keeps s0 (stage0 s) := by
  unfold stage0
  extract_lets +onlyGivenNames x2
  have h3 : Keeps s0 x2 := by
    unfold x2
    apply all_ite (P := Keeps s0)
    · apply releaseCold_keeps
      assumption
    · assumption
  clear_value x2
  extract_lets +onlyGivenNames x4
  have h5 : Keeps s0 x4 := by
    unfold x4
    apply all_foldl (P := Keeps s0)
    · intro x6 x7 x8
      apply all_ite (P := Keeps s0)
      · apply setSlotState_keeps
        assumption
      · assumption
    · assumption
  clear_value x4
  extract_lets +onlyGivenNames x9
  have h10 : Keeps s0 x9 := by
    unfold x9
    apply all_ite (P := Keeps s0)
    · apply raiseF_keeps
      assumption
    · assumption
  clear_value x9
  apply setStage_keeps
  assumption

theorem stage1_keeps {s0 : State} {s : Machine.State} (h1 : Keeps s0 s) :
    Keeps s0 (stage1 s) := by
  unfold stage1
  apply setStage_keeps
  apply all_foldl (P := Keeps s0)
  · intro x2 x3 x4
    apply setDomain_keeps
    assumption
  · assumption

theorem stage8_keeps {s0 : State} {s : Machine.State} (h1 : Keeps s0 s) {badBlocks : List ℕ} :
    Keeps s0 (stage8 s badBlocks) := by
  unfold stage8
  extract_lets +onlyGivenNames x3
  have h4 : Keeps s0 x3 := by
    unfold x3
    apply all_foldl (P := Keeps s0)
    · intro x5 x6 x7
      apply applySram_keeps
      assumption
    · assumption
  clear_value x3
  extract_lets +onlyGivenNames x8
  have h9 : Keeps s0 x8 := by
    unfold x8
    apply all_foldl (P := Keeps s0)
    · intro x10 x11 x12
      apply all_ite (P := Keeps s0)
      · apply isolateFlight_keeps
        assumption
      · assumption
    · assumption
  clear_value x8
  extract_lets +onlyGivenNames x13
  have h14 : Keeps s0 x13 := by
    unfold x13
    apply all_foldl (P := Keeps s0)
    · intro x15 x16 x17
      apply all_ite (P := Keeps s0)
      · apply isolateBlock_keeps
        assumption
      · assumption
    · assumption
  clear_value x13
  extract_lets +onlyGivenNames x18
  have h19 : Keeps s0 x18 := by
    unfold x18
    apply all_foldl (P := Keeps s0)
    · intro x20 x21 x22
      apply all_ite (P := Keeps s0)
      · apply failPort_keeps
        assumption
      · assumption
    · assumption
  clear_value x18
  extract_lets +onlyGivenNames x23
  have h24 : Keeps s0 x23 := by
    unfold x23
    apply markApplied_keeps
    assumption
  clear_value x23
  extract_lets +onlyGivenNames x25
  have h26 : Keeps s0 x25 := by
    unfold x25
    apply all_foldl (P := Keeps s0)
    · intro x27 x28 x29
      apply isolateBlock_keeps
      apply addRecord_keeps
      assumption
    · assumption
  clear_value x25
  extract_lets +onlyGivenNames x30
  have h31 : Keeps s0 x30 := by
    unfold x30
    apply setF_keeps
    assumption
  clear_value x30
  extract_lets +onlyGivenNames x32
  have h33 : Keeps s0 x32 := by
    unfold x32
    apply setMedia_keeps
    apply applyOriel_keeps
    assumption
  clear_value x32
  extract_lets +onlyGivenNames x34
  have h35 : Keeps s0 x34 := by
    unfold x34
    apply all_ite (P := Keeps s0)
    · apply all_foldl (P := Keeps s0)
      · intro x36 x37 x38
        apply setLaser_keeps
        assumption
      · assumption
    · assumption
  clear_value x34
  extract_lets +onlyGivenNames x39
  have h40 : Keeps s0 x39 := by
    unfold x39
    apply all_foldl (P := Keeps s0)
    · intro x41 x42 x43
      apply all_ite (P := Keeps s0)
      · apply wakeHall_keeps
        assumption
      · assumption
    · assumption
  clear_value x39
  apply freeCleared_keeps
  apply refreshLevel_keeps
  apply setStage_keeps
  assumption

theorem stageCores_keeps {s0 : State} {s : Machine.State} (h1 : Keeps s0 s) {bad : List ℕ} :
    Keeps s0 (stageCores s bad) := by
  unfold stageCores
  extract_lets +onlyGivenNames x3
  clear_value x3
  extract_lets +onlyGivenNames x4
  clear_value x4
  extract_lets +onlyGivenNames x5
  clear_value x5
  extract_lets +onlyGivenNames x6
  clear_value x6
  extract_lets +onlyGivenNames x7
  have h8 : Keeps s0 x7 := by
    unfold x7
    apply setF_keeps
    assumption
  clear_value x7
  extract_lets +onlyGivenNames x9
  have h10 : Keeps s0 x9 := by
    unfold x9
    apply setF_keeps
    assumption
  clear_value x9
  extract_lets +onlyGivenNames x11
  have h12 : Keeps s0 x11 := by
    unfold x11
    apply setF_keeps
    assumption
  clear_value x11
  extract_lets +onlyGivenNames x13
  have h14 : Keeps s0 x13 := by
    unfold x13
    apply all_foldl (P := Keeps s0)
    · intro x15 x16 x17
      apply setF_keeps
      assumption
    · assumption
  clear_value x13
  extract_lets +onlyGivenNames x18
  have h19 : Keeps s0 x18 := by
    unfold x18
    apply all_foldl (P := Keeps s0)
    · intro x20 x21 x22
      apply addRecord_keeps
      assumption
    · assumption
  clear_value x18
  extract_lets +onlyGivenNames x23
  have h24 : Keeps s0 x23 := by
    unfold x23
    apply markApplied_keeps
    assumption
  clear_value x23
  apply all_ite (P := Keeps s0)
  · assumption
  · apply all_foldl (P := Keeps s0)
    · intro x25 x26 x27
      apply reroute_keeps
      assumption
    · apply raiseF_keeps
      assumption

theorem stage2_keeps {s0 : State} {s : Machine.State} (h1 : Keeps s0 s) {bad : List ℕ} :
    Keeps s0 (stage2 s bad) := by
  unfold stage2
  split
  · rename_i x3 x4 x5
    apply holdReset_keeps
    assumption
  · rename_i x6 x7
    extract_lets +onlyGivenNames x8
    have h9 : Keeps s0 x8 := by
      unfold x8
      apply all_ite (P := Keeps s0)
      · apply all_foldl (P := Keeps s0)
        · intro x10 x11 x12
          apply setDomain_keeps
          assumption
        · assumption
      · assumption
    clear_value x8
    extract_lets +onlyGivenNames x13
    have h14 : Keeps s0 x13 := by
      unfold x13
      apply stageCores_keeps
      assumption
    clear_value x13
    apply all_ite (P := Keeps s0)
    · apply holdReset_keeps
      assumption
    · apply setStage_keeps
      assumption

theorem startFirmware_keeps {s0 : State} {s : Machine.State} (h1 : Keeps s0 s) {slot : ℕ} {fallback : ℕ} {b : List Byte} :
    Keeps s0 (startFirmware s slot fallback b) := by
  unfold startFirmware
  extract_lets +onlyGivenNames x5
  have h6 : Keeps s0 x5 := by
    unfold x5
    apply setF_keeps
    apply setF_keeps
    assumption
  clear_value x5
  extract_lets +onlyGivenNames x7
  have h8 : Keeps s0 x7 := by
    unfold x7
    apply setF_keeps
    assumption
  clear_value x7
  apply startCores_keeps
  apply loadFirmware_keeps
  apply Keeps.upd
  assumption

theorem startStruct_keeps {s0 : State} {s : Machine.State} (h1 : Keeps s0 s) {slot : ℕ} {fallback : ℕ} {b : List Byte} :
    Keeps s0 (startStruct s slot fallback b) := by
  unfold startStruct
  extract_lets +onlyGivenNames x5
  have h6 : Keeps s0 x5 := by
    unfold x5
    apply enforce_keeps
    apply placeSystem_keeps
    assumption
  clear_value x5
  extract_lets +onlyGivenNames x7
  have h8 : Keeps s0 x7 := by
    unfold x7
    apply all_foldl (P := Keeps s0)
    · intro x9 x10 x11
      apply setF_keeps
      assumption
    · assumption
  clear_value x7
  extract_lets +onlyGivenNames x12
  have h13 : Keeps s0 x12 := by
    unfold x12
    apply setF_keeps
    apply setF_keeps
    assumption
  clear_value x12
  extract_lets +onlyGivenNames x14
  have h15 : Keeps s0 x14 := by
    unfold x14
    apply setF_keeps
    assumption
  clear_value x14
  extract_lets +onlyGivenNames x16
  have h17 : Keeps s0 x16 := by
    unfold x16
    apply all_foldl (P := Keeps s0)
    · intro x18 x19 x20
      apply setH_keeps
      assumption
    · assumption
  clear_value x16
  apply Keeps.upd
  assumption

theorem stage6_keeps {s0 : State} {s : Machine.State} (h1 : Keeps s0 s) :
    Keeps s0 (stage6 s) := by
  unfold stage6
  extract_lets +onlyGivenNames x2
  clear_value x2
  extract_lets +onlyGivenNames x3
  have h4 : Keeps s0 x3 := by
    unfold x3
    apply judgeSlot_keeps
    assumption
  clear_value x3
  extract_lets +onlyGivenNames x5
  have h6 : Keeps s0 x5 := by
    unfold x5
    apply setF_keeps
    apply judgeSlot_keeps
    assumption
  clear_value x5
  extract_lets +onlyGivenNames x7
  have h8 : Keeps s0 x7 := by
    unfold x7
    split
    · rename_i x9 x10 x11
      apply startStruct_keeps
      assumption
    · rename_i x12 x13
      split
      · rename_i x14 x15 x16
        apply startStruct_keeps
        assumption
      · rename_i x17 x18
        apply refreshUnd_keeps
        apply placeFresh_keeps
        assumption
  clear_value x7
  apply setStage_keeps
  assumption

theorem throttle_keeps {s0 : State} {s : Machine.State} (h1 : Keeps s0 s) {die : ℕ} {t : ℤ} :
    Keeps s0 (throttle s die t) := by
  unfold throttle
  apply all_foldl (P := Keeps s0)
  · intro x4 x5 x6
    apply all_ite (P := Keeps s0)
    · assumption
    · apply throttleFlight_keeps
      assumption
  · assumption

theorem toStage4_keeps {s0 : State} {s : Machine.State} (h1 : Keeps s0 s) :
    Keeps s0 (toStage4 s) := by
  unfold toStage4
  extract_lets +onlyGivenNames x2
  have h3 : Keeps s0 x2 := by
    unfold x2
    apply setStage_keeps
    assumption
  clear_value x2
  apply Keeps.upd
  assumption

theorem stage3_keeps {s0 : State} {s : Machine.State} (h1 : Keeps s0 s) :
    Keeps s0 (stage3 s) := by
  unfold stage3
  apply all_ite (P := Keeps s0)
  · extract_lets +onlyGivenNames x2
    have h3 : Keeps s0 x2 := by
      unfold x2
      split
      · rename_i x4 x5 x6
        apply startCores_keeps
        apply loadFirmware_keeps
        assumption
      · rename_i x7 x8
        assumption
    clear_value x2
    apply all_ite (P := Keeps s0)
    · apply serviceBegins_keeps
      assumption
    · apply toStage4_keeps
      assumption
  · extract_lets +onlyGivenNames x9
    clear_value x9
    split
    · rename_i x10 x11 x12
      apply toStage4_keeps
      apply startFirmware_keeps
      assumption
    · rename_i x13 x14
      extract_lets +onlyGivenNames x15
      have h16 : Keeps s0 x15 := by
        unfold x15
        apply judgeSlot_keeps
        assumption
      clear_value x15
      split
      · rename_i x17 x18 x19
        apply toStage4_keeps
        apply startFirmware_keeps
        assumption
      · rename_i x20 x21
        apply holdReset_keeps
        apply judgeSlot_keeps
        assumption

theorem trainChan_keeps {s0 : State} {tr : List (ℕ × Training)} {s : Machine.State} (h2 : Keeps s0 s) {c : ℕ} :
    Keeps s0 (trainChan tr s c) := by
  unfold trainChan
  extract_lets +onlyGivenNames x4
  clear_value x4
  extract_lets +onlyGivenNames x5
  clear_value x5
  extract_lets +onlyGivenNames x6
  have h7 : Keeps s0 x6 := by
    unfold x6
    apply setF_keeps
    assumption
  clear_value x6
  extract_lets +onlyGivenNames x8
  have h9 : Keeps s0 x8 := by
    unfold x8
    apply setF_keeps
    assumption
  clear_value x8
  apply Keeps.upd
  assumption

theorem stage5_keeps {s0 : State} {s : Machine.State} (h1 : Keeps s0 s) {tr : List (ℕ × Training)} :
    Keeps s0 (stage5 s tr) := by
  unfold stage5
  extract_lets +onlyGivenNames x3
  clear_value x3
  extract_lets +onlyGivenNames x4
  have h5 : Keeps s0 x4 := by
    unfold x4
    apply all_foldl (P := Keeps s0)
    · intro x6 x7 x8
      apply trainChan_keeps
      assumption
    · assumption
  clear_value x4
  extract_lets +onlyGivenNames x9
  have h10 : Keeps s0 x9 := by
    unfold x9
    apply all_foldl (P := Keeps s0)
    · intro x11 x12 x13
      apply all_ite (P := Keeps s0)
      · extract_lets +onlyGivenNames x14
        have h15 : Keeps s0 x14 := by
          unfold x14
          apply setF_keeps
          assumption
        clear_value x14
        extract_lets +onlyGivenNames x16
        have h17 : Keeps s0 x16 := by
          unfold x16
          apply all_ite (P := Keeps s0)
          · assumption
          · apply addRecord_keeps
            assumption
        clear_value x16
        apply raiseF_keeps
        apply raiseF_keeps
        assumption
      · assumption
    · assumption
  clear_value x9
  apply setStage_keeps
  apply refreshUnd_keeps
  apply markApplied_keeps
  assumption

theorem warm6_keeps {s0 : State} {s : Machine.State} (h1 : Keeps s0 s) {tr : List (ℕ × Training)} :
    Keeps s0 (warm6 s tr) := by
  unfold warm6
  extract_lets +onlyGivenNames x3
  clear_value x3
  extract_lets +onlyGivenNames x4
  clear_value x4
  extract_lets +onlyGivenNames x5
  have h6 : Keeps s0 x5 := by
    unfold x5
    apply Keeps.upd
    assumption
  clear_value x5
  extract_lets +onlyGivenNames x7
  have h8 : Keeps s0 x7 := by
    unfold x7
    apply setF_keeps
    assumption
  clear_value x7
  extract_lets +onlyGivenNames x9
  have h10 : Keeps s0 x9 := by
    unfold x9
    apply all_foldl (P := Keeps s0)
    · intro x11 x12 x13
      apply trainChan_keeps
      assumption
    · assumption
  clear_value x9
  extract_lets +onlyGivenNames x14
  have h15 : Keeps s0 x14 := by
    unfold x14
    apply all_foldl (P := Keeps s0)
    · intro x16 x17 x18
      apply all_ite (P := Keeps s0)
      · apply retireChannel_keeps
        assumption
      · assumption
    · assumption
  clear_value x14
  apply setStage_keeps
  apply refreshUnd_keeps
  assumption

theorem warm7_keeps {s0 : State} {s : Machine.State} (h1 : Keeps s0 s) :
    Keeps s0 (warm7 s) := by
  unfold warm7
  extract_lets +onlyGivenNames x2
  have h3 : Keeps s0 x2 := by
    unfold x2
    apply all_foldl (P := Keeps s0)
    · intro x4 x5 x6
      apply all_ite (P := Keeps s0)
      · assumption
      · extract_lets +onlyGivenNames x7
        have h8 : Keeps s0 x7 := by
          unfold x7
          apply setF_keeps
          assumption
        clear_value x7
        extract_lets +onlyGivenNames x9
        have h10 : Keeps s0 x9 := by
          unfold x9
          apply setF_keeps
          assumption
        clear_value x9
        extract_lets +onlyGivenNames x11
        have h12 : Keeps s0 x11 := by
          unfold x11
          apply all_foldl (P := Keeps s0)
          · intro x13 x14 x15
            apply all_foldl (P := Keeps s0)
            · intro x16 x17 x18
              apply setF_keeps
              assumption
            · assumption
          · assumption
        clear_value x11
        apply wakeHall_keeps
        apply setH_keeps
        assumption
    · assumption
  clear_value x2
  apply setStage_keeps
  assumption

theorem execStartUpStage_keeps {s0 : State} {fail : Option ℕ} {badCores : List ℕ} {trained : List (ℕ × Training)} {badBlocks : List ℕ} {unverified : List CmdRef} {s : Machine.State} (h6 : Keeps s0 s) :
    OutKeeps s0 (execStartUpStage fail badCores trained badBlocks unverified s) := by
  unfold execStartUpStage
  extract_lets +onlyGivenNames x7
  clear_value x7
  apply all_ite (P := OutKeeps s0)
  · apply OutKeeps.next
    assumption
  · split
    · rename_i x8 x9
      apply OutKeeps.next
      apply all_ite (P := Keeps s0)
      · apply holdReset_keeps
        apply all_ite (P := Keeps s0)
        · apply raiseF_keeps
          assumption
        · assumption
      · assumption
    · rename_i x10
      split
      · rename_i x11
        apply OutKeeps.next
        apply stage0_keeps
        assumption
      · rename_i x12
        apply all_ite (P := OutKeeps s0)
        · apply OutKeeps.next
          apply holdReset_keeps
          assumption
        · apply OutKeeps.next
          apply all_ite (P := Keeps s0)
          · apply stage1_keeps
            assumption
          · assumption
      · rename_i x13
        apply OutKeeps.next
        apply stage2_keeps
        assumption
      · rename_i x14
        apply OutKeeps.next
        apply stage3_keeps
        assumption
      · rename_i x15
        apply OutKeeps.next
        apply all_ite (P := Keeps s0)
        · assumption
        · apply serviceBegins_keeps
          assumption
      · rename_i x16
        apply OutKeeps.next
        apply all_ite (P := Keeps s0)
        · apply warm6_keeps
          assumption
        · apply stage5_keeps
          assumption
      · rename_i x17
        apply OutKeeps.next
        apply all_ite (P := Keeps s0)
        · apply warm7_keeps
          assumption
        · apply stage6_keeps
          assumption
      · rename_i x18
        apply OutKeeps.next
        apply setStage_keeps
        apply replay_keeps
        assumption
      · rename_i x19 x20 x21 x22 x23 x24 x25 x26 x27
        apply OutKeeps.next
        apply all_ite (P := Keeps s0)
        · assumption
        · apply stage8_keeps
          assumption

theorem warmRegs_keeps {s0 : State} {s : Machine.State} (h1 : Keeps s0 s) :
    Keeps s0 (warmRegs s) := by
  unfold warmRegs
  apply Keeps.updAll
  · assumption
  · exact id
  · exact fun _ => regs_wf_warm _ _ rfl
  · exact le_refl _

theorem warmCore_keeps {s0 : State} {s : Machine.State} (h1 : Keeps s0 s) {cause : ℕ} :
    Keeps s0 (warmCore s cause) := by
  unfold warmCore
  extract_lets +onlyGivenNames x3
  clear_value x3
  extract_lets +onlyGivenNames x4
  clear_value x4
  extract_lets +onlyGivenNames x5
  clear_value x5
  extract_lets +onlyGivenNames x6
  clear_value x6
  extract_lets +onlyGivenNames x7
  clear_value x7
  extract_lets +onlyGivenNames x8
  have h9 : Keeps s0 x8 := by
    unfold x8
    apply warmRegs_keeps
    assumption
  clear_value x8
  extract_lets +onlyGivenNames x10
  have h11 : Keeps s0 x10 := by
    unfold x10
    apply all_foldl (P := Keeps s0)
    · intro x12 x13 x14
      apply regSet_keeps
      assumption
    · assumption
  clear_value x10
  extract_lets +onlyGivenNames x15
  have h16 : Keeps s0 x15 := by
    unfold x15
    apply setF_keeps
    apply setF_keeps
    assumption
  clear_value x15
  extract_lets +onlyGivenNames x17
  have h18 : Keeps s0 x17 := by
    unfold x17
    apply memZero_keeps
    apply memZero_keeps
    assumption
  clear_value x17
  extract_lets +onlyGivenNames x19
  clear_value x19
  extract_lets +onlyGivenNames x20
  clear_value x20
  extract_lets +onlyGivenNames x21
  clear_value x21
  extract_lets +onlyGivenNames x22
  clear_value x22
  extract_lets +onlyGivenNames x23
  clear_value x23
  extract_lets +onlyGivenNames x24
  have h25 : Keeps s0 x24 := by
    unfold x24
    apply Keeps.upd
    assumption
  clear_value x24
  extract_lets +onlyGivenNames x26
  have h27 : Keeps s0 x26 := by
    unfold x26
    apply all_ite (P := Keeps s0)
    · assumption
    · apply Keeps.upd
      assumption
  clear_value x26
  extract_lets +onlyGivenNames x28
  have h29 : Keeps s0 x28 := by
    unfold x28
    apply dropTxns_keeps
    assumption
  clear_value x28
  extract_lets +onlyGivenNames x30
  have h31 : Keeps s0 x30 := by
    unfold x30
    apply setF_keeps
    apply setF_keeps
    assumption
  clear_value x30
  apply bumpF_keeps
  apply setF_keeps
  assumption

theorem warmReset_keeps {s0 : State} {s : Machine.State} (h1 : Keeps s0 s) {cause : ℕ} :
    Keeps s0 (warmReset s cause) := by
  unfold warmReset
  extract_lets +onlyGivenNames x3
  clear_value x3
  apply all_ite (P := Keeps s0)
  · assumption
  · apply all_ite (P := Keeps s0)
    · apply all_ite (P := Keeps s0)
      · apply warmCore_keeps
        apply latchRaised_keeps
        assumption
      · assumption
    · apply all_ite (P := Keeps s0)
      · assumption
      · apply warmCore_keeps
        apply latchRaised_keeps
        assumption

theorem execLanternWatchdogExpiry_keeps {s0 : State} {s : Machine.State} (h1 : Keeps s0 s) :
    OutKeeps s0 (execLanternWatchdogExpiry s) := by
  unfold execLanternWatchdogExpiry
  apply OutKeeps.next
  apply all_ite (P := Keeps s0)
  · apply warmReset_keeps
    assumption
  · assumption

theorem execLntWarmReset_keeps {s0 : State} {s : Machine.State} (h1 : Keeps s0 s) :
    OutKeeps s0 (execLntWarmReset s) := by
  unfold execLntWarmReset
  apply OutKeeps.next
  apply warmReset_keeps
  assumption

theorem execPerstAssert_keeps {s0 : State} {s : Machine.State} (h1 : Keeps s0 s) :
    OutKeeps s0 (execPerstAssert s) := by
  unfold execPerstAssert
  extract_lets +onlyGivenNames x2
  clear_value x2
  extract_lets +onlyGivenNames x3
  clear_value x3
  extract_lets +onlyGivenNames x4
  have h5 : Keeps s0 x4 := by
    unfold x4
    apply Keeps.upd
    assumption
  clear_value x4
  apply OutKeeps.next
  apply warmReset_keeps
  assumption

theorem execThermalSample_keeps {s0 : State} {temps : List ℤ} {s : Machine.State} (h2 : Keeps s0 s) :
    OutKeeps s0 (execThermalSample temps s) := by
  unfold execThermalSample
  apply all_ite (P := OutKeeps s0)
  · apply OutKeeps.next
    assumption
  · extract_lets +onlyGivenNames x3
    clear_value x3
    extract_lets +onlyGivenNames x4
    have h5 : Keeps s0 x4 := by
      unfold x4
      apply all_foldl (P := Keeps s0)
      · intro x6 x7 x8
        apply setF_keeps
        assumption
      · assumption
    clear_value x4
    extract_lets +onlyGivenNames x9
    have h10 : Keeps s0 x9 := by
      unfold x9
      apply all_foldl (P := Keeps s0)
      · intro x11 x12 x13
        apply throttle_keeps
        assumption
      · assumption
    clear_value x9
    extract_lets +onlyGivenNames x14
    clear_value x14
    extract_lets +onlyGivenNames x15
    clear_value x15
    apply all_ite (P := OutKeeps s0)
    · extract_lets +onlyGivenNames x16
      have h17 : Keeps s0 x16 := by
        unfold x16
        apply warmReset_keeps
        assumption
      clear_value x16
      apply OutKeeps.next
      apply all_ite (P := Keeps s0)
      · apply setHot_keeps
        assumption
      · assumption
    · apply OutKeeps.next
      apply setHot_keeps
      assumption

/-! ## Access -/

theorem clearRc_keeps {s0 : State} {s : Machine.State} (h1 : Keeps s0 s) {r : ℕ} {lo : ℕ} {n : ℕ} :
    Keeps s0 (clearRc s r lo n) := by
  unfold clearRc
  apply all_foldl (P := Keeps s0)
  · intro x5 x6 x7
    apply all_ite (P := Keeps s0)
    · apply setF_keeps
      assumption
    · assumption
  · assumption

theorem nextOf_keeps {s0 : State} {o : Out} (h1 : OutKeeps s0 o) {s : Machine.State} (h3 : Keeps s0 s) :
    Keeps s0 (nextOf o s) := by
  unfold nextOf
  split
  · rename_i x4 x5
    assumption
  · rename_i x6 x7
    assumption

theorem actIf_keeps {s0 : State} {c : Bool} {f : Machine.State → Out} (h2 : ∀ (x3 : Machine.State), Keeps s0 x3 → OutKeeps s0 (f x3)) {s : Machine.State} (h5 : Keeps s0 s) :
    Keeps s0 (actIf c f s) := by
  unfold actIf
  apply all_ite (P := Keeps s0)
  · apply nextOf_keeps
    · apply h2
      assumption
    · assumption
  · assumption

theorem putField_keeps {s0 : State} {w : Wr} {s : Machine.State} (h2 : Keeps s0 s) {f : Fld} :
    Keeps s0 (putField w s f) := by
  unfold putField
  extract_lets +onlyGivenNames x4
  clear_value x4
  extract_lets +onlyGivenNames x5
  clear_value x5
  split
  · rename_i x6 x7
    apply setF_keeps
    assumption
  · rename_i x8 x9
    apply setF_keeps
    assumption
  · rename_i x10 x11
    apply setF_keeps
    assumption
  · rename_i x12 x13 x14 x15
    assumption

theorem putFields_keeps {s0 : State} {w : Wr} {skip : List Fld} {s : Machine.State} (h3 : Keeps s0 s) :
    Keeps s0 (putFields w skip s) := by
  unfold putFields
  apply all_foldl (P := Keeps s0)
  · intro x4 x5 x6
    apply putField_keeps
    assumption
  · assumption

theorem regRead_keeps {s0 : State} {w : Who} {off : ℕ} {size : ℕ} {s : Machine.State} (h4 : Keeps s0 s) :
    AtFst (Keeps s0) (regRead w off size s) := by
  unfold regRead
  extract_lets +onlyGivenNames x5
  clear_value x5
  extract_lets +onlyGivenNames x6
  clear_value x6
  extract_lets +onlyGivenNames x7
  clear_value x7
  apply all_ite (P := AtFst (Keeps s0))
  · apply AtFst.mk
    assumption
  · split
    · rename_i x8 x9 x10
      apply AtFst.mk
      apply wakeHall_keeps
      assumption
    · rename_i x11 x12
      split
      · rename_i x13 x14 x15 x16
        apply all_ite (P := AtFst (Keeps s0))
        · extract_lets +onlyGivenNames x17
          have h18 : Keeps s0 x17 := by
            unfold x17
            apply nextOf_keeps
            · apply execIcuClaim_keeps
              assumption
            · assumption
          clear_value x17
          apply AtFst.mk
          assumption
        · apply AtFst.mk
          assumption
      · rename_i x19 x20 x21 x22 x23
        extract_lets +onlyGivenNames x24
        have h25 : Keeps s0 x24 := by
          unfold x24
          apply nextOf_keeps
          · apply execDebugDmiAccess_keeps
            assumption
          · assumption
        clear_value x24
        apply AtFst.mk
        assumption
      · rename_i x26 x27 x28 x29
        apply AtFst.mk
        apply clearRc_keeps
        assumption

theorem hostRead_keeps {s0 : State} {fn : ℕ} {off : ℕ} {size : ℕ} {s : Machine.State} (h4 : Keeps s0 s) :
    Keeps s0 (hostRead fn off size s) := by
  unfold hostRead
  apply all_ite (P := Keeps s0)
  · apply Keeps.upd
    assumption
  · apply all_ite (P := Keeps s0)
    · extract_lets +onlyGivenNames x5
      have h6 : Keeps s0 x5 := by
        unfold x5
        apply countMalformed_keeps
        assumption
      clear_value x5
      apply Keeps.upd
      assumption
    · split
      rename_i x7 x8 x9 x10
      have h11 := all_of_eq (P := AtFst (Keeps s0)) x10 (by
          apply regRead_keeps
          assumption)
      split
      · rename_i x12 x13
        have h14 := all_of_eq (P := AtFst (Keeps s0)) x10 (by
            apply regRead_keeps
            assumption)
        apply Keeps.upd
        assumption
      · rename_i x15
        have h16 := all_of_eq (P := AtFst (Keeps s0)) x10 (by
            apply regRead_keeps
            assumption)
        apply Keeps.upd
        assumption

theorem execRcRegisterRead_keeps {s0 : State} {fn : ℕ} {off : ℕ} {size : ℕ} {s : Machine.State} (h4 : Keeps s0 s) :
    OutKeeps s0 (execRcRegisterRead fn off size s) := by
  unfold execRcRegisterRead
  apply guardUnit_keeps
  apply OutKeeps.next
  apply hostRead_keeps
  assumption

theorem execRegisterRead_keeps {s0 : State} {fn : ℕ} {off : ℕ} {size : ℕ} {s : Machine.State} (h4 : Keeps s0 s) :
    OutKeeps s0 (execRegisterRead fn off size s) := by
  unfold execRegisterRead
  apply guardUnit_keeps
  apply OutKeeps.next
  apply hostRead_keeps
  assumption

theorem writeBlock_keeps {s0 : State} {w : Wr} {s : Machine.State} (h2 : Keeps s0 s) {b : ℕ} :
    Keeps s0 (writeBlock w s b) := by
  unfold writeBlock
  apply all_ite (P := Keeps s0)
  · apply nextOf_keeps
    · apply execBlockIsolate_keeps
      assumption
    · assumption
  · apply nextOf_keeps
    · apply execBlockReturn_keeps
      assumption
    · assumption

theorem writeDlv_keeps {s0 : State} {w : Wr} {s : Machine.State} (h2 : Keeps s0 s) :
    Keeps s0 (writeDlv w s) := by
  unfold writeDlv
  extract_lets +onlyGivenNames x3
  have h4 : Keeps s0 x3 := by
    unfold x3
    apply putFields_keeps
    assumption
  clear_value x3
  apply all_ite (P := Keeps s0)
  · assumption
  · split
    · rename_i x5 x6
      assumption
    · rename_i x7 x8
      apply nextOf_keeps
      · apply execContextRead_keeps
        assumption
      · assumption
    · rename_i x9 x10
      apply nextOf_keeps
      · apply execContextOpen_keeps
        assumption
      · assumption
    · rename_i x11 x12
      apply nextOf_keeps
      · apply execContextClose_keeps
        assumption
      · assumption
    · rename_i x13 x14
      apply nextOf_keeps
      · apply execContextEvict_keeps
        assumption
      · assumption
    · rename_i x15 x16
      apply nextOf_keeps
      · apply execContextFree_keeps
        assumption
      · assumption
    · rename_i x17 x18 x19 x20 x21 x22 x23
      apply badOp_keeps
      assumption

theorem writeFlight_keeps {s0 : State} {w : Wr} {f : ℕ} {s : Machine.State} (h3 : Keeps s0 s) :
    Keeps s0 (writeFlight w f s) := by
  unfold writeFlight
  extract_lets +onlyGivenNames x4
  clear_value x4
  apply all_ite (P := Keeps s0)
  · extract_lets +onlyGivenNames x5
    have h6 : Keeps s0 x5 := by
      unfold x5
      apply putFields_keeps
      assumption
    clear_value x5
    apply all_ite (P := Keeps s0)
    · assumption
    · apply all_ite (P := Keeps s0)
      · apply nextOf_keeps
        · apply execFlightIsolate_keeps
          assumption
        · assumption
      · apply nextOf_keeps
        · apply execFlightUnisolate_keeps
          assumption
        · assumption
  · apply all_ite (P := Keeps s0)
    · apply all_ite (P := Keeps s0)
      · assumption
      · apply all_ite (P := Keeps s0)
        · extract_lets +onlyGivenNames x7
          have h8 : Keeps s0 x7 := by
            unfold x7
            apply actIf_keeps
            · intro x9 x10
              apply execTreadIsolate_keeps
              assumption
            · assumption
          clear_value x7
          apply actIf_keeps
          · intro x11 x12
            apply execTreadForce_keeps
            assumption
          · assumption
        · apply nextOf_keeps
          · apply execTreadUnisolate_keeps
            assumption
          · assumption
    · apply putFields_keeps
      assumption

theorem writeIcu_keeps {s0 : State} {who : Who} {w : Wr} {s : Machine.State} (h3 : Keeps s0 s) :
    Keeps s0 (writeIcu who w s) := by
  unfold writeIcu
  split
  · rename_i x4 x5 x6 x7 x8
    extract_lets +onlyGivenNames x9
    have h10 : Keeps s0 x9 := by
      unfold x9
      apply putFields_keeps
      assumption
    clear_value x9
    extract_lets +onlyGivenNames x11
    have h12 : Keeps s0 x11 := by
      unfold x11
      apply actIf_keeps
      · intro x13 x14
        apply execIcuSet_keeps
        assumption
      · assumption
    clear_value x11
    apply actIf_keeps
    · intro x15 x16
      apply execIcuClr_keeps
      assumption
    · assumption
  · rename_i x17 x18 x19 x20 x21
    apply all_ite (P := Keeps s0)
    · apply nextOf_keeps
      · apply execIcuComplete_keeps
        assumption
      · assumption
    · assumption
  · rename_i x22 x23 x24 x25
    apply putFields_keeps
    assumption

theorem writeLnt_keeps {s0 : State} {w : Wr} {s : Machine.State} (h2 : Keeps s0 s) :
    Keeps s0 (writeLnt w s) := by
  unfold writeLnt
  apply all_ite (P := Keeps s0)
  · apply all_ite (P := Keeps s0)
    · apply nextOf_keeps
      · apply execLntColdReset_keeps
        assumption
      · assumption
    · apply all_ite (P := Keeps s0)
      · apply nextOf_keeps
        · apply execLntWarmReset_keeps
          assumption
        · assumption
      · apply actIf_keeps
        · intro x3 x4
          apply execLntShutdown_keeps
          assumption
        · assumption
  · apply all_ite (P := Keeps s0)
    · apply actIf_keeps
      · intro x5 x6
        apply execLanternWatchdogKick_keeps
        assumption
      · apply putFields_keeps
        assumption
    · apply all_ite (P := Keeps s0)
      · apply all_ite (P := Keeps s0)
        · apply nextOf_keeps
          · apply execDomainReset_keeps
            assumption
          · assumption
        · apply putFields_keeps
          assumption
      · apply all_ite (P := Keeps s0)
        · apply all_ite (P := Keeps s0)
          · apply putFields_keeps
            assumption
          · extract_lets +onlyGivenNames x7
            clear_value x7
            apply nextOf_keeps
            · apply execSelftestRun_keeps
              apply all_ite (P := Keeps s0)
              · apply putFields_keeps
                assumption
              · assumption
            · assumption
        · apply all_ite (P := Keeps s0)
          · apply all_ite (P := Keeps s0)
            · apply all_foldl (P := Keeps s0)
              · intro x8 x9 x10
                apply writeBlock_keeps
                assumption
              · assumption
            · assumption
          · apply putFields_keeps
            assumption

theorem writeMez_keeps {s0 : State} {w : Wr} {s : Machine.State} (h2 : Keeps s0 s) :
    Keeps s0 (writeMez w s) := by
  unfold writeMez
  extract_lets +onlyGivenNames x3
  clear_value x3
  split
  · rename_i x4 x5 x6
    apply all_ite (P := Keeps s0)
    · apply nextOf_keeps
      · apply execDebugDmiAccess_keeps
        assumption
      · assumption
    · assumption
  · rename_i x7 x8
    apply all_ite (P := Keeps s0)
    · apply actIf_keeps
      · intro x9 x10
        apply execMezFwConfirm_keeps
        assumption
      · assumption
    · apply all_ite (P := Keeps s0)
      · extract_lets +onlyGivenNames x11
        have h12 : Keeps s0 x11 := by
          unfold x11
          apply actIf_keeps
          · intro x13 x14
            apply execCoreKick_keeps
            assumption
          · assumption
        clear_value x11
        apply actIf_keeps
        · intro x15 x16
          apply execCoreRetire_keeps
          assumption
        · assumption
      · apply putFields_keeps
        assumption

theorem writeOriel_keeps {s0 : State} {w : Wr} {s : Machine.State} (h2 : Keeps s0 s) :
    Keeps s0 (writeOriel w s) := by
  unfold writeOriel
  extract_lets +onlyGivenNames x3
  clear_value x3
  extract_lets +onlyGivenNames x4
  clear_value x4
  apply all_ite (P := Keeps s0)
  · apply actIf_keeps
    · intro x5 x6
      apply execDeviceNumberWrite_keeps
      assumption
    · assumption
  · apply all_ite (P := Keeps s0)
    · extract_lets +onlyGivenNames x7
      have h8 : Keeps s0 x7 := by
        unfold x7
        apply putFields_keeps
        assumption
      clear_value x7
      apply all_ite (P := Keeps s0)
      · apply Keeps.upd
        assumption
      · assumption
    · apply all_ite (P := Keeps s0)
      · extract_lets +onlyGivenNames x9
        have h10 : Keeps s0 x9 := by
          unfold x9
          apply actIf_keeps
          · intro x11 x12
            apply execPortRoleWrite_keeps
            assumption
          · assumption
        clear_value x9
        apply actIf_keeps
        · intro x13 x14
          apply execPortRetrain_keeps
          assumption
        · assumption
      · apply all_ite (P := Keeps s0)
        · extract_lets +onlyGivenNames x15
          have h16 : Keeps s0 x15 := by
            unfold x15
            apply actIf_keeps
            · intro x17 x18
              apply execLaserRelease_keeps
              assumption
            · assumption
          clear_value x15
          apply actIf_keeps
          · intro x19 x20
            apply execLaserRestore_keeps
            assumption
          · assumption
        · apply putFields_keeps
          assumption

theorem writeQueue_keeps {s0 : State} {who : Who} {w : Wr} {sc : ℕ} {q : ℕ} {s : Machine.State} (h5 : Keeps s0 s) :
    Keeps s0 (writeQueue who w sc q s) := by
  unfold writeQueue
  extract_lets +onlyGivenNames x6
  clear_value x6
  extract_lets +onlyGivenNames x7
  clear_value x7
  apply all_ite (P := Keeps s0)
  · apply countMalformed_keeps
    assumption
  · apply all_ite (P := Keeps s0)
    · apply all_ite (P := Keeps s0)
      · assumption
      · extract_lets +onlyGivenNames x8
        have h9 : Keeps s0 x8 := by
          unfold x8
          apply nextOf_keeps
          · apply execQueueEnable_keeps
            assumption
          · assumption
        clear_value x8
        extract_lets +onlyGivenNames x10
        have h11 : Keeps s0 x10 := by
          unfold x10
          apply actIf_keeps
          · intro x12 x13
            apply execQueueRestart_keeps
            assumption
          · assumption
        clear_value x10
        apply actIf_keeps
        · intro x14 x15
          apply execQueueResume_keeps
          assumption
        · assumption
    · apply all_ite (P := Keeps s0)
      · apply all_ite (P := Keeps s0)
        · apply putFields_keeps
          assumption
        · apply countMalformed_keeps
          assumption
      · apply all_ite (P := Keeps s0)
        · apply all_ite (P := Keeps s0)
          · apply putFields_keeps
            assumption
          · apply countMalformed_keeps
            assumption
        · assumption

theorem writeXfm_keeps {s0 : State} {w : Wr} {s : Machine.State} (h2 : Keeps s0 s) :
    Keeps s0 (writeXfm w s) := by
  unfold writeXfm
  extract_lets +onlyGivenNames x3
  clear_value x3
  apply all_ite (P := Keeps s0)
  · apply actIf_keeps
    · intro x4 x5
      apply execXfmSlotConfirm_keeps
      assumption
    · assumption
  · apply all_ite (P := Keeps s0)
    · apply all_ite (P := Keeps s0)
      · apply badWrite_keeps
        assumption
      · split
        · rename_i x6 x7
          apply nextOf_keeps
          · apply execXfmBegin_keeps
            assumption
          · assumption
        · rename_i x8 x9
          apply nextOf_keeps
          · apply execXfmCommitStepBoundary_keeps
            assumption
          · assumption
        · rename_i x10 x11
          apply nextOf_keeps
          · apply execXfmCommitImmediate_keeps
            assumption
          · assumption
        · rename_i x12 x13
          apply nextOf_keeps
          · apply execXfmRollBack_keeps
            assumption
          · assumption
        · rename_i x14 x15 x16 x17 x18
          apply badWrite_keeps
          assumption
    · apply all_ite (P := Keeps s0)
      · apply all_ite (P := Keeps s0)
        · apply nextOf_keeps
          · apply execStageDataWrite_keeps
            assumption
          · assumption
        · apply badWrite_keeps
          assumption
      · apply all_ite (P := Keeps s0)
        · apply all_ite (P := Keeps s0)
          · apply nextOf_keeps
            · apply execStageBulkWrite_keeps
              assumption
            · assumption
          · apply badWrite_keeps
            assumption
        · apply putFields_keeps
          assumption

theorem regPut_keeps {s0 : State} {who : Who} {w : Wr} {s : Machine.State} (h3 : Keeps s0 s) :
    Keeps s0 (regPut who w s) := by
  unfold regPut
  split
  · rename_i x4 x5 x6 x7
    apply writeQueue_keeps
    assumption
  · rename_i x8 x9
    apply all_ite (P := Keeps s0)
    · apply writeLnt_keeps
      assumption
    · apply all_ite (P := Keeps s0)
      · apply writeMez_keeps
        assumption
      · apply all_ite (P := Keeps s0)
        · apply writeIcu_keeps
          assumption
        · apply all_ite (P := Keeps s0)
          · apply actIf_keeps
            · intro x10 x11
              apply execChannelRetire_keeps
              assumption
            · apply putFields_keeps
              assumption
          · apply all_ite (P := Keeps s0)
            · apply writeOriel_keeps
              assumption
            · apply all_ite (P := Keeps s0)
              · apply writeDlv_keeps
                assumption
              · apply all_ite (P := Keeps s0)
                · apply actIf_keeps
                  · intro x12 x13
                    apply execOutReadWrite_keeps
                    assumption
                  · assumption
                · apply all_ite (P := Keeps s0)
                  · apply writeXfm_keeps
                    assumption
                  · apply all_ite (P := Keeps s0)
                    · apply writeFlight_keeps
                      assumption
                    · apply putFields_keeps
                      assumption

theorem regWrite_keeps {s0 : State} {who : Who} {off : ℕ} {size : ℕ} {data : DWord} {s : Machine.State} (h5 : Keeps s0 s) :
    AtFst (Keeps s0) (regWrite who off size data s) := by
  unfold regWrite
  extract_lets +onlyGivenNames x6
  clear_value x6
  extract_lets +onlyGivenNames x7
  clear_value x7
  apply all_ite (P := AtFst (Keeps s0))
  · apply AtFst.mk
    assumption
  · split
    · rename_i x8 x9 x10
      apply AtFst.mk
      apply wakeHall_keeps
      assumption
    · rename_i x11 x12
      extract_lets +onlyGivenNames x13
      clear_value x13
      apply AtFst.mk
      apply regPut_keeps
      apply latchRaised_keeps
      assumption

theorem hostWrite_keeps {s0 : State} {fn : ℕ} {off : ℕ} {size : ℕ} {data : DWord} {s : Machine.State} (h5 : Keeps s0 s) :
    Keeps s0 (hostWrite fn off size data s) := by
  unfold hostWrite
  extract_lets +onlyGivenNames x6
  have h7 : Keeps s0 x6 := by
    unfold x6
    apply Keeps.upd
    assumption
  clear_value x6
  apply all_ite (P := Keeps s0)
  · assumption
  · apply all_ite (P := Keeps s0)
    · split
      · rename_i x8 x9 x10
        apply badWrite_keeps
        apply countMalformed_keeps
        assumption
      · rename_i x11 x12
        apply countMalformed_keeps
        assumption
    · apply AtFst.fst
      apply regWrite_keeps
      assumption

theorem execMalformedRegisterAccess_keeps {s0 : State} {wr : Bool} {fn : ℕ} {off : ℕ} {size : ℕ} {s : Machine.State} (h5 : Keeps s0 s) :
    OutKeeps s0 (execMalformedRegisterAccess wr fn off size s) := by
  unfold execMalformedRegisterAccess
  apply guardUnit_keeps
  apply all_ite (P := OutKeeps s0)
  · apply OutKeeps.next
    assumption
  · apply all_ite (P := OutKeeps s0)
    · apply OutKeeps.next
      apply hostWrite_keeps
      assumption
    · apply OutKeeps.next
      apply hostRead_keeps
      assumption

theorem execRegisterWrite_keeps {s0 : State} {fn : ℕ} {off : ℕ} {size : ℕ} {data : DWord} {s : Machine.State} (h5 : Keeps s0 s) :
    OutKeeps s0 (execRegisterWrite fn off size data s) := by
  unfold execRegisterWrite
  apply guardUnit_keeps
  apply OutKeeps.next
  apply hostWrite_keeps
  assumption

/-! ## Board -/

theorem answer_keeps {s0 : State} {s : Machine.State} (h1 : Keeps s0 s) {r : Resp} :
    OutKeeps s0 (answer s r) := by
  unfold answer
  apply OutKeeps.next
  apply Keeps.upd
  assumption

theorem execGetPdr_keeps {s0 : State} {handle : ℕ} {s : Machine.State} (h2 : Keeps s0 s) :
    OutKeeps s0 (execGetPdr handle s) := by
  unfold execGetPdr
  apply answer_keeps
  assumption

theorem execGetPdrRepositoryInfo_keeps {s0 : State} {s : Machine.State} (h1 : Keeps s0 s) :
    OutKeeps s0 (execGetPdrRepositoryInfo s) := by
  unfold execGetPdrRepositoryInfo
  apply answer_keeps
  assumption

theorem execGetPldmCommands_keeps {s0 : State} {ty : ℕ} {s : Machine.State} (h2 : Keeps s0 s) :
    OutKeeps s0 (execGetPldmCommands ty s) := by
  unfold execGetPldmCommands
  apply answer_keeps
  assumption

theorem execGetPldmTypes_keeps {s0 : State} {s : Machine.State} (h1 : Keeps s0 s) :
    OutKeeps s0 (execGetPldmTypes s) := by
  unfold execGetPldmTypes
  apply answer_keeps
  assumption

theorem execGetPldmVersion_keeps {s0 : State} {ty : ℕ} {s : Machine.State} (h2 : Keeps s0 s) :
    OutKeeps s0 (execGetPldmVersion ty s) := by
  unfold execGetPldmVersion
  apply answer_keeps
  assumption

theorem execGetSensorReading_keeps {s0 : State} {sensor : ℕ} {s : Machine.State} (h2 : Keeps s0 s) :
    OutKeeps s0 (execGetSensorReading sensor s) := by
  unfold execGetSensorReading
  apply answer_keeps
  assumption

theorem execGetStateSensorReadings_keeps {s0 : State} {sensor : ℕ} {s : Machine.State} (h2 : Keeps s0 s) :
    OutKeeps s0 (execGetStateSensorReadings sensor s) := by
  unfold execGetStateSensorReadings
  apply answer_keeps
  assumption

theorem execGetTid_keeps {s0 : State} {s : Machine.State} (h1 : Keeps s0 s) :
    OutKeeps s0 (execGetTid s) := by
  unfold execGetTid
  apply answer_keeps
  assumption

theorem execMctpControlMessage_keeps {s0 : State} {msg : List Byte} {s : Machine.State} (h2 : Keeps s0 s) :
    OutKeeps s0 (execMctpControlMessage msg s) := by
  unfold execMctpControlMessage
  apply all_ite (P := OutKeeps s0)
  · extract_lets +onlyGivenNames x3
    clear_value x3
    apply OutKeeps.next
    apply Keeps.upd
    assumption
  · apply OutKeeps.next
    apply Keeps.upd
    assumption

theorem execSensorRefresh_keeps {s0 : State} {vout : Option ℕ} {iout : Option ℕ} {s : Machine.State} (h3 : Keeps s0 s) :
    OutKeeps s0 (execSensorRefresh vout iout s) := by
  unfold execSensorRefresh
  apply OutKeeps.next
  apply all_ite (P := Keeps s0)
  · apply Keeps.upd
    assumption
  · assumption

theorem execSetTid_keeps {s0 : State} {tid : ℕ} {s : Machine.State} (h2 : Keeps s0 s) :
    OutKeeps s0 (execSetTid tid s) := by
  unfold execSetTid
  apply guardUnit_keeps
  apply all_ite (P := OutKeeps s0)
  · apply OutKeeps.next
    apply Keeps.upd
    assumption
  · apply all_ite (P := OutKeeps s0)
    · apply OutKeeps.next
      apply Keeps.upd
      assumption
    · apply OutKeeps.next
      apply Keeps.upd
      assumption

theorem execStatusRead_keeps {s0 : State} {s : Machine.State} (h1 : Keeps s0 s) :
    OutKeeps s0 (execStatusRead s) := by
  unfold execStatusRead
  apply OutKeeps.next
  apply all_ite (P := Keeps s0)
  · apply Keeps.upd
    assumption
  · apply Keeps.upd
    assumption

theorem execTestLogicReset_keeps {s0 : State} {s : Machine.State} (h1 : Keeps s0 s) :
    OutKeeps s0 (execTestLogicReset s) := by
  unfold execTestLogicReset
  apply OutKeeps.next
  apply all_ite (P := Keeps s0)
  · apply releaseCold_keeps
    assumption
  · apply Keeps.upd
    assumption

theorem execUnsupportedMctpMessage_keeps {s0 : State} {ty : ℕ} {pldm : ℕ} {cmd : ℕ} {s : Machine.State} (h4 : Keeps s0 s) :
    OutKeeps s0 (execUnsupportedMctpMessage ty pldm cmd s) := by
  unfold execUnsupportedMctpMessage
  apply all_ite (P := OutKeeps s0)
  · apply OutKeeps.next
    assumption
  · apply all_ite (P := OutKeeps s0)
    · apply OutKeeps.next
      apply Keeps.upd
      assumption
    · apply answer_keeps
      assumption

theorem tapLoad_keeps {s0 : State} {s : Machine.State} (h1 : Keeps s0 s) {n : ℕ} :
    Keeps s0 (tapLoad s n) := by
  unfold tapLoad
  apply Keeps.upd
  assumption

theorem execBypass_keeps {s0 : State} {s : Machine.State} (h1 : Keeps s0 s) :
    OutKeeps s0 (execBypass s) := by
  unfold execBypass
  apply OutKeeps.next
  apply tapLoad_keeps
  assumption

theorem execClamp_keeps {s0 : State} {s : Machine.State} (h1 : Keeps s0 s) :
    OutKeeps s0 (execClamp s) := by
  unfold execClamp
  apply OutKeeps.next
  apply tapLoad_keeps
  assumption

theorem execExtest_keeps {s0 : State} {s : Machine.State} (h1 : Keeps s0 s) :
    OutKeeps s0 (execExtest s) := by
  unfold execExtest
  apply OutKeeps.next
  apply tapLoad_keeps
  assumption

theorem execExtestPulse_keeps {s0 : State} {s : Machine.State} (h1 : Keeps s0 s) :
    OutKeeps s0 (execExtestPulse s) := by
  unfold execExtestPulse
  apply OutKeeps.next
  apply tapLoad_keeps
  assumption

theorem execExtestTrain_keeps {s0 : State} {s : Machine.State} (h1 : Keeps s0 s) :
    OutKeeps s0 (execExtestTrain s) := by
  unfold execExtestTrain
  apply OutKeeps.next
  apply tapLoad_keeps
  assumption

theorem execHighz_keeps {s0 : State} {s : Machine.State} (h1 : Keeps s0 s) :
    OutKeeps s0 (execHighz s) := by
  unfold execHighz
  apply OutKeeps.next
  apply tapLoad_keeps
  assumption

theorem execIdcode_keeps {s0 : State} {s : Machine.State} (h1 : Keeps s0 s) :
    OutKeeps s0 (execIdcode s) := by
  unfold execIdcode
  apply OutKeeps.next
  extract_lets +onlyGivenNames x2
  have h3 : Keeps s0 x2 := by
    unfold x2
    apply tapLoad_keeps
    assumption
  clear_value x2
  apply Keeps.upd
  assumption

theorem execSamplePreload_keeps {s0 : State} {s : Machine.State} (h1 : Keeps s0 s) :
    OutKeeps s0 (execSamplePreload s) := by
  unfold execSamplePreload
  apply OutKeeps.next
  apply tapLoad_keeps
  assumption

/-! ## CoreCmd -/

theorem cacheCe_keeps {s0 : State} {s : Machine.State} (h1 : Keeps s0 s) {c : ℕ} {n : ℕ} :
    Keeps s0 (cacheCe s c n) := by
  unfold cacheCe
  apply all_ite (P := Keeps s0)
  · assumption
  · apply satF_keeps
    apply raiseF_keeps
    assumption

theorem cacheUe_keeps {s0 : State} {s : Machine.State} (h1 : Keeps s0 s) {c : ℕ} {e : ReadErr} :
    Keeps s0 (cacheUe s c e) := by
  unfold cacheUe
  split
  · rename_i x4 x5
    apply raiseF_keeps
    apply raiseF_keeps
    assumption
  · rename_i x6 x7
    apply raiseF_keeps
    apply raiseF_keeps
    assumption
  · rename_i x8 x9
    apply raiseF_keeps
    apply raiseF_keeps
    assumption
  · rename_i x10 x11 x12 x13
    assumption

theorem cboLine_keeps {s0 : State} {s : Machine.State} (h1 : Keeps s0 s) {kind : ℕ} {ln : ℕ} :
    Keeps s0 (cboLine s kind ln) := by
  unfold cboLine
  split
  · rename_i x4 x5
    assumption
  · rename_i x6 x7 x8
    extract_lets +onlyGivenNames x9
    have h10 : Keeps s0 x9 := by
      unfold x9
      apply all_ite (P := Keeps s0)
      · apply lineBack_keeps
        assumption
      · assumption
    clear_value x9
    apply Keeps.upd
    assumption

theorem coreMissed_keeps {s0 : State} {s : Machine.State} (h1 : Keeps s0 s) {c : ℕ} {a : ℕ} {n : ℕ} {load : Bool} :
    Keeps s0 (coreMissed s c a n load) := by
  unfold coreMissed
  split
  · rename_i x6 x7 x8 x9
    apply all_ite (P := Keeps s0)
    · apply cacheUe_keeps
      apply recordErr_keeps
      assumption
    · apply recordErr_keeps
      assumption
  · rename_i x10 x11
    assumption

theorem coreReg_keeps {s0 : State} {c : ℕ} {write : Bool} {a : ℕ} {bs : List Byte} {s : Machine.State} (h5 : Keeps s0 s) :
    AcsKeeps s0 (coreReg c write a bs s) := by
  unfold coreReg
  extract_lets +onlyGivenNames x6
  clear_value x6
  extract_lets +onlyGivenNames x7
  clear_value x7
  apply all_ite (P := AcsKeeps s0)
  · apply AcsKeeps.done
    apply countMalformed_keeps
    assumption
  · apply all_ite (P := AcsKeeps s0)
    · split
      · rename_i x8 x9 x10
        have h11 := all_of_eq (P := AtFst (Keeps s0)) x10 (by
            apply regWrite_keeps
            assumption)
        apply AcsKeeps.done
        assumption
      · rename_i x12 x13 x14
        have h15 := all_of_eq (P := AtFst (Keeps s0)) x14 (by
            apply regWrite_keeps
            assumption)
        apply AcsKeeps.stall
        assumption
    · split
      · rename_i x16 x17 x18 x19
        have h20 := all_of_eq (P := AtFst (Keeps s0)) x19 (by
            apply regRead_keeps
            assumption)
        apply AcsKeeps.done
        assumption
      · rename_i x21 x22 x23
        have h24 := all_of_eq (P := AtFst (Keeps s0)) x23 (by
            apply regRead_keeps
            assumption)
        apply AcsKeeps.stall
        assumption

theorem coreTrap_keeps {s0 : State} {s : Machine.State} (h1 : Keeps s0 s) {c : ℕ} {cause : ℕ} {addr : ℕ} :
    Keeps s0 (coreTrap s c cause addr) := by
  unfold coreTrap
  split
  · rename_i x5 x6 x7
    apply setCore_keeps
    assumption
  · rename_i x8 x9
    assumption

theorem fillLine_keeps {s0 : State} {c : ℕ} {s : Machine.State} (h2 : Keeps s0 s) {ln : ℕ} :
    Keeps s0 (fillLine c s ln) := by
  unfold fillLine
  extract_lets +onlyGivenNames x4
  have h5 : Keeps s0 x4 := by
    unfold x4
    apply all_ite (P := Keeps s0)
    · assumption
    · apply driveRange_keeps
      assumption
  clear_value x4
  extract_lets +onlyGivenNames x6
  clear_value x6
  apply Keeps.upd
  assumption

theorem linePut_keeps {s0 : State} {s : Machine.State} (h1 : Keeps s0 s) {a : ℕ} {b : Byte} :
    Keeps s0 (linePut s a b) := by
  unfold linePut
  split
  · rename_i x4 x5 x6
    apply Keeps.upd
    assumption
  · rename_i x7 x8
    assumption

theorem cacheStore_keeps {s0 : State} {s : Machine.State} (h1 : Keeps s0 s) {a : ℕ} {bs : List Byte} :
    Keeps s0 (cacheStore s a bs) := by
  unfold cacheStore
  apply all_foldl (P := Keeps s0)
  · intro x4 x5 x6
    apply linePut_keeps
    assumption
  · assumption

theorem coreAcs_keeps {s0 : State} {c : ℕ} {x : ℕ × ℕ × List Byte} {s : Machine.State} (h3 : Keeps s0 s) :
    AcsKeeps s0 (coreAcs c x s) := by
  unfold coreAcs
  extract_lets +onlyGivenNames x4
  clear_value x4
  extract_lets +onlyGivenNames x5
  clear_value x5
  extract_lets +onlyGivenNames x6
  clear_value x6
  extract_lets +onlyGivenNames x7
  clear_value x7
  apply all_ite (P := AcsKeeps s0)
  · apply AcsKeeps.done
    apply cboLine_keeps
    assumption
  · apply all_ite (P := AcsKeeps s0)
    · apply coreReg_keeps
      assumption
    · apply all_ite (P := AcsKeeps s0)
      · apply AcsKeeps.trap
        apply coreMissed_keeps
        assumption
      · apply all_ite (P := AcsKeeps s0)
        · apply AcsKeeps.stall
          assumption
        · extract_lets +onlyGivenNames x8
          have h9 : Keeps s0 x8 := by
            unfold x8
            apply all_foldl (P := Keeps s0)
            · intro x10 x11 x12
              apply fillLine_keeps
              assumption
            · assumption
          clear_value x8
          apply all_ite (P := AcsKeeps s0)
          · apply AcsKeeps.done
            assumption
          · apply AcsKeeps.done
            apply cacheStore_keeps
            assumption

theorem coreAcsAll_keeps {s0 : State} {c : ℕ} {x1 : List (ℕ × ℕ × List Byte)} {x2 : Machine.State} (h3 : Keeps s0 x2) {x4 : List Byte} :
    AcsKeeps s0 (coreAcsAll c x1 x2 x4) := by
  fun_induction coreAcsAll
  · rename_i x5 x6
    apply AcsKeeps.done
    assumption
  · rename_i x7 x8 x9 x10 x11 x12 x13 x14
    have h15 := all_of_eq (P := AcsKeeps s0) x13 (by
        apply coreAcs_keeps
        assumption)
    apply x14
    assumption
  · rename_i x16 x17 x18 x19 x20
    apply coreAcs_keeps
    assumption

theorem coreWord_keeps {s0 : State} {c : ℕ} {w : Word} {dataErr : Option ReadErr} {s : Machine.State} (h4 : Keeps s0 s) :
    Keeps s0 (coreWord c w dataErr s) := by
  unfold coreWord
  extract_lets +onlyGivenNames x5
  clear_value x5
  extract_lets +onlyGivenNames x6
  clear_value x6
  split
  · rename_i x7 x8 x9 x10 x11
    apply coreTrap_keeps
    apply cacheUe_keeps
    assumption
  · rename_i x12 x13 x14 x15
    split
    · rename_i x16 x17 x18 x19
      have h20 := all_of_eq (P := AcsKeeps s0) x19 (by
          apply coreAcsAll_keeps
          assumption)
      split
      · rename_i x21 x22 x23
        have h24 := all_of_eq (P := AcsKeeps s0) x19 (by
            apply coreAcsAll_keeps
            assumption)
        apply all_ite (P := Keeps s0)
        · apply setCore_keeps
          assumption
        · assumption
      · rename_i x25 x26
        have h27 := all_of_eq (P := AcsKeeps s0) x19 (by
            apply coreAcsAll_keeps
            assumption)
        assumption
    · rename_i x28 x29 x30 x31 x32
      have h33 := all_of_eq (P := AcsKeeps s0) x32 (by
          apply coreAcsAll_keeps
          assumption)
      apply coreTrap_keeps
      assumption
    · rename_i x34 x35 x36
      have h37 := all_of_eq (P := AcsKeeps s0) x36 (by
          apply coreAcsAll_keeps
          assumption)
      assumption

theorem execCoreInstruction_keeps {s0 : State} {core : ℕ} {ce : ℕ} {fetchErr : Option ReadErr} {dataErr : Option ReadErr} {s : Machine.State} (h5 : Keeps s0 s) :
    OutKeeps s0 (execCoreInstruction core ce fetchErr dataErr s) := by
  unfold execCoreInstruction
  apply guardUnit_keeps
  apply all_ite (P := OutKeeps s0)
  · apply OutKeeps.next
    assumption
  · extract_lets +onlyGivenNames x6
    have h7 : Keeps s0 x6 := by
      unfold x6
      apply cacheCe_keeps
      apply latchRaised_keeps
      assumption
    clear_value x6
    split
    · rename_i x8 x9 x10 x11
      apply OutKeeps.next
      apply coreTrap_keeps
      assumption
    · rename_i x12 x13 x14 x15 x16
      apply OutKeeps.next
      apply coreTrap_keeps
      apply cacheUe_keeps
      assumption
    · rename_i x17 x18 x19 x20
      apply all_ite (P := OutKeeps s0)
      · apply OutKeeps.next
        apply coreTrap_keeps
        apply coreMissed_keeps
        assumption
      · apply all_ite (P := OutKeeps s0)
        · apply OutKeeps.next
          assumption
        · extract_lets +onlyGivenNames x21
          clear_value x21
          apply all_ite (P := OutKeeps s0)
          · apply OutKeeps.next
            apply coreTrap_keeps
            apply coreMissed_keeps
            assumption
          · extract_lets +onlyGivenNames x22
            have h23 : Keeps s0 x22 := by
              unfold x22
              apply all_foldl (P := Keeps s0)
              · intro x24 x25 x26
                apply fillLine_keeps
                assumption
              · assumption
            clear_value x22
            apply OutKeeps.next
            apply coreWord_keeps
            assumption

/-! ## Vector -/

theorem execBr_keeps {s0 : State} {t : ℕ} {s : Machine.State} (h2 : Keeps s0 s) :
    OutKeeps s0 (execBr t s) := by
  unfold execBr
  apply vecOp_keeps
  · assumption
  · intro x3 x4 x5 x6
    apply all_ite (P := OutKeeps s0)
    · apply vecJump_keeps
      assumption
    · apply vecDone_keeps
      assumption

theorem execLoop_keeps {s0 : State} {t : ℕ} {s : Machine.State} (h2 : Keeps s0 s) :
    OutKeeps s0 (execLoop t s) := by
  unfold execLoop
  apply vecOp_keeps
  · assumption
  · intro x3 x4 x5 x6
    extract_lets +onlyGivenNames x7
    clear_value x7
    extract_lets +onlyGivenNames x8
    clear_value x8
    apply all_ite (P := OutKeeps s0)
    · apply vecDone_keeps
      assumption
    · apply vecJump_keeps
      assumption

theorem execSop_keeps {s0 : State} {t : ℕ} {s : Machine.State} (h2 : Keeps s0 s) :
    OutKeeps s0 (execSop t s) := by
  unfold execSop
  apply vecOp_keeps
  · assumption
  · intro x3 x4 x5 x6
    apply vecDone_keeps
    assumption

theorem execVadd_keeps {s0 : State} {t : ℕ} {s : Machine.State} (h2 : Keeps s0 s) :
    OutKeeps s0 (execVadd t s) := by
  unfold execVadd
  apply vecOp_keeps
  · assumption
  · intro x3 x4 x5 x6
    apply vecLanes_keeps
    assumption

theorem execVand_keeps {s0 : State} {t : ℕ} {s : Machine.State} (h2 : Keeps s0 s) :
    OutKeeps s0 (execVand t s) := by
  unfold execVand
  apply vecOp_keeps
  · assumption
  · intro x3 x4 x5 x6
    apply vecInt_keeps
    assumption

theorem execVbcast_keeps {s0 : State} {t : ℕ} {s : Machine.State} (h2 : Keeps s0 s) :
    OutKeeps s0 (execVbcast t s) := by
  unfold execVbcast
  apply vecOp_keeps
  · assumption
  · intro x3 x4 x5 x6
    apply vecLanes_keeps
    assumption

theorem execVclass_keeps {s0 : State} {t : ℕ} {s : Machine.State} (h2 : Keeps s0 s) :
    OutKeeps s0 (execVclass t s) := by
  unfold execVclass
  apply vecOp_keeps
  · assumption
  · intro x3 x4 x5 x6
    apply vecLanes_keeps
    assumption

theorem execVcmp_keeps {s0 : State} {t : ℕ} {s : Machine.State} (h2 : Keeps s0 s) :
    OutKeeps s0 (execVcmp t s) := by
  unfold execVcmp
  apply vecOp_keeps
  · assumption
  · intro x3 x4 x5 x6
    extract_lets +onlyGivenNames x7
    clear_value x7
    extract_lets +onlyGivenNames x8
    clear_value x8
    extract_lets +onlyGivenNames x9
    clear_value x9
    extract_lets +onlyGivenNames x10
    clear_value x10
    extract_lets +onlyGivenNames x11
    clear_value x11
    apply vecDone_keeps
    assumption

theorem execVcvt_keeps {s0 : State} {t : ℕ} {s : Machine.State} (h2 : Keeps s0 s) :
    OutKeeps s0 (execVcvt t s) := by
  unfold execVcvt
  apply vecOp_keeps
  · assumption
  · intro x3 x4 x5 x6
    extract_lets +onlyGivenNames x7
    clear_value x7
    extract_lets +onlyGivenNames x8
    clear_value x8
    extract_lets +onlyGivenNames x9
    clear_value x9
    extract_lets +onlyGivenNames x10
    clear_value x10
    extract_lets +onlyGivenNames x11
    clear_value x11
    extract_lets +onlyGivenNames x12
    clear_value x12
    split
    rename_i x13 x14 x15 x16
    have h17 := all_of_eq (P := AtSnd (Keeps s0)) x16 (by
        apply all_ite (P := AtSnd (Keeps s0))
        · apply freeLanes_keeps
          assumption
        · apply AtSnd.mk
          assumption)
    apply vecDone_keeps
    assumption

theorem execVdiv_keeps {s0 : State} {t : ℕ} {s : Machine.State} (h2 : Keeps s0 s) :
    OutKeeps s0 (execVdiv t s) := by
  unfold execVdiv
  apply vecOp_keeps
  · assumption
  · intro x3 x4 x5 x6
    apply vecLanes_keeps
    assumption

theorem execVfma_keeps {s0 : State} {t : ℕ} {s : Machine.State} (h2 : Keeps s0 s) :
    OutKeeps s0 (execVfma t s) := by
  unfold execVfma
  apply vecOp_keeps
  · assumption
  · intro x3 x4 x5 x6
    apply vecLanes_keeps
    assumption

theorem execViadd_keeps {s0 : State} {t : ℕ} {s : Machine.State} (h2 : Keeps s0 s) :
    OutKeeps s0 (execViadd t s) := by
  unfold execViadd
  apply vecOp_keeps
  · assumption
  · intro x3 x4 x5 x6
    apply vecInt_keeps
    assumption

theorem execVimul_keeps {s0 : State} {t : ℕ} {s : Machine.State} (h2 : Keeps s0 s) :
    OutKeeps s0 (execVimul t s) := by
  unfold execVimul
  apply vecOp_keeps
  · assumption
  · intro x3 x4 x5 x6
    apply vecInt_keeps
    assumption

theorem execVisub_keeps {s0 : State} {t : ℕ} {s : Machine.State} (h2 : Keeps s0 s) :
    OutKeeps s0 (execVisub t s) := by
  unfold execVisub
  apply vecOp_keeps
  · assumption
  · intro x3 x4 x5 x6
    apply vecInt_keeps
    assumption

theorem execVld_keeps {s0 : State} {t : ℕ} {s : Machine.State} (h2 : Keeps s0 s) :
    OutKeeps s0 (execVld t s) := by
  unfold execVld
  apply vecOp_keeps
  · assumption
  · intro x3 x4 x5 x6
    split
    rename_i x7 x8 x9 x10
    extract_lets +onlyGivenNames x11
    clear_value x11
    extract_lets +onlyGivenNames x12
    clear_value x12
    apply all_ite (P := OutKeeps s0)
    · apply endProgram_keeps
      assumption
    · apply vecLanes_keeps
      assumption

theorem execVlogb_keeps {s0 : State} {t : ℕ} {s : Machine.State} (h2 : Keeps s0 s) :
    OutKeeps s0 (execVlogb t s) := by
  unfold execVlogb
  apply vecOp_keeps
  · assumption
  · intro x3 x4 x5 x6
    apply vecLanes_keeps
    assumption

theorem execVmax_keeps {s0 : State} {t : ℕ} {s : Machine.State} (h2 : Keeps s0 s) :
    OutKeeps s0 (execVmax t s) := by
  unfold execVmax
  apply vecOp_keeps
  · assumption
  · intro x3 x4 x5 x6
    apply vecLanes_keeps
    assumption

theorem execVmaxn_keeps {s0 : State} {t : ℕ} {s : Machine.State} (h2 : Keeps s0 s) :
    OutKeeps s0 (execVmaxn t s) := by
  unfold execVmaxn
  apply vecOp_keeps
  · assumption
  · intro x3 x4 x5 x6
    apply vecLanes_keeps
    assumption

theorem execVmin_keeps {s0 : State} {t : ℕ} {s : Machine.State} (h2 : Keeps s0 s) :
    OutKeeps s0 (execVmin t s) := by
  unfold execVmin
  apply vecOp_keeps
  · assumption
  · intro x3 x4 x5 x6
    apply vecLanes_keeps
    assumption

theorem execVminn_keeps {s0 : State} {t : ℕ} {s : Machine.State} (h2 : Keeps s0 s) :
    OutKeeps s0 (execVminn t s) := by
  unfold execVminn
  apply vecOp_keeps
  · assumption
  · intro x3 x4 x5 x6
    apply vecLanes_keeps
    assumption

theorem execVmul_keeps {s0 : State} {t : ℕ} {s : Machine.State} (h2 : Keeps s0 s) :
    OutKeeps s0 (execVmul t s) := by
  unfold execVmul
  apply vecOp_keeps
  · assumption
  · intro x3 x4 x5 x6
    apply vecLanes_keeps
    assumption

theorem execVor_keeps {s0 : State} {t : ℕ} {s : Machine.State} (h2 : Keeps s0 s) :
    OutKeeps s0 (execVor t s) := by
  unfold execVor
  apply vecOp_keeps
  · assumption
  · intro x3 x4 x5 x6
    apply vecInt_keeps
    assumption

theorem execVrem_keeps {s0 : State} {t : ℕ} {s : Machine.State} (h2 : Keeps s0 s) :
    OutKeeps s0 (execVrem t s) := by
  unfold execVrem
  apply vecOp_keeps
  · assumption
  · intro x3 x4 x5 x6
    apply vecLanes_keeps
    assumption

theorem execVrint_keeps {s0 : State} {t : ℕ} {s : Machine.State} (h2 : Keeps s0 s) :
    OutKeeps s0 (execVrint t s) := by
  unfold execVrint
  apply vecOp_keeps
  · assumption
  · intro x3 x4 x5 x6
    apply vecLanes_keeps
    assumption

theorem execVrmax_keeps {s0 : State} {t : ℕ} {s : Machine.State} (h2 : Keeps s0 s) :
    OutKeeps s0 (execVrmax t s) := by
  unfold execVrmax
  apply vecOp_keeps
  · assumption
  · intro x3 x4 x5 x6
    apply vecReduce_keeps
    assumption

theorem execVrsum_keeps {s0 : State} {t : ℕ} {s : Machine.State} (h2 : Keeps s0 s) :
    OutKeeps s0 (execVrsum t s) := by
  unfold execVrsum
  apply vecOp_keeps
  · assumption
  · intro x3 x4 x5 x6
    apply vecReduce_keeps
    assumption

theorem execVscalb_keeps {s0 : State} {t : ℕ} {s : Machine.State} (h2 : Keeps s0 s) :
    OutKeeps s0 (execVscalb t s) := by
  unfold execVscalb
  apply vecOp_keeps
  · assumption
  · intro x3 x4 x5 x6
    apply vecLanes_keeps
    assumption

theorem execVsel_keeps {s0 : State} {t : ℕ} {s : Machine.State} (h2 : Keeps s0 s) :
    OutKeeps s0 (execVsel t s) := by
  unfold execVsel
  apply vecOp_keeps
  · assumption
  · intro x3 x4 x5 x6
    apply vecLanes_keeps
    assumption

theorem execVshl_keeps {s0 : State} {t : ℕ} {s : Machine.State} (h2 : Keeps s0 s) :
    OutKeeps s0 (execVshl t s) := by
  unfold execVshl
  apply vecOp_keeps
  · assumption
  · intro x3 x4 x5 x6
    apply vecInt_keeps
    assumption

theorem execVshr_keeps {s0 : State} {t : ℕ} {s : Machine.State} (h2 : Keeps s0 s) :
    OutKeeps s0 (execVshr t s) := by
  unfold execVshr
  apply vecOp_keeps
  · assumption
  · intro x3 x4 x5 x6
    apply vecInt_keeps
    assumption

theorem execVsqrt_keeps {s0 : State} {t : ℕ} {s : Machine.State} (h2 : Keeps s0 s) :
    OutKeeps s0 (execVsqrt t s) := by
  unfold execVsqrt
  apply vecOp_keeps
  · assumption
  · intro x3 x4 x5 x6
    apply vecLanes_keeps
    assumption

theorem execVst_keeps {s0 : State} {t : ℕ} {s : Machine.State} (h2 : Keeps s0 s) :
    OutKeeps s0 (execVst t s) := by
  unfold execVst
  apply vecOp_keeps
  · assumption
  · intro x3 x4 x5 x6
    split
    rename_i x7 x8 x9 x10
    extract_lets +onlyGivenNames x11
    clear_value x11
    extract_lets +onlyGivenNames x12
    clear_value x12
    apply all_ite (P := OutKeeps s0)
    · apply endProgram_keeps
      assumption
    · extract_lets +onlyGivenNames x13
      clear_value x13
      extract_lets +onlyGivenNames x14
      clear_value x14
      extract_lets +onlyGivenNames x15
      clear_value x15
      extract_lets +onlyGivenNames x16
      have h17 : Keeps s0 x16 := by
        unfold x16
        apply all_foldl (P := Keeps s0)
        · intro x18 x19 x20
          apply memPutNat_keeps
          assumption
        · assumption
      clear_value x16
      extract_lets +onlyGivenNames x21
      have h22 : Keeps s0 x21 := by
        unfold x21
        apply countCvts_keeps
        assumption
      clear_value x21
      apply vecDone_keeps
      assumption

theorem execVsub_keeps {s0 : State} {t : ℕ} {s : Machine.State} (h2 : Keeps s0 s) :
    OutKeeps s0 (execVsub t s) := by
  unfold execVsub
  apply vecOp_keeps
  · assumption
  · intro x3 x4 x5 x6
    apply vecLanes_keeps
    assumption

theorem execVtlu_keeps {s0 : State} {t : ℕ} {s : Machine.State} (h2 : Keeps s0 s) :
    OutKeeps s0 (execVtlu t s) := by
  unfold execVtlu
  apply vecOp_keeps
  · assumption
  · intro x3 x4 x5 x6
    extract_lets +onlyGivenNames x7
    clear_value x7
    extract_lets +onlyGivenNames x8
    clear_value x8
    apply all_ite (P := OutKeeps s0)
    · apply endProgram_keeps
      assumption
    · apply vecLanes_keeps
      assumption

theorem execVxor_keeps {s0 : State} {t : ℕ} {s : Machine.State} (h2 : Keeps s0 s) :
    OutKeeps s0 (execVxor t s) := by
  unfold execVxor
  apply vecOp_keeps
  · assumption
  · intro x3 x4 x5 x6
    apply vecInt_keeps
    assumption

end Sys2Proof.Machine
end

