-- ==== Sys2Proof/Laws/Queue.lean ====
section
/-! SUPPORT. Queues and commands in flight: what a change of one command leaves of the others. -/

namespace Sys2Proof.Machine

theorem qKey_inj {a b c d : Nat} (hb : b < 64) (hd : d < 64) (h : qKey a b = qKey c d) : a = c ∧ b = d := by
  unfold qKey at h; omega

@[simp] theorem getQ_setQ_same (s : State) (n q : Nat) (v : Queue) : getQ (setQ s n q v) n q = v := by
  simp [getQ, setQ, fmGet_set_same]
theorem getQ_setQ_ne (s : State) {n q n' q' : Nat} (v : Queue) (h : qKey n' q' ≠ qKey n q) :
    getQ (setQ s n q v) n' q' = getQ s n' q' := by
  simp [getQ, setQ, fmGet_set_ne _ _ _ h]

theorem find_map_seq (l : List Cmd) (n k : Nat) (f : Cmd → Cmd) (hf : ∀ c, (f c).seq = c.seq) :
    (l.map fun c => if c.seq = n then f c else c).find? (fun c => c.seq = k)
      = if k = n then (l.find? fun c => c.seq = k).map f else l.find? fun c => c.seq = k := by
  induction l with
  | nil => simp
  | cons c l ih =>
    by_cases h : c.seq = n <;> by_cases hk : k = n <;> by_cases hc : c.seq = k <;> simp_all

/-- Changing a command in flight, its sequence number apart, changes it as said. -/
theorem findCmd_updCmd_same (s : State) (r : CmdRef) (f : Cmd → Cmd) (hf : ∀ c, (f c).seq = c.seq) :
    findCmd (updCmd s r f) r = (findCmd s r).map f := by
  unfold findCmd updCmd
  rw [getQ_setQ_same, find_map_seq _ _ _ _ hf, if_pos rfl]
/-- It leaves every other command in flight. -/
theorem findCmd_updCmd_ne (s : State) {r q : CmdRef} (f : Cmd → Cmd) (hf : ∀ c, (f c).seq = c.seq) (hr : r.queue < 64)
    (hq : q.queue < 64) (h : q ≠ r) : findCmd (updCmd s r f) q = findCmd s q := by
  unfold findCmd updCmd
  by_cases hk : qKey q.scope q.queue = qKey r.scope r.queue
  · obtain ⟨h1, h2⟩ := qKey_inj hq hr hk
    have h3 : q.seq ≠ r.seq := by
      intro h3; apply h; cases q; cases r; simp_all
    rw [h1, h2, getQ_setQ_same, find_map_seq _ _ _ _ hf, if_neg h3]
  · rw [getQ_setQ_ne _ _ hk]

/-- A command that is marked dispatched holds the next place in the order of dispatches. -/
theorem findCmd_markDispatched (s : State) (r : CmdRef) :
    findCmd (markDispatched s r) r = (findCmd s r).map fun c => { c with st := .dispatched, order := s.clock + 1 } :=
  findCmd_updCmd_same s r _ fun _ => rfl
/-- A command that is ended takes the outcome unless it has one. -/
theorem findCmd_endCmd (s : State) (r : CmdRef) (code check extent info : Nat) :
    findCmd (endCmd s r code check extent info) r = (findCmd s r).map fun c =>
      if c.st = .accepted ∨ c.st = .dispatched then
        { c with st := .ended, code := code, check := check, extent := extent, info := info }
      else c :=
  findCmd_updCmd_same s r _ fun c => by split <;> rfl
/-- A change of a command's job changes its job. -/
theorem findCmd_updJob (s : State) (r : CmdRef) (f : Job → Job) :
    findCmd (updJob s r f) r = (findCmd s r).map fun c => { c with job := f c.job } :=
  findCmd_updCmd_same s r _ fun _ => rfl

end Sys2Proof.Machine
end

