-- ==== Sys2Proof/Laws/Report.lean ====
section
/-! SUPPORT. Lengths of byte strings: numbers, zeros, fixed fields, the attestation report and the identity record. -/

namespace Sys2Proof.Machine

/-- A number written in `n` bytes takes `n` bytes. -/
@[simp] theorem leBytes_length (n v : Nat) : (leBytes n v).length = n := by
  induction n generalizing v with
  | zero => rfl
  | succ n ih => simp [leBytes, ih]

/-- `n` zero bytes. -/
@[simp] theorem zeros_length (n : Nat) : (zeros n).length = n := by simp [zeros]

/-- A fixed field has its length whatever it holds. -/
@[simp] theorem fixLen_length (n : Nat) (b : List Byte) : (fixLen n b).length = n := by simp [fixLen]

/-- A digest has 32 bytes. -/
@[simp] theorem sm3Bytes_length (b : List Byte) : (sm3Bytes b).length = 32 := by simp [sm3Bytes]

/-- Numbers of four bytes, one for each number below `n`. -/
theorem gens_length (f : Nat → Nat) (n : Nat) : ((List.range n).flatMap fun k => leBytes 4 (f k)).length = 4 * n := by
  simp [List.length_flatMap, Nat.mul_comm]

/-- The unsigned report is 448 bytes (R584). -/
@[simp] theorem reportBody_length (s : State) (nonce : List Byte) : (reportBody s nonce).length = 448 := by
  unfold reportBody
  simp only [List.length_append, leBytes_length, zeros_length, fixLen_length, sm3Bytes_length, gens_length, Nat.reduceAdd,
    Nat.reduceMul]

/-- The identity record is 96 bytes and the certificate (R585). -/
@[simp] theorem identityBytes_length : identityBytes.length = 96 + Config.cert.length := by
  simp only [identityBytes, List.length_append, leBytes_length, zeros_length, fixLen_length]

end Sys2Proof.Machine
end

