-- ==== Sys2Proof/Laws/State.lean ====
section
/-! SUPPORT. What each update of the state leaves: one lemma per update and per field it does not write. -/

namespace Sys2Proof.Machine

@[simp] theorem regSet_pending (s : State) (r v : Nat) :
    (regSet s r v).pending = s.pending := rfl
@[simp] theorem regSet_mem (s : State) (r v : Nat) :
    (regSet s r v).mem = s.mem := rfl
@[simp] theorem regSet_resp (s : State) (r v : Nat) :
    (regSet s r v).resp = s.resp := rfl
@[simp] theorem regSet_freeCtr (s : State) (r v : Nat) :
    (regSet s r v).freeCtr = s.freeCtr := rfl
@[simp] theorem regSet_clock (s : State) (r v : Nat) :
    (regSet s r v).clock = s.clock := rfl
@[simp] theorem regSet_run (s : State) (r v : Nat) :
    (regSet s r v).run = s.run := rfl
@[simp] theorem regSet_xfm (s : State) (r v : Nat) :
    (regSet s r v).xfm = s.xfm := rfl
@[simp] theorem regSet_queues (s : State) (r v : Nat) :
    (regSet s r v).queues = s.queues := rfl
@[simp] theorem regSet_msix (s : State) (r v : Nat) :
    (regSet s r v).msix = s.msix := rfl
@[simp] theorem regSet_msixMasked (s : State) (r v : Nat) :
    (regSet s r v).msixMasked = s.msixMasked := rfl
@[simp] theorem regSet_treads (s : State) (r v : Nat) :
    (regSet s r v).treads = s.treads := rfl
@[simp] theorem regSet_halls (s : State) (r v : Nat) :
    (regSet s r v).halls = s.halls := rfl
@[simp] theorem regSet_und (s : State) (r v : Nat) :
    (regSet s r v).und = s.und := rfl
@[simp] theorem regSet_mediaAsleep (s : State) (r v : Nat) :
    (regSet s r v).mediaAsleep = s.mediaAsleep := rfl
@[simp] theorem regSet_integ (s : State) (r v : Nat) :
    (regSet s r v).integ = s.integ := rfl
@[simp] theorem regSet_orl (s : State) (r v : Nat) :
    (regSet s r v).orl = s.orl := rfl
@[simp] theorem regSet_frz (s : State) (r v : Nat) :
    (regSet s r v).frz = s.frz := rfl
@[simp] theorem regSet_mez (s : State) (r v : Nat) :
    (regSet s r v).mez = s.mez := rfl
@[simp] theorem regSet_lnt (s : State) (r v : Nat) :
    (regSet s r v).lnt = s.lnt := rfl
@[simp] theorem regSet_pci (s : State) (r v : Nat) :
    (regSet s r v).pci = s.pci := rfl

@[simp] theorem setF_pending (s : State) (r : Nat) (f : Fld) (v : Nat) :
    (setF s r f v).pending = s.pending := rfl
@[simp] theorem setF_mem (s : State) (r : Nat) (f : Fld) (v : Nat) :
    (setF s r f v).mem = s.mem := rfl
@[simp] theorem setF_resp (s : State) (r : Nat) (f : Fld) (v : Nat) :
    (setF s r f v).resp = s.resp := rfl
@[simp] theorem setF_freeCtr (s : State) (r : Nat) (f : Fld) (v : Nat) :
    (setF s r f v).freeCtr = s.freeCtr := rfl
@[simp] theorem setF_clock (s : State) (r : Nat) (f : Fld) (v : Nat) :
    (setF s r f v).clock = s.clock := rfl
@[simp] theorem setF_run (s : State) (r : Nat) (f : Fld) (v : Nat) :
    (setF s r f v).run = s.run := rfl
@[simp] theorem setF_xfm (s : State) (r : Nat) (f : Fld) (v : Nat) :
    (setF s r f v).xfm = s.xfm := rfl
@[simp] theorem setF_queues (s : State) (r : Nat) (f : Fld) (v : Nat) :
    (setF s r f v).queues = s.queues := rfl
@[simp] theorem setF_msix (s : State) (r : Nat) (f : Fld) (v : Nat) :
    (setF s r f v).msix = s.msix := rfl
@[simp] theorem setF_msixMasked (s : State) (r : Nat) (f : Fld) (v : Nat) :
    (setF s r f v).msixMasked = s.msixMasked := rfl
@[simp] theorem setF_treads (s : State) (r : Nat) (f : Fld) (v : Nat) :
    (setF s r f v).treads = s.treads := rfl
@[simp] theorem setF_halls (s : State) (r : Nat) (f : Fld) (v : Nat) :
    (setF s r f v).halls = s.halls := rfl
@[simp] theorem setF_und (s : State) (r : Nat) (f : Fld) (v : Nat) :
    (setF s r f v).und = s.und := rfl
@[simp] theorem setF_mediaAsleep (s : State) (r : Nat) (f : Fld) (v : Nat) :
    (setF s r f v).mediaAsleep = s.mediaAsleep := rfl
@[simp] theorem setF_integ (s : State) (r : Nat) (f : Fld) (v : Nat) :
    (setF s r f v).integ = s.integ := rfl
@[simp] theorem setF_orl (s : State) (r : Nat) (f : Fld) (v : Nat) :
    (setF s r f v).orl = s.orl := rfl
@[simp] theorem setF_frz (s : State) (r : Nat) (f : Fld) (v : Nat) :
    (setF s r f v).frz = s.frz := rfl
@[simp] theorem setF_mez (s : State) (r : Nat) (f : Fld) (v : Nat) :
    (setF s r f v).mez = s.mez := rfl
@[simp] theorem setF_lnt (s : State) (r : Nat) (f : Fld) (v : Nat) :
    (setF s r f v).lnt = s.lnt := rfl
@[simp] theorem setF_pci (s : State) (r : Nat) (f : Fld) (v : Nat) :
    (setF s r f v).pci = s.pci := rfl

@[simp] theorem raiseF_pending (s : State) (r : Nat) (f : Fld) :
    (raiseF s r f).pending = s.pending := rfl
@[simp] theorem raiseF_mem (s : State) (r : Nat) (f : Fld) :
    (raiseF s r f).mem = s.mem := rfl
@[simp] theorem raiseF_resp (s : State) (r : Nat) (f : Fld) :
    (raiseF s r f).resp = s.resp := rfl
@[simp] theorem raiseF_freeCtr (s : State) (r : Nat) (f : Fld) :
    (raiseF s r f).freeCtr = s.freeCtr := rfl
@[simp] theorem raiseF_clock (s : State) (r : Nat) (f : Fld) :
    (raiseF s r f).clock = s.clock := rfl
@[simp] theorem raiseF_run (s : State) (r : Nat) (f : Fld) :
    (raiseF s r f).run = s.run := rfl
@[simp] theorem raiseF_xfm (s : State) (r : Nat) (f : Fld) :
    (raiseF s r f).xfm = s.xfm := rfl
@[simp] theorem raiseF_queues (s : State) (r : Nat) (f : Fld) :
    (raiseF s r f).queues = s.queues := rfl
@[simp] theorem raiseF_msix (s : State) (r : Nat) (f : Fld) :
    (raiseF s r f).msix = s.msix := rfl
@[simp] theorem raiseF_msixMasked (s : State) (r : Nat) (f : Fld) :
    (raiseF s r f).msixMasked = s.msixMasked := rfl
@[simp] theorem raiseF_treads (s : State) (r : Nat) (f : Fld) :
    (raiseF s r f).treads = s.treads := rfl
@[simp] theorem raiseF_halls (s : State) (r : Nat) (f : Fld) :
    (raiseF s r f).halls = s.halls := rfl
@[simp] theorem raiseF_und (s : State) (r : Nat) (f : Fld) :
    (raiseF s r f).und = s.und := rfl
@[simp] theorem raiseF_mediaAsleep (s : State) (r : Nat) (f : Fld) :
    (raiseF s r f).mediaAsleep = s.mediaAsleep := rfl
@[simp] theorem raiseF_integ (s : State) (r : Nat) (f : Fld) :
    (raiseF s r f).integ = s.integ := rfl
@[simp] theorem raiseF_orl (s : State) (r : Nat) (f : Fld) :
    (raiseF s r f).orl = s.orl := rfl
@[simp] theorem raiseF_frz (s : State) (r : Nat) (f : Fld) :
    (raiseF s r f).frz = s.frz := rfl
@[simp] theorem raiseF_mez (s : State) (r : Nat) (f : Fld) :
    (raiseF s r f).mez = s.mez := rfl
@[simp] theorem raiseF_lnt (s : State) (r : Nat) (f : Fld) :
    (raiseF s r f).lnt = s.lnt := rfl
@[simp] theorem raiseF_pci (s : State) (r : Nat) (f : Fld) :
    (raiseF s r f).pci = s.pci := rfl

@[simp] theorem bumpF_pending (s : State) (r : Nat) (f : Fld) (n : Nat) :
    (bumpF s r f n).pending = s.pending := rfl
@[simp] theorem bumpF_mem (s : State) (r : Nat) (f : Fld) (n : Nat) :
    (bumpF s r f n).mem = s.mem := rfl
@[simp] theorem bumpF_resp (s : State) (r : Nat) (f : Fld) (n : Nat) :
    (bumpF s r f n).resp = s.resp := rfl
@[simp] theorem bumpF_freeCtr (s : State) (r : Nat) (f : Fld) (n : Nat) :
    (bumpF s r f n).freeCtr = s.freeCtr := rfl
@[simp] theorem bumpF_clock (s : State) (r : Nat) (f : Fld) (n : Nat) :
    (bumpF s r f n).clock = s.clock := rfl
@[simp] theorem bumpF_run (s : State) (r : Nat) (f : Fld) (n : Nat) :
    (bumpF s r f n).run = s.run := rfl
@[simp] theorem bumpF_xfm (s : State) (r : Nat) (f : Fld) (n : Nat) :
    (bumpF s r f n).xfm = s.xfm := rfl
@[simp] theorem bumpF_queues (s : State) (r : Nat) (f : Fld) (n : Nat) :
    (bumpF s r f n).queues = s.queues := rfl
@[simp] theorem bumpF_msix (s : State) (r : Nat) (f : Fld) (n : Nat) :
    (bumpF s r f n).msix = s.msix := rfl
@[simp] theorem bumpF_msixMasked (s : State) (r : Nat) (f : Fld) (n : Nat) :
    (bumpF s r f n).msixMasked = s.msixMasked := rfl
@[simp] theorem bumpF_treads (s : State) (r : Nat) (f : Fld) (n : Nat) :
    (bumpF s r f n).treads = s.treads := rfl
@[simp] theorem bumpF_halls (s : State) (r : Nat) (f : Fld) (n : Nat) :
    (bumpF s r f n).halls = s.halls := rfl
@[simp] theorem bumpF_und (s : State) (r : Nat) (f : Fld) (n : Nat) :
    (bumpF s r f n).und = s.und := rfl
@[simp] theorem bumpF_mediaAsleep (s : State) (r : Nat) (f : Fld) (n : Nat) :
    (bumpF s r f n).mediaAsleep = s.mediaAsleep := rfl
@[simp] theorem bumpF_integ (s : State) (r : Nat) (f : Fld) (n : Nat) :
    (bumpF s r f n).integ = s.integ := rfl
@[simp] theorem bumpF_orl (s : State) (r : Nat) (f : Fld) (n : Nat) :
    (bumpF s r f n).orl = s.orl := rfl
@[simp] theorem bumpF_frz (s : State) (r : Nat) (f : Fld) (n : Nat) :
    (bumpF s r f n).frz = s.frz := rfl
@[simp] theorem bumpF_mez (s : State) (r : Nat) (f : Fld) (n : Nat) :
    (bumpF s r f n).mez = s.mez := rfl
@[simp] theorem bumpF_lnt (s : State) (r : Nat) (f : Fld) (n : Nat) :
    (bumpF s r f n).lnt = s.lnt := rfl
@[simp] theorem bumpF_pci (s : State) (r : Nat) (f : Fld) (n : Nat) :
    (bumpF s r f n).pci = s.pci := rfl

@[simp] theorem satF_pending (s : State) (r : Nat) (f : Fld) (n : Nat) :
    (satF s r f n).pending = s.pending := rfl
@[simp] theorem satF_mem (s : State) (r : Nat) (f : Fld) (n : Nat) :
    (satF s r f n).mem = s.mem := rfl
@[simp] theorem satF_resp (s : State) (r : Nat) (f : Fld) (n : Nat) :
    (satF s r f n).resp = s.resp := rfl
@[simp] theorem satF_freeCtr (s : State) (r : Nat) (f : Fld) (n : Nat) :
    (satF s r f n).freeCtr = s.freeCtr := rfl
@[simp] theorem satF_clock (s : State) (r : Nat) (f : Fld) (n : Nat) :
    (satF s r f n).clock = s.clock := rfl
@[simp] theorem satF_run (s : State) (r : Nat) (f : Fld) (n : Nat) :
    (satF s r f n).run = s.run := rfl
@[simp] theorem satF_xfm (s : State) (r : Nat) (f : Fld) (n : Nat) :
    (satF s r f n).xfm = s.xfm := rfl
@[simp] theorem satF_queues (s : State) (r : Nat) (f : Fld) (n : Nat) :
    (satF s r f n).queues = s.queues := rfl
@[simp] theorem satF_msix (s : State) (r : Nat) (f : Fld) (n : Nat) :
    (satF s r f n).msix = s.msix := rfl
@[simp] theorem satF_msixMasked (s : State) (r : Nat) (f : Fld) (n : Nat) :
    (satF s r f n).msixMasked = s.msixMasked := rfl
@[simp] theorem satF_treads (s : State) (r : Nat) (f : Fld) (n : Nat) :
    (satF s r f n).treads = s.treads := rfl
@[simp] theorem satF_halls (s : State) (r : Nat) (f : Fld) (n : Nat) :
    (satF s r f n).halls = s.halls := rfl
@[simp] theorem satF_und (s : State) (r : Nat) (f : Fld) (n : Nat) :
    (satF s r f n).und = s.und := rfl
@[simp] theorem satF_mediaAsleep (s : State) (r : Nat) (f : Fld) (n : Nat) :
    (satF s r f n).mediaAsleep = s.mediaAsleep := rfl
@[simp] theorem satF_integ (s : State) (r : Nat) (f : Fld) (n : Nat) :
    (satF s r f n).integ = s.integ := rfl
@[simp] theorem satF_orl (s : State) (r : Nat) (f : Fld) (n : Nat) :
    (satF s r f n).orl = s.orl := rfl
@[simp] theorem satF_frz (s : State) (r : Nat) (f : Fld) (n : Nat) :
    (satF s r f n).frz = s.frz := rfl
@[simp] theorem satF_mez (s : State) (r : Nat) (f : Fld) (n : Nat) :
    (satF s r f n).mez = s.mez := rfl
@[simp] theorem satF_lnt (s : State) (r : Nat) (f : Fld) (n : Nat) :
    (satF s r f n).lnt = s.lnt := rfl
@[simp] theorem satF_pci (s : State) (r : Nat) (f : Fld) (n : Nat) :
    (satF s r f n).pci = s.pci := rfl

@[simp] theorem countHall_pending (s : State) (h off n : Nat) :
    (countHall s h off n).pending = s.pending := rfl
@[simp] theorem countHall_mem (s : State) (h off n : Nat) :
    (countHall s h off n).mem = s.mem := rfl
@[simp] theorem countHall_resp (s : State) (h off n : Nat) :
    (countHall s h off n).resp = s.resp := rfl
@[simp] theorem countHall_freeCtr (s : State) (h off n : Nat) :
    (countHall s h off n).freeCtr = s.freeCtr := rfl
@[simp] theorem countHall_clock (s : State) (h off n : Nat) :
    (countHall s h off n).clock = s.clock := rfl
@[simp] theorem countHall_run (s : State) (h off n : Nat) :
    (countHall s h off n).run = s.run := rfl
@[simp] theorem countHall_xfm (s : State) (h off n : Nat) :
    (countHall s h off n).xfm = s.xfm := rfl
@[simp] theorem countHall_queues (s : State) (h off n : Nat) :
    (countHall s h off n).queues = s.queues := rfl
@[simp] theorem countHall_msix (s : State) (h off n : Nat) :
    (countHall s h off n).msix = s.msix := rfl
@[simp] theorem countHall_msixMasked (s : State) (h off n : Nat) :
    (countHall s h off n).msixMasked = s.msixMasked := rfl
@[simp] theorem countHall_treads (s : State) (h off n : Nat) :
    (countHall s h off n).treads = s.treads := rfl
@[simp] theorem countHall_halls (s : State) (h off n : Nat) :
    (countHall s h off n).halls = s.halls := rfl
@[simp] theorem countHall_und (s : State) (h off n : Nat) :
    (countHall s h off n).und = s.und := rfl
@[simp] theorem countHall_mediaAsleep (s : State) (h off n : Nat) :
    (countHall s h off n).mediaAsleep = s.mediaAsleep := rfl
@[simp] theorem countHall_integ (s : State) (h off n : Nat) :
    (countHall s h off n).integ = s.integ := rfl
@[simp] theorem countHall_orl (s : State) (h off n : Nat) :
    (countHall s h off n).orl = s.orl := rfl
@[simp] theorem countHall_frz (s : State) (h off n : Nat) :
    (countHall s h off n).frz = s.frz := rfl
@[simp] theorem countHall_mez (s : State) (h off n : Nat) :
    (countHall s h off n).mez = s.mez := rfl
@[simp] theorem countHall_lnt (s : State) (h off n : Nat) :
    (countHall s h off n).lnt = s.lnt := rfl
@[simp] theorem countHall_pci (s : State) (h off n : Nat) :
    (countHall s h off n).pci = s.pci := rfl

@[simp] theorem memPut_pending (s : State) (a : Nat) (bs : List Byte) :
    (memPut s a bs).pending = s.pending := rfl
@[simp] theorem memPut_regs (s : State) (a : Nat) (bs : List Byte) :
    (memPut s a bs).regs = s.regs := rfl
@[simp] theorem memPut_resp (s : State) (a : Nat) (bs : List Byte) :
    (memPut s a bs).resp = s.resp := rfl
@[simp] theorem memPut_freeCtr (s : State) (a : Nat) (bs : List Byte) :
    (memPut s a bs).freeCtr = s.freeCtr := rfl
@[simp] theorem memPut_clock (s : State) (a : Nat) (bs : List Byte) :
    (memPut s a bs).clock = s.clock := rfl
@[simp] theorem memPut_run (s : State) (a : Nat) (bs : List Byte) :
    (memPut s a bs).run = s.run := rfl
@[simp] theorem memPut_xfm (s : State) (a : Nat) (bs : List Byte) :
    (memPut s a bs).xfm = s.xfm := rfl
@[simp] theorem memPut_queues (s : State) (a : Nat) (bs : List Byte) :
    (memPut s a bs).queues = s.queues := rfl
@[simp] theorem memPut_msix (s : State) (a : Nat) (bs : List Byte) :
    (memPut s a bs).msix = s.msix := rfl
@[simp] theorem memPut_msixMasked (s : State) (a : Nat) (bs : List Byte) :
    (memPut s a bs).msixMasked = s.msixMasked := rfl
@[simp] theorem memPut_treads (s : State) (a : Nat) (bs : List Byte) :
    (memPut s a bs).treads = s.treads := rfl
@[simp] theorem memPut_halls (s : State) (a : Nat) (bs : List Byte) :
    (memPut s a bs).halls = s.halls := rfl
@[simp] theorem memPut_und (s : State) (a : Nat) (bs : List Byte) :
    (memPut s a bs).und = s.und := rfl
@[simp] theorem memPut_mediaAsleep (s : State) (a : Nat) (bs : List Byte) :
    (memPut s a bs).mediaAsleep = s.mediaAsleep := rfl
@[simp] theorem memPut_integ (s : State) (a : Nat) (bs : List Byte) :
    (memPut s a bs).integ = s.integ := rfl
@[simp] theorem memPut_orl (s : State) (a : Nat) (bs : List Byte) :
    (memPut s a bs).orl = s.orl := rfl
@[simp] theorem memPut_frz (s : State) (a : Nat) (bs : List Byte) :
    (memPut s a bs).frz = s.frz := rfl
@[simp] theorem memPut_mez (s : State) (a : Nat) (bs : List Byte) :
    (memPut s a bs).mez = s.mez := rfl
@[simp] theorem memPut_lnt (s : State) (a : Nat) (bs : List Byte) :
    (memPut s a bs).lnt = s.lnt := rfl
@[simp] theorem memPut_pci (s : State) (a : Nat) (bs : List Byte) :
    (memPut s a bs).pci = s.pci := rfl

@[simp] theorem memPutNat_pending (s : State) (a n v : Nat) :
    (memPutNat s a n v).pending = s.pending := rfl
@[simp] theorem memPutNat_regs (s : State) (a n v : Nat) :
    (memPutNat s a n v).regs = s.regs := rfl
@[simp] theorem memPutNat_resp (s : State) (a n v : Nat) :
    (memPutNat s a n v).resp = s.resp := rfl
@[simp] theorem memPutNat_freeCtr (s : State) (a n v : Nat) :
    (memPutNat s a n v).freeCtr = s.freeCtr := rfl
@[simp] theorem memPutNat_clock (s : State) (a n v : Nat) :
    (memPutNat s a n v).clock = s.clock := rfl
@[simp] theorem memPutNat_run (s : State) (a n v : Nat) :
    (memPutNat s a n v).run = s.run := rfl
@[simp] theorem memPutNat_xfm (s : State) (a n v : Nat) :
    (memPutNat s a n v).xfm = s.xfm := rfl
@[simp] theorem memPutNat_queues (s : State) (a n v : Nat) :
    (memPutNat s a n v).queues = s.queues := rfl
@[simp] theorem memPutNat_msix (s : State) (a n v : Nat) :
    (memPutNat s a n v).msix = s.msix := rfl
@[simp] theorem memPutNat_msixMasked (s : State) (a n v : Nat) :
    (memPutNat s a n v).msixMasked = s.msixMasked := rfl
@[simp] theorem memPutNat_treads (s : State) (a n v : Nat) :
    (memPutNat s a n v).treads = s.treads := rfl
@[simp] theorem memPutNat_halls (s : State) (a n v : Nat) :
    (memPutNat s a n v).halls = s.halls := rfl
@[simp] theorem memPutNat_und (s : State) (a n v : Nat) :
    (memPutNat s a n v).und = s.und := rfl
@[simp] theorem memPutNat_mediaAsleep (s : State) (a n v : Nat) :
    (memPutNat s a n v).mediaAsleep = s.mediaAsleep := rfl
@[simp] theorem memPutNat_integ (s : State) (a n v : Nat) :
    (memPutNat s a n v).integ = s.integ := rfl
@[simp] theorem memPutNat_orl (s : State) (a n v : Nat) :
    (memPutNat s a n v).orl = s.orl := rfl
@[simp] theorem memPutNat_frz (s : State) (a n v : Nat) :
    (memPutNat s a n v).frz = s.frz := rfl
@[simp] theorem memPutNat_mez (s : State) (a n v : Nat) :
    (memPutNat s a n v).mez = s.mez := rfl
@[simp] theorem memPutNat_lnt (s : State) (a n v : Nat) :
    (memPutNat s a n v).lnt = s.lnt := rfl
@[simp] theorem memPutNat_pci (s : State) (a n v : Nat) :
    (memPutNat s a n v).pci = s.pci := rfl

@[simp] theorem memCopy_pending (s : State) (src dst n : Nat) :
    (memCopy s src dst n).pending = s.pending := rfl
@[simp] theorem memCopy_regs (s : State) (src dst n : Nat) :
    (memCopy s src dst n).regs = s.regs := rfl
@[simp] theorem memCopy_resp (s : State) (src dst n : Nat) :
    (memCopy s src dst n).resp = s.resp := rfl
@[simp] theorem memCopy_freeCtr (s : State) (src dst n : Nat) :
    (memCopy s src dst n).freeCtr = s.freeCtr := rfl
@[simp] theorem memCopy_clock (s : State) (src dst n : Nat) :
    (memCopy s src dst n).clock = s.clock := rfl
@[simp] theorem memCopy_run (s : State) (src dst n : Nat) :
    (memCopy s src dst n).run = s.run := rfl
@[simp] theorem memCopy_xfm (s : State) (src dst n : Nat) :
    (memCopy s src dst n).xfm = s.xfm := rfl
@[simp] theorem memCopy_queues (s : State) (src dst n : Nat) :
    (memCopy s src dst n).queues = s.queues := rfl
@[simp] theorem memCopy_msix (s : State) (src dst n : Nat) :
    (memCopy s src dst n).msix = s.msix := rfl
@[simp] theorem memCopy_msixMasked (s : State) (src dst n : Nat) :
    (memCopy s src dst n).msixMasked = s.msixMasked := rfl
@[simp] theorem memCopy_treads (s : State) (src dst n : Nat) :
    (memCopy s src dst n).treads = s.treads := rfl
@[simp] theorem memCopy_halls (s : State) (src dst n : Nat) :
    (memCopy s src dst n).halls = s.halls := rfl
@[simp] theorem memCopy_und (s : State) (src dst n : Nat) :
    (memCopy s src dst n).und = s.und := rfl
@[simp] theorem memCopy_mediaAsleep (s : State) (src dst n : Nat) :
    (memCopy s src dst n).mediaAsleep = s.mediaAsleep := rfl
@[simp] theorem memCopy_integ (s : State) (src dst n : Nat) :
    (memCopy s src dst n).integ = s.integ := rfl
@[simp] theorem memCopy_orl (s : State) (src dst n : Nat) :
    (memCopy s src dst n).orl = s.orl := rfl
@[simp] theorem memCopy_frz (s : State) (src dst n : Nat) :
    (memCopy s src dst n).frz = s.frz := rfl
@[simp] theorem memCopy_mez (s : State) (src dst n : Nat) :
    (memCopy s src dst n).mez = s.mez := rfl
@[simp] theorem memCopy_lnt (s : State) (src dst n : Nat) :
    (memCopy s src dst n).lnt = s.lnt := rfl
@[simp] theorem memCopy_pci (s : State) (src dst n : Nat) :
    (memCopy s src dst n).pci = s.pci := rfl

@[simp] theorem memZero_pending (s : State) (a n : Nat) :
    (memZero s a n).pending = s.pending := rfl
@[simp] theorem memZero_regs (s : State) (a n : Nat) :
    (memZero s a n).regs = s.regs := rfl
@[simp] theorem memZero_resp (s : State) (a n : Nat) :
    (memZero s a n).resp = s.resp := rfl
@[simp] theorem memZero_freeCtr (s : State) (a n : Nat) :
    (memZero s a n).freeCtr = s.freeCtr := rfl
@[simp] theorem memZero_clock (s : State) (a n : Nat) :
    (memZero s a n).clock = s.clock := rfl
@[simp] theorem memZero_run (s : State) (a n : Nat) :
    (memZero s a n).run = s.run := rfl
@[simp] theorem memZero_xfm (s : State) (a n : Nat) :
    (memZero s a n).xfm = s.xfm := rfl
@[simp] theorem memZero_queues (s : State) (a n : Nat) :
    (memZero s a n).queues = s.queues := rfl
@[simp] theorem memZero_msix (s : State) (a n : Nat) :
    (memZero s a n).msix = s.msix := rfl
@[simp] theorem memZero_msixMasked (s : State) (a n : Nat) :
    (memZero s a n).msixMasked = s.msixMasked := rfl
@[simp] theorem memZero_treads (s : State) (a n : Nat) :
    (memZero s a n).treads = s.treads := rfl
@[simp] theorem memZero_halls (s : State) (a n : Nat) :
    (memZero s a n).halls = s.halls := rfl
@[simp] theorem memZero_und (s : State) (a n : Nat) :
    (memZero s a n).und = s.und := rfl
@[simp] theorem memZero_mediaAsleep (s : State) (a n : Nat) :
    (memZero s a n).mediaAsleep = s.mediaAsleep := rfl
@[simp] theorem memZero_integ (s : State) (a n : Nat) :
    (memZero s a n).integ = s.integ := rfl
@[simp] theorem memZero_orl (s : State) (a n : Nat) :
    (memZero s a n).orl = s.orl := rfl
@[simp] theorem memZero_frz (s : State) (a n : Nat) :
    (memZero s a n).frz = s.frz := rfl
@[simp] theorem memZero_mez (s : State) (a n : Nat) :
    (memZero s a n).mez = s.mez := rfl
@[simp] theorem memZero_lnt (s : State) (a n : Nat) :
    (memZero s a n).lnt = s.lnt := rfl
@[simp] theorem memZero_pci (s : State) (a n : Nat) :
    (memZero s a n).pci = s.pci := rfl

@[simp] theorem setQ_pending (s : State) (n q : Nat) (v : Queue) :
    (setQ s n q v).pending = s.pending := rfl
@[simp] theorem setQ_regs (s : State) (n q : Nat) (v : Queue) :
    (setQ s n q v).regs = s.regs := rfl
@[simp] theorem setQ_mem (s : State) (n q : Nat) (v : Queue) :
    (setQ s n q v).mem = s.mem := rfl
@[simp] theorem setQ_resp (s : State) (n q : Nat) (v : Queue) :
    (setQ s n q v).resp = s.resp := rfl
@[simp] theorem setQ_freeCtr (s : State) (n q : Nat) (v : Queue) :
    (setQ s n q v).freeCtr = s.freeCtr := rfl
@[simp] theorem setQ_clock (s : State) (n q : Nat) (v : Queue) :
    (setQ s n q v).clock = s.clock := rfl
@[simp] theorem setQ_run (s : State) (n q : Nat) (v : Queue) :
    (setQ s n q v).run = s.run := rfl
@[simp] theorem setQ_xfm (s : State) (n q : Nat) (v : Queue) :
    (setQ s n q v).xfm = s.xfm := rfl
@[simp] theorem setQ_msix (s : State) (n q : Nat) (v : Queue) :
    (setQ s n q v).msix = s.msix := rfl
@[simp] theorem setQ_msixMasked (s : State) (n q : Nat) (v : Queue) :
    (setQ s n q v).msixMasked = s.msixMasked := rfl
@[simp] theorem setQ_treads (s : State) (n q : Nat) (v : Queue) :
    (setQ s n q v).treads = s.treads := rfl
@[simp] theorem setQ_halls (s : State) (n q : Nat) (v : Queue) :
    (setQ s n q v).halls = s.halls := rfl
@[simp] theorem setQ_und (s : State) (n q : Nat) (v : Queue) :
    (setQ s n q v).und = s.und := rfl
@[simp] theorem setQ_mediaAsleep (s : State) (n q : Nat) (v : Queue) :
    (setQ s n q v).mediaAsleep = s.mediaAsleep := rfl
@[simp] theorem setQ_integ (s : State) (n q : Nat) (v : Queue) :
    (setQ s n q v).integ = s.integ := rfl
@[simp] theorem setQ_orl (s : State) (n q : Nat) (v : Queue) :
    (setQ s n q v).orl = s.orl := rfl
@[simp] theorem setQ_frz (s : State) (n q : Nat) (v : Queue) :
    (setQ s n q v).frz = s.frz := rfl
@[simp] theorem setQ_mez (s : State) (n q : Nat) (v : Queue) :
    (setQ s n q v).mez = s.mez := rfl
@[simp] theorem setQ_lnt (s : State) (n q : Nat) (v : Queue) :
    (setQ s n q v).lnt = s.lnt := rfl
@[simp] theorem setQ_pci (s : State) (n q : Nat) (v : Queue) :
    (setQ s n q v).pci = s.pci := rfl

@[simp] theorem setT_pending (s : State) (t : Nat) (v : Tread) :
    (setT s t v).pending = s.pending := rfl
@[simp] theorem setT_regs (s : State) (t : Nat) (v : Tread) :
    (setT s t v).regs = s.regs := rfl
@[simp] theorem setT_mem (s : State) (t : Nat) (v : Tread) :
    (setT s t v).mem = s.mem := rfl
@[simp] theorem setT_resp (s : State) (t : Nat) (v : Tread) :
    (setT s t v).resp = s.resp := rfl
@[simp] theorem setT_freeCtr (s : State) (t : Nat) (v : Tread) :
    (setT s t v).freeCtr = s.freeCtr := rfl
@[simp] theorem setT_clock (s : State) (t : Nat) (v : Tread) :
    (setT s t v).clock = s.clock := rfl
@[simp] theorem setT_run (s : State) (t : Nat) (v : Tread) :
    (setT s t v).run = s.run := rfl
@[simp] theorem setT_xfm (s : State) (t : Nat) (v : Tread) :
    (setT s t v).xfm = s.xfm := rfl
@[simp] theorem setT_queues (s : State) (t : Nat) (v : Tread) :
    (setT s t v).queues = s.queues := rfl
@[simp] theorem setT_msix (s : State) (t : Nat) (v : Tread) :
    (setT s t v).msix = s.msix := rfl
@[simp] theorem setT_msixMasked (s : State) (t : Nat) (v : Tread) :
    (setT s t v).msixMasked = s.msixMasked := rfl
@[simp] theorem setT_halls (s : State) (t : Nat) (v : Tread) :
    (setT s t v).halls = s.halls := rfl
@[simp] theorem setT_und (s : State) (t : Nat) (v : Tread) :
    (setT s t v).und = s.und := rfl
@[simp] theorem setT_mediaAsleep (s : State) (t : Nat) (v : Tread) :
    (setT s t v).mediaAsleep = s.mediaAsleep := rfl
@[simp] theorem setT_integ (s : State) (t : Nat) (v : Tread) :
    (setT s t v).integ = s.integ := rfl
@[simp] theorem setT_orl (s : State) (t : Nat) (v : Tread) :
    (setT s t v).orl = s.orl := rfl
@[simp] theorem setT_frz (s : State) (t : Nat) (v : Tread) :
    (setT s t v).frz = s.frz := rfl
@[simp] theorem setT_mez (s : State) (t : Nat) (v : Tread) :
    (setT s t v).mez = s.mez := rfl
@[simp] theorem setT_lnt (s : State) (t : Nat) (v : Tread) :
    (setT s t v).lnt = s.lnt := rfl
@[simp] theorem setT_pci (s : State) (t : Nat) (v : Tread) :
    (setT s t v).pci = s.pci := rfl

@[simp] theorem setH_pending (s : State) (h : Nat) (v : Hall) :
    (setH s h v).pending = s.pending := rfl
@[simp] theorem setH_regs (s : State) (h : Nat) (v : Hall) :
    (setH s h v).regs = s.regs := rfl
@[simp] theorem setH_mem (s : State) (h : Nat) (v : Hall) :
    (setH s h v).mem = s.mem := rfl
@[simp] theorem setH_resp (s : State) (h : Nat) (v : Hall) :
    (setH s h v).resp = s.resp := rfl
@[simp] theorem setH_freeCtr (s : State) (h : Nat) (v : Hall) :
    (setH s h v).freeCtr = s.freeCtr := rfl
@[simp] theorem setH_clock (s : State) (h : Nat) (v : Hall) :
    (setH s h v).clock = s.clock := rfl
@[simp] theorem setH_run (s : State) (h : Nat) (v : Hall) :
    (setH s h v).run = s.run := rfl
@[simp] theorem setH_xfm (s : State) (h : Nat) (v : Hall) :
    (setH s h v).xfm = s.xfm := rfl
@[simp] theorem setH_queues (s : State) (h : Nat) (v : Hall) :
    (setH s h v).queues = s.queues := rfl
@[simp] theorem setH_msix (s : State) (h : Nat) (v : Hall) :
    (setH s h v).msix = s.msix := rfl
@[simp] theorem setH_msixMasked (s : State) (h : Nat) (v : Hall) :
    (setH s h v).msixMasked = s.msixMasked := rfl
@[simp] theorem setH_treads (s : State) (h : Nat) (v : Hall) :
    (setH s h v).treads = s.treads := rfl
@[simp] theorem setH_und (s : State) (h : Nat) (v : Hall) :
    (setH s h v).und = s.und := rfl
@[simp] theorem setH_mediaAsleep (s : State) (h : Nat) (v : Hall) :
    (setH s h v).mediaAsleep = s.mediaAsleep := rfl
@[simp] theorem setH_integ (s : State) (h : Nat) (v : Hall) :
    (setH s h v).integ = s.integ := rfl
@[simp] theorem setH_orl (s : State) (h : Nat) (v : Hall) :
    (setH s h v).orl = s.orl := rfl
@[simp] theorem setH_frz (s : State) (h : Nat) (v : Hall) :
    (setH s h v).frz = s.frz := rfl
@[simp] theorem setH_mez (s : State) (h : Nat) (v : Hall) :
    (setH s h v).mez = s.mez := rfl
@[simp] theorem setH_lnt (s : State) (h : Nat) (v : Hall) :
    (setH s h v).lnt = s.lnt := rfl
@[simp] theorem setH_pci (s : State) (h : Nat) (v : Hall) :
    (setH s h v).pci = s.pci := rfl

@[simp] theorem setX_pending (s : State) (n : Nat) (v : Xfm) :
    (setX s n v).pending = s.pending := rfl
@[simp] theorem setX_regs (s : State) (n : Nat) (v : Xfm) :
    (setX s n v).regs = s.regs := rfl
@[simp] theorem setX_mem (s : State) (n : Nat) (v : Xfm) :
    (setX s n v).mem = s.mem := rfl
@[simp] theorem setX_resp (s : State) (n : Nat) (v : Xfm) :
    (setX s n v).resp = s.resp := rfl
@[simp] theorem setX_freeCtr (s : State) (n : Nat) (v : Xfm) :
    (setX s n v).freeCtr = s.freeCtr := rfl
@[simp] theorem setX_clock (s : State) (n : Nat) (v : Xfm) :
    (setX s n v).clock = s.clock := rfl
@[simp] theorem setX_run (s : State) (n : Nat) (v : Xfm) :
    (setX s n v).run = s.run := rfl
@[simp] theorem setX_queues (s : State) (n : Nat) (v : Xfm) :
    (setX s n v).queues = s.queues := rfl
@[simp] theorem setX_msix (s : State) (n : Nat) (v : Xfm) :
    (setX s n v).msix = s.msix := rfl
@[simp] theorem setX_msixMasked (s : State) (n : Nat) (v : Xfm) :
    (setX s n v).msixMasked = s.msixMasked := rfl
@[simp] theorem setX_treads (s : State) (n : Nat) (v : Xfm) :
    (setX s n v).treads = s.treads := rfl
@[simp] theorem setX_halls (s : State) (n : Nat) (v : Xfm) :
    (setX s n v).halls = s.halls := rfl
@[simp] theorem setX_und (s : State) (n : Nat) (v : Xfm) :
    (setX s n v).und = s.und := rfl
@[simp] theorem setX_mediaAsleep (s : State) (n : Nat) (v : Xfm) :
    (setX s n v).mediaAsleep = s.mediaAsleep := rfl
@[simp] theorem setX_integ (s : State) (n : Nat) (v : Xfm) :
    (setX s n v).integ = s.integ := rfl
@[simp] theorem setX_orl (s : State) (n : Nat) (v : Xfm) :
    (setX s n v).orl = s.orl := rfl
@[simp] theorem setX_frz (s : State) (n : Nat) (v : Xfm) :
    (setX s n v).frz = s.frz := rfl
@[simp] theorem setX_mez (s : State) (n : Nat) (v : Xfm) :
    (setX s n v).mez = s.mez := rfl
@[simp] theorem setX_lnt (s : State) (n : Nat) (v : Xfm) :
    (setX s n v).lnt = s.lnt := rfl
@[simp] theorem setX_pci (s : State) (n : Nat) (v : Xfm) :
    (setX s n v).pci = s.pci := rfl

@[simp] theorem updCmd_pending (s : State) (r : CmdRef) (f : Cmd → Cmd) :
    (updCmd s r f).pending = s.pending := rfl
@[simp] theorem updCmd_regs (s : State) (r : CmdRef) (f : Cmd → Cmd) :
    (updCmd s r f).regs = s.regs := rfl
@[simp] theorem updCmd_mem (s : State) (r : CmdRef) (f : Cmd → Cmd) :
    (updCmd s r f).mem = s.mem := rfl
@[simp] theorem updCmd_resp (s : State) (r : CmdRef) (f : Cmd → Cmd) :
    (updCmd s r f).resp = s.resp := rfl
@[simp] theorem updCmd_freeCtr (s : State) (r : CmdRef) (f : Cmd → Cmd) :
    (updCmd s r f).freeCtr = s.freeCtr := rfl
@[simp] theorem updCmd_clock (s : State) (r : CmdRef) (f : Cmd → Cmd) :
    (updCmd s r f).clock = s.clock := rfl
@[simp] theorem updCmd_run (s : State) (r : CmdRef) (f : Cmd → Cmd) :
    (updCmd s r f).run = s.run := rfl
@[simp] theorem updCmd_xfm (s : State) (r : CmdRef) (f : Cmd → Cmd) :
    (updCmd s r f).xfm = s.xfm := rfl
@[simp] theorem updCmd_msix (s : State) (r : CmdRef) (f : Cmd → Cmd) :
    (updCmd s r f).msix = s.msix := rfl
@[simp] theorem updCmd_msixMasked (s : State) (r : CmdRef) (f : Cmd → Cmd) :
    (updCmd s r f).msixMasked = s.msixMasked := rfl
@[simp] theorem updCmd_treads (s : State) (r : CmdRef) (f : Cmd → Cmd) :
    (updCmd s r f).treads = s.treads := rfl
@[simp] theorem updCmd_halls (s : State) (r : CmdRef) (f : Cmd → Cmd) :
    (updCmd s r f).halls = s.halls := rfl
@[simp] theorem updCmd_und (s : State) (r : CmdRef) (f : Cmd → Cmd) :
    (updCmd s r f).und = s.und := rfl
@[simp] theorem updCmd_mediaAsleep (s : State) (r : CmdRef) (f : Cmd → Cmd) :
    (updCmd s r f).mediaAsleep = s.mediaAsleep := rfl
@[simp] theorem updCmd_integ (s : State) (r : CmdRef) (f : Cmd → Cmd) :
    (updCmd s r f).integ = s.integ := rfl
@[simp] theorem updCmd_orl (s : State) (r : CmdRef) (f : Cmd → Cmd) :
    (updCmd s r f).orl = s.orl := rfl
@[simp] theorem updCmd_frz (s : State) (r : CmdRef) (f : Cmd → Cmd) :
    (updCmd s r f).frz = s.frz := rfl
@[simp] theorem updCmd_mez (s : State) (r : CmdRef) (f : Cmd → Cmd) :
    (updCmd s r f).mez = s.mez := rfl
@[simp] theorem updCmd_lnt (s : State) (r : CmdRef) (f : Cmd → Cmd) :
    (updCmd s r f).lnt = s.lnt := rfl
@[simp] theorem updCmd_pci (s : State) (r : CmdRef) (f : Cmd → Cmd) :
    (updCmd s r f).pci = s.pci := rfl

@[simp] theorem updJob_pending (s : State) (r : CmdRef) (f : Job → Job) :
    (updJob s r f).pending = s.pending := rfl
@[simp] theorem updJob_regs (s : State) (r : CmdRef) (f : Job → Job) :
    (updJob s r f).regs = s.regs := rfl
@[simp] theorem updJob_mem (s : State) (r : CmdRef) (f : Job → Job) :
    (updJob s r f).mem = s.mem := rfl
@[simp] theorem updJob_resp (s : State) (r : CmdRef) (f : Job → Job) :
    (updJob s r f).resp = s.resp := rfl
@[simp] theorem updJob_freeCtr (s : State) (r : CmdRef) (f : Job → Job) :
    (updJob s r f).freeCtr = s.freeCtr := rfl
@[simp] theorem updJob_clock (s : State) (r : CmdRef) (f : Job → Job) :
    (updJob s r f).clock = s.clock := rfl
@[simp] theorem updJob_run (s : State) (r : CmdRef) (f : Job → Job) :
    (updJob s r f).run = s.run := rfl
@[simp] theorem updJob_xfm (s : State) (r : CmdRef) (f : Job → Job) :
    (updJob s r f).xfm = s.xfm := rfl
@[simp] theorem updJob_msix (s : State) (r : CmdRef) (f : Job → Job) :
    (updJob s r f).msix = s.msix := rfl
@[simp] theorem updJob_msixMasked (s : State) (r : CmdRef) (f : Job → Job) :
    (updJob s r f).msixMasked = s.msixMasked := rfl
@[simp] theorem updJob_treads (s : State) (r : CmdRef) (f : Job → Job) :
    (updJob s r f).treads = s.treads := rfl
@[simp] theorem updJob_halls (s : State) (r : CmdRef) (f : Job → Job) :
    (updJob s r f).halls = s.halls := rfl
@[simp] theorem updJob_und (s : State) (r : CmdRef) (f : Job → Job) :
    (updJob s r f).und = s.und := rfl
@[simp] theorem updJob_mediaAsleep (s : State) (r : CmdRef) (f : Job → Job) :
    (updJob s r f).mediaAsleep = s.mediaAsleep := rfl
@[simp] theorem updJob_integ (s : State) (r : CmdRef) (f : Job → Job) :
    (updJob s r f).integ = s.integ := rfl
@[simp] theorem updJob_orl (s : State) (r : CmdRef) (f : Job → Job) :
    (updJob s r f).orl = s.orl := rfl
@[simp] theorem updJob_frz (s : State) (r : CmdRef) (f : Job → Job) :
    (updJob s r f).frz = s.frz := rfl
@[simp] theorem updJob_mez (s : State) (r : CmdRef) (f : Job → Job) :
    (updJob s r f).mez = s.mez := rfl
@[simp] theorem updJob_lnt (s : State) (r : CmdRef) (f : Job → Job) :
    (updJob s r f).lnt = s.lnt := rfl
@[simp] theorem updJob_pci (s : State) (r : CmdRef) (f : Job → Job) :
    (updJob s r f).pci = s.pci := rfl

@[simp] theorem endCmd_pending (s : State) (r : CmdRef) (code check extent info : Nat) :
    (endCmd s r code check extent info).pending = s.pending := rfl
@[simp] theorem endCmd_regs (s : State) (r : CmdRef) (code check extent info : Nat) :
    (endCmd s r code check extent info).regs = s.regs := rfl
@[simp] theorem endCmd_mem (s : State) (r : CmdRef) (code check extent info : Nat) :
    (endCmd s r code check extent info).mem = s.mem := rfl
@[simp] theorem endCmd_resp (s : State) (r : CmdRef) (code check extent info : Nat) :
    (endCmd s r code check extent info).resp = s.resp := rfl
@[simp] theorem endCmd_freeCtr (s : State) (r : CmdRef) (code check extent info : Nat) :
    (endCmd s r code check extent info).freeCtr = s.freeCtr := rfl
@[simp] theorem endCmd_clock (s : State) (r : CmdRef) (code check extent info : Nat) :
    (endCmd s r code check extent info).clock = s.clock := rfl
@[simp] theorem endCmd_run (s : State) (r : CmdRef) (code check extent info : Nat) :
    (endCmd s r code check extent info).run = s.run := rfl
@[simp] theorem endCmd_xfm (s : State) (r : CmdRef) (code check extent info : Nat) :
    (endCmd s r code check extent info).xfm = s.xfm := rfl
@[simp] theorem endCmd_msix (s : State) (r : CmdRef) (code check extent info : Nat) :
    (endCmd s r code check extent info).msix = s.msix := rfl
@[simp] theorem endCmd_msixMasked (s : State) (r : CmdRef) (code check extent info : Nat) :
    (endCmd s r code check extent info).msixMasked = s.msixMasked := rfl
@[simp] theorem endCmd_treads (s : State) (r : CmdRef) (code check extent info : Nat) :
    (endCmd s r code check extent info).treads = s.treads := rfl
@[simp] theorem endCmd_halls (s : State) (r : CmdRef) (code check extent info : Nat) :
    (endCmd s r code check extent info).halls = s.halls := rfl
@[simp] theorem endCmd_und (s : State) (r : CmdRef) (code check extent info : Nat) :
    (endCmd s r code check extent info).und = s.und := rfl
@[simp] theorem endCmd_mediaAsleep (s : State) (r : CmdRef) (code check extent info : Nat) :
    (endCmd s r code check extent info).mediaAsleep = s.mediaAsleep := rfl
@[simp] theorem endCmd_integ (s : State) (r : CmdRef) (code check extent info : Nat) :
    (endCmd s r code check extent info).integ = s.integ := rfl
@[simp] theorem endCmd_orl (s : State) (r : CmdRef) (code check extent info : Nat) :
    (endCmd s r code check extent info).orl = s.orl := rfl
@[simp] theorem endCmd_frz (s : State) (r : CmdRef) (code check extent info : Nat) :
    (endCmd s r code check extent info).frz = s.frz := rfl
@[simp] theorem endCmd_mez (s : State) (r : CmdRef) (code check extent info : Nat) :
    (endCmd s r code check extent info).mez = s.mez := rfl
@[simp] theorem endCmd_lnt (s : State) (r : CmdRef) (code check extent info : Nat) :
    (endCmd s r code check extent info).lnt = s.lnt := rfl
@[simp] theorem endCmd_pci (s : State) (r : CmdRef) (code check extent info : Nat) :
    (endCmd s r code check extent info).pci = s.pci := rfl

@[simp] theorem markDispatched_pending (s : State) (r : CmdRef) :
    (markDispatched s r).pending = s.pending := rfl
@[simp] theorem markDispatched_regs (s : State) (r : CmdRef) :
    (markDispatched s r).regs = s.regs := rfl
@[simp] theorem markDispatched_mem (s : State) (r : CmdRef) :
    (markDispatched s r).mem = s.mem := rfl
@[simp] theorem markDispatched_resp (s : State) (r : CmdRef) :
    (markDispatched s r).resp = s.resp := rfl
@[simp] theorem markDispatched_freeCtr (s : State) (r : CmdRef) :
    (markDispatched s r).freeCtr = s.freeCtr := rfl
@[simp] theorem markDispatched_run (s : State) (r : CmdRef) :
    (markDispatched s r).run = s.run := rfl
@[simp] theorem markDispatched_xfm (s : State) (r : CmdRef) :
    (markDispatched s r).xfm = s.xfm := rfl
@[simp] theorem markDispatched_msix (s : State) (r : CmdRef) :
    (markDispatched s r).msix = s.msix := rfl
@[simp] theorem markDispatched_msixMasked (s : State) (r : CmdRef) :
    (markDispatched s r).msixMasked = s.msixMasked := rfl
@[simp] theorem markDispatched_treads (s : State) (r : CmdRef) :
    (markDispatched s r).treads = s.treads := rfl
@[simp] theorem markDispatched_halls (s : State) (r : CmdRef) :
    (markDispatched s r).halls = s.halls := rfl
@[simp] theorem markDispatched_und (s : State) (r : CmdRef) :
    (markDispatched s r).und = s.und := rfl
@[simp] theorem markDispatched_mediaAsleep (s : State) (r : CmdRef) :
    (markDispatched s r).mediaAsleep = s.mediaAsleep := rfl
@[simp] theorem markDispatched_integ (s : State) (r : CmdRef) :
    (markDispatched s r).integ = s.integ := rfl
@[simp] theorem markDispatched_orl (s : State) (r : CmdRef) :
    (markDispatched s r).orl = s.orl := rfl
@[simp] theorem markDispatched_frz (s : State) (r : CmdRef) :
    (markDispatched s r).frz = s.frz := rfl
@[simp] theorem markDispatched_mez (s : State) (r : CmdRef) :
    (markDispatched s r).mez = s.mez := rfl
@[simp] theorem markDispatched_lnt (s : State) (r : CmdRef) :
    (markDispatched s r).lnt = s.lnt := rfl
@[simp] theorem markDispatched_pci (s : State) (r : CmdRef) :
    (markDispatched s r).pci = s.pci := rfl

/-! ## What a unit reads back -/

@[simp] theorem getT_setT_same (s : State) (t : Nat) (v : Tread) : getT (setT s t v) t = v := by
  simp [getT, setT, fmGet_set_same]
theorem getT_setT_ne (s : State) {t k : Nat} (v : Tread) (h : k ≠ t) : getT (setT s t v) k = getT s k := by
  simp [getT, setT, fmGet_set_ne _ _ _ h]
@[simp] theorem getH_setH_same (s : State) (n : Nat) (v : Hall) : getH (setH s n v) n = v := by
  simp [getH, setH, fmGet_set_same]
theorem getH_setH_ne (s : State) {n k : Nat} (v : Hall) (h : k ≠ n) : getH (setH s n v) k = getH s k := by
  simp [getH, setH, fmGet_set_ne _ _ _ h]
@[simp] theorem getX_setX_same (s : State) (n : Nat) (v : Xfm) : getX (setX s n v) n = v := by
  simp [getX, setX, fmGet_set_same]
theorem getX_setX_ne (s : State) {n k : Nat} (v : Xfm) (h : k ≠ n) : getX (setX s n v) k = getX s k := by
  simp [getX, setX, fmGet_set_ne _ _ _ h]

end Sys2Proof.Machine
end

