-- ==== Sys2Proof/Laws/Vector.lean ====
section
/-! SUPPORT. What a lane-by-lane vector instruction does: its lanes, and nothing else of the tread. -/

namespace Sys2Proof.Machine

theorem vWord_setVWord (tr : Tread) {r l r' l' : Nat} (v : Nat) (hl : l < 64) (hl' : l' < 64) :
    vWord (setVWord tr r l v) r' l' = if r' = r ∧ l' = l then v % 2 ^ 32 else vWord tr r' l' := by
  unfold vWord setVWord
  by_cases h : r' = r ∧ l' = l
  · obtain ⟨rfl, rfl⟩ := h
    simp [fmGet_set_same]
  · rw [if_neg h]
    simp only
    rw [fmGet_set_ne _ _ _ (by omega)]

theorem laneOf_setLane (tr : Tread) (w : Bool) (r : Nat) {l l' : Nat} (v : Nat) (hl : l < laneCount w)
    (hl' : l' < laneCount w) :
    laneOf (setLane tr w r l v) w r l' = if l' = l then v % 2 ^ laneBits w else laneOf tr w r l' := by
  cases w
  · simp only [laneCount, Bool.false_eq_true, if_false] at hl hl'
    simp only [laneOf, setLane, laneBits, Bool.false_eq_true, if_false]
    rw [vWord_setVWord _ _ hl hl']
    simp
  · simp only [laneCount, if_true] at hl hl'
    simp only [laneOf, setLane, laneBits, if_true]
    rw [vWord_setVWord _ _ (by omega) (by omega), vWord_setVWord _ _ (by omega) (by omega),
      vWord_setVWord _ _ (by omega) (by omega), vWord_setVWord _ _ (by omega) (by omega)]
    by_cases h : l' = l
    · subst h
      rw [if_neg (by omega), if_pos ⟨rfl, rfl⟩, if_pos ⟨rfl, rfl⟩, if_pos rfl]
      omega
    · rw [if_neg (by omega), if_neg (by omega), if_neg (by omega), if_neg (by omega), if_neg h]

theorem vWord_setLane_ne (tr : Tread) (w : Bool) {r r' l l' : Nat} (v : Nat) (hr : r' ≠ r) (hl : l < laneCount w)
    (hl' : l' < 64) : vWord (setLane tr w r l v) r' l' = vWord tr r' l' := by
  cases w
  · simp only [laneCount, Bool.false_eq_true, if_false] at hl
    simp only [setLane, Bool.false_eq_true, if_false]
    rw [vWord_setVWord _ _ hl hl', if_neg (by tauto)]
  · simp only [laneCount, if_true] at hl
    simp only [setLane, if_true]
    rw [vWord_setVWord _ _ (by omega) hl', if_neg (by tauto), vWord_setVWord _ _ (by omega) hl', if_neg (by tauto)]

/-- Writing lanes writes vector registers only. -/
theorem putLanes_rest (w : Bool) (r : Nat) (l : List (Nat × Nat)) (tr : Tread) :
    putLanes w r l tr = { tr with v := (putLanes w r l tr).v } := by
  induction l generalizing tr with
  | nil => rfl
  | cons x l ih =>
    have h := ih (setLane tr w r x.1 x.2)
    simp only [putLanes]
    rw [h]
    cases w <;> rfl

/-- A lane written holds its value in the lane's bits, any other its old one. -/
theorem laneOf_putLanes (w : Bool) (r : Nat) (g : Nat → Nat) (on : List Nat) (hon : ∀ l ∈ on, l < laneCount w) (tr : Tread)
    {l : Nat} (hl : l < laneCount w) :
    laneOf (putLanes w r (on.map fun l => (l, g l)) tr) w r l = if l ∈ on then g l % 2 ^ laneBits w else laneOf tr w r l := by
  induction on generalizing tr with
  | nil => simp [putLanes]
  | cons x on ih =>
    simp only [List.map_cons, putLanes]
    rw [ih (fun l h => hon l (List.mem_cons_of_mem _ h)), laneOf_setLane _ _ _ _ (hon x List.mem_cons_self) hl]
    by_cases h : l = x
    · subst h; simp
    · simp [h]

theorem vWord_putLanes_ne (w : Bool) (r : Nat) (g : Nat → Nat) (on : List Nat) (hon : ∀ l ∈ on, l < laneCount w)
    (tr : Tread) {r' l : Nat} (hr : r' ≠ r) (hl : l < 64) :
    vWord (putLanes w r (on.map fun l => (l, g l)) tr) r' l = vWord tr r' l := by
  induction on generalizing tr with
  | nil => rfl
  | cons x on ih =>
    simp only [List.map_cons, putLanes]
    rw [ih (fun l h => hon l (List.mem_cons_of_mem _ h)), vWord_setLane_ne _ _ _ hr (hon x List.mem_cons_self) hl]

theorem lanesOn_lt (tr : Tread) (i : VIns) : ∀ l ∈ lanesOn tr i, l < laneCount i.w := by
  intro l h
  simp only [lanesOn, List.mem_filter, List.mem_range] at h
  exact h.1

/-- How an instruction is finished: the state it goes on to. -/
theorem vecDone_next (s : State) (t : Nat) (tr : Tread) (fl : Nat) :
    ∃ u, vecDone s t tr fl = .next u ∧
      getT u t = { raiseVcsr tr fl with prog := { tr.prog with pc := tr.prog.pc + 1 } } ∧
      (∀ k, k ≠ t → getT u k = getT s k) ∧ u.mem = s.mem ∧ u.queues = s.queues ∧
      ∀ r, (∀ h, r ≠ rCmdCtrFpflags h) → regGet u r = regGet s r := by
  refine ⟨_, rfl, ?_⟩
  generalize hx : setT s t { raiseVcsr tr fl with prog := { (raiseVcsr tr fl).prog with pc := (raiseVcsr tr fl).prog.pc + 1 } } = x
  have key : getT x t = { raiseVcsr tr fl with prog := { tr.prog with pc := tr.prog.pc + 1 } } ∧
      (∀ k, k ≠ t → getT x k = getT s k) ∧ x.mem = s.mem ∧ x.queues = s.queues ∧ x.regs = s.regs := by
    subst hx
    exact ⟨getT_setT_same _ _ _, fun k hk => getT_setT_ne _ _ hk, rfl, rfl, rfl⟩
  have hr : ∀ r, regGet x r = regGet s r := fun r => by unfold regGet; rw [key.2.2.2.2]
  split
  · rename_i h _
    split
    · exact ⟨key.1, key.2.1, key.2.2.1, key.2.2.2.1, fun r _ => hr r⟩
    · exact ⟨key.1, key.2.1, key.2.2.1, key.2.2.2.1, fun r hn => (regGet_regSet_ne x _ (hn h)).trans (hr r)⟩
  · exact ⟨key.1, key.2.1, key.2.2.1, key.2.2.2.1, fun r _ => hr r⟩

/-- A lane-by-lane instruction goes on with exactly its lanes' effect. -/
theorem vecLanes_effect (s : State) (t : Nat) (i : VIns) (f : Nat → Nat × Nat) :
    ∃ u, vecLanes s t (getT s t) i f = .next u ∧ LaneEffect s u t i f := by
  simp only [vecLanes]
  generalize hp : putLanes i.w i.vd ((lanesOn (getT s t) i).map fun l => (l, (f l).1)) (getT s t) = p
  obtain ⟨u, hu, ht, hk, hm, hq, hr⟩ := vecDone_next s t p ((lanesOn (getT s t) i).foldl (fun fl l => fl ||| (f l).2) 0)
  refine ⟨u, hu, ?_⟩
  have h := putLanes_rest i.w i.vd ((lanesOn (getT s t) i).map fun l => (l, (f l).1)) (getT s t)
  rw [hp] at h
  have hv : (getT u t).v = p.v := by rw [ht]; rfl
  have hl : ∀ w r l, laneOf (getT u t) w r l = laneOf p w r l := by
    intro w r l; unfold laneOf vWord; rw [hv]
  have hw : ∀ r l, vWord (getT u t) r l = vWord p r l := by
    intro r l; unfold vWord; rw [hv]
  refine ⟨fun l hlt => ?_, fun r l hr hlt => ?_, ?_, ?_, ?_, hk, hm, hq, hr⟩
  · rw [hl, ← hp, laneOf_putLanes _ _ (fun l => (f l).1) _ (lanesOn_lt _ _) _ hlt]
    simp [lanesOn, hlt]
  · rw [hw, ← hp, vWord_putLanes_ne _ _ (fun l => (f l).1) _ (lanesOn_lt _ _) _ hr hlt]
  · rw [ht, h]; rfl
  · rw [ht, h]
  · rw [ht, h]; rfl

end Sys2Proof.Machine
end

