-- ==== Sys2Proof/Tests/Slice0.lean ====
section
/-! SUPPORT. Tests: terms that WellFormed refuses, worked examples of the spec, and for every clause of an obligation that
has hypotheses a small state and operands that meet them all (test_wit_<obligation>_<clause>). -/

namespace Sys2Proof.Tests

set_option Elab.async false

open Machine

/-! ## Small states -/

/-- A record of `sz` bytes with some fields: offset, bytes, value. -/
def recB (sz : Nat) (fs : List (Nat × Nat × Nat)) : List Byte :=
  fs.foldl (fun b f => b.take f.1 ++ leBytes f.2.1 f.2.2 ++ b.drop (f.1 + f.2.1)) (zeros sz)
/-- The record with the CRC-32C of its first `n` bytes in the four bytes at `n`. -/
def sealed (n : Nat) (b : List Byte) : List Byte := b.take n ++ leBytes 4 (crc32c (b.take n)) ++ b.drop (n + 4)
/-- A section of entries. -/
def sec (es : List (List Byte)) : List Byte := zeros 4 ++ leBytes 2 es.length ++ zeros 2 ++ es.flatten
/-- A region of 64 MiB from a multiple of it, class M or S. -/
def region (i : Nat) (m : Bool) : List Byte := recB 32 [(0, 6, 0x4000000 * i), (8, 4, 4), (12, 3, 0xFFFFFF), (15, 1, if m then 1 else 0)]
/-- A window that lets a scope write a region. -/
def window (scope reg : Nat) : List Byte := recB 32 [(0, 1, scope), (1, 1, 1), (2, 2, reg)]
/-- Hall 0 of flights 0 and 1 with four queues; regions 0 and 1 of class M and S for it, region 2 for the management scope. -/
def sections : FMap (List Byte) :=
  [(secKey tyHALL 0xFF 0, sec [recB 32 [(1, 1, 1), (2, 2, 3), (4, 1, 4), (6, 2, 4)]]),
   (secKey tyMEMMAP 0xFF 0, sec [recB 32 [(0, 2, 3), (2, 2, 3)], zeros 32, region 0 true, region 1 false, region 2 true,
      window 0 0, window 0 1, window 8 2])]
/-- A section with a whole header. -/
def secOk (ty : Nat) (es : List (List Byte)) : List Byte :=
  leBytes 4 (8 + es.length * secEntSize ty) ++ leBytes 2 es.length ++ leBytes 2 (secEntSize ty) ++ es.flatten
/-- A structure without halls that a commit would find whole. -/
def bareSections : FMap (List Byte) :=
  [(tyHALL, List.replicate 8 (zeros 32)), (tyROUTE, List.replicate 4 (zeros 8)),
   (tyMEMMAP, [recB 32 [(0, 2, 1)], ((List.range 24).map fun c => BitVec.ofNat 8 ((c + 12) % 24)) ++ zeros 8, zeros 32]),
   (tyPOWER, [zeros 64]), (tyIRQ, sharedIds.map fun i => recB 8 [(0, 2, i), (2, 1, 1)])].foldl
    (fun m p => fmPut m (secKey p.1 0xFF 0) (secOk p.1 p.2)) []
/-- A field of a register takes a value. -/
def withF (s : State) (l : List (Nat × Fld × Nat)) : State := l.foldl (fun s x => setF s x.1 x.2.1 x.2.2) s
/-- Full service with the link up and hall 0 defined, its flights running. -/
def up : State :=
  withF { State.reset with
      run := sections, pci := { State.reset.pci with up := true, answers := true, busMaster := true, ats := true } }
    [(rLntStatus, fLntStatusLevel, 2), (rFltPwrStatus 0, fFltPwrStatusState, 2), (rFltPwrStatus 1, fFltPwrStatusState, 2),
     (rCmdSq 0 0, fCmdSqSizeLog2, 4), (rCmdSq 8 0, fCmdSqSizeLog2, 4), (rCmdQStatus 0 0, fCmdQStatusState, 1),
     (rCmdQStatus 8 0, fCmdQStatusState, 1), (rTrdStatus 0, fTrdStatusState, 1)]
/-- The first command of queue 0 of hall 0 and of the management scope. -/
def r0 : CmdRef := ⟨0, 0, 0⟩
def r8 : CmdRef := ⟨8, 0, 0⟩
/-- The state with one command alone in queue 0 of a scope. -/
def having (s : State) (scope : Nat) (c : Cmd) : State := setQ s scope 0 { getQ s scope 0 with cmds := [c] }
/-- Stores at addresses. -/
def stored (s : State) (l : List (Nat × List Byte)) : State := l.foldl (fun s x => memPut s x.1 x.2) s
/-- A section of the running structure, besides those it has. -/
def withSec (s : State) (ty hall : Nat) (b : List Byte) : State := { s with run := fmPut s.run (secKey ty hall 0) b }

/-- The CRC-32C of the first `n` bytes of a record in the four bytes at `at'`. -/
def crcAt (n at' : Nat) (b : List Byte) : List Byte := b.take at' ++ leBytes 4 (crc32c (b.take n)) ++ b.drop (at' + 4)
/-- The fields of an entry of an operand list or attention block at `o`: address, presence, pitch, format. -/
def opd (o addr pitch fmt : Nat) : List (Nat × Nat × Nat) := [(o, 6, addr), (o + 6, 2, 1), (o + 8, 4, pitch), (o + 12, 4, fmt)]
/-- A product of BF16 lines of one row, one column and one term, drained as FP32, as descriptor 0, and its operand list. -/
def prodState : State :=
  stored (withSec up tyLOOP 0 (sec [recB 64 [(0, 8, 0x108)]]))
    [(0x1000, sealed 240 (recB 256 (opd 0 0x10000 1 0 ++ opd 32 0x20000 1 0 ++ opd 64 0x30000 1 0 ++
      [(192, 4, 1), (196, 4, 1), (200, 4, 1)])))]
/-- A program of the one instruction HALT at 0x5000. -/
def haltProg (s : State) : State :=
  stored s [(0x5000, leBytes 4 1 ++ leBytes 4 (crc32c (leBytes 8 0x3F)) ++ zeros 24 ++ leBytes 8 0x3F)]
/-- A cache record: BF16, 64 elements, one head, one layer, four alcoves. -/
def cacheB : List Byte :=
  crcAt 0x28 0x38 (recB 64 [(0, 1, 2), (2, 1, 1), (4, 2, 1), (8, 6, 0x1000000), (0x10, 3, 4), (0x18, 6, 0x100000), (0x20, 6, 0x200000)])
def theCache : CacheRec := cacheOf cacheB
/-- The cache installed with alcoves 1 to 3 free; sequence 0 open with one page, alcove 0, and one token. -/
def cached : State :=
  let s := stored up [(0x40, cacheB), (0x100000, freeTable 4), (0x68, leBytes 3 1), (0x6C, leBytes 3 3), (0x100004, leBytes 4 1),
    (0x200000, recB 64 [(0, 1, 1), (4, 3, 1), (8, 6, 0x300000)]), (0x300000, leBytes 4 1), (0x300040, leBytes 4 0)]
  setH s 0 { getH s 0 with cache := some 0x40 }
/-- A product of one row of 128 BF16 columns that appends the next token of sequence 0, and its operand list. -/
def appState : State :=
  stored (withSec cached tyLOOP 0 (sec [recB 64 [(0, 8, 0x600108), (8, 8, 2)]]))
    [(0x1000, sealed 240 (recB 256 (opd 0 0x10000 1 0 ++ opd 32 0x20000 1 0 ++ [(68, 4, 1), (72, 4, 1),
      (192, 4, 1), (196, 4, 128), (200, 4, 1)])))]
/-- An attention block of one query over sequence 0, Q in BF16 and OUT in FP32. -/
def attState : State :=
  stored cached [(0x1000, sealed 240 (recB 256 ([(5, 1, 1), (6, 1, 1), (8, 4, 1), (0x18, 4, 1)] ++ opd 0x40 0x10000 1 2 ++ opd 0x50 0x20000 1 0)))]
/-- Tread 0 runs a program that stands at an instruction word, with scalar 0 at an address. -/
def vecAt (w : DWord) (s0 : Nat) : State :=
  let s := withF (having up 0 { opcode := 0x02, st := .dispatched }) [(rTrdStatus 0, fTrdStatusVeBusy, 1)]
  setT s 0 (setScalar { getT s 0 with prog := { cmd := some r0, words := [w] } } 0 (BitVec.ofNat 64 s0))
/-- Ring 1 of hall 0, generation 7, of this device at position `self` and one peer on context 1; `kind` has REDUCE,
ROTATE and COMMIT. -/
def ringRecs (kind self : Nat) : List (List Byte) :=
  let me := recB 16 []
  let peer := recB 16 [(4, 2, 5), (8, 4, 1)]
  recB 16 [(0, 1, 1), (1, 1, 1), (2, 2, 2), (4, 2, self), (6, 2, 1), (8, 4, 7), (12, 1, kind)]
    :: if self = 0 then [me, peer] else [peer, me]
def ringOn (s : State) (kind self : Nat) : State :=
  setCtx (withSec s tyRING 0 (sec (ringRecs kind self))) 1 { st := 2, peer := 5, window := 64, grant0 := 64, grant1 := 64 }
def ring1 (kind self : Nat) : Ring := (ringsOfEntries (ringRecs kind self)).headD {}
/-- A ring of this device alone, with COMMIT. -/
def soloRecs : List (List Byte) :=
  [recB 16 [(0, 1, 1), (1, 1, 1), (2, 2, 1), (6, 2, 1), (8, 4, 7), (12, 1, 4)], recB 16 []]
/-- A message of the peer, and the state in which it waits whole on context 1. -/
def msgFrom (g : Ring) (ty shard epoch count : Nat) (pay : List Byte) : List Byte :=
  collHdr ty { g with self := 1 - g.self } shard epoch 9 count 0 pay ++ pay
/-- The same from a first unit on, in epoch 0. -/
def msgAt (g : Ring) (ty shard first : Nat) (pay : List Byte) : List Byte :=
  collHdr ty { g with self := 1 - g.self } shard 0 9 1 first pay ++ pay
def waiting (s : State) (m : List Byte) : State := setCtx s 1 { getCtx s 1 with whole := some m }
/-- A collective of number 9 on ring 1 with entries of 64 elements in all, and an owner update of it. -/
def collRec (kind entries : Nat) : List Byte :=
  recB 128 [(0, 1, kind), (1, 1, 1), (2, 2, 0xFFFF), (4, 4, 9), (8, 5, entries), (0x10, 6, 0x10000), (0x18, 6, 0x20000),
    (0x26, 2, 64), (0x28, 6, 0x1000)]
def updRec (role shard : Nat) : List Byte :=
  recB 64 [(0, 1, role), (1, 1, 1), (2, 2, 0xFFFF), (4, 4, 9), (8, 2, shard), (0x0A, 2, 64), (0x10, 6, 0x100000), (0x18, 6, 0x200000),
    (0x20, 6, 0x10000), (0x28, 6, 0x20000), (0x30, 6, 0x5000)]
def theColl : Coll := { id := 9, bytes := collRec 0 64, ring := ring1 1 0 }
def withColl (s : State) : State := setClo s 0 { colls := [theColl] }

/-! ## Commands that name a unit that does not exist (WellFormed) -/

theorem test_illFormed_register_fn : WellFormed (.registerWrite 10 0 8 0) = false := by decide
theorem test_illFormed_register_end : WellFormed (.registerWrite 0 0x3FFFFFC 8 0) = false := by decide
theorem test_illFormed_register_vf_end : WellFormed (.rcRegisterRead 1 0xFFFC 8) = false := by decide
theorem test_illFormed_malformed_fn : WellFormed (.malformedRegisterAccess true 10 0 1) = false := by decide
theorem test_illFormed_intake_scope : WellFormed (.commandIntake 9 0 none none) = false := by decide
theorem test_illFormed_intake_queue : WellFormed (.queueEnable 0 0 64 0) = false := by decide
theorem test_illFormed_completion_queue : WellFormed (.commandCompletion ⟨8, 64, 0⟩ 0 none) = false := by decide
theorem test_illFormed_vf_0 : WellFormed (.flrVf 0) = false := by decide
theorem test_illFormed_vf_10 : WellFormed (.flrVf 10) = false := by decide
theorem test_illFormed_config_fn : WellFormed (.configurationRequest 10 0 none) = false := by decide
theorem test_illFormed_config_align : WellFormed (.configurationRequest 0 2 none) = false := by decide
theorem test_illFormed_config_end : WellFormed (.configurationRequest 0 4096 none) = false := by decide
theorem test_illFormed_hall_scope : WellFormed (.product ⟨8, 0, 0⟩ {}) = false := by decide
theorem test_illFormed_abort_scope : WellFormed (.abort ⟨9, 0, 0⟩) = false := by decide
theorem test_illFormed_mgmt_scope : WellFormed (.imageLoad ⟨0, 0, 0⟩ none) = false := by decide
theorem test_illFormed_item_tread : WellFormed (.itemTake 128 ⟨0, 0, 0⟩) = false := by decide
theorem test_illFormed_item_scope : WellFormed (.itemTake 0 ⟨8, 0, 0⟩) = false := by decide
theorem test_illFormed_tread : WellFormed (.vadd 128) = false := by decide
theorem test_illFormed_xfm_scope : WellFormed (.xfmBegin 9) = false := by decide
theorem test_illFormed_refresh_chan : WellFormed (.memoryRefresh 24 0 0) = false := by decide
theorem test_illFormed_refresh_die : WellFormed (.memoryRefresh 0 16 0) = false := by decide
theorem test_illFormed_refresh_bank : WellFormed (.memoryRefresh 0 0 16) = false := by decide
theorem test_illFormed_chan : WellFormed (.channelRetire 24) = false := by decide
theorem test_illFormed_mover : WellFormed (.moverSlotGrant 8 { owner := .mover 8, cmd := none, addr := 0, len := 64, write := false, landing := none }) = false := by decide
theorem test_illFormed_ctx : WellFormed (.reductionBlock 262144) = false := by decide
theorem test_illFormed_hall : WellFormed (.commitSlowExpiry 8) = false := by decide
theorem test_illFormed_port : WellFormed (.portFailure 34) = false := by decide
theorem test_illFormed_lane : WellFormed (.laneAligned 0 8) = false := by decide
theorem test_illFormed_laser : WellFormed (.laserFault 5) = false := by decide
theorem test_illFormed_pipe : WellFormed (.pipePictureStart 10) = false := by decide
theorem test_illFormed_encode_pipe : WellFormed (.encodeSliceDone 7 []) = false := by decide
theorem test_illFormed_encode_pipe_end : WellFormed (.encodePictureDone 10 0 0 0 []) = false := by decide
theorem test_illFormed_core : WellFormed (.coreInstruction 16 0 none none) = false := by decide
theorem test_illFormed_icu_0 : WellFormed (.icuSet 0 0) = false := by decide
theorem test_illFormed_icu_end : WellFormed (.icuClr 0 1023) = false := by decide
theorem test_illFormed_flight : WellFormed (.sleepEntryDone 16) = false := by decide
theorem test_illFormed_domain : WellFormed (.domainReset 32) = false := by decide
theorem test_illFormed_block : WellFormed (.blockIsolate 8) = false := by decide
theorem test_illFormed_slice : WellFormed (.sliceTestDone 101 0 []) = false := by decide
theorem test_illFormed_tid : WellFormed (.setTid 256) = false := by decide

/-! ## Worked examples of the spec, and check values of the published standards -/

/-- The resolution of 0x0000_4123_4800 (09_memory_tiers.md, "resolving one address"). -/
theorem test_resolve_example :
    let r : Region := { base := 0x40000000, len := 96, chanset := 0xFFFFFF, clsM := true, gran := 0, enc := false, pool := false, extBase := 32, owner := 0 }
    r.resolve State.reset 0x41234800 = (⟨9, 537665536⟩, some ⟨21, 604774400⟩) ∧ dieBank 537665536 false = (8, 4) ∧
      dieBank 604774400 false = (8, 4) := by decide +kernel

/-- A history of E4M3 with LEN 4, MARGIN 1 and NEXT_K -5 after pushes of FP32 maxima (03_number_formats.md, "a spike ages
out"). -/
def spike (l : List Nat) : Int :=
  seNextK (l.foldl (fun s m => pushHist s 0x1000 (ceilLog2Fp32 m) (some m)) (stored State.reset [(0x1000, [4, 0x81, 4, 0] ++ leBytes 4 0xFFFB0000)])) 0x1000
theorem test_spike_1 : spike [] = -5 ∧ spike [0x404CCCCD] = -5 := by decide +kernel
theorem test_spike_3 : spike [0x404CCCCD, 0x40BCCCCD, 0x41480000] = -3 := by decide +kernel
theorem test_spike_6 : spike [0x404CCCCD, 0x40BCCCCD, 0x41480000, 0x40833333, 0x40E00000, 0x40A00000] = -3 := by decide +kernel
theorem test_spike_7 : spike [0x404CCCCD, 0x40BCCCCD, 0x41480000, 0x40833333, 0x40E00000, 0x40A00000, 0x40C00000] = -4 := by
  decide +kernel

/-- Item 1,000 of the projection on 64 treads (05_loop_nests.md): its A, B and C lines. -/
theorem test_projection_item :
    let lv (bound role s1 s2 : Nat) := leBytes 8 (bound - 1 + role * 2 ^ 14 + s1 * 2 ^ 18 + s2 * 2 ^ 41)
    let d := descOf (zeros 16 ++ lv 64 4 1 1 ++ lv 96 3 8192 1 ++ lv 64 2 16384 24576 ++ zeros 24)
    d.items = 6144 ∧ d.q = 64 ∧ d.offs 1000 = (163840, 327680, 245800) := by decide +kernel

/-- A 32-bit read of UND_CHAN_ERR clears the counters in its bytes alone (00_scope.md, "Example"). -/
theorem test_rc_halves :
    let s := withF up [(rUndChanErr 0, fUndChanErrReread, 3), (rUndChanErr 0, fUndChanErrUncorr, 5)]
    let t (lo : Nat) := clearRc s (rUndChanErr 0) lo 32
    (getF (t 0) (rUndChanErr 0) fUndChanErrReread, getF (t 0) (rUndChanErr 0) fUndChanErrUncorr) = (0, 5) ∧
      (getF (t 32) (rUndChanErr 0) fUndChanErrReread, getF (t 32) (rUndChanErr 0) fUndChanErrUncorr) = (3, 0) := by decide +kernel

/-- CRC-32C and the CRC-16 of polynomial 0x8BB7 over "123456789": the published check values. -/
theorem test_crc_check_values :
    let b : List Byte := [0x31, 0x32, 0x33, 0x34, 0x35, 0x36, 0x37, 0x38, 0x39]
    crc32c b = 0xE3069283 ∧ crc16 b = 0xD0DB := by decide +kernel

/-- Number formats at their edges: FP32 1 is 1 in E4M3 (0x38), 449 saturates at 448 under ties-to-even, and 2^-10 is a tie
that rounds to zero (R80, R102; 2^-9 is the least subnormal). -/
theorem test_e4m3_edges :
    [0x3F800000, 0x43E08000, 0x3A800000].map (fun x => (cvtTo 4 4 (fDecode ifmt32 x)).bits) = [0x38, 0x7E, 0] := by decide +kernel

/-! ## Clauses whose hypotheses need a proof -/

/-- StepKeepsCanonicalForm and OneCommandAStep, an idle step. -/
theorem test_wit_StepKeepsCanonicalForm_0 : (memWf State.reset.mem = true ∧ fmWf regReset State.reset.regs = true) ∧
    step State.reset = .next State.reset := ⟨by decide +kernel, rfl⟩
theorem test_wit_OneCommandAStep_0 : step State.reset = .next State.reset := rfl

/-- A data, void or reject segment of type `ty` from the peer of context 1 stands on port 33. -/
def sgIn (ty seq : Nat) : List Byte := segBytes (setF up rOrlDevice fOrlDeviceDevice 5) { peerCtx := 1 } ty 0 true true seq 7 []
def sgState (c : Ctx) (b : List Byte) : State :=
  setPort (setCtx up 1 { c with st := 2, peer := 5, peerInc := 7, window := 16 }) 33 { rx := [(3, b)] }
def sgTaken (c : Ctx) (b : List Byte) : Ctx := getCtx (segTaken (sgState c b) 33 3 []) (sgCtx b)

/-- SegmentsReceived, the three types of a numbered segment: another incarnation, a duplicate, its turn, ahead of its
turn. -/
theorem test_wit_SegmentsReceived_0 : ∀ ty ∈ [0, 5, 6],
    let b := sgIn ty 0
    let c := sgTaken { otherInc := true } b
    segReady (sgState { otherInc := true } b) 33 ty 3 b [] = true ∧ c.st = 2 ∧ staleInc c b = true := by decide +kernel
theorem test_wit_SegmentsReceived_1 : ∀ ty ∈ [0, 5, 6],
    let b := sgIn ty 0
    let c := sgTaken { rxNext := 1 } b
    segReady (sgState { rxNext := 1 } b) 33 ty 3 b [] = true ∧ c.st = 2 ∧ staleInc c b = false ∧ serialLt (sgSeq b) c.due = true := by
  decide +kernel
theorem test_wit_SegmentsReceived_2 : ∀ ty ∈ [0, 5, 6],
    let b := sgIn ty 0
    let s := sgState {} b
    let c := sgTaken {} b
    segReady s 33 ty 3 b [] = true ∧ c.st = 2 ∧ staleInc c b = false ∧ serialLt (sgSeq b) c.due = false ∧ sgSeq b = c.due ∧
      c.whole = none ∧ (deliverSeg (segTaken s 33 3 []) (sgCtx b) b).isSome = true := by decide +kernel
theorem test_wit_SegmentsReceived_3a : ∀ ty ∈ [0, 5, 6],
    let b := sgIn ty 1
    let s := sgState {} b
    let c := sgTaken {} b
    segReady s 33 ty 3 b [] = true ∧ c.st = 2 ∧ staleInc c b = false ∧ serialLt (sgSeq b) c.due = false ∧ sgSeq b ≠ c.due ∧
      serialDist c.rxNext (sgSeq b) < c.window ∧
      ((fmFind c.reorder (sgSeq b)).isSome = true ∨ reorderUsed (segTaken s 33 3 []) < reorderRoom) := by decide +kernel

/-- The header of a dictionary of one token and 1,024 empty buckets. -/
def dictHead : List Byte := recB 64 [(0, 4, 1), (4, 1, 1), (5, 1, 10), (8, 4, 64), (12, 4, 64), (40, 4, 8256), (60, 4, 2544180003)]

theorem memBytes_add (s : State) (m : Nat) : ∀ (n a : Nat), memBytes s a (n + m) = memBytes s a n ++ memBytes s (a + n) m
  | 0, a => by simp [memBytes]
  | n + 1, a => by
    rw [show n + 1 + m = (n + m) + 1 by omega]
    simp only [memBytes, List.cons_append, memBytes_add s m n (a + 1)]
    rw [show a + 1 + n = a + (n + 1) by omega]

theorem fmFind_below {α : Type} (a : Nat) : ∀ (m : FMap α), (∀ p ∈ m, p.1 < a) → fmFind m a = none
  | [], _ => rfl
  | (k, v) :: m, h => by
    have hk := h (k, v) (by simp)
    simp only [fmFind, show ¬ k = a by simp at hk; omega, if_false]
    exact fmFind_below a m fun p hp => h p (by simp [hp])

theorem memBytes_above (s : State) : ∀ (n a : Nat), (∀ p ∈ s.mem, p.1 < a) → memBytes s a n = zeros n
  | 0, a, _ => rfl
  | n + 1, a, h => by
    have h0 : memGet s a = 0 := by simp [memGet, fmGet, fmFind_below a s.mem h, memDflt]
    rw [memBytes, h0, memBytes_above s n (a + 1) fun p hp => Nat.lt_succ_of_lt (h p hp)]
    rfl

theorem leNat_zeros : ∀ n, leNat (zeros n) = 0
  | 0 => rfl
  | n + 1 => by simp [zeros, List.replicate_succ, leNat]; exact leNat_zeros n

theorem leAt_zeros (b : List Byte) (k o n : Nat) (h : b.length ≤ o) : leAt (b ++ zeros k) o n = 0 := by
  rw [leAt, List.drop_append, List.drop_eq_nil_of_le h, List.nil_append, zeros, List.drop_replicate, List.take_replicate]
  exact leNat_zeros _

theorem leAt_head (b c : List Byte) (o n : Nat) (h : o + n ≤ b.length) : leAt (b ++ c) o n = leAt b o n := by
  rw [leAt, leAt, List.drop_append_of_le_length (by omega), List.take_append_of_le_length (by simp; omega)]

set_option maxRecDepth 100000 in
theorem dictHead_crc : crc32c (dictHead.take 60 ++ zeros 8192) = 2544180003 := by decide +kernel

theorem dictHead_length : dictHead.length = 64 := by decide +kernel

/-- The state in which the first command of hall 0 loads that dictionary from 0x1000. -/
def dictAt : State := having (stored up [(0x1000, dictHead)]) 0 { opcode := 0x29, o0 := 0x1000 }

theorem dictAt_bytes : memBytes (markDispatched dictAt r0) 0x1000 8256 = dictHead ++ zeros 8192 := by
  rw [show 8256 = 64 + 8192 from rfl, memBytes_add, memBytes_above _ 8192 (0x1000 + 64) (by decide +kernel),
    show memBytes (markDispatched dictAt r0) 0x1000 64 = dictHead by decide +kernel]

theorem dictHead_ok : dictOk (dictHead ++ zeros 8192) = true := by
  have hz : ∀ i, leAt (dictHead ++ zeros 8192) (dcBuckets dictHead + 8 * i + 3) 1 = 0 := fun i =>
    leAt_zeros _ _ _ _ (by rw [dictHead_length, show dcBuckets dictHead = 64 by decide +kernel]; omega)
  have hh : ∀ o n, o + n ≤ 64 → leAt (dictHead ++ zeros 8192) o n = leAt dictHead o n := fun o n h =>
    leAt_head _ _ _ _ (by rw [dictHead_length]; exact h)
  have e : ∀ f ∈ [dcEntries, dcMaxLen, dcLog, dcUnk, dcPad, dcBuckets, dcPool, dcPoolLen, dcTotal],
      f (dictHead ++ zeros 8192) = f dictHead := by
    intro f hf
    simp only [List.mem_cons, List.not_mem_nil, or_false] at hf
    rcases hf with rfl | rfl | rfl | rfl | rfl | rfl | rfl | rfl | rfl <;>
      simp only [dcEntries, dcMaxLen, dcLog, dcUnk, dcPad, dcBuckets, dcPool, dcPoolLen, dcTotal] <;> rw [hh _ _ (by decide)]
  simp only [List.forall_mem_cons] at e
  obtain ⟨e1, e2, e3, e4, e5, e6, e7, e8, e9, -⟩ := e
  simp only [dictOk, e1, e2, e3, e4, e5, e6, e7, e8, e9, hh 5 1 (by decide), hh 6 2 (by decide), hh 44 16 (by decide),
    hh 23 1 (by decide), hh 27 1 (by decide), hh 31 1 (by decide), hh 35 1 (by decide), hh 39 1 (by decide), hz]
  decide +kernel

/-- FoyerCommands, a DICT_LOAD whose dictionary passes every check. -/
theorem test_wit_FoyerCommands_1 :
    let c : Cmd := { opcode := 0x29, o0 := 0x1000 }
    let m := markDispatched dictAt r0
    let h := r0.scope
    let n := dcTotal (memBytes m c.o0 64)
    let d := memBytes m c.o0 n
    r0.scope < 8 ∧ readyFor dictAt r0 0x29 c = true ∧
    (earlierCmds m h).any (fun p => p.2.opcode = 0x29 ||
      (p.2.opcode = 0x28 && (List.range p.2.job.total).any fun i => slKind (mfSlot p.2.job.rec2 i) = 0)) = false ∧
    inWindow m h false c.o0 64 = true ∧ 64 ≤ n ∧ n ≤ 0x4000000 ∧ inWindow m h false c.o0 n = true ∧
    readsWell m c.o0 n = true ∧ dictCrcOk d = true ∧ dictOk d = true := by
  have hn : dcTotal (memBytes (markDispatched dictAt r0) 0x1000 64) = 8256 := by decide +kernel
  dsimp only
  rw [hn, dictAt_bytes]
  refine ⟨by decide, by decide +kernel, by decide +kernel, by decide +kernel, by decide, by decide, by decide +kernel,
    by decide +kernel, ?_, dictHead_ok⟩
  rw [dictCrcOk, List.take_append_of_le_length (by rw [dictHead_length]; decide), List.drop_append,
    List.drop_eq_nil_of_le (by rw [dictHead_length]), List.nil_append, dictHead_length, show 64 - 64 = 0 from rfl, List.drop_zero,
    dictHead_crc]
  simp only [show dcCrc (dictHead ++ zeros 8192) = 2544180003 from
    (leAt_head _ _ _ _ (by rw [dictHead_length])).trans (by decide +kernel)]
  decide

/-! ## Clauses whose hypotheses are evaluated -/

/-- StepRunsFront: every clause with hypotheses. -/
theorem test_wit_StepRunsFront :
    /- clause 0 -/
    (let c : Instr := .nop r0
     let rest : List Instr := [.hotReset]
     let s : State := { up with pending := [.nop r0, .hotReset] }
     s.pending = c :: rest) :=
  by decide +kernel

/-- StepIdlesOnEmptyQueue: every clause with hypotheses. -/
theorem test_wit_StepIdlesOnEmptyQueue :
    /- clause 0 -/
    (let s : State := up
     s.pending = []) :=
  by decide +kernel

/-- WellFormedCommandsRun: every clause with hypotheses. -/
theorem test_wit_WellFormedCommandsRun :
    /- clause 0 -/
    (let i : Instr := .vadd 127
     WellFormed i = true) ∧
    /- clause 1 -/
    (let i : Instr := .vadd 128
     WellFormed i = false) :=
  ⟨by decide +kernel, by decide +kernel⟩

/-- RegisterReadsAnswer: every clause with hypotheses. -/
theorem test_wit_RegisterReadsAnswer :
    /- clause 0 -/
    (let fn : Nat := 0
     let off : Nat := 0x14
     let size : Nat := 4
     let s : State := up
     inBar fn off size = true ∧
     barOpen s = true ∧
     wellFormed off size = true ∧
     let r := barOffset fn off / 8 * 8
     implemented s r = true ∧
     wakes s r = none ∧
     icuCoreOf r 0 = none ∧
     dmiOf r = none) ∧
    /- clause 2 -/
    (let fn : Nat := 9
     let off : Nat := 0xFFF8
     let size : Nat := 8
     let s : State := up
     inBar fn off size = true ∧
     barOpen s = true ∧
     wellFormed off size = true ∧
     let r := barOffset fn off / 8 * 8
     implemented s r = false) ∧
    /- clause 4 -/
    (let fn : Nat := 0
     let off : Nat := 0x3FFFFF8
     let size : Nat := 8
     let s : State := State.reset
     inBar fn off size = true ∧
     barOpen s = false) ∧
    /- clause 6 -/
    (let fn : Nat := 0
     let off : Nat := 2
     let size : Nat := 4
     let s : State := up
     inBar fn off size = true ∧
     barOpen s = true ∧
     wellFormed off size = false) ∧
    /- clause 7 -/
    (let fn : Nat := 0
     let off : Nat := 2
     let size : Nat := 4
     let s : State := up
     inBar fn off size = true ∧
     barOpen s = true ∧
     wellFormed off size = false ∧
     xfmHit (barOffset fn off) size = none) ∧
    /- clause 8 -/
    (let fn : Nat := 0
     let off : Nat := rXfmStageData 0 + 2
     let size : Nat := 4
     let s : State := up
     inBar fn off size = true ∧
     barOpen s = true ∧
     wellFormed off size = false ∧
     let k := (xfmHit (barOffset fn off) size).getD 0
     xfmHit (barOffset fn off) size = some k) :=
  ⟨by decide +kernel, by decide +kernel, by decide +kernel, by decide +kernel, by decide +kernel, by decide +kernel⟩

/-- ReadClearsRcFields: every clause with hypotheses. -/
theorem test_wit_ReadClearsRcFields :
    /- clause 0 -/
    (let r : Nat := rCmdCounts
     let lo : Nat := 0
     let n : Nat := 32
     let f := fCmdCountsMalformed
     f ∈ regFields r ∧
     f.acc = .rc ∧
     f.lo < lo + n ∧
     lo < f.lo + f.w ∧
     f.lo + f.w ≤ 64) ∧
    /- clause 1 -/
    (let r : Nat := rCmdCounts
     let lo : Nat := 0
     let n : Nat := 32
     let g : Fld := ⟨32, 32, .ro, 0, false⟩
     g.lo + g.w ≤ 64 ∧
     (∀ f ∈ regFields r, f.acc = .rc → f.lo < lo + n → lo < f.lo + f.w →
       f.lo + f.w ≤ 64 ∧ (g.lo + g.w ≤ f.lo ∨ f.lo + f.w ≤ g.lo))) :=
  ⟨by decide +kernel, by decide +kernel⟩

/-- AccessCodesRule: every clause with hypotheses. -/
theorem test_wit_AccessCodesRule :
    /- clause 0 -/
    (let r : Nat := rLntEvents
     let s : State := up
     r < 0x1000 ∧
     r % 8 = 0 ∧
     r ≠ rLntReset ∧
     r ≠ rLntWdog ∧
     r ≠ rLntDomainCtl ∧
     r ≠ rLntSelftestCtl ∧
     r ≠ rLntBlockIsolate ∧
     barOpen s = true ∧
     (regFields r).isEmpty = false) ∧
    /- clause 1 -/
    (let f : Fld := fLntWdogPeriod
     f.lo + f.w ≤ 64 ∧
     f.acc = .rw) ∧
    /- clause 2 -/
    (let f : Fld := fMezEventsWdog
     f.lo + f.w ≤ 64 ∧
     f.acc = .w1c) ∧
    /- clause 3 -/
    (let f : Fld := ⟨0, 1, .w1s, 0, false⟩
     f.lo + f.w ≤ 64 ∧
     f.acc = .w1s) ∧
    /- clause 4 -/
    (let f : Fld := fLntStatusLevel
     f.lo + f.w ≤ 64 ∧
     f.acc ≠ .rw ∧
     f.acc ≠ .w1c ∧
     f.acc ≠ .w1s) ∧
    /- clause 5 -/
    (let f : Fld := fLntStatusLevel
     f.lo + f.w ≤ 64) :=
  ⟨by decide +kernel, by decide +kernel, by decide +kernel, by decide +kernel, by decide +kernel, by decide +kernel⟩

/-- DoorbellWrites: every clause with hypotheses. -/
theorem test_wit_DoorbellWrites :
    /- clause 0 -/
    (let fn : Nat := 0
     let scope : Nat := 0
     let queue : Nat := 0
     let off : Nat := 0
     let size : Nat := 4
     let data : DWord := 15
     let s : State := up
     s.lnt.heldCode = none ∧
     doorbellOk s fn scope queue off size 0 data = true) ∧
    /- clause 1 -/
    (let fn : Nat := 0
     let scope : Nat := 0
     let queue : Nat := 0
     let off : Nat := 0
     let size : Nat := 4
     let data : DWord := 16
     let s : State := up
     s.lnt.heldCode = none ∧
     doorbellOk s fn scope queue off size 0 data = false) ∧
    /- clause 2 -/
    (let s : State := { up with lnt := { up.lnt with heldCode := some 5 } }
     s.lnt.heldCode ≠ none) ∧
    /- clause 4 -/
    (let fn : Nat := 0
     let scope : Nat := 0
     let queue : Nat := 0
     let off : Nat := 8
     let size : Nat := 4
     let data : DWord := 15
     let s : State := up
     s.lnt.heldCode = none ∧
     doorbellOk s fn scope queue off size 8 data = true) ∧
    /- clause 5 -/
    (let fn : Nat := 0
     let scope : Nat := 0
     let queue : Nat := 0
     let off : Nat := 8
     let size : Nat := 4
     let data : DWord := 16
     let s : State := up
     s.lnt.heldCode = none ∧
     doorbellOk s fn scope queue off size 8 data = false) :=
  ⟨by decide +kernel, by decide +kernel, by decide +kernel, by decide +kernel, by decide +kernel⟩

/-- Bar4MovesBytes: every clause with hypotheses. -/
theorem test_wit_Bar4MovesBytes :
    /- clause 0 -/
    (let x : Nat := 0x3FFFFFE
     let data : List Byte := [1, 2]
     let s : State := up
     let a := bar4Addr s x
     barOpen s = true ∧
     bar4Ok s a data.length = true ∧
     unzeroed s a data.length = false ∧
     writeGone s a data.length = none) ∧
    /- clause 1 -/
    (let x : Nat := 0
     let n : Nat := 4
     let s : State := up
     let a := bar4Addr s x
     barOpen s = true ∧
     bar4Ok s a n = true ∧
     readsWell s a n = true) ∧
    /- clause 2 -/
    (let x : Nat := 0xC000000
     let n : Nat := 1
     let s : State := up
     barOpen s = true ∧
     bar4Ok s (bar4Addr s x) n = false) ∧
    /- clause 3 -/
    (let x : Nat := 0xBFFFFFF
     let data : List Byte := [1, 2]
     let bad : Bool := false
     let s : State := up
     let a := bar4Addr s x
     barOpen s = true ∧
     bar4Ok s a data.length = false ∨ (unzeroed s a data.length = false ∧ (bad = true ∨ writeGone s a data.length ≠ none))) ∧
    /- clause 4 -/
    (let s : State := State.reset
     barOpen s = false) ∧
    /- clause 5 -/
    (let s : State := State.reset
     barOpen s = false) :=
  ⟨by decide +kernel, by decide +kernel, by decide +kernel, by decide +kernel, by decide +kernel, by decide +kernel⟩

/-- HostRequestsEnd: every clause with hypotheses. -/
theorem test_wit_HostRequestsEnd :
    /- clause 0 -/
    (let id : Nat := 3
     let q : MemReq := ⟨.other, none, hostBase, 64, false, none⟩
     let s : State := { up with pci := { up.pci with pageReqs := [(3, ⟨.other, none, hostBase, 64, false, none⟩)] } }
     let u : State := up
     takePageReq s id = some (q, u)) ∧
    /- clause 4 -/
    (let q : MemReq := ⟨.tread 0, none, hostBase, 64, false, none⟩
     let s : State := (let s := up; let s := setT s 0 { getT s 0 with slots := [⟨.tread 0, none, hostBase, 64, false, none⟩] }; s)
     inHost q.addr q.len = true ∧
     inFlight s q = true ∧
     hostOpen s = true) ∧
    /- clause 5 -/
    (let q : MemReq := ⟨.tread 0, none, hostBase, 64, false, none⟩
     let s : State := (let s := up; let s := setT s 0 { getT s 0 with slots := [⟨.tread 0, none, hostBase, 64, false, none⟩] }; s)
     inHost q.addr q.len = true ∧
     inFlight s q = true ∧
     hostOpen s = true ∧
     s.pci.pageReqs.length < 512) ∧
    /- clause 6 -/
    (let q : MemReq := ⟨.tread 0, none, hostBase, 64, false, none⟩
     let s : State := (let s := up; let s := setT s 0 { getT s 0 with slots := [⟨.tread 0, none, hostBase, 64, false, none⟩] }; { s with pci := { s.pci with atc := reqPages s (⟨.tread 0, none, hostBase, 64, false, none⟩) } })
     inHost q.addr q.len = true ∧
     inFlight s q = true ∧
     hostOpen s = true ∧
     q.write = false ∧
     translated s q = true) :=
  ⟨by decide +kernel, by decide +kernel, by decide +kernel, by decide +kernel⟩

/-- PcieResetsAndConfiguration: every clause with hypotheses. -/
theorem test_wit_PcieResetsAndConfiguration :
    /- clause 5 -/
    (let n : Nat := 9
     1 ≤ n ∧
     n ≤ 9) ∧
    /- clause 6 -/
    (let fn : Nat := 9
     let off : Nat := 0xFFC
     let s : State := State.reset
     fn < 10 ∧
     off % 4 = 0 ∧
     off < 4096 ∧
     s.pci.answers = false) ∧
    /- clause 7 -/
    (let fn : Nat := 9
     let off : Nat := 0xFFC
     let s : State := up
     fn < 10 ∧
     off % 4 = 0 ∧
     off < 4096 ∧
     s.pci.answers = true) ∧
    /- clause 8 -/
    (let fn : Nat := 9
     let off : Nat := 0xFFC
     let s : State := up
     fn < 10 ∧
     off % 4 = 0 ∧
     off < 4096 ∧
     s.pci.answers = true ∧
     cfgFixed s fn off = none) :=
  ⟨by decide +kernel, by decide +kernel, by decide +kernel, by decide +kernel⟩

/-- QueueControlRule: every clause with hypotheses. -/
theorem test_wit_QueueControlRule :
    /- clause 0 -/
    (let fn : Nat := 1
     let scope : Nat := 0
     let queue : Nat := 0
     let s : State := withF up [(rCmdQStatus 0 0, fCmdQStatusState, 0), (rCmdCq 0 0, fCmdCqBase, 0x2000)]
     scope ≤ 8 ∧
     queue < 64 ∧
     s.lnt.heldCode = none ∧
     queue < scopeQueues s scope ∧
     queueWriter s fn scope queue = true ∧
     let st := rCmdQStatus scope queue
     getF s st fCmdQStatusState = 0 ∧
     enableOk s scope queue = true) ∧
    /- clause 1 -/
    (let fn : Nat := 0
     let scope : Nat := 0
     let queue : Nat := 0
     let s : State := withF up [(rCmdQStatus 0 0, fCmdQStatusState, 1), (rCmdCq 0 0, fCmdCqBase, 0x2000)]
     scope ≤ 8 ∧
     queue < 64 ∧
     s.lnt.heldCode = none ∧
     queue < scopeQueues s scope ∧
     queueWriter s fn scope queue = true ∧
     let st := rCmdQStatus scope queue
     getF s st fCmdQStatusState ≠ 0) ∧
    /- clause 2 -/
    (let fn : Nat := 0
     let scope : Nat := 0
     let queue : Nat := 3
     let s : State := up
     scope ≤ 8 ∧
     queue < 64 ∧
     s.lnt.heldCode = none ∧
     queue < scopeQueues s scope ∧
     queueWriter s fn scope queue = true ∧
     queueIdle s scope queue = true) ∧
    /- clause 3 -/
    (let fn : Nat := 0
     let scope : Nat := 0
     let queue : Nat := 0
     let s : State := having up 0 {}
     scope ≤ 8 ∧
     queue < 64 ∧
     s.lnt.heldCode = none ∧
     queue < scopeQueues s scope ∧
     queueWriter s fn scope queue = true ∧
     queueIdle s scope queue = false) ∧
    /- clause 4 -/
    (let fn : Nat := 0
     let scope : Nat := 8
     let queue : Nat := 7
     let s : State := withF up [(rCmdQStatus 8 7, fCmdQStatusState, 2)]
     scope ≤ 8 ∧
     queue < 64 ∧
     s.lnt.heldCode = none ∧
     queueWriter s fn scope queue = true ∧
     getF s (rCmdQStatus scope queue) fCmdQStatusState = 2) ∧
    /- clause 5 -/
    (let fn : Nat := 0
     let scope : Nat := 0
     let queue : Nat := 0
     let head : Nat := 15
     let s : State := withF up [(rCmdQStatus 0 0, fCmdQStatusState, 3), (rCmdCq 0 0, fCmdCqBase, 0x2000)]
     scope ≤ 8 ∧
     queue < 64 ∧
     s.lnt.heldCode = none ∧
     queueWriter s fn scope queue = true ∧
     getF s (rCmdQStatus scope queue) fCmdQStatusState = 3 ∧
     head < ringSize s scope queue) ∧
    /- clause 6 -/
    (let fn : Nat := 2
     let scope : Nat := 0
     let queue : Nat := 0
     let s : State := up
     scope ≤ 8 ∧
     queue < 64 ∧
     s.lnt.heldCode = none ∧
     queueWriter s fn scope queue = false) ∧
    /- clause 8 -/
    (let scope : Nat := 8
     let queue : Nat := 63
     let s : State := { up with lnt := { up.lnt with heldCode := some 5 } }
     scope ≤ 8 ∧
     queue < 64 ∧
     s.lnt.heldCode ≠ none) :=
  ⟨by decide +kernel, by decide +kernel, by decide +kernel, by decide +kernel, by decide +kernel, by decide +kernel,
    by decide +kernel, by decide +kernel⟩

/-- IntakeAndCompletion: every clause with hypotheses. -/
theorem test_wit_IntakeAndCompletion :
    /- clause 0 -/
    (let scope : Nat := 0
     let queue : Nat := 0
     let s : State := setQ up 0 0 { getQ up 0 0 with sqTail := 1 }
     scope ≤ 8 ∧
     queue < 64 ∧
     queue < scopeQueues s scope ∧
     getF s (rCmdQStatus scope queue) fCmdQStatusState = 1 ∧
     fetches s scope = true ∧
     getF s (rCmdQStatus scope queue) fCmdQStatusSqHead ≠ (getQ s scope queue).sqTail ∧
     journalUsed s scope < journalSize s scope) ∧
    /- clause 1 -/
    (let scope : Nat := 8
     let queue : Nat := 0
     let s : State := setQ (withF up ((List.range 24).map fun c => (rUndChanStatus c, fUndChanStatusState, 2))) 8 0 { sqTail := 1, cmds := List.replicate 256 {} }
     scope ≤ 8 ∧
     queue < 64 ∧
     queue < scopeQueues s scope ∧
     getF s (rCmdQStatus scope queue) fCmdQStatusState = 1 ∧
     fetches s scope = true ∧
     getF s (rCmdQStatus scope queue) fCmdQStatusSqHead ≠ (getQ s scope queue).sqTail ∧
     journalSize s scope ≤ journalUsed s scope) ∧
    /- clause 2 -/
    (let r : CmdRef := r0
     let c : Cmd := { opcode := 0x31, st := .ended }
     let s : State := having up 0 { opcode := 0x31, st := .ended }
     r.scope ≤ 8 ∧
     r.queue < 64 ∧
     findCmd s r = some c ∧
     c.st = .ended ∧
     s.lnt.warm = false ∧
     s.lnt.heldCode = none ∧
     cmdUnacked s r = false ∧
     abortPending s r = false ∧
     c.opcode ≠ 0x45) :=
  ⟨by decide +kernel, by decide +kernel, by decide +kernel⟩

/-- DispatchRule: every clause with hypotheses. -/
theorem test_wit_DispatchRule :
    /- clause 0 -/
    (let op : Nat := 0x31
     let r : CmdRef := r0
     let c : Cmd := { opcode := 0x31, st := .dispatched }
     let s : State := having (up) 0 { opcode := 0x31, st := .dispatched }
     findCmd s r = some c ∧
     c.st ≠ .accepted ∨ c.opcode ≠ op ∨ isHead s r = false ∨ scopeReady s r.scope op = false) ∧
    /- clause 1 -/
    (let op : Nat := 0x31
     let r : CmdRef := ⟨0, 63, 0⟩
     let c : Cmd := { opcode := 0x31, gen := 1 }
     let s : State := setQ up 0 63 { cmds := [{ opcode := 0x31, gen := 1 }] }
     findCmd s r = some c ∧
     c.st = .accepted ∧
     c.opcode = op ∧
     isHead s r = true ∧
     scopeReady s r.scope op = true ∧
     genDiffers s r c = true ∧
     queueGone s r c = true) ∧
    /- clause 2 -/
    (let op : Nat := 0x31
     let r : CmdRef := r0
     let c : Cmd := { opcode := 0x31, depMode := 1, depQueue := 1 }
     let s : State := having (up) 0 { opcode := 0x31, depMode := 1, depQueue := 1 }
     findCmd s r = some c ∧
     c.st = .accepted ∧
     c.opcode = op ∧
     isHead s r = true ∧
     scopeReady s r.scope op = true ∧
     (genDiffers s r c && queueGone s r c) = false ∧
     depVerdict s r c = .inr ()) ∧
    /- clause 3 -/
    (let op : Nat := 0x31
     let r : CmdRef := r0
     let c : Cmd := { opcode := 0x31, depMode := 1, depQueue := 1, depSeq := 0xFFFFFFFF }
     let s : State := having (up) 0 { opcode := 0x31, depMode := 1, depQueue := 1, depSeq := 0xFFFFFFFF }
     findCmd s r = some c ∧
     c.st = .accepted ∧
     c.opcode = op ∧
     isHead s r = true ∧
     scopeReady s r.scope op = true ∧
     (genDiffers s r c && queueGone s r c) = false ∧
     let code := 0x10
     depVerdict s r c = .inl (some code)) ∧
    /- clause 4 -/
    (let op : Nat := 0x31
     let r : CmdRef := r0
     let c : Cmd := { opcode := 0x31, o0 := 1 }
     let s : State := having (up) 0 { opcode := 0x31, o0 := 1 }
     findCmd s r = some c ∧
     c.st = .accepted ∧
     c.opcode = op ∧
     isHead s r = true ∧
     scopeReady s r.scope op = true ∧
     (genDiffers s r c && queueGone s r c) = false ∧
     depVerdict s r c = .inl none ∧
     opdOk c = false) ∧
    /- clause 5 -/
    (let r : CmdRef := r8
     let c : Cmd := { opcode := 0x31 }
     let s : State := having (up) 8 { opcode := 0x31 }
     r.scope ≤ 8 ∧
     readyFor s r 0x31 c = true) ∧
    /- clause 6 -/
    (let r : CmdRef := r0
     let c : Cmd := { opcode := 0x25, o0 := 7 }
     let s : State := having (up) 0 { opcode := 0x25, o0 := 7 }
     r.scope < 8 ∧
     readyFor s r 0x25 c = true) :=
  ⟨by decide +kernel, by decide +kernel, by decide +kernel, by decide +kernel, by decide +kernel, by decide +kernel,
    by decide +kernel⟩

/-- EndingFixesOneOutcome: every clause with hypotheses. -/
theorem test_wit_EndingFixesOneOutcome :
    /- clause 0 -/
    (let s : State := having (up) 0 { opcode := 0x31 }
     let r : CmdRef := r0
     let c : Cmd := { opcode := 0x31 }
     r.queue < 64 ∧
     findCmd s r = some c ∧
     c.st = .accepted ∨ c.st = .dispatched) ∧
    /- clause 1 -/
    (let s : State := having (up) 0 { opcode := 0x31, st := .recorded }
     let r : CmdRef := r0
     let c : Cmd := { opcode := 0x31, st := .recorded }
     r.queue < 64 ∧
     findCmd s r = some c ∧
     c.st = .ended ∨ c.st = .recorded) ∧
    /- clause 2 -/
    (let s : State := having (up) 0 { opcode := 0x31 }
     let r : CmdRef := r0
     let c : Cmd := { opcode := 0x31 }
     r.queue < 64 ∧
     findCmd s r = some c ∧
     let q : CmdRef := ⟨0, 63, 0⟩
     q.queue < 64 ∧
     q ≠ r) ∧
    /- clause 3 -/
    (let s : State := having (up) 0 { opcode := 0x31 }
     let r : CmdRef := r0
     let c : Cmd := { opcode := 0x31 }
     r.queue < 64 ∧
     findCmd s r = some c) :=
  ⟨by decide +kernel, by decide +kernel, by decide +kernel, by decide +kernel⟩

/-- AbortRule: every clause with hypotheses. -/
theorem test_wit_AbortRule :
    /- clause 0 -/
    (let r : CmdRef := r0
     let c : Cmd := { opcode := 0x30, o0 := 16 }
     let s : State := having (up) 0 { opcode := 0x30, o0 := 16 }
     r.scope ≤ 8 ∧
     findCmd s r = some c ∧
     c.st = .accepted ∧
     c.opcode = 0x30 ∧
     s.lnt.warm = false ∧
     s.lnt.heldCode = none ∧
     opdOk c = false) ∧
    /- clause 1 -/
    (let r : CmdRef := r0
     let c : Cmd := { opcode := 0x30, o1 := 5 }
     let s : State := having (up) 0 { opcode := 0x30, o1 := 5 }
     r.scope ≤ 8 ∧
     findCmd s r = some c ∧
     c.st = .accepted ∧
     c.opcode = 0x30 ∧
     s.lnt.warm = false ∧
     s.lnt.heldCode = none ∧
     let t : CmdRef := ⟨bitsOf c.o0 0 4, bitsOf c.o0 8 6, c.o1⟩
     opdOk c = true ∧
     let code := 0x07
     abortVerdict s r t = some code) ∧
    /- clause 2 -/
    (let r : CmdRef := ⟨0, 0, 1⟩
     let c : Cmd := { seq := 1, opcode := 0x30 }
     let s : State := setQ up 0 0 { cmds := [{ opcode := 0x31 }, { seq := 1, opcode := 0x30 }] }
     r.scope ≤ 8 ∧
     findCmd s r = some c ∧
     c.st = .accepted ∧
     c.opcode = 0x30 ∧
     s.lnt.warm = false ∧
     s.lnt.heldCode = none ∧
     let t : CmdRef := ⟨bitsOf c.o0 0 4, bitsOf c.o0 8 6, c.o1⟩
     opdOk c = true ∧
     abortVerdict s r t = none ∧
     let u := latchRaised (markDispatched s r)
     let x := { opcode := 0x31 }
     findCmd u t = some x) :=
  ⟨by decide +kernel, by decide +kernel, by decide +kernel⟩

set_option maxRecDepth 100000 in
/-- ComputeCommandsStart: every clause with hypotheses. -/
theorem test_wit_ComputeCommandsStart :
    /- clause 0 -/
    (let r : CmdRef := r0
     let c : Cmd := { opcode := 0x01, o1 := 0x1000 }
     let ra : Nat := 0
     let cr : CacheRec := theCache
     let more : List (Nat × Nat) := []
     let s : State := having (prodState) 0 { opcode := 0x01, o1 := 0x1000 }
     let w : State := markDispatched s r
     r.scope < 8 ∧
     readyFor s r 0x01 c = true ∧
     let m := markDispatched s r
     let h := r.scope
     let n := bitsOf c.o0 0 12
     let ap := bitOf c.o0 12
     let ol := memBytes m c.o1 256
     learnOpen m h c = true ∧
     readsWell m c.o1 256 = true ∧
     ((ap = false ∧ w = m ∧ more = []) ∨
       (ap = true ∧ listGood m h c.o1 ol = true ∧ seqBusy m h [(apSeq ol, 1)] = false ∧
       appendTest m h (apSeq ol) (apLayer ol) (apPos ol) (apTok ol) = none ∧
       hallCache m h = some (ra, cr) ∧ copyStuck m cr (apSeq ol) (apLayer ol) (apPos ol) (apTok ol) = none ∧
       w = resolveAppend m ra cr (apSeq ol) (apLayer ol) (apPos ol) (apTok ol) ∧ hallCache w h = some (ra, cr) ∧
       appendOk (descOf (secEntry (secOf w.run tyLOOP h (hallVar w.run h)) 64 n)) ol cr = true ∧
       more = appendReach w cr (apSeq ol) (apLayer ol) (apPos ol) (apTok ol))) ∧
     let db := secEntry (secOf w.run tyLOOP h (hallVar w.run h)) 64 n
     let d := descOf db
     let named := (if d.saEn then [d.scaleA] else []) ++ (if d.sbEn then [d.scaleB] else [])
       ++ (if d.soEn then [d.scaleC] else [])
     let rs := prodReach d ap ol
     let ws := (rs.filter fun x => writtenEntries.contains x.1).map (fun x => natRange x.2.1 x.2.2) ++ more
     let rd := (rs.filter fun x => !writtenEntries.contains x.1).map fun x => natRange x.2.1 x.2.2
     n < hallDescs w.run h ∧
     scaleBusy w h named = false ∧
     loaderChecks w h d ap c.o1 ol = none ∧
     readsWell w c.o1 256 = true ∧
     (¬(c.pass = 1 ∧ d.func = 4 ∧ layerDeriv w.run h c.layer = false)) ∧
     (¬(c.pass = 2 ∧ layerPartial w.run h c.layer = true ∧ d.mask = false)) ∧
     (drainTables d).any (fun j => (getH w h).badTables.contains j) = false ∧
     (d.codeA = 0 ∨ readsWell w (opAddr ol 0) 64 = true) ∧
     (d.codeB = 0 ∨ readsWell w (opAddr ol 2) 64 = true) ∧
     slotLoading w h d.codeA (opAddr ol 0) = false ∧
     slotLoading w h d.codeB (opAddr ol 2) = false ∧
     operandCoded w h d ol 0 = none ∧
     operandCoded w h d ol 2 = none ∧
     slotsFull w h = false ∧
     reachOpen w h rd ws = true) ∧
    /- clause 0 -/
    (let r : CmdRef := r0
     let c : Cmd := { opcode := 0x01, o0 := 0x1000, o1 := 0x1000 }
     let ra : Nat := 0x40
     let cr : CacheRec := theCache
     let s : State := having (appState) 0 { opcode := 0x01, o0 := 0x1000, o1 := 0x1000 }
     let w : State := resolveAppend (markDispatched s r) 0x40 theCache 0 0 1 1
     let more : List (Nat × Nat) := appendReach w theCache 0 0 1 1
     r.scope < 8 ∧
     readyFor s r 0x01 c = true ∧
     let m := markDispatched s r
     let h := r.scope
     let n := bitsOf c.o0 0 12
     let ap := bitOf c.o0 12
     let ol := memBytes m c.o1 256
     learnOpen m h c = true ∧
     readsWell m c.o1 256 = true ∧
     ((ap = false ∧ w = m ∧ more = []) ∨
       (ap = true ∧ listGood m h c.o1 ol = true ∧ seqBusy m h [(apSeq ol, 1)] = false ∧
       appendTest m h (apSeq ol) (apLayer ol) (apPos ol) (apTok ol) = none ∧
       hallCache m h = some (ra, cr) ∧ copyStuck m cr (apSeq ol) (apLayer ol) (apPos ol) (apTok ol) = none ∧
       w = resolveAppend m ra cr (apSeq ol) (apLayer ol) (apPos ol) (apTok ol) ∧ hallCache w h = some (ra, cr) ∧
       appendOk (descOf (secEntry (secOf w.run tyLOOP h (hallVar w.run h)) 64 n)) ol cr = true ∧
       more = appendReach w cr (apSeq ol) (apLayer ol) (apPos ol) (apTok ol))) ∧
     let db := secEntry (secOf w.run tyLOOP h (hallVar w.run h)) 64 n
     let d := descOf db
     let named := (if d.saEn then [d.scaleA] else []) ++ (if d.sbEn then [d.scaleB] else [])
       ++ (if d.soEn then [d.scaleC] else [])
     let rs := prodReach d ap ol
     let ws := (rs.filter fun x => writtenEntries.contains x.1).map (fun x => natRange x.2.1 x.2.2) ++ more
     let rd := (rs.filter fun x => !writtenEntries.contains x.1).map fun x => natRange x.2.1 x.2.2
     n < hallDescs w.run h ∧
     scaleBusy w h named = false ∧
     loaderChecks w h d ap c.o1 ol = none ∧
     readsWell w c.o1 256 = true ∧
     (¬(c.pass = 1 ∧ d.func = 4 ∧ layerDeriv w.run h c.layer = false)) ∧
     (¬(c.pass = 2 ∧ layerPartial w.run h c.layer = true ∧ d.mask = false)) ∧
     (drainTables d).any (fun j => (getH w h).badTables.contains j) = false ∧
     (d.codeA = 0 ∨ readsWell w (opAddr ol 0) 64 = true) ∧
     (d.codeB = 0 ∨ readsWell w (opAddr ol 2) 64 = true) ∧
     slotLoading w h d.codeA (opAddr ol 0) = false ∧
     slotLoading w h d.codeB (opAddr ol 2) = false ∧
     operandCoded w h d ol 0 = none ∧
     operandCoded w h d ol 2 = none ∧
     slotsFull w h = false ∧
     reachOpen w h rd ws = true) ∧
    /- clause 1 -/
    (let r : CmdRef := r0
     let c : Cmd := { opcode := 0x02, o0 := 0x5000, o1 := 1 }
     let s : State := having (haltProg up) 0 { opcode := 0x02, o0 := 0x5000, o1 := 1 }
     r.scope < 8 ∧
     readyFor s r 0x02 c = true ∧
     let m := markDispatched s r
     let n := memNat m c.o0 4
     let b := memBytes m (c.o0 + 32) (8 * n)
     learnOpen m r.scope c = true ∧
     readsWell m c.o0 (32 + 8 * n) = true ∧
     progCheck m r.scope c.o0 = none ∧
     progBadTable m r.scope (progWords b n) = false ∧
     reachOpen m r.scope [(c.o0, 32 + 8 * n)] [] = true) ∧
    /- clause 2 -/
    (let r : CmdRef := r0
     let c : Cmd := { opcode := 0x03, o0 := 0x1000 }
     let ra : Nat := 0x40
     let k : CacheRec := theCache
     let s : State := having (attState) 0 { opcode := 0x03, o0 := 0x1000 }
     r.scope < 8 ∧
     readyFor s r 0x03 c = true ∧
     let m := markDispatched s r
     let h := r.scope
     let b := memBytes m c.o0 256
     let a := attOf b
     let named := (if a.qsEn then [a.qScale] else []) ++ (if a.osEn then [a.oScale] else [])
     let ws := [a.outReach k, a.statsReach, a.partReach k, a.rotReach k]
     learnOpen m h c = true ∧
     c.o0 % 256 = 0 ∧
     inWindow m h false c.o0 256 = true ∧
     readsWell m c.o0 256 = true ∧
     seqBusy m h [(a.seq, 2)] = false ∧
     crc32c (b.take 240) = leAt b 240 4 ∧
     scaleBusy m h named = false ∧
     attnChecks m h c.pass c.o0 a = none ∧
     hallCache m h = some (ra, k) ∧
     (a.ring = 0 ∨ blockIsolated m 2 = false) ∧
     (∀ g, attnRing m h a = some g → ctxsOpen m h [g.ctx ((g.self + 1) % g.n)] = true) ∧
     slotsFull m h = false ∧
     reachOpen m h [a.qReach k] ws = true) :=
  ⟨by decide +kernel, by decide +kernel, by decide +kernel, by decide +kernel⟩

/-- CopiesMoveTheirBytes: every clause with hypotheses. -/
theorem test_wit_CopiesMoveTheirBytes :
    /- clause 0 -/
    (let op : Nat := 0x08
     let r : CmdRef := r0
     let c : Cmd := { opcode := 0x08, o0 := 64, o1 := 0x3FFFFC0, o2 := 64, st := .dispatched }
     let s : State := having (up) 0 { opcode := 0x08, o0 := 64, o1 := 0x3FFFFC0, o2 := 64, st := .dispatched }
     (op = 0x08 ∨ op = 0x09) ∧
     r.scope < 8 ∧
     runsAs s r op c = true ∧
     cpRemote c = 0 ∧
     cpCoded c = false ∧
     cpDsts s r.scope c = [c.o1] ∧
     c.job.next = 0 ∧
     let n := cpLen c
     n % 64 = 0 ∧
     c.o0 % 64 = 0 ∧
     c.o1 % 64 = 0 ∧
     (∀ i, i < n / 64 → hallReach s r.scope false (c.o0 + 64 * i) 64 = true) ∧
     (∀ i, i < n / 64 → hallReach s r.scope true (c.o1 + 64 * i) 64 = true) ∧
     c.o0 + n ≤ hostBase ∧
     c.o1 + n ≤ hostBase ∧
     s.und.zeroing = [] ∧
     s.und.lost = [] ∧
     s.und.unplaced = [] ∧
     s.und.dead = [] ∧
     (∀ i, i < n / 64 → moverFree s r.scope (memBanks s false (c.o0 + 64 * i) 64) = true) ∧
     (∀ i, i < n / 64 → moverFree s r.scope (memBanks s true (c.o1 + 64 * i) 64) = true) ∧
     (c.o0 + n ≤ c.o1 ∨ c.o1 + n ≤ c.o0)) :=
  by decide +kernel

/-- OffloadCommands: every clause with hypotheses. -/
theorem test_wit_OffloadCommands :
    /- clause 0 -/
    (let r : CmdRef := r0
     let c : Cmd := { opcode := 0x0A, o0 := 0x400, o1 := 0x1000, o2 := 64, o3 := hostBase, o4 := 0x800 }
     let c' : Cmd := { opcode := 0x0A, o0 := 0x400, o1 := 0x1000, o2 := 64, o3 := hostBase, o4 := 0x800, st := .dispatched, order := 1, job := { reads := [(0x1000, 64)], held := [(0x1000, 64)], writes := [(0x400, 64), (0x800, 8), (hostBase, 64)] } }
     let s : State := having (withSec up tyQUOTA 0 (sec [recB 32 [(4, 4, 1)]])) 0 { opcode := 0x0A, o0 := 0x400, o1 := 0x1000, o2 := 64, o3 := hostBase, o4 := 0x800 }
     r.scope < 8 ∧
     readyFor s r 0x0A c = true ∧
     let m := markDispatched s r
     let h := r.scope
     let ws := [(c.o0, 64), (c.o4, 8 * ceilDiv c.o2 4096), (c.o3, c.o2)]
     handleFreeing m c.o0 = false ∧
     readsWell m c.o0 64 = true ∧
     unzeroed m c.o4 (8 * ceilDiv c.o2 4096) = false ∧
     offloadCheck m h c = none ∧
     hostUse m h + chargeOf c.o2 ≤ hostQuota m h ∧
     guardCount m h + 1 ≤ 64 ∧
     reachOpen m h [(c.o1, c.o2)] ws = true ∧
     let t := setF (openHandle m r c) (rUndHallHost h) fUndHallHostBytes (hostUse m h + chargeOf c.o2)
     let t := updJob t r fun j => { j with reads := [(c.o1, c.o2)], held := [(c.o1, c.o2)], writes := ws }
     findCmd t r = some c' ∧
     c'.st = .dispatched) ∧
    /- clause 1 -/
    (let r : CmdRef := r0
     let c : Cmd := { opcode := 0x0B, o0 := 0x400, o1 := 0x1000 }
     let s : State := having (stored up [(0x400, recB 64 [(0, 1, 2), (4, 4, 1), (8, 6, hostBase), (0x10, 5, 64), (0x18, 6, 0x800)]), (0x800, leBytes 4 (sealOf (zeros 8) (zeros 64) 0) ++ leBytes 4 64)]) 0 { opcode := 0x0B, o0 := 0x400, o1 := 0x1000 }
     r.scope < 8 ∧
     readyFor s r 0x0B c = true ∧
     let m := markDispatched s r
     let h := r.scope
     let p0 := (pfPages m c).1
     let n := (pfPages m c).2
     let span := pfSpan m c.o0 p0 n
     let gs := if span = 0 then [] else [(c.o1, span)]
     handleBusy m c.o0 (if bitOf c.o3 0 then [0x0A, 0x0B] else [0x0A]) = false ∧
     c.o0 % 64 = 0 ∧
     inWindowM m h c.o0 64 = true ∧
     readsWell m c.o0 64 = true ∧
     prefetchCheck m h c = none ∧
     guardWaits m h gs = false ∧
     reachOpen m h [] gs = true) ∧
    /- clause 2 -/
    (let r : CmdRef := r0
     let page : Nat := 0
     let c : Cmd := { opcode := 0x0B, o0 := 0x400, o1 := 0x1000, st := .dispatched, job := { total := 1 } }
     let s : State := having (stored up [(0x400, recB 64 [(0, 1, 2), (4, 4, 1), (8, 6, hostBase), (0x10, 5, 64), (0x18, 6, 0x800)]), (0x800, leBytes 4 (sealOf (zeros 8) (zeros 64) 0) ++ leBytes 4 64)]) 0 { opcode := 0x0B, o0 := 0x400, o1 := 0x1000, st := .dispatched, job := { total := 1 } }
     r.scope < 8 ∧
     runsAs s r 0x0B c = true ∧
     let p0 := (pfPages s c).1
     let n := (pfPages s c).2
     let bytes := memBytes s (hdHost s c.o0 + 4096 * (p0 + page)) (pageBytes s c.o0 (p0 + page))
     pageWanted s r.scope c n page = true ∧
     hostOpen s = true ∧
     sealOf (hdTag s c.o0) bytes (p0 + page) = memNat s (hdSeal s c.o0 + 8 * (p0 + page)) 4) ∧
    /- clause 3 -/
    (let r : CmdRef := r0
     let page : Nat := 0
     let c : Cmd := { opcode := 0x0B, o0 := 0x400, o1 := 0x1000, st := .dispatched, job := { total := 1 } }
     let s : State := having (stored up [(0x400, recB 64 [(0, 1, 2), (4, 4, 1), (8, 6, hostBase), (0x10, 5, 64), (0x18, 6, 0x800)]), (0x800, leBytes 4 (sealOf (zeros 8) (zeros 64) 0 + 1) ++ leBytes 4 64)]) 0 { opcode := 0x0B, o0 := 0x400, o1 := 0x1000, st := .dispatched, job := { total := 1 } }
     r.scope < 8 ∧
     runsAs s r 0x0B c = true ∧
     let p0 := (pfPages s c).1
     let n := (pfPages s c).2
     let bytes := memBytes s (hdHost s c.o0 + 4096 * (p0 + page)) (pageBytes s c.o0 (p0 + page))
     pageWanted s r.scope c n page = true ∧
     hostOpen s = true ∧
     sealOf (hdTag s c.o0) bytes (p0 + page) ≠ memNat s (hdSeal s c.o0 + 8 * (p0 + page)) 4) ∧
    /- clause 4 -/
    (let r : CmdRef := r0
     let c : Cmd := { opcode := 0x0C, o0 := 0x400 }
     let s : State := having (stored up [(0x400, recB 64 [(0, 1, 2), (4, 4, 1), (8, 6, hostBase), (0x10, 5, 64), (0x18, 6, 0x800)]), (0x800, leBytes 4 (sealOf (zeros 8) (zeros 64) 0) ++ leBytes 4 64)]) 0 { opcode := 0x0C, o0 := 0x400 }
     r.scope < 8 ∧
     readyFor s r 0x0C c = true ∧
     let m := markDispatched s r
     handleBusy m c.o0 [0x0A, 0x0B] = false ∧
     c.o0 % 64 = 0 ∧
     windowMW m r.scope c.o0 64 = true ∧
     readsWell m c.o0 64 = true ∧
     (hdState m c.o0 = 2 ∨ hdState m c.o0 = 3) ∧
     reachOpen m r.scope [] [(c.o0, 64)] = true) :=
  ⟨by decide +kernel, by decide +kernel, by decide +kernel, by decide +kernel, by decide +kernel⟩

/-- CacheCommands: every clause with hypotheses. -/
theorem test_wit_CacheCommands :
    /- clause 0 -/
    (let r : CmdRef := r0
     let c : Cmd := { opcode := 0x10, o0 := 0x40 }
     let s : State := having (stored up [(0x40, cacheB)]) 0 { opcode := 0x10, o0 := 0x40 }
     r.scope < 8 ∧
     readyFor s r 0x10 c = true ∧
     let m := markDispatched s r
     let h := r.scope
     let b := memBytes m c.o0 64
     let k := cacheOf b
     windowMW m h c.o0 64 = true ∧
     readsWell m c.o0 64 = true ∧
     crc32c (b.take 0x28) = leAt b 0x38 4 ∧
     cacheFieldsOk b = true ∧
     windowMW m h k.atab (8 * k.alcoves) = true ∧
     windowMW m h k.seqTab 4194304 = true ∧
     inWindow m h true k.pool (k.alcoves * k.bytes) = true ∧
     anySeqOpen m h = false ∧
     seqBusy m h ((List.range 65536).map fun n => (n, 1)) = false ∧
     reachOpen m h [] [(c.o0, 64), (k.atab, 8 * k.alcoves), (k.seqTab, 4194304)] = true) ∧
    /- clause 1 -/
    (let r : CmdRef := r0
     let c : Cmd := { opcode := 0x11, o0 := 1, o1 := 0x400000, o2 := 64 }
     let ra : Nat := 0x40
     let k : CacheRec := theCache
     let s : State := having (cached) 0 { opcode := 0x11, o0 := 1, o1 := 0x400000, o2 := 64 }
     r.scope < 8 ∧
     let m := markDispatched s r
     hallCache m r.scope = some (ra, k) ∧
     readsWell m ra 64 = true ∧
     seqBusy m r.scope (seqUses c) = false ∧
     readyFor s r 0x11 c = true ∧
     ptFields c.o1 (bitsOf c.o2 0 17) = true ∧
     seqOpen m k (bitsOf c.o0 0 16) = false ∧
     ptPlaced m r.scope k c.o1 (bitsOf c.o2 0 17) = true ∧
     reachOpen m r.scope [] [(c.o1, k.layers * ptStride (bitsOf c.o2 0 17))] = true) ∧
    /- clause 2 -/
    (let r : CmdRef := r0
     let c : Cmd := { opcode := 0x12, o0 := 1 + 2 ^ 32, o1 := 0x400000, o2 := 1 }
     let ra : Nat := 0x40
     let k : CacheRec := theCache
     let s : State := having (cached) 0 { opcode := 0x12, o0 := 1 + 2 ^ 32, o1 := 0x400000, o2 := 1 }
     r.scope < 8 ∧
     let m := markDispatched s r
     hallCache m r.scope = some (ra, k) ∧
     readsWell m ra 64 = true ∧
     seqBusy m r.scope (seqUses c) = false ∧
     readyFor s r 0x12 c = true ∧
     let child := bitsOf c.o0 0 16
     let parent := bitsOf c.o0 16 16
     let len := bitsOf c.o0 32 32
     let pages := bitsOf c.o2 0 17
     ptFields c.o1 pages = true ∧
     seqOpen m k parent = true ∧
     seqOpen m k child = false ∧
     (List.range k.layers).all (fun l => len ≤ layerLen m k parent l) = true ∧
     ceilDiv len 256 ≤ pages ∧
     ptPlaced m r.scope k c.o1 pages = true ∧
     reachOpen m r.scope [] [(c.o1, k.layers * ptStride pages)] = true) ∧
    /- clause 3 -/
    (let r : CmdRef := r0
     let c : Cmd := { opcode := 0x13 }
     let ra : Nat := 0x40
     let k : CacheRec := theCache
     let s : State := having (cached) 0 { opcode := 0x13 }
     r.scope < 8 ∧
     let m := markDispatched s r
     hallCache m r.scope = some (ra, k) ∧
     readsWell m ra 64 = true ∧
     seqBusy m r.scope (seqUses c) = false ∧
     readyFor s r 0x13 c = true ∧
     seqOpen m k (bitsOf c.o0 0 16) = true) ∧
    /- clause 4 -/
    (let r : CmdRef := r0
     let c : Cmd := { opcode := 0x14 }
     let ra : Nat := 0x40
     let k : CacheRec := theCache
     let s : State := having (cached) 0 { opcode := 0x14 }
     r.scope < 8 ∧
     let m := markDispatched s r
     hallCache m r.scope = some (ra, k) ∧
     readsWell m ra 64 = true ∧
     seqBusy m r.scope (seqUses c) = false ∧
     readyFor s r 0x14 c = true ∧
     seqOpen m k (bitsOf c.o0 0 16) = true) ∧
    /- clause 5 -/
    (let r : CmdRef := r0
     let c : Cmd := { opcode := 0x15, o0 := 2 ^ 32, o1 := 0x10000, o2 := 1 + 2 ^ 32 }
     let ra : Nat := 0x40
     let k : CacheRec := theCache
     let s : State := having (cached) 0 { opcode := 0x15, o0 := 2 ^ 32, o1 := 0x10000, o2 := 1 + 2 ^ 32 }
     r.scope < 8 ∧
     let m := markDispatched s r
     hallCache m r.scope = some (ra, k) ∧
     readsWell m ra 64 = true ∧
     seqBusy m r.scope (seqUses c) = false ∧
     let c' : Cmd := { opcode := 0x15, o0 := 2 ^ 32, o1 := 0x10000, o2 := 1 + 2 ^ 32, st := .dispatched, order := 1, job := { reads := [(0x10000, acSpan theCache { opcode := 0x15, o0 := 2 ^ 32, o1 := 0x10000, o2 := 1 + 2 ^ 32 })], writes := [(0x1000000, 131072)] } }
     readyFor s r 0x15 c = true ∧
     appendTest m r.scope (acSeq c) (acLayer c) (acPos c) (acTok c) = none ∧
     inWindow m r.scope false c.o1 (min 64 (acSpan k c)) = true ∧
     reachOpen m r.scope [(c.o1, acSpan k c)] (appendReach m k (acSeq c) (acLayer c) (acPos c) (acTok c)) = true ∧
     let t := resolveAppend m ra k (acSeq c) (acLayer c) (acPos c) (acTok c)
     let t := updJob t r fun j => { j with
       reads := [(c.o1, acSpan k c)], writes := appendReach t k (acSeq c) (acLayer c) (acPos c) (acTok c) }
     findCmd t r = some c' ∧
     c'.st = .dispatched) :=
  ⟨by decide +kernel, by decide +kernel, by decide +kernel, by decide +kernel, by decide +kernel, by decide +kernel⟩

set_option maxRecDepth 100000 in
/-- CodeTableCommands: every clause with hypotheses. -/
theorem test_wit_CodeTableCommands :
    /- clause 0 -/
    (let r : CmdRef := r0
     let c : Cmd := { opcode := 0x18, o0 := 0x1000, o1 := 64, o2 := 0x2000, o3 := 64 }
     let c' : Cmd := { opcode := 0x18, o0 := 0x1000, o1 := 64, o2 := 0x2000, o3 := 64, st := .dispatched, order := 1, job := { reads := [(0x1000, 64)], writes := [(0x2000, 64)] } }
     let s : State := having (withF up [(rUndXtabSlot 0 0, fUndXtabSlotState, 2)]) 0 { opcode := 0x18, o0 := 0x1000, o1 := 64, o2 := 0x2000, o3 := 64 }
     r.scope < 8 ∧
     readyFor s r 0x18 c = true ∧
     let m := markDispatched s r
     let h := r.scope
     let st := getF m (rUndXtabSlot h (eeSlot c)) fUndXtabSlotState
     let ws := (c.o2, c.o3) :: (if c.o4 = 0 then [] else [(c.o4, 1024)])
     (st = 2 ∨ st = 3) ∧
     eeLen c % 64 = 0 ∧
     c.o2 % 64 = 0 ∧
     (inWindow m h false c.o0 (eeLen c) = true ∨ inExplicit m h c.o0 (eeLen c) = true) ∧
     inWindow m h true c.o2 c.o3 = true ∧
     (c.o4 = 0 ∨ inWindow m h true c.o4 1024 = true) ∧
     inEnc m c.o0 (eeLen c) = false ∧
     inEnc m c.o2 c.o3 = false ∧
     reachOpen m h [(c.o0, eeLen c)] ws = true ∧
     let t := updJob (killHeader m c.o2 c.o3) r fun j => { j with reads := [(c.o0, eeLen c)], writes := ws }
     findCmd t r = some c' ∧
     c'.st = .dispatched) ∧
    /- clause 1 -/
    (let r : CmdRef := r0
     let c : Cmd := { opcode := 0x19, o0 := 0x1000, o1 := 0xF }
     let i : Nat := 0
     let s : State := having (stored up [(0x1000, let b := recB 192 [(16, 1, 1), (144, 1, 1)]; b.take 4 ++ leBytes 4 (crc32c ((b.drop 16).take 176)) ++ b.drop 8)]) 0 { opcode := 0x19, o0 := 0x1000, o1 := 0xF }
     r.scope < 8 ∧
     readyFor s r 0x19 c = true ∧
     let m := markDispatched s r
     let h := r.scope
     let tab := memBytes m c.o0 192
     let rep := bitsOf c.o1 0 4
     inWindow m h false c.o0 192 = true ∧
     readsWell m c.o0 192 = true ∧
     ctCrcOk tab = true ∧
     ctOk tab false = true ∧
     (rep = 0xF ∨ (rep < 4 ∧ (slotStates m h).getD rep 0 = 2)) ∧
     inEnc m c.o0 192 = false ∧
     (List.range 4).find? (fun j => (slotStates m h).getD j 0 = 0) = some i ∧
     reachOpen m h [(c.o0, 192)] [] = true) ∧
    /- clause 2 -/
    (let r : CmdRef := r0
     let c : Cmd := { opcode := 0x1A }
     let s : State := having (withF up [(rUndXtabSlot 0 0, fUndXtabSlotState, 2)]) 0 { opcode := 0x1A }
     r.scope < 8 ∧
     readyFor s r 0x1A c = true ∧
     let m := markDispatched s r
     getF m (rUndXtabSlot r.scope (bitsOf c.o0 0 2)) fUndXtabSlotState = 2) ∧
    /- clause 3 -/
    (let r : CmdRef := r0
     let c : Cmd := { opcode := 0x1B, o0 := 0x1000 + 2 ^ 48, o1 := 1 + 2 ^ 37, o2 := 64, o3 := 0x2000 + 2 * 2 ^ 48 + 2 ^ 53, o4 := 0x200000 }
     let s : State := having (up) 0 { opcode := 0x1B, o0 := 0x1000 + 2 ^ 48, o1 := 1 + 2 ^ 37, o2 := 64, o3 := 0x2000 + 2 * 2 ^ 48 + 2 ^ 53, o4 := 0x200000 }
     r.scope < 8 ∧
     readyFor s r 0x1B c = true ∧
     let m := markDispatched s r
     let h := r.scope
     let sc := pkTiles c * pkSlot c
     learnOpen m h c = true ∧
     (pkFmt c = 2 ∨ pkFmt c = 3) ∧
     1 ≤ pkRank c ∧
     pkRank c ≤ 32 ∧
     pkIter c ≤ 4 ∧
     threshOk (pkThresh c) = true ∧
     pkRowBytes c % 64 = 0 ∧
     2 * pkCols c ≤ pkRowBytes c ∧
     pkDst c % 64 = 0 ∧
     (inWindow m h false (pkSrc c) (pkSpan c) = true ∨ inExplicit m h (pkSrc c) (pkSpan c) = true) ∧
     inWindow m h true (pkDst c) (pkCap c) = true ∧
     (inWindow m h true c.o4 sc = true ∨ inExplicit m h c.o4 sc = true) ∧
     inEnc m (pkSrc c) (pkSpan c) = false ∧
     inEnc m (pkDst c) (pkCap c) = false ∧
     inEnc m c.o4 sc = false ∧
     slotsFull m h = false ∧
     reachOpen m h [(pkSrc c, pkSpan c)] [(pkDst c, pkCap c), (c.o4, sc)] = true) ∧
    /- clause 4 -/
    (let r : CmdRef := r0
     let c : Cmd := { opcode := 0x1B, o0 := 0x1000 + 2 ^ 48, o1 := 1 + 2 ^ 37, o2 := 64, o3 := 0x2000 + 2 * 2 ^ 48 + 2 ^ 53, o4 := 0x200000, st := .dispatched, job := { total := 1, done := [0] } }
     let s : State := having (stored up [(0x2044, leBytes 4 1)]) 0 { opcode := 0x1B, o0 := 0x1000 + 2 ^ 48, o1 := 1 + 2 ^ 37, o2 := 64, o3 := 0x2000 + 2 * 2 ^ 48 + 2 ^ 53, o4 := 0x200000, st := .dispatched, job := { total := 1, done := [0] } }
     r.scope < 8 ∧
     runsAs s r 0x1B c = true ∧
     c.job.total ≤ c.job.done.length ∧
     let tiles := (List.range c.job.total).map fun t =>
       let x := memNat s (pkDst c + 64 + 8 * t) 8
       (bitOf x 48, bitsOf x 32 16)
     let units := (tiles.map (·.2)).foldl (· + ·) 0
     let hd : CHdr := ⟨pkDst c, 2, pkFmt c, 0, 0, pkTiles c, pkSpan c, pkRows c, pkCols c, pkRowBytes c, pkRank c, 64 * units⟩
     hd.endA - hd.addr ≤ pkCap c ∧
     64 + 8 * pkTiles c ≤ pkCap c) ∧
    /- clause 5 -/
    (let r : CmdRef := r0
     let c : Cmd := { opcode := 0x1B, o0 := 0x1000, o1 := 1 + 2 ^ 37, o2 := 64, o3 := 0x2000 + 2 * 2 ^ 48 + 2 ^ 53, o4 := 0x200000, st := .dispatched, job := { total := 1, done := [0] } }
     let s : State := having (stored up [(0x2044, leBytes 4 1)]) 0 { opcode := 0x1B, o0 := 0x1000, o1 := 1 + 2 ^ 37, o2 := 64, o3 := 0x2000 + 2 * 2 ^ 48 + 2 ^ 53, o4 := 0x200000, st := .dispatched, job := { total := 1, done := [0] } }
     r.scope < 8 ∧
     runsAs s r 0x1B c = true ∧
     c.job.total ≤ c.job.done.length ∧
     let tiles := (List.range c.job.total).map fun t =>
       let x := memNat s (pkDst c + 64 + 8 * t) 8
       (bitOf x 48, bitsOf x 32 16)
     let units := (tiles.map (·.2)).foldl (· + ·) 0
     let hd : CHdr := ⟨pkDst c, 2, pkFmt c, 0, 0, pkTiles c, pkSpan c, pkRows c, pkCols c, pkRowBytes c, pkRank c, 64 * units⟩
     pkCap c < hd.endA - hd.addr ∨ pkCap c < 64 + 8 * pkTiles c) ∧
    /- clause 6 -/
    (let r : CmdRef := r0
     let mv : Move := ⟨none, none⟩
     let c : Cmd := { opcode := 0x1C, o0 := 0x1000, o1 := 0x2000 }
     let c' : Cmd := { opcode := 0x1C, o0 := 0x1000, o1 := 0x2000, st := .dispatched, order := 1, job := { total := 1, reads := [(0x1000, 192)], writes := [(0x2000, 64)] } }
     let s : State := having (stored up [(0x1000, chdrBytes ⟨0x1000, 2, 2, 0, 0, 1, 64, 1, 32, 64, 1, 64⟩ 0), (0x1044, leBytes 4 1)]) 0 { opcode := 0x1C, o0 := 0x1000, o1 := 0x2000 }
     r.scope < 8 ∧
     readyFor s r 0x1C c = true ∧
     mv.err = none ∧
     let m := markDispatched s r
     let h := r.scope
     let place (a n : Nat) : Bool := inWindow m h false a n || inHost a n
     let hd := chdrOf c.o0 (memBytes m c.o0 64)
     place c.o0 64 = true ∧
     readsWell m c.o0 64 = true ∧
     (hd.kind = 1 → slotLoading m h 1 c.o0 = false) ∧
     codedCheck m h (if hd.kind = 2 then 2 else 1) (if hd.kind = 2 ∧ hd.fmt = 3 then 3 else 2) c.o0 place (fun _ => true) = none ∧
     (inWindow m h true c.o1 hd.rawLen = true ∨ inExplicit m h c.o1 hd.rawLen = true) ∧
     inEnc m c.o1 hd.rawLen = false ∧
     reachOpen m h [(c.o0, hd.endA - hd.addr)] [(c.o1, hd.rawLen)] = true ∧
     let aux := if hd.kind = 1 then [hd.slot, hd.blocks] else []
     let t := updJob (queueSlots h aux m) r fun j =>
       { j with total := if hd.kind = 2 then hd.blocks else 0, uses := aux
                reads := [(c.o0, hd.endA - hd.addr)], writes := [(c.o1, hd.rawLen)] }
     findCmd t r = some c' ∧
     c'.st = .dispatched ∧
     hd.kind ≠ 2 ∨ hd.blocks ≠ 0) ∧
    /- clause 7 -/
    (let r : CmdRef := r0
     let mv : Move := ⟨none, none⟩
     let c : Cmd := { opcode := 0x1C, o0 := 0x1000, o1 := 0x2000 }
     let c' : Cmd := { opcode := 0x1C, o0 := 0x1000, o1 := 0x2000, st := .dispatched, order := 1, job := { total := 0, reads := [(0x1000, 64)], writes := [(0x2000, 0)] } }
     let s : State := having (stored up [(0x1000, chdrBytes ⟨0x1000, 2, 2, 0, 0, 0, 0, 0, 0, 0, 1, 0⟩ 0)]) 0 { opcode := 0x1C, o0 := 0x1000, o1 := 0x2000 }
     r.scope < 8 ∧
     readyFor s r 0x1C c = true ∧
     mv.err = none ∧
     let m := markDispatched s r
     let h := r.scope
     let place (a n : Nat) : Bool := inWindow m h false a n || inHost a n
     let hd := chdrOf c.o0 (memBytes m c.o0 64)
     place c.o0 64 = true ∧
     readsWell m c.o0 64 = true ∧
     (hd.kind = 1 → slotLoading m h 1 c.o0 = false) ∧
     codedCheck m h (if hd.kind = 2 then 2 else 1) (if hd.kind = 2 ∧ hd.fmt = 3 then 3 else 2) c.o0 place (fun _ => true) = none ∧
     (inWindow m h true c.o1 hd.rawLen = true ∨ inExplicit m h c.o1 hd.rawLen = true) ∧
     inEnc m c.o1 hd.rawLen = false ∧
     reachOpen m h [(c.o0, hd.endA - hd.addr)] [(c.o1, hd.rawLen)] = true ∧
     let aux := if hd.kind = 1 then [hd.slot, hd.blocks] else []
     let t := updJob (queueSlots h aux m) r fun j =>
       { j with total := if hd.kind = 2 then hd.blocks else 0, uses := aux
                reads := [(c.o0, hd.endA - hd.addr)], writes := [(c.o1, hd.rawLen)] }
     findCmd t r = some c' ∧
     c'.st = .dispatched ∧
     hd.kind = 2 ∧
     hd.blocks = 0) :=
  ⟨by decide +kernel, by decide +kernel, by decide +kernel, by decide +kernel, by decide +kernel, by decide +kernel,
    by decide +kernel, by decide +kernel⟩

/-- CollectivesAndUpdatesStart: every clause with hypotheses. -/
theorem test_wit_CollectivesAndUpdatesStart :
    /- clause 0 -/
    (let r : CmdRef := r0
     let c : Cmd := { opcode := 0x20, o0 := 0x1000 }
     let g : Ring := ring1 1 0
     let s : State := having (stored (ringOn up 1 0) [(0x1000, sealed 124 (collRec 2 64))]) 0 { opcode := 0x20, o0 := 0x1000 }
     r.scope < 8 ∧
     readyFor s r 0x20 c = true ∧
     let m := markDispatched s r
     let h := r.scope
     let b := memBytes m c.o0 128
     let src := clReads m h b
     let recv := clRecvRange b g
     let ret := (clRetain b, if clKind b = 2 then 0 else clRetainLen b)
     let gs := if clKind b = 2 && inExplicit m h recv.1 recv.2 then [recv] else []
     c.o0 % 128 = 0 ∧
     inWindow m h false c.o0 128 = true ∧
     readsWell m c.o0 128 = true ∧
     crc32c (b.take 124) = leAt b 124 4 ∧
     (¬(clKind b < 2 ∧ (layerFrozen m.run h (clLayer b) = true ∨ hallGenerates m.run h = true))) ∧
     clFieldsOk m h b = true ∧
     ringAt m.run h (clRing b) = some g ∧
     scaleBusy m h (clNamed b) = false ∧
     clChecks m h b g = none ∧
     ctxsOpen m h (clCtxs b g) = true ∧
     guardWaits m h gs = false ∧
     reachOpen m h [src] [recv, ret] = true ∧
     (clKind b = 2 → readsStuck m (gatherSpans m h b g).1 = none ∧ writesStuck m (gatherSpans m h b g).2 = none)) ∧
    /- clause 1 -/
    (let r : CmdRef := r0
     let c : Cmd := { opcode := 0x20, st := .dispatched }
     let s : State := having (up) 0 { opcode := 0x20, st := .dispatched }
     r.scope < 8 ∧
     runsAs s r 0x20 c = true) ∧
    /- clause 2 -/
    (let r : CmdRef := r0
     let c : Cmd := { opcode := 0x21, o0 := 0x1000 }
     let x : Coll := theColl
     let g : Ring := ring1 1 0
     let s : State := having (withColl (haltProg (stored (ringOn up 1 0) [(0x1000, sealed 60 (updRec 0 0))]))) 0 { opcode := 0x21, o0 := 0x1000 }
     r.scope < 8 ∧
     readyFor s r 0x21 c = true ∧
     let m := markDispatched s r
     let h := r.scope
     let b := memBytes m c.o0 64
     let e := hallEpoch m h
     let role := ouRole b
     let n := memNat m (ouProg b) 4
     let pb := if role = 0 then memBytes m (ouProg b + 32) (8 * n) else []
     let far := (match g.backer (ouShard b) with | some q => if role = 0 then [g.ctx q] else [] | none => [])
       ++ (if ouRefetch b then ((keepers x (ouShard b)).filter (· ≠ g.self)).map g.ctx else [])
     let rw := ouReach b x g e
     c.o0 % 64 = 0 ∧
     inWindow m h false c.o0 64 = true ∧
     readsWell m c.o0 64 = true ∧
     crc32c (b.take 60) = leAt b 60 4 ∧
     layerFrozen m.run h (ouLayer b) = false ∧
     hallGenerates m.run h = false ∧
     ouFieldsOk m h b = true ∧
     ouColl m h b = some (x, g) ∧
     ouReachOk m h b x g e = true ∧
     (role = 0 → progCheck m h (ouProg b) = none) ∧
     progBadTable m h (progWords pb n) = false ∧
     ctxsOpen m h far = true ∧
     (role = 0 → slotsFull m h = false) ∧
     reachOpen m h rw.1 rw.2 = true) ∧
    /- clause 3 -/
    (let r : CmdRef := r0
     let c : Cmd := { opcode := 0x21, st := .dispatched }
     let s : State := having (up) 0 { opcode := 0x21, st := .dispatched }
     r.scope < 8 ∧
     runsAs s r 0x21 c = true) :=
  ⟨by decide +kernel, by decide +kernel, by decide +kernel, by decide +kernel⟩

/-- StepCommands: every clause with hypotheses. -/
theorem test_wit_StepCommands :
    /- clause 0 -/
    (let r : CmdRef := r0
     let c : Cmd := { opcode := 0x22, o0 := 2 ^ 32, o1 := 0x1000, o2 := 2 }
     let s : State := having (ringOn up 4 0) 0 { opcode := 0x22, o0 := 2 ^ 32, o1 := 0x1000, o2 := 2 }
     r.scope < 8 ∧
     readyFor s r 0x22 c = true ∧
     let m := markDispatched s r
     let h := r.scope
     let n := bitsOf c.o2 0 13
     let table := memBytes m c.o1 (8 * n)
     scRing c = (match commitRing m.run h with | some g => g.num | none => 0) ∧
     (hallCommits m h).any (fun p => p.1 ≠ r) = false ∧
     (scEpoch c = hallEpoch m h ∨ (scResume c = true ∧ (appliedFor m h (scEpoch c)).isSome = true)) ∧
     n ≤ 4096 ∧
     (0 < n → inWindow m h false c.o1 (8 * n) = true) ∧
     readsWell m c.o1 (8 * n) = true ∧
     (List.range n).all (fun t => leAt table (8 * t + 6) 2 ≤ 1) = true ∧
     (tableScales table).all (fun x => seValid m (scaleAddr h x)) = true ∧
     scaleBusy m h (tableScales table) = false ∧
     let t := updJob m r fun j => { j with rec1 := table, aux := [0] }
     commitReaches t h c = true) ∧
    /- clause 1 -/
    (let r : CmdRef := r0
     let c : Cmd := { opcode := 0x22, o0 := 2 ^ 32, o1 := 0x1000, o2 := 2 }
     let s : State := having (setCtx (ringOn up 4 0) 1 {}) 0 { opcode := 0x22, o0 := 2 ^ 32, o1 := 0x1000, o2 := 2 }
     r.scope < 8 ∧
     readyFor s r 0x22 c = true ∧
     let m := markDispatched s r
     let h := r.scope
     let n := bitsOf c.o2 0 13
     let table := memBytes m c.o1 (8 * n)
     scRing c = (match commitRing m.run h with | some g => g.num | none => 0) ∧
     (hallCommits m h).any (fun p => p.1 ≠ r) = false ∧
     (scEpoch c = hallEpoch m h ∨ (scResume c = true ∧ (appliedFor m h (scEpoch c)).isSome = true)) ∧
     n ≤ 4096 ∧
     (0 < n → inWindow m h false c.o1 (8 * n) = true) ∧
     readsWell m c.o1 (8 * n) = true ∧
     (List.range n).all (fun t => leAt table (8 * t + 6) 2 ≤ 1) = true ∧
     (tableScales table).all (fun x => seValid m (scaleAddr h x)) = true ∧
     scaleBusy m h (tableScales table) = false ∧
     let t := updJob m r fun j => { j with rec1 := table, aux := [0] }
     commitReaches t h c = false) ∧
    /- clause 2 -/
    (let r : CmdRef := r0
     let c : Cmd := { opcode := 0x23 }
     let s : State := having (withSec up tyRING 0 (sec soloRecs)) 0 { opcode := 0x23 }
     r.scope < 8 ∧
     readyFor s r 0x23 c = true ∧
     let m := markDispatched s r
     let h := r.scope
     let e := bitsOf c.o0 0 32
     let g := (ringsOfEntries soloRecs).headD {}
     commitRing m.run h = some g ∧
     g.lead = g.self ∧
     e = hallEpoch m h ∧
     g.next g.self = g.self) ∧
    /- clause 3 -/
    (let r : CmdRef := r0
     let c : Cmd := { opcode := 0x23 }
     let s : State := having (ringOn up 4 0) 0 { opcode := 0x23 }
     r.scope < 8 ∧
     readyFor s r 0x23 c = true ∧
     let m := markDispatched s r
     let h := r.scope
     let e := bitsOf c.o0 0 32
     let g := ring1 4 0
     commitRing m.run h = some g ∧
     g.lead = g.self ∧
     e = hallEpoch m h ∧
     let t := (sendToken m none h g e (tokBody 3 false false [] 1 [])).getD m
     g.next g.self ≠ g.self ∧
     sendToken m none h g e (tokBody 3 false false [] 1 []) = some t) ∧
    /- clause 4 -/
    (let r : CmdRef := r0
     let c : Cmd := { opcode := 0x23 }
     let s : State := having (up) 0 { opcode := 0x23 }
     r.scope < 8 ∧
     readyFor s r 0x23 c = true ∧
     let m := markDispatched s r
     let h := r.scope
     let e := bitsOf c.o0 0 32
     commitRing m.run h = none ∧
     e = hallEpoch m h) ∧
    /- clause 5 -/
    (let r : CmdRef := r0
     let c : Cmd := { opcode := 0x23, o0 := 0xFFFFFFFF }
     let s : State := having (up) 0 { opcode := 0x23, o0 := 0xFFFFFFFF }
     r.scope < 8 ∧
     readyFor s r 0x23 c = true ∧
     let m := markDispatched s r
     let h := r.scope
     let e := bitsOf c.o0 0 32
     commitRing m.run h = none ∧
     e ≠ hallEpoch m h ∧
     (e + 1) % 2 ^ 32 = hallEpoch m h) ∧
    /- clause 6 -/
    (let r : CmdRef := r0
     let c : Cmd := { opcode := 0x23, o0 := 1 }
     let s : State := having (up) 0 { opcode := 0x23, o0 := 1 }
     r.scope < 8 ∧
     readyFor s r 0x23 c = true ∧
     let m := markDispatched s r
     let h := r.scope
     let e := bitsOf c.o0 0 32
     commitRing m.run h = none ∧
     e ≠ hallEpoch m h ∧
     (e + 1) % 2 ^ 32 ≠ hallEpoch m h) ∧
    /- clause 7 -/
    (let r : CmdRef := r0
     let c : Cmd := { opcode := 0x24, o0 := 5 }
     let s : State := having (up) 0 { opcode := 0x24, o0 := 5 }
     r.scope < 8 ∧
     readyFor s r 0x24 c = true ∧
     let m := markDispatched s r
     let busy := (earlierCmds m r.scope).any fun p => p.2.opcode = 0x20 || p.2.opcode = 0x21 || p.2.opcode = 0x22
     busy = false ∧
     getF m (rClsHallCommit r.scope) fClsHallCommitState ≠ 3) ∧
    /- clause 8 -/
    (let r : CmdRef := ⟨0, 0, 1⟩
     let c : Cmd := { seq := 1, opcode := 0x24 }
     let s : State := { setQ up 0 0 { cmds := [{ opcode := 0x20, st := .dispatched, order := 1 }, { seq := 1, opcode := 0x24 }] } with clock := 1 }
     r.scope < 8 ∧
     readyFor s r 0x24 c = true ∧
     let m := markDispatched s r
     let busy := (earlierCmds m r.scope).any fun p => p.2.opcode = 0x20 || p.2.opcode = 0x21 || p.2.opcode = 0x22
     busy = true ∨ getF m (rClsHallCommit r.scope) fClsHallCommitState = 3) :=
  ⟨by decide +kernel, by decide +kernel, by decide +kernel, by decide +kernel, by decide +kernel, by decide +kernel,
    by decide +kernel, by decide +kernel, by decide +kernel⟩

/-- PoolCommands: every clause with hypotheses. -/
theorem test_wit_PoolCommands :
    /- clause 0 -/
    (let r : CmdRef := r0
     let c : Cmd := { opcode := 0x26, o0 := 0x1000 }
     let s : State := having (stored (withSec up tyQUOTA 0 (sec [recB 32 [(8, 4, 1)]])) [(0x1000, recB 64 [(0, 2, 5), (8, 8, 5 * 2 ^ 50 + 2 ^ 48), (16, 4, 1)])]) 0 { opcode := 0x26, o0 := 0x1000 }
     r.scope < 8 ∧
     readyFor s r 0x26 c = true ∧
     let m := markDispatched s r
     let h := r.scope
     let b := memBytes m c.o0 64
     let charge := leAt b 16 4 * 0x100000
     inWindow m h false c.o0 64 = true ∧
     readsWell m c.o0 64 = true ∧
     leaseOk m h b = true ∧
     poolUse m h + charge ≤ poolQuota m h) ∧
    /- clause 1 -/
    (let r : CmdRef := r0
     let c : Cmd := { opcode := 0x26, o0 := 0x1000 }
     let s : State := having (stored (withSec up tyQUOTA 0 (sec [recB 32 [(8, 4, 0)]])) [(0x1000, recB 64 [(0, 2, 5), (8, 8, 5 * 2 ^ 50 + 2 ^ 48), (16, 4, 1)])]) 0 { opcode := 0x26, o0 := 0x1000 }
     r.scope < 8 ∧
     readyFor s r 0x26 c = true ∧
     let m := markDispatched s r
     let h := r.scope
     let b := memBytes m c.o0 64
     let charge := leAt b 16 4 * 0x100000
     inWindow m h false c.o0 64 = true ∧
     readsWell m c.o0 64 = true ∧
     leaseOk m h b = true ∧
     poolQuota m h < poolUse m h + charge ∧
     (earlierCmds m h).any (fun p => p.2.opcode = 0x27) = false) ∧
    /- clause 2 -/
    (let r : CmdRef := r0
     let c : Cmd := { opcode := 0x27, o0 := 0x1000 }
     let s : State := having (stored up [(0x1000, recB 64 [(0, 2, 5), (8, 8, 5 * 2 ^ 50 + 2 ^ 48), (16, 4, 1)])]) 0 { opcode := 0x27, o0 := 0x1000 }
     r.scope < 8 ∧
     readyFor s r 0x27 c = true ∧
     let m := markDispatched s r
     inWindow m r.scope false c.o0 64 = true ∧
     readsWell m c.o0 64 = true ∧
     leaseForm (memBytes m c.o0 64) = true) :=
  ⟨by decide +kernel, by decide +kernel, by decide +kernel⟩

/-- StreamCommands: every clause with hypotheses. -/
theorem test_wit_StreamCommands :
    /- clause 0 -/
    (let r : CmdRef := r0
     let c : Cmd := { opcode := 0x2A, o0 := 255, o1 := 0x1000 }
     let s : State := having (stored up [(0x1000, sealed 0x7C (recB 128 [(1, 1, 8), (2, 2, 16), (4, 2, 16), (6, 1, 2), (8, 6, 0x100000), (0x18, 6, 0x800000), (0x20, 5, 0x1000000), (0x28, 6, 0x40000), (0x2E, 2, 16)]))]) 0 { opcode := 0x2A, o0 := 255, o1 := 0x1000 }
     r.scope < 8 ∧
     readyFor s r 0x2A c = true ∧
     let m := markDispatched s r
     let h := r.scope
     let k := bitsOf c.o0 0 8
     let b := memBytes m c.o1 128
     c.o1 % 128 = 0 ∧
     inWindow m h false c.o1 128 = true ∧
     readsWell m c.o1 128 = true ∧
     crc32c (b.take 0x7C) = leAt b 0x7C 4 ∧
     (getStream m k).st = 0 ∧
     streamFieldsOk b = true ∧
     streamPlaceOk m h b = true ∧
     workSize b ≤ srWorkLen b ∧
     rateOk m b = true ∧
     (srEnc b = true → floorOk b = true ∧
       Config.levelAdmits (if srAv1 b then 1 else 0) (srLevel b) (srW b) (srH b) (srNum b) (srDen b) = true)) ∧
    /- clause 1 -/
    (let r : CmdRef := r0
     let c : Cmd := { opcode := 0x2B, o0 := 255 }
     let s : State := having (setStream up 255 { st := 1, hall := 0, bytes := recB 128 [(1, 1, 8), (2, 2, 16), (4, 2, 16), (6, 1, 2), (8, 6, 0x100000), (0x18, 6, 0x800000), (0x20, 5, 0x1000000), (0x28, 6, 0x40000), (0x2E, 2, 16)] }) 0 { opcode := 0x2B, o0 := 255 }
     r.scope < 8 ∧
     readyFor s r 0x2B c = true ∧
     let m := markDispatched s r
     let k := bitsOf c.o0 0 8
     (getStream m k).st = 1 ∧
     (getStream m k).hall = r.scope) ∧
    /- clause 2 -/
    (let r : CmdRef := r0
     let c : Cmd := { opcode := 0x2C, o0 := 255, o1 := 0x1000, o2 := 1, o3 := crc32c [0] }
     let s : State := having (setStream up 255 { st := 1, hall := 0, bytes := recB 128 [(1, 1, 8), (2, 2, 16), (4, 2, 16), (6, 1, 2), (8, 6, 0x100000), (0x18, 6, 0x800000), (0x20, 5, 0x1000000), (0x28, 6, 0x40000), (0x2E, 2, 16)] }) 0 { opcode := 0x2C, o0 := 255, o1 := 0x1000, o2 := 1, o3 := crc32c [0] }
     r.scope < 8 ∧
     readyFor s r 0x2C c = true ∧
     let m := markDispatched s r
     let h := r.scope
     let k := bitsOf c.o0 0 8
     let n := bitsOf c.o2 0 27
     ctxIs m h k false = true ∧
     1 ≤ n ∧
     n ≤ 0x4000000 ∧
     inWindow m h false c.o1 n = true ∧
     readsWell m c.o1 n = true ∧
     crc32c (memBytes m c.o1 n) = bitsOf c.o3 0 32) ∧
    /- clause 3 -/
    (let r : CmdRef := r0
     let c : Cmd := { opcode := 0x2D, o0 := 255, o1 := 0x1000, o2 := 1 + 2 ^ 16 }
     let s : State := having (setStream up 255 { st := 1, hall := 0, bytes := recB 128 [(0, 1, 1), (1, 1, 8), (2, 2, 16), (4, 2, 16), (6, 1, 2), (8, 6, 0x100000), (0x18, 6, 0x800000), (0x20, 5, 0x1000000), (0x28, 6, 0x40000), (0x2E, 2, 16)] }) 0 { opcode := 0x2D, o0 := 255, o1 := 0x1000, o2 := 1 + 2 ^ 16 }
     r.scope < 8 ∧
     readyFor s r 0x2D c = true ∧
     let m := markDispatched s r
     let h := r.scope
     let k := bitsOf c.o0 0 8
     let w := bitsOf c.o2 0 16
     let ht := bitsOf c.o2 16 16
     let v := getStream m k
     let n := sourceBytes v.bytes w ht
     ctxIs m h k true = true ∧
     1 ≤ w ∧
     w ≤ srW v.bytes ∧
     1 ≤ ht ∧
     ht ≤ srH v.bytes ∧
     let t := memBytes m c.o3 192
     inWindow m h false c.o1 n = true ∧
     readsWell m c.o1 n = true ∧
     (c.o3 ≠ 0 → inWindow m h false c.o3 192 = true ∧ readsWell m c.o3 192 = true ∧ (encRoiCrc t = true → encRoiOk t = true))) ∧
    /- clause 4 -/
    (let r : CmdRef := r0
     let c : Cmd := { opcode := 0x2E, o0 := 255 }
     let s : State := having (setStream up 255 { st := 1, hall := 0, bytes := recB 128 [(1, 1, 8), (2, 2, 16), (4, 2, 16), (6, 1, 2), (8, 6, 0x100000), (0x18, 6, 0x800000), (0x20, 5, 0x1000000), (0x28, 6, 0x40000), (0x2E, 2, 16)] }) 0 { opcode := 0x2E, o0 := 255 }
     r.scope < 8 ∧
     readyFor s r 0x2E c = true ∧
     let m := markDispatched s r
     let k := bitsOf c.o0 0 8
     ctxIs m r.scope k false = true) :=
  ⟨by decide +kernel, by decide +kernel, by decide +kernel, by decide +kernel, by decide +kernel⟩

/-- FoyerCommands: every clause with hypotheses. -/
theorem test_wit_FoyerCommands :
    /- clause 0 -/
    (let r : CmdRef := r0
     let c : Cmd := { opcode := 0x28, o0 := 0x1000 }
     let s : State := having (stored up [(0x1000, let b := recB 128 [(0, 2, 1), (4, 4, 64), (8, 6, 0x2000), (0x18, 4, 1), (65, 1, 4), (64 + 28, 2, 256)]; b.take 0x1C ++ leBytes 4 (crc32c (b.take 0x1C ++ b.drop 64 ++ (recB 32 [(0, 1, 1)]).take 24)) ++ b.drop 0x20 ++ recB 32 [(0, 1, 1)])]) 0 { opcode := 0x28, o0 := 0x1000 }
     r.scope < 8 ∧
     readyFor s r 0x28 c = true ∧
     let m := markDispatched s r
     let h := r.scope
     let b := memBytes m c.o0 128
     let es := memBytes m (c.o0 + 128) (32 * mfSlots b)
     let srcs := ((List.range (mfSlots b)).map (mfSlot es)).filterMap fun e =>
       if slKind e = 2 || slLen e = 0 then none else some (slSrc e, slLen e)
     (earlierCmds m h).any (fun p => p.2.opcode = 0x29) = false ∧
     c.o0 % 64 = 0 ∧
     inWindow m h true c.o0 128 = true ∧
     inWindow m h true c.o0 (128 + 32 * mfSlots b) = true ∧
     readsWell m c.o0 128 = true ∧
     readsWell m (c.o0 + 128) (32 * mfSlots b) = true ∧
     manifestCrcOk b es = true ∧
     batchChecks m h c.o0 b es = none ∧
     reachOpen m h srcs (batchWrites c.o0 b) = true) ∧
    /- clause 2 -/
    (let r : CmdRef := r0
     let c : Cmd := { opcode := 0x29, o0 := 0x1000 }
     let s : State := having (stored up [(0x1000, recB 64 [(40, 4, 64)])]) 0 { opcode := 0x29, o0 := 0x1000 }
     r.scope < 8 ∧
     readyFor s r 0x29 c = true ∧
     let m := markDispatched s r
     let h := r.scope
     let n := dcTotal (memBytes m c.o0 64)
     let d := memBytes m c.o0 n
     (earlierCmds m h).any (fun p => p.2.opcode = 0x29 ||
       (p.2.opcode = 0x28 && (List.range p.2.job.total).any fun i => slKind (mfSlot p.2.job.rec2 i) = 0)) = false ∧
     inWindow m h false c.o0 64 = true ∧
     64 ≤ n ∧
     n ≤ 0x4000000 ∧
     inWindow m h false c.o0 n = true ∧
     readsWell m c.o0 n = true ∧
     dictCrcOk d = false) :=
  ⟨by decide +kernel, by decide +kernel⟩

/-- ManagementCommands: every clause with hypotheses. -/
theorem test_wit_ManagementCommands :
    /- clause 0 -/
    (let r : CmdRef := r8
     let c : Cmd := { opcode := 0x40, o0 := 0x8000000, o1 := 64 + 2 ^ 33 }
     let s : State := having (withF up [(rLntPresence, fLntPresenceOpen, 1)]) 8 { opcode := 0x40, o0 := 0x8000000, o1 := 64 + 2 ^ 33 }
     r.scope = 8 ∧
     readyFor s r 0x40 c = true ∧
     let m := markDispatched s r
     let b := memBytes m c.o0 (ilLen c)
     ilLen c ≤ 0x4000000 ∧
     mgmtReach m false c.o0 (ilLen c) = true ∧
     readsWell m c.o0 (ilLen c) = true ∧
     ilSlot c ≠ activeSlot m (ilFw c) ∧
     (signerKey m (ilFw c) (imSigner b)).isSome = true ∨ (sealBroken m = false ∧ windowOpen m = true)) ∧
    /- clause 1 -/
    (let r : CmdRef := r8
     let c : Cmd := { opcode := 0x41, o0 := 0x8000000 }
     let s : State := having (stored up [(0x8000000, sealed 60 (recB 64 [(8, 6, 0x8001000), (16, 4, 512)]))]) 8 { opcode := 0x41, o0 := 0x8000000 }
     r.scope = 8 ∧
     readyFor s r 0x41 c = true ∧
     let m := markDispatched s r
     let b := memBytes m c.o0 64
     let what := leAt b 0 1
     let n := 512 + (if what = 0 then 0 else 96 + Config.cert.length)
     c.o0 % 64 = 0 ∧
     mgmtReach m false c.o0 64 = true ∧
     readsWell m c.o0 64 = true ∧
     crc32c (b.take 60) = leAt b 60 4 ∧
     what ≤ 1 ∧
     leAt b 1 7 = 0 ∧
     leAt b 14 2 = 0 ∧
     leAt b 20 4 = 0 ∧
     leAt b 56 4 = 0 ∧
     leAt b 8 6 % 64 = 0 ∧
     (if what = 0 then 512 else 2656) ≤ leAt b 16 4 ∧
     mgmtReach m true (leAt b 8 6) n = true ∧
     writeStuck m (leAt b 8 6) n = none) ∧
    /- clause 2 -/
    (let r : CmdRef := r8
     let c : Cmd := { opcode := 0x47, o0 := 0x8000000 }
     let s : State := having (stored up [(0x8000000, sealed 60 (recB 64 [(2, 2, 100), (4, 2, 4096), (8, 6, 0x8001000), (16, 4, 4096)]))]) 8 { opcode := 0x47, o0 := 0x8000000 }
     r.scope = 8 ∧
     readyFor s r 0x47 c = true ∧
     let m := markDispatched s r
     let b := memBytes m c.o0 64
     let what := leAt b 0 1
     let out := testOutput m what (leAt b 2 2) (leAt b 4 2)
     c.o0 % 64 = 0 ∧
     mgmtReach m false c.o0 64 = true ∧
     readsWell m c.o0 64 = true ∧
     crc32c (b.take 60) = leAt b 60 4 ∧
     what ≤ 1 ∧
     leAt b 1 1 = 0 ∧
     leAt b 6 2 = 0 ∧
     leAt b 14 2 = 0 ∧
     leAt b 20 40 = 0 ∧
     leAt b 2 2 < (if what = 0 then 101 else 4096) ∧
     1 ≤ leAt b 4 2 ∧
     leAt b 4 2 ≤ 4096 ∧
     leAt b 8 6 % 64 = 0 ∧
     out.length ≤ leAt b 16 4 ∧
     mgmtReach m true (leAt b 8 6) out.length = true ∧
     writeStuck m (leAt b 8 6) out.length = none) :=
  ⟨by decide +kernel, by decide +kernel, by decide +kernel⟩

/-- VectorTablesAndLoads: every clause with hypotheses. -/
theorem test_wit_VectorTablesAndLoads :
    /- clause 0 -/
    (let t : Nat := 0
     let i : VIns := vinsOf 0x18
     let s : State := vecAt 0x18 0
     t < 128 ∧
     vecFetch s t = some i ∧
     let h := (flightHall s.run (t / 8)).getD 0
     let j := bitsOf i.imm 0 1
     i.op = 0x18 ∧
     (getH s h).badTables.contains j = false) ∧
    /- clause 1 -/
    (let t : Nat := 127
     let i : VIns := vinsOf 0x18
     let s : State := let s := withF up [(rTrdStatus 127, fTrdStatusVeBusy, 1)]; setH (setT s 127 { getT s 127 with prog := { words := [0x18] } }) 0 { getH s 0 with badTables := [0] }
     t < 128 ∧
     vecFetch s t = some i ∧
     let h := (flightHall s.run (t / 8)).getD 0
     let j := bitsOf i.imm 0 1
     i.op = 0x18 ∧
     (getH s h).badTables.contains j = true) ∧
    /- clause 2 -/
    (let t : Nat := 0
     let i : VIns := vinsOf 0x20
     let s : State := vecAt 0x20 0x0201001FFF00
     t < 128 ∧
     vecFetch s t = some i ∧
     let tr := getT s t
     let a := vecAddr tr i
     let sz := fmtBits (vecFmt i) / 8
     let inside := within a (laneCount i.w * sz) (landingBase t) (landingBase t + 0x200000)
     i.op = 0x20 ∧
     inside = true) ∧
    /- clause 3 -/
    (let t : Nat := 0
     let i : VIns := vinsOf 0x20
     let s : State := vecAt 0x20 0x0201001FFF01
     t < 128 ∧
     vecFetch s t = some i ∧
     let tr := getT s t
     let a := vecAddr tr i
     let sz := fmtBits (vecFmt i) / 8
     let inside := within a (laneCount i.w * sz) (landingBase t) (landingBase t + 0x200000)
     i.op = 0x20 ∧
     inside = false) ∧
    /- clause 4 -/
    (let t : Nat := 0
     let i : VIns := vinsOf 0x21
     let s : State := vecAt 0x21 0x0201001FFF00
     t < 128 ∧
     vecFetch s t = some i ∧
     let tr := getT s t
     let a := vecAddr tr i
     let sz := fmtBits (vecFmt i) / 8
     let inside := within a (laneCount i.w * sz) (landingBase t) (landingBase t + 0x200000)
     i.op = 0x21 ∧
     inside = true) ∧
    /- clause 5 -/
    (let t : Nat := 0
     let i : VIns := vinsOf 0x21
     let s : State := vecAt 0x21 0x0201001FFF01
     t < 128 ∧
     vecFetch s t = some i ∧
     let tr := getT s t
     let a := vecAddr tr i
     let sz := fmtBits (vecFmt i) / 8
     let inside := within a (laneCount i.w * sz) (landingBase t) (landingBase t + 0x200000)
     i.op = 0x21 ∧
     inside = false) :=
  ⟨by decide +kernel, by decide +kernel, by decide +kernel, by decide +kernel, by decide +kernel, by decide +kernel⟩

/-- VectorFloatingPointLanes: every clause with hypotheses. -/
theorem test_wit_VectorFloatingPointLanes :
    /- clause 0 -/
    (let t : Nat := 0
     let i : VIns := vinsOf 0x1
     let s : State := vecAt 0x1 0
     t < 128 ∧
     vecFetch s t = some i ∧
     i.op = 0x1) ∧
    /- clause 1 -/
    (let t : Nat := 0
     let i : VIns := vinsOf 0x2
     let s : State := vecAt 0x2 0
     t < 128 ∧
     vecFetch s t = some i ∧
     i.op = 0x2) ∧
    /- clause 2 -/
    (let t : Nat := 0
     let i : VIns := vinsOf 0x3
     let s : State := vecAt 0x3 0
     t < 128 ∧
     vecFetch s t = some i ∧
     i.op = 0x3) ∧
    /- clause 3 -/
    (let t : Nat := 0
     let i : VIns := vinsOf 0x4
     let s : State := vecAt 0x4 0
     t < 128 ∧
     vecFetch s t = some i ∧
     i.op = 0x4) ∧
    /- clause 4 -/
    (let t : Nat := 0
     let i : VIns := vinsOf 0x5
     let s : State := vecAt 0x5 0
     t < 128 ∧
     vecFetch s t = some i ∧
     i.op = 0x5) ∧
    /- clause 5 -/
    (let t : Nat := 0
     let i : VIns := vinsOf 0x6
     let s : State := vecAt 0x6 0
     t < 128 ∧
     vecFetch s t = some i ∧
     i.op = 0x6) ∧
    /- clause 6 -/
    (let t : Nat := 0
     let i : VIns := vinsOf 0x7
     let s : State := vecAt 0x7 0
     t < 128 ∧
     vecFetch s t = some i ∧
     i.op = 0x7) ∧
    /- clause 7 -/
    (let t : Nat := 0
     let i : VIns := vinsOf 0x8
     let s : State := vecAt 0x8 0
     t < 128 ∧
     vecFetch s t = some i ∧
     i.op = 0x8) ∧
    /- clause 8 -/
    (let t : Nat := 0
     let i : VIns := vinsOf 0x9
     let s : State := vecAt 0x9 0
     t < 128 ∧
     vecFetch s t = some i ∧
     i.op = 0x9) ∧
    /- clause 9 -/
    (let t : Nat := 0
     let i : VIns := vinsOf 0xa
     let s : State := vecAt 0xa 0
     t < 128 ∧
     vecFetch s t = some i ∧
     i.op = 0xA) ∧
    /- clause 10 -/
    (let t : Nat := 0
     let i : VIns := vinsOf 0xb
     let s : State := vecAt 0xb 0
     t < 128 ∧
     vecFetch s t = some i ∧
     i.op = 0xB) ∧
    /- clause 11 -/
    (let t : Nat := 0
     let i : VIns := vinsOf 0xc
     let s : State := vecAt 0xc 0
     t < 128 ∧
     vecFetch s t = some i ∧
     i.op = 0xC) ∧
    /- clause 12 -/
    (let t : Nat := 0
     let i : VIns := vinsOf 0xd
     let s : State := vecAt 0xd 0
     t < 128 ∧
     vecFetch s t = some i ∧
     i.op = 0xD) ∧
    /- clause 13 -/
    (let t : Nat := 0
     let i : VIns := vinsOf 0xe
     let s : State := vecAt 0xe 0
     t < 128 ∧
     vecFetch s t = some i ∧
     i.op = 0xE) ∧
    /- clause 14 -/
    (let t : Nat := 0
     let i : VIns := vinsOf 0x11
     let s : State := vecAt 0x11 0
     t < 128 ∧
     vecFetch s t = some i ∧
     i.op = 0x11) ∧
    /- clause 15 -/
    (let t : Nat := 0
     let i : VIns := vinsOf 0x13
     let s : State := vecAt 0x13 0
     t < 128 ∧
     vecFetch s t = some i ∧
     i.op = 0x13) ∧
    /- clause 16 -/
    (let t : Nat := 0
     let i : VIns := vinsOf 0x38
     let s : State := vecAt 0x38 0
     t < 128 ∧
     vecFetch s t = some i ∧
     i.op = 0x38) :=
  ⟨by decide +kernel, by decide +kernel, by decide +kernel, by decide +kernel, by decide +kernel, by decide +kernel,
    by decide +kernel, by decide +kernel, by decide +kernel, by decide +kernel, by decide +kernel, by decide +kernel,
    by decide +kernel, by decide +kernel, by decide +kernel, by decide +kernel, by decide +kernel⟩

/-- VectorIntegerLanes: every clause with hypotheses. -/
theorem test_wit_VectorIntegerLanes :
    /- clause 0 -/
    (let t : Nat := 0
     let i : VIns := vinsOf 0x30
     let s : State := vecAt 0x30 0
     t < 128 ∧
     vecFetch s t = some i ∧
     i.op = 0x30) ∧
    /- clause 1 -/
    (let t : Nat := 0
     let i : VIns := vinsOf 0x31
     let s : State := vecAt 0x31 0
     t < 128 ∧
     vecFetch s t = some i ∧
     i.op = 0x31) ∧
    /- clause 2 -/
    (let t : Nat := 0
     let i : VIns := vinsOf 0x32
     let s : State := vecAt 0x32 0
     t < 128 ∧
     vecFetch s t = some i ∧
     i.op = 0x32) ∧
    /- clause 3 -/
    (let t : Nat := 0
     let i : VIns := vinsOf 0x33
     let s : State := vecAt 0x33 0
     t < 128 ∧
     vecFetch s t = some i ∧
     i.op = 0x33) ∧
    /- clause 4 -/
    (let t : Nat := 0
     let i : VIns := vinsOf 0x34
     let s : State := vecAt 0x34 0
     t < 128 ∧
     vecFetch s t = some i ∧
     i.op = 0x34) ∧
    /- clause 5 -/
    (let t : Nat := 0
     let i : VIns := vinsOf 0x35
     let s : State := vecAt 0x35 0
     t < 128 ∧
     vecFetch s t = some i ∧
     i.op = 0x35) ∧
    /- clause 6 -/
    (let t : Nat := 0
     let i : VIns := vinsOf 0x36
     let s : State := vecAt 0x36 0
     t < 128 ∧
     vecFetch s t = some i ∧
     i.op = 0x36) ∧
    /- clause 7 -/
    (let t : Nat := 0
     let i : VIns := vinsOf 0x37
     let s : State := vecAt 0x37 0
     t < 128 ∧
     vecFetch s t = some i ∧
     i.op = 0x37) :=
  ⟨by decide +kernel, by decide +kernel, by decide +kernel, by decide +kernel, by decide +kernel, by decide +kernel,
    by decide +kernel, by decide +kernel⟩

/-- VectorComparesAndReductions: every clause with hypotheses. -/
theorem test_wit_VectorComparesAndReductions :
    /- clause 0 -/
    (let t : Nat := 0
     let i : VIns := vinsOf 0x10
     let s : State := vecAt 0x10 0
     t < 128 ∧
     vecFetch s t = some i ∧
     i.op = 0x10) ∧
    /- clause 1 -/
    (let t : Nat := 0
     let i : VIns := vinsOf 0x12
     let s : State := vecAt 0x12 0
     t < 128 ∧
     vecFetch s t = some i ∧
     i.op = 0x12) ∧
    /- clause 2 -/
    (let t : Nat := 0
     let i : VIns := vinsOf 0x28
     let s : State := vecAt 0x28 0
     t < 128 ∧
     vecFetch s t = some i ∧
     let tr := getT s t
     let xs := (List.range (laneCount i.w)).map fun l => if maskBit tr i.pred l then some (laneOf tr i.w i.va l) else none
     let x := ((laneTree (fAdd (vfmt i.w) (vecRm tr i)) (if i.w then 5 else 6) ((List.range (laneCount i.w)).map fun l => if maskBit tr i.pred l then some (laneOf tr i.w i.va l) else none)).getD (0, 0)).1
     let fl := 0
     i.op = 0x28 ∧
     laneTree (fAdd (vfmt i.w) (vecRm tr i)) (if i.w then 5 else 6) xs = some (x, fl)) ∧
    /- clause 3 -/
    (let t : Nat := 0
     let i : VIns := vinsOf 0x29
     let s : State := vecAt 0x29 0
     t < 128 ∧
     vecFetch s t = some i ∧
     let tr := getT s t
     let xs := (List.range (laneCount i.w)).map fun l => if maskBit tr i.pred l then some (laneOf tr i.w i.va l) else none
     let x := ((laneTree (fMaxNum (vfmt i.w)) (if i.w then 5 else 6) ((List.range (laneCount i.w)).map fun l => if maskBit tr i.pred l then some (laneOf tr i.w i.va l) else none)).getD (0, 0)).1
     let fl := 0
     i.op = 0x29 ∧
     laneTree (fMaxNum (vfmt i.w)) (if i.w then 5 else 6) xs = some (x, fl)) :=
  ⟨by decide +kernel, by decide +kernel, by decide +kernel, by decide +kernel⟩

/-- VectorScalarsAndBranches: every clause with hypotheses. -/
theorem test_wit_VectorScalarsAndBranches :
    /- clause 0 -/
    (let t : Nat := 0
     let i : VIns := vinsOf 0x3C
     let s : State := vecAt 0x3C 0
     t < 128 ∧
     vecFetch s t = some i ∧
     i.op = 0x3C) ∧
    /- clause 1 -/
    (let t : Nat := 0
     let i : VIns := vinsOf 0x3D
     let s : State := vecAt 0x3D 2
     t < 128 ∧
     vecFetch s t = some i ∧
     let tr := getT s t
     i.op = 0x3D ∧
     let v := scalarOf tr (i.vd % 16) - 1
     v ≠ 0) ∧
    /- clause 2 -/
    (let t : Nat := 0
     let i : VIns := vinsOf 0x3D
     let s : State := vecAt 0x3D 1
     t < 128 ∧
     vecFetch s t = some i ∧
     let tr := getT s t
     i.op = 0x3D ∧
     let v := scalarOf tr (i.vd % 16) - 1
     v = 0) ∧
    /- clause 3 -/
    (let t : Nat := 0
     let i : VIns := vinsOf 0x3E
     let s : State := vecAt 0x3E 0
     t < 128 ∧
     vecFetch s t = some i ∧
     i.op = 0x3E) ∧
    /- clause 4 -/
    (let t : Nat := 0
     let i : VIns := vinsOf 0x3F
     let s : State := vecAt 0x3F 0
     t < 128 ∧
     vecFetch s t = some i ∧
     let tr := getT s t
     let r : CmdRef := r0
     let c : Cmd := { opcode := 0x02, st := .dispatched }
     i.op = 0x3F ∧
     tr.prog.cmd = some r ∧
     findCmd s r = some c ∧
     c.opcode = 0x02) ∧
    /- clause 5 -/
    (let t : Nat := 0
     let i : VIns := vinsOf 0x3F
     let s : State := let s := having (withF (withColl (ringOn up 1 0)) [(rTrdStatus 0, fTrdStatusVeBusy, 1)]) 0 { opcode := 0x21, st := .dispatched, order := 1, job := { total := 1, rec1 := updRec 0 0, aux := [0, 0, 0, 0] } }; setT s 0 { getT s 0 with prog := { cmd := some r0, words := [0x3F] } }
     t < 128 ∧
     vecFetch s t = some i ∧
     let tr := getT s t
     let r : CmdRef := r0
     let c : Cmd := { opcode := 0x21, st := .dispatched, order := 1, job := { total := 1, rec1 := updRec 0 0, aux := [0, 0, 0, 0] } }
     i.op = 0x3F ∧
     tr.prog.cmd = some r ∧
     findCmd s r = some c ∧
     c.opcode = 0x21 ∧
     c.st = .dispatched ∧
     updPutStuck s r c tr.prog.item = none) :=
  ⟨by decide +kernel, by decide +kernel, by decide +kernel, by decide +kernel, by decide +kernel, by decide +kernel⟩

/-- PrivilegedCommands: every clause with hypotheses. -/
theorem test_wit_PrivilegedCommands :
    /- clause 0 -/
    (let r : CmdRef := r8
     let c : Cmd := { opcode := 0x42, o0 := 0x8000000 }
     let s : State := having ({ withF (stored up [(0x8000000, sealed 0x7C (recB 128 [(0, 1, 64 + 15), (1, 1, 1), (0x48, 1, 65)]))]) [(rLntPresence, fLntPresenceOpen, 1)] with lnt := { up.lnt with keys := [] } }) 8 { opcode := 0x42, o0 := 0x8000000 }
     let m := markDispatched s r
     let b := memBytes m c.o0 128
     r.scope = 8 ∧
     (earlierCmds m 8).any (fun p => 0x42 ≤ p.2.opcode && p.2.opcode ≤ 0x46) = false ∧
     c.o0 % 128 = 0 ∧
     mgmtReach m false c.o0 128 = true ∧
     readsWell m c.o0 128 = true ∧
     crc32c (b.take 0x7C) = leAt b 0x7C 4 ∧
     sealBroken m = false ∧
     windowOpen m = true ∧
     readyFor s r 0x42 c = true ∧
     prFieldsOk 0x42 b = true ∧
     (prTransient b = true ∨ (((prKey b).useStruct = true ∨ (prKey b).useFw = true) ∧ fmFind m.lnt.keys (prSlot b) = none)) ∧
     (m.lnt.keys.all fun e => e.2.digest ≠ (prKey b).digest) = true) ∧
    /- clause 1 -/
    (let r : CmdRef := r8
     let c : Cmd := { opcode := 0x43, o0 := 0x8000000 }
     let s : State := having ({ withF (stored up [(0x8000000, sealed 0x7C (recB 128 []))]) [(rLntPresence, fLntPresenceOpen, 1)] with lnt := { up.lnt with keys := [(0, { vendor := true, useStruct := true, useFw := true })] } }) 8 { opcode := 0x43, o0 := 0x8000000 }
     let m := markDispatched s r
     let b := memBytes m c.o0 128
     r.scope = 8 ∧
     (earlierCmds m 8).any (fun p => 0x42 ≤ p.2.opcode && p.2.opcode ≤ 0x46) = false ∧
     c.o0 % 128 = 0 ∧
     mgmtReach m false c.o0 128 = true ∧
     readsWell m c.o0 128 = true ∧
     crc32c (b.take 0x7C) = leAt b 0x7C 4 ∧
     sealBroken m = false ∧
     windowOpen m = true ∧
     let k : Key := { vendor := true, useStruct := true, useFw := true }
     readyFor s r 0x43 c = true ∧
     prFieldsOk 0x43 b = true ∧
     fmFind m.lnt.keys (prSlot b) = some k) ∧
    /- clause 2 -/
    (let r : CmdRef := r8
     let c : Cmd := { opcode := 0x44, o0 := 0x8000000 }
     let s : State := having (withF (stored up [(0x8000000, sealed 0x7C (recB 128 []))]) [(rLntPresence, fLntPresenceOpen, 1)]) 8 { opcode := 0x44, o0 := 0x8000000 }
     let m := markDispatched s r
     let b := memBytes m c.o0 128
     r.scope = 8 ∧
     (earlierCmds m 8).any (fun p => 0x42 ≤ p.2.opcode && p.2.opcode ≤ 0x46) = false ∧
     c.o0 % 128 = 0 ∧
     mgmtReach m false c.o0 128 = true ∧
     readsWell m c.o0 128 = true ∧
     crc32c (b.take 0x7C) = leAt b 0x7C 4 ∧
     sealBroken m = false ∧
     windowOpen m = true ∧
     readyFor s r 0x44 c = true ∧
     prFieldsOk 0x44 b = true ∧
     encRegions m = 0) ∧
    /- clause 3 -/
    (let r : CmdRef := r8
     let c : Cmd := { opcode := 0x45, o0 := 0x8000000 }
     let s : State := having (withF (stored up [(0x8000000, sealed 0x7C (recB 128 []))]) [(rLntPresence, fLntPresenceOpen, 1), (rCmdSq 8 0, fCmdSqBase, hostBase), (rCmdCq 8 0, fCmdCqBase, hostBase)]) 8 { opcode := 0x45, o0 := 0x8000000 }
     let m := markDispatched s r
     let b := memBytes m c.o0 128
     r.scope = 8 ∧
     (earlierCmds m 8).any (fun p => 0x42 ≤ p.2.opcode && p.2.opcode ≤ 0x46) = false ∧
     c.o0 % 128 = 0 ∧
     mgmtReach m false c.o0 128 = true ∧
     readsWell m c.o0 128 = true ∧
     crc32c (b.take 0x7C) = leAt b 0x7C 4 ∧
     sealBroken m = false ∧
     windowOpen m = true ∧
     readyFor s r 0x45 c = true ∧
     prFieldsOk 0x45 b = true ∧
     hallWork m = false ∧
     hostBase ≤ getF m (rCmdSq 8 r.queue) fCmdSqBase ∧
     hostBase ≤ getF m (rCmdCq 8 r.queue) fCmdCqBase) ∧
    /- clause 4 -/
    (let r : CmdRef := r8
     let c : Cmd := { opcode := 0x46, o0 := 0x8000000 }
     let s : State := having (withF (stored up [(0x8000000, sealed 0x7C (recB 128 [(4, 2, 4095), (6, 2, 1)]))]) [(rLntPresence, fLntPresenceOpen, 1)]) 8 { opcode := 0x46, o0 := 0x8000000 }
     let m := markDispatched s r
     let b := memBytes m c.o0 128
     r.scope = 8 ∧
     (earlierCmds m 8).any (fun p => 0x42 ≤ p.2.opcode && p.2.opcode ≤ 0x46) = false ∧
     c.o0 % 128 = 0 ∧
     mgmtReach m false c.o0 128 = true ∧
     readsWell m c.o0 128 = true ∧
     crc32c (b.take 0x7C) = leAt b 0x7C 4 ∧
     sealBroken m = false ∧
     windowOpen m = true ∧
     readyFor s r 0x46 c = true ∧
     prFieldsOk 0x46 b = true) ∧
    /- clause 5 -/
    (let r : CmdRef := r8
     let c : Cmd := { opcode := 0x42, o0 := 0x8000000 }
     let s : State := having ({ withF (stored up [(0x8000000, sealed 0x7C (recB 128 []))]) [(rLntPresence, fLntPresenceOpen, 1)] with lnt := { up.lnt with sealCount := 1 } }) 8 { opcode := 0x42, o0 := 0x8000000 }
     let m := markDispatched s r
     let b := memBytes m c.o0 128
     r.scope = 8 ∧
     (earlierCmds m 8).any (fun p => 0x42 ≤ p.2.opcode && p.2.opcode ≤ 0x46) = false ∧
     c.o0 % 128 = 0 ∧
     mgmtReach m false c.o0 128 = true ∧
     readsWell m c.o0 128 = true ∧
     crc32c (b.take 0x7C) = leAt b 0x7C 4 ∧
     let code : Nat := 0x41
     let check : Nat := 2
     (sealBroken m = true ∧ code = 0x41 ∧ check = 2) ∨
       (sealBroken m = false ∧ windowOpen m = false ∧ code = 0x40 ∧ check = 3) ∧
     readyFor s r 0x42 c = true) ∧
    /- clause 6 -/
    (let r : CmdRef := r8
     let c : Cmd := { opcode := 0x43, o0 := 0x8000000 }
     let s : State := having (withF (stored up [(0x8000000, sealed 0x7C (recB 128 []))]) []) 8 { opcode := 0x43, o0 := 0x8000000 }
     let m := markDispatched s r
     let b := memBytes m c.o0 128
     r.scope = 8 ∧
     (earlierCmds m 8).any (fun p => 0x42 ≤ p.2.opcode && p.2.opcode ≤ 0x46) = false ∧
     c.o0 % 128 = 0 ∧
     mgmtReach m false c.o0 128 = true ∧
     readsWell m c.o0 128 = true ∧
     crc32c (b.take 0x7C) = leAt b 0x7C 4 ∧
     let code : Nat := 0x40
     let check : Nat := 3
     (sealBroken m = true ∧ code = 0x41 ∧ check = 2) ∨
       (sealBroken m = false ∧ windowOpen m = false ∧ code = 0x40 ∧ check = 3) ∧
     readyFor s r 0x43 c = true) ∧
    /- clause 7 -/
    (let r : CmdRef := r8
     let c : Cmd := { opcode := 0x44, o0 := 0x8000000 }
     let s : State := having ({ withF (stored up [(0x8000000, sealed 0x7C (recB 128 []))]) [(rLntPresence, fLntPresenceOpen, 1)] with lnt := { up.lnt with sealCount := 1 } }) 8 { opcode := 0x44, o0 := 0x8000000 }
     let m := markDispatched s r
     let b := memBytes m c.o0 128
     r.scope = 8 ∧
     (earlierCmds m 8).any (fun p => 0x42 ≤ p.2.opcode && p.2.opcode ≤ 0x46) = false ∧
     c.o0 % 128 = 0 ∧
     mgmtReach m false c.o0 128 = true ∧
     readsWell m c.o0 128 = true ∧
     crc32c (b.take 0x7C) = leAt b 0x7C 4 ∧
     let code : Nat := 0x41
     let check : Nat := 2
     (sealBroken m = true ∧ code = 0x41 ∧ check = 2) ∨
       (sealBroken m = false ∧ windowOpen m = false ∧ code = 0x40 ∧ check = 3) ∧
     readyFor s r 0x44 c = true) ∧
    /- clause 8 -/
    (let r : CmdRef := r8
     let c : Cmd := { opcode := 0x45, o0 := 0x8000000 }
     let s : State := having (withF (stored up [(0x8000000, sealed 0x7C (recB 128 []))]) []) 8 { opcode := 0x45, o0 := 0x8000000 }
     let m := markDispatched s r
     let b := memBytes m c.o0 128
     r.scope = 8 ∧
     (earlierCmds m 8).any (fun p => 0x42 ≤ p.2.opcode && p.2.opcode ≤ 0x46) = false ∧
     c.o0 % 128 = 0 ∧
     mgmtReach m false c.o0 128 = true ∧
     readsWell m c.o0 128 = true ∧
     crc32c (b.take 0x7C) = leAt b 0x7C 4 ∧
     let code : Nat := 0x40
     let check : Nat := 3
     (sealBroken m = true ∧ code = 0x41 ∧ check = 2) ∨
       (sealBroken m = false ∧ windowOpen m = false ∧ code = 0x40 ∧ check = 3) ∧
     readyFor s r 0x45 c = true) ∧
    /- clause 9 -/
    (let r : CmdRef := r8
     let c : Cmd := { opcode := 0x46, o0 := 0x8000000 }
     let s : State := having (withF (stored up [(0x8000000, sealed 0x7C (recB 128 []))]) []) 8 { opcode := 0x46, o0 := 0x8000000 }
     let m := markDispatched s r
     let b := memBytes m c.o0 128
     r.scope = 8 ∧
     (earlierCmds m 8).any (fun p => 0x42 ≤ p.2.opcode && p.2.opcode ≤ 0x46) = false ∧
     c.o0 % 128 = 0 ∧
     mgmtReach m false c.o0 128 = true ∧
     readsWell m c.o0 128 = true ∧
     crc32c (b.take 0x7C) = leAt b 0x7C 4 ∧
     let code : Nat := 0x40
     let check : Nat := 3
     (sealBroken m = true ∧ code = 0x41 ∧ check = 2) ∨
       (sealBroken m = false ∧ windowOpen m = false ∧ code = 0x40 ∧ check = 3) ∧
     readyFor s r 0x46 c = true) :=
  ⟨by decide +kernel, by decide +kernel, by decide +kernel, by decide +kernel, by decide +kernel, by decide +kernel,
    by decide +kernel, by decide +kernel, by decide +kernel, by decide +kernel⟩

/-- TreadItems: every clause with hypotheses. -/
theorem test_wit_TreadItems :
    /- clause 0 -/
    (let t : Nat := 0
     let r : CmdRef := r0
     let c : Cmd := { opcode := 0x01, st := .dispatched, order := 1, job := { total := 1, rec1 := recB 64 [(0, 8, 0x108)], rec2 := memBytes prodState 0x1000 256 } }
     let x : Cmd := { opcode := 0x01, st := .dispatched, order := 1, job := { total := 1, rec1 := recB 64 [(0, 8, 0x108)], rec2 := memBytes prodState 0x1000 256 } }
     let i : Nat := 0
     let s : State := having up 0 { opcode := 0x01, st := .dispatched, order := 1, job := { total := 1, rec1 := recB 64 [(0, 8, 0x108)], rec2 := memBytes prodState 0x1000 256 } }
     t < 128 ∧
     r.scope < 8 ∧
     findCmd s r = some c ∧
     c.st = .dispatched ∧
     cmdItems c = true ∧
     nextItem c = some i ∧
     oldest (withItems s r.scope (c.opcode = 0x02)) = some (r, x) ∧
     takesWork s r.scope t = true ∧
     mayTake s t r c = true ∧
     c.opcode ≠ 0x02 ∧
     c.opcode ≠ 0x21) ∧
    /- clause 1 -/
    (let t : Nat := 15
     let r : CmdRef := r0
     let c : Cmd := { opcode := 0x02, st := .dispatched, order := 1, o2 := 5, job := { total := 1, rec1 := leBytes 8 0x3F } }
     let x : Cmd := { opcode := 0x02, st := .dispatched, order := 1, o2 := 5, job := { total := 1, rec1 := leBytes 8 0x3F } }
     let i : Nat := 0
     let s : State := having up 0 { opcode := 0x02, st := .dispatched, order := 1, o2 := 5, job := { total := 1, rec1 := leBytes 8 0x3F } }
     t < 128 ∧
     r.scope < 8 ∧
     findCmd s r = some c ∧
     c.st = .dispatched ∧
     cmdItems c = true ∧
     nextItem c = some i ∧
     oldest (withItems s r.scope (c.opcode = 0x02)) = some (r, x) ∧
     takesWork s r.scope t = true ∧
     mayTake s t r c = true ∧
     c.opcode = 0x02) ∧
    /- clause 2 -/
    (let t : Nat := 0
     let r : CmdRef := r0
     let c : Cmd := { opcode := 0x21, st := .dispatched, order := 1, job := { total := 1, rec1 := updRec 0 0, rec2 := leBytes 8 0x3F, aux := [0, 0, 0, 0] } }
     let x : Cmd := { opcode := 0x21, st := .dispatched, order := 1, job := { total := 1, rec1 := updRec 0 0, rec2 := leBytes 8 0x3F, aux := [0, 0, 0, 0] } }
     let i : Nat := 0
     let s : State := having (withColl (ringOn up 1 0)) 0 { opcode := 0x21, st := .dispatched, order := 1, job := { total := 1, rec1 := updRec 0 0, rec2 := leBytes 8 0x3F, aux := [0, 0, 0, 0] } }
     t < 128 ∧
     r.scope < 8 ∧
     findCmd s r = some c ∧
     c.st = .dispatched ∧
     cmdItems c = true ∧
     nextItem c = some i ∧
     oldest (withItems s r.scope (c.opcode = 0x02)) = some (r, x) ∧
     takesWork s r.scope t = true ∧
     mayTake s t r c = true ∧
     let u := updJob s r fun j => { j with
       reissue := j.reissue.drop 1, next := if j.reissue.isEmpty then j.next + 1 else j.next }
     c.opcode = 0x21 ∧
     updStuck u r c i = none) ∧
    /- clause 3 -/
    (let r : CmdRef := r0
     let c : Cmd := { opcode := 0x01, st := .dispatched, order := 1, job := { total := 1, rec1 := recB 64 [(0, 8, 0x108 + 2 ^ 23)], rec2 := memBytes prodState 0x1000 256, grp := [(0, { size := 1 })] } }
     let group : Nat := 0
     let got : List (Nat × Nat) := [(0, 0)]
     let g0 : Grp := { size := 1 }
     let s : State := having (up) 0 { opcode := 0x01, st := .dispatched, order := 1, job := { total := 1, rec1 := recB 64 [(0, 8, 0x108 + 2 ^ 23)], rec2 := memBytes prodState 0x1000 256, grp := [(0, { size := 1 })] } }
     r.scope < 8 ∧
     findCmd s r = some c ∧
     c.st = .dispatched ∧
     fmFind c.job.grp group = some g0 ∧
     let g := groupSettle c group (got.foldl (fun g x => groupGive c group g x.1 x.2) g0)
     let u := updJob s r fun j => { j with grp := fmPut j.grp group g }
     g.fetched < (descOf c.job.rec1).q ∧
     g.held < 4 ∧
     groupUse u g.flight + groupBlock (descOf c.job.rec1) ≤ 0x100000) ∧
    /- clause 4 -/
    (let t : Nat := 0
     let hd : Held := { cmd := r0, item := 0 }
     let c : Cmd := { opcode := 0x01, st := .dispatched, order := 1, job := { total := 1, rec1 := recB 64 [(0, 8, 0x108)], rec2 := memBytes prodState 0x1000 256 } }
     let s : State := let s := having (up) 0 { opcode := 0x01, st := .dispatched, order := 1, job := { total := 1, rec1 := recB 64 [(0, 8, 0x108)], rec2 := memBytes prodState 0x1000 256 } }; setT s 0 { getT s 0 with held := [{ cmd := r0, item := 0 }] }
     t < 128 ∧
     (getT s t).held.find? (fun h => !h.ended) = some hd ∧
     findCmd s hd.cmd = some c ∧
     (getT s t).held.countP (fun h => h.ended && !h.vec) < 2 ∨ hd.vec = true ∧
     groupReady c hd.item = true ∧
     let x := pctxOf s hd.cmd.scope c
     let tile := ((pctxOf s hd.cmd.scope c).tile s hd.item (pctxOf s hd.cmd.scope c).d.rows 0).toOption.getD []
     c.opcode = 0x01 ∧
     x.tile s hd.item x.d.rows 0 = .ok tile) ∧
    /- clause 5 -/
    (let t : Nat := 0
     let hd : Held := { cmd := r0, item := 0 }
     let c : Cmd := { opcode := 0x03, st := .dispatched, order := 1, job := { total := 1, rec1 := memBytes attState 0x1000 256, aux := [0, 0] } }
     let s : State := let s := having (attState) 0 { opcode := 0x03, st := .dispatched, order := 1, job := { total := 1, rec1 := memBytes attState 0x1000 256, aux := [0, 0] } }; setT s 0 { getT s 0 with held := [{ cmd := r0, item := 0 }] }
     t < 128 ∧
     (getT s t).held.find? (fun h => !h.ended) = some hd ∧
     findCmd s hd.cmd = some c ∧
     (getT s t).held.countP (fun h => h.ended && !h.vec) < 2 ∨ hd.vec = true ∧
     groupReady c hd.item = true ∧
     c.opcode = 0x03 ∧
     attnRowsStuck s hd.cmd.scope c hd.item = none) ∧
    /- clause 6 -/
    (let t : Nat := 0
     let hd : Held := { cmd := r0, item := 0 }
     let c : Cmd := { opcode := 0x1B, o0 := 0x1000 + 2 ^ 48, o1 := 1 + 2 ^ 37, o2 := 64, o3 := 0x2000 + 2 * 2 ^ 48 + 2 ^ 53, o4 := 0x200000, st := .dispatched, order := 1, job := { total := 1 } }
     let s : State := let s := having (up) 0 { opcode := 0x1B, o0 := 0x1000 + 2 ^ 48, o1 := 1 + 2 ^ 37, o2 := 64, o3 := 0x2000 + 2 * 2 ^ 48 + 2 ^ 53, o4 := 0x200000, st := .dispatched, order := 1, job := { total := 1 } }; setT s 0 { getT s 0 with held := [{ cmd := r0, item := 0 }] }
     t < 128 ∧
     (getT s t).held.find? (fun h => !h.ended) = some hd ∧
     findCmd s hd.cmd = some c ∧
     (getT s t).held.countP (fun h => h.ended && !h.vec) < 2 ∨ hd.vec = true ∧
     groupReady c hd.item = true ∧
     let u := (directItem s hd.cmd c hd.item).toOption.getD s
     (c.opcode = 0x1B ∨ c.opcode = 0x1C ∨ c.opcode = 0x09) ∧
     directItem s hd.cmd c hd.item = .ok u) ∧
    /- clause 7 -/
    (let t : Nat := 0
     let hd : Held := { cmd := r0, item := 0, ended := true, rows := [[none]] }
     let c : Cmd := { opcode := 0x01, st := .dispatched, order := 1, job := { total := 1, rec1 := recB 64 [(0, 8, 0x108)], rec2 := memBytes prodState 0x1000 256 } }
     let s : State := let s := having (up) 0 { opcode := 0x01, st := .dispatched, order := 1, job := { total := 1, rec1 := recB 64 [(0, 8, 0x108)], rec2 := memBytes prodState 0x1000 256 } }; setT s 0 { getT s 0 with held := [{ cmd := r0, item := 0, ended := true, rows := [[none]] }] }
     t < 128 ∧
     (getT s t).held.find? (·.ended) = some hd ∧
     findCmd s hd.cmd = some c ∧
     let w := drainHeldRows s hd (max hd.rows.length hd.att.length)
     let k := w.2.1
     w.2.2 = none ∧
     (running w.1 k.cmd = true → lastPart c k.item = true → combineStuck w.1 k.cmd c k.item = none)) :=
  ⟨by decide +kernel, by decide +kernel, by decide +kernel, by decide +kernel, by decide +kernel, by decide +kernel,
    by decide +kernel, by decide +kernel⟩

/-- TreadIsolation: every clause with hypotheses. -/
theorem test_wit_TreadIsolation :
    /- clause 0 -/
    (let t : Nat := 0
     let s : State := let s := up; setT s 0 { getT s 0 with held := [{ cmd := r0, item := 0 }] }
     t < 128 ∧
     s.lnt.heldCode = none ∧
     (getT s t).held ≠ [] ∨ (getT s t).prog.cmd ≠ none ∨ getF s (rTrdStatus t) fTrdStatusState = 0) ∧
    /- clause 1 -/
    (let t : Nat := 127
     let s : State := withF up [(rTrdStatus 127, fTrdStatusState, 1)]
     t < 128 ∧
     s.lnt.heldCode = none ∧
     (getT s t).held = [] ∧
     (getT s t).prog.cmd = none ∧
     getF s (rTrdStatus t) fTrdStatusState ≠ 0) ∧
    /- clause 2 -/
    (let t : Nat := 0
     let s : State := withF up [(rTrdIsolate 0, fTrdIsolateIsolate, 1)]
     t < 128 ∧
     s.lnt.heldCode = none ∧
     isF s (rTrdIsolate t) fTrdIsolateIsolate = true) ∧
    /- clause 3 -/
    (let t : Nat := 0
     let s : State := up
     t < 128 ∧
     s.lnt.heldCode = none ∧
     isF s (rTrdIsolate t) fTrdIsolateIsolate = false) ∧
    /- clause 4 -/
    (let t : Nat := 0
     let s : State := withF up [(rTrdIsolate 0, fTrdIsolateIsolate, 1), (rTrdStatus 0, fTrdStatusState, 3)]
     t < 128 ∧
     s.lnt.heldCode = none ∧
     isF s (rTrdIsolate t) fTrdIsolateIsolate = true ∧
     getF s (rTrdStatus t) fTrdStatusState = 3) ∧
    /- clause 5 -/
    (let t : Nat := 0
     let s : State := let s := withF up [(rTrdIsolate 0, fTrdIsolateIsolate, 1)]; setT s 0 { getT s 0 with held := [{ cmd := r0, item := 0 }] }
     t < 128 ∧
     s.lnt.heldCode = none ∧
     isF s (rTrdIsolate t) fTrdIsolateIsolate = true ∧
     getF s (rTrdStatus t) fTrdStatusState ≠ 3 ∧
     getF s (rTrdStatus t) fTrdStatusState ≠ 0) ∧
    /- clause 6 -/
    (let t : Nat := 127
     let s : State := { up with lnt := { up.lnt with heldCode := some 5 } }
     t < 128 ∧
     s.lnt.heldCode ≠ none) ∧
    /- clause 9 -/
    (let t : Nat := 0
     let s : State := withF up [(rTrdIsolate 0, fTrdIsolateIsolate, 1)]
     t < 128 ∧
     (getT s t).held = [] ∧
     (getT s t).prog.cmd = none ∧
     getF s (rTrdStatus t) fTrdStatusState ≠ 0 ∧
     isF s (rTrdIsolate t) fTrdIsolateIsolate = true ∨ flightWorking s (t / 8) = false) ∧
    /- clause 10 -/
    (let t : Nat := 0
     let s : State := setT up 0 { getT up 0 with rejoin := true }
     t < 128 ∧
     (getT s t).held = [] ∧
     (getT s t).prog.cmd = none ∧
     getF s (rTrdStatus t) fTrdStatusState ≠ 0 ∧
     isF s (rTrdIsolate t) fTrdIsolateIsolate = false ∧
     flightWorking s (t / 8) = true ∧
     (getT s t).rejoin = true) :=
  ⟨by decide +kernel, by decide +kernel, by decide +kernel, by decide +kernel, by decide +kernel, by decide +kernel,
    by decide +kernel, by decide +kernel, by decide +kernel⟩

/-- CloisterMessages: every clause with hypotheses. -/
theorem test_wit_CloisterMessages :
    /- clause 0 -/
    (let ctx : Nat := 1
     let h : Nat := 0
     let g : Ring := ring1 1 0
     let m : List Byte := msgFrom (ring1 1 0) 1 0 1 1 (zeros 80)
     let s : State := waiting (ringOn up 1 0) (msgFrom (ring1 1 0) 1 0 1 1 (zeros 80))
     cmEpoch m ≠ hallEpoch s h ∧
     msgReady s ctx 1 h g m = true) ∧
    /- clause 1 -/
    (let ctx : Nat := 1
     let h : Nat := 0
     let g : Ring := ring1 1 0
     let m : List Byte := msgFrom (ring1 1 0) 2 0 1 1 (zeros 36)
     let s : State := waiting (ringOn up 1 0) (msgFrom (ring1 1 0) 2 0 1 1 (zeros 36))
     cmEpoch m ≠ hallEpoch s h ∧
     msgReady s ctx 2 h g m = true) ∧
    /- clause 2 -/
    (let ctx : Nat := 1
     let h : Nat := 0
     let g : Ring := ring1 1 0
     let m : List Byte := msgFrom (ring1 1 0) 5 0 1 1 (zeros 64)
     let s : State := waiting (ringOn up 1 0) (msgFrom (ring1 1 0) 5 0 1 1 (zeros 64))
     cmEpoch m ≠ hallEpoch s h ∧
     msgReady s ctx 5 h g m = true) ∧
    /- clause 3 -/
    (let ctx : Nat := 1
     let h : Nat := 0
     let g : Ring := ring1 1 0
     let m : List Byte := msgFrom (ring1 1 0) 6 0 1 1 (zeros 64)
     let s : State := waiting (ringOn up 1 0) (msgFrom (ring1 1 0) 6 0 1 1 (zeros 64))
     cmEpoch m ≠ hallEpoch s h ∧
     msgReady s ctx 6 h g m = true) ∧
    /- clause 4 -/
    (let ctx : Nat := 1
     let h : Nat := 0
     let g : Ring := ring1 1 0
     let m : List Byte := msgFrom (ring1 1 0) 1 0 0 1 (zeros 80)
     let r : CmdRef := r0
     let c : Cmd := { opcode := 0x20, st := .dispatched, job := { rec1 := collRec 0 64, aux := [0, 0] } }
     let s : State := waiting (having (ringOn up 1 0) 0 { opcode := 0x20, st := .dispatched, job := { rec1 := collRec 0 64, aux := [0, 0] } }) (msgFrom (ring1 1 0) 1 0 0 1 (zeros 80))
     cmEpoch m = hallEpoch s h ∧
     collDead s h (cmId m) = false ∧
     collCmd s h (cmId m) = some (r, c) ∧
     let b := c.job.rec1
     let j := cmShard m
     msgReady s ctx 1 h g m = true ∧
     addersBusy s h = false ∧
     clKind b = 0 ∧
     clRing b = g.num ∧
     j < g.n ∧
     cmFirst m = (g.shard (clBlocks b) j).1 + c.job.aux.getD j 0 ∧
     (g.shard (clBlocks b) j).1 + c.job.aux.getD j 0 + cmCount m ≤ (g.shard (clBlocks b) j).2 ∧
     let cs := (List.range (cmCount m)).map fun i => rblkOf (((cmPay m).drop (80 * i)).take 80)
     cs.zipIdx.all (fun p => p.1.index = cmFirst m + p.2 && p.1.epoch = cmEpoch m) = true ∧
     g.owner j = g.self ∧
     cs.all (fun c => residueOf c.mant = c.residue) = true ∧
     writesStuck s (cs.map fun c => finalSpan b g j c.index) = none) ∧
    /- clause 5 -/
    (let ctx : Nat := 1
     let h : Nat := 0
     let g : Ring := ring1 1 0
     let m : List Byte := msgAt (ring1 1 0) 1 1 1 (RBlk.bytes { index := 1, exp := 0, epoch := 0, mant := List.replicate 32 0 })
     let r : CmdRef := r0
     let c : Cmd := { opcode := 0x20, st := .dispatched, job := { rec1 := collRec 0 64, aux := [0, 0] } }
     let s : State := waiting (having (ringOn up 1 0) 0 { opcode := 0x20, st := .dispatched, job := { rec1 := collRec 0 64, aux := [0, 0] } }) (msgAt (ring1 1 0) 1 1 1 (RBlk.bytes { index := 1, exp := 0, epoch := 0, mant := List.replicate 32 0 }))
     cmEpoch m = hallEpoch s h ∧
     collDead s h (cmId m) = false ∧
     collCmd s h (cmId m) = some (r, c) ∧
     let b := c.job.rec1
     let j := cmShard m
     msgReady s ctx 1 h g m = true ∧
     addersBusy s h = false ∧
     clKind b = 0 ∧
     clRing b = g.num ∧
     j < g.n ∧
     cmFirst m = (g.shard (clBlocks b) j).1 + c.job.aux.getD j 0 ∧
     (g.shard (clBlocks b) j).1 + c.job.aux.getD j 0 + cmCount m ≤ (g.shard (clBlocks b) j).2 ∧
     let cs := (List.range (cmCount m)).map fun i => rblkOf (((cmPay m).drop (80 * i)).take 80)
     cs.zipIdx.all (fun p => p.1.index = cmFirst m + p.2 && p.1.epoch = cmEpoch m) = true ∧
     let t := ((addBlocks s h b c.job.kA cs).getD (s, [])).1
     let os := ((addBlocks s h b c.job.kA cs).getD (s, [])).2
     let u := (passBlocks t r b g j os).getD s
     g.owner j ≠ g.self ∧
     readsStuck s [clSrcRange b (32 * cmFirst m) (32 * cmCount m)] = none ∧
     writesStuck s (passSpans b g j (cmFirst m) (cmCount m)) = none ∧
     addBlocks s h b c.job.kA cs = some (t, os) ∧
     passBlocks t r b g j os = some u) ∧
    /- clause 6 -/
    (let ctx : Nat := 1
     let h : Nat := 0
     let g : Ring := ring1 1 0
     let m : List Byte := msgFrom (ring1 1 0) 2 0 0 1 (zeros 36)
     let r : CmdRef := r0
     let c : Cmd := { opcode := 0x20, st := .dispatched, job := { rec1 := collRec 1 512, aux := [0, 0] } }
     let s : State := waiting (having (ringOn up 1 0) 0 { opcode := 0x20, st := .dispatched, job := { rec1 := collRec 1 512, aux := [0, 0] } }) (msgFrom (ring1 1 0) 2 0 0 1 (zeros 36))
     cmEpoch m = hallEpoch s h ∧
     collDead s h (cmId m) = false ∧
     collCmd s h (cmId m) = some (r, c) ∧
     let b := c.job.rec1
     let j := cmShard m
     msgReady s ctx 2 h g m = true ∧
     addersBusy s h = false ∧
     clKind b = 1 ∧
     clRing b = g.num ∧
     j < g.n ∧
     g.owner j = g.self ∧
     (g.shard (clGroups b) j).1 ≤ cmFirst m ∧
     cmFirst m + cmCount m ≤ (g.shard (clGroups b) j).2 ∧
     let is := (List.range (cmCount m)).map (cmFirst m + ·)
     writesStuck s (is.map (thinSpan b g)) = none) ∧
    /- clause 7 -/
    (let ctx : Nat := 1
     let h : Nat := 0
     let g : Ring := ring1 1 0
     let m : List Byte := msgFrom (ring1 1 0) 3 1 0 1 (zeros 64)
     let r : CmdRef := r0
     let c : Cmd := { opcode := 0x20, st := .dispatched, job := { rec1 := collRec 2 64, aux := [0, 0] } }
     let s : State := waiting (having (ringOn up 1 0) 0 { opcode := 0x20, st := .dispatched, job := { rec1 := collRec 2 64, aux := [0, 0] } }) (msgFrom (ring1 1 0) 3 1 0 1 (zeros 64))
     cmEpoch m = hallEpoch s h ∧
     collDead s h (cmId m) = false ∧
     collCmd s h (cmId m) = some (r, c) ∧
     let b := c.job.rec1
     let j := cmShard m
     msgReady s ctx 3 h g m = true ∧
     clKind b = 2 ∧
     clRing b = g.num ∧
     j < g.n ∧
     g.owner j = cmSender m ∧
     cmFirst m = c.job.aux.getD j 0 ∧
     let k := min (64 * cmCount m) ((gatherBytes b g j).2 - 64 * cmFirst m)
     let a := clRecv b + (gatherBytes b g j).1 + 64 * cmFirst m
     writeStuck s a k = none) ∧
    /- clause 8 -/
    (let ctx : Nat := 1
     let h : Nat := 0
     let g : Ring := ring1 1 0
     let m : List Byte := msgFrom (ring1 1 0) 5 1 0 1 (zeros 64)
     let s : State := waiting (ringOn up 1 0) (msgFrom (ring1 1 0) 5 1 0 1 (zeros 64))
     msgReady s ctx 5 h g m = true ∧
     cmEpoch m = hallEpoch s h ∧
     g.owner (cmShard m) = cmSender m ∧
     let got := (findColl s h (cmId m)).bind fun x => (keptHere s x (cmShard m)).map fun d => (d, keptSpan x (cmShard m))
     got = none) ∧
    /- clause 9 -/
    (let ctx : Nat := 1
     let h : Nat := 0
     let g : Ring := ring1 1 0
     let m : List Byte := msgFrom (ring1 1 0) 5 1 0 1 (zeros 64)
     let s : State := waiting (withColl (ringOn up 1 0)) (msgFrom (ring1 1 0) 5 1 0 1 (zeros 64))
     msgReady s ctx 5 h g m = true ∧
     cmEpoch m = hallEpoch s h ∧
     g.owner (cmShard m) = cmSender m ∧
     let got := (findColl s h (cmId m)).bind fun x => (keptHere s x (cmShard m)).map fun d => (d, keptSpan x (cmShard m))
     let d := (got.getD ([], (0, 0))).1
     let sp := (got.getD ([], (0, 0))).2
     let t := let d2 := d.drop (64 * cmFirst m); let n2 := min 1023 (ceilDiv d2.length 64); let pay2 := d2.take (64 * n2) ++ zeros (64 * n2 - (d2.take (64 * n2)).length); (logMessage s (g.ctx (cmSender m)) none h (collHdr 5 g (cmShard m) (hallEpoch s h) (cmId m) n2 (cmFirst m) pay2 ++ pay2)).getD s
     got = some (d, sp) ∧
     readStuck s sp.1 sp.2 = none ∧
     let d := d.drop (64 * cmFirst m)
     let n := min 1023 (ceilDiv d.length 64)
     let pay := d.take (64 * n) ++ zeros (64 * n - (d.take (64 * n)).length)
     n ≠ 0 ∧
     logMessage s (g.ctx (cmSender m)) none h
       (collHdr 5 g (cmShard m) (hallEpoch s h) (cmId m) n (cmFirst m) pay ++ pay) = some t) ∧
    /- clause 10 -/
    (let ctx : Nat := 1
     let h : Nat := 0
     let g : Ring := ring1 1 0
     let g' : Ring := ring1 1 0
     let m : List Byte := msgFrom (ring1 1 0) 5 0 0 1 (zeros 64)
     let r : CmdRef := r0
     let c : Cmd := { opcode := 0x21, st := .dispatched, job := { rec1 := updRec 0 0, aux := [1, 0, 0, 0] } }
     let x : Coll := theColl
     let s : State := waiting (having (withColl (ringOn up 1 0)) 0 { opcode := 0x21, st := .dispatched, job := { rec1 := updRec 0 0, aux := [1, 0, 0, 0] } }) (msgFrom (ring1 1 0) 5 0 0 1 (zeros 64))
     msgReady s ctx 5 h g m = true ∧
     cmEpoch m = hallEpoch s h ∧
     g.owner (cmShard m) ≠ cmSender m ∧
     updCmd? s h (cmId m) (cmShard m) 0 = some (r, c) ∧
     ouColl s h c.job.rec1 = some (x, g') ∧
     ((fmFind c.job.buf (cmSender m)).getD []).length = 64 * cmFirst m) ∧
    /- clause 11 -/
    (let ctx : Nat := 1
     let h : Nat := 0
     let g : Ring := ring1 1 0
     let g' : Ring := ring1 1 0
     let m : List Byte := msgFrom (ring1 1 0) 6 1 0 1 (zeros 64)
     let r : CmdRef := r0
     let c : Cmd := { opcode := 0x21, st := .dispatched, job := { rec1 := updRec 1 1, aux := [1, 0, 0, 0] } }
     let x : Coll := theColl
     let s : State := waiting (having (withColl (ringOn up 1 0)) 0 { opcode := 0x21, st := .dispatched, job := { rec1 := updRec 1 1, aux := [1, 0, 0, 0] } }) (msgFrom (ring1 1 0) 6 1 0 1 (zeros 64))
     msgReady s ctx 6 h g m = true ∧
     cmEpoch m = hallEpoch s h ∧
     updCmd? s h (cmId m) (cmShard m) 1 = some (r, c) ∧
     let b := c.job.rec1
     let p := ouUnits b x.bytes g
     ouColl s h b = some (x, g') ∧
     cmFirst m = c.job.aux.getD 2 0 ∧
     cmFirst m + cmCount m ≤ p.1 + p.2 ∧
     g.owner (cmShard m) = cmSender m ∧
     (cmFirst m < p.1 → cmFirst m + cmCount m ≤ p.1) ∧
     let o := if cmFirst m < p.1 then ouParamBytes b x.bytes g else ouStateRange b x.bytes g
     let base := if cmFirst m < p.1 then ouParam b (ouEpoch c + 1) else ouState b (ouEpoch c + 1)
     let k := if cmFirst m < p.1 then cmFirst m else cmFirst m - p.1
     let pay := (cmPay m).take (o.2 - 64 * k)
     writeStuck s (base + o.1 + 64 * k) pay.length = none) ∧
    /- clause 12 -/
    (let ctx : Nat := 1
     let m : List Byte := msgFrom { ring1 1 0 with gen := 8 } 6 0 0 1 (zeros 64)
     let g : Ring := ring1 1 0
     let s : State := waiting (ringOn up 1 0) (msgFrom { ring1 1 0 with gen := 8 } 6 0 0 1 (zeros 64))
     ctxNum ctx = true ∧
     (getCtx s ctx).whole = some m ∧
     ringAt s.run (getCtx s ctx).hall (cmRing m) = some g ∧
     (getCtx s ctx).hall < 8 ∧
     1 ≤ cmType m ∧
     cmType m ≤ 6 ∧
     g.gen < cmGen m) :=
  ⟨by decide +kernel, by decide +kernel, by decide +kernel, by decide +kernel, by decide +kernel, by decide +kernel,
    by decide +kernel, by decide +kernel, by decide +kernel, by decide +kernel, by decide +kernel, by decide +kernel,
    by decide +kernel⟩

/-- CommitTokens: every clause with hypotheses. -/
theorem test_wit_CommitTokens :
    /- clause 0 -/
    (let r : CmdRef := r0
     let c : Cmd := { opcode := 0x22, st := .dispatched, o0 := 0 }
     let s : State := having (up) 0 { opcode := 0x22, st := .dispatched, o0 := 0 }
     r.scope < 8 ∧
     runsAs s r 0x22 c = true ∧
     scPhase c = 0 ∧
     appliedFor s r.scope (scEpoch c) = none ∧
     commitReady s r.scope c.job.rec1 = true ∧
     ringAt s.run r.scope (scRing c) = none) ∧
    /- clause 1 -/
    (let r : CmdRef := r0
     let c : Cmd := { opcode := 0x22, st := .dispatched, o0 := 2 ^ 32 }
     let s : State := having (ringOn up 4 0) 0 { opcode := 0x22, st := .dispatched, o0 := 2 ^ 32 }
     r.scope < 8 ∧
     runsAs s r 0x22 c = true ∧
     scPhase c = 0 ∧
     appliedFor s r.scope (scEpoch c) = none ∧
     commitReady s r.scope c.job.rec1 = true ∧
     let g : Ring := ring1 4 0
     let u : State := (sendToken s (some r) r.scope g (scEpoch c) (tokBody 1 (scResume c) false c.job.rec1 1 (ownVals s r.scope c.job.rec1))).getD s
     ringAt s.run r.scope (scRing c) = some g ∧
     g.lead = g.self ∧
     g.next g.self ≠ g.self ∧
     (getClo s r.scope).abandoning = false ∧
     sendToken s (some r) r.scope g (scEpoch c)
       (tokBody 1 (scResume c) false c.job.rec1 1 (ownVals s r.scope c.job.rec1)) = some u) ∧
    /- clause 2 -/
    (let ctx : Nat := 1
     let h : Nat := 0
     let g : Ring := ring1 4 1
     let m : List Byte := msgFrom (ring1 4 1) 4 0 0 1 (tokBody 1 false false [] 1 [] ++ zeros 48)
     let s : State := waiting (ringOn up 4 1) (msgFrom (ring1 4 1) 4 0 0 1 (tokBody 1 false false [] 1 [] ++ zeros 48))
     msgReady s ctx 4 h g m = true ∧
     tokPass (cmPay m) = 1 ∧
     g.lead ≠ g.self) ∧
    /- clause 3 -/
    (let ctx : Nat := 1
     let h : Nat := 0
     let g : Ring := ring1 4 1
     let m : List Byte := msgFrom (ring1 4 1) 4 0 0 1 (tokBody 2 false false [] 1 [] ++ zeros 48)
     let s : State := waiting (having (ringOn up 4 1) 0 { opcode := 0x22, st := .dispatched, o0 := 2 ^ 32 }) (msgFrom (ring1 4 1) 4 0 0 1 (tokBody 2 false false [] 1 [] ++ zeros 48))
     msgReady s ctx 4 h g m = true ∧
     let u := setF s (rClsHallCommit h) fClsHallCommitMerged (tokMerged (cmPay m))
     let r : CmdRef := r0
     let c : Cmd := { opcode := 0x22, st := .dispatched, o0 := 2 ^ 32 }
     let v : State := let u := setF s (rClsHallCommit h) fClsHallCommitMerged (tokMerged (cmPay m)); (sendToken u none h g (cmEpoch m) (cmPay m)).getD u
     tokPass (cmPay m) = 2 ∧
     g.lead ≠ g.self ∧
     scCmd u h (cmEpoch m) = some (r, c) ∧
     appliedFor u h (cmEpoch m) = none ∧
     sendToken u none h g (cmEpoch m) (cmPay m) = some v) ∧
    /- clause 4 -/
    (let ctx : Nat := 1
     let h : Nat := 0
     let g : Ring := ring1 4 0
     let m : List Byte := msgFrom (ring1 4 0) 4 0 0 1 (tokBody 2 false false [] 1 [] ++ zeros 48)
     let s : State := waiting (ringOn up 4 0) (msgFrom (ring1 4 0) 4 0 0 1 (tokBody 2 false false [] 1 [] ++ zeros 48))
     msgReady s ctx 4 h g m = true ∧
     tokPass (cmPay m) = 2 ∧
     g.lead = g.self) ∧
    /- clause 5 -/
    (let ctx : Nat := 1
     let h : Nat := 0
     let g : Ring := ring1 4 1
     let m : List Byte := msgFrom (ring1 4 1) 4 0 0 1 (tokBody 3 false false [] 1 [] ++ zeros 48)
     let s : State := waiting (ringOn up 4 1) (msgFrom (ring1 4 1) 4 0 0 1 (tokBody 3 false false [] 1 [] ++ zeros 48))
     msgReady s ctx 4 h g m = true ∧
     let u := setF s (rClsHallCommit h) fClsHallCommitMerged (tokMerged (cmPay m))
     let v : State := let u := setF s (rClsHallCommit h) fClsHallCommitMerged (tokMerged (cmPay m)); (sendToken u none h g (cmEpoch m) (cmPay m)).getD u
     tokPass (cmPay m) = 3 ∧
     g.lead ≠ g.self ∧
     sendToken u none h g (cmEpoch m) (cmPay m) = some v) ∧
    /- clause 6 -/
    (let ctx : Nat := 1
     let h : Nat := 0
     let g : Ring := ring1 4 0
     let m : List Byte := msgFrom (ring1 4 0) 4 0 0 1 (tokBody 3 false false [] 1 [] ++ zeros 48)
     let s : State := waiting (ringOn up 4 0) (msgFrom (ring1 4 0) 4 0 0 1 (tokBody 3 false false [] 1 [] ++ zeros 48))
     msgReady s ctx 4 h g m = true ∧
     tokPass (cmPay m) = 3 ∧
     g.lead = g.self) ∧
    /- clause 7 -/
    (let hall : Nat := 0
     let s : State := having up 0 { opcode := 0x22, st := .dispatched, o0 := 0 }
     hall < 8 ∧
     (hallCommits s hall).isEmpty = false) ∧
    /- clause 8 -/
    (let r : CmdRef := r0
     let c : Cmd := { opcode := 0x03, st := .dispatched, job := { rec1 := recB 256 [(0x32, 1, 1)], aux := [0, 1] } }
     let ra : Nat := 0x40
     let k : CacheRec := theCache
     let g : Ring := ring1 2 0
     let s : State := having (ringOn cached 2 0) 0 { opcode := 0x03, st := .dispatched, job := { rec1 := recB 256 [(0x32, 1, 1)], aux := [0, 1] } }
     r.scope < 8 ∧
     runsAs s r 0x03 c = true ∧
     hallCache s r.scope = some (ra, k) ∧
     attnRing s r.scope (attOf c.job.rec1) = some g ∧
     attnStepNo c + 1 < g.n ∧
     (getCtx s (g.ctx ((g.self + g.n - 1) % g.n))).whole = none ∧
     attnGot c = true ∧
     c.job.total ≤ c.job.done.length ∧
     cmdUnacked s r = false) :=
  ⟨by decide +kernel, by decide +kernel, by decide +kernel, by decide +kernel, by decide +kernel, by decide +kernel,
    by decide +kernel, by decide +kernel, by decide +kernel⟩

/-- MemoryRequests: every clause with hypotheses. -/
theorem test_wit_MemoryRequests :
    /- clause 0 -/
    (let q : MemReq := ⟨.tread 0, some r0, 0x1000, 64, false, none⟩
     let os : List (Nat × ReadOutcome) := []
     let s : State := (let s := having (up) 0 { opcode := 0x08, o0 := 0x1000, o1 := 0x20000, o2 := 0x4000, st := .dispatched, job := { reads := [(0x1000, 0x4000), (0x4000000, 64)], writes := [(0x20000, 0x4000), (0x4000000, 64)] } }; setT s 0 { getT s 0 with slots := [⟨.tread 0, some r0, 0x1000, 64, false, none⟩] })
     let rg : Region := (regionOfAddr s q.addr).getD sysRegion
     q.write = false ∧
     reqOk s q = true ∧
     inFlight s q = true ∧
     unzeroed s q.addr q.len = false ∧
     regionOfAddr s q.addr = some rg ∧
     let x := readAll rg os q.addr (List.range (q.len / 64)) (freeSlot s q)
     x.2 = none) ∧
    /- clause 1 -/
    (let q : MemReq := ⟨.tread 0, some r0, 0x1000, 64, false, none⟩
     let os : List (Nat × ReadOutcome) := [(0, { first := false, second := false, other := false })]
     let s : State := (let s := having (up) 0 { opcode := 0x08, o0 := 0x1000, o1 := 0x20000, o2 := 0x4000, st := .dispatched, job := { reads := [(0x1000, 0x4000), (0x4000000, 64)], writes := [(0x20000, 0x4000), (0x4000000, 64)] } }; setT s 0 { getT s 0 with slots := [⟨.tread 0, some r0, 0x1000, 64, false, none⟩] })
     let rg : Region := (regionOfAddr s q.addr).getD sysRegion
     q.write = false ∧
     reqOk s q = true ∧
     inFlight s q = true ∧
     unzeroed s q.addr q.len = false ∧
     regionOfAddr s q.addr = some rg ∧
     let x := readAll rg os q.addr (List.range (q.len / 64)) (freeSlot s q)
     let e := (x.2.getD (.addressFault, 0)).1
     let a := (x.2.getD (.addressFault, 0)).2
     x.2 = some (e, a)) ∧
    /- clause 2 -/
    (let q : MemReq := ⟨.tread 0, some r0, 0x4000000, 64, false, none⟩
     let s : State := (let s := having ({ up with und := { up.und with lost := [(((burstOf up 0x4000000).getD (0, 0)).1, [])] } }) 0 { opcode := 0x08, o0 := 0x1000, o1 := 0x20000, o2 := 0x4000, st := .dispatched, job := { reads := [(0x1000, 0x4000), (0x4000000, 64)], writes := [(0x20000, 0x4000), (0x4000000, 64)] } }; setT s 0 { getT s 0 with slots := [⟨.tread 0, some r0, 0x4000000, 64, false, none⟩] })
     let rg : Region := (regionOfAddr s q.addr).getD sysRegion
     q.write = false ∧
     reqOk s q = true ∧
     inFlight s q = true ∧
     unzeroed s q.addr q.len = false ∧
     regionOfAddr s q.addr = some rg ∧
     let e := (burstErr (freeSlot s q) q.addr).getD .addressFault
     burstErr (freeSlot s q) q.addr = some e) ∧
    /- clause 3 -/
    (let q : MemReq := ⟨.tread 0, some r0, 0x4000000, 64, true, none⟩
     let s : State := (let s := having ({ up with und := { up.und with unplaced := [((burstOf up 0x4000000).getD (0, 0)).1] } }) 0 { opcode := 0x08, o0 := 0x1000, o1 := 0x20000, o2 := 0x4000, st := .dispatched, job := { reads := [(0x1000, 0x4000), (0x4000000, 64)], writes := [(0x20000, 0x4000), (0x4000000, 64)] } }; setT s 0 { getT s 0 with slots := [⟨.tread 0, some r0, 0x4000000, 64, true, none⟩] })
     let rg : Region := (regionOfAddr s q.addr).getD sysRegion
     q.write = true ∧
     reqOk s q = true ∧
     inFlight s q = true ∧
     unzeroed s q.addr q.len = false ∧
     regionOfAddr s q.addr = some rg ∧
     let e := ((writeGone s q.addr q.len).getD (.addressFault, 0)).1
     let a := ((writeGone s q.addr q.len).getD (.addressFault, 0)).2
     writeGone s q.addr q.len = some (e, a)) ∧
    /- clause 4 -/
    (let q : MemReq := ⟨.tread 0, some r0, 0x20000, 64, true, none⟩
     let o : WriteOutcome := ⟨0, [(0, { first := false, second := false, other := false })], true, true⟩
     let s : State := (let s := having (up) 0 { opcode := 0x08, o0 := 0x1000, o1 := 0x20000, o2 := 0x4000, st := .dispatched, job := { reads := [(0x1000, 0x4000), (0x4000000, 64)], writes := [(0x20000, 0x4000), (0x4000000, 64)] } }; setT s 0 { getT s 0 with slots := [⟨.tread 0, some r0, 0x20000, 64, true, none⟩] })
     let rg : Region := (regionOfAddr s q.addr).getD sysRegion
     q.write = true ∧
     reqOk s q = true ∧
     inFlight s q = true ∧
     unzeroed s q.addr q.len = false ∧
     regionOfAddr s q.addr = some rg ∧
     writeGone s q.addr q.len = none ∧
     let x := mergeAll rg q o.merge (partBlocks q) (freeSlot s q)
     let e := (x.2.getD (.addressFault, 0)).1
     let a := (x.2.getD (.addressFault, 0)).2
     x.2 = some (e, a)) ∧
    /- clause 5 -/
    (let q : MemReq := ⟨.tread 0, some r0, 0x20000, 64, true, none⟩
     let o : WriteOutcome := ⟨4, [], true, true⟩
     let s : State := (let s := having (up) 0 { opcode := 0x08, o0 := 0x1000, o1 := 0x20000, o2 := 0x4000, st := .dispatched, job := { reads := [(0x1000, 0x4000), (0x4000000, 64)], writes := [(0x20000, 0x4000), (0x4000000, 64)] } }; setT s 0 { getT s 0 with slots := [⟨.tread 0, some r0, 0x20000, 64, true, none⟩] })
     let rg : Region := (regionOfAddr s q.addr).getD sysRegion
     q.write = true ∧
     reqOk s q = true ∧
     inFlight s q = true ∧
     unzeroed s q.addr q.len = false ∧
     regionOfAddr s q.addr = some rg ∧
     writeGone s q.addr q.len = none ∧
     let x := mergeAll rg q o.merge (partBlocks q) (freeSlot s q)
     x.2 = none) ∧
    /- clause 6 -/
    (let q : MemReq := ⟨.tread 0, some r0, 0x4000000, 64, true, none⟩
     let o : WriteOutcome := ⟨4, [], true, true⟩
     let s : State := (let s := having (up) 0 { opcode := 0x08, o0 := 0x1000, o1 := 0x20000, o2 := 0x4000, st := .dispatched, job := { reads := [(0x1000, 0x4000), (0x4000000, 64)], writes := [(0x20000, 0x4000), (0x4000000, 64)] } }; setT s 0 { getT s 0 with slots := [⟨.tread 0, some r0, 0x4000000, 64, true, none⟩] })
     let rg : Region := (regionOfAddr s q.addr).getD sysRegion
     q.write = true ∧
     reqOk s q = true ∧
     inFlight s q = true ∧
     unzeroed s q.addr q.len = false ∧
     regionOfAddr s q.addr = some rg ∧
     writeGone s q.addr q.len = none ∧
     let x := mergeAll rg q o.merge (partBlocks q) (freeSlot s q)
     let p := (rg.resolve x.1 q.addr).1
     x.2 = none ∧
     rg.resolve x.1 q.addr = (p, none) ∧
     let u := satF (touchCheck (driveDs x.1 p) p) (rUndChanErr (physOf x.1 p).1) fUndChanErrLinkReplay (min o.replays 4)
     let u := missed u p o.primary
     writeGone u q.addr q.len = none) ∧
    /- clause 7 -/
    (let t : Nat := 0
     let h : Nat := 0
     let q : MemReq := ⟨.tread 0, some r0, 0x1000, 64, false, none⟩
     let s : State := let s := { up with pci := { up.pci with atc := [(1, hostBase / 4096)] } }; setT s 0 { getT s 0 with queue := [⟨.tread 0, none, hostBase, 64, true, none⟩] }
     t < 128 ∧
     flightHall s.run (t / 8) = some h ∧
     q.owner = .tread t ∧
     let u := countHeld (lsuEnqueue s t h q) t
     let tr := getT u t
     tr.slots.length < 48 ∧
     let w := (nextReq u t h tr.slots [] tr.queue).getD q
     nextReq u t h tr.slots [] tr.queue = some w ∧
     let v := setT u t { tr with queue := tr.queue.erase w }
     answersNow v t h w = true) ∧
    /- clause 8 -/
    (let t : Nat := 0
     let h : Nat := 0
     let q : MemReq := ⟨.tread 0, some r0, 0x1000, 64, false, none⟩
     let s : State := let s := up; setT s 0 { getT s 0 with queue := [⟨.tread 0, none, hostBase, 64, true, none⟩] }
     t < 128 ∧
     flightHall s.run (t / 8) = some h ∧
     q.owner = .tread t ∧
     let u := countHeld (lsuEnqueue s t h q) t
     let tr := getT u t
     tr.slots.length < 48 ∧
     let w := (nextReq u t h tr.slots [] tr.queue).getD q
     nextReq u t h tr.slots [] tr.queue = some w ∧
     let v := setT u t { tr with queue := tr.queue.erase w }
     answersNow v t h w = false) ∧
    /- clause 9 -/
    (let t : Nat := 15
     let h : Nat := 0
     let q : MemReq := ⟨.tread 15, none, 0x1000, 64, false, none⟩
     let s : State := up
     t < 128 ∧
     flightHall s.run (t / 8) = some h ∧
     q.owner = .tread t ∧
     let u := countHeld (lsuEnqueue s t h q) t
     let tr := getT u t
     48 ≤ tr.slots.length ∨ nextReq u t h tr.slots [] tr.queue = none) ∧
    /- clause 10 -/
    (let hall : Nat := 0
     let q0 : MemReq := ⟨.mover 0, some r0, 0x1000, 512, false, none⟩
     let r : CmdRef := r0
     let s : State := having (up) 0 { opcode := 0x08, o0 := 0x1000, o1 := 0x20000, o2 := 0x4000, st := .dispatched, job := { reads := [(0x1000, 0x4000), (0x4000000, 64)], writes := [(0x20000, 0x4000), (0x4000000, 64)] } }
     hall < 8 ∧
     q0.cmd = some r ∧
     r.scope = hall ∧
     let q := { q0 with owner := .mover hall }
     serves s q = true ∧
     let u := { s with und := { s.und with moverWait := s.und.moverWait ++ [q] } }
     let h := 0
     let w := ((moverNext u).getD (0, q)).2
     moverNext u = some (h, w)) ∧
    /- clause 11 -/
    (let hall : Nat := 0
     let q0 : MemReq := ⟨.mover 0, some r0, 0x1000, 512, false, none⟩
     let r : CmdRef := r0
     let s : State := let s := having (up) 0 { opcode := 0x08, o0 := 0x1000, o1 := 0x20000, o2 := 0x4000, st := .dispatched, job := { reads := [(0x1000, 0x4000), (0x4000000, 64)], writes := [(0x20000, 0x4000), (0x4000000, 64)] } }; { s with und := { s.und with moverSlots := List.replicate 512 ⟨.mover 0, some r0, 0x1000, 512, false, none⟩ } }
     hall < 8 ∧
     q0.cmd = some r ∧
     r.scope = hall ∧
     let q := { q0 with owner := .mover hall }
     serves s q = true ∧
     let u := { s with und := { s.und with moverWait := s.und.moverWait ++ [q] } }
     moverNext u = none) :=
  ⟨by decide +kernel, by decide +kernel, by decide +kernel, by decide +kernel, by decide +kernel, by decide +kernel,
    by decide +kernel, by decide +kernel, by decide +kernel, by decide +kernel, by decide +kernel, by decide +kernel⟩

/-- ChannelUpkeep: every clause with hypotheses. -/
theorem test_wit_ChannelUpkeep :
    /- clause 0 -/
    (let chan : Nat := 23
     let die : Nat := 15
     let bank : Nat := 15
     let s : State := up
     chan < 24 ∧
     die < 16 ∧
     bank < 16 ∧
     s.und.selfRefresh.contains chan = false) ∧
    /- clause 1 -/
    (let chan : Nat := 23
     let s : State := withF up ((List.range 23).map fun c => (rUndChanStatus c, fUndChanStatusState, 2))
     chan < 24 ∧
     s.lnt.heldCode = none ∧
     chanHealthy s chan = true ∧
     ((List.range 24).filter (chanHealthy s)).length ≤ 1) ∧
    /- clause 2 -/
    (let chan : Nat := 23
     let s : State := up
     chan < 24 ∧
     s.lnt.heldCode = none ∧
     chanHealthy s chan = true ∧
     1 < ((List.range 24).filter (chanHealthy s)).length) ∧
    /- clause 3 -/
    (let chan : Nat := 0
     chan < 24) ∧
    /- clause 4 -/
    (let c : Nat := 3
     let src : Nat := 0
     let rest : List (Nat × Nat) := []
     let k : Nat := 7
     let ks : List Nat := []
     let ok : Bool := true
     let s : State := { up with und := { up.und with rebuildQ := [(3, 0)], todo := [(3, [7])], block := 8190 } }
     s.und.rebuildQ = (c, src) :: rest ∧
     fmFind s.und.todo c = some (k :: ks) ∧
     s.und.selfRefresh = [] ∧
     let u := match rebuildPlaces s k with
       | some (p, q) => if rebuildDead s k then s else driveDs (driveDs s p) q
       | none => s
     (ok = true ∨ rebuildDead u k = true) ∧
     u.und.block + 1 < 8192) ∧
    /- clause 5 -/
    (let c : Nat := 3
     let src : Nat := 0
     let rest : List (Nat × Nat) := []
     let k : Nat := 7
     let ks : List Nat := []
     let ok : Bool := true
     let s : State := { up with und := { up.und with rebuildQ := [(3, 0)], todo := [(3, [7])], block := 8191 } }
     s.und.rebuildQ = (c, src) :: rest ∧
     fmFind s.und.todo c = some (k :: ks) ∧
     s.und.selfRefresh = [] ∧
     let u := match rebuildPlaces s k with
       | some (p, q) => if rebuildDead s k then s else driveDs (driveDs s p) q
       | none => s
     (ok = true ∨ rebuildDead u k = true) ∧
     8192 ≤ u.und.block + 1) ∧
    /- clause 6 -/
    (let c : Nat := 3
     let src : Nat := 0
     let rest : List (Nat × Nat) := []
     let k : Nat := 7
     let ks : List Nat := []
     let ok : Bool := false
     let s : State := { up with und := { up.und with rebuildQ := [(3, 0)], todo := [(3, [7])], block := 0 } }
     s.und.rebuildQ = (c, src) :: rest ∧
     fmFind s.und.todo c = some (k :: ks) ∧
     s.und.selfRefresh = [] ∧
     let u := match rebuildPlaces s k with
       | some (p, q) => if rebuildDead s k then s else driveDs (driveDs s p) q
       | none => s
     ok = false ∧
     rebuildDead u k = false) ∧
    /- clause 7 -/
    (let a : Nat := 0
     let n : Nat := 0x4000000
     let zs : List (Nat × Nat) := []
     let s : State := { up with und := { up.und with zeroing := [(0, 0x4000000)] } }
     s.und.zeroing = (a, n) :: zs) :=
  ⟨by decide +kernel, by decide +kernel, by decide +kernel, by decide +kernel, by decide +kernel, by decide +kernel,
    by decide +kernel, by decide +kernel⟩

/-- TransactionCommands: every clause with hypotheses. -/
theorem test_wit_TransactionCommands :
    /- clause 0 -/
    (let scope : Nat := 8
     let s : State := up
     scope ≤ 8 ∧
     s.lnt.heldCode = none ∧
     xBusy s scope = false ∧
     xState s scope = 0) ∧
    /- clause 1 -/
    (let scope : Nat := 0
     let s : State := withF up [(rXfmStatus 0, fXfmStatusState, 1)]
     scope ≤ 8 ∧
     s.lnt.heldCode = none ∧
     xBusy s scope = false ∧
     xState s scope ≠ 0) ∧
    /- clause 2 -/
    (let scope : Nat := 0
     let s : State := withF up [(rXfmStatus 0, fXfmStatusState, 1), (rXfmStageSel 0, fXfmStageSelSection, 4)]
     scope ≤ 8 ∧
     s.lnt.heldCode = none ∧
     let d : DWord := 1
     xBusy s scope = false ∧
     xState s scope = 1 ∧
     stageFieldsOk s scope (some (leBytes 8 d.toNat)) = true ∧
     stageKibAfter s scope 8 ≤ 16384) ∧
    /- clause 3 -/
    (let scope : Nat := 0
     let s : State := withF up [(rXfmStatus 0, fXfmStatusState, 1), (rXfmStageSel 0, fXfmStageSelSection, 4)]
     scope ≤ 8 ∧
     s.lnt.heldCode = none ∧
     let d : DWord := 8 + 2 ^ 32
     let n := bitsOf d.toNat 0 25
     let a := getF s (rXfmStageBulkAddr scope) fXfmStageBulkAddrAddr
     xBusy s scope = false ∧
     xState s scope = 1 ∧
     stageFieldsOk s scope none = true ∧
     n ≠ 0 ∧
     n % 8 = 0 ∧
     n ≤ 0x1000000 ∧
     a % 64 = 0 ∧
     bulkSourceOk s scope a n = true) ∧
    /- clause 4 -/
    (let scope : Nat := 0
     let s : State := let s := withF up [(rXfmStatus 0, fXfmStatusState, 1), (rXfmStageSel 0, fXfmStageSelSection, 4)]; setX s 0 { getX s 0 with bulk := some (0, 8, crc32c (zeros 8)) }
     scope ≤ 8 ∧
     s.lnt.heldCode = none ∧
     let a : Nat := 0
     let n : Nat := 8
     let crc : Nat := crc32c (zeros 8)
     (getX s scope).bulk = some (a, n, crc) ∧
     let u := setBusy (setX s scope { getX s scope with bulk := none }) scope false
     readsWell s a n = true ∧
     goneIn u a n = none ∧
     stageFieldsOk u scope (some (memBytes u a n)) = true ∧
     crc32c (memBytes u a n) = crc ∧
     stageKibAfter u scope n ≤ 16384) ∧
    /- clause 5 -/
    (let scope : Nat := 0
     let s : State := let s := withF up [(rXfmStatus 0, fXfmStatusState, 1), (rXfmStageSel 0, fXfmStageSelSection, 4)]; setX s 0 { getX s 0 with bulk := some (0, 8, 0) }
     scope ≤ 8 ∧
     s.lnt.heldCode = none ∧
     let a : Nat := 0
     let n : Nat := 8
     let crc : Nat := 0
     (getX s scope).bulk = some (a, n, crc) ∧
     let u := setBusy (setX s scope { getX s scope with bulk := none }) scope false
     readsWell s a n = true ∧
     goneIn u a n = none ∧
     stageFieldsOk u scope (some (memBytes u a n)) = true ∧
     crc32c (memBytes u a n) ≠ crc) ∧
    /- clause 6 -/
    (let scope : Nat := 0
     let s : State := withF up [(rXfmStatus 0, fXfmStatusState, 1)]
     scope ≤ 8 ∧
     s.lnt.heldCode = none ∧
     xBusy s scope = false ∧
     xState s scope ≠ 0 ∧
     xState s scope ≠ 4) ∧
    /- clause 7 -/
    (let scope : Nat := 0
     let s : State := withF up [(rXfmStatus 0, fXfmStatusState, 1)]
     scope ≤ 8 ∧
     s.lnt.heldCode = none ∧
     xBusy s scope = false ∧
     xState s scope = 1) ∧
    /- clause 11 -/
    (let scope : Nat := 0
     let s : State := let s := up; setX s 0 { getX s 0 with validating := true }
     scope ≤ 8 ∧
     s.lnt.heldCode = none ∧
     (getX s scope).validating = true ∧
     let f := (commitCheck s scope).getD { check := 0 }
     commitCheck s scope = some f) ∧
    /- clause 12 -/
    (let scope : Nat := 8
     let s : State := let s := { up with run := bareSections }; setX s 8 { getX s 8 with validating := true }
     scope ≤ 8 ∧
     s.lnt.heldCode = none ∧
     (getX s scope).validating = true ∧
     commitCheck s scope = none) ∧
    /- clause 13 -/
    (let scope : Nat := 8
     let s : State := up
     scope ≤ 8 ∧
     s.lnt.heldCode = none) ∧
    /- clause 14 -/
    (let scope : Nat := 0
     let s : State := withF up [(rXfmStatus 0, fXfmStatusState, 3)]
     scope ≤ 8 ∧
     s.lnt.heldCode = none ∧
     xState s scope = 3 ∧
     drained s (getX s scope) = true ∧
     earlierCommit s scope (getX s scope) = false ∧
     let bad := firstV [if (getX s scope).recheck then commitCheck s scope else none,
       if scope = 8 && (getX s scope).fwSel.isNone then check17 s (candidate s scope) else none]
     bad = none) ∧
    /- clause 15 -/
    (let scope : Nat := 0
     let s : State := let s := withF up [(rXfmStatus 0, fXfmStatusState, 3)]; setX s 0 { getX s 0 with recheck := true }
     scope ≤ 8 ∧
     s.lnt.heldCode = none ∧
     xState s scope = 3 ∧
     drained s (getX s scope) = true ∧
     earlierCommit s scope (getX s scope) = false ∧
     let bad := firstV [if (getX s scope).recheck then commitCheck s scope else none,
       if scope = 8 && (getX s scope).fwSel.isNone then check17 s (candidate s scope) else none]
     let f := bad.getD { check := 0 }
     bad = some f) ∧
    /- clause 16 -/
    (let scope : Nat := 0
     let s : State := let s := having (withF up [(rXfmStatus 0, fXfmStatusState, 3)]) 0 { opcode := 0x31, st := .dispatched, order := 1 }; setX s 0 { getX s 0 with touched := [0] }
     scope ≤ 8 ∧
     s.lnt.heldCode = none ∧
     xState s scope = 3 ∧
     drained s (getX s scope) = false) :=
  ⟨by decide +kernel, by decide +kernel, by decide +kernel, by decide +kernel, by decide +kernel, by decide +kernel,
    by decide +kernel, by decide +kernel, by decide +kernel, by decide +kernel, by decide +kernel, by decide +kernel,
    by decide +kernel, by decide +kernel⟩

set_option maxRecDepth 100000 in
/-- LinkFrames: every clause with hypotheses. -/
theorem test_wit_LinkFrames :
    /- clause 0 -/
    (let port : Nat := 33
     let frame : List Byte := []
     let s : State := (withF up [(rOrlPortStatus 0, fOrlPortStatusState, 1), (rOrlPortStatus 33, fOrlPortStatusState, 1)])
     port < 34 ∧
     portUp s port = true ∧
     frameOk frame = false) ∧
    /- clause 1 -/
    (let port : Nat := 0
     let frame : List Byte := frameBytes up 0 0 0 0 ([])
     let s : State := (withF up [(rOrlPortStatus 0, fOrlPortStatusState, 1), (rOrlPortStatus 33, fOrlPortStatusState, 1)])
     port < 34 ∧
     portUp s port = true ∧
     let ft := leAt frame 0 1 % 8
     frameOk frame = true ∧
     ft = 0) ∧
    /- clause 2 -/
    (let port : Nat := 0
     let frame : List Byte := frameBytes up 0 1 0 1 ([])
     let s : State := (withF up [(rOrlPortStatus 0, fOrlPortStatusState, 1), (rOrlPortStatus 33, fOrlPortStatusState, 1)])
     port < 34 ∧
     portUp s port = true ∧
     let ft := leAt frame 0 1 % 8
     frameOk frame = true ∧
     (ft = 1 ∨ ft = 2) ∧
     leAt frame 2 2 ≠ (getPort s port).rxSeq) ∧
    /- clause 3 -/
    (let port : Nat := 0
     let frame : List Byte := frameBytes up 0 2 0 0 (leBytes 4 3)
     let s : State := (withF up [(rOrlPortStatus 0, fOrlPortStatusState, 1), (rOrlPortStatus 33, fOrlPortStatusState, 1)])
     port < 34 ∧
     portUp s port = true ∧
     let ft := leAt frame 0 1 % 8
     frameOk frame = true ∧
     leAt frame 2 2 = (getPort s port).rxSeq ∧
     ft = 2) ∧
    /- clause 4 -/
    (let port : Nat := 0
     let frame : List Byte := frameBytes up 0 1 0 0 (segBytes up {} 1 0 true true 0 0 [])
     let s : State := (withF up [(rOrlPortStatus 0, fOrlPortStatusState, 1), (rOrlPortStatus 33, fOrlPortStatusState, 1)])
     port < 34 ∧
     portUp s port = true ∧
     let ft := leAt frame 0 1 % 8
     frameOk frame = true ∧
     leAt frame 2 2 = (getPort s port).rxSeq ∧
     let u := takeAck s port frame
     let b := (frame.drop 16).take 608
     ft = 1 ∧
     sgDest b = devNum u) ∧
    /- clause 5 -/
    (let port : Nat := 0
     let frame : List Byte := frameBytes up 0 1 0 0 (segBytes up { peer := 5 } 1 0 true true 0 0 [])
     let s : State := (withF up [(rOrlPortStatus 0, fOrlPortStatusState, 1), (rOrlPortStatus 33, fOrlPortStatusState, 1)])
     port < 34 ∧
     portUp s port = true ∧
     let ft := leAt frame 0 1 % 8
     frameOk frame = true ∧
     leAt frame 2 2 = (getPort s port).rxSeq ∧
     let u := takeAck s port frame
     let b := (frame.drop 16).take 608
     ft = 1 ∧
     sgDest b ≠ devNum u) ∧
    /- clause 6 -/
    (let port : Nat := 0
     let f : List Byte := (frameBytes up 0 2 0 0 (leBytes 4 1 ++ []))
     let rest : List (List Byte) := []
     let s : State := setPort (withF up [(rOrlPortStatus 0, fOrlPortStatusState, 1), (rOrlPortStatus 33, fOrlPortStatusState, 1)]) 0 { ({} : Port) with ctl := [frameBytes up 0 2 0 0 (leBytes 4 1 ++ [])] }
     ctlReady s port 1 f rest = true) ∧
    /- clause 7 -/
    (let port : Nat := 0
     let f : List Byte := (frameBytes up 0 2 0 0 (leBytes 4 2 ++ []))
     let rest : List (List Byte) := []
     let s : State := setPort (withF up [(rOrlPortStatus 0, fOrlPortStatusState, 1), (rOrlPortStatus 33, fOrlPortStatusState, 1)]) 0 { ({ txSeq := 1, replay := [zeros 640] } : Port) with ctl := [frameBytes up 0 2 0 0 (leBytes 4 2 ++ [])] }
     let u := setPort s port { getPort s port with ctl := rest }
     ctlReady s port 2 f rest = true ∧
     let q := getPort u port
     let n := (leAt f 18 2 + 65536 - (q.txSeq + 65536 - q.replay.length) % 65536) % 65536
     n < q.replay.length) ∧
    /- clause 8 -/
    (let port : Nat := 0
     let f : List Byte := (frameBytes up 0 2 0 0 (leBytes 4 2 ++ []))
     let rest : List (List Byte) := []
     let s : State := setPort (withF up [(rOrlPortStatus 0, fOrlPortStatusState, 1), (rOrlPortStatus 33, fOrlPortStatusState, 1)]) 0 { ({} : Port) with ctl := [frameBytes up 0 2 0 0 (leBytes 4 2 ++ [])] }
     let u := setPort s port { getPort s port with ctl := rest }
     ctlReady s port 2 f rest = true ∧
     let q := getPort u port
     let n := (leAt f 18 2 + 65536 - (q.txSeq + 65536 - q.replay.length) % 65536) % 65536
     q.replay.length ≤ n) ∧
    /- clause 9 -/
    (let port : Nat := 33
     let f : List Byte := (frameBytes up 0 2 0 0 (leBytes 4 3 ++ []))
     let rest : List (List Byte) := []
     let s : State := setPort (withF up [(rOrlPortStatus 0, fOrlPortStatusState, 1), (rOrlPortStatus 33, fOrlPortStatusState, 1)]) 33 { ({} : Port) with ctl := [frameBytes up 0 2 0 0 (leBytes 4 3 ++ [])] }
     ctlReady s port 3 f rest = true) ∧
    /- clause 10 -/
    (let port : Nat := 0
     let s : State := setPort (withF up [(rOrlPortStatus 0, fOrlPortStatusState, 1), (rOrlPortStatus 33, fOrlPortStatusState, 1)]) 0 { txSeq := 1, replay := [zeros 640] }
     port < 34 ∧
     portUp s port = true ∧
     (getPort s port).replay.isEmpty = false) :=
  ⟨by decide +kernel, by decide +kernel, by decide +kernel, by decide +kernel, by decide +kernel, by decide +kernel,
    by decide +kernel, by decide +kernel, by decide +kernel, by decide +kernel, by decide +kernel⟩

/-- PortStates: every clause with hypotheses. -/
theorem test_wit_PortStates :
    /- clause 0 -/
    (let port : Nat := 0
     let lane : Nat := 7
     let s : State := withF up [(rLntDomainStatus, fLntDomainStatusPowered, 2 ^ 21 - 1), (rOrlPortStatus 0, fOrlPortStatusLanes, 7)]
     port < 34 ∧
     lane < 8 ∧
     let st := rOrlPortStatus port
     let u := setF s st fOrlPortStatusLanes (getF s st fOrlPortStatusLanes ||| 2 ^ lane)
     orielPowered s port = true ∧
     portState u port = 0 ∧
     4 ≤ lanesUp u port) ∧
    /- clause 1 -/
    (let port : Nat := 33
     let lane : Nat := 0
     let s : State := withF up [(rLntDomainStatus, fLntDomainStatusPowered, 2 ^ 21 - 1), (rOrlPortStatus 33, fOrlPortStatusState, 1)]
     port < 34 ∧
     lane < 8 ∧
     let st := rOrlPortStatus port
     let u := setF s st fOrlPortStatusLanes (getF s st fOrlPortStatusLanes ||| 2 ^ lane)
     orielPowered s port = true ∧
     portState u port ≠ 0) ∧
    /- clause 2 -/
    (let port : Nat := 33
     let lane : Nat := 7
     port < 34 ∧
     lane < 8) ∧
    /- clause 3 -/
    (let port : Nat := 0
     let s : State := (withF up [(rOrlPortStatus 0, fOrlPortStatusState, 1), (rOrlPortStatus 33, fOrlPortStatusState, 1)])
     port < 34 ∧
     portState s port ≠ 2 ∧
     (getPort s port).switching = false ∧
     (lanesUp s port < 4 ∨ 16 ≤ (getPort s port).noProg)) ∧
    /- clause 4 -/
    (let port : Nat := 0
     let s : State := setPort (withF up [(rOrlPortStatus 0, fOrlPortStatusState, 1), (rOrlPortStatus 33, fOrlPortStatusState, 1)]) 0 { switching := true }
     port < 34 ∧
     (getPort s port).switching = true ∧
     lanesUp s port < 4) ∧
    /- clause 5 -/
    (let port : Nat := 0
     let s : State := setPort (withF (withF up [(rOrlPortStatus 0, fOrlPortStatusState, 1), (rOrlPortStatus 33, fOrlPortStatusState, 1)]) [(rOrlPortStatus 0, fOrlPortStatusLanes, 15)]) 0 { switching := true }
     port < 34 ∧
     (getPort s port).switching = true ∧
     4 ≤ lanesUp s port) ∧
    /- clause 6 -/
    (let port : Nat := 31
     let s : State := withF up [(rOrlPortCtl 31, fOrlPortCtlRole, 0)]
     port < 34 ∧
     s.lnt.heldCode = none ∧
     portSpare s port = false ∧
     let u := sendCtl s port (leBytes 4 3)
     (getPort u port).replay.isEmpty = true) ∧
    /- clause 7 -/
    (let port : Nat := 0
     let s : State := setPort (withF up [(rOrlPortStatus 0, fOrlPortStatusState, 1), (rOrlPortStatus 33, fOrlPortStatusState, 1)]) 0 { replay := [zeros 640] }
     port < 34 ∧
     s.lnt.heldCode = none ∧
     portSpare s port = false ∧
     let u := sendCtl s port (leBytes 4 3)
     (getPort u port).replay.isEmpty = false) ∧
    /- clause 8 -/
    (let port : Nat := 0
     let s : State := setPort up 0 { quiescing := true }
     port < 34 ∧
     s.lnt.heldCode = none ∧
     portSpare s port = false) ∧
    /- clause 9 -/
    (let port : Nat := 33
     let s : State := withF up ((List.range 34).map fun p => (rOrlPortCtl p, fOrlPortCtlRole, 1))
     port < 34 ∧
     s.lnt.heldCode = none ∧
     portSpare s port = true ∧
     activePorts s < 32) ∧
    /- clause 10 -/
    (let port : Nat := 0
     let s : State := withF up [(rOrlPortStatus 0, fOrlPortStatusState, 2)]
     port < 34 ∧
     s.lnt.heldCode = none ∧
     portState s port = 2) ∧
    /- clause 11 -/
    (let s : State := setCtx up 1 { st := 2 }
     s.lnt.heldCode = none ∧
     s.orl.ctxs.any (fun p => p.2.st ≠ 0) = true) ∧
    /- clause 12 -/
    (let s : State := up
     s.lnt.heldCode = none ∧
     s.orl.ctxs.any (fun p => p.2.st ≠ 0) = false) :=
  ⟨by decide +kernel, by decide +kernel, by decide +kernel, by decide +kernel, by decide +kernel, by decide +kernel,
    by decide +kernel, by decide +kernel, by decide +kernel, by decide +kernel, by decide +kernel, by decide +kernel,
    by decide +kernel⟩

/-- LaserModules: every clause with hypotheses. -/
theorem test_wit_LaserModules :
    /- clause 0 -/
    (let m : Nat := 4
     let s : State := setLaser (withF up [(rOrlLaser 4, fOrlLaserState, 1)]) 4 { present := true, en := true }
     m < 5 ∧
     let l := getLaser s m
     let faulted := setLaser s m { l with fault := true }
     laserState faulted m = 1) ∧
    /- clause 1 -/
    (let m : Nat := 0
     m < 5) ∧
    /- clause 3 -/
    (let m : Nat := 4
     let s : State := setLaser (withF up [(rOrlLaser 4, fOrlLaserState, 2)]) 4 { present := true }
     m < 5 ∧
     let l := getLaser s m
     l.present = true ∧
     laserState s m = 2) ∧
    /- clause 4 -/
    (let m : Nat := 0
     let s : State := setLaser (withF up [(rOrlLaser 0, fOrlLaserState, 1)]) 0 { present := true, en := true }
     m < 5 ∧
     laserState s m = 1) ∧
    /- clause 5 -/
    (let m : Nat := 4
     let s : State := setLaser (withF up [(rOrlLaser 4, fOrlLaserState, 2)]) 4 { present := true, en := true }
     m < 5 ∧
     let l := getLaser s m
     (laserState s m = 0 ∨ laserState s m = 2) ∧
     l.present = true ∧
     l.en = true) ∧
    /- clause 6 -/
    (let m : Nat := 0
     let s : State := setLaser (withF up [(rOrlLaser 0, fOrlLaserState, 0)]) 0 { present := true, en := true }
     m < 5 ∧
     let l := getLaser s m
     (laserState s m = 0 ∨ laserState s m = 2) ∧
     l.present = true ∧
     l.en = true) ∧
    /- clause 7 -/
    (let m : Nat := 0
     let s : State := up
     m < 5 ∧
     s.lnt.heldCode = none ∧
     (List.range 5).all (fun x => x = m || laserState s x = 1) = false) ∧
    /- clause 8 -/
    (let m : Nat := 4
     let s : State := withF up ((List.range 4).map fun m => (rOrlLaser m, fOrlLaserState, 1))
     m < 5 ∧
     s.lnt.heldCode = none ∧
     (List.range 5).all (fun x => x = m || laserState s x = 1) = true) ∧
    /- clause 9 -/
    (let m : Nat := 4
     let s : State := setLaser (withF up [(rOrlLaser 4, fOrlLaserState, 1)]) 4 { out := true }
     m < 5 ∧
     s.lnt.heldCode = none ∧
     laserState s m = 1) ∧
    /- clause 10 -/
    (let m : Nat := 0
     let s : State := setLaser (withF up [(rOrlLaser 0, fOrlLaserState, 1)]) 0 { out := true }
     m < 5 ∧
     laserFeeds s m = false) ∧
    /- clause 11 -/
    (let m : Nat := 4
     let s : State := setLaser (withF up [(rOrlLaser 4, fOrlLaserState, 1)]) 4 { present := true }
     m < 5 ∧
     laserFeeds s m = true) :=
  ⟨by decide +kernel, by decide +kernel, by decide +kernel, by decide +kernel, by decide +kernel, by decide +kernel,
    by decide +kernel, by decide +kernel, by decide +kernel, by decide +kernel, by decide +kernel⟩

/-- ContextOperations: every clause with hypotheses. -/
theorem test_wit_ContextOperations :
    /- clause 0 -/
    (let s : State := up
     s.lnt.heldCode = none) ∧
    /- clause 1 -/
    (let s : State := setWin (setF up rDlvCtxCtl fDlvCtxCtlIndex 1) (ctxBytes { peer := 5, window := 16 })
     s.lnt.heldCode = none ∧
     let k := ctxIndex s
     let c := getCtx s k
     let x := (ctxFromWin s).getD {}
     ctxFromWin s = some x ∧
     k ≠ 0 ∧
     c.st = 0) ∧
    /- clause 2 -/
    (let s : State := setCtx (setF up rDlvCtxCtl fDlvCtxCtlIndex 1) 1 { st := 2 }
     s.lnt.heldCode = none ∧
     let k := ctxIndex s
     let c := getCtx s k
     c.st = 2) ∧
    /- clause 3 -/
    (let s : State := setCtx (setF up rDlvCtxCtl fDlvCtxCtlIndex 1) 1 { st := 1 }
     s.lnt.heldCode = none ∧
     let k := ctxIndex s
     let c := getCtx s k
     c.st ≠ 2) ∧
    /- clause 4 -/
    (let s : State := setCtx (setF up rDlvCtxCtl fDlvCtxCtlIndex 1) 1 { st := 3 }
     s.lnt.heldCode = none ∧
     let k := ctxIndex s
     let c := getCtx s k
     c.st = 1 ∨ c.st = 2 ∨ c.st = 3) ∧
    /- clause 5 -/
    (let s : State := setCtx (setF up rDlvCtxCtl fDlvCtxCtlIndex 1) 1 { st := 4 }
     s.lnt.heldCode = none ∧
     let k := ctxIndex s
     let c := getCtx s k
     c.st = 4) ∧
    /- clause 6 -/
    (let s : State := setCtx (setF up rDlvCtxCtl fDlvCtxCtlIndex 1) 1 { st := 2 }
     s.lnt.heldCode = none ∧
     let k := ctxIndex s
     let c := getCtx s k
     c.st ≠ 4) ∧
    /- clause 7 -/
    (let k : Nat := 1
     let s : State := setCtx up 1 { st := 1 }
     ctxNum k = true ∧
     let c := getCtx s k
     c.st = 1) ∧
    /- clause 8 -/
    (let k : Nat := 1
     let s : State := setCtx up 1 { st := 2, window := 16, out := [{ stype := 1 }] }
     ctxNum k = true ∧
     let c := getCtx s k
     let g := { stype := 1 }
     c.st = 2 ∧
     nextSeg c = some g) ∧
    /- clause 9 -/
    (let k : Nat := 1
     let s : State := setCtx up 1 { st := 3 }
     ctxNum k = true ∧
     let c := getCtx s k
     c.st = 3 ∧
     nextSeg c = none ∧
     c.closeSent = false ∧
     c.out.all (·.sent) = true ∧
     c.peerClosed = false) ∧
    /- clause 10 -/
    (let k : Nat := 1
     let s : State := setCtx up 1 { st := 2, out := [{ sent := true }] }
     ctxNum k = true ∧
     let c := getCtx s k
     c.st = 2 ∧
     (c.out.filter (·.sent)).isEmpty = false) ∧
    /- clause 11 -/
    (let k : Nat := 2
     let s : State := setCtx up 2 { st := 2, out := [{ sent := true }] }
     ctxNum k = true ∧
     let c := getCtx s k
     c.st = 1 ∨ (c.st = 2 ∧ c.out.any (·.sent) = true)) ∧
    /- clause 12 -/
    (let k : Nat := 1
     let s : State := setCtx up 1 { st := 2, acksDue := 1 }
     ctxNum k = true ∧
     let c := getCtx s k
     c.st = 2 ∧
     0 < c.acksDue) :=
  ⟨by decide +kernel, by decide +kernel, by decide +kernel, by decide +kernel, by decide +kernel, by decide +kernel,
    by decide +kernel, by decide +kernel, by decide +kernel, by decide +kernel, by decide +kernel, by decide +kernel,
    by decide +kernel⟩

/-- MediaPipes: every clause with hypotheses. -/
theorem test_wit_MediaPipes :
    /- clause 0 -/
    (let r : CmdRef := r0
     let slot : Nat := 0
     let c : Cmd := { opcode := 0x28, o0 := 0x1000, st := .dispatched, order := 1, job := { total := 1, rec1 := recB 128 [(0, 2, 1), (4, 4, 64), (8, 6, 0x2000), (0x18, 4, 1), (65, 1, 4), (64 + 28, 2, 256)], rec2 := recB 32 [(0, 1, 2)] } }
     let s : State := having (up) 0 { opcode := 0x28, o0 := 0x1000, st := .dispatched, order := 1, job := { total := 1, rec1 := recB 128 [(0, 2, 1), (4, 4, 64), (8, 6, 0x2000), (0x18, 4, 1), (65, 1, 4), (64 + 28, 2, 256)], rec2 := recB 32 [(0, 1, 2)] } }
     r.scope < 8 ∧
     runsAs s r 0x28 c = true ∧
     slot < c.job.total ∧
     c.job.done.contains slot = false ∧
     s.mediaAsleep = false ∧
     let u := takeSlots s c slot
     let e := mfSlot c.job.rec2 slot
     writesStuck u (slotSpans c slot) = none ∧
     slKind e = 2) ∧
    /- clause 1 -/
    (let r : CmdRef := r0
     let slot : Nat := 0
     let c : Cmd := { opcode := 0x28, o0 := 0x1000, st := .dispatched, order := 1, job := { total := 1, rec1 := recB 128 [(0, 2, 1), (4, 4, 64), (8, 6, 0x2000), (0x18, 4, 1), (65, 1, 4), (64 + 28, 2, 256)], rec2 := recB 32 [(0, 1, 8), (20, 4, 1)] } }
     let s : State := having (up) 0 { opcode := 0x28, o0 := 0x1000, st := .dispatched, order := 1, job := { total := 1, rec1 := recB 128 [(0, 2, 1), (4, 4, 64), (8, 6, 0x2000), (0x18, 4, 1), (65, 1, 4), (64 + 28, 2, 256)], rec2 := recB 32 [(0, 1, 8), (20, 4, 1)] } }
     r.scope < 8 ∧
     runsAs s r 0x28 c = true ∧
     slot < c.job.total ∧
     c.job.done.contains slot = false ∧
     s.mediaAsleep = false ∧
     let u := takeSlots s c slot
     let e := mfSlot c.job.rec2 slot
     let src := memBytes u (slSrc e) (slLen e)
     writesStuck u (slotSpans c slot) = none ∧
     slKind e ≠ 2 ∧
     (slLen e = 0 ∨ readable u r.scope (slSrc e) (slLen e) = .ok ()) ∧
     (slCrcEn e && crc32c src ≠ slCrc e) = true) ∧
    /- clause 2 -/
    (let r : CmdRef := r0
     let slot : Nat := 0
     let c : Cmd := { opcode := 0x28, o0 := 0x1000, st := .dispatched, order := 1, job := { total := 1, rec1 := recB 128 [(0, 2, 1), (4, 4, 64), (8, 6, 0x2000), (0x18, 4, 1), (65, 1, 4), (64 + 28, 2, 256)], rec2 := recB 32 [] } }
     let s : State := having (up) 0 { opcode := 0x28, o0 := 0x1000, st := .dispatched, order := 1, job := { total := 1, rec1 := recB 128 [(0, 2, 1), (4, 4, 64), (8, 6, 0x2000), (0x18, 4, 1), (65, 1, 4), (64 + 28, 2, 256)], rec2 := recB 32 [] } }
     r.scope < 8 ∧
     runsAs s r 0x28 c = true ∧
     slot < c.job.total ∧
     c.job.done.contains slot = false ∧
     s.mediaAsleep = false ∧
     let u := takeSlots s c slot
     let e := mfSlot c.job.rec2 slot
     let src := memBytes u (slSrc e) (slLen e)
     writesStuck u (slotSpans c slot) = none ∧
     slKind e ≠ 2 ∧
     (slLen e = 0 ∨ readable u r.scope (slSrc e) (slLen e) = .ok ()) ∧
     (slCrcEn e && crc32c src ≠ slCrc e) = false ∧
     slKind e = 0) ∧
    /- clause 3 -/
    (let r : CmdRef := r0
     let slot : Nat := 0
     let c : Cmd := { opcode := 0x28, o0 := 0x1000, st := .dispatched, order := 1, job := { total := 1, rec1 := recB 128 [(0, 2, 1), (4, 4, 64), (8, 6, 0x2000), (0x18, 4, 1), (65, 1, 4), (64 + 28, 2, 256)], rec2 := recB 32 [(0, 1, 1)] } }
     let s : State := having (up) 0 { opcode := 0x28, o0 := 0x1000, st := .dispatched, order := 1, job := { total := 1, rec1 := recB 128 [(0, 2, 1), (4, 4, 64), (8, 6, 0x2000), (0x18, 4, 1), (65, 1, 4), (64 + 28, 2, 256)], rec2 := recB 32 [(0, 1, 1)] } }
     r.scope < 8 ∧
     runsAs s r 0x28 c = true ∧
     slot < c.job.total ∧
     c.job.done.contains slot = false ∧
     s.mediaAsleep = false ∧
     let u := takeSlots s c slot
     let e := mfSlot c.job.rec2 slot
     let src := memBytes u (slSrc e) (slLen e)
     writesStuck u (slotSpans c slot) = none ∧
     slKind e ≠ 2 ∧
     (slLen e = 0 ∨ readable u r.scope (slSrc e) (slLen e) = .ok ()) ∧
     (slCrcEn e && crc32c src ≠ slCrc e) = false ∧
     slKind e ≠ 0) ∧
    /- clause 4 -/
    (let pipe : Nat := 7
     let k : Nat := 255
     let p : Nat := 0
     let o : Nat := 0
     let r : CmdRef := r0
     let c : Cmd := { opcode := 0x2D, o0 := 255, o2 := 16 + 16 * 2 ^ 16, st := .dispatched, order := 1 }
     let s : State := setStream (having up 0 { opcode := 0x2D, o0 := 255, o2 := 16 + 16 * 2 ^ 16, st := .dispatched, order := 1 }) 255 { st := 1, hall := 0, bytes := recB 128 [(1, 1, 8), (2, 2, 16), (4, 2, 16), (6, 1, 2), (8, 6, 0x100000), (0x18, 6, 0x800000), (0x20, 5, 0x1000000), (0x28, 6, 0x40000), (0x2E, 2, 16)], todo := [(r0, 0, 0)] }
     let v : Stream := getStream s 255
     pipe < 10 ∧
     (fmFind s.frz.pipes pipe).isSome = false ∧
     s.mediaAsleep = false ∧
     pipePick (pipeChoices s (decide (8 ≤ pipe))) = some (k, v, r, p, o) ∧
     findCmd s r = some c) ∧
    /- clause 5 -/
    (let pipe : Nat := 7
     let ref : Nat := 0
     let x : Pipe := { ctx := 255, cmd := r0 }
     let p : DecPic := ⟨false, [], none, true, none, false, false, 16, 16, 8, 0, 0, []⟩
     let s : State := let s := setStream (having up 0 { opcode := 0x2D, o0 := 255, o2 := 16 + 16 * 2 ^ 16, st := .dispatched, order := 1 }) 255 { st := 1, hall := 0, bytes := recB 128 [(1, 1, 8), (2, 2, 16), (4, 2, 16), (6, 1, 2), (8, 6, 0x100000), (0x18, 6, 0x800000), (0x20, 5, 0x1000000), (0x28, 6, 0x40000), (0x2E, 2, 16)] }; { s with frz := { s.frz with pipes := [(7, { ctx := 255, cmd := r0 })] } }
     pipe < 8 ∧
     fmFind s.frz.pipes pipe = some x ∧
     let v := getStream s x.ctx
     decodeState v p = (0, ref) ∧
     unreleased v x.pic = false ∧
     p.missing = [] ∧
     writesStuck s [(bufAddr v.bytes x.pic, picBytes { width := p.width, height := p.height, depth := p.depth }), recSpan v] = none) ∧
    /- clause 6 -/
    (let pipe : Nat := 8
     let x : Pipe := { ctx := 255, cmd := r0 }
     let bytes : List Byte := [1]
     let s : State := let s := setStream (having up 0 { opcode := 0x2D, o0 := 255, o2 := 16 + 16 * 2 ^ 16, st := .dispatched, order := 1 }) 255 { st := 1, hall := 0, bytes := recB 128 [(0, 1, 1), (0x14, 4, 4096), (1, 1, 8), (2, 2, 16), (4, 2, 16), (6, 1, 2), (8, 6, 0x100000), (0x18, 6, 0x800000), (0x20, 5, 0x1000000), (0x28, 6, 0x40000), (0x2E, 2, 16)] }; { s with frz := { s.frz with pipes := [(8, { ctx := 255, cmd := r0 })] } }
     8 ≤ pipe ∧
     pipe < 10 ∧
     fmFind s.frz.pipes pipe = some x ∧
     let v := getStream s x.ctx
     let w := (encSize s x).1
     let h := (encSize s x).2
     let rows := min (x.rows + srSliceRows v.bytes) (codeRows h)
     let bits := x.bits + 8 * bytes.length
     x.rows < codeRows h ∧
     (srRc v.bytes = 0 ∨ bits ≤ allowance v w h x.rap rows) ∧
     srSub v.bytes = false) ∧
    /- clause 7 -/
    (let pipe : Nat := 9
     let x : Pipe := { ctx := 255, cmd := r0 }
     let bytes : List Byte := [1]
     let s : State := let s := setStream (having up 0 { opcode := 0x2D, o0 := 255, o2 := 16 + 16 * 2 ^ 16, st := .dispatched, order := 1 }) 255 { st := 1, hall := 0, bytes := recB 128 [(0, 1, 17), (0x14, 4, 4096), (1, 1, 8), (2, 2, 16), (4, 2, 16), (6, 1, 2), (8, 6, 0x100000), (0x18, 6, 0x800000), (0x20, 5, 0x1000000), (0x28, 6, 0x40000), (0x2E, 2, 16)] }; { s with frz := { s.frz with pipes := [(9, { ctx := 255, cmd := r0 })] } }
     8 ≤ pipe ∧
     pipe < 10 ∧
     fmFind s.frz.pipes pipe = some x ∧
     let v := getStream s x.ctx
     let w := (encSize s x).1
     let h := (encSize s x).2
     let rows := min (x.rows + srSliceRows v.bytes) (codeRows h)
     let bits := x.bits + 8 * bytes.length
     x.rows < codeRows h ∧
     (srRc v.bytes = 0 ∨ bits ≤ allowance v w h x.rap rows) ∧
     srSub v.bytes = true ∧
     bytes.length + 16 ≤ outRoom v ∧
     writesStuck s (outSpans v (bytes.length + 16)) = none) ∧
    /- clause 8 -/
    (let pipe : Nat := 9
     let x : Pipe := { ctx := 255, cmd := r0, rows := 1 }
     let filler : List Byte := []
     let s : State := let s := setStream (having up 0 { opcode := 0x2D, o0 := 255, o2 := 16 + 16 * 2 ^ 16, st := .dispatched, order := 1 }) 255 { st := 1, hall := 0, bytes := recB 128 [(0, 1, 1), (0x14, 4, 4096), (1, 1, 8), (2, 2, 16), (4, 2, 16), (6, 1, 2), (8, 6, 0x100000), (0x18, 6, 0x800000), (0x20, 5, 0x1000000), (0x28, 6, 0x40000), (0x2E, 2, 16)] }; { s with frz := { s.frz with pipes := [(9, { ctx := 255, cmd := r0, rows := 1 })] } }
     8 ≤ pipe ∧
     pipe < 10 ∧
     fmFind s.frz.pipes pipe = some x ∧
     let v := getStream s x.ctx
     let h := (encSize s x).2
     let out := (if srSub v.bytes then [] else x.data ++ sliceRec x.data.length x.pic 0 true x.data) ++ filler
     codeRows h ≤ x.rows ∧
     filler.length = ceilDiv (shortfall v x.bits) 8 ∧
     out.length ≤ outRoom v ∧
     writesStuck s (recSpan v :: outSpans v out.length) = none) ∧
    /- clause 9 -/
    (let s : State := setF (setStream (up) 255 { st := 1, hall := 0, bytes := recB 128 [(0, 1, 1), (0x14, 4, 4096), (1, 1, 8), (2, 2, 16), (4, 2, 16), (6, 1, 2), (8, 6, 0x100000), (0x18, 6, 0x800000), (0x20, 5, 0x1000000), (0x28, 6, 0x40000), (0x2E, 2, 16)] }) rFrzCtxSel fFrzCtxSelCtx 255
     s.lnt.heldCode = none ∧
     (getStream s (getF s rFrzCtxSel fFrzCtxSelCtx)).st ≠ 0) :=
  ⟨by decide +kernel, by decide +kernel, by decide +kernel, by decide +kernel, by decide +kernel, by decide +kernel,
    by decide +kernel, by decide +kernel, by decide +kernel, by decide +kernel⟩

/-- SegmentsReceived: every clause with hypotheses. -/
theorem test_wit_SegmentsReceived :
    /- clause 3 -/
    (let port : Nat := 33
     let vc : Nat := 3
     let b : List Byte := (segBytes (setF up rOrlDevice fOrlDeviceDevice 5) { peerCtx := 1, localInc := 0, rxNext := 0 } 1 0 true true 0 7 [])
     let rest : List (Nat × List Byte) := []
     let s : State := setPort (setCtx up 1 { st := 2, peer := 5, peerInc := 7, window := 16 }) 33 { rx := [(3, (segBytes (setF up rOrlDevice fOrlDeviceDevice 5) { peerCtx := 1, localInc := 0, rxNext := 0 } 1 0 true true 0 7 []))] }
     let u := segTaken s port vc rest
     let k := sgCtx b
     let c := getCtx u k
     segReady s port 1 vc b rest = true ∧
     c.st = 2 ∧
     staleInc c b = false) ∧
    /- clause 4 -/
    (let port : Nat := 33
     let vc : Nat := 3
     let b : List Byte := (segBytes (setF up rOrlDevice fOrlDeviceDevice 5) { peerCtx := 1, localInc := 0, rxNext := 0 } 2 0 true true 0 7 [])
     let rest : List (Nat × List Byte) := []
     let s : State := setPort (setCtx up 1 { st := 1, peer := 5, peerInc := 7, window := 16 }) 33 { rx := [(3, (segBytes (setF up rOrlDevice fOrlDeviceDevice 5) { peerCtx := 1, localInc := 0, rxNext := 0 } 2 0 true true 0 7 []))] }
     let u := segTaken s port vc rest
     let k := sgCtx b
     let c := getCtx u k
     segReady s port 2 vc b rest = true ∧
     c.st = 1) ∧
    /- clause 5 -/
    (let port : Nat := 33
     let vc : Nat := 3
     let b : List Byte := (segBytes (setF up rOrlDevice fOrlDeviceDevice 5) { peerCtx := 1, localInc := 0, rxNext := 0 } 3 0 true true 0 7 [])
     let rest : List (Nat × List Byte) := []
     let s : State := setPort (setCtx up 1 { st := 1, peer := 5, peerInc := 7, window := 16 }) 33 { rx := [(3, (segBytes (setF up rOrlDevice fOrlDeviceDevice 5) { peerCtx := 1, localInc := 0, rxNext := 0 } 3 0 true true 0 7 []))] }
     let u := segTaken s port vc rest
     let k := sgCtx b
     let c := getCtx u k
     segReady s port 3 vc b rest = true ∧
     c.st = 1) ∧
    /- clause 6 -/
    (let port : Nat := 33
     let vc : Nat := 3
     let b : List Byte := (segBytes (setF up rOrlDevice fOrlDeviceDevice 5) { peerCtx := 1, localInc := 0, rxNext := 0 } 4 0 true true 0 7 [])
     let rest : List (Nat × List Byte) := []
     let s : State := setPort (setCtx up 1 { st := 2, peer := 5, peerInc := 7, window := 16 }) 33 { rx := [(3, (segBytes (setF up rOrlDevice fOrlDeviceDevice 5) { peerCtx := 1, localInc := 0, rxNext := 0 } 4 0 true true 0 7 []))] }
     let u := segTaken s port vc rest
     let k := sgCtx b
     let c := getCtx u k
     segReady s port 4 vc b rest = true ∧
     c.st = 2 ∧
     staleInc c b = false) ∧
    /- clause 7 -/
    (let port : Nat := 33
     let vc : Nat := 3
     let b : List Byte := (segBytes (setF up rOrlDevice fOrlDeviceDevice 5) { peerCtx := 1, localInc := 0, rxNext := 0 } 4 0 true true 0 7 [])
     let rest : List (Nat × List Byte) := []
     let s : State := setPort (setCtx up 1 { st := 3, peer := 5, peerInc := 7, window := 16, closeSent := true }) 33 { rx := [(3, (segBytes (setF up rOrlDevice fOrlDeviceDevice 5) { peerCtx := 1, localInc := 0, rxNext := 0 } 4 0 true true 0 7 []))] }
     let u := segTaken s port vc rest
     let k := sgCtx b
     let c := getCtx u k
     segReady s port 4 vc b rest = true ∧
     c.st = 3 ∧
     staleInc c b = false ∧
     c.closeSent = true) :=
  ⟨by decide +kernel, by decide +kernel, by decide +kernel, by decide +kernel, by decide +kernel⟩

/-- InterruptClaims: every clause with hypotheses. -/
theorem test_wit_InterruptClaims :
    /- clause 0 -/
    (let core : Nat := 0
     let s : State := withF ({ up with run := fmPut up.run (secKey tyIRQ 0xFF 0) (sec [recB 8 [(0, 2, 960), (2, 1, 3)]]) }) [(rIcuSrc 0 960, fIcuSrcSoft, 1), (rIcuSrc 0 960, fIcuSrcEnable, 1), (rIcuThreshold 0, fIcuThresholdThreshold, 0)]
     core < 16 ∧
     s.lnt.heldCode = none ∧
     let p := ((bestSource (qualifying s 0)).getD (0, 0)).1
     let n := ((bestSource (qualifying s 0)).getD (0, 0)).2
     bestSource (qualifying s core) = some (p, n)) ∧
    /- clause 1 -/
    (let core : Nat := 0
     let s : State := setF up (rIcuCoreStatus 0) fIcuCoreStatusRaised 1
     core < 16 ∧
     s.lnt.heldCode = none ∧
     let st := rIcuCoreStatus core
     bestSource (qualifying s core) = none ∧
     isF s st fIcuCoreStatusRaised = true) ∧
    /- clause 2 -/
    (let core : Nat := 0
     let s : State := up
     core < 16 ∧
     s.lnt.heldCode = none ∧
     let st := rIcuCoreStatus core
     bestSource (qualifying s core) = none ∧
     isF s st fIcuCoreStatusRaised = false) ∧
    /- clause 3 -/
    (let core : Nat := 0
     let id : Nat := 960
     let s : State := { up with mez := { up.mez with claimed := [(srcKey 0 960, (3, 0))] } }
     core < 16 ∧
     s.lnt.heldCode = none ∧
     let x := 3
     srcActive s core id = some (x, core)) ∧
    /- clause 4 -/
    (let core : Nat := 0
     let id : Nat := 1023
     let s : State := up
     core < 16 ∧
     s.lnt.heldCode = none ∧
     srcActive s core id = none) ∧
    /- clause 5 -/
    (let core : Nat := 15
     let n : Nat := 1022
     let s : State := up
     core < 16 ∧
     1 ≤ n ∧
     n < 1023 ∧
     s.lnt.heldCode = none) ∧
    /- clause 7 -/
    (let s : State := up
     s.lnt.heldCode = none ∧
     isF s rLntPresence fLntPresenceDebug = false) ∧
    /- clause 9 -/
    (let s : State := withF up [(rLntPresence, fLntPresenceDebug, 1)]
     s.lnt.heldCode = none ∧
     isF s rLntPresence fLntPresenceDebug = true) :=
  ⟨by decide +kernel, by decide +kernel, by decide +kernel, by decide +kernel, by decide +kernel, by decide +kernel,
    by decide +kernel, by decide +kernel⟩

/-- ResetSources: every clause with hypotheses. -/
theorem test_wit_ResetSources :
    /- clause 0 -/
    (let s : State := { up with lnt := { up.lnt with railUp := false } }
     s.lnt.railUp = false) ∧
    /- clause 1 -/
    (let s : State := { up with lnt := { up.lnt with pgIo := true } }
     s.lnt.railUp = true ∧
     s.lnt.pgIo = true) ∧
    /- clause 2 -/
    (let s : State := up
     s.lnt.railUp = true ∧
     s.lnt.coldRst = false) ∧
    /- clause 3 -/
    (let s : State := { up with lnt := { up.lnt with pgCore := false } }
     s.lnt.railUp = true ∧
     s.lnt.pgCore = false ∧
     s.lnt.pgIo = false) ∧
    /- clause 4 -/
    (let s : State := up
     s.lnt.railUp = true) ∧
    /- clause 6 -/
    (let s : State := up
     lntWritable s = true) ∧
    /- clause 8 -/
    (let s : State := withF up [(rLntWdog, fLntWdogEnable, 1), (rMezStatus, fMezStatusWorking, 1)]
     isF s rLntWdog fLntWdogEnable = true ∧
     (workingCores s).isEmpty = false) ∧
    /- clause 10 -/
    (let s : State := having up 8 { opcode := 0x31 }
     s.lnt.stopping = false ∧
     s.lnt.off = false ∧
     s.lnt.warm = false ∧
     s.lnt.railUp = true ∧
     s.lnt.heldCode = none ∧
     (List.range 9).any (fun k => !(incompleteCmds s k).isEmpty) = true) ∧
    /- clause 11 -/
    (let s : State := withF up [(rLntStatus, fLntStatusStage, 0)]
     s.lnt.railUp = true ∧
     s.lnt.off = false ∧
     s.lnt.heldCode = none ∧
     let code := 1
     stageOf s ≠ 0xF ∧
     code ≠ 3 ∧
     stageCode (stageOf s) code = true) ∧
    /- clause 12 -/
    (let s : State := withF up [(rLntStatus, fLntStatusStage, 0)]
     s.lnt.railUp = true ∧
     s.lnt.off = false ∧
     s.lnt.heldCode = none ∧
     stageOf s = 0) ∧
    /- clause 13 -/
    (let s : State := let s := withF up [(rLntStatus, fLntStatusStage, 1)]; { s with lnt := { s.lnt with pgIo := true, pgCore := true } }
     s.lnt.railUp = true ∧
     s.lnt.off = false ∧
     s.lnt.heldCode = none ∧
     stageOf s = 1 ∧
     isF s rLntStatus fLntStatusOsc = false ∧
     s.lnt.pgIo = true ∧
     s.lnt.pgCore = true) ∧
    /- clause 14 -/
    (let s : State := withF up [(rLntStatus, fLntStatusStage, 2)]
     s.lnt.railUp = true ∧
     s.lnt.off = false ∧
     s.lnt.heldCode = none ∧
     stageOf s = 2) ∧
    /- clause 15 -/
    (let s : State := withF up [(rLntStatus, fLntStatusStage, 3)]
     s.lnt.railUp = true ∧
     s.lnt.off = false ∧
     s.lnt.heldCode = none ∧
     stageOf s = 3) ∧
    /- clause 16 -/
    (let s : State := let s := withF up [(rLntStatus, fLntStatusStage, 4)]; { s with lnt := { s.lnt with perst := true } }
     s.lnt.railUp = true ∧
     s.lnt.off = false ∧
     s.lnt.heldCode = none ∧
     stageOf s = 4 ∧
     s.lnt.perst = true) ∧
    /- clause 17 -/
    (let s : State := let s := withF up [(rLntStatus, fLntStatusStage, 4)]; { s with lnt := { s.lnt with perst := false } }
     s.lnt.railUp = true ∧
     s.lnt.off = false ∧
     s.lnt.heldCode = none ∧
     stageOf s = 4 ∧
     s.lnt.perst = false) ∧
    /- clause 18 -/
    (let s : State := withF up [(rLntStatus, fLntStatusStage, 5)]
     s.lnt.railUp = true ∧
     s.lnt.off = false ∧
     s.lnt.heldCode = none ∧
     stageOf s = 5) ∧
    /- clause 19 -/
    (let s : State := withF up [(rLntStatus, fLntStatusStage, 6)]
     s.lnt.railUp = true ∧
     s.lnt.off = false ∧
     s.lnt.heldCode = none ∧
     stageOf s = 6) ∧
    /- clause 20 -/
    (let s : State := withF up [(rLntStatus, fLntStatusStage, 7)]
     s.lnt.railUp = true ∧
     s.lnt.off = false ∧
     s.lnt.heldCode = none ∧
     stageOf s = 7) ∧
    /- clause 21 -/
    (let s : State := withF up [(rLntStatus, fLntStatusStage, 8)]
     s.lnt.railUp = true ∧
     s.lnt.off = false ∧
     s.lnt.heldCode = none ∧
     stageOf s = 8 ∧
     s.lnt.hot = false) :=
  ⟨by decide +kernel, by decide +kernel, by decide +kernel, by decide +kernel, by decide +kernel, by decide +kernel,
    by decide +kernel, by decide +kernel, by decide +kernel, by decide +kernel, by decide +kernel, by decide +kernel,
    by decide +kernel, by decide +kernel, by decide +kernel, by decide +kernel, by decide +kernel, by decide +kernel,
    by decide +kernel⟩

/-- ShutdownRuns: every clause with hypotheses. -/
theorem test_wit_ShutdownRuns :
    /- clause 0 -/
    (let s : State := up
     s.lnt.stopping = false ∧
     s.lnt.off = false ∧
     s.lnt.warm = false ∧
     s.lnt.railUp = true ∧
     s.lnt.heldCode = none ∧
     (List.range 9).any (fun k => !(incompleteCmds s k).isEmpty) = false) :=
  by decide +kernel

/-- FlightPower: every clause with hypotheses. -/
theorem test_wit_FlightPower :
    /- clause 0 -/
    (let hall : Nat := 0
     let s : State := { up with run := fmPut up.run (secKey tyPOWER 0xFF 0) (sec [recB 64 [(0, 2, 1), (2, 2, 1)]]) }
     hall < 8 ∧
     flightIdle s ≠ 0 ∧
     (incompleteCmds s hall).isEmpty = true ∧
     hallSegments s hall = false ∧
     (getH s hall).wake = false ∧
     (workingFlights s hall).any (fun f => fltState s f ≠ 2) = false) ∧
    /- clause 1 -/
    (let f : Nat := 15
     let s : State := withF up [(rFltPwrStatus 15, fFltPwrStatusState, 3)]
     f < 16 ∧
     fltState s f = 3) ∧
    /- clause 2 -/
    (let f : Nat := 15
     let us : Nat := 100
     let s : State := withF up [(rFltPwrStatus 15, fFltPwrStatusState, 1)]
     f < 16 ∧
     fltState s f = 1 ∧
     us ≤ 100) ∧
    /- clause 3 -/
    (let f : Nat := 0
     let s : State := withF up [(rFltPwrStatus 0, fFltPwrStatusState, 1)]
     f < 16 ∧
     fltState s f = 1) ∧
    /- clause 4 -/
    (let f : Nat := 0
     let h : Nat := 0
     let s : State := let s := withF up [(rFltPwrStatus 0, fFltPwrStatusState, 4)]; setH s 0 { getH s 0 with wake := true }
     f < 16 ∧
     flightHall s.run f = some h ∧
     (getH s h).wake = true ∧
     ((workingFlights s h).filter fun g => fltState s g = 0 || fltState s g = 4).head? = some f) ∧
    /- clause 5 -/
    (let s : State := { up with run := fmPut up.run (secKey tyPOWER 0xFF 0) (sec [recB 64 [(0, 2, 1), (2, 2, 1)]]) }
     s.mediaAsleep = false ∧
     mediaIdle s ≠ 0 ∧
     mediaWork s = false ∧
     liveOpen s = false) ∧
    /- clause 6 -/
    (let s : State := { having up 0 { opcode := 0x28 } with mediaAsleep := true }
     s.mediaAsleep = true ∧
     mediaWork s = true) ∧
    /- clause 7 -/
    (let dom : Nat := 0
     let s : State := up
     dom < 32 ∧
     s.lnt.heldCode = none ∧
     domainFree s dom = false) ∧
    /- clause 8 -/
    (let dom : Nat := 15
     let s : State := withF up [(rFltIsolate 15, fFltIsolateIsolate, 1)]
     dom < 32 ∧
     s.lnt.heldCode = none ∧
     domainFree s dom = true ∧
     dom < 16) ∧
    /- clause 9 -/
    (let dom : Nat := 22
     let s : State := up
     dom < 32 ∧
     s.lnt.heldCode = none ∧
     domainFree s dom = true ∧
     dom = 22) ∧
    /- clause 10 -/
    (let dom : Nat := 20
     let s : State := withF up ((List.range 34).map fun p => (rOrlPortCtl p, fOrlPortCtlRole, 1))
     dom < 32 ∧
     s.lnt.heldCode = none ∧
     domainFree s dom = true ∧
     16 ≤ dom ∧
     dom ≠ 22) :=
  ⟨by decide +kernel, by decide +kernel, by decide +kernel, by decide +kernel, by decide +kernel, by decide +kernel,
    by decide +kernel, by decide +kernel, by decide +kernel, by decide +kernel, by decide +kernel⟩

/-- ThermalAndVoltage: every clause with hypotheses. -/
theorem test_wit_ThermalAndVoltage :
    /- clause 0 -/
    (let temps : List Int := [109, 109, 109, 109, 104, -5]
     let s : State := up
     temps.length = 6 ∧
     s.lnt.railUp = true ∧
     let t (i : Nat) : Int := temps.getD i 0
     (∀ d, d < 4 → t d < 110) ∧
     t 4 < 105) ∧
    /- clause 3 -/
    (let s : State := { withF up [(rLntStatus, fLntStatusStage, 1)] with lnt := { up.lnt with vidDone := false } }
     s.lnt.railUp = true ∧
     stageOf s ≠ 0 ∧
     s.lnt.vidDone = false ∧
     s.lnt.off = false ∧
     s.lnt.heldCode = none) ∧
    /- clause 4 -/
    (let s : State := { withF up [(rLntStatus, fLntStatusStage, 1)] with lnt := { up.lnt with vidDone := false } }
     s.lnt.railUp = true ∧
     stageOf s ≠ 0 ∧
     s.lnt.vidDone = false ∧
     s.lnt.off = false ∧
     s.lnt.heldCode = none) :=
  ⟨by decide +kernel, by decide +kernel, by decide +kernel⟩

/-- UnitIsolation: every clause with hypotheses. -/
theorem test_wit_UnitIsolation :
    /- clause 0 -/
    (let f : Nat := 15
     let s : State := up
     f < 16 ∧
     s.lnt.heldCode = none ∧
     flightWorking s f = true) ∧
    /- clause 2 -/
    (let f : Nat := 0
     let s : State := let s := withF up [(rFltIsolate 0, fFltIsolateIsolate, 1)]; { s with integ := { s.integ with records := (List.range 9).map fun i => { kind := 2, slice := 0, sub := 0x100, bit := i, address := i } } }
     f < 16 ∧
     s.lnt.heldCode = none ∧
     flightWorking s f = false ∧
     let u := setF s (rFltIsolate f) fFltIsolateIsolate 0
     let u := applySram { u with integ := { u.integ with galleryFaults := fmErase u.integ.galleryFaults f } } f
     flightWorking u f = false) ∧
    /- clause 3 -/
    (let f : Nat := 0
     let s : State := withF up [(rFltIsolate 0, fFltIsolateIsolate, 1)]
     f < 16 ∧
     s.lnt.heldCode = none ∧
     flightWorking s f = false ∧
     let u := setF s (rFltIsolate f) fFltIsolateIsolate 0
     let u := applySram { u with integ := { u.integ with galleryFaults := fmErase u.integ.galleryFaults f } } f
     flightWorking u f = true) ∧
    /- clause 4 -/
    (let b : Nat := 7
     let s : State := up
     b < 8 ∧
     s.lnt.heldCode = none) ∧
    /- clause 5 -/
    (let b : Nat := 7
     let s : State := withF up [(rLntBlockIsolate, fLntBlockIsolateBlocks, 128)]
     b < 8 ∧
     s.lnt.heldCode = none ∧
     blockIsolated s b = true ∧
     s.integ.passed.contains b = false) ∧
    /- clause 6 -/
    (let b : Nat := 7
     let s : State := let s := withF up [(rLntBlockIsolate, fLntBlockIsolateBlocks, 128)]; { s with integ := { s.integ with passed := [7] } }
     b < 8 ∧
     s.lnt.heldCode = none ∧
     blockIsolated s b = true ∧
     s.integ.passed.contains b = true) ∧
    /- clause 7 -/
    (let slice : Nat := 0
     let s : State := up
     s.lnt.heldCode = none ∧
     runOk s slice = false) ∧
    /- clause 8 -/
    (let slice : Nat := 97
     let s : State := withF up [(rLntBlockIsolate, fLntBlockIsolateBlocks, 128)]
     s.lnt.heldCode = none ∧
     runOk s slice = true) ∧
    /- clause 9 -/
    (let slice : Nat := 97
     let fails : List (Nat × Nat × Nat × Nat) := []
     let s : State := { up with integ := { up.integ with testing := [97] } }
     slice < 101 ∧
     s.integ.testing.contains slice = true ∧
     fails.all (fun f => sliceKind slice f.1) = true) :=
  ⟨by decide +kernel, by decide +kernel, by decide +kernel, by decide +kernel, by decide +kernel, by decide +kernel,
    by decide +kernel, by decide +kernel, by decide +kernel⟩

/-- PresenceAndSeal: every clause with hypotheses. -/
theorem test_wit_PresenceAndSeal :
    /- clause 0 -/
    (let s : State := up
     isF s rLntPresence fLntPresencePin = false) ∧
    /- clause 1 -/
    (let s : State := withF up [(rLntPresence, fLntPresenceOpen, 1)]
     isF s rLntPresence fLntPresencePin = false ∧
     windowOpen s = true) ∧
    /- clause 2 -/
    (let s : State := withF up [(rLntPresence, fLntPresencePin, 1), (rLntPresence, fLntPresenceOpen, 1)]
     isF s rLntPresence fLntPresencePin = true) ∧
    /- clause 4 -/
    (let s : State := withF up [(rLntPresence, fLntPresencePin, 1), (rLntPresence, fLntPresenceOpen, 1)]
     isF s rLntPresence fLntPresencePin = true ∧
     windowOpen s = true) ∧
    /- clause 5 -/
    (let s : State := up
     s.lnt.railUp = true) ∧
    /- clause 7 -/
    (let s : State := { up with lnt := { up.lnt with mism := 2 } }
     s.lnt.railUp = true ∧
     s.lnt.mism < 3) ∧
    /- clause 8 -/
    (let s : State := { up with lnt := { up.lnt with mism := 3 } }
     s.lnt.railUp = true ∧
     3 ≤ s.lnt.mism ∧
     s.lnt.armed = true) ∧
    /- clause 9 -/
    (let s : State := { up with lnt := { up.lnt with mism := 3, armed := false } }
     s.lnt.railUp = true ∧
     3 ≤ s.lnt.mism ∧
     s.lnt.armed = false) :=
  ⟨by decide +kernel, by decide +kernel, by decide +kernel, by decide +kernel, by decide +kernel, by decide +kernel,
    by decide +kernel, by decide +kernel⟩

/-- SidebandAnswers: every clause with hypotheses. -/
theorem test_wit_SidebandAnswers :
    /- clause 0 -/
    (let s : State := up
     s.lnt.railUp = true) ∧
    /- clause 2 -/
    (let s : State := { up with lnt := { up.lnt with railUp := false } }
     s.lnt.railUp = false) ∧
    /- clause 3 -/
    (let ty : Nat := 5
     ty ≠ 0 ∧
     ty ≠ 1) ∧
    /- clause 4 -/
    (let tid : Nat := 255
     let s : State := withF up [(rLntStatus, fLntStatusStage, 4)]
     sideband s = true ∧
     tid < 256) ∧
    /- clause 12 -/
    (let tid : Nat := 255
     let sensor : Nat := 1
     let s : State := { withF up [(rLntStatus, fLntStatusStage, 4)] with lnt := { up.lnt with sensors := [(1, some (-5))] } }
     sideband s = true ∧
     tid < 256 ∧
     let n := 1
     let v := -5
     sensorSize sensor = some n ∧
     (fmFind s.lnt.sensors sensor).getD none = some v) ∧
    /- clause 13 -/
    (let tid : Nat := 255
     let s : State := { withF up [(rLntStatus, fLntStatusStage, 4)] with lnt := { up.lnt with sensors := [(9, some 2)] } }
     sideband s = true ∧
     tid < 256 ∧
     let v := 2
     (fmFind s.lnt.sensors 9).getD none = some v) ∧
    /- clause 14 -/
    (let tid : Nat := 255
     let sensor : Nat := 1
     let s : State := withF up [(rLntStatus, fLntStatusStage, 4)]
     sideband s = true ∧
     tid < 256 ∧
     sensor ≠ 9) ∧
    /- clause 15 -/
    (let tid : Nat := 255
     let pldm : Nat := 0
     let cmd : Nat := 255
     let s : State := withF up [(rLntStatus, fLntStatusStage, 4)]
     sideband s = true ∧
     tid < 256 ∧
     pldmServed pldm cmd = false) :=
  ⟨by decide +kernel, by decide +kernel, by decide +kernel, by decide +kernel, by decide +kernel, by decide +kernel,
    by decide +kernel, by decide +kernel⟩

/-- BoundaryScan: every clause with hypotheses. -/
theorem test_wit_BoundaryScan :
    /- clause 3 -/
    (let s : State := { up with lnt := { up.lnt with coldRst := true } }
     s.lnt.coldRst = true) ∧
    /- clause 8 -/
    (let s : State := up
     s.lnt.coldRst = false) ∧
    /- clause 13 -/
    (let s : State := { up with lnt := { up.lnt with coldRst := true, tap := 3 } }
     s.lnt.coldRst = true ∧
     3 ≤ s.lnt.tap) ∧
    /- clause 14 -/
    (let s : State := up
     s.lnt.coldRst = false ∨ s.lnt.tap < 3) :=
  ⟨by decide +kernel, by decide +kernel, by decide +kernel, by decide +kernel⟩

/-- BadAccessesDoNothing: every clause with hypotheses. -/
theorem test_wit_BadAccessesDoNothing :
    /- clause 3 -/
    (let fn : Nat := 0
     let off : Nat := 2
     let size : Nat := 4
     let s : State := up
     inBar fn off size = true ∧
     barOpen s = true ∧
     ¬((size = 4 ∨ size = 8) ∧ size ∣ off)) ∧
    /- clause 4 -/
    (let fn : Nat := 0
     let off : Nat := 4
     let size : Nat := 8
     let s : State := up
     inBar fn off size = true ∧
     barOpen s = true ∧
     (¬((size = 4 ∨ size = 8) ∧ size ∣ off)) ∧
     xfmHit (barOffset fn off) size = none) ∧
    /- clause 5 -/
    (let a : Nat := regSpace + 1
     let bs : List Byte := [1, 2, 3, 4]
     ¬((bs.length = 4 ∨ bs.length = 8) ∧ bs.length ∣ a - regSpace)) ∧
    /- clause 6 -/
    (let fn : Nat := 9
     let off : Nat := 0xFFF8
     let size : Nat := 8
     let s : State := up
     inBar fn off size = true ∧
     barOpen s = true ∧
     (size = 4 ∨ size = 8) ∧
     size ∣ off ∧
     implemented s (barOffset fn off / 8 * 8) = false) ∧
    /- clause 8 -/
    (let a : Nat := regSpace + 0x10FFF8
     let bs : List Byte := [1, 2, 3, 4, 5, 6, 7, 8]
     let s : State := up
     (bs.length = 4 ∨ bs.length = 8) ∧
     bs.length ∣ a - regSpace ∧
     implemented s ((a - regSpace) / 8 * 8) = false) :=
  ⟨by decide +kernel, by decide +kernel, by decide +kernel, by decide +kernel, by decide +kernel⟩

/-- EventRegistersDriveTheirSources: every clause with hypotheses. -/
theorem test_wit_EventRegistersDriveTheirSources :
    /- clause 7 -/
    (let c : Nat := 15
     c < 16) :=
  by decide +kernel

/-- MezzanineCores: every clause with hypotheses. -/
theorem test_wit_MezzanineCores :
    /- clause 0 -/
    (let core : Nat := 15
     let s : State := withF up [(rMezStatus, fMezStatusWorking, 1 + 2 ^ 15), (rLntStatus, fLntStatusStage, 4)]
     core < 16 ∧
     coreRuns s core = true) ∧
    /- clause 1 -/
    (let core : Nat := 15
     let s : State := withF up [(rMezStatus, fMezStatusWorking, 1 + 2 ^ 15), (rLntStatus, fLntStatusStage, 4)]
     core < 16 ∧
     s.lnt.heldCode = none) ∧
    /- clause 2 -/
    (let core : Nat := 15
     let s : State := withF up [(rMezStatus, fMezStatusWorking, 1 + 2 ^ 15), (rLntStatus, fLntStatusStage, 4)]
     core < 16 ∧
     s.lnt.heldCode = none ∧
     coreWorking s core = true) ∧
    /- clause 3 -/
    (let core : Nat := 15
     let s : State := withF up [(rMezStatus, fMezStatusWorking, 1 + 2 ^ 15), (rLntStatus, fLntStatusStage, 4)]
     core < 16 ∧
     coreWorking s core = true) ∧
    /- clause 4 -/
    (let core : Nat := 15
     let s : State := withF up [(rMezStatus, fMezStatusWorking, 1 + 2 ^ 15), (rLntStatus, fLntStatusStage, 4)]
     core < 16 ∧
     let k := getCore s core
     coreWorking s core = true ∧
     k.missed = 0) ∧
    /- clause 5 -/
    (let core : Nat := 0
     let s : State := let s := withF up [(rMezStatus, fMezStatusWorking, 1 + 2 ^ 15), (rLntStatus, fLntStatusStage, 4), (rMezCtl, fMezCtlAutoRetire, 1)]; setCore s 0 { getCore s 0 with missed := 1 }
     core < 16 ∧
     let k := getCore s core
     coreWorking s core = true ∧
     1 ≤ k.missed ∧
     let u := raiseF (setCore s core { k with missed := 2 }) rMezEvents fMezEventsWdog
     isF u rMezCtl fMezCtlAutoRetire = true) ∧
    /- clause 6 -/
    (let s : State := up
     s.lnt.heldCode = none) :=
  ⟨by decide +kernel, by decide +kernel, by decide +kernel, by decide +kernel, by decide +kernel, by decide +kernel,
    by decide +kernel⟩

end Sys2Proof.Tests
end

section
/-! The family of 00_scope.md: what every command keeps (O5), where it answers (O3), and what register accesses (O7, O8, O9)
and dispatch (O16) do. -/

namespace Sys2Proof.Machine

/-! ## What every command and every step keep (R10, R618) -/

/-- No command touches what waits, the canonical form of memory and register bank, or the free values drawn: one law of
Laws/Keeps* for each. -/
theorem exec_keeps {s0 s : State} (i : Instr) (h : Keeps s0 s) : OutKeeps s0 (exec i s) := by
  cases i with
  | registerWrite => exact execRegisterWrite_keeps h
  | malformedRegisterAccess => exact execMalformedRegisterAccess_keeps h
  | rcRegisterRead => exact execRcRegisterRead_keeps h
  | submissionTailDoorbell => exact execSubmissionTailDoorbell_keeps h
  | completionHeadDoorbell => exact execCompletionHeadDoorbell_keeps h
  | commandIntake => exact execCommandIntake_keeps h
  | queueEnable => exact execQueueEnable_keeps h
  | queueRestart => exact execQueueRestart_keeps h
  | queueResume => exact execQueueResume_keeps h
  | commandCompletion => exact execCommandCompletion_keeps h
  | bar4Read => exact execBar4Read_keeps h
  | bar4Write => exact execBar4Write_keeps h
  | pageRequestResponse => exact execPageRequestResponse_keeps h
  | pageRequestTimeout => exact execPageRequestTimeout_keeps h
  | atsInvalidation => exact execAtsInvalidation_keeps h
  | hotReset => exact execHotReset_keeps h
  | flrVf => exact execFlrVf_keeps h
  | flrPf => exact execFlrPf_keeps h
  | d3hotTransition => exact execD3hotTransition_keeps h
  | configurationRequest => exact execConfigurationRequest_keeps h
  | product => exact execProduct_keeps h
  | vectorProgram => exact execVectorProgram_keeps h
  | attention => exact execAttention_keeps h
  | copy => exact execCopy_keeps h
  | fill => exact execFill_keeps h
  | offload => exact execOffload_keeps h
  | prefetch => exact execPrefetch_keeps h
  | prefetchPageRead => exact execPrefetchPageRead_keeps h
  | offloadRelease => exact execOffloadRelease_keeps h
  | cacheSetup => exact execCacheSetup_keeps h
  | seqOpen => exact execSeqOpen_keeps h
  | seqFork => exact execSeqFork_keeps h
  | seqTrim => exact execSeqTrim_keeps h
  | seqRelease => exact execSeqRelease_keeps h
  | seqAppendCopy => exact execSeqAppendCopy_keeps h
  | expEncode => exact execExpEncode_keeps h
  | xtabLoad => exact execXtabLoad_keeps h
  | xtabRetire => exact execXtabRetire_keeps h
  | pack => exact execPack_keeps h
  | packAssemble => exact execPackAssemble_keeps h
  | codedExpand => exact execCodedExpand_keeps h
  | collective => exact execCollective_keeps h
  | ownerUpdate => exact execOwnerUpdate_keeps h
  | stepCommit => exact execStepCommit_keeps h
  | stepAbandon => exact execStepAbandon_keeps h
  | epochSet => exact execEpochSet_keeps h
  | stepMark => exact execStepMark_keeps h
  | poolLease => exact execPoolLease_keeps h
  | poolReturn => exact execPoolReturn_keeps h
  | foyerBatch => exact execFoyerBatch_keeps h
  | dictLoad => exact execDictLoad_keeps h
  | streamOpen => exact execStreamOpen_keeps h
  | streamClose => exact execStreamClose_keeps h
  | streamData => exact execStreamData_keeps h
  | encodePicture => exact execEncodePicture_keeps h
  | frzRelease => exact execFrzRelease_keeps h
  | abort => exact execAbort_keeps h
  | nop => exact execNop_keeps h
  | imageLoad => exact execImageLoad_keeps h
  | attest => exact execAttest_keeps h
  | keyEnroll => exact execKeyEnroll_keeps h
  | keyRevoke => exact execKeyRevoke_keeps h
  | debugUnlock => exact execDebugUnlock_keeps h
  | secureErase => exact execSecureErase_keeps h
  | repairClear => exact execRepairClear_keeps h
  | selftestRead => exact execSelftestRead_keeps h
  | itemTake => exact execItemTake_keeps h
  | groupBlockFetch => exact execGroupBlockFetch_keeps h
  | mainPassEnd => exact execMainPassEnd_keeps h
  | itemDrained => exact execItemDrained_keeps h
  | treadIsolate => exact execTreadIsolate_keeps h
  | treadForce => exact execTreadForce_keeps h
  | treadUnisolate => exact execTreadUnisolate_keeps h
  | treadIsolationDone => exact execTreadIsolationDone_keeps h
  | vadd => exact execVadd_keeps h
  | vsub => exact execVsub_keeps h
  | vmul => exact execVmul_keeps h
  | vfma => exact execVfma_keeps h
  | vdiv => exact execVdiv_keeps h
  | vsqrt => exact execVsqrt_keeps h
  | vrem => exact execVrem_keeps h
  | vminn => exact execVminn_keeps h
  | vmaxn => exact execVmaxn_keeps h
  | vmin => exact execVmin_keeps h
  | vmax => exact execVmax_keeps h
  | vrint => exact execVrint_keeps h
  | vscalb => exact execVscalb_keeps h
  | vlogb => exact execVlogb_keeps h
  | vcmp => exact execVcmp_keeps h
  | vsel => exact execVsel_keeps h
  | vcvt => exact execVcvt_keeps h
  | vclass => exact execVclass_keeps h
  | vtlu => exact execVtlu_keeps h
  | vld => exact execVld_keeps h
  | vst => exact execVst_keeps h
  | vrsum => exact execVrsum_keeps h
  | vrmax => exact execVrmax_keeps h
  | viadd => exact execViadd_keeps h
  | visub => exact execVisub_keeps h
  | vimul => exact execVimul_keeps h
  | vand => exact execVand_keeps h
  | vor => exact execVor_keeps h
  | vxor => exact execVxor_keeps h
  | vshl => exact execVshl_keeps h
  | vshr => exact execVshr_keeps h
  | vbcast => exact execVbcast_keeps h
  | sop => exact execSop_keeps h
  | loop => exact execLoop_keeps h
  | br => exact execBr_keeps h
  | halt => exact execHalt_keeps h
  | xfmBegin => exact execXfmBegin_keeps h
  | xfmCommitStepBoundary => exact execXfmCommitStepBoundary_keeps h
  | xfmCommitImmediate => exact execXfmCommitImmediate_keeps h
  | xfmRollBack => exact execXfmRollBack_keeps h
  | stageDataWrite => exact execStageDataWrite_keeps h
  | stageBulkWrite => exact execStageBulkWrite_keeps h
  | stageBulkDone => exact execStageBulkDone_keeps h
  | xfmSlotConfirm => exact execXfmSlotConfirm_keeps h
  | commitApply => exact execCommitApply_keeps h
  | drainTimeout => exact execDrainTimeout_keeps h
  | memoryRead => exact execMemoryRead_keeps h
  | memoryWrite => exact execMemoryWrite_keeps h
  | memoryRefresh => exact execMemoryRefresh_keeps h
  | channelRetire => exact execChannelRetire_keeps h
  | memoryDeviceFailed => exact execMemoryDeviceFailed_keeps h
  | rebuildBlockCopy => exact execRebuildBlockCopy_keeps h
  | regionZeroing => exact execRegionZeroing_keeps h
  | lsuRequestIssue => exact execLsuRequestIssue_keeps h
  | moverSlotGrant => exact execMoverSlotGrant_keeps h
  | ringRotationStep => exact execRingRotationStep_keeps h
  | reductionBlock => exact execReductionBlock_keeps h
  | thinnedGroup => exact execThinnedGroup_keeps h
  | parameterMessage => exact execParameterMessage_keeps h
  | retainedReplay => exact execRetainedReplay_keeps h
  | mirrorBytes => exact execMirrorBytes_keeps h
  | commitCollectStart => exact execCommitCollectStart_keeps h
  | commitToken => exact execCommitToken_keeps h
  | genWaitExpiry => exact execGenWaitExpiry_keeps h
  | commitSlowExpiry => exact execCommitSlowExpiry_keeps h
  | laneAligned => exact execLaneAligned_keeps h
  | laneAlignmentLost => exact execLaneAlignmentLost_keeps h
  | portFailure => exact execPortFailure_keeps h
  | lightSwitchTimeout => exact execLightSwitchTimeout_keeps h
  | linkFrameReceive => exact execLinkFrameReceive_keeps h
  | hello => exact execHello_keeps h
  | replay => exact execReplay_keeps h
  | quiesce => exact execQuiesce_keeps h
  | linkReplayTimeout => exact execLinkReplayTimeout_keeps h
  | helloTimer => exact execHelloTimer_keeps h
  | portRoleWrite => exact execPortRoleWrite_keeps h
  | portRetrain => exact execPortRetrain_keeps h
  | deviceNumberWrite => exact execDeviceNumberWrite_keeps h
  | laserFault => exact execLaserFault_keeps h
  | laserPresenceChange => exact execLaserPresenceChange_keeps h
  | laserReenableTimer => exact execLaserReenableTimer_keeps h
  | laserPoll => exact execLaserPoll_keeps h
  | laserRelease => exact execLaserRelease_keeps h
  | laserRestore => exact execLaserRestore_keeps h
  | contextRead => exact execContextRead_keeps h
  | contextOpen => exact execContextOpen_keeps h
  | contextClose => exact execContextClose_keeps h
  | contextEvict => exact execContextEvict_keeps h
  | contextFree => exact execContextFree_keeps h
  | openResendTimer => exact execOpenResendTimer_keeps h
  | dataSegment => exact execDataSegment_keeps h
  | ackSegment => exact execAckSegment_keeps h
  | openSegment => exact execOpenSegment_keeps h
  | openReplySegment => exact execOpenReplySegment_keeps h
  | closeSegment => exact execCloseSegment_keeps h
  | voidSegment => exact execVoidSegment_keeps h
  | rejectSegment => exact execRejectSegment_keeps h
  | segmentSend => exact execSegmentSend_keeps h
  | retransmitTimeout => exact execRetransmitTimeout_keeps h
  | evictionTimeout => exact execEvictionTimeout_keeps h
  | ackDelayExpiry => exact execAckDelayExpiry_keeps h
  | slotResolve => exact execSlotResolve_keeps h
  | pipePictureStart => exact execPipePictureStart_keeps h
  | decodePictureDone => exact execDecodePictureDone_keeps h
  | encodeSliceDone => exact execEncodeSliceDone_keeps h
  | encodePictureDone => exact execEncodePictureDone_keeps h
  | outReadWrite => exact execOutReadWrite_keeps h
  | coreInstruction => exact execCoreInstruction_keeps h
  | coreTimer => exact execCoreTimer_keeps h
  | coreWatchdogExpiry => exact execCoreWatchdogExpiry_keeps h
  | coreKick => exact execCoreKick_keeps h
  | coreRetire => exact execCoreRetire_keeps h
  | mezFwConfirm => exact execMezFwConfirm_keeps h
  | icuClaim => exact execIcuClaim_keeps h
  | icuComplete => exact execIcuComplete_keeps h
  | icuSet => exact execIcuSet_keeps h
  | icuClr => exact execIcuClr_keeps h
  | debugDmiAccess => exact execDebugDmiAccess_keeps h
  | powerOn => exact execPowerOn_keeps h
  | powerGoodFall => exact execPowerGoodFall_keeps h
  | coldResetInput => exact execColdResetInput_keeps h
  | perstAssert => exact execPerstAssert_keeps h
  | lntColdReset => exact execLntColdReset_keeps h
  | lntWarmReset => exact execLntWarmReset_keeps h
  | lntShutdown => exact execLntShutdown_keeps h
  | startUpStage => exact execStartUpStage_keeps h
  | lanternWatchdogExpiry => exact execLanternWatchdogExpiry_keeps h
  | lanternWatchdogKick => exact execLanternWatchdogKick_keeps h
  | flightSleep => exact execFlightSleep_keeps h
  | sleepEntryDone => exact execSleepEntryDone_keeps h
  | flightWakeStart => exact execFlightWakeStart_keeps h
  | flightPllLock => exact execFlightPllLock_keeps h
  | flightLockTimeout => exact execFlightLockTimeout_keeps h
  | mediaSleep => exact execMediaSleep_keeps h
  | mediaWakeDone => exact execMediaWakeDone_keeps h
  | domainReset => exact execDomainReset_keeps h
  | thermalSample => exact execThermalSample_keeps h
  | criticalTemperature => exact execCriticalTemperature_keeps h
  | vidStep => exact execVidStep_keeps h
  | flightIsolate => exact execFlightIsolate_keeps h
  | flightUnisolate => exact execFlightUnisolate_keeps h
  | blockIsolate => exact execBlockIsolate_keeps h
  | blockReturn => exact execBlockReturn_keeps h
  | selftestRun => exact execSelftestRun_keeps h
  | sliceTestDone => exact execSliceTestDone_keeps h
  | sliceBudgetExpiry => exact execSliceBudgetExpiry_keeps h
  | presenceDebounce => exact execPresenceDebounce_keeps h
  | presenceWindowClose => exact execPresenceWindowClose_keeps h
  | sealTick => exact execSealTick_keeps h
  | sealSample => exact execSealSample_keeps h
  | statusRead => exact execStatusRead_keeps h
  | mctpControlMessage => exact execMctpControlMessage_keeps h
  | getTid => exact execGetTid_keeps h
  | setTid => exact execSetTid_keeps h
  | getPldmVersion => exact execGetPldmVersion_keeps h
  | getPldmTypes => exact execGetPldmTypes_keeps h
  | getPldmCommands => exact execGetPldmCommands_keeps h
  | getPdrRepositoryInfo => exact execGetPdrRepositoryInfo_keeps h
  | getPdr => exact execGetPdr_keeps h
  | getSensorReading => exact execGetSensorReading_keeps h
  | getStateSensorReadings => exact execGetStateSensorReadings_keeps h
  | sensorRefresh => exact execSensorRefresh_keeps h
  | bypass => exact execBypass_keeps h
  | idcode => exact execIdcode_keeps h
  | samplePreload => exact execSamplePreload_keeps h
  | extest => exact execExtest_keeps h
  | extestPulse => exact execExtestPulse_keeps h
  | extestTrain => exact execExtestTrain_keeps h
  | clamp => exact execClamp_keeps h
  | highz => exact execHighz_keeps h
  | testLogicReset => exact execTestLogicReset_keeps h
  | validationDone => exact execValidationDone_keeps h
  | perstDeassert => exact execPerstDeassert_keeps h
  | powerGoodRise => exact execPowerGoodRise_keeps h
  | lanternRailLoss => exact execLanternRailLoss_keeps h
  | referenceClockLoss => exact execReferenceClockLoss_keeps h
  | criticalTemperatureClear => exact execCriticalTemperatureClear_keeps h
  | hostReadCompletion => exact execHostReadCompletion_keeps h
  | atsTranslationCompletion => exact execAtsTranslationCompletion_keeps h
  | registerRead => exact execRegisterRead_keeps h
  | unsupportedMctpMessage => exact execUnsupportedMctpMessage_keeps h

/-- A step keeps all that no command touches, of the state whose front command has left the queue. -/
theorem step_keeps {s t : State} (h : step s = .next t) : Keeps { s with pending := s.pending.tail } t := by
  unfold step at h
  split at h
  case h_1 hp =>
    cases h
    exact ⟨by simp [hp], id, id, le_refl _⟩
  case h_2 c rest hp =>
    rw [hp]
    exact (exec_keeps c (Keeps.refl _)).get h

/-- Settles O5: the canonical forms are two of the things that every step keeps. -/
theorem stepKeepsCanonicalForm : Obligations.StepKeepsCanonicalForm := by
  unfold Obligations.StepKeepsCanonicalForm
  intro s t ⟨hm, hr⟩ h
  exact ⟨(step_keeps h).mem hm, (step_keeps h).regs hr⟩

/-! ## Which commands go on (R15, R18)

A meaning is a frame (a guard of unit numbers, a dispatch, a message, a segment, a vector opcode) around a body whose every
branch is a next state. Each frame has one lemma; `exec_answers` names the frame of every command. -/

/-- The outcome is a next state. -/
def GoesOn (o : Out) : Prop := ∃ t, o = .next t

/-- Where the units named exist (`ok`) the outcome is a next state, elsewhere the stop of a unit that does not exist. -/
def AnswersWhere (ok : Bool) (o : Out) : Prop := (ok = true → GoesOn o) ∧ (ok = false → o = .fault .noSuchUnit)

section
variable {s : State} {ok : Bool} {o : Out}

theorem goesOn_next (t : State) : GoesOn (.next t) := ⟨t, rfl⟩

theorem guardUnit_answers (h : ok = true → GoesOn o) : AnswersWhere ok (guardUnit ok o) :=
  ⟨fun e => by rw [guardUnit_of e]; exact h e, fun e => by rw [e]; rfl⟩

theorem answers_of_goesOn (h : GoesOn o) : AnswersWhere true o := ⟨fun _ => h, nofun⟩

theorem whileServed_goesOn (h : GoesOn o) : GoesOn (whileServed s o) := all_ite (goesOn_next s) h

theorem dispatch_goesOn {op : Nat} {r : CmdRef} {k : State → Cmd → Disp} : GoesOn (dispatch op r s k) :=
  dispatch_next op r s k

end

theorem moveCmd_answers (op : Nat) (r : CmdRef) (s : State) (k : State → Cmd → Disp) (go : State → Cmd → State) :
    AnswersWhere (r.scope < 8) (moveCmd op r s k go) := by
  refine guardUnit_answers fun _ => ?_
  obtain ⟨t, ht⟩ := dispatch_next op r s k
  rw [ht]
  dsimp only
  repeat' split
  all_goals exact goesOn_next _

theorem privCmd_answers (op : Nat) (r : CmdRef) (err : Option ReadErr) (s : State) (k : State → Cmd → List Byte → Disp) :
    AnswersWhere (r.scope = 8) (privCmd op r err s k) :=
  guardUnit_answers fun _ => dispatch_goesOn

theorem vecOp_answers {t op : Nat} {s : State} {k : State → Tread → VIns → Out} (h : ∀ tr i, GoesOn (k s tr i)) :
    AnswersWhere (t < 128) (vecOp t op s k) := by
  refine guardUnit_answers fun _ => ?_
  repeat' split
  · exact h _ _
  all_goals exact goesOn_next _

theorem takeCtl_answers {p ty : Nat} {s : State} {k : State → List Byte → Out} (h : ∀ s f, GoesOn (k s f)) :
    AnswersWhere (p < 34) (takeCtl s p ty k) := by
  refine guardUnit_answers fun _ => ?_
  split
  · exact goesOn_next _
  · exact all_ite (h _ _) (goesOn_next _)

theorem takeSeg_answers {p ty : Nat} {s : State} {k : State → Nat → List Byte → Out} (h : ∀ s c b, GoesOn (k s c b)) :
    AnswersWhere (p < 34) (takeSeg s p ty k) := by
  refine guardUnit_answers fun _ => all_ite (goesOn_next _) ?_
  split
  · exact goesOn_next _
  · exact all_ite (h _ _ _) (goesOn_next _)

theorem numbered_answers (p ty : Nat) (s : State) : AnswersWhere (p < 34) (numbered p ty s) := by
  refine takeSeg_answers fun t c b => ?_
  dsimp only
  repeat' split
  all_goals exact goesOn_next _

theorem unnumbered_answers {p ty : Nat} {s : State} {f : State → Nat → Ctx → List Byte → Out}
    (h : ∀ s k c b, GoesOn (f s k c b)) : AnswersWhere (p < 34) (unnumbered p ty s f) :=
  takeSeg_answers fun _ _ _ => all_ite (goesOn_next _) (h _ _ _ _)

theorem withMsg_answers {ctx ty : Nat} {s : State} {k : State → Nat → Ring → List Byte → Out}
    (h : ∀ hall g m, GoesOn (k s hall g m)) : AnswersWhere (ctxNum ctx) (withMsg ctx ty s k) := by
  refine guardUnit_answers fun _ => ?_
  dsimp only
  repeat' split
  case h_2.isFalse.isFalse => exact h _ _ _
  all_goals exact goesOn_next _

theorem endProgram_goesOn (s : State) (t code info : Nat) : GoesOn (endProgram s t code info) := by
  unfold endProgram
  split <;> exact goesOn_next _

theorem haltProgram_goesOn (s : State) (t : Nat) (tr : Tread) : GoesOn (haltProgram s t tr) := by
  unfold haltProgram
  dsimp only
  split <;> exact goesOn_next _

theorem vecReduce_goesOn (s : State) (t : Nat) (tr : Tread) (i : VIns) (tree : List (Option Nat) → Option (Nat × Nat)) :
    GoesOn (vecReduce s t tr i tree) := by
  unfold vecReduce
  dsimp only
  split <;> exact goesOn_next _

theorem execHalt_answers (t : Nat) (s : State) : AnswersWhere (t < 128) (execHalt t s) := by
  refine vecOp_answers fun tr i => ?_
  split
  · exact haltProgram_goesOn ..
  split
  · exact haltProgram_goesOn ..
  refine all_ite ?_ (haltProgram_goesOn ..)
  split
  · exact goesOn_next _
  · exact haltProgram_goesOn ..
  · split
    · exact goesOn_next _
    · exact haltProgram_goesOn ..

theorem execCommitToken_answers (ctx : Nat) (s : State) : AnswersWhere (ctxNum ctx) (execCommitToken ctx s) := by
  refine guardUnit_answers fun hc => ?_
  split
  · exact goesOn_next _
  · refine (withMsg_answers fun h g m => ?_).1 hc
    dsimp only
    repeat' split
    all_goals exact goesOn_next _

/-- Every command of the table goes on where the units it names exist, and stops elsewhere. Commands of one frame stand in
one case; where the frame leaves a body with branches, each of them ends in a next state (`dsimp only` takes the body's
`let`s away, where it has any). -/
theorem exec_answers (i : Instr) (s : State) : AnswersWhere (WellFormed i) (exec i s) := by
  cases i with dsimp only [exec, WellFormed]
  | product | vectorProgram | attention | prefetch | offloadRelease | cacheSetup | seqOpen | seqFork | seqTrim
  | seqRelease | xtabLoad | xtabRetire | pack | stepCommit | stepAbandon | epochSet | stepMark | poolLease | poolReturn
  | foyerBatch | dictLoad | streamOpen | streamClose | streamData | encodePicture | frzRelease | nop | imageLoad | attest
  | selftestRead => exact guardUnit_answers fun _ => dispatch_goesOn
  | copy r | fill r | offload r | seqAppendCopy r | expEncode r | codedExpand r => exact moveCmd_answers _ r _ _ _
  | keyEnroll r | keyRevoke r | debugUnlock r | secureErase r | repairClear r => exact privCmd_answers _ r _ _ _
  | collective | ownerUpdate =>
    refine guardUnit_answers fun _ => ?_
    split
    · exact goesOn_next _
    · exact all_ite (goesOn_next _) dispatch_goesOn
  | vadd | vsub | vmul | vfma | vdiv | vsqrt | vrem | vminn | vmaxn | vmin | vmax | vrint | vscalb | vlogb | vcmp | vsel
  | vcvt | vclass | viadd | visub | vimul | vand | vor | vxor | vshl | vshr | vbcast | sop =>
    exact vecOp_answers fun _ _ => goesOn_next _
  | vrsum | vrmax => exact vecOp_answers fun _ _ => vecReduce_goesOn ..
  | vtlu | vld | vst => exact vecOp_answers fun _ _ => all_ite (endProgram_goesOn ..) (goesOn_next _)
  | loop | br => exact vecOp_answers fun _ _ => all_ite (goesOn_next _) (goesOn_next _)
  | halt => exact execHalt_answers ..
  | hello | quiesce => exact takeCtl_answers fun _ _ => goesOn_next _
  | replay => exact takeCtl_answers fun _ _ => all_ite (goesOn_next _) (goesOn_next _)
  | dataSegment | voidSegment | rejectSegment => exact numbered_answers ..
  | ackSegment | openSegment | openReplySegment | closeSegment =>
    refine unnumbered_answers fun _ _ _ _ => ?_
    try dsimp only
    repeat' split
    all_goals exact goesOn_next _
  | reductionBlock | thinnedGroup | parameterMessage | retainedReplay | mirrorBytes =>
    refine withMsg_answers fun _ _ _ => ?_
    try dsimp only
    repeat' split
    all_goals exact goesOn_next _
  | commitToken => exact execCommitToken_answers ..
  | registerWrite | rcRegisterRead | registerRead | flrVf | memoryDeviceFailed | laneAlignmentLost | sleepEntryDone
  | flightPllLock | flightLockTimeout => exact guardUnit_answers fun _ => goesOn_next _
  | treadIsolate | xfmCommitStepBoundary | xfmCommitImmediate | coreKick | coreRetire | icuSet | icuClr | flightIsolate
  | blockIsolate => exact guardUnit_answers fun _ => whileServed_goesOn (goesOn_next _)
  | queueEnable | queueRestart | queueResume | treadForce | treadUnisolate | xfmBegin | xfmRollBack | stageDataWrite
  | stageBulkWrite | stageBulkDone | commitApply | drainTimeout | channelRetire | portRoleWrite | portRetrain
  | laserRelease | laserRestore | icuClaim | icuComplete | domainReset | flightUnisolate | blockReturn | validationDone =>
    refine guardUnit_answers fun _ => whileServed_goesOn ?_
    try dsimp only
    repeat' split
    all_goals exact goesOn_next _
  | malformedRegisterAccess | commandIntake | commandCompletion | configurationRequest | prefetchPageRead | packAssemble
  | abort | itemTake | groupBlockFetch | mainPassEnd | itemDrained | treadIsolationDone | memoryRefresh | lsuRequestIssue
  | moverSlotGrant | commitCollectStart | genWaitExpiry | commitSlowExpiry | laneAligned | portFailure
  | lightSwitchTimeout | linkFrameReceive | linkReplayTimeout | laserFault | laserPresenceChange | laserReenableTimer
  | laserPoll | openResendTimer | segmentSend | retransmitTimeout | evictionTimeout | ackDelayExpiry | slotResolve
  | pipePictureStart | decodePictureDone | encodeSliceDone | encodePictureDone | coreInstruction | coreTimer
  | coreWatchdogExpiry | flightSleep | flightWakeStart | sliceTestDone | sliceBudgetExpiry | setTid
  | ringRotationStep =>
    refine guardUnit_answers fun _ => ?_
    try dsimp only
    repeat' split
    all_goals exact goesOn_next _
  | xfmSlotConfirm | contextRead | mezFwConfirm | outReadWrite =>
    exact answers_of_goesOn (whileServed_goesOn (goesOn_next _))
  | submissionTailDoorbell | completionHeadDoorbell | deviceNumberWrite | contextOpen | contextClose | contextEvict
  | contextFree | debugDmiAccess | selftestRun =>
    refine answers_of_goesOn (whileServed_goesOn ?_)
    try dsimp only
    repeat' split
    all_goals exact goesOn_next _
  | hotReset | flrPf | powerGoodFall | perstAssert | powerGoodRise | atsInvalidation | d3hotTransition | helloTimer
  | coldResetInput | lntColdReset | lntWarmReset | lanternWatchdogExpiry | lanternWatchdogKick | mediaSleep
  | mediaWakeDone | criticalTemperature | statusRead | sensorRefresh | bypass | idcode | samplePreload | extest
  | extestPulse | extestTrain | clamp | highz | testLogicReset | perstDeassert | lanternRailLoss | referenceClockLoss
  | criticalTemperatureClear | getTid | getPldmVersion | getPldmTypes | getPldmCommands | getPdrRepositoryInfo | getPdr
  | getSensorReading | getStateSensorReadings => exact answers_of_goesOn (goesOn_next _)
  | bar4Read | bar4Write | pageRequestResponse | pageRequestTimeout | memoryRead | memoryWrite | rebuildBlockCopy
  | regionZeroing | powerOn | lntShutdown | startUpStage | thermalSample | vidStep | presenceDebounce
  | presenceWindowClose | sealTick | sealSample | mctpControlMessage | hostReadCompletion | atsTranslationCompletion
  | unsupportedMctpMessage =>
    refine answers_of_goesOn ?_
    dsimp only [execBar4Read, execBar4Write, execPageRequestResponse, execPageRequestTimeout, execMemoryRead,
      execMemoryWrite, execRebuildBlockCopy, execRegionZeroing, execPowerOn, execLntShutdown, execStartUpStage,
      execThermalSample, execVidStep, execPresenceDebounce, execPresenceWindowClose, execSealTick, execSealSample,
      execMctpControlMessage, execHostReadCompletion, execAtsTranslationCompletion, execUnsupportedMctpMessage]
    repeat' split
    all_goals exact goesOn_next _

/-- Settles O3: the frame of every command guards the units it names, and every branch of its body goes on. -/
theorem wellFormedCommandsRun : Obligations.WellFormedCommandsRun := by
  unfold Obligations.WellFormedCommandsRun
  exact exec_answers

/-! ## A read clears its RC fields (R14, R16) -/

/-- Setting a field to 0 adds no bit. -/
theorem testBit_setBits_zero (v lo w i : Nat) (h : (setBits v lo w 0).testBit i = true) : v.testBit i = true := by
  have hlt : v % 2 ^ lo < 2 ^ lo := Nat.mod_lt _ (Nat.two_pow_pos lo)
  have e : setBits v lo w 0 = 2 ^ lo * (2 ^ w * (v / 2 ^ lo / 2 ^ w)) + v % 2 ^ lo := by
    rw [setBits_eq, Nat.pow_add, Nat.div_div_eq_div_mul]
    simp only [Nat.zero_mod]
    ring
  rw [e, Nat.testBit_two_pow_mul_add _ hlt] at h
  split at h
  case isTrue hi => simpa [Nat.testBit_mod_two_pow, hi] using h
  case isFalse hi =>
    simp only [Nat.testBit_two_pow_mul, Nat.testBit_div_two_pow, Bool.and_eq_true, decide_eq_true_eq] at h
    obtain ⟨hw, h⟩ := h
    rwa [show i - lo - w + w + lo = i by omega] at h

theorem bitsOf_eq_zero_iff (v lo w : Nat) : bitsOf v lo w = 0 ↔ ∀ i < w, v.testBit (lo + i) = false := by
  constructor
  · intro h i hi
    have := Nat.zero_testBit i
    rw [← h, bitsOf, Nat.testBit_mod_two_pow, Nat.testBit_shiftRight] at this
    simpa [hi] using this
  · intro h
    refine Nat.eq_of_testBit_eq fun i => ?_
    by_cases hi : i < w <;> simp [bitsOf, Nat.testBit_mod_two_pow, Nat.testBit_shiftRight, hi, h]

/-- Clearing a field leaves a field that reads 0 at 0, whatever bits they share. -/
theorem getF_setF_zero {s : State} {r : Nat} {f g : Fld} (h : getF s r f = 0) : getF (setF s r g 0) r f = 0 := by
  simp only [getF, setF, regGet_regSet_same, bitsOf_eq_zero_iff] at h ⊢
  intro i hi
  by_contra hb
  rw [Bool.not_eq_false, Nat.testBit_mod_two_pow, Bool.and_eq_true] at hb
  exact absurd (testBit_setBits_zero _ _ _ _ hb.2) (by rw [h i hi]; decide)

/-- Fields that a read of bits `lo` to `lo + n - 1` clears. -/
def readClears (lo n : Nat) (f : Fld) : Prop := f.acc = .rc ∧ f.lo < lo + n ∧ lo < f.lo + f.w

/-- What a read does to one field. -/
def clearField (r lo n : Nat) (s : State) (f : Fld) : State :=
  if f.acc = .rc && f.lo < lo + n && lo < f.lo + f.w then setF s r f 0 else s

theorem clearRc_eq (s : State) (r lo n : Nat) : clearRc s r lo n = (regFields r).foldl (clearField r lo n) s := rfl

section
variable {s : State} {r lo n : Nat} {f g : Fld}

theorem clearField_of (h : readClears lo n f) : clearField r lo n s f = setF s r f 0 := by
  obtain ⟨ha, hl, hw⟩ := h
  simp [clearField, ha, hl, hw]

/-- A field is cleared or left. -/
theorem clearField_cases (s : State) (r lo n : Nat) (f : Fld) :
    (readClears lo n f ∧ clearField r lo n s f = setF s r f 0) ∨ clearField r lo n s f = s := by
  by_cases h : readClears lo n f
  · exact .inl ⟨h, clearField_of h⟩
  · right
    unfold clearField
    exact if_neg (by simpa [readClears, and_assoc] using h)

theorem clearField_zero (h : getF s r g = 0) : getF (clearField r lo n s f) r g = 0 := by
  rcases clearField_cases s r lo n f with ⟨-, e⟩ | e
  · rw [e]; exact getF_setF_zero h
  · rw [e]; exact h

/-- Each field cleared reads 0 once all have been. -/
theorem foldl_clearField_zero (l : List Fld) (s : State) (hm : f ∈ l) (hc : readClears lo n f) (hw : f.lo + f.w ≤ 64) :
    getF (l.foldl (clearField r lo n) s) r f = 0 := by
  induction l generalizing s with
  | nil => cases hm
  | cons a l ih =>
    rcases List.mem_cons.1 hm with rfl | hm
    · refine List.foldlRecOn (motive := fun t => getF t r f = 0) l _ ?_ fun _ h _ _ => clearField_zero h
      rw [clearField_of hc, getF_setF_same _ _ _ _ hw, Nat.zero_mod]
    · exact ih _ hm

/-- What setting the fields that the read clears to 0 keeps, the read keeps. -/
theorem clearRc_induction (P : State → Prop) (h0 : P s)
    (hstep : ∀ t f, f ∈ regFields r → readClears lo n f → P t → P (setF t r f 0)) : P (clearRc s r lo n) := by
  rw [clearRc_eq]
  refine List.foldlRecOn (motive := P) _ _ h0 fun t h f hf => ?_
  rcases clearField_cases t r lo n f with ⟨hc, e⟩ | e
  · rw [e]; exact hstep t f hf hc h
  · rw [e]; exact h

/-- A field that shares no bit with those cleared is left. -/
theorem clearRc_field (hd : ∀ f ∈ regFields r, readClears lo n f →
      f.lo + f.w ≤ 64 ∧ (g.lo + g.w ≤ f.lo ∨ f.lo + f.w ≤ g.lo)) :
    getF (clearRc s r lo n) r g = getF s r g :=
  clearRc_induction (fun t => getF t r g = getF s r g) rfl fun t f hf hc h =>
    (getF_setF_field t r f g 0 (hd f hf hc).1 (hd f hf hc).2).trans h

theorem clearRc_regs (s : State) (r lo n : Nat) : SameRegsBut s (clearRc s r lo n) r := fun x hx =>
  clearRc_induction (fun t => regGet t x = regGet s x) rfl fun t f _ _ h => (regGet_setF_ne t f 0 hx).trans h

theorem clearRc_mem (s : State) (r lo n : Nat) : (clearRc s r lo n).mem = s.mem :=
  clearRc_induction (fun t => t.mem = s.mem) rfl fun t f _ _ h => (setF_mem t r f 0).trans h

end

/-- Settles O8: a read sets each RC field that it touches to 0, one after the other. -/
theorem readClearsRcFields : Obligations.ReadClearsRcFields := by
  unfold Obligations.ReadClearsRcFields
  intro s r lo n
  refine ⟨fun f hf ha hl hw h64 => ?_, fun g _ hd => ?_, clearRc_regs s r lo n, clearRc_mem s r lo n⟩
  · exact foldl_clearField_zero _ s hf ⟨ha, hl, hw⟩ h64
  · exact clearRc_field fun f hf ⟨ha, hl, hw⟩ => hd f hf ha hl hw

/-! ## What a read answers (R10, R11, R12, R78) -/

section
variable {fn off size : Nat} {s : State}

theorem registerRead_does (h : inBar fn off size = true) : Does (.registerRead fn off size) s (hostRead fn off size s) :=
  guardUnit_of h _

theorem rcRegisterRead_does (h : inBar fn off size = true) : Does (.rcRegisterRead fn off size) s (hostRead fn off size s) :=
  guardUnit_of h _

theorem malformedRead_does (h : inBar fn off size = true) (hw : wellFormed off size = false) :
    Does (.malformedRegisterAccess false fn off size) s (hostRead fn off size s) :=
  (guardUnit_of h _).trans (by simp [hw])

theorem malformedWrite_does (s : State) (h : inBar fn off size = true) (hw : wellFormed off size = false) :
    Does (.malformedRegisterAccess true fn off size) s (hostWrite fn off size 0 s) :=
  (guardUnit_of h _).trans (by simp [hw])

theorem hostRead_closed (h : barOpen s = false) : hostRead fn off size s = { s with resp := .ones size } := by
  simp [hostRead, h]

theorem hostRead_malformed (h : barOpen s = true) (hw : wellFormed off size = false) :
    hostRead fn off size s = { countMalformed s with resp := .ones size } := by
  simp [hostRead, h, hw]

theorem hostRead_unimplemented (h : barOpen s = true) (hw : wellFormed off size = true)
    (hi : implemented s (barOffset fn off / 8 * 8) = false) : hostRead fn off size s = { s with resp := .value size 0 } := by
  simp [hostRead, h, hw, regRead, hi]

/-- A read of a register that wakes no hall, claims no interrupt and lies outside the debug window. -/
theorem hostRead_implemented (h : barOpen s = true) (hw : wellFormed off size = true)
    (hi : implemented s (barOffset fn off / 8 * 8) = true) (hk : wakes s (barOffset fn off / 8 * 8) = none)
    (hc : icuCoreOf (barOffset fn off / 8 * 8) 0 = none) (hd : dmiOf (barOffset fn off / 8 * 8) = none) :
    hostRead fn off size s =
      { clearRc s (barOffset fn off / 8 * 8) (barOffset fn off % 8 * 8) (8 * size) with
        resp := .value size (bitsOf (regView s (barOffset fn off / 8 * 8)) (barOffset fn off % 8 * 8) (8 * size)) } := by
  simp [hostRead, h, hw, regRead, hi, hk, hc, hd]

theorem hostWrite_malformed (h : barOpen s = true) (hw : wellFormed off size = false) (d : DWord) :
    hostWrite fn off size d s =
      ((xfmHit (barOffset fn off) size).map (badWrite (countMalformed { s with resp := .nothing }))).getD
        (countMalformed { s with resp := .nothing }) := by
  have hb : barOpen { s with resp := .nothing } = true := h
  simp only [hostWrite, hb, hw]
  cases xfmHit (barOffset fn off) size <;> rfl

end

/-- Settles O7: each form of access reaches one equation of `hostRead` or `hostWrite`. -/
theorem registerReadsAnswer : Obligations.RegisterReadsAnswer := by
  unfold Obligations.RegisterReadsAnswer
  refine ⟨fun fn off size s hin hb hw => ⟨fun hi hk hc hd => ?_, fun hi => ?_⟩, fun fn off size s hin hb => ?_,
    fun fn off size s hin hb hw => ⟨?_, fun hx => ?_, fun k hx => ?_⟩⟩
  · rw [← hostRead_implemented hb hw hi hk hc hd]
    exact ⟨registerRead_does hin, rcRegisterRead_does hin⟩
  · rw [← hostRead_unimplemented hb hw hi]
    exact ⟨registerRead_does hin, rcRegisterRead_does hin⟩
  · rw [← hostRead_closed hb]
    exact ⟨registerRead_does hin, rcRegisterRead_does hin⟩
  · rw [← hostRead_malformed hb hw]
    exact malformedRead_does hin hw
  · have h := malformedWrite_does s hin hw
    rwa [hostWrite_malformed hb hw, hx] at h
  · have h := malformedWrite_does s hin hw
    rwa [hostWrite_malformed hb hw, hx] at h

/-! ## Fields under their access codes (R14) -/

section
variable {w : Wr} {s : State} {f : Fld}

theorem Wr.ones_lt (w : Wr) (f : Fld) : w.ones f < 2 ^ f.w := Nat.and_lt_two_pow _ (bitsOf_lt _ _ _)

theorem getF_setF_lt {r v : Nat} (h : f.lo + f.w ≤ 64) (hv : v < 2 ^ f.w) : getF (setF s r f v) r f = v := by
  rw [getF_setF_same _ _ _ _ h, Nat.mod_eq_of_lt hv]

theorem putField_rw (h : f.lo + f.w ≤ 64) (ha : f.acc = .rw) :
    getF (putField w s f) w.r f
      = (getF s w.r f ^^^ (getF s w.r f &&& bitsOf w.m f.lo f.w)) ||| w.ones f := by
  have ho := getF_lt s w.r f
  simp only [putField, ha]
  exact getF_setF_lt h
    (Nat.or_lt_two_pow (Nat.xor_lt_two_pow ho (Nat.and_lt_two_pow _ (bitsOf_lt _ _ _))) (w.ones_lt f))

theorem putField_w1c (h : f.lo + f.w ≤ 64) (ha : f.acc = .w1c) :
    getF (putField w s f) w.r f = getF s w.r f ^^^ (getF s w.r f &&& w.ones f) := by
  simp only [putField, ha]
  exact getF_setF_lt h (Nat.xor_lt_two_pow (getF_lt s w.r f) (Nat.and_lt_two_pow _ (w.ones_lt f)))

theorem putField_w1s (h : f.lo + f.w ≤ 64) (ha : f.acc = .w1s) :
    getF (putField w s f) w.r f = getF s w.r f ||| w.ones f := by
  simp only [putField, ha]
  exact getF_setF_lt h (Nat.or_lt_two_pow (getF_lt s w.r f) (w.ones_lt f))

/-- A field of any other code is left. -/
theorem putField_other (h1 : f.acc ≠ .rw) (h2 : f.acc ≠ .w1c) (h3 : f.acc ≠ .w1s) : putField w s f = s := by
  unfold putField
  split
  · contradiction
  · contradiction
  · contradiction
  · rfl

/-- A write of a field sets it or leaves the state. -/
theorem putField_cases (w : Wr) (s : State) (f : Fld) : (∃ v, putField w s f = setF s w.r f v) ∨ putField w s f = s := by
  unfold putField
  split
  · exact .inl ⟨_, rfl⟩
  · exact .inl ⟨_, rfl⟩
  · exact .inl ⟨_, rfl⟩
  · exact .inr rfl

theorem putField_regs (w : Wr) (s : State) (f : Fld) : SameRegsBut s (putField w s f) w.r := by
  intro x hx
  rcases putField_cases w s f with ⟨v, e⟩ | e
  · rw [e, regGet_setF_ne _ _ _ hx]
  · rw [e]

theorem putField_mem (w : Wr) (s : State) (f : Fld) : (putField w s f).mem = s.mem := by
  rcases putField_cases w s f with ⟨v, e⟩ | e
  · rw [e, setF_mem]
  · rw [e]

end

/-- A register of the Lantern is no queue's. -/
theorem queueOf_lantern {r : Nat} (h : r < 0x1000) : queueOf r = none := by
  unfold queueOf
  exact if_neg (by simp; omega)

theorem wakes_lantern {r : Nat} (s : State) (h : r < 0x1000) : wakes s r = none := by
  have hf : flightOf r = none := if_neg (by simp; omega)
  simp [wakes, hf]

theorem implemented_lantern {r : Nat} (s : State) (h : r < 0x1000) (hf : (regFields r).isEmpty = false) :
    implemented s r = true := by
  simp [implemented, queueOf_lantern h, hf]

/-- A Lantern register without an action of its own takes a write field by field. -/
theorem writeLnt_plain {w : Wr} (s : State) (h1 : w.r ≠ rLntReset) (h2 : w.r ≠ rLntWdog) (h3 : w.r ≠ rLntDomainCtl)
    (h4 : w.r ≠ rLntSelftestCtl) (h5 : w.r ≠ rLntBlockIsolate) : writeLnt w s = putFields w [] s := by
  simp only [writeLnt, if_neg h1, if_neg h2, if_neg h3, if_neg h4, if_neg h5]

/-- A whole write of a Lantern register reaches the Lantern. -/
theorem regWrite_lantern {r : Nat} (who : Who) (d : DWord) (s : State) (h : r < 0x1000) (h8 : r % 8 = 0)
    (hf : (regFields r).isEmpty = false) :
    regWrite who r 8 d s = (writeLnt ⟨r, d.toNat, 2 ^ 64 - 1⟩ (latchRaised s), true) := by
  have hr : r / 8 * 8 = r := by omega
  have hd : d.toNat % 2 ^ (8 * 8) = d.toNat := Nat.mod_eq_of_lt d.isLt
  simp only [regWrite, hr, h8, implemented_lantern s h hf, wakes_lantern s h, hd, regPut, queueOf_lantern h, if_pos h]
  simp

theorem hostWrite_wellFormed {fn off size : Nat} {d : DWord} {s : State} (hb : barOpen s = true)
    (hw : wellFormed off size = true) :
    hostWrite fn off size d s = (regWrite (.host fn) (barOffset fn off) size d { s with resp := .nothing }).1 := by
  have hb' : barOpen { s with resp := .nothing } = true := hb
  simp [hostWrite, hb', hw]

theorem registerWrite_does {fn off size : Nat} {d : DWord} {s : State} (h : inBar fn off size = true) :
    Does (.registerWrite fn off size d) s (hostWrite fn off size d s) := guardUnit_of h _

/-- Settles O9: the write reaches `putFields`, and `putField` has one equation per access code. -/
theorem accessCodesRule : Obligations.AccessCodesRule := by
  unfold Obligations.AccessCodesRule
  constructor
  · intro r d s hr h8 h1 h2 h3 h4 h5 hb hf
    have hin : inBar 0 r 8 = true := by simp [inBar]; omega
    have hw : wellFormed r 8 = true := by simp [wellFormed, h8]
    have e : hostWrite 0 r 8 d s = putFields ⟨r, d.toNat, 2 ^ 64 - 1⟩ [] (latchRaised { s with resp := .nothing }) := by
      rw [hostWrite_wellFormed hb hw, show barOffset 0 r = r from rfl, regWrite_lantern _ _ _ hr h8 hf]
      exact writeLnt_plain _ h1 h2 h3 h4 h5
    exact e ▸ registerWrite_does hin
  · intro w s f h
    exact ⟨putField_rw h, putField_w1c h, putField_w1s h, putField_other, putField_regs w s f, putField_mem w s f⟩

/-! ## Dispatch (R4, R30, R67, R483, R484, R486) -/

section
variable {s : State} {r : CmdRef} {op : Nat} {c : Cmd} {k : State → Cmd → Disp}

/-- A command that its queue may dispatch now. -/
def mayDispatch (s : State) (r : CmdRef) (op : Nat) (c : Cmd) : Prop :=
  c.st = .accepted ∧ c.opcode = op ∧ isHead s r = true ∧ scopeReady s r.scope op = true

theorem dispatch_not_now (hf : findCmd s r = some c)
    (h : c.st ≠ .accepted ∨ c.opcode ≠ op ∨ isHead s r = false ∨ scopeReady s r.scope op = false) :
    dispatch op r s k = .next s := by
  unfold dispatch
  simp only [hf]
  exact if_pos h

theorem dispatch_structure_gone (hf : findCmd s r = some c) (h : mayDispatch s r op c)
    (hg : (genDiffers s r c && queueGone s r c) = true) : dispatch op r s k = .next (endCmd s r 0x17 0 0 0) := by
  obtain ⟨hst, hop, hh, hr⟩ := h
  unfold dispatch
  simp [hf, hst, hop, hh, hr, hg]

theorem dispatch_dep_waits (hf : findCmd s r = some c) (h : mayDispatch s r op c)
    (hg : (genDiffers s r c && queueGone s r c) = false) (hd : depVerdict s r c = .inr ()) :
    dispatch op r s k = .next s := by
  obtain ⟨hst, hop, hh, hr⟩ := h
  unfold dispatch
  simp [hf, hst, hop, hh, hr, hg, hd]

theorem dispatch_dep_failed {code : Nat} (hf : findCmd s r = some c) (h : mayDispatch s r op c)
    (hg : (genDiffers s r c && queueGone s r c) = false) (hd : depVerdict s r c = .inl (some code)) :
    dispatch op r s k = .next (endCmd s r code 0 0 0) := by
  obtain ⟨hst, hop, hh, hr⟩ := h
  unfold dispatch
  simp [hf, hst, hop, hh, hr, hg, hd]

theorem dispatch_reserved_operand (hf : findCmd s r = some c) (h : mayDispatch s r op c)
    (hg : (genDiffers s r c && queueGone s r c) = false) (hd : depVerdict s r c = .inl none) (ho : opdOk c = false) :
    dispatch op r s k = .next (endCmd s r 0x10 0 0 0) := by
  obtain ⟨hst, hop, hh, hr⟩ := h
  unfold dispatch
  simp [hf, hst, hop, hh, hr, hg, hd, ho]

end

theorem nop_does {s : State} {r : CmdRef} {c : Cmd} (hs : r.scope ≤ 8) (h : readyFor s r 0x31 c = true) :
    Does (.nop r) s (succeed (markDispatched s r) r 0 0) :=
  (guardUnit_of (decide_eq_true hs) _).trans (dispatch_go h rfl)

theorem stepMark_does {s : State} {r : CmdRef} {c : Cmd} (hs : r.scope < 8) (h : readyFor s r 0x25 c = true) :
    Does (.stepMark r) s (succeed (markDispatched s r) r 0 c.o0) :=
  (guardUnit_of (decide_eq_true hs) _).trans (dispatch_go h rfl)

/-- Settles O16: one equation of `dispatch` per outcome. -/
theorem dispatchRule : Obligations.DispatchRule := by
  unfold Obligations.DispatchRule
  refine ⟨fun op r c s k hf => ⟨dispatch_not_now hf, ?_, ?_⟩, fun r c s => nop_does, fun r c s => stepMark_does⟩
  · intro hst hop hh hr hg hq
    exact dispatch_structure_gone hf ⟨hst, hop, hh, hr⟩ (by rw [hg, hq]; rfl)
  · intro hst hop hh hr hg
    have h : mayDispatch s r op c := ⟨hst, hop, hh, hr⟩
    exact ⟨dispatch_dep_waits hf h hg, fun _ => dispatch_dep_failed hf h hg, dispatch_reserved_operand hf h hg⟩

end Sys2Proof.Machine
end

section
/-! The family of 01_architecture.md: copies inside the device (O20), and the control of queues (O14). -/

namespace Sys2Proof.Machine

/-! ## Accesses that nothing stops (R269, R282, R290, R292, R293) -/

/-- The Undercroft's tables hold nothing that stops an access: no extent waits to be zeroed, is unplaced or is lost. -/
structure NothingAmiss (s : State) : Prop where
  zeroing : s.und.zeroing = []
  lost : s.und.lost = []
  unplaced : s.und.unplaced = []
  dead : s.und.dead = []

/-- A mover of hall `h` may move 64 bytes from `src` to `dst` inside the device. -/
structure UnitOpen (s : State) (h src dst : Nat) : Prop where
  reads : hallReach s h false src 64 = true
  writes : hallReach s h true dst 64 = true
  srcLocal : src + 64 ≤ hostBase
  dstLocal : dst + 64 ≤ hostBase
  readSlot : moverFree s h (memBanks s false src 64) = true
  writeSlot : moverFree s h (memBanks s true dst 64) = true

section
variable {s t u : State} {h src dst a n : Nat}

theorem NothingAmiss.allSound (g : NothingAmiss s) : allSound s = true := by
  simp [Machine.allSound, g.lost, g.unplaced, g.dead]

theorem NothingAmiss.unzeroed (g : NothingAmiss s) (a n : Nat) : unzeroed s a n = false := by
  simp [Machine.unzeroed, g.zeroing]

/-- Bytes that end below the host window are not in it. -/
theorem inHost_below (hn : 0 < n) (ha : a + n ≤ hostBase) : inHost a n = false := by
  simp only [inHost, within, Bool.and_eq_false_iff, decide_eq_false_iff_not]
  omega

theorem readStuck_local (g : NothingAmiss s) (hn : 0 < n) (ha : a + n ≤ hostBase) : readStuck s a n = none := by
  simp [readStuck, goneIn, inHost_below hn ha, g.unzeroed, g.allSound]

theorem writeStuck_local (g : NothingAmiss s) (hn : 0 < n) (ha : a + n ≤ hostBase) : writeStuck s a n = none := by
  simp [writeStuck, writeGone, inHost_below hn ha, g.unzeroed, g.allSound]

theorem moverReads_open (g : NothingAmiss s) (o : UnitOpen s h src dst) : moverReads s h src 64 = .ok () := by
  simp [moverReads, readable, hallReachHost, o.readSlot, o.reads, readStuck_local g (by decide) o.srcLocal]

theorem moverWrites_open (g : NothingAmiss s) (o : UnitOpen s h src dst) : moverWrites s h dst 64 = .ok () := by
  simp [moverWrites, writable, hallReachHost, o.writeSlot, o.writes, writeStuck_local g (by decide) o.dstLocal]

/-! ## What moving bytes changes (R26, R259) -/

/-- `t` is `s` but for memory and the die selects. -/
def OnlyMoved (s t : State) : Prop := ∃ m d, t = { s with mem := m, und := { s.und with ds := d } }

theorem OnlyMoved.refl (s : State) : OnlyMoved s s := ⟨s.mem, s.und.ds, rfl⟩

theorem OnlyMoved.trans (h₁ : OnlyMoved s t) (h₂ : OnlyMoved t u) : OnlyMoved s u := by
  obtain ⟨m, d, rfl⟩ := h₁
  obtain ⟨m', d', rfl⟩ := h₂
  exact ⟨m', d', rfl⟩

theorem OnlyMoved.nothingAmiss (hm : OnlyMoved s t) (g : NothingAmiss s) : NothingAmiss t := by
  obtain ⟨m, d, rfl⟩ := hm
  exact ⟨g.zeroing, g.lost, g.unplaced, g.dead⟩

theorem OnlyMoved.unitOpen (hm : OnlyMoved s t) (o : UnitOpen s h src dst) : UnitOpen t h src dst := by
  obtain ⟨m, d, rfl⟩ := hm
  exact ⟨o.reads, o.writes, o.srcLocal, o.dstLocal, o.readSlot, o.writeSlot⟩

theorem OnlyMoved.regs (hm : OnlyMoved s t) : t.regs = s.regs := by
  obtain ⟨m, d, rfl⟩ := hm
  rfl

theorem OnlyMoved.findCmd (hm : OnlyMoved s t) (r : CmdRef) : findCmd t r = findCmd s r := by
  obtain ⟨m, d, rfl⟩ := hm
  rfl

theorem OnlyMoved.memCopy (s : State) (src dst n : Nat) : OnlyMoved s (memCopy s src dst n) := ⟨_, s.und.ds, rfl⟩

/-- `t` is `s` but for the die selects. -/
def OnlyDrove (s t : State) : Prop := ∃ d, t = { s with und := { s.und with ds := d } }

theorem OnlyDrove.refl (s : State) : OnlyDrove s s := ⟨s.und.ds, rfl⟩

theorem OnlyDrove.driveDs (hd : OnlyDrove s t) (p : LPlace) : OnlyDrove s (driveDs t p) := by
  obtain ⟨d, rfl⟩ := hd
  unfold Machine.driveDs
  dsimp only
  split
  · exact ⟨_, rfl⟩
  · exact ⟨d, rfl⟩

theorem OnlyDrove.driveRange (s : State) (wr : Bool) (a n : Nat) : OnlyDrove s (driveRange s wr a n) := by
  unfold Machine.driveRange
  split
  · exact .refl s
  · split
    · exact .refl s
    · refine List.foldlRecOn (motive := OnlyDrove s) _ _ (.refl s) fun t hd i _ => ?_
      dsimp only
      split
      · exact hd.driveDs _
      · split
        · exact (hd.driveDs _).driveDs _
        · split
          · exact hd.driveDs _
          · exact hd.driveDs _

theorem OnlyDrove.onlyMoved (hd : OnlyDrove s t) : OnlyMoved s t := by
  obtain ⟨d, rfl⟩ := hd
  exact ⟨s.mem, d, rfl⟩

theorem OnlyDrove.memGet (hd : OnlyDrove s t) (x : Nat) : memGet t x = memGet s x := by
  obtain ⟨d, rfl⟩ := hd
  rfl

/-- With no lost mark a write clears none. -/
theorem wrote_of_lost_nil (h : s.und.lost = []) (a n : Nat) : wrote s a n = s := by simp [wrote, h]

/-! ## Copied bytes -/

/-- `n` bytes from `src` stand at `dst`; every other byte reads as before. -/
def Copied (s t : State) (src dst n : Nat) : Prop :=
  ∀ x, memGet t x = if dst ≤ x ∧ x < dst + n then memGet s (x - dst + src) else memGet s x

theorem Copied.zero (s : State) (src dst : Nat) : Copied s s src dst 0 := fun x => (if_neg (by omega)).symm

/-- A copy of the bytes that follow, from outside what the first wrote, makes one copy of both. -/
theorem Copied.append {k : Nat} (h₁ : Copied s t src dst n) (h₂ : Copied t u (src + n) (dst + n) k)
    (hd : src + n + k ≤ dst ∨ dst + n + k ≤ src) : Copied s u src dst (n + k) := by
  intro x
  rw [h₂ x]
  by_cases hk : dst + n ≤ x ∧ x < dst + n + k
  · rw [if_pos hk, if_pos (by omega), h₁, if_neg (by omega)]
    congr 1
    omega
  · rw [if_neg hk, h₁]
    by_cases hn : dst ≤ x ∧ x < dst + n
    · rw [if_pos hn, if_pos (by omega)]
    · rw [if_neg hn, if_neg (by omega)]

theorem Copied.inside (hc : Copied s t src dst n) {k : Nat} (hk : k < n) : memGet t (dst + k) = memGet s (src + k) := by
  rw [hc, if_pos (by omega)]
  congr 1
  omega

theorem Copied.sameMemBut (hc : Copied s t src dst n) : SameMemBut s t dst n := fun x hx => by
  rw [hc, if_neg (by omega)]

/-! ## The units of a copy (R26, R486) -/

/-- A store of copied bytes where no lost mark stands. -/
theorem storeCopy_eq (hl : s.und.lost = []) (src dst n : Nat) :
    storeCopy s src dst n = driveRange (memCopy (driveRange s false src n) src dst n) true dst n := by
  obtain ⟨d, hd⟩ := OnlyDrove.driveRange s false src n
  have hl' : (memCopy (driveRange s false src n) src dst n).und.lost = [] := by rw [hd]; exact hl
  rw [storeCopy, wrote_of_lost_nil hl']

theorem storeCopy_onlyMoved (hl : s.und.lost = []) (src dst n : Nat) : OnlyMoved s (storeCopy s src dst n) := by
  rw [storeCopy_eq hl]
  exact ((OnlyDrove.driveRange _ _ _ _).onlyMoved.trans (.memCopy _ _ _ _)).trans (OnlyDrove.driveRange _ _ _ _).onlyMoved

theorem storeCopy_copied (hl : s.und.lost = []) (src dst n : Nat) : Copied s (storeCopy s src dst n) src dst n := by
  intro x
  rw [storeCopy_eq hl, (OnlyDrove.driveRange _ _ _ _).memGet, memGet_memCopy, (OnlyDrove.driveRange _ _ _ _).memGet,
    (OnlyDrove.driveRange _ _ _ _).memGet]

theorem copyUnit_open {i : Nat} (g : NothingAmiss s) (o : UnitOpen s h (src + 64 * i) (dst + 64 * i)) :
    copyUnit h src [dst] i s = .ok (storeCopy s (src + 64 * i) (dst + 64 * i) 64) := by
  simp only [copyUnit, moverReads_open g o, List.foldlM_cons, List.foldlM_nil, moverWrites_open g o]
  rfl

/-- `m` open units from unit `i` on are all moved, by induction on their number. -/
theorem moveUnits_copies (m : Nat) {i : Nat} (g : NothingAmiss s)
    (ho : ∀ j, j < i + m → UnitOpen s h (src + 64 * j) (dst + 64 * j))
    (hd : src + 64 * (i + m) ≤ dst ∨ dst + 64 * (i + m) ≤ src) :
    ∃ t, moveUnits (copyUnit h src [dst]) m i s = (t, i + m, none) ∧ OnlyMoved s t
      ∧ Copied s t (src + 64 * i) (dst + 64 * i) (64 * m) := by
  induction m generalizing i s with
  | zero => exact ⟨s, rfl, .refl s, .zero _ _ _⟩
  | succ m ih =>
    have hm := storeCopy_onlyMoved g.lost (src + 64 * i) (dst + 64 * i) 64
    have hc := storeCopy_copied g.lost (src + 64 * i) (dst + 64 * i) 64
    obtain ⟨t, e, hmt, hct⟩ := ih (i := i + 1) (hm.nothingAmiss g) (fun j hj => hm.unitOpen (ho j (by omega))) (by omega)
    refine ⟨t, ?_, hm.trans hmt, ?_⟩
    · rw [moveUnits, copyUnit_open g (ho i (by omega))]
      dsimp only
      rw [e, Nat.add_right_comm, Nat.add_assoc]
    · have hct' : Copied _ t (src + 64 * i + 64) (dst + 64 * i + 64) (64 * m) := hct
      have := hc.append hct' (by omega)
      rwa [show 64 + 64 * m = 64 * (m + 1) by omega] at this

end

/-! ## A copy that meets no failure (R26, R282, R292, R476, R486) -/

section
variable {s t : State} {r : CmdRef} {c : Cmd}

/-- A copy at its first unit whose units all move goes on to what follows the last. -/
theorem moveRun_all {total : Nat} {addr : Nat → Nat} {f : Nat → State → Except Stuck State} {fin bad : State → State}
    (hf : findCmd s r = some c) (hn : c.job.next = 0) (hu : moveUnits f total 0 s = (t, total, none)) :
    moveRun s r ⟨none, none⟩ total addr f fin bad = fin (updJob t r fun j => { j with next := total }) := by
  simp [moveRun, hf, hn, moveStop, hu]

theorem copyGo_local {m : Move} (hr : cpRemote c = 0) (hc : cpCoded c = false) :
    copyGo r m s c =
      moveRun s r m (cpLen c / 64) (fun i => c.o0 + 64 * i) (copyUnit r.scope c.o0 (cpDsts s r.scope c))
        (fun s => succeed s r (cpLen c / 64) 0) id := by
  simp [copyGo, hr, hc]

/-- A command that runs ends with success, whatever its job. -/
theorem findCmd_succeed_updJob {f : Job → Job} {extent info : Nat} (hf : findCmd s r = some c) (hd : c.st = .dispatched) :
    findCmd (succeed (updJob s r f) r extent info) r
      = some { c with job := f c.job, st := .ended, code := 0, check := 0, extent := extent, info := info } := by
  rw [succeed, findCmd_endCmd, findCmd_updJob, hf]
  simp [hd]

/-- A running COPY or FILL goes on with the course of a copy. -/
theorem copyOrFill_does {op : Nat} {m : Move} (ho : op = 0x08 ∨ op = 0x09) (hs : r.scope < 8) (h : runsAs s r op c = true) :
    Does (if op = 0x08 then .copy r m else .fill r m) s (copyGo r m s c) := by
  rcases ho with rfl | rfl
  · exact moveCmd_runs hs h
  · exact moveCmd_runs hs h

end

/-- Settles O20: every unit is open in the state in which it moves, for the units before it change only memory and die selects
(`moveUnits_copies`). -/
theorem copiesMoveTheirBytes : Obligations.CopiesMoveTheirBytes := by
  unfold Obligations.CopiesMoveTheirBytes
  intro op r c s ho hs hrun hrem hcod hdst hnext n hn _ _ hrd hwr hsrc hdl hz hl hu hdead hrs hws hdis
  obtain ⟨hf, hst, -⟩ := runsAs_cmd hrun
  have hlen : 64 * (n / 64) = n := by omega
  have hopen : ∀ j, j < 0 + n / 64 → UnitOpen s r.scope (c.o0 + 64 * j) (c.o1 + 64 * j) := fun j hj =>
    have hj : j < n / 64 := by omega
    ⟨hrd j hj, hwr j hj, by omega, by omega, hrs j hj, hws j hj⟩
  obtain ⟨t, e, hm, hc⟩ := moveUnits_copies (n / 64) ⟨hz, hl, hu, hdead⟩ hopen (by omega)
  rw [Nat.mul_zero, Nat.add_zero, Nat.add_zero, hlen] at hc
  rw [Nat.zero_add] at e
  have hdoes := copyOrFill_does (m := ⟨none, none⟩) ho hs hrun
  rw [copyGo_local hrem hcod, hdst, moveRun_all hf hnext e] at hdoes
  exact ⟨_, hdoes, fun k hk => hc.inside hk, hc.sameMemBut, hm.regs, _,
    findCmd_succeed_updJob ((hm.findCmd r).trans hf) hst, rfl, rfl, rfl⟩

/-! ## Queue control (R35, R472, R473, R481, R621, R622) -/

/-- What software asks for changes nothing while the machine is held in reset. -/
theorem whileServed_held {s : State} (h : s.lnt.heldCode ≠ none) (k : Out) : whileServed s k = .next s := by
  simp [whileServed, Option.isSome_iff_ne_none.2 h]

/-- The state that enabling a disabled queue leaves: rings empty, running, bound to the writer (R472). -/
def enabledQueue (s : State) (fn scope queue : Nat) : State :=
  let st := rCmdQStatus scope queue
  let u := setF (setF (setF (setF (setF s st fCmdQStatusSqHead 0) st fCmdQStatusCqTail 0) st fCmdQStatusCqPhase 1)
    st fCmdQStatusState 1) (rCmdQCtl scope queue) fCmdQCtlEnable 1
  setQ u scope queue { getQ u scope queue with
    fn := fn, sqTail := 0, cqHead := 0, armed := true, unpassed := [], cqBroken := false }

/-- The state that disabling an idle queue leaves (R472). -/
def disabledQueue (s : State) (scope queue : Nat) : State :=
  setF (setF s (rCmdQStatus scope queue) fCmdQStatusState 0) (rCmdQCtl scope queue) fCmdQCtlEnable 0

/-- A stopped queue running again, before it writes its held entries (R473, R621). -/
def restartedQueue (s : State) (scope queue : Nat) : State :=
  setF (setQ s scope queue { getQ s scope queue with cqBroken := false }) (rCmdQStatus scope queue) fCmdQStatusState 1

/-- A suspended queue running again at a head, before it writes its held entries: first among them the final entries not
passed (R473, R481). -/
def resumedQueue (s : State) (scope queue head : Nat) : State :=
  let st := rCmdQStatus scope queue
  let u := setF (setF (setF (setF (latchRaised s) st fCmdQStatusSqHead head) st fCmdQStatusCqTail 0)
    st fCmdQStatusCqPhase 1) st fCmdQStatusState 1
  let q := getQ u scope queue
  let again := (q.unpassed.filter fun e => e.2.kind = 0).map fun e => { e.2 with again := true }
  setQ u scope queue
    { q with held := again ++ q.held, unpassed := [], cqHead := 0, armed := true, cqBroken := false }

section
variable {fn scope queue head : Nat} {e : Option ReadErr} {s : State}
variable (hs : scope ≤ 8) (hq : queue < 64)
include hs hq

/-- The control registers of a queue are served unless the machine is held in reset. -/
theorem queueGuard_served (hh : s.lnt.heldCode = none) (k : Out) :
    guardUnit (scope ≤ 8 && queue < 64) (whileServed s k) = k := by
  rw [guardUnit_of (by simp [hs, hq]), whileServed_of hh]

theorem queueGuard_held (hh : s.lnt.heldCode ≠ none) (k : Out) :
    guardUnit (scope ≤ 8 && queue < 64) (whileServed s k) = .next s := by
  rw [guardUnit_of (by simp [hs, hq]), whileServed_held hh]

theorem queueEnable_held (on : Bool) (hh : s.lnt.heldCode ≠ none) : Does (.queueEnable fn scope queue on) s s :=
  queueGuard_held hs hq hh _

theorem queueRestart_held (hh : s.lnt.heldCode ≠ none) : Does (.queueRestart fn scope queue e) s s :=
  queueGuard_held hs hq hh _

theorem queueResume_held (hh : s.lnt.heldCode ≠ none) : Does (.queueResume fn scope queue head) s s :=
  queueGuard_held hs hq hh _

theorem queueRestart_refused (hh : s.lnt.heldCode = none) (hw : queueWriter s fn scope queue = false) :
    Does (.queueRestart fn scope queue e) s (countMalformed s) :=
  (queueGuard_served hs hq hh _).trans (by simp [hw])

theorem queueResume_refused (hh : s.lnt.heldCode = none) (hw : queueWriter s fn scope queue = false) :
    Does (.queueResume fn scope queue head) s (countMalformed s) :=
  (queueGuard_served hs hq hh _).trans (by simp [hw])

theorem queueRestart_does (hh : s.lnt.heldCode = none) (hw : queueWriter s fn scope queue = true)
    (hst : getF s (rCmdQStatus scope queue) fCmdQStatusState = 2) :
    Does (.queueRestart fn scope queue none) s
      (acceptEntry (flushHeld (restartedQueue s scope queue) scope queue) scope queue none) :=
  (queueGuard_served hs hq hh _).trans (by simp [hw, hst, restartedQueue])

theorem queueResume_does (hh : s.lnt.heldCode = none) (hw : queueWriter s fn scope queue = true)
    (hst : getF s (rCmdQStatus scope queue) fCmdQStatusState = 3) (hr : head < ringSize s scope queue) :
    Does (.queueResume fn scope queue head) s
      (acceptEntry (flushHeld (resumedQueue s scope queue head) scope queue) scope queue none) :=
  (queueGuard_served hs hq hh _).trans (by simp [hw, hst, Nat.not_le.2 hr, resumedQueue])

section
variable (hh : s.lnt.heldCode = none) (hn : queue < scopeQueues s scope) (hw : queueWriter s fn scope queue = true)
include hh hn hw

theorem queueEnable_disabled (hst : getF s (rCmdQStatus scope queue) fCmdQStatusState = 0)
    (ho : enableOk s scope queue = true) :
    Does (.queueEnable fn scope queue true) s (enabledQueue s fn scope queue) :=
  (queueGuard_served hs hq hh _).trans (by simp [hn, hw, hst, ho, enabledQueue])

theorem queueEnable_enabled (hst : getF s (rCmdQStatus scope queue) fCmdQStatusState ≠ 0) :
    Does (.queueEnable fn scope queue true) s (setQ s scope queue { getQ s scope queue with fn := fn }) :=
  (queueGuard_served hs hq hh _).trans (by simp [hn, hw, hst])

theorem queueDisable_idle (hi : queueIdle s scope queue = true) :
    Does (.queueEnable fn scope queue false) s (disabledQueue s scope queue) :=
  (queueGuard_served hs hq hh _).trans (by simp [hn, hw, hi, disabledQueue])

theorem queueDisable_busy (hi : queueIdle s scope queue = false) :
    Does (.queueEnable fn scope queue false) s (countMalformed s) :=
  (queueGuard_served hs hq hh _).trans (by simp [hn, hw, hi])

end
end

/-- Settles O14: one equation per write of a queue's control and state of the queue. -/
theorem queueControlRule : Obligations.QueueControlRule := by
  unfold Obligations.QueueControlRule
  refine ⟨fun fn scope queue s hs hq hh hn hw => ⟨?_, ?_, ?_, ?_⟩, fun fn scope queue s hs hq hh hw => ?_,
    fun fn scope queue head s hs hq hh hw => ?_, fun fn scope queue head e s hs hq => ⟨fun hh hw => ?_, fun hh => ?_⟩⟩
  · exact queueEnable_disabled hs hq hh hn hw
  · exact queueEnable_enabled hs hq hh hn hw
  · exact queueDisable_idle hs hq hh hn hw
  · exact queueDisable_busy hs hq hh hn hw
  · exact queueRestart_does hs hq hh hw
  · exact queueResume_does hs hq hh hw
  · exact ⟨queueRestart_refused hs hq hh hw, queueResume_refused hs hq hh hw⟩
  · exact ⟨queueRestart_held hs hq hh, queueResume_held hs hq hh, fun on => queueEnable_held hs hq on hh⟩

end Sys2Proof.Machine
end

section
/-! The family of 02_structure_image.md: IMAGE_LOAD, ATTEST and SELFTEST_READ (O29). -/

namespace Sys2Proof.Machine

section
variable {s m : State} {r : CmdRef} {c : Cmd} {a : Nat} {k : Disp}

/-! ## Gates of the management commands (R482, R560, R571, R583) -/

/-- A test that is met lets the command go on. -/
theorem need_of {ok : Bool} (h : ok = true) (code check : Nat) (k : Disp) : need ok code check k = k := by rw [h]; rfl

/-- With the seal whole and the window open the privileged tests are met (R571). -/
theorem privileged_open (hs : sealBroken s = false) (hw : windowOpen s = true) : privileged s k = k := by
  simp [privileged, hs, hw]

/-- A management request stands at `a`: 64 bytes, aligned, in reach, readable, its CRC right. -/
structure RequestGood (s : State) (a : Nat) : Prop where
  aligned : a % 64 = 0
  reach : mgmtReach s false a 64 = true
  reads : readsWell s a 64 = true
  crc : crc32c ((memBytes s a 64).take 60) = leAt (memBytes s a 64) 60 4

/-- The tests of a management request let a good one go on. -/
theorem request_opens (g : RequestGood s a) (r : CmdRef) (k : Disp) :
    need (a % 64 = 0 && mgmtReach s false a 64) 0x11 0 (readOk s r none false a 64
      (need (crc32c ((memBytes s a 64).take 60) = leAt (memBytes s a 64) 60 4) 0x13 0 k)) = k := by
  rw [need_of (by simp [g.aligned, g.reach]), readOk_well g.reads, need_of (decide_eq_true g.crc)]

/-- What stops a write does not rest on the free values drawn. -/
theorem writeStuck_freeCtr (s : State) (f a n : Nat) : writeStuck { s with freeCtr := f } a n = writeStuck s a n := rfl

/-- An output that nothing stops is stored, with success. -/
theorem mgmtWrite_lands {bs : List Byte} (h : writeStuck s a bs.length = none) :
    mgmtWrite s r a bs = .go (succeed (store s a bs) r 0 0) := by
  simp [mgmtWrite, h]

/-! ## The three commands -/

/-- IMAGE_LOAD (R54, R566, R567): a load whose signer is enrolled needs no presence; another one needs seal and window. -/
theorem imageLoad_does (hs : r.scope = 8) (h : readyFor s r 0x40 c = true) (hm : markDispatched s r = m)
    (hlen : ilLen c ≤ 0x4000000) (hreach : mgmtReach m false c.o0 (ilLen c) = true)
    (hreads : readsWell m c.o0 (ilLen c) = true) (hslot : ilSlot c ≠ activeSlot m (ilFw c))
    (hkey : (signerKey m (ilFw c) (imSigner (memBytes m c.o0 (ilLen c)))).isSome = true ∨
      (sealBroken m = false ∧ windowOpen m = true)) :
    let b := memBytes m c.o0 (ilLen c)
    let t := updJob m r fun j => { j with
      rec1 := b, aux := [if (signerKey m (ilFw c) (imSigner b)).isNone then 1 else 0] }
    Does (.imageLoad r none) s
      (if slotFits (ilFw c) (ilSlot c) && (imageCheck m (ilFw c) b).isNone then succeed t r 0 1 else endCmd t r 0x3B 0 0 0) := by
  subst hm
  refine (guardUnit_of (decide_eq_true hs) _).trans (dispatch_go h ?_)
  simp only [need_of (decide_eq_true hlen), need_of hreach, readOk_well hreads, need_of (decide_eq_true hslot)]
  rcases hkey with hkey | ⟨hseal, hopen⟩
  · exact if_neg (by simpa using Option.isSome_iff_ne_none.mp hkey)
  · rw [privileged_open hseal hopen, ite_self]

/-- ATTEST (R583 to R585): with the 64 bytes of the signature the report is 512 bytes, before the identity record. -/
theorem attest_does (hs : r.scope = 8) (h : readyFor s r 0x41 c = true) (hm : markDispatched s r = m)
    (hg : RequestGood m c.o0) :
    let b := memBytes m c.o0 64
    let body := reportBody m ((b.drop 24).take 32)
    let what := leAt b 0 1
    let n := 512 + (if what = 0 then 0 else 96 + Config.cert.length)
    let out := body ++ fixLen 64 (Config.sm2Sign m.freeCtr body) ++ (if what = 0 then [] else identityBytes)
    what ≤ 1 → leAt b 1 7 = 0 → leAt b 14 2 = 0 → leAt b 20 4 = 0 → leAt b 56 4 = 0 → leAt b 8 6 % 64 = 0 →
    (if what = 0 then 512 else 2656) ≤ leAt b 16 4 → mgmtReach m true (leAt b 8 6) n = true →
    writeStuck m (leAt b 8 6) n = none →
    Does (.attest r none) s (succeed (store { m with freeCtr := m.freeCtr + 1 } (leAt b 8 6) out) r 0 0) := by
  subst hm
  intro b body what n out hwhat h1 h14 h20 h56 hdest hroom hreach hstuck
  have hn : out.length = n := by
    simp only [out, n, List.length_append, fixLen_length, body, reportBody_length]
    split <;> simp
  rw [← hn] at hreach hstuck
  refine (guardUnit_of (decide_eq_true hs) _).trans (dispatch_go h ?_)
  refine (request_opens hg r _).trans ((need_of ?fields _ _ _).trans ((need_of hreach _ _ _).trans (mgmtWrite_lands ?_)))
  case fields => simp only [Bool.and_eq_true, decide_eq_true_eq]; exact ⟨⟨⟨⟨⟨⟨hwhat, h1⟩, h14⟩, h20⟩, h56⟩, hdest⟩, hroom⟩
  exact (writeStuck_freeCtr _ _ _ _).trans hstuck

/-- SELFTEST_READ (R560). -/
theorem selftestRead_does (hs : r.scope = 8) (h : readyFor s r 0x47 c = true) (hm : markDispatched s r = m)
    (hg : RequestGood m c.o0) :
    let b := memBytes m c.o0 64
    let what := leAt b 0 1
    let out := testOutput m what (leAt b 2 2) (leAt b 4 2)
    what ≤ 1 → leAt b 1 1 = 0 → leAt b 6 2 = 0 → leAt b 14 2 = 0 → leAt b 20 40 = 0 →
    leAt b 2 2 < (if what = 0 then 101 else 4096) → 1 ≤ leAt b 4 2 → leAt b 4 2 ≤ 4096 → leAt b 8 6 % 64 = 0 →
    out.length ≤ leAt b 16 4 → mgmtReach m true (leAt b 8 6) out.length = true →
    writeStuck m (leAt b 8 6) out.length = none →
    Does (.selftestRead r none) s (succeed (store m (leAt b 8 6) out) r 0 0) := by
  subst hm
  intro b what out hwhat h1 h6 h14 h20 hfirst hone hcount hdest hroom hreach hstuck
  refine (guardUnit_of (decide_eq_true hs) _).trans (dispatch_go h ?_)
  refine (request_opens hg r _).trans ((need_of ?fields _ _ _).trans ((need_of hreach _ _ _).trans (mgmtWrite_lands hstuck)))
  case fields =>
    simp only [Bool.and_eq_true, decide_eq_true_eq]
    exact ⟨⟨⟨⟨⟨⟨⟨⟨⟨hwhat, h1⟩, h6⟩, h14⟩, h20⟩, hfirst⟩, hone⟩, hcount⟩, hdest⟩, hroom⟩

end

/-- Settles O29: one theorem per command; each passes its tests in turn. -/
theorem managementCommands : Obligations.ManagementCommands := by
  unfold Obligations.ManagementCommands
  refine ⟨fun r c s hs h => imageLoad_does hs h rfl, fun r c s hs h => ?_, fun r c s hs h => ?_⟩
  · intro m b body what n out ha hr hw hc
    exact attest_does hs h rfl ⟨ha, hr, hw, hc⟩
  · intro m b what out ha hr hw hc
    exact selftestRead_does hs h rfl ⟨ha, hr, hw, hc⟩

end Sys2Proof.Machine
end

section
/-! The family of 03_number_formats.md: STEP_COMMIT, STEP_ABANDON and EPOCH_SET (O25). -/

namespace Sys2Proof.Machine

section
variable {s m : State} {r : CmdRef} {c : Cmd}

/-- A command that nothing holds up goes on. -/
theorem waitWhile_of {b : Bool} (h : b = false) (k : Disp) : waitWhile b k = k := by rw [h]; rfl

/-! ## STEP_COMMIT (R107, R110, R372, R377, R401) -/

/-- The commit table that a STEP_COMMIT names (R372). -/
def commitTable (m : State) (c : Cmd) : List Byte := memBytes m c.o1 (8 * bitsOf c.o2 0 13)

/-- A STEP_COMMIT names its hall's commit ring, or 0 where there is none. -/
def NamesCommitRing (m : State) (h : Nat) (c : Cmd) : Prop :=
  scRing c = match commitRing m.run h with | some g => g.num | none => 0

/-- The ring that a STEP_COMMIT names passes the test of dispatch. -/
theorem NamesCommitRing.test {h : Nat} (hr : NamesCommitRing m h c) :
    (match commitRing m.run h with | some g => decide (scRing c = g.num) | none => decide (scRing c = 0)) = true := by
  unfold NamesCommitRing at hr
  cases hg : commitRing m.run h with
  | none => simpa [hg] using hr
  | some g => simpa [hg] using hr

/-- A STEP_COMMIT that passes the tests of its dispatch: alone in its hall, of the hall's epoch or resumed for one applied
here, its table in reach, readable and naming valid scale entries, none with an update under way. -/
structure CommitGood (m : State) (h : Nat) (r : CmdRef) (c : Cmd) : Prop where
  ring : NamesCommitRing m h c
  alone : (hallCommits m h).any (fun p => p.1 ≠ r) = false
  epoch : scEpoch c = hallEpoch m h ∨ (scResume c = true ∧ (appliedFor m h (scEpoch c)).isSome = true)
  size : bitsOf c.o2 0 13 ≤ 4096
  window : 0 < bitsOf c.o2 0 13 → inWindow m h false c.o1 (8 * bitsOf c.o2 0 13) = true
  reads : readsWell m c.o1 (8 * bitsOf c.o2 0 13) = true
  entries : (List.range (bitsOf c.o2 0 13)).all (fun t => leAt (commitTable m c) (8 * t + 6) 2 ≤ 1) = true
  scales : (tableScales (commitTable m c)).all (fun x => seValid m (scaleAddr h x)) = true
  idle : scaleBusy m h (tableScales (commitTable m c)) = false

/-- The epoch test of dispatch lets a good STEP_COMMIT go on. -/
theorem CommitGood.epochTest {h : Nat} (g : CommitGood m h r c) :
    ¬(scEpoch c ≠ hallEpoch m h && !(scResume c && (appliedFor m h (scEpoch c)).isSome)) = true := by
  rcases g.epoch with he | ⟨hres, happ⟩
  · simp [he]
  · simp [hres, happ]

/-- The window test of dispatch lets a good STEP_COMMIT go on. -/
theorem CommitGood.windowTest {h : Nat} (g : CommitGood m h r c) :
    ¬(0 < bitsOf c.o2 0 13 && !inWindow m h false c.o1 (8 * bitsOf c.o2 0 13)) = true := by
  simpa using g.window

/-- A good STEP_COMMIT keeps its table; it begins to collect where its neighbours are reached, and ends where not. -/
theorem stepCommit_does (hs : r.scope < 8) (h : readyFor s r 0x22 c = true) (hm : markDispatched s r = m)
    (g : CommitGood m r.scope r c) :
    let t := updJob m r fun j => { j with rec1 := commitTable m c, aux := [0] }
    (commitReaches t r.scope c = true → Does (.stepCommit r none) s
      (if scRing c = 0 then t else setF t (rClsHallCommit r.scope) fClsHallCommitState 1)) ∧
    (commitReaches t r.scope c = false → Does (.stepCommit r none) s
      (commitUnreached t r { c with job := { c.job with rec1 := commitTable m c } })) := by
  subst hm
  intro t
  have passes : ∀ u, (if !commitReaches t r.scope c then
        .go (commitUnreached t r { c with job := { c.job with rec1 := commitTable (markDispatched s r) c } })
      else .go (if scRing c = 0 then t else setF t (rClsHallCommit r.scope) fClsHallCommitState 1)) = Disp.go u →
      Does (.stepCommit r none) s u := by
    intro u hu
    refine (guardUnit_of (decide_eq_true hs) _).trans (dispatch_go h ?_)
    refine (need_of (NamesCommitRing.test g.ring) _ _ _).trans ((waitWhile_of g.alone _).trans ?_)
    refine (if_neg g.epochTest).trans ((if_neg g.size.not_gt).trans ((if_neg g.windowTest).trans ?_))
    rw [ite_self, readOk_well g.reads]
    exact (need_of g.entries _ _ _).trans ((need_of g.scales _ _ _).trans ((waitWhile_of g.idle _).trans hu))
  exact ⟨fun hreach => passes _ (if_neg (by simp [hreach])), fun hreach => passes _ (if_pos (by simp [hreach]))⟩

/-! ## STEP_ABANDON (R376) -/

/-- No other member leads the hall's commit ring. -/
def LeadsCommits (m : State) (h : Nat) : Prop := ∀ g, commitRing m.run h = some g → g.lead = g.self

/-- Where no other member is to be told, the step ends abandoned here. -/
theorem stepAbandon_alone (hs : r.scope < 8) (h : readyFor s r 0x23 c = true) (hm : markDispatched s r = m)
    (hl : LeadsCommits m r.scope) (hn : ∀ g, commitRing m.run r.scope = some g → g.next g.self = g.self)
    (he : bitsOf c.o0 0 32 = hallEpoch m r.scope) :
    Does (.stepAbandon r) s (succeed (abandonHere m r.scope (bitsOf c.o0 0 32)) r 0 0) := by
  refine (guardUnit_of (decide_eq_true hs) _).trans (dispatch_go h ?_)
  cases hg : commitRing m.run r.scope with
  | none => simp [hm, hg, he]
  | some g => simp [hm, hg, he, hl g hg, hn g hg]

/-- The leader of a ring sends the token round before it ends the step here. -/
theorem stepAbandon_leader {g : Ring} {t : State} (hs : r.scope < 8) (h : readyFor s r 0x23 c = true)
    (hm : markDispatched s r = m) (hg : commitRing m.run r.scope = some g) (hl : g.lead = g.self)
    (hn : g.next g.self ≠ g.self) (he : bitsOf c.o0 0 32 = hallEpoch m r.scope)
    (ht : sendToken m none r.scope g (bitsOf c.o0 0 32) (tokBody 3 false false [] 1 []) = some t) :
    let u := abandonHere t r.scope (bitsOf c.o0 0 32)
    Does (.stepAbandon r) s (succeed (setClo u r.scope { getClo u r.scope with abandoning := true }) r 0 0) := by
  rw [he] at ht
  refine (guardUnit_of (decide_eq_true hs) _).trans (dispatch_go h ?_)
  simp [hm, hg, hl, hn, he, ht]

/-- An epoch that is not the hall's ends the command: already-complete for the one before, epoch-mismatch for another. -/
theorem stepAbandon_otherEpoch (hs : r.scope < 8) (h : readyFor s r 0x23 c = true) (hm : markDispatched s r = m)
    (hl : LeadsCommits m r.scope) (he : bitsOf c.o0 0 32 ≠ hallEpoch m r.scope) :
    Does (.stepAbandon r) s
      (endCmd s r (if (bitsOf c.o0 0 32 + 1) % 2 ^ 32 = hallEpoch m r.scope then 0x01 else 0x32) 0 0 0) := by
  refine (guardUnit_of (decide_eq_true hs) _).trans (dispatch_stop h ?_)
  cases hg : commitRing m.run r.scope with
  | none =>
    simp only [hm, hg, if_neg he]
    split <;> rfl
  | some g =>
    simp only [hm, hg, if_neg he, hl g hg, ne_eq, not_true_eq_false, if_false]
    split <;> rfl

/-! ## EPOCH_SET (R371, R379) -/

/-- Work of the step under way in a hall: a collective, an owner update or a commit (R379). -/
def stepBusy (m : State) (h : Nat) : Bool :=
  (earlierCmds m h).any fun p => p.2.opcode = 0x20 || p.2.opcode = 0x21 || p.2.opcode = 0x22

/-- With nothing of the step under way or in doubt the epoch is set. -/
theorem epochSet_idle (hs : r.scope < 8) (h : readyFor s r 0x24 c = true) (hm : markDispatched s r = m)
    (hb : stepBusy m r.scope = false) (hd : getF m (rClsHallCommit r.scope) fClsHallCommitState ≠ 3) :
    Does (.epochSet r) s
      (succeed (setF m (rClsHallEpoch r.scope) fClsHallEpochEpoch (bitsOf c.o0 0 32)) r 0 0) := by
  subst hm
  have htest : ¬(stepBusy (markDispatched s r) r.scope ||
      getF (markDispatched s r) (rClsHallCommit r.scope) fClsHallCommitState = 3) = true := by simp [hb, hd]
  exact (guardUnit_of (decide_eq_true hs) _).trans (dispatch_go h (if_neg htest))

/-- A step under way or in doubt keeps its epoch. -/
theorem epochSet_busy (hs : r.scope < 8) (h : readyFor s r 0x24 c = true) (hm : markDispatched s r = m)
    (hb : stepBusy m r.scope = true ∨ getF m (rClsHallCommit r.scope) fClsHallCommitState = 3) :
    Does (.epochSet r) s (endCmd s r 0x32 0 0 0) := by
  subst hm
  have htest : (stepBusy (markDispatched s r) r.scope ||
      getF (markDispatched s r) (rClsHallCommit r.scope) fClsHallCommitState = 3) = true := by simpa using hb
  exact (guardUnit_of (decide_eq_true hs) _).trans (dispatch_stop h (if_pos htest))

end

/-- Settles O25: one theorem per outcome of each command. -/
theorem stepCommands : Obligations.StepCommands := by
  unfold Obligations.StepCommands
  refine ⟨fun r c s hs h => ?_, fun r c s hs h => ⟨fun g hg hl he => ⟨fun hn => ?_, fun t hn ht => ?_⟩, fun hg => ?_⟩,
    fun r c s hs h => ⟨epochSet_idle hs h rfl, epochSet_busy hs h rfl⟩⟩
  · intro m hall n table hring halone hepoch hsize hwindow hreads hentries hscales hidle t
    exact stepCommit_does hs h rfl ⟨hring, halone, hepoch, hsize, hwindow, hreads, hentries, hscales, hidle⟩
  · have only : ∀ x, commitRing (markDispatched s r).run r.scope = some x → x = g := fun x hx =>
      Option.some.inj (hx.symm.trans hg)
    exact stepAbandon_alone hs h rfl (fun x hx => only x hx ▸ hl) (fun x hx => only x hx ▸ hn) he
  · exact stepAbandon_leader hs h rfl hg hl hn he ht
  · have alone : ∀ x, commitRing (markDispatched s r).run r.scope = some x → x.next x.self = x.self := fun x hx =>
      nomatch hg.symm.trans hx
    have hl : LeadsCommits (markDispatched s r) r.scope := fun x hx => nomatch hg.symm.trans hx
    have hother := stepAbandon_otherEpoch hs h rfl hl
    refine ⟨stepAbandon_alone hs h rfl hl alone, fun he hp => ?_, fun he hp => ?_⟩
    · simpa only [if_pos hp] using hother he
    · simpa only [if_neg hp] using hother he

end Sys2Proof.Machine
end

section
/-! The family of 04_tread_engines.md: lane instructions (O33, O34), scalars, branches and the end of a program (O37), items
of treads (O31), and the compute commands that start them (O19). -/

namespace Sys2Proof.Machine

/-! ## Lane instructions (R138, R140, R141) -/

section
variable {s : State} {t op : Nat} {i : VIns}

/-- A lane-by-lane instruction of any operation goes on with the effect of that operation. -/
theorem vecOp_lanes {f : Tread → VIns → Nat → Nat × Nat} (ht : t < 128) (hf : vecFetch s t = some i) (ho : i.op = op) :
    ∃ u, (vecOp t op s fun s tr i => vecLanes s t tr i (f tr i)) = .next u ∧ LaneEffect s u t i (f (getT s t) i) := by
  rw [vecOp_at ht hf ho]
  exact vecLanes_effect s t i _

/-- An integer instruction works on 32-bit lanes whatever its W bit says, and raises no flag. -/
theorem vecOp_ints {f : Word → Word → Word} (ht : t < 128) (hf : vecFetch s t = some i) (ho : i.op = op) :
    ∃ u, (vecOp t op s fun s tr i => vecInt s t tr i f) = .next u ∧ LaneEffect s u t { i with w := false } fun l =>
      ((f (BitVec.ofNat 32 (vWord (getT s t) i.va l)) (BitVec.ofNat 32 (vWord (getT s t) i.vb l))).toNat, 0) := by
  rw [vecOp_at ht hf ho]
  exact vecLanes_effect s t { i with w := false } _

end

/-- Settles O33: each of the seventeen opcodes is `vecOp` over the lanes of one operation. -/
theorem vectorFloatingPointLanes : Obligations.VectorFloatingPointLanes := by
  unfold Obligations.VectorFloatingPointLanes
  intro t i s ht hf tr F rm a b c
  dsimp only [Does, exec, execVadd, execVsub, execVmul, execVfma, execVdiv, execVsqrt, execVrem, execVminn, execVmaxn, execVmin,
    execVmax, execVrint, execVscalb, execVlogb, execVsel, execVclass, execVbcast]
  and_intros
  all_goals exact vecOp_lanes ht hf

/-- Settles O34: each of the eight opcodes is `vecOp` over `vecInt` of one operation. -/
theorem vectorIntegerLanes : Obligations.VectorIntegerLanes := by
  unfold Obligations.VectorIntegerLanes
  intro t i s ht hf a b j
  dsimp only [Does, exec, execViadd, execVisub, execVimul, execVand, execVor, execVxor, execVshl, execVshr]
  and_intros
  all_goals exact vecOp_ints ht hf

/-! ## Scalars, branches and the end of a program (R138, R139, R141, R165, R367) -/

/-- A scalar register reads as what was written to it. -/
theorem scalarOf_setScalar_same (tr : Tread) (r : Nat) (v : DWord) : scalarOf (setScalar tr r v) r = v :=
  fmGet_set_same (fun _ => (0 : DWord)) tr.s r v

section
variable {s : State} {t : Nat} {i : VIns} {r : CmdRef} {c : Cmd} (ht : t < 128) (hf : vecFetch s t = some i)

/-- The tread in the state `s`, its program standing at `pc`. -/
def jumpTo (s : State) (t : Nat) (tr : Tread) (pc : Nat) : State := setT s t { tr with prog := { tr.prog with pc := pc } }

include ht hf

/-- SOP writes scalar VD and goes on. -/
theorem sop_does (ho : i.op = 0x3C) :
    ∃ u, Does (.sop t) s u ∧ (getT u t).prog.pc = (getT s t).prog.pc + 1 ∧ u.mem = s.mem ∧ (getT u t).v = (getT s t).v ∧
      (getT u t).s = (setScalar (getT s t) (i.vd % 16)
        (Config.sop i.imm (scalarOf (getT s t) (i.va % 16)) (scalarOf (getT s t) (i.vb % 16)))).s := by
  obtain ⟨u, hu, hu_t, -, hm, -⟩ := vecDone_next s t (setScalar (getT s t) (i.vd % 16)
    (Config.sop i.imm (scalarOf (getT s t) (i.va % 16)) (scalarOf (getT s t) (i.vb % 16)))) 0
  refine ⟨u, ?_, by rw [hu_t]; rfl, hm, by rw [hu_t]; rfl, by rw [hu_t]; rfl⟩
  rw [Does, exec, execSop, vecOp_at ht hf ho, hu]

/-- LOOP branches while the scalar it has decremented is not 0. -/
theorem loop_branches (ho : i.op = 0x3D) (hv : scalarOf (getT s t) (i.vd % 16) - 1 ≠ 0) :
    Does (.loop t) s (jumpTo s t (setScalar (getT s t) (i.vd % 16) (scalarOf (getT s t) (i.vd % 16) - 1))
      (Config.brTarget i.imm (getT s t).prog.pc)) := by
  rw [Does, exec, execLoop, vecOp_at ht hf ho]
  exact if_neg hv

/-- LOOP goes on once the scalar has reached 0. -/
theorem loop_ends (ho : i.op = 0x3D) (hv : scalarOf (getT s t) (i.vd % 16) - 1 = 0) :
    ∃ u, Does (.loop t) s u ∧ scalarOf (getT u t) (i.vd % 16) = 0 ∧ (getT u t).prog.pc = (getT s t).prog.pc + 1 := by
  obtain ⟨u, hu, hu_t, -⟩ := vecDone_next s t (setScalar (getT s t) (i.vd % 16) (scalarOf (getT s t) (i.vd % 16) - 1)) 0
  refine ⟨u, ?_, ?_, by rw [hu_t]; rfl⟩
  · rw [Does, exec, execLoop, vecOp_at ht hf ho]
    exact (if_pos hv).trans hu
  · rw [hu_t, hv]
    exact scalarOf_setScalar_same (getT s t) (i.vd % 16) 0

/-- BR whose condition holds branches. -/
theorem br_taken (ho : i.op = 0x3E)
    (hb : Config.brTaken i.imm (scalarOf (getT s t) (i.va % 16)) (scalarOf (getT s t) (i.vb % 16)) = true) :
    Does (.br t) s (jumpTo s t (getT s t) (Config.brTarget i.imm (getT s t).prog.pc)) := by
  rw [Does, exec, execBr, vecOp_at ht hf ho]
  exact if_pos hb

/-- BR whose condition does not hold goes on. -/
theorem br_untaken (ho : i.op = 0x3E)
    (hb : Config.brTaken i.imm (scalarOf (getT s t) (i.va % 16)) (scalarOf (getT s t) (i.vb % 16)) ≠ true) :
    ∃ u, Does (.br t) s u ∧ u.mem = s.mem ∧ (getT u t).prog.pc = (getT s t).prog.pc + 1 := by
  obtain ⟨u, hu, hu_t, -, hm, -⟩ := vecDone_next s t (getT s t) 0
  refine ⟨u, ?_, hm, by rw [hu_t]⟩
  rw [Does, exec, execBr, vecOp_at ht hf ho]
  exact (if_neg hb).trans hu

/-- HALT of a vector-program command ends the program and records its item. -/
theorem halt_program (ho : i.op = 0x3F) (hr : (getT s t).prog.cmd = some r) (hc : findCmd s r = some c)
    (hop : c.opcode = 0x02) : Does (.halt t) s (itemDone (vecStop s t) r (getT s t).prog.item) := by
  rw [Does, exec, execHalt, vecOp_at ht hf ho]
  simp [hr, hc, hop, haltProgram]

/-- HALT of an update writes the item's results out, then ends the program and records its item. -/
theorem halt_update (ho : i.op = 0x3F) (hr : (getT s t).prog.cmd = some r) (hc : findCmd s r = some c)
    (hop : c.opcode = 0x21) (hst : c.st = .dispatched) (hput : updPutStuck s r c (getT s t).prog.item = none) :
    ∃ v, haltProgram (updPut s r c t (getT s t).prog.item) t (getT s t) = .next v ∧
      Does (.halt t) s (updSettle (mirrorOut v r) r) := by
  obtain ⟨v, hv⟩ := haltProgram_goesOn (updPut s r c t (getT s t).prog.item) t (getT s t)
  refine ⟨v, hv, ?_⟩
  rw [Does, exec, execHalt, vecOp_at ht hf ho]
  simp [hr, hc, hop, hst, hput, hv]

end

/-- Settles O37: one theorem per instruction and outcome. -/
theorem vectorScalarsAndBranches : Obligations.VectorScalarsAndBranches := by
  unfold Obligations.VectorScalarsAndBranches
  intro t i s ht hf tr go
  refine ⟨sop_does ht hf, fun ho => ⟨loop_branches ht hf ho, loop_ends ht hf ho⟩, fun ho => ?_,
    fun r c ho hr hc => ⟨halt_program ht hf ho hr hc, halt_update ht hf ho hr hc⟩⟩
  split
  case isTrue hb => exact ⟨_, br_taken ht hf ho hb, rfl, rfl⟩
  case isFalse hb => exact br_untaken ht hf ho hb

/-! ## Items of treads (R112, R139, R160 to R171, R367, R623) -/

section
variable {s : State} {t i : Nat} {r : CmdRef} {c : Cmd}

/-- Tread `t` may take item `i` of command `c`: the next of the oldest command with items left (R162, R163, R165). -/
structure TakesItem (s : State) (t : Nat) (r : CmdRef) (c : Cmd) (i : Nat) : Prop where
  tread : t < 128
  hall : r.scope < 8
  found : findCmd s r = some c
  runs : c.st = .dispatched
  items : cmdItems c = true
  next : nextItem c = some i
  turn : ∃ x, oldest (withItems s r.scope (c.opcode = 0x02)) = some (r, x)
  works : takesWork s r.scope t = true
  may : mayTake s t r c = true

/-- The counter has issued its next item. -/
def itemIssued (s : State) (r : CmdRef) : State :=
  updJob s r fun j => { j with
    reissue := j.reissue.drop 1, next := if j.reissue.isEmpty then j.next + 1 else j.next }

/-- The item of a vector program starts the program, scalar 0 holding the item and scalar 1 the operand (R139). -/
def programStarted (u : State) (t : Nat) (r : CmdRef) (c : Cmd) (i : Nat) : State :=
  let tr := { getT u t with
    s := [], prog := { cmd := some r, item := i, words := progWords c.job.rec1 (c.job.rec1.length / 8) } }
  treadStatus (setT u t (setScalar (setScalar tr 0 (BitVec.ofNat 64 i)) 1 (BitVec.ofNat 64 c.o2))) t

/-- The item joins those that the tread holds (R163, R170). -/
def itemHeld (u : State) (t : Nat) (r : CmdRef) (c : Cmd) (i : Nat) : State :=
  treadStatus (groupTake (setT u t { getT u t with
    held := (getT u t).held ++ [{ cmd := r, item := i, vec := cmdVector c }] }) r t i) t

/-- A tread that may take an item takes it by the kind of its command. -/
theorem itemTake_takes (g : TakesItem s t r c i) :
    execItemTake t r s =
      if c.opcode = 0x21 then
        match updStuck (itemIssued s r) r c i with
        | some none => .next s
        | some (some (e, a)) => .next (failCmd s r e a)
        | none => .next (updTake (itemIssued s r) r c t i)
      else if c.opcode = 0x02 then .next (programStarted (itemIssued s r) t r c i)
      else .next (itemHeld (itemIssued s r) t r c i) := by
  obtain ⟨x, hx⟩ := g.turn
  have allowed : ¬(c.st ≠ .dispatched ∨ cmdItems c = false ∨ r ≠ r ∨ takesWork s r.scope t = false ∨ mayTake s t r c = false) := by
    simp [g.runs, g.items, g.works, g.may]
  refine (guardUnit_of (by simp [g.tread, g.hall]) _).trans ?_
  simp only [g.found, g.next, hx]
  exact if_neg allowed

/-- An update's item that nothing stops brings its operands into the Landing (R367). -/
theorem itemTake_update (g : TakesItem s t r c i) (ho : c.opcode = 0x21) (hu : updStuck (itemIssued s r) r c i = none) :
    Does (.itemTake t r) s (updTake (itemIssued s r) r c t i) := by
  refine (itemTake_takes g).trans ((if_pos ho).trans ?_)
  rw [hu]

/-- The next item of a vector program starts it on the tread (R139). -/
theorem itemTake_program (g : TakesItem s t r c i) (ho : c.opcode = 0x02) :
    Does (.itemTake t r) s (programStarted (itemIssued s r) t r c i) :=
  (itemTake_takes g).trans ((if_neg (by simp [ho])).trans (if_pos ho))

/-- The next item of any other command joins what the tread holds (R163). -/
theorem itemTake_other (g : TakesItem s t r c i) (hp : c.opcode ≠ 0x02) (hu : c.opcode ≠ 0x21) :
    Does (.itemTake t r) s (itemHeld (itemIssued s r) t r c i) :=
  (itemTake_takes g).trans ((if_neg hu).trans (if_neg hp))

/-- A block of an open group is fetched where the group buffer has room (R170). -/
theorem groupBlockFetch_does {k : Nat} {got : List (Nat × Nat)} {g0 : Grp} (hs : r.scope < 8) (hf : findCmd s r = some c)
    (hst : c.st = .dispatched) (hg : fmFind c.job.grp k = some g0) :
    let g := groupSettle c k (got.foldl (fun g x => groupGive c k g x.1 x.2) g0)
    let u := updJob s r fun j => { j with grp := fmPut j.grp k g }
    g.fetched < (descOf c.job.rec1).q → g.held < 4 →
    groupUse u g.flight + groupBlock (descOf c.job.rec1) ≤ 0x100000 →
    Does (.groupBlockFetch r { group := k, got := got }) s
      (updJob u r fun j => { j with grp := fmPut j.grp k { g with fetched := g.fetched + 1, held := g.held + 1 } }) := by
  intro g u hleft hheld hroom
  have room : ¬(c.st ≠ .dispatched ∨ (descOf c.job.rec1).q ≤ g.fetched ∨ 4 ≤ g.held ∨
      0x100000 < groupUse u g.flight + groupBlock (descOf c.job.rec1)) := by
    simp only [hst, ne_eq, not_true_eq_false, false_or]
    omega
  refine (guardUnit_of (decide_eq_true hs) _).trans ?_
  simp only [hf, hg]
  exact if_neg room

/-! ## The end of a main pass (R111, R112, R240, R335 to R337, R623) -/

variable {rows : Nat} {hd : Held}

/-- The main pass of the oldest item that tread `t` holds may end: its blocks have come, and a bank is free for its tile
(R112, R170). -/
structure PassEnds (s : State) (t : Nat) (hd : Held) (c : Cmd) : Prop where
  tread : t < 128
  oldest : (getT s t).held.find? (fun h => !h.ended) = some hd
  found : findCmd s hd.cmd = some c
  bank : (getT s t).held.countP (fun h => h.ended && !h.vec) < 2 ∨ hd.vec = true
  blocks : groupReady c hd.item = true

/-- Rows that the drain writes at once: none where it is at work. -/
def rowsIssued (s : State) (t rows : Nat) : Nat := if (getT s t).held.any (·.ended) then 0 else rows

/-- Neither the bank nor the group holds such a pass up. -/
theorem PassEnds.mayEnd (g : PassEnds s t hd c) :
    ¬(((2 ≤ (getT s t).held.countP fun h => h.ended && !h.vec) && !hd.vec) = true ∨ groupReady c hd.item = false) := by
  have hb := g.bank
  simp only [Bool.and_eq_true, decide_eq_true_eq, Bool.not_eq_true', g.blocks, Bool.true_eq_false, or_false, not_and,
    Bool.not_eq_false]
  intro hfull
  exact hb.resolve_left hfull.not_gt

/-- The model asks the question the other way round. -/
theorem rowsIssued_eq (s : State) (t rows : Nat) :
    (if (!(getT s t).held.any (·.ended)) = true then rows else 0) = rowsIssued s t rows := by
  unfold rowsIssued
  cases (getT s t).held.any (·.ended) <;> rfl

/-- The pass of a product's item ends: its tile goes to the drain, its group's blocks are received (R112, R170). -/
theorem mainPassEnd_product (g : PassEnds s t hd c) (ho : c.opcode = 0x01) {tile : List (List (Option Acc))} :
    let x := pctxOf s hd.cmd.scope c
    x.tile s hd.item x.d.rows 0 = .ok tile →
    let u := groupPassed (countCvts s hd.cmd.scope (x.expandCvts s hd.item)) hd.cmd hd.item
    Does (.mainPassEnd t rows none) s
      (treadStatus (drainTread (setT u t { getT u t with
        held := setOpen { hd with ended := true, rows := tile } (getT u t).held }) t (rowsIssued s t rows)) t) := by
  intro x htile u
  refine (guardUnit_of (decide_eq_true g.tread) _).trans ?_
  simp only [g.oldest, g.found]
  refine (if_neg (by simpa using g.mayEnd)).trans ?_
  simp only [ho, rowsIssued_eq]
  simp [x, htile, u]

/-- The pass of an attention's item ends: its rows go to the drain (R240). -/
theorem mainPassEnd_attention (g : PassEnds s t hd c) (ho : c.opcode = 0x03)
    (hr : attnRowsStuck s hd.cmd.scope c hd.item = none) :
    let y := attnRows s hd.cmd.scope c hd.item
    Does (.mainPassEnd t rows none) s
      (treadStatus (drainTread (setT y.2 t { getT y.2 t with
        held := setOpen { hd with ended := true, att := y.1 } (getT y.2 t).held }) t (rowsIssued s t rows)) t) := by
  intro y
  refine (guardUnit_of (decide_eq_true g.tread) _).trans ?_
  simp only [g.oldest, g.found]
  refine (if_neg (by simpa using g.mayEnd)).trans ?_
  simp only [ho, rowsIssued_eq]
  simp [y, hr]

/-- The item of a pack or of an expansion is done with its pass (R335 to R337). -/
theorem mainPassEnd_direct {u : State} (g : PassEnds s t hd c) (ho : c.opcode = 0x1B ∨ c.opcode = 0x1C ∨ c.opcode = 0x09)
    (hi : directItem s hd.cmd c hd.item = .ok u) :
    Does (.mainPassEnd t rows none) s
      (treadStatus (recordItem (setT u t { getT u t with held := dropOpen (getT u t).held }) hd.cmd hd.item) t) := by
  have direct : (c.opcode = 0x1B || c.opcode = 0x1C || c.opcode = 0x09) = true := by simpa [or_assoc] using ho
  refine (guardUnit_of (decide_eq_true g.tread) _).trans ?_
  simp only [g.oldest, g.found]
  refine (if_neg (by simpa using g.mayEnd)).trans ((if_pos direct).trans ?_)
  rw [hi]

/-! ## The last row of an item (R160, R165, R166, R213, R242) -/

/-- What the item's end leaves beside the counter: the rows a rotation keeps, the best of an argmax. -/
def itemKept (u : State) (c : Cmd) (k : Held) : State :=
  let x := pctxOf u k.cmd.scope c
  if c.opcode = 0x03 then
    (if (attnRing u k.cmd.scope (attOf c.job.rec1)).isSome then attnKeep u k.cmd k.item k.att else u)
  else if x.d.argmax && !x.d.hasP then x.mergeBest u k.item k.best else u

/-- An item whose last rows nothing stops leaves its tread; the counter records it. -/
theorem itemDrained_records {w : State} {k : Held} (ht : t < 128) (hh : (getT s t).held.find? (·.ended) = some hd)
    (hf : findCmd s hd.cmd = some c) (hw : drainHeldRows s hd (max hd.rows.length hd.att.length) = (w, k, none))
    (hk : running w k.cmd = true → lastPart c k.item = true → combineStuck w k.cmd c k.item = none) :
    Does (.itemDrained t) s (treadStatus (recordItem
      (itemKept (setT w t { getT w t with held := dropEnded (getT w t).held }) c k) k.cmd k.item) t) := by
  have combines : (if (running w k.cmd && lastPart c k.item) = true then combineStuck w k.cmd c k.item else none) = none :=
    ite_eq_right_iff.2 fun h => hk (Bool.and_eq_true_iff.1 h).1 (Bool.and_eq_true_iff.1 h).2
  refine (guardUnit_of (decide_eq_true ht) _).trans ?_
  simp only [hh, hf, hw, combines]
  rfl

end

/-- Settles O31: one theorem per kind of item taken, fetched, passed and drained. -/
theorem treadItems : Obligations.TreadItems := by
  unfold Obligations.TreadItems
  refine ⟨fun t r c x i s ht hs hf hst hi hn ho hw hm => ?_, fun r c k got g0 s hs hf hst hg => groupBlockFetch_does hs hf hst hg,
    fun t rows hd c s ht hh hf hb hg => ?_, fun t hd c s ht hh hf => ?_⟩
  · have g : TakesItem s t r c i := ⟨ht, hs, hf, hst, hi, hn, ⟨x, ho⟩, hw, hm⟩
    exact ⟨itemTake_other g, itemTake_program g, itemTake_update g⟩
  · have g : PassEnds s t hd c := ⟨ht, hh, hf, hb, hg⟩
    exact ⟨fun _ ho => mainPassEnd_product g ho, mainPassEnd_attention g, fun _ => mainPassEnd_direct g⟩
  · intro w k hstop
    exact itemDrained_records ht hh hf (Prod.ext rfl (Prod.ext rfl hstop))

/-! ## The compute commands start their items (R139, R146, R173, R176, R229, R230, R235, R237, R325) -/

section
variable {s m w : State} {r : CmdRef} {c : Cmd} {h n a : Nat}

/-- A range of no bytes stops no read. -/
theorem readOk_empty (b : Bool) (k : Disp) : readOk s r none b a 0 k = k := by
  simp [readOk, unzeroed, overlap, goneIn]

/-- A read that is made only where a test holds goes on when its whole range reads well. -/
theorem readOk_if {p : Prop} [Decidable p] (hr : readsWell s a n = true) (b : Bool) (k : Disp) :
    readOk s r none b a (if p then n else 0) k = k := by
  split
  · exact readOk_well hr
  · exact readOk_empty b k

/-- A coded operand's header is read; a plain operand has none. -/
theorem readOk_header {code : Nat} (hr : code = 0 ∨ readsWell s a n = true) (b : Bool) (k : Disp) :
    readOk s r none b a (if code = 0 then 0 else n) k = k := by
  rcases hr with hc | hr
  · rw [if_pos hc]
    exact readOk_empty b k
  · split
    · exact readOk_empty b k
    · exact readOk_well hr

/-! ### VECTOR_PROGRAM -/

/-- A program that passes its checks lies in a window of its hall and has at most 2,048 instructions. -/
theorem progCheck_none (hp : progCheck s h a = none) : inWindow s h false a 32 = true ∧ memNat s a 4 ≤ 2048 := by
  unfold progCheck at hp
  dsimp only at hp
  split at hp
  · cases hp
  case isFalse hwin =>
    split at hp
    · cases hp
    case isFalse hfields =>
      simp only [Bool.or_eq_true, decide_eq_true_eq, not_or, not_lt] at hfields
      exact ⟨by simpa using hwin, hfields.1⟩

/-- A vector program that passes its tests starts with its number of items; one of no items succeeds. -/
theorem vectorProgram_does (hs : r.scope < 8) (hd : readyFor s r 0x02 c = true) (hm : markDispatched s r = m)
    (hl : learnOpen m r.scope c = true) :
    let k := memNat m c.o0 4
    let b := memBytes m (c.o0 + 32) (8 * k)
    readsWell m c.o0 (32 + 8 * k) = true → progCheck m r.scope c.o0 = none →
    progBadTable m r.scope (progWords b k) = false → reachOpen m r.scope [(c.o0, 32 + 8 * k)] [] = true →
    let t := updJob m r fun j => { j with total := c.o1, rec1 := b, reads := [(c.o0, 32 + 8 * k)] }
    Does (.vectorProgram r none) s (if c.o1 = 0 then succeed t r 0 0 else t) := by
  subst hm
  intro k b hr hp hb ho t
  obtain ⟨hwin, hk⟩ := progCheck_none hp
  refine (guardUnit_of (decide_eq_true hs) _).trans (dispatch_go hd ((learnGate_open hl).trans ?_))
  rw [if_pos hwin, Nat.min_eq_right hk, readOk_well hr]
  simp only [hp]
  exact (if_neg (by simpa using hb)).trans (reachGate_open ho)

/-! ### ATTENTION -/

/-- The job that an attention of block `b` begins, its first step not begun (R235, R244). -/
def attentionJob (m : State) (h : Nat) (c : Cmd) (b : List Byte) (k : CacheRec) (j : Job) : Job :=
  let a := attOf b
  let ap (e : Nat) : Int := seAppliedK m (scaleAddr h e)
  { j with
    total := a.items, rec1 := b, reads := [a.qReach k, (c.o0, 256)]
    writes := [a.outReach k, a.statsReach, a.partReach k, a.rotReach k]
    scale := if a.osEn && a.amax && c.pass ≠ 3 then some a.oScale else none
    kA := if a.qsEn then ap a.qScale else 0
    kOut := if a.osEn then (if c.pass = 3 then ap a.oScale else seNextK m (scaleAddr h a.oScale)) else 0
    aux := [0, 0] }

/-- An attention of block `b` that passes the tests of R237 and its gates, the cache of its hall being `k`. -/
structure AttentionGood (m : State) (h : Nat) (c : Cmd) (b : List Byte) (ra : Nat) (k : CacheRec) : Prop where
  block : memBytes m c.o0 256 = b
  learns : learnOpen m h c = true
  aligned : c.o0 % 256 = 0
  window : inWindow m h false c.o0 256 = true
  reads : readsWell m c.o0 256 = true
  idle : seqBusy m h [((attOf b).seq, 2)] = false
  crc : crc32c (b.take 240) = leAt b 240 4
  scales : scaleBusy m h
    ((if (attOf b).qsEn then [(attOf b).qScale] else []) ++ (if (attOf b).osEn then [(attOf b).oScale] else [])) = false
  checks : attnChecks m h c.pass c.o0 (attOf b) = none
  cache : hallCache m h = some (ra, k)
  cloister : (attOf b).ring = 0 ∨ blockIsolated m 2 = false
  neighbours : ∀ g, attnRing m h (attOf b) = some g → ctxsOpen m h [g.ctx ((g.self + 1) % g.n)] = true
  slot : slotsFull m h = false
  gate : reachOpen m h [(attOf b).qReach k]
    [(attOf b).outReach k, (attOf b).statsReach, (attOf b).partReach k, (attOf b).rotReach k] = true

/-- An attention that passes its tests starts its items; one of a rotating ring begins its first step. -/
theorem attention_does {b : List Byte} {ra : Nat} {k : CacheRec} (hs : r.scope < 8) (hd : readyFor s r 0x03 c = true)
    (hm : markDispatched s r = m) (g : AttentionGood m r.scope c b ra k) :
    let t := updJob m r (attentionJob m r.scope c b k)
    Does (.attention r none) s (if (attnRing m r.scope (attOf b)).isSome then startStep t r else t) := by
  subst hm
  intro t
  have place : ¬(!(c.o0 % 256 = 0 && inWindow (markDispatched s r) r.scope false c.o0 256)) = true := by
    simp [g.aligned, g.window]
  have served : ¬((attOf b).ring ≠ 0 && blockIsolated (markDispatched s r) 2) = true := by
    rcases g.cloister with hring | hblock
    · simp [hring]
    · simp [hblock]
  refine (guardUnit_of (decide_eq_true hs) _).trans (dispatch_go hd ((learnGate_open g.learns).trans ?_))
  refine (if_neg place).trans ((readOk_well g.reads).trans ?_)
  rw [g.block]
  refine (waitWhile_of g.idle _).trans ((if_neg (not_not.2 g.crc)).trans ((waitWhile_of g.scales _).trans ?_))
  simp only [g.checks, g.cache]
  refine (if_neg served).trans ((if_neg ?_).trans ?_)
  · cases hring : attnRing (markDispatched s r) r.scope (attOf b) with
    | none => simp
    | some x => simp [g.neighbours x hring]
  · exact (waitWhile_of g.slot _).trans (reachGate_open g.gate)

/-! ### PRODUCT -/

/-- The operand list of a product. -/
def operandList (m : State) (c : Cmd) : List Byte := memBytes m c.o1 256

/-- The descriptor record that a product names, in the structure of its hall's active variant. -/
def productRecord (w : State) (h : Nat) (c : Cmd) : List Byte :=
  secEntry (secOf w.run tyLOOP h (hallVar w.run h)) 64 (bitsOf c.o0 0 12)

/-- The scale entries that a descriptor names. -/
def namedScales (d : Desc) : List Nat :=
  (if d.saEn then [d.scaleA] else []) ++ (if d.sbEn then [d.scaleB] else []) ++ (if d.soEn then [d.scaleC] else [])

/-- The ranges that a product writes beside its appended alcoves, and those that it reads. -/
def productWrites (d : Desc) (ap : Bool) (ol : List Byte) : List (Nat × Nat) :=
  ((prodReach d ap ol).filter fun x => writtenEntries.contains x.1).map fun x => natRange x.2.1 x.2.2
def productReads (d : Desc) (ap : Bool) (ol : List Byte) : List (Nat × Nat) :=
  ((prodReach d ap ol).filter fun x => !writtenEntries.contains x.1).map fun x => natRange x.2.1 x.2.2

/-- The job that a product of descriptor `d` begins, reading `rd` and writing `ws` (R146, R325). -/
def productJob (w : State) (h : Nat) (c : Cmd) (db ol : List Byte) (rd ws : List (Nat × Nat)) (j : Job) : Job :=
  let d := descOf db
  let k (en : Bool) (e : Nat) : Int := if en then seAppliedK w (scaleAddr h e) else 0
  { j with
    total := d.items, next := 0, reissue := [], done := [], grp := [], norm := {}, amax := 0, presented := false
    reads := rd, writes := ws, rec1 := db, rec2 := ol
    scale := if d.soEn && d.amax && c.pass ≠ 3 then some d.scaleC else none
    kA := k d.saEn d.scaleA, kB := k d.sbEn d.scaleB
    kOut := if d.soEn then (if c.pass = 3 then seAppliedK w (scaleAddr h d.scaleC) else seNextK w (scaleAddr h d.scaleC))
      else 0
    normAddr := if d.norm && c.pass ≠ 3 then some (opAddr ol 14 + 32 * opPitch ol 14) else none
    uses := slotCount w d ol 0 ++ slotCount w d ol 2 }

/-- The state in which such a product is dispatched, its code-table slots counted. -/
def productStarted (w : State) (r : CmdRef) (c : Cmd) (db ol : List Byte) (rd ws : List (Nat × Nat)) : State :=
  updJob (queueSlots r.scope (slotCount w (descOf db) ol 0 ++ slotCount w (descOf db) ol 2) (dropItems w r)) r
    (productJob w r.scope c db ol rd ws)

/-- `w` is `m` with the alcoves of an append resolved, once the tests of R230 have passed; `m` itself where the product
does not append. -/
def AppendResolved (m w : State) (h : Nat) (c : Cmd) (ol : List Byte) : Prop :=
  (bitOf c.o0 12 = false ∧ w = m) ∨
  (bitOf c.o0 12 = true ∧ listGood m h c.o1 ol = true ∧ seqBusy m h [(apSeq ol, 1)] = false ∧
    appendTest m h (apSeq ol) (apLayer ol) (apPos ol) (apTok ol) = none ∧
    ∃ ra cr, hallCache m h = some (ra, cr) ∧ copyStuck m cr (apSeq ol) (apLayer ol) (apPos ol) (apTok ol) = none ∧
      w = resolveAppend m ra cr (apSeq ol) (apLayer ol) (apPos ol) (apTok ol))

/-- An append meets the conditions of R227 and R228, and `more` are the alcoves it may write; a product that does not
append writes none. -/
def AppendReaches (w : State) (h : Nat) (c : Cmd) (d : Desc) (ol : List Byte) (more : List (Nat × Nat)) : Prop :=
  (bitOf c.o0 12 = false ∧ more = []) ∨
  (bitOf c.o0 12 = true ∧ ∃ ra cr, hallCache w h = some (ra, cr) ∧ appendOk d ol cr = true ∧
    more = appendReach w cr (apSeq ol) (apLayer ol) (apPos ol) (apTok ol))

/-- A product that passes the loader's checks, the learning kinds' tests of its descriptor, and the checks of its tables
and coded operands (R126, R173, R185, R187, R327, R329). -/
structure ProductLoads (w : State) (h : Nat) (c : Cmd) (d : Desc) (ol : List Byte) : Prop where
  checks : loaderChecks w h d (bitOf c.o0 12) c.o1 ol = none
  derivative : ¬(c.pass = 1 ∧ d.func = 4 ∧ layerDeriv w.run h c.layer = false)
  masked : ¬(c.pass = 2 ∧ layerPartial w.run h c.layer = true ∧ d.mask = false)
  tables : (drainTables d).any (fun j => (getH w h).badTables.contains j) = false
  headerA : d.codeA = 0 ∨ readsWell w (opAddr ol 0) 64 = true
  headerB : d.codeB = 0 ∨ readsWell w (opAddr ol 2) 64 = true
  loadedA : slotLoading w h d.codeA (opAddr ol 0) = false
  loadedB : slotLoading w h d.codeB (opAddr ol 2) = false
  codedA : operandCoded w h d ol 0 = none
  codedB : operandCoded w h d ol 2 = none

/-- The derivative test lets such a product go on (R185). -/
theorem ProductLoads.derivativeTest {d : Desc} {ol : List Byte} (g : ProductLoads w h c d ol) :
    ¬(c.pass = 1 && d.func = 4 && !layerDeriv w.run h c.layer) = true := by
  simpa [and_assoc] using g.derivative

/-- The mask test lets it go on (R187). -/
theorem ProductLoads.maskTest {d : Desc} {ol : List Byte} (g : ProductLoads w h c d ol) :
    ¬(c.pass = 2 && layerPartial w.run h c.layer && !d.mask) = true := by
  simpa [and_assoc] using g.masked

/-- No code-table slot that it names is loading (R327). -/
theorem ProductLoads.loadingTest {d : Desc} {ol : List Byte} (g : ProductLoads w h c d ol) :
    (slotLoading w h d.codeA (opAddr ol 0) || slotLoading w h d.codeB (opAddr ol 2)) = false := by
  rw [g.loadedA, g.loadedB]
  rfl

/-- A product that passes its checks goes on to its waits and its job. -/
theorem productChecks_pass {d : Desc} {db ol : List Byte} {more : List (Nat × Nat)} (g : ProductLoads w r.scope c d ol)
    (ha : AppendReaches w r.scope c d ol more) (stop : Nat → Nat → Disp) :
    productChecks w r c d db ol stop = productGo w r c d db ol := by
  unfold productChecks
  simp only [g.checks]
  refine (if_neg ?_).trans ((if_neg g.derivativeTest).trans ((if_neg g.maskTest).trans ((if_neg (Bool.eq_false_iff.1 g.tables)).trans
    ((readOk_header g.headerA _ _).trans ((readOk_header g.headerB _ _).trans ((waitWhile_of g.loadingTest _).trans ?_))))))
  · rcases ha with ⟨hap, -⟩ | ⟨hap, ra, cr, hc, hok, -⟩
    · simp [hap]
    · simp [hap, hc, hok]
  · simp only [g.codedA, g.codedB]

/-- With a slot free and the gate open the job begins. -/
theorem productGo_starts {db ol : List Byte} {more rd ws : List (Nat × Nat)}
    (ha : AppendReaches w r.scope c (descOf db) ol more) (hslot : slotsFull w r.scope = false)
    (hrd : productReads (descOf db) (bitOf c.o0 12) ol = rd) (hws : productWrites (descOf db) (bitOf c.o0 12) ol ++ more = ws)
    (hgate : reachOpen w r.scope rd ws = true) :
    productGo w r c (descOf db) db ol = .go (productStarted w r c db ol rd ws) := by
  have starts : (waitWhile (slotsFull w r.scope) <| reachGate w r.scope rd ws <| .go (productStarted w r c db ol rd ws)) =
      .go (productStarted w r c db ol rd ws) := (waitWhile_of hslot _).trans (reachGate_open hgate)
  rcases ha with ⟨hap, rfl⟩ | ⟨hap, ra, cr, hc, -, rfl⟩
  · rw [hap] at hrd hws
    rw [List.append_nil] at hws
    subst hrd hws
    unfold productGo
    simp only [hap]
    exact starts
  · rw [hap] at hrd hws
    subst hrd hws
    unfold productGo
    simp only [hap, hc]
    exact starts

/-- A product resolves its append, finds its descriptor and its scales idle, and is checked. -/
theorem product_checked {u : State} (hs : r.scope < 8) (hd : readyFor s r 0x01 c = true) (hm : markDispatched s r = m)
    (hl : learnOpen m r.scope c = true) (hr : readsWell m c.o1 256 = true)
    (hw : AppendResolved m w r.scope c (operandList m c)) (hn : bitsOf c.o0 0 12 < hallDescs w.run r.scope)
    (hb : scaleBusy w r.scope (namedScales (descOf (productRecord w r.scope c))) = false)
    (hgo : ∀ stop, productChecks w r c (descOf (productRecord w r.scope c)) (productRecord w r.scope c) (operandList m c) stop
      = .go u) :
    Does (.product r {}) s u := by
  subst hm
  have checked : ∀ x stop, (if hallDescs w.run r.scope ≤ bitsOf c.o0 0 12 then x else
      readOk w r none false 0 0 <| waitWhile (scaleBusy w r.scope (namedScales (descOf (productRecord w r.scope c)))) <|
        productChecks w r c (descOf (productRecord w r.scope c)) (productRecord w r.scope c)
          (operandList (markDispatched s r) c) stop) = .go u := fun x stop =>
    (if_neg hn.not_ge).trans ((readOk_empty _ _).trans ((waitWhile_of hb _).trans (hgo stop)))
  refine (guardUnit_of (decide_eq_true hs) _).trans (dispatch_go hd ((learnGate_open hl).trans ?_))
  simp only [ite_self, readOk_if hr]
  rcases hw with ⟨hap, rfl⟩ | ⟨hap, hlist, hidle, htest, ra, cr, hc, hstuck, rfl⟩
  · simp only [hap, Bool.false_and, waitWhile_false, Bool.false_eq_true, if_false]
    exact checked _ _
  · unfold operandList at hlist hidle htest hstuck checked
    simp only [hap, hlist, hidle, htest, hc, hstuck, Bool.true_and, waitWhile_false, if_true]
    exact checked _ _

end

/-- Settles O19: each command passes its gates in turn (`product_checked`, `productChecks_pass` and `productGo_starts`;
`vectorProgram_does`; `attention_does`). -/
theorem computeCommandsStart : Obligations.ComputeCommandsStart := by
  unfold Obligations.ComputeCommandsStart
  refine ⟨fun r c ra cr w more s hs hd => ?_, fun r c s hs hd => ?_, fun r c ra k s hs hd => ?_⟩
  · intro m h n ap ol hl hr hw db d named rs ws rd aux k hn hb hchecks _ hderiv hmask htab hA hB hlA hlB hcA hcB hslot hgate
    have append : AppendResolved m w h c ol ∧ AppendReaches w h c d ol more := by
      rcases hw with ⟨hap, hw, hmore⟩ | ⟨hap, hlist, hidle, htest, hc, hstuck, hw, hcw, hok, hmore⟩
      · exact ⟨.inl ⟨hap, hw⟩, .inl ⟨hap, hmore⟩⟩
      · exact ⟨.inr ⟨hap, hlist, hidle, htest, ra, cr, hc, hstuck, hw⟩, .inr ⟨hap, ra, cr, hcw, hok, hmore⟩⟩
    have loads : ProductLoads w h c d ol := ⟨hchecks, hderiv, hmask, htab, hA, hB, hlA, hlB, hcA, hcB⟩
    exact product_checked hs hd rfl hl hr append.1 hn hb fun stop =>
      (productChecks_pass loads append.2 stop).trans (productGo_starts append.2 hslot rfl rfl hgate)
  · intro m n b hl hr hp hb ho
    exact vectorProgram_does hs hd rfl hl hr hp hb ho
  · intro m h b a named ws hl ha hwin hr hidle hcrc hb hchecks hc hring hopen hslot hgate
    exact attention_does hs hd rfl ⟨rfl, hl, ha, hwin, hr, hidle, hcrc, hb, hchecks, hc, hring, hopen, hslot, hgate⟩

end Sys2Proof.Machine
end

section
/-! The family of 08_attention_kv.md: the commands of the key-value cache (O22), and the tokens of a step commit with the
step of a rotating attention block (O42). -/

namespace Sys2Proof.Machine

section
variable {s m : State} {r : CmdRef} {c : Cmd} {ra : Nat} {k : CacheRec}

/-! ## CACHE_SETUP (R215, R216) -/

/-- A cache record stands at `a`, `b` its 64 bytes: in windows, readable, its CRC and fields right, its tables and its pool in
windows that grant writes. -/
structure CacheRecordGood (m : State) (h a : Nat) (b : List Byte) : Prop where
  window : windowMW m h a 64 = true
  reads : readsWell m a 64 = true
  crc : crc32c (b.take 0x28) = leAt b 0x38 4
  fields : cacheFieldsOk b = true
  alcoves : windowMW m h (cacheOf b).atab (8 * (cacheOf b).alcoves) = true
  sequences : windowMW m h (cacheOf b).seqTab 4194304 = true
  pool : inWindow m h true (cacheOf b).pool ((cacheOf b).alcoves * (cacheOf b).bytes) = true

/-- A good record is installed where no sequence is open and no earlier command uses one. -/
theorem cacheSetup_does (hs : r.scope < 8) (h : readyFor s r 0x10 c = true) (hm : markDispatched s r = m) :
    let b := memBytes m c.o0 64
    let k := cacheOf b
    CacheRecordGood m r.scope c.o0 b → anySeqOpen m r.scope = false →
    seqBusy m r.scope ((List.range 65536).map fun n => (n, 1)) = false →
    reachOpen m r.scope [] [(c.o0, 64), (k.atab, 8 * k.alcoves), (k.seqTab, 4194304)] = true →
    Does (.cacheSetup r none) s (succeed (setupCache m r.scope c.o0 k) r 0 0) := by
  subst hm
  intro b k g hclosed hidle hgate
  have places : (windowMW (markDispatched s r) r.scope k.atab (8 * k.alcoves) &&
      windowMW (markDispatched s r) r.scope k.seqTab 4194304 &&
      inWindow (markDispatched s r) r.scope true k.pool (k.alcoves * k.bytes)) = true := by
    rw [g.alcoves, g.sequences, g.pool]
    rfl
  refine (guardUnit_of (decide_eq_true hs) _).trans (dispatch_go h ?_)
  refine (if_neg (by simp [g.window])).trans ((readOk_well g.reads).trans ?_)
  refine (need_of (decide_eq_true g.crc) _ _ _).trans ((need_of g.fields _ _ _).trans ((need_of places _ _ _).trans ?_))
  exact (need_of (by rw [hclosed]; rfl) _ _ _).trans ((waitWhile_of hidle _).trans (reachGate_open hgate))

/-! ## The sequence commands (R219 to R224) -/

/-- A sequence command finds the cache of its hall, whose record reads well, and no earlier command in its way (R224). -/
structure SeqCmdOpen (m : State) (h : Nat) (c : Cmd) (ra : Nat) (k : CacheRec) : Prop where
  cache : hallCache m h = some (ra, k)
  reads : readsWell m ra 64 = true
  idle : seqBusy m h (seqUses c) = false

/-- Such a command goes on to its own tests. -/
theorem SeqCmdOpen.seqCmd {h : Nat} (g : SeqCmdOpen m h c ra k) (f : Nat → CacheRec → Disp) :
    seqCmd m h (seqUses c) f = f ra k := by
  unfold Machine.seqCmd
  rw [waitWhile_of g.idle, g.cache]

/-- Whose own tests let it go on, it ends in the state they give. -/
theorem seqCommand_goes {op : Nat} {t : State} {f : State → Cmd → Nat → CacheRec → Disp} (hs : r.scope < 8)
    (h : readyFor s r op c = true) (g : SeqCmdOpen (markDispatched s r) r.scope c ra k)
    (hf : f (markDispatched s r) c ra k = .go t) :
    (guardUnit (r.scope < 8) <| dispatch op r s fun s c => seqCmd s r.scope (seqUses c) fun ra k =>
      readOk s r none false ra 64 (f s c ra k)) = .next t :=
  (guardUnit_of (decide_eq_true hs) _).trans
    (dispatch_go h ((g.seqCmd _).trans ((readOk_well g.reads).trans hf)))

/-- A page table of good fields lies in its windows, and the gate to it is open (R219, R223). -/
structure PageTableGood (m : State) (h : Nat) (k : CacheRec) (pt pages : Nat) : Prop where
  fields : ptFields pt pages = true
  placed : ptPlaced m h k pt pages = true
  gate : reachOpen m h [] [(pt, k.layers * ptStride pages)] = true

/-- Its place and its gate let a command go on. -/
theorem PageTableGood.opens {h pt pages : Nat} (p : PageTableGood m h k pt pages) (d : Disp) :
    (if !ptPlaced m h k pt pages then .gone 0x11 0 else reachGate m h [] [(pt, k.layers * ptStride pages)] d) = d :=
  (if_neg (by simp [p.placed])).trans (reachGate_open p.gate)

/-- SEQ_OPEN of a free number opens it. -/
theorem seqOpen_does (hs : r.scope < 8) (h : readyFor s r 0x11 c = true) (hm : markDispatched s r = m)
    (g : SeqCmdOpen m r.scope c ra k) (p : PageTableGood m r.scope k c.o1 (bitsOf c.o2 0 17))
    (hfree : seqOpen m k (bitsOf c.o0 0 16) = false) :
    Does (.seqOpen r none) s (succeed (openSeq m k (bitsOf c.o0 0 16) c.o1 (bitsOf c.o2 0 17) c.o3) r 0 0) := by
  subst hm
  refine seqCommand_goes hs h g ?_
  exact (need_of p.fields _ _ _).trans ((need_of (by rw [hfree]; rfl) _ _ _).trans (p.opens _))

/-- SEQ_FORK of a free child opens it and shares the parent's alcoves layer by layer. -/
theorem seqFork_does (hs : r.scope < 8) (h : readyFor s r 0x12 c = true) (hm : markDispatched s r = m)
    (g : SeqCmdOpen m r.scope c ra k) (p : PageTableGood m r.scope k c.o1 (bitsOf c.o2 0 17)) :
    let child := bitsOf c.o0 0 16
    let parent := bitsOf c.o0 16 16
    let len := bitsOf c.o0 32 32
    seqOpen m k parent = true → seqOpen m k child = false →
    (List.range k.layers).all (fun l => len ≤ layerLen m k parent l) = true → ceilDiv len 256 ≤ bitsOf c.o2 0 17 →
    Does (.seqFork r none) s
      (succeed ((List.range k.layers).foldl (forkLayer k child parent len)
        (openSeq m k child c.o1 (bitsOf c.o2 0 17) c.o3)) r 0 0) := by
  subst hm
  intro child parent len hparent hchild hlen hpages
  refine seqCommand_goes hs h g ((need_of p.fields _ _ _).trans ((need_of ?free _ _ _).trans ((need_of ?fits _ _ _).trans ?_)))
  case free => rw [hparent, hchild]; rfl
  case fits => rw [hlen, decide_eq_true hpages]; rfl
  exact p.opens _

/-- SEQ_TRIM of an open sequence shortens its longer layers and releases the pages behind. -/
theorem seqTrim_does (hs : r.scope < 8) (h : readyFor s r 0x13 c = true) (hm : markDispatched s r = m)
    (g : SeqCmdOpen m r.scope c ra k) (hopen : seqOpen m k (bitsOf c.o0 0 16) = true) :
    let n := bitsOf c.o0 0 16
    let len := bitsOf c.o0 32 32
    let p0 := ceilDiv len 256
    Does (.seqTrim r none) s
      (succeed ((List.range k.layers).foldl (fun s l =>
        let s := if len < layerLen s k n l then memPutNat s (ptBlock s k n l) 4 len else s
        releasePages ra k n l p0 (seqPages s k n - p0) s) m) r 0 0) := by
  subst hm
  exact seqCommand_goes hs h g (need_of hopen _ _ _)

/-- SEQ_RELEASE of an open sequence releases its pages, then closes it. -/
theorem seqRelease_does (hs : r.scope < 8) (h : readyFor s r 0x14 c = true) (hm : markDispatched s r = m)
    (g : SeqCmdOpen m r.scope c ra k) (hopen : seqOpen m k (bitsOf c.o0 0 16) = true) :
    let n := bitsOf c.o0 0 16
    let t := (List.range k.layers).foldl (fun s l => releasePages ra k n l 0 (seqPages s k n) s) m
    Does (.seqRelease r none) s (succeed (memPutNat t (seqAddr k n) 1 0) r 0 0) := by
  subst hm
  exact seqCommand_goes hs h g (need_of hopen _ _ _)

/-! ## SEQ_APPEND_COPY (R229, R230) -/

/-- The state in which an append copy is dispatched: its alcoves resolved, its ranges noted. -/
def appendCopyStarted (m : State) (r : CmdRef) (c : Cmd) (ra : Nat) (k : CacheRec) : State :=
  let t := resolveAppend m ra k (acSeq c) (acLayer c) (acPos c) (acTok c)
  updJob t r fun j => { j with
    reads := [(c.o1, acSpan k c)], writes := appendReach t k (acSeq c) (acLayer c) (acPos c) (acTok c) }

/-- An append that meets the conditions of R230 resolves its alcoves, then moves its lines. -/
theorem seqAppendCopy_does {c' : Cmd} (mv : Move) (hs : r.scope < 8) (h : readyFor s r 0x15 c = true)
    (hm : markDispatched s r = m) (g : SeqCmdOpen m r.scope c ra k)
    (htest : appendTest m r.scope (acSeq c) (acLayer c) (acPos c) (acTok c) = none)
    (hwin : inWindow m r.scope false c.o1 (min 64 (acSpan k c)) = true)
    (hgate : reachOpen m r.scope [(c.o1, acSpan k c)] (appendReach m k (acSeq c) (acLayer c) (acPos c) (acTok c)) = true)
    (hf : findCmd (appendCopyStarted m r c ra k) r = some c') (hd : c'.st = .dispatched) :
    Does (.seqAppendCopy r mv) s (appendGo r mv (appendCopyStarted m r c ra k) c') := by
  subst hm
  refine moveCmd_go hs h ((waitWhile_of g.idle _).trans ?_) hf hd
  simp only [htest, g.cache]
  exact (if_neg (by simp [hwin])).trans (reachGate_open hgate)

end

/-- Settles O22: one theorem per command; each passes its tests in turn. -/
theorem cacheCommands : Obligations.CacheCommands := by
  unfold Obligations.CacheCommands
  refine ⟨fun r c s hs h => ?_, fun r c ra k s hs => ?_⟩
  · intro m hall b k hwin hreads hcrc hfields halc hseq hpool hclosed hidle hgate
    exact cacheSetup_does hs h rfl ⟨hwin, hreads, hcrc, hfields, halc, hseq, hpool⟩ hclosed hidle hgate
  · intro m hcache hreads hidle
    have g : SeqCmdOpen m r.scope c ra k := ⟨hcache, hreads, hidle⟩
    refine ⟨fun h hfields hfree hplaced hgate => seqOpen_does hs h rfl g ⟨hfields, hplaced, hgate⟩ hfree, fun h => ?_,
      fun h => seqTrim_does hs h rfl g, fun h => seqRelease_does hs h rfl g,
      fun mv c' h htest hwin hgate => seqAppendCopy_does mv hs h rfl g htest hwin hgate⟩
    intro child parent len pages hfields hparent hchild hlen hpages hplaced hgate
    exact seqFork_does hs h rfl g ⟨hfields, hplaced, hgate⟩ hparent hchild hlen hpages

section
variable {s : State} {r : CmdRef} {c : Cmd} {ctx h : Nat} {g : Ring} {b : List Byte}

/-! ## The start of a commit (R372, R374, R377) -/

/-- A STEP_COMMIT runs, has not joined its collect pass, is applied nowhere yet, and is ready (R374, R377). -/
structure CommitWaits (s : State) (r : CmdRef) (c : Cmd) : Prop where
  runs : runsAs s r 0x22 c = true
  phase : scPhase c = 0
  fresh : appliedFor s r.scope (scEpoch c) = none
  ready : commitReady s r.scope c.job.rec1 = true

/-- Nothing holds up such a commit. -/
theorem CommitWaits.startTest (w : CommitWaits s r c) :
    ¬(c.st ≠ .dispatched ∨ c.opcode ≠ 0x22 ∨ scPhase c ≠ 0 ∨
      ((appliedFor s r.scope (scEpoch c)).isNone = true ∧ commitReady s r.scope c.job.rec1 = false)) := by
  obtain ⟨-, hst, hop⟩ := runsAs_cmd w.runs
  simp [hst, hop, w.phase, w.ready]

/-- In a hall with no commit ring it applies at once. -/
theorem commitCollectStart_alone (hs : r.scope < 8) (w : CommitWaits s r c)
    (hring : ringAt s.run r.scope (scRing c) = none) :
    Does (.commitCollectStart r) s
      (applyRecord s r c (tokBody 2 false true c.job.rec1 1 (ownVals s r.scope c.job.rec1))) := by
  obtain ⟨hf, -, -⟩ := runsAs_cmd w.runs
  refine (guardUnit_of (decide_eq_true hs) _).trans ?_
  simp only [hf]
  refine (if_neg w.startTest).trans ?_
  simp only [hring, w.fresh]

/-- At the lead position of a ring it starts the token. -/
theorem commitCollectStart_lead {u : State} (hs : r.scope < 8) (w : CommitWaits s r c)
    (hring : ringAt s.run r.scope (scRing c) = some g) (hlead : g.lead = g.self) (hnext : g.next g.self ≠ g.self)
    (hkeep : (getClo s r.scope).abandoning = false)
    (hsend : sendToken s (some r) r.scope g (scEpoch c)
      (tokBody 1 (scResume c) false c.job.rec1 1 (ownVals s r.scope c.job.rec1)) = some u) :
    Does (.commitCollectStart r) s (setPhase u r) := by
  obtain ⟨hf, -, -⟩ := runsAs_cmd w.runs
  refine (guardUnit_of (decide_eq_true hs) _).trans ?_
  simp only [hf]
  refine (if_neg w.startTest).trans ?_
  simp only [hring, w.fresh]
  refine (if_neg (by simp [hlead, hkeep])).trans ((if_neg hnext).trans ?_)
  simp only [hsend]

/-! ## The passes of the token (R374 to R376) -/

/-- A good message waits on a context of the device. -/
theorem msgReady_ctxNum {ty : Nat} (hm : msgReady s ctx ty h g b = true) : ctxNum ctx = true := by
  simp only [msgReady, Bool.and_eq_true, and_assoc] at hm
  exact hm.left

/-- It waits there whole. -/
theorem msgReady_whole {ty : Nat} (hm : msgReady s ctx ty h g b = true) : (getCtx s ctx).whole = some b := by
  simp only [msgReady, Bool.and_eq_true, decide_eq_true_eq, and_assoc] at hm
  obtain ⟨-, hwhole, -⟩ := hm
  exact hwhole

/-- The state in which a token is handled: HALL_COMMIT shows its MERGED count. -/
def tokenSeen (s : State) (h : Nat) (b : List Byte) : State :=
  setF s (rClsHallCommit h) fClsHallCommitMerged (tokMerged (cmPay b))

/-- A collect token at a member that does not lead waits there, and is merged once the member is ready. -/
theorem commitToken_collect (hm : msgReady s ctx 4 h g b = true) (hpass : tokPass (cmPay b) = 1) (hlead : g.lead ≠ g.self) :
    let u := tokenSeen s h b
    Does (.commitToken ctx) s (mergeToken (takeMsg (setClo u h { getClo u h with token := some b }) ctx) h) := by
  rw [Does, exec, execCommitToken, guardUnit_of (msgReady_ctxNum hm), msgReady_whole hm]
  refine (withMsg_ready hm).trans ?_
  simp only [hpass]
  exact if_neg hlead

/-- An apply token goes on, and applies the record at a member whose commit waits for it. -/
theorem commitToken_apply {v : State} (hm : msgReady s ctx 4 h g b = true) (hpass : tokPass (cmPay b) = 2)
    (hlead : g.lead ≠ g.self) (hcmd : scCmd (tokenSeen s h b) h (cmEpoch b) = some (r, c))
    (hfresh : appliedFor (tokenSeen s h b) h (cmEpoch b) = none)
    (hsend : sendToken (tokenSeen s h b) none h g (cmEpoch b) (cmPay b) = some v) :
    Does (.commitToken ctx) s (takeMsg (applyRecord v r c (cmPay b)) ctx) := by
  unfold tokenSeen at hcmd hfresh hsend
  rw [Does, exec, execCommitToken, guardUnit_of (msgReady_ctxNum hm), msgReady_whole hm]
  refine (withMsg_ready hm).trans ?_
  simp only [hpass]
  refine (if_neg hlead).trans ?_
  simp only [hcmd, hfresh, hsend]

/-- The lead position ends the apply pass. -/
theorem commitToken_applyEnds (hm : msgReady s ctx 4 h g b = true) (hpass : tokPass (cmPay b) = 2) (hlead : g.lead = g.self) :
    Does (.commitToken ctx) s (takeMsg (tokenSeen s h b) ctx) := by
  rw [Does, exec, execCommitToken, guardUnit_of (msgReady_ctxNum hm), msgReady_whole hm]
  refine (withMsg_ready hm).trans ?_
  simp only [hpass]
  exact if_pos hlead

/-- An abandon token goes on, and the step ends abandoned. -/
theorem commitToken_abandon {v : State} (hm : msgReady s ctx 4 h g b = true) (hpass : tokPass (cmPay b) = 3)
    (hlead : g.lead ≠ g.self) (hsend : sendToken (tokenSeen s h b) none h g (cmEpoch b) (cmPay b) = some v) :
    Does (.commitToken ctx) s (takeMsg (abandonHere v h (cmEpoch b)) ctx) := by
  unfold tokenSeen at hsend
  rw [Does, exec, execCommitToken, guardUnit_of (msgReady_ctxNum hm), msgReady_whole hm]
  refine (withMsg_ready hm).trans ?_
  simp only [hpass]
  refine (if_neg hlead).trans ?_
  simp only [hsend]

/-- The lead position ends the abandon pass. -/
theorem commitToken_abandonEnds (hm : msgReady s ctx 4 h g b = true) (hpass : tokPass (cmPay b) = 3)
    (hlead : g.lead = g.self) :
    let u := tokenSeen s h b
    Does (.commitToken ctx) s (takeMsg (setClo u h { getClo u h with abandoning := false }) ctx) := by
  rw [Does, exec, execCommitToken, guardUnit_of (msgReady_ctxNum hm), msgReady_whole hm]
  refine (withMsg_ready hm).trans ?_
  simp only [hpass]
  exact if_pos hlead

/-! ## A late commit, and the next step of a rotation (R246, R248, R378) -/

/-- A commit that is late raises SLOW. -/
theorem commitSlowExpiry_does (hh : h < 8) (hc : (hallCommits s h).isEmpty = false) :
    Does (.commitSlowExpiry h) s (raiseCls s h fClsHallEventsSlow) :=
  (guardUnit_of (decide_eq_true hh) _).trans (if_neg (by simp [hc]))

/-- The step after this one of a rotating attention: the shard that has come is the one it attends to (R246). -/
def nextRotation (s : State) (r : CmdRef) (c : Cmd) : State :=
  startStep (updJob s r fun j => { j with
    aux := [attnStepNo c + 1, 0], rec2 := (fmFind j.buf (2 ^ 40)).getD [], buf := fmErase j.buf (2 ^ 40) }) r

/-- A rotating attention begins its next step once its shard has come and its items and its sending are done. -/
theorem ringRotationStep_next {ra : Nat} {k : CacheRec} (hs : r.scope < 8) (hr : runsAs s r 0x03 c = true)
    (hcache : hallCache s r.scope = some (ra, k)) (hring : attnRing s r.scope (attOf c.job.rec1) = some g)
    (hmore : attnStepNo c + 1 < g.n) (hnone : (getCtx s (g.ctx ((g.self + g.n - 1) % g.n))).whole = none)
    (hgot : attnGot c = true) (hdone : c.job.total ≤ c.job.done.length) (hacked : cmdUnacked s r = false) :
    Does (.ringRotationStep r) s (nextRotation s r c) := by
  obtain ⟨hf, hst, hop⟩ := runsAs_cmd hr
  refine (guardUnit_of (decide_eq_true hs) _).trans ?_
  simp only [hf, hcache, hring]
  refine (if_neg (by simp [hst, hop])).trans ((if_neg hmore.not_ge).trans ?_)
  simp only [hnone, hf]
  exact if_pos (by simp [hst, hgot, hdone, hacked])

end

/-- Settles O42: one theorem per outcome of the commit's start, of each pass of the token, and of the two steps beside it. -/
theorem commitTokens : Obligations.CommitTokens := by
  unfold Obligations.CommitTokens
  refine ⟨fun r c s hs hr hp ha hc => ?_, fun ctx h g b s hm => ?_, fun h s => commitSlowExpiry_does,
    fun r c ra k g s => ringRotationStep_next⟩
  · have w : CommitWaits s r c := ⟨hr, hp, ha, hc⟩
    exact ⟨commitCollectStart_alone hs w, fun g u => commitCollectStart_lead hs w⟩
  · exact ⟨commitToken_collect hm, fun r c v => commitToken_apply hm, commitToken_applyEnds hm,
      fun v => commitToken_abandon hm, commitToken_abandonEnds hm⟩

end Sys2Proof.Machine
end

section
/-! The family of 09_memory_tiers.md: leases of pool memory (O26), requests of the Undercroft (O39), and the interrupt
sources that event registers drive (O60). -/

namespace Sys2Proof.Machine

/-! ## Leases of pool memory (R273, R415) -/

section
variable {s m : State} {r : CmdRef} {c : Cmd}

/-- The bytes that the lease record of a pool command charges. -/
def leaseCharge (m : State) (c : Cmd) : Nat := leAt (memBytes m c.o0 64) 16 4 * 0x100000

/-- A pool command succeeds with its hall charged `n` bytes. -/
def poolCharged (m : State) (r : CmdRef) (n : Nat) : State :=
  succeed (setF m (rUndHallPool r.scope) fUndHallPoolBytes n) r 0 0

/-- The lease record of a pool command is in its hall's reach and reads well. -/
structure LeaseReads (m : State) (r : CmdRef) (c : Cmd) : Prop where
  window : inWindow m r.scope false c.o0 64 = true
  reads : readsWell m c.o0 64 = true

/-- A pool command whose record reads well goes on to what the record says. -/
theorem LeaseReads.passes (g : LeaseReads m r c) (k : Disp) :
    (if !inWindow m r.scope false c.o0 64 then .gone 0x11 0 else readOk m r none false c.o0 64 k) = k :=
  (if_neg (by simp [g.window])).trans (readOk_well g.reads)

/-- A lease that fits the hall's quota is charged. -/
theorem poolLease_fits (hs : r.scope < 8) (h : readyFor s r 0x26 c = true) (hm : markDispatched s r = m)
    (g : LeaseReads m r c) (hl : leaseOk m r.scope (memBytes m c.o0 64) = true)
    (hfit : poolUse m r.scope + leaseCharge m c ≤ poolQuota m r.scope) :
    Does (.poolLease r none) s (poolCharged m r (poolUse m r.scope + leaseCharge m c)) := by
  subst hm
  refine (guardUnit_of (decide_eq_true hs) _).trans (dispatch_go h ((g.passes _).trans ?_))
  refine (need_of hl _ _ _).trans ((waitWhile_of ?_ _).trans (need_of (decide_eq_true hfit) _ _ _))
  rw [Bool.and_eq_false_iff]
  exact .inl (by simpa [leaseCharge] using hfit)

/-- A lease that does not fit, with no return under way, is refused. -/
theorem poolLease_exceeds (hs : r.scope < 8) (h : readyFor s r 0x26 c = true) (hm : markDispatched s r = m)
    (g : LeaseReads m r c) (hl : leaseOk m r.scope (memBytes m c.o0 64) = true)
    (hover : poolQuota m r.scope < poolUse m r.scope + leaseCharge m c)
    (hreturn : (earlierCmds m r.scope).any (fun p => p.2.opcode = 0x27) = false) :
    Does (.poolLease r none) s (endCmd s r 0x16 0 0 0) := by
  subst hm
  refine (guardUnit_of (decide_eq_true hs) _).trans (dispatch_stop h ((g.passes _).trans ?_))
  refine (need_of hl _ _ _).trans ((waitWhile_of ?_ _).trans (if_neg ?_))
  · rw [Bool.and_eq_false_iff]
    exact .inr hreturn
  · simpa [leaseCharge] using hover

/-- A return takes its bytes off the hall's charge. -/
theorem poolReturn_does (hs : r.scope < 8) (h : readyFor s r 0x27 c = true) (hm : markDispatched s r = m)
    (g : LeaseReads m r c) (hl : leaseForm (memBytes m c.o0 64) = true) :
    Does (.poolReturn r none) s (poolCharged m r (poolUse m r.scope - leaseCharge m c)) := by
  subst hm
  exact (guardUnit_of (decide_eq_true hs) _).trans (dispatch_go h ((g.passes _).trans (need_of hl _ _ _)))

end

/-- Settles O26: one theorem per outcome of the two commands. -/
theorem poolCommands : Obligations.PoolCommands := by
  unfold Obligations.PoolCommands
  refine ⟨fun r c s hs h => ?_, fun r c s hs h => ?_⟩
  · intro m hall b charge hwindow hreads hlease
    exact ⟨poolLease_fits hs h rfl ⟨hwindow, hreads⟩ hlease, poolLease_exceeds hs h rfl ⟨hwindow, hreads⟩ hlease⟩
  · intro m charge hwindow hreads hform
    exact poolReturn_does hs h rfl ⟨hwindow, hreads⟩ hform

/-! ## Requests in flight (R257, R263, R270, R283 to R288, R292) -/

section
variable {s t : State} {q : MemReq} {rg : Region} {os : List (Nat × ReadOutcome)} {o : WriteOutcome} {e : ReadErr} {a : Nat}

/-- A request of good form to local memory whose turn has come, its extents zeroed. -/
structure RequestTurn (s : State) (q : MemReq) (rg : Region) : Prop where
  form : reqOk s q = true
  turn : inFlight s q = true
  zeroed : unzeroed s q.addr q.len = false
  region : regionOfAddr s q.addr = some rg

/-- The first test of a read, or of a write, lets a request in its turn pass. -/
theorem RequestTurn.test {b : Bool} (g : RequestTurn s q rg) (hb : b = false) :
    ¬(b || !reqOk s q || !inFlight s q || unzeroed s q.addr q.len) = true := by
  simp [hb, g.form, g.turn, g.zeroed]

/-- A read in its turn goes through its bursts: the data is delivered where each verifies. -/
theorem memoryRead_delivers (g : RequestTurn s q rg) (hq : q.write = false)
    (hx : readAll rg os q.addr (List.range (q.len / 64)) (freeSlot s q) = (t, none)) :
    Does (.memoryRead q os) s (deliver t q) := by
  refine (if_neg (g.test hq)).trans ?_
  simp only [g.region, hx]

/-- A read in its turn ends with the failure of the first burst that does not come. -/
theorem memoryRead_fails (g : RequestTurn s q rg) (hq : q.write = false)
    (hx : readAll rg os q.addr (List.range (q.len / 64)) (freeSlot s q) = (t, some (e, a))) :
    Does (.memoryRead q os) s (failReqSeen t q.cmd e a) := by
  refine (if_neg (g.test hq)).trans ?_
  simp only [g.region, hx]

/-- A request has a first burst. -/
theorem bursts_pos (h : reqOk s q = true) : 0 < q.len / 64 := by
  simp only [reqOk, Bool.and_eq_true, decide_eq_true_eq] at h
  obtain ⟨⟨⟨⟨hlen, -⟩, -⟩, -⟩, -⟩ := h
  exact Nat.div_pos hlen (by decide)

/-- Where the first burst is lost no burst is read. -/
theorem readAll_lost_first {n : Nat} (hn : 0 < n) (he : burstErr s a = some e) :
    readAll rg os a (List.range n) s = (s, some (e, a)) := by
  obtain ⟨k, rfl⟩ := Nat.exists_eq_succ_of_ne_zero hn.ne'
  simp [List.range_succ_eq_map, readAll, he]

/-- A write in its turn whose bytes cannot land ends with that failure. -/
theorem memoryWrite_shut (g : RequestTurn s q rg) (hq : q.write = true)
    (hw : writeGone s q.addr q.len = some (e, a)) :
    Does (.memoryWrite q o) s (failReqSeen (freeSlot s q) q.cmd e a) := by
  refine (if_neg (g.test (by simp [hq]))).trans ?_
  simp only [g.region, hw]

/-- A write in its turn ends with the failure of the first part block whose check burst does not verify. -/
theorem memoryWrite_unmerged (g : RequestTurn s q rg) (hq : q.write = true) (hw : writeGone s q.addr q.len = none)
    (hx : mergeAll rg q o.merge (partBlocks q) (freeSlot s q) = (t, some (e, a))) :
    Does (.memoryWrite q o) s (failReqSeen t q.cmd e a) := by
  refine (if_neg (g.test (by simp [hq]))).trans ?_
  simp only [g.region, hw, hx]

/-- A write in its turn whose part blocks merge reaches its copies. -/
theorem memoryWrite_merged (g : RequestTurn s q rg) (hq : q.write = true) (hw : writeGone s q.addr q.len = none)
    (hx : mergeAll rg q o.merge (partBlocks q) (freeSlot s q) = (t, none)) :
    Does (.memoryWrite q o) s (writeCopies t rg q o) := by
  refine (if_neg (g.test (by simp [hq]))).trans ?_
  simp only [g.region, hw, hx]

/-- The state in which a write has been sent to its only copy: the channel driven, its replays counted, and retired where it
was not reached. -/
def sentToCopy (t : State) (p : LPlace) (o : WriteOutcome) : State :=
  missed (satF (touchCheck (driveDs t p) p) (rUndChanErr (physOf t p).1) fUndChanErrLinkReplay (min o.replays 4)) p o.primary

/-- A write of a class with no mirror stores its bytes where none of them is lost. -/
theorem writeCopies_unmirrored {p : LPlace} (hp : rg.resolve t q.addr = (p, none))
    (hw : writeGone (sentToCopy t p o) q.addr q.len = none) :
    writeCopies t rg q o = land (sentToCopy t p o) q := by
  unfold sentToCopy at hw ⊢
  simp only [writeCopies, hp, hw]

end

/-! ## Slots of a load/store unit (R279 to R281) -/

section
variable {s : State} {t h : Nat} {q w : MemReq}

/-- The state in which a load/store unit chooses: the request offered has entered the queue, and those that the bank cap
holds have been counted. -/
def offered (s : State) (t h : Nat) (q : MemReq) : State := countHeld (lsuEnqueue s t h q) t

/-- The chosen request leaves the queue. -/
def unqueued (u : State) (t : Nat) (w : MemReq) : State := setT u t { getT u t with queue := (getT u t).queue.erase w }

/-- The chosen request leaves the queue for a slot. -/
def slotTaken (u : State) (t : Nat) (w : MemReq) : State :=
  setT (unqueued u t w) t { getT u t with queue := (getT u t).queue.erase w, slots := (getT u t).slots ++ [w] }

/-- The unit issues the first request that may issue, if there is one and a slot is free. -/
def lsuTurn (u : State) (t h : Nat) : Out :=
  if 48 ≤ (getT u t).slots.length then .next u
  else
    match nextReq u t h (getT u t).slots [] (getT u t).queue with
    | none => .next u
    | some w =>
      if answersNow (unqueued u t w) t h w then .next (answerReq (unqueued u t w) t w) else .next (slotTaken u t w)

section
variable {u : State} (hfree : (getT u t).slots.length < 48)
variable (hw : nextReq u t h (getT u t).slots [] (getT u t).queue = some w)
include hfree hw

/-- The first request that may issue is answered at once. -/
theorem lsuTurn_answers (ha : answersNow (unqueued u t w) t h w = true) :
    lsuTurn u t h = .next (answerReq (unqueued u t w) t w) := by
  simp only [lsuTurn, if_neg hfree.not_ge, hw, if_pos ha]

/-- The first request that may issue, where it is not answered at once, takes a slot. -/
theorem lsuTurn_takesSlot (ha : answersNow (unqueued u t w) t h w = false) :
    lsuTurn u t h = .next (slotTaken u t w) := by
  simp only [lsuTurn, if_neg hfree.not_ge, hw, ha, Bool.false_eq_true, if_false]

end

/-- With every slot taken, or no request that may issue, nothing issues. -/
theorem lsuTurn_idle {u : State}
    (hidle : 48 ≤ (getT u t).slots.length ∨ nextReq u t h (getT u t).slots [] (getT u t).queue = none) :
    lsuTurn u t h = .next u := by
  rcases hidle with hfull | hnone
  · exact if_pos hfull
  · simp only [lsuTurn, hnone, ite_self]

/-- A load/store unit of a hall's flight that is offered a request of its own queues it and takes its turn. -/
theorem lsuRequestIssue_offers (ht : t < 128) (hh : flightHall s.run (t / 8) = some h) (ho : q.owner = .tread t) :
    exec (.lsuRequestIssue t (some q)) s = lsuTurn (offered s t h q) t h := by
  refine (guardUnit_of (decide_eq_true ht) _).trans ?_
  simp only [hh, if_pos ho]
  rfl

end

/-! ## Slots of a mover (R271, R282, R284) -/

section
variable {s : State} {hall h : Nat} {q w : MemReq} {r : CmdRef}

/-- A request joins those that wait for a mover's slot. -/
def moverAsks (s : State) (q : MemReq) : State := { s with und := { s.und with moverWait := s.und.moverWait ++ [q] } }

/-- A waiting request of hall `h` leaves the wait for a slot. -/
def moverTakes (u : State) (h : Nat) (w : MemReq) : State :=
  { u with und := { u.und with
    moverWait := u.und.moverWait.erase w, moverSlots := u.und.moverSlots ++ [w], moverLast := h } }

/-- A hall's mover asks for a slot for a request that a command of the hall requires. -/
structure MoverOffer (s : State) (hall : Nat) (q : MemReq) (r : CmdRef) : Prop where
  unit : hall < 8
  cmd : q.cmd = some r
  scope : r.scope = hall
  required : serves s { q with owner := .mover hall } = true

/-- The test of the request's command lets it wait. -/
theorem MoverOffer.test (g : MoverOffer s hall q r) :
    (serves s { q with owner := .mover hall } &&
      match q.cmd with | some r => decide (r.scope = hall) | none => false) = true := by
  rw [g.required, g.cmd]
  exact decide_eq_true g.scope

/-- The round-robin order serves the waiting request whose turn it is, if there is one. -/
def moverTurn (u : State) : Out :=
  match moverNext u with
  | none => .next u
  | some (h, w) => .next (moverTakes u h w)

/-- The request waits with those before it, and the order goes on. -/
theorem moverSlotGrant_asks (g : MoverOffer s hall q r) :
    exec (.moverSlotGrant hall q) s = moverTurn (moverAsks s { q with owner := .mover hall }) :=
  (guardUnit_of (decide_eq_true g.unit) _).trans (congrArg moverTurn (if_pos g.test))

/-- Where no mover's turn has come no slot is granted. -/
theorem moverSlotGrant_waits (g : MoverOffer s hall q r)
    (hn : moverNext (moverAsks s { q with owner := .mover hall }) = none) :
    Does (.moverSlotGrant hall q) s (moverAsks s { q with owner := .mover hall }) :=
  (moverSlotGrant_asks g).trans (by simp only [moverTurn, hn])

/-- The waiting request whose turn it is takes a slot. -/
theorem moverSlotGrant_takes (g : MoverOffer s hall q r)
    (hw : moverNext (moverAsks s { q with owner := .mover hall }) = some (h, w)) :
    Does (.moverSlotGrant hall q) s (moverTakes (moverAsks s { q with owner := .mover hall }) h w) :=
  (moverSlotGrant_asks g).trans (by simp only [moverTurn, hw])

end

/-- Settles O39: one theorem per outcome of a read, of a write, of a load/store unit's turn and of the movers' turn. -/
theorem memoryRequests : Obligations.MemoryRequests := by
  unfold Obligations.MemoryRequests
  refine ⟨fun q os rg s hq hform hturn hzero hrg => ?_, fun q o rg s hq hform hturn hzero hrg => ?_,
    fun t h q s ht hh ho => ?_, fun hall q0 r s hh hc hr => ?_⟩
  · have g : RequestTurn s q rg := ⟨hform, hturn, hzero, hrg⟩
    exact ⟨fun hx => memoryRead_delivers g hq (Prod.ext rfl hx), fun e a hx => memoryRead_fails g hq (Prod.ext rfl hx),
      fun e he => memoryRead_fails g hq (readAll_lost_first (bursts_pos hform) he)⟩
  · have g : RequestTurn s q rg := ⟨hform, hturn, hzero, hrg⟩
    refine ⟨fun e a => memoryWrite_shut g hq, fun hw => ⟨fun e a hx => memoryWrite_unmerged g hq hw (Prod.ext rfl hx),
      fun hx => memoryWrite_merged g hq hw (Prod.ext rfl hx), fun p hx hp hland => ?_⟩⟩
    have hsend := memoryWrite_merged g hq hw (Prod.ext rfl hx)
    rwa [writeCopies_unmirrored hp hland] at hsend
  · have hturn := lsuRequestIssue_offers ht hh ho
    exact ⟨fun hfree w hw => ⟨fun ha => hturn.trans (lsuTurn_answers hfree hw ha),
      fun ha => hturn.trans (lsuTurn_takesSlot hfree hw ha)⟩, fun hidle => hturn.trans (lsuTurn_idle hidle)⟩
  · intro q hserves u
    have g : MoverOffer s hall q0 r := ⟨hh, hc, hr, hserves⟩
    exact ⟨fun h w => moverSlotGrant_takes g, moverSlotGrant_waits g⟩

/-! ## Sources that event registers drive (R295, R417, R437, R462, R514, R515, R540, R562, R586) -/

/-- The fields of a register lie in its lowest `w` bits and take all of them. -/
def fieldsFill (r w : Nat) : Bool :=
  (regFields r).all (fun f => f.lo + f.w ≤ w) &&
    (List.range w).all fun i => (regFields r).any fun f => f.lo ≤ i && i < f.lo + f.w

/-- A register whose fields fill its lowest bits holds a set bit there exactly while some field is not 0. -/
theorem anySet_iff {r w : Nat} (hfill : fieldsFill r w = true) (s : State) :
    anySet s r w = true ↔ ∃ f ∈ regFields r, getF s r f ≠ 0 := by
  simp only [fieldsFill, Bool.and_eq_true, List.all_eq_true, List.any_eq_true, decide_eq_true_eq, List.mem_range] at hfill
  obtain ⟨hin, hcover⟩ := hfill
  simp only [anySet, getF, ne_eq, decide_eq_true_eq, bitsOf_eq_zero_iff, not_forall, Bool.not_eq_false, Nat.zero_add]
  constructor
  · rintro ⟨i, hi, hbit⟩
    obtain ⟨f, hf, hlo, hhi⟩ := hcover i hi
    exact ⟨f, hf, i - f.lo, by omega, by rwa [Nat.add_sub_cancel' hlo]⟩
  · rintro ⟨f, hf, i, hi, hbit⟩
    have hend := hin f hf
    exact ⟨f.lo + i, by omega, hbit⟩

/-- Settles O60: the line of each source is, by its definition, `anySet` of its event registers, or the two cache bits. -/
theorem eventRegistersDriveTheirSources : Obligations.EventRegistersDriveTheirSources := by
  unfold Obligations.EventRegistersDriveTheirSources
  intro s c on
  have lantern : srcLine s c 47 = (anySet s rLntEvents 4 || anySet s rLntIntegEvents 5 || anySet s rLntSecEvents 3) := rfl
  have cache : srcLine s c 961 =
      (isF s (rMezCoreStatus c) fMezCoreStatusCacheCe || isF s (rMezCoreStatus c) fMezCoreStatusCacheUe) := rfl
  refine ⟨anySet_iff (by decide) s, anySet_iff (by decide) s, anySet_iff (by decide) s, anySet_iff (by decide) s,
    anySet_iff (by decide) s, anySet_iff (by decide) s, ?_, fun _ => ?_⟩
  · rw [lantern, Bool.or_eq_true, Bool.or_eq_true, anySet_iff (by decide), anySet_iff (by decide), anySet_iff (by decide),
      or_assoc]
  · rw [cache, Bool.or_eq_true, isF, isF, decide_eq_true_eq, decide_eq_true_eq]

end Sys2Proof.Machine
end

section
/-! The family of 10_offload_recompute.md: off-loads, prefetches with their pages, and releases (O21). -/

namespace Sys2Proof.Machine

section
variable {s m : State} {r : CmdRef} {c : Cmd}

/-! ## OFFLOAD (R273, R297 to R303) -/

/-- Writing a handle changes no register. -/
@[simp] theorem openHandle_regs (s : State) (r : CmdRef) (c : Cmd) : (openHandle s r c).regs = s.regs := by
  simp only [openHandle, memPut_regs, setH_regs]

/-- Writing a handle leaves the host charge of every hall. -/
theorem hostUse_openHandle (s : State) (r : CmdRef) (c : Cmd) (h : Nat) : hostUse (openHandle s r c) h = hostUse s h := by
  simp only [hostUse, getF, regGet, openHandle_regs]

/-- The ranges that an off-load writes: its handle, its seal table and its host copy. -/
def offloadWrites (c : Cmd) : List (Nat × Nat) := [(c.o0, 64), (c.o4, 8 * ceilDiv c.o2 4096), (c.o3, c.o2)]

/-- The state in which an off-load is dispatched: its handle written with a new tag, its hall charged, its ranges noted. -/
def offloadStarted (m : State) (r : CmdRef) (c : Cmd) : State :=
  updJob (setF (openHandle m r c) (rUndHallHost r.scope) fUndHallHostBytes (hostUse m r.scope + chargeOf c.o2)) r fun j =>
    { j with reads := [(c.o1, c.o2)], held := [(c.o1, c.o2)], writes := offloadWrites c }

/-- An off-load passes checks 1 to 5 of R298, its host charge is within the quota, and nothing holds up its dispatch. -/
structure OffloadOpen (m : State) (h : Nat) (c : Cmd) : Prop where
  notFreeing : handleFreeing m c.o0 = false
  reads : readsWell m c.o0 64 = true
  zeroed : unzeroed m c.o4 (8 * ceilDiv c.o2 4096) = false
  checks : offloadCheck m h c = none
  quota : hostUse m h + chargeOf c.o2 ≤ hostQuota m h
  guards : guardCount m h + 1 ≤ 64
  gate : reachOpen m h [(c.o1, c.o2)] (offloadWrites c) = true

/-- A charge within the quota waits for no release of host memory (R273). -/
theorem OffloadOpen.fits {h : Nat} (g : OffloadOpen m h c) :
    (!decide (hostUse m h + chargeOf c.o2 ≤ hostQuota m h) && hostReleaser m h) = false := by
  rw [decide_eq_true g.quota]
  rfl

/-- With a guard left and the seal table zeroed nothing more holds it up (R302). -/
theorem OffloadOpen.unheld {h : Nat} (g : OffloadOpen m h c) :
    (decide (64 ≤ guardCount m h) || unzeroed m c.o4 (8 * ceilDiv c.o2 4096)) = false := by
  rw [decide_eq_false (by have := g.guards; omega), g.zeroed]
  rfl

/-- Where checks 1 to 5 pass, check 5 has read the handle. -/
theorem handleRead_of_checked {h : Nat} (hc : offloadCheck m h c = none) : handleRead m h c = 64 := by
  rw [handleRead, hc]

/-- Such an off-load writes its handle, charges its hall, and moves its bytes. -/
theorem offload_does {c' : Cmd} (mv : Move) (hs : r.scope < 8) (h : readyFor s r 0x0A c = true) (hm : markDispatched s r = m)
    (g : OffloadOpen m r.scope c) (hf : findCmd (offloadStarted m r c) r = some c') (hd : c'.st = .dispatched) :
    Does (.offload r mv) s (offloadGo r mv (offloadStarted m r c) c') := by
  subst hm
  refine moveCmd_go hs h ((waitWhile_of g.notFreeing _).trans ?_) hf hd
  rw [handleRead_of_checked g.checks, readOk_well g.reads]
  simp only [g.checks, hostUse_openHandle]
  refine (waitWhile_of g.fits _).trans ((need_of (decide_eq_true g.quota) _ _ _).trans ?_)
  exact (waitWhile_of g.unheld _).trans (reachGate_open g.gate)

/-! ## PREFETCH (R297, R304 to R308) -/

/-- The destination span that a prefetch guards; none where it covers no byte (R307). -/
def prefetchGuards (m : State) (c : Cmd) : List (Nat × Nat) :=
  let span := pfSpan m c.o0 (pfPages m c).1 (pfPages m c).2
  if span = 0 then [] else [(c.o1, span)]

/-- The state in which a prefetch is dispatched: its pages in hand, its span guarded. -/
def prefetchStarted (m : State) (r : CmdRef) (c : Cmd) : State :=
  let p0 := (pfPages m c).1
  let n := (pfPages m c).2
  updJob m r fun j =>
    { j with
      total := n, guards := prefetchGuards m c, writes := prefetchGuards m c
      reads := [(hdHost m c.o0 + 4096 * p0, pfSpan m c.o0 p0 n)] }

/-- The commands before it that a prefetch waits for: off-loads of its handle, and prefetches too where it releases it. -/
def prefetchAfter (c : Cmd) : List Nat := if bitOf c.o3 0 then [0x0A, 0x0B] else [0x0A]

/-- A prefetch passes the checks of R304 and nothing holds up its dispatch. -/
structure PrefetchOpen (m : State) (h : Nat) (c : Cmd) : Prop where
  idle : handleBusy m c.o0 (prefetchAfter c) = false
  aligned : c.o0 % 64 = 0
  window : inWindowM m h c.o0 64 = true
  reads : readsWell m c.o0 64 = true
  checks : prefetchCheck m h c = none
  unguarded : guardWaits m h (prefetchGuards m c) = false
  gate : reachOpen m h [] (prefetchGuards m c) = true

/-- Such a prefetch takes its pages in hand; one of no pages succeeds. -/
theorem prefetch_does (hs : r.scope < 8) (h : readyFor s r 0x0B c = true) (hm : markDispatched s r = m)
    (g : PrefetchOpen m r.scope c) :
    Does (.prefetch r none) s
      (if (pfPages m c).2 = 0 then prefetchDone (prefetchStarted m r c) r c 0 else prefetchStarted m r c) := by
  subst hm
  refine (guardUnit_of (decide_eq_true hs) _).trans (dispatch_go h ((waitWhile_of g.idle _).trans ?_))
  refine (if_neg (by simp [g.aligned, g.window])).trans ((readOk_well g.reads).trans ?_)
  simp only [g.checks]
  exact (waitWhile_of g.unguarded _).trans (reachGate_open g.gate)

/-! ## A page of a prefetch (R300, R305, R306) -/

/-- The bytes of page `i` of the handle at `hd`, as the host's memory holds them. -/
def hostPage (s : State) (hd i : Nat) : List Byte := memBytes s (hdHost s hd + 4096 * i) (pageBytes s hd i)

/-- The seal table of the handle at `hd` holds for page `i` the seal of the bytes which the host holds (R300). -/
def SealRight (s : State) (hd i : Nat) : Prop := sealOf (hdTag s hd) (hostPage s hd i) i = memNat s (hdSeal s hd + 8 * i) 4

/-- Page `page` of a running prefetch is wanted, and the host window answers. -/
structure PageComes (s : State) (r : CmdRef) (c : Cmd) (page : Nat) : Prop where
  unit : r.scope < 8
  runs : runsAs s r 0x0B c = true
  wanted : pageWanted s r.scope c (pfPages s c).2 page = true
  answers : hostOpen s = true

/-- Such a page reaches the test of its seal. -/
theorem PageComes.tested {page : Nat} (g : PageComes s r c page) :
    let p0 := (pfPages s c).1
    let n := (pfPages s c).2
    let bytes := hostPage s c.o0 (p0 + page)
    exec (.prefetchPageRead r page none) s =
      if sealOf (hdTag s c.o0) bytes (p0 + page) ≠ memNat s (hdSeal s c.o0 + 8 * (p0 + page)) 4 then
        .next (prefetchBad (countErr s r.scope (.handoff 12 0)) r p0 page 0x23)
      else .next (prefetchTurn (updJob s r fun j => { j with buf := fmPut j.buf page bytes }) r c p0 n) := by
  intro p0 n bytes
  obtain ⟨hf, hst, hop⟩ := runsAs_cmd g.runs
  refine (guardUnit_of (decide_eq_true g.unit) _).trans ?_
  simp only [hf]
  refine (if_neg (by simp [hst, hop])).trans ((if_neg (by simp [g.wanted])).trans ?_)
  simp only [if_pos g.answers]
  rfl

/-- A page whose seal is right is written in its turn. -/
theorem prefetchPageRead_right {page : Nat} (g : PageComes s r c page)
    (hseal : SealRight s c.o0 ((pfPages s c).1 + page)) :
    let bytes := hostPage s c.o0 ((pfPages s c).1 + page)
    Does (.prefetchPageRead r page none) s
      (prefetchTurn (updJob s r fun j => { j with buf := fmPut j.buf page bytes }) r c (pfPages s c).1 (pfPages s c).2) :=
  g.tested.trans (if_neg (not_not.2 hseal))

/-- A page whose seal is wrong ends the prefetch there with seal-mismatch. -/
theorem prefetchPageRead_wrong {page : Nat} (g : PageComes s r c page)
    (hseal : ¬ SealRight s c.o0 ((pfPages s c).1 + page)) :
    Does (.prefetchPageRead r page none) s
      (prefetchBad (countErr s r.scope (.handoff 12 0)) r (pfPages s c).1 page 0x23) :=
  g.tested.trans (if_pos hseal)

/-! ## OFFLOAD_RELEASE (R297, R308) -/

/-- A release names a handle that is complete or failed, and nothing holds up its dispatch. -/
structure ReleaseOpen (m : State) (h : Nat) (c : Cmd) : Prop where
  idle : handleBusy m c.o0 [0x0A, 0x0B] = false
  aligned : c.o0 % 64 = 0
  window : windowMW m h c.o0 64 = true
  reads : readsWell m c.o0 64 = true
  ended : hdState m c.o0 = 2 ∨ hdState m c.o0 = 3
  gate : reachOpen m h [] [(c.o0, 64)] = true

/-- Such a release frees its handle and succeeds. -/
theorem offloadRelease_does (hs : r.scope < 8) (h : readyFor s r 0x0C c = true) (hm : markDispatched s r = m)
    (g : ReleaseOpen m r.scope c) : Does (.offloadRelease r none) s (succeed (releaseHandle m r.scope c.o0) r 0 0) := by
  subst hm
  refine (guardUnit_of (decide_eq_true hs) _).trans (dispatch_go h ((waitWhile_of g.idle _).trans ?_))
  refine (if_neg (by simp [g.aligned, g.window])).trans ((readOk_well g.reads).trans ?_)
  exact (need_of (by simpa using g.ended) _ _ _).trans (reachGate_open g.gate)

end

/-- Settles O21: one theorem per outcome of the four commands; each passes its tests in turn. -/
theorem offloadCommands : Obligations.OffloadCommands := by
  unfold Obligations.OffloadCommands
  refine ⟨fun r mv c c' s hs h => ?_, fun r c s hs h => ?_, fun r page c s hs hr => ?_, fun r c s hs h => ?_⟩
  · intro m hall ws hfreeing hreads hzeroed hchecks hquota hguards hgate t u hf hd
    exact offload_does mv hs h rfl ⟨hfreeing, hreads, hzeroed, hchecks, hquota, hguards, hgate⟩ hf hd
  · intro m hall p0 n span gs hidle haligned hwindow hreads hchecks hguards hgate t
    exact prefetch_does hs h rfl ⟨hidle, haligned, hwindow, hreads, hchecks, hguards, hgate⟩
  · intro p0 n bytes hwanted hopen
    have g : PageComes s r c page := ⟨hs, hr, hwanted, hopen⟩
    exact ⟨prefetchPageRead_right g, prefetchPageRead_wrong g⟩
  · intro m hidle haligned hwindow hreads hended hgate
    exact offloadRelease_does hs h rfl ⟨hidle, haligned, hwindow, hreads, hended, hgate⟩

end Sys2Proof.Machine
end

section
/-! The family of 11_compression.md: encoding, the code-table slots, packing and expanding (O23). -/

namespace Sys2Proof.Machine

section
variable {s m : State} {r : CmdRef} {c : Cmd}

/-- Ranges that lie in their windows let a command go on. -/
theorem placed_of {ok : Bool} (h : ok = true) (gone k : Disp) : (if !ok then gone else k) = k := by rw [h]; rfl

/-! ## EXP_ENCODE (R322, R323, R327, R340) -/

/-- The ranges that an EXP_ENCODE writes: its destination, and HIST where it asks for one. -/
def encodeWrites (c : Cmd) : List (Nat × Nat) := (c.o2, c.o3) :: (if c.o4 = 0 then [] else [(c.o4, 1024)])

/-- The state in which an EXP_ENCODE is dispatched: its destination's header dead, its ranges noted. -/
def encodeStarted (m : State) (r : CmdRef) (c : Cmd) : State :=
  updJob (killHeader m c.o2 c.o3) r fun j => { j with reads := [(c.o0, eeLen c)], writes := encodeWrites c }

/-- An EXP_ENCODE names a slot that is loaded or retiring and passes the tests of its dispatch. -/
structure EncodeOpen (m : State) (h : Nat) (c : Cmd) : Prop where
  slot : getF m (rUndXtabSlot h (eeSlot c)) fUndXtabSlotState = 2 ∨
    getF m (rUndXtabSlot h (eeSlot c)) fUndXtabSlotState = 3
  length : eeLen c % 64 = 0
  aligned : c.o2 % 64 = 0
  source : inWindow m h false c.o0 (eeLen c) = true ∨ inExplicit m h c.o0 (eeLen c) = true
  destination : inWindow m h true c.o2 c.o3 = true
  hist : c.o4 = 0 ∨ inWindow m h true c.o4 1024 = true
  sourceClear : inEnc m c.o0 (eeLen c) = false
  destinationClear : inEnc m c.o2 c.o3 = false
  gate : reachOpen m h [(c.o0, eeLen c)] (encodeWrites c) = true

/-- Its source, its destination and its HIST lie in the windows they need. -/
theorem EncodeOpen.placed {h : Nat} (g : EncodeOpen m h c) :
    ((inWindow m h false c.o0 (eeLen c) || inExplicit m h c.o0 (eeLen c)) && inWindow m h true c.o2 c.o3
      && (if c.o4 = 0 then [] else [(c.o4, 1024)]).all fun x => inWindow m h true x.1 x.2) = true := by
  simp only [Bool.and_eq_true, Bool.or_eq_true]
  refine ⟨⟨g.source, g.destination⟩, ?_⟩
  rcases g.hist with h0 | hw
  · simp [h0]
  · split <;> simp [hw]

/-- Such an EXP_ENCODE kills the header of its destination and encodes. -/
theorem expEncode_does {c' : Cmd} (mv : Move) (hs : r.scope < 8) (h : readyFor s r 0x18 c = true)
    (hm : markDispatched s r = m) (g : EncodeOpen m r.scope c) (hf : findCmd (encodeStarted m r c) r = some c')
    (hd : c'.st = .dispatched) : Does (.expEncode r mv) s (encodeGo r mv (encodeStarted m r c) c') := by
  subst hm
  refine moveCmd_go hs h ((waitWhile_of ?notLoading _).trans ((need_of ?fields _ _ _).trans ?_)) hf hd
  case notLoading => rcases g.slot with e | e <;> rw [e] <;> rfl
  case fields => simp [g.length, g.aligned, g.slot]
  refine (placed_of g.placed _ _).trans ((need_of ?clear _ _ _).trans (reachGate_open g.gate))
  case clear => rw [g.sourceClear, g.destinationClear]; rfl

/-! ## XTAB_LOAD and XTAB_RETIRE (R319, R324 to R327, R340) -/

/-- The slot whose table an XTAB_LOAD replaces; 0xF for none. -/
abbrev replacedSlot (c : Cmd) : Nat := bitsOf c.o1 0 4

/-- An XTAB_LOAD names a good table, in a window and readable, and replaces none or that of a loaded slot; slot `i` is the
first empty one. -/
structure TableGood (m : State) (h : Nat) (c : Cmd) (i : Nat) : Prop where
  window : inWindow m h false c.o0 192 = true
  reads : readsWell m c.o0 192 = true
  crc : ctCrcOk (memBytes m c.o0 192) = true
  fields : ctOk (memBytes m c.o0 192) false = true
  replaces : replacedSlot c = 0xF ∨ (replacedSlot c < 4 ∧ (slotStates m h).getD (replacedSlot c) 0 = 2)
  clear : inEnc m c.o0 192 = false
  empty : (List.range 4).find? (fun j => (slotStates m h).getD j 0 = 0) = some i
  gate : reachOpen m h [(c.o0, 192)] [] = true

/-- The slot it replaces is not itself being loaded. -/
theorem TableGood.notLoading {h i : Nat} (g : TableGood m h c i) :
    (decide (replacedSlot c < 4) && decide ((slotStates m h).getD (replacedSlot c) 0 = 1)) = false := by
  rcases g.replaces with e | ⟨-, e⟩ <;> rw [e]
  · rfl
  · exact Bool.and_false _

/-- A good table takes the first empty slot, which is reported with its version. -/
theorem xtabLoad_does {i : Nat} (hs : r.scope < 8) (h : readyFor s r 0x19 c = true) (hm : markDispatched s r = m)
    (g : TableGood m r.scope c i) :
    let t := loadSlot m r.scope i 1 (memBytes m c.o0 192)
    Does (.xtabLoad r none) s
      (succeed (updJob t r fun j => { j with aux := [i, replacedSlot c] }) r 0
        (i + 256 * getF t (rUndXtabSlot r.scope i) fUndXtabSlotVersion)) := by
  subst hm
  intro t
  refine (guardUnit_of (decide_eq_true hs) _).trans (dispatch_go h ((placed_of g.window _ _).trans ?_))
  refine (waitWhile_of g.notLoading _).trans ((readOk_well g.reads).trans ((need_of g.crc _ _ _).trans ?_))
  refine (need_of ?fields _ _ _).trans ((need_of (by rw [g.clear]; rfl) _ _ _).trans ?_)
  case fields => simpa [g.fields] using g.replaces
  simp only [g.empty]
  exact reachGate_open g.gate

/-- A loaded slot is retired. -/
theorem xtabRetire_does (hs : r.scope < 8) (h : readyFor s r 0x1A c = true) (hm : markDispatched s r = m)
    (hslot : getF m (rUndXtabSlot r.scope (bitsOf c.o0 0 2)) fUndXtabSlotState = 2) :
    Does (.xtabRetire r) s (succeed (retireSlot m r.scope (bitsOf c.o0 0 2)) r 0 0) := by
  subst hm
  refine (guardUnit_of (decide_eq_true hs) _).trans (dispatch_go h ((waitWhile_of ?_ _).trans ?_))
  · rw [hslot]; rfl
  · exact need_of (decide_eq_true hslot) _ _ _

/-! ## PACK (R196, R337, R338, R340) -/

/-- The fields of a PACK are in their ranges (R337, R476). -/
structure PackFields (c : Cmd) : Prop where
  format : pkFmt c = 2 ∨ pkFmt c = 3
  rankPos : 1 ≤ pkRank c
  rank : pkRank c ≤ 32
  iterations : pkIter c ≤ 4
  threshold : threshOk (pkThresh c) = true
  rowBytes : pkRowBytes c % 64 = 0
  columns : 2 * pkCols c ≤ pkRowBytes c
  destination : pkDst c % 64 = 0

/-- Such fields pass the test of dispatch. -/
theorem PackFields.test (g : PackFields c) :
    ((pkFmt c = 2 || pkFmt c = 3) && 1 ≤ pkRank c && pkRank c ≤ 32 && pkIter c ≤ 4 && threshOk (pkThresh c)
      && pkRowBytes c % 64 = 0 && 2 * pkCols c ≤ pkRowBytes c && pkDst c % 64 = 0) = true := by
  simp [g.format, g.rankPos, g.rank, g.iterations, g.threshold, g.rowBytes, g.columns, g.destination]

/-- The SCRATCH of a PACK: its place, and its bytes, a slot for each tile. -/
def packScratch (c : Cmd) : Nat × Nat := (c.o4, pkTiles c * pkSlot c)

/-- Source, destination and SCRATCH of a PACK lie in its hall's windows, clear of regions whose ENC is 1, a slot is left
for it, and the gate to them is open. -/
structure PackPlaces (m : State) (h : Nat) (c : Cmd) : Prop where
  source : inWindow m h false (pkSrc c) (pkSpan c) = true ∨ inExplicit m h (pkSrc c) (pkSpan c) = true
  destination : inWindow m h true (pkDst c) (pkCap c) = true
  scratch : inWindow m h true (packScratch c).1 (packScratch c).2 = true ∨
    inExplicit m h (packScratch c).1 (packScratch c).2 = true
  sourceClear : inEnc m (pkSrc c) (pkSpan c) = false
  destinationClear : inEnc m (pkDst c) (pkCap c) = false
  scratchClear : inEnc m (packScratch c).1 (packScratch c).2 = false
  room : slotsFull m h = false
  gate : reachOpen m h [(pkSrc c, pkSpan c)] [(pkDst c, pkCap c), packScratch c] = true

/-- Such places pass the window test of dispatch. -/
theorem PackPlaces.windows {h : Nat} (p : PackPlaces m h c) :
    ((inWindow m h false (pkSrc c) (pkSpan c) || inExplicit m h (pkSrc c) (pkSpan c))
      && inWindow m h true (pkDst c) (pkCap c)
      && (inWindow m h true (packScratch c).1 (packScratch c).2 ||
        inExplicit m h (packScratch c).1 (packScratch c).2)) = true := by
  simp only [Bool.and_eq_true, Bool.or_eq_true]
  exact ⟨⟨p.source, p.destination⟩, p.scratch⟩

/-- A PACK of good fields and places takes its tiles in hand, the header of its destination dead. -/
theorem pack_does (hs : r.scope < 8) (h : readyFor s r 0x1B c = true) (hm : markDispatched s r = m)
    (hl : learnOpen m r.scope c = true) (g : PackFields c) (p : PackPlaces m r.scope c) :
    Does (.pack r none) s (updJob (killHeader m (pkDst c) (pkCap c)) r fun j =>
      { j with total := pkTiles c, reads := [(pkSrc c, pkSpan c)], held := [(pkSrc c, pkSpan c)]
               writes := [(pkDst c, pkCap c), packScratch c] }) := by
  subst hm
  refine (guardUnit_of (decide_eq_true hs) _).trans (dispatch_go h ((learnGate_open hl).trans ?_))
  refine (need_of g.test _ _ _).trans ((placed_of p.windows _ _).trans ?_)
  refine (readOk_empty _ _).trans ((need_of ?clear _ _ _).trans ((waitWhile_of p.room _).trans (reachGate_open p.gate)))
  case clear =>
    have e := p.scratchClear
    unfold packScratch at e
    rw [p.sourceClear, p.destinationClear, e]
    rfl

/-! ## PACK_ASSEMBLE (R317, R338) -/

/-- The tiles of a PACK as its items left them in the directory: plain or not, and length in units. -/
def packedTiles (s : State) (c : Cmd) : List (Bool × Nat) :=
  (List.range c.job.total).map fun t =>
    let x := memNat s (pkDst c + 64 + 8 * t) 8
    (bitOf x 48, bitsOf x 32 16)

/-- Units of payload of all its tiles. -/
def packedUnits (s : State) (c : Cmd) : Nat := ((packedTiles s c).map (·.2)).foldl (· + ·) 0

/-- The header that a PACK writes last. -/
def packedHeader (s : State) (c : Cmd) : CHdr :=
  ⟨pkDst c, 2, pkFmt c, 0, 0, pkTiles c, pkSpan c, pkRows c, pkCols c, pkRowBytes c, pkRank c, 64 * packedUnits s c⟩

/-- The directory with its offsets, then the payload. -/
def packedBody (s : State) (c : Cmd) : State :=
  let t := store s (pkDst c + 64) (dirBytes 0 (packedTiles s c))
  putUnits t (packedHeader s c).pay ((List.range c.job.total).flatMap (packBytes t c)) 0 (packedUnits s c)

/-- A PACK whose items are done writes what CAPACITY has room for, and ends with 0x14 where it has none. -/
theorem packAssemble_eq (hs : r.scope < 8) (h : runsAs s r 0x1B c = true) (hdone : c.job.total ≤ c.job.done.length) :
    let hd := packedHeader s c
    exec (.packAssemble r ⟨none, none⟩) s =
      if pkCap c < 64 + 8 * pkTiles c || pkCap c < hd.endA - hd.addr then
        .next (endCmd s r 0x14 0 c.job.done.length 0)
      else .next (succeed (store (packedBody s c) (pkDst c) (chdrBytes hd (pkThresh c))) r c.job.done.length 0) := by
  intro hd
  obtain ⟨hf, hst, hop⟩ := runsAs_cmd h
  refine (guardUnit_of (decide_eq_true hs) _).trans ?_
  simp only [hf]
  exact if_neg (by simp [hst, hop, hdone])

/-- With room for the directory and the whole tensor it writes them, the header last. -/
theorem packAssemble_fits (hs : r.scope < 8) (h : runsAs s r 0x1B c = true) (hdone : c.job.total ≤ c.job.done.length)
    (hfit : (packedHeader s c).endA - (packedHeader s c).addr ≤ pkCap c) (hdir : 64 + 8 * pkTiles c ≤ pkCap c) :
    Does (.packAssemble r ⟨none, none⟩) s
      (succeed (store (packedBody s c) (pkDst c) (chdrBytes (packedHeader s c) (pkThresh c))) r c.job.done.length 0) :=
  (packAssemble_eq hs h hdone).trans (if_neg (by simp [hfit, hdir]))

/-- Without that room it ends with 0x14. -/
theorem packAssemble_exceeds (hs : r.scope < 8) (h : runsAs s r 0x1B c = true) (hdone : c.job.total ≤ c.job.done.length)
    (hover : pkCap c < (packedHeader s c).endA - (packedHeader s c).addr ∨ pkCap c < 64 + 8 * pkTiles c) :
    Does (.packAssemble r ⟨none, none⟩) s (endCmd s r 0x14 0 c.job.done.length 0) :=
  (packAssemble_eq hs h hdone).trans (if_pos (by simpa using hover.symm))

/-! ## CODED_EXPAND (R325, R327, R329, R339, R340) -/

/-- A copying command that its dispatch lets go on runs its course from there, unless it has ended there already. -/
theorem moveCmd_started {op : Nat} {k : State → Cmd → Disp} {go : State → Cmd → State} {t : State} {c' : Cmd}
    (hs : r.scope < 8) (h : readyFor s r op c = true) (hk : k (markDispatched s r) c = .go t)
    (hf : findCmd t r = some c') : moveCmd op r s k go = .next (if c'.st = .dispatched then go t c' else t) := by
  by_cases hd : c'.st = .dispatched
  · rw [if_pos hd]
    exact moveCmd_go hs h hk hf hd
  · obtain ⟨hc, ha, -⟩ := readyFor_cmd h
    unfold moveCmd guardUnit
    simp [hs, hc, ha, dispatch_go h hk, hf, hd]

/-- A dispatched command that succeeds has ended. -/
theorem findCmd_succeed {extent info : Nat} (hf : findCmd s r = some c) (hd : c.st = .dispatched) :
    findCmd (succeed s r extent info) r
      = some { c with st := .ended, code := 0, check := 0, extent := extent, info := info } := by
  rw [succeed, findCmd_endCmd, hf]
  simp [hd]

/-- Checks that find nothing let a command go on. -/
theorem checked_of (o : Option (Nat × Nat)) (k : Disp) :
    o = none → (match o with | some (code, n) => .stop code n 0 | none => k) = k := by
  rintro rfl
  rfl

/-- A coded source lies in a window of its hall or in the host window. -/
def expandPlace (m : State) (h a n : Nat) : Bool := inWindow m h false a n || inHost a n

/-- The slot and the blocks that an expansion of KIND 1 counts (R325). -/
def expandUses (hd : CHdr) : List Nat := if hd.kind = 1 then [hd.slot, hd.blocks] else []

/-- The state in which an expansion is dispatched: its blocks counted, its tiles in hand where it is KIND 2. -/
def expandStarted (m : State) (r : CmdRef) (c : Cmd) : State :=
  let hd := chdrOf c.o0 (memBytes m c.o0 64)
  updJob (queueSlots r.scope (expandUses hd) m) r fun j =>
    { j with total := if hd.kind = 2 then hd.blocks else 0, uses := expandUses hd
             reads := [(c.o0, hd.endA - hd.addr)], writes := [(c.o1, hd.rawLen)] }

/-- A coded tensor passes the tests of its expansion: its header in reach and readable, its table not being loaded, the
checks of R329 met, its destination in a window and clear of regions whose ENC is 1, the gate open. -/
structure ExpandOpen (m : State) (h : Nat) (c : Cmd) (hd : CHdr) : Prop where
  placed : expandPlace m h c.o0 64 = true
  reads : readsWell m c.o0 64 = true
  notLoading : hd.kind = 1 → slotLoading m h 1 c.o0 = false
  checks : codedCheck m h (if hd.kind = 2 then 2 else 1) (if hd.kind = 2 ∧ hd.fmt = 3 then 3 else 2) c.o0
    (expandPlace m h) (fun _ => true) = none
  destination : inWindow m h true c.o1 hd.rawLen = true ∨ inExplicit m h c.o1 hd.rawLen = true
  clear : inEnc m c.o1 hd.rawLen = false
  gate : reachOpen m h [(c.o0, hd.endA - hd.addr)] [(c.o1, hd.rawLen)] = true

/-- Its header passes the checks of R329. -/
theorem ExpandOpen.checked {h : Nat} {hd : CHdr} (g : ExpandOpen m h c hd) :
    codedCheck m h (if hd.kind = 2 then 2 else 1) (if hd.kind = 2 && hd.fmt = 3 then 3 else 2) c.o0 (expandPlace m h)
      (fun _ => true) = none := by
  simpa only [Bool.and_eq_true, decide_eq_true_eq] using g.checks

/-- An expansion that covers nothing: KIND 2 with no tiles. -/
def expandsNothing (hd : CHdr) : Bool := hd.kind = 2 && hd.blocks = 0

theorem expandsNothing_iff {hd : CHdr} : expandsNothing hd = true ↔ hd.kind = 2 ∧ hd.blocks = 0 := by
  simp [expandsNothing]

/-- The state in which the dispatch of such an expansion leaves it: ended already where it covers nothing. -/
def expandDispatched (m : State) (r : CmdRef) (c : Cmd) : State :=
  if expandsNothing (chdrOf c.o0 (memBytes m c.o0 64)) then succeed (expandStarted m r c) r 0 0 else expandStarted m r c

section
variable {mv : Move} {c' : Cmd} (hs : r.scope < 8) (h : readyFor s r 0x1C c = true) (hm : markDispatched s r = m)
  (hv : mv.err = none) (g : ExpandOpen m r.scope c (chdrOf c.o0 (memBytes m c.o0 64)))
include hs h hm hv g

/-- Its dispatch lets it go on from there. -/
theorem codedExpand_dispatched (hf : findCmd (expandDispatched m r c) r = some c') :
    Does (.codedExpand r mv) s
      (if c'.st = .dispatched then expandGo r mv (expandDispatched m r c) c' else expandDispatched m r c) := by
  subst hm
  obtain ⟨units, err⟩ := mv
  subst hv
  refine moveCmd_started hs h ((placed_of g.placed _ _).trans ((readOk_well g.reads).trans ?_)) hf
  refine (waitWhile_of (by simpa using g.notLoading) _).trans ((checked_of _ _ g.checked).trans ?_)
  refine (placed_of (by simpa using g.destination) _ _).trans ((need_of (by rw [g.clear]; rfl) _ _ _).trans ?_)
  exact reachGate_open g.gate

/-- An expansion that covers something goes on with its course. -/
theorem codedExpand_does (hf : findCmd (expandStarted m r c) r = some c') (hd : c'.st = .dispatched)
    (hn : expandsNothing (chdrOf c.o0 (memBytes m c.o0 64)) = false) :
    Does (.codedExpand r mv) s (expandGo r mv (expandStarted m r c) c') := by
  have e : expandDispatched m r c = expandStarted m r c := by rw [expandDispatched, hn]; rfl
  have := codedExpand_dispatched hs h hm hv g (e.symm ▸ hf)
  rwa [if_pos hd, e] at this

/-- One that covers nothing succeeds at once. -/
theorem codedExpand_nothing (hf : findCmd (expandStarted m r c) r = some c') (hd : c'.st = .dispatched)
    (hn : expandsNothing (chdrOf c.o0 (memBytes m c.o0 64)) = true) :
    Does (.codedExpand r mv) s (succeed (expandStarted m r c) r 0 0) := by
  have e : expandDispatched m r c = succeed (expandStarted m r c) r 0 0 := by rw [expandDispatched, hn]; rfl
  have := codedExpand_dispatched hs h hm hv g (e.symm ▸ findCmd_succeed hf hd)
  rwa [if_neg (by simp), e] at this

end

end

/-- Settles O23: one theorem per outcome of the six commands; each passes its tests in turn. -/
theorem codeTableCommands : Obligations.CodeTableCommands := by
  unfold Obligations.CodeTableCommands
  refine ⟨fun r mv c c' s hs h => ?_, fun r c i s hs h => ?_, fun r c s hs h => xtabRetire_does hs h rfl,
    fun r c s hs h => ?_, fun r c s hs h hdone => ?_, fun r mv c c' s hs h hv => ?_⟩
  · intro m hall st ws hslot hlen haligned hsrc hdst hhist hsrcClear hdstClear hgate t hf hd
    exact expEncode_does mv hs h rfl ⟨hslot, hlen, haligned, hsrc, hdst, hhist, hsrcClear, hdstClear, hgate⟩ hf hd
  · intro m hall tab rep hwin hreads hcrc hfields hrep hclear hempty hgate t
    exact xtabLoad_does hs h rfl ⟨hwin, hreads, hcrc, hfields, hrep, hclear, hempty, hgate⟩
  · intro m hall sc hl hfmt hrank1 hrank hiter hthresh hrow hcols hdst hsrcIn hdstIn hscIn hsrcClear hdstClear hscClear
      hroom hgate
    exact pack_does hs h rfl hl ⟨hfmt, hrank1, hrank, hiter, hthresh, hrow, hcols, hdst⟩
      ⟨hsrcIn, hdstIn, hscIn, hsrcClear, hdstClear, hscClear, hroom, hgate⟩
  · intro tiles units hd
    exact ⟨packAssemble_fits hs h hdone, packAssemble_exceeds hs h hdone⟩
  · intro m hall place hd hplaced hreads hloading hchecks hdst hclear hgate aux t hf hst
    have g : ExpandOpen m r.scope c hd :=
      ⟨hplaced, hreads, hloading, hchecks, hdst, hclear, hgate⟩
    refine ⟨fun hn => codedExpand_does hs h rfl hv g hf hst ?_, fun hk hb => codedExpand_nothing hs h rfl hv g hf hst ?_⟩
    · exact Bool.eq_false_iff.2 fun e => hn.elim (· (expandsNothing_iff.1 e).1) (· (expandsNothing_iff.1 e).2)
    · exact expandsNothing_iff.2 ⟨hk, hb⟩

end Sys2Proof.Machine
end

section
/-! The family of 12_cloister_collectives.md: COLLECTIVE and OWNER_UPDATE (O24), and the messages of a collective (O41). -/

namespace Sys2Proof.Machine

section
variable {s m : State} {r : CmdRef} {c : Cmd} {b : List Byte} {g : Ring}

/-! ## COLLECTIVE (R346, R351, R361, R380, R401) -/

/-- The retention area that a collective's record names; a gather retains nothing. -/
def clRetainRange (b : List Byte) : Nat × Nat := (clRetain b, if clKind b = 2 then 0 else clRetainLen b)

/-- The Gallery guards of a collective: its receive range, for a gather into an explicit buffer. -/
def clGuards (m : State) (h : Nat) (b : List Byte) (g : Ring) : List (Nat × Nat) :=
  if clKind b = 2 && inExplicit m h (clRecvRange b g).1 (clRecvRange b g).2 then [clRecvRange b g] else []

/-- What a collective copies here at its dispatch: a gather its acted shards, any other nothing. -/
def clCopies (m : State) (h : Nat) (b : List Byte) (g : Ring) : List (Nat × Nat) × List (Nat × Nat) :=
  if clKind b = 2 then gatherSpans m h b g else ([], [])

/-- The job that a collective of record `b` begins. -/
def collectiveJob (m : State) (h : Nat) (b : List Byte) (g : Ring) (j : Job) : Job :=
  { j with
    rec1 := b, reads := [clReads m h b], writes := [clRecvRange b g, clRetainRange b], guards := clGuards m h b g
    held := if clKind b = 2 then [clReads m h b] else []
    kA := if clScaleEn b then seAppliedK m (scaleAddr h (clSrcScale b)) else 0
    kOut := agreedExp m h b, aux := List.replicate (max 1 g.n) 0 }

/-- The hall's list of the step's collectives takes one in, in place of any of its number. -/
def enterColl (s : State) (h : Nat) (x : Coll) : State :=
  setClo s h { getClo s h with colls := x :: (getClo s h).colls.filter fun y => y.id ≠ x.id }

/-- The state in which a collective is dispatched: its job begun, in the hall's list. -/
def collectiveStarted (m : State) (r : CmdRef) (b : List Byte) (g : Ring) : State :=
  enterColl (updJob m r (collectiveJob m r.scope b g)) r.scope { id := clId b, bytes := b, ring := g }

/-- A COLLECTIVE of record `b` on ring `g` passes the tests of R361, its contexts are open, and nothing holds it up. -/
structure CollectiveOpen (m : State) (h : Nat) (c : Cmd) (b : List Byte) (g : Ring) : Prop where
  record : memBytes m c.o0 128 = b
  aligned : c.o0 % 128 = 0
  window : inWindow m h false c.o0 128 = true
  reads : readsWell m c.o0 128 = true
  crc : crc32c (b.take 124) = leAt b 124 4
  learns : ¬(clKind b < 2 ∧ (layerFrozen m.run h (clLayer b) = true ∨ hallGenerates m.run h = true))
  fields : clFieldsOk m h b = true
  ring : ringAt m.run h (clRing b) = some g
  idle : scaleBusy m h (clNamed b) = false
  checks : clChecks m h b g = none
  contexts : ctxsOpen m h (clCtxs b g) = true
  unguarded : guardWaits m h (clGuards m h b g) = false
  gate : reachOpen m h [clReads m h b] [clRecvRange b g, clRetainRange b] = true
  copies : clKind b = 2 → readsStuck m (gatherSpans m h b g).1 = none ∧ writesStuck m (gatherSpans m h b g).2 = none

/-- Neither learning test holds it up: its layer is not frozen, its hall does not generate (R184, R196). -/
theorem CollectiveOpen.learnTests {h : Nat} (o : CollectiveOpen m h c b g) :
    (decide (clKind b < 2) && layerFrozen m.run h (clLayer b)) = false ∧
    (decide (clKind b < 2) && hallGenerates m.run h) = false := by
  have hl := o.learns
  simp only [not_and, not_or, Bool.not_eq_true] at hl
  simp only [Bool.and_eq_false_imp, decide_eq_true_eq]
  exact ⟨fun hk => (hl hk).1, fun hk => (hl hk).2⟩

/-- Nothing stops what it copies at its dispatch. -/
theorem CollectiveOpen.copyTest {h : Nat} (o : CollectiveOpen m h c b g) :
    (readsStuck m (clCopies m h b g).1).or (writesStuck m (clCopies m h b g).2) = none := by
  unfold clCopies
  split
  case isTrue hk =>
    obtain ⟨hr, hw⟩ := o.copies hk
    rw [hr, hw]
    rfl
  case isFalse => rfl

/-- Such a COLLECTIVE enters the hall's list and begins to send; a gather copies its own shards first. -/
theorem collective_does (hs : r.scope < 8) (h : readyFor s r 0x20 c = true) (hm : markDispatched s r = m)
    (o : CollectiveOpen m r.scope c b g) :
    let t := collectiveStarted m r b g
    Does (.collective r none) s (collGo (if clKind b = 2 then gatherStart t r b g else t) r) := by
  subst hm
  intro t
  obtain ⟨hf, hst, -⟩ := readyFor_cmd h
  obtain ⟨hfrozen, hgenerates⟩ := o.learnTests
  refine (guardUnit_of (decide_eq_true hs) _).trans ?_
  simp only [hf]
  refine (if_neg (by simp [hst])).trans (dispatch_go h ?_)
  rw [ite_self, readOk_if o.reads, o.record, o.window, Bool.true_and, hfrozen, hgenerates]
  refine (if_neg Bool.false_ne_true).trans ((if_neg Bool.false_ne_true).trans ?_)
  refine (placed_of (by simp [o.aligned]) _ _).trans ((if_neg (not_not.2 o.crc)).trans ((placed_of o.fields _ _).trans ?_))
  simp only [o.ring, o.checks]
  refine (waitWhile_of o.idle _).trans ((placed_of o.contexts _ _).trans ((waitWhile_of o.unguarded _).trans ?_))
  refine (reachGate_open o.gate).trans ?_
  have hcopies := o.copyTest
  unfold clCopies at hcopies
  rw [hcopies]
  rfl

/-- A COLLECTIVE that runs goes on with its course. -/
theorem collective_runs (hs : r.scope < 8) (h : runsAs s r 0x20 c = true) (e : Option ReadErr) :
    Does (.collective r e) s (collGo s r) := by
  obtain ⟨hf, hst, hop⟩ := runsAs_cmd h
  refine (guardUnit_of (decide_eq_true hs) _).trans ?_
  simp only [hf]
  exact if_pos (by simp [hst, hop])

end

section
variable {s m : State} {r : CmdRef} {c : Cmd} {b : List Byte} {x : Coll} {g : Ring}

/-! ## OWNER_UPDATE (R366 to R368, R401) -/

/-- The instructions of the program that an owner's update runs; the second owner runs none. -/
def updProgram (m : State) (b : List Byte) : List Byte :=
  if ouRole b = 0 then memBytes m (ouProg b + 32) (8 * memNat m (ouProg b) 4) else []

/-- The contexts that an update sends on: to the shard's second owner, and to those whose data it asks for (R369, R370). -/
def updCtxs (b : List Byte) (x : Coll) (g : Ring) : List Nat :=
  (match g.backer (ouShard b) with | some q => if ouRole b = 0 then [g.ctx q] else [] | none => [])
    ++ (if ouRefetch b then ((keepers x (ouShard b)).filter (· ≠ g.self)).map g.ctx else [])

/-- The address of the norm slots of an update's layer; 0 where it has none. -/
def updNormSlots (m : State) (h : Nat) (b : List Byte) : Nat :=
  match layerRec m.run h (ouLayer b) with | some l => leAt l 8 6 | none => 0

/-- The job that an update of record `b` begins. -/
def updateJob (m : State) (h : Nat) (b : List Byte) (x : Coll) (g : Ring) (j : Job) : Job :=
  let na := updNormSlots m h b
  { j with
    total := if ouRole b = 1 then 0 else ceilDiv (clShard x.bytes g (ouShard b)).2 4096
    rec1 := b, rec2 := updProgram m b
    reads := (ouReach b x g (hallEpoch m h)).1, writes := (ouReach b x g (hallEpoch m h)).2
    norms := if na = 0 ∨ ouRole b = 1 then [] else [(na, {}), (na + 64, {}), (na + 96, {})]
    aux := [if ouRefetch b then 1 else 0, 0, 0, hallEpoch m h] }

/-- The hall's list of the step's updates takes one in, in place of any of its shard and role. -/
def enterUpd (s : State) (h : Nat) (u : Upd) : State :=
  setClo s h { getClo s h with
    upds := u :: (getClo s h).upds.filter fun y => !(y.coll = u.coll && y.shard = u.shard && y.role = u.role) }

/-- The state in which an update is dispatched: its job begun, in the hall's list. -/
def updateStarted (m : State) (r : CmdRef) (b : List Byte) (x : Coll) (g : Ring) : State :=
  enterUpd (updJob m r (updateJob m r.scope b x g)) r.scope { coll := ouId b, shard := ouShard b, role := ouRole b }

/-- An OWNER_UPDATE of record `b`, of collective `x` on ring `g`, passes the tests of R366 and R367, its contexts are open,
and nothing holds it up. -/
structure UpdateOpen (m : State) (h : Nat) (c : Cmd) (b : List Byte) (x : Coll) (g : Ring) : Prop where
  record : memBytes m c.o0 64 = b
  aligned : c.o0 % 64 = 0
  window : inWindow m h false c.o0 64 = true
  reads : readsWell m c.o0 64 = true
  crc : crc32c (b.take 60) = leAt b 60 4
  unfrozen : layerFrozen m.run h (ouLayer b) = false
  learns : hallGenerates m.run h = false
  fields : ouFieldsOk m h b = true
  collective : ouColl m h b = some (x, g)
  reach : ouReachOk m h b x g (hallEpoch m h) = true
  program : ouRole b = 0 → progCheck m h (ouProg b) = none
  tables : progBadTable m h (progWords (updProgram m b) (memNat m (ouProg b) 4)) = false
  contexts : ctxsOpen m h (updCtxs b x g) = true
  slot : ouRole b = 0 → slotsFull m h = false
  gate : reachOpen m h (ouReach b x g (hallEpoch m h)).1 (ouReach b x g (hallEpoch m h)).2 = true

/-- The program of an owner's update passes its checks; the second owner's is not checked. -/
theorem UpdateOpen.programTest {h : Nat} (o : UpdateOpen m h c b x g) :
    (if ouRole b = 0 then progCheck m h (ouProg b) else none) = none := by
  split
  case isTrue hrole => exact o.program hrole
  case isFalse => rfl

/-- A slot is left for an owner's update; the second owner's needs none. -/
theorem UpdateOpen.slotTest {h : Nat} (o : UpdateOpen m h c b x g) :
    (decide (ouRole b = 0) && slotsFull m h) = false := by
  rw [Bool.and_eq_false_imp, decide_eq_true_eq]
  exact o.slot

/-- What an update still has to ask for and send, it does, and it ends once all is done (R369, R370). -/
def updateGo (s : State) (r : CmdRef) : State := updSettle (mirrorOut (refetch s r) r) r

/-- Such an OWNER_UPDATE enters the hall's list with its items. -/
theorem ownerUpdate_does (hs : r.scope < 8) (h : readyFor s r 0x21 c = true) (hm : markDispatched s r = m)
    (o : UpdateOpen m r.scope c b x g) :
    Does (.ownerUpdate r none) s (updateGo (updateStarted m r b x g) r) := by
  subst hm
  obtain ⟨hf, hst, -⟩ := readyFor_cmd h
  refine (guardUnit_of (decide_eq_true hs) _).trans ?_
  simp only [hf]
  refine (if_neg (by simp [hst])).trans (dispatch_go h ?_)
  rw [ite_self, readOk_if o.reads, o.record, o.window, Bool.true_and, o.unfrozen, o.learns]
  refine (if_neg Bool.false_ne_true).trans ((if_neg Bool.false_ne_true).trans ?_)
  refine (placed_of (by simp [o.aligned]) _ _).trans ((if_neg (not_not.2 o.crc)).trans ((placed_of o.fields _ _).trans ?_))
  simp only [o.collective, o.programTest]
  have htables := o.tables
  unfold updProgram at htables
  refine (placed_of o.reach _ _).trans ((if_neg (by simpa using htables)).trans ((placed_of o.contexts _ _).trans ?_))
  exact (waitWhile_of o.slotTest _).trans (reachGate_open o.gate)

/-- An OWNER_UPDATE that runs goes on with its course. -/
theorem ownerUpdate_runs (hs : r.scope < 8) (h : runsAs s r 0x21 c = true) (e : Option ReadErr) :
    Does (.ownerUpdate r e) s (updateGo s r) := by
  obtain ⟨hf, hst, hop⟩ := runsAs_cmd h
  refine (guardUnit_of (decide_eq_true hs) _).trans ?_
  simp only [hf]
  exact if_pos (by simp [hst, hop])

end

/-- Settles O24: one theorem for the start and one for the course of each command. -/
theorem collectivesAndUpdatesStart : Obligations.CollectivesAndUpdatesStart := by
  unfold Obligations.CollectivesAndUpdatesStart
  refine ⟨fun r c g s hs h => ?_, fun r c e s hs h => collective_runs hs h e, fun r c x g s hs h => ?_,
    fun r c e s hs h => ownerUpdate_runs hs h e⟩
  · intro m hall b src recv ret gs haligned hwindow hreads hcrc hlearns hfields hring hidle hchecks hctxs hguards hgate
      hcopies t v
    exact collective_does hs h rfl
      ⟨rfl, haligned, hwindow, hreads, hcrc, hlearns, hfields, hring, hidle, hchecks, hctxs, hguards, hgate, hcopies⟩
  · intro m hall b e role n pb far rw haligned hwindow hreads hcrc hfrozen hlearns hfields hcoll hreach hprog htables hctxs
      hslot hgate na t v u
    exact ownerUpdate_does hs h rfl
      ⟨rfl, haligned, hwindow, hreads, hcrc, hfrozen, hlearns, hfields, hcoll, hreach, hprog, htables, hctxs, hslot, hgate⟩

/-! ## Messages of a collective (R347, R348, R353, R358, R363, R369 to R371, R380, R381) -/

section
variable {s : State} {ctx h ty : Nat} {g : Ring} {m : List Byte} {r : CmdRef} {c : Cmd}
  {k : State → Nat → Ring → List Byte → Out}

/-! ### Messages of another epoch, and of a later generation (R347, R371) -/

/-- A message of another epoch than the hall's is refused. -/
theorem withMsg_otherEpoch (hm : msgReady s ctx ty h g m = true) (he : cmEpoch m ≠ hallEpoch s h) :
    withMsg ctx ty s (fun s h g m => if cmEpoch m ≠ hallEpoch s h then .next (refuseMsg s ctx 0x32) else k s h g m)
      = .next (refuseMsg s ctx 0x32) :=
  (withMsg_ready hm).trans (if_pos he)

/-- A message of the hall's epoch is handled. -/
theorem withMsg_ofEpoch (hm : msgReady s ctx ty h g m = true) (he : cmEpoch m = hallEpoch s h) :
    withMsg ctx ty s (fun s h g m => if cmEpoch m ≠ hallEpoch s h then .next (refuseMsg s ctx 0x32) else k s h g m)
      = k s h g m :=
  (withMsg_ready hm).trans (if_neg (not_not.2 he))

/-- A message of a later generation that waits too long is refused. -/
theorem genWaitExpiry_does (hc : ctxNum ctx = true) (hw : (getCtx s ctx).whole = some m)
    (hg : ringAt s.run (getCtx s ctx).hall (cmRing m) = some g) (hh : (getCtx s ctx).hall < 8) (hlo : 1 ≤ cmType m)
    (hhi : cmType m ≤ 6) (hlater : g.gen < cmGen m) :
    Does (.genWaitExpiry ctx) s (raiseCls (refuseMsg s ctx 0x31) (getCtx s ctx).hall fClsHallEventsGenRefused) := by
  refine (guardUnit_of hc _).trans ?_
  simp only [hw, hg]
  exact if_pos (by simp [hh, hlo, hhi, hlater])

/-! ### Messages that a running collective takes -/

/-- A good message of a type, of the hall's epoch, for a collective that runs as command `r`. -/
structure ForCollective (s : State) (ctx ty h : Nat) (g : Ring) (m : List Byte) (r : CmdRef) (c : Cmd) : Prop where
  ready : msgReady s ctx ty h g m = true
  epoch : cmEpoch m = hallEpoch s h
  alive : collDead s h (cmId m) = false
  cmd : collCmd s h (cmId m) = some (r, c)

/-- What a message brought is counted for its shard, the message is taken, and the collective ends once all is done. -/
def countMsg (s : State) (ctx : Nat) (r : CmdRef) (m : List Byte) : State :=
  collSettle (takeMsg (updJob s r fun x =>
    { x with aux := x.aux.set (cmShard m) (x.aux.getD (cmShard m) 0 + cmCount m) }) ctx) r

/-- The blocks of a reduction message. -/
def cmBlocks (m : List Byte) : List RBlk :=
  (List.range (cmCount m)).map fun i => rblkOf (((cmPay m).drop (80 * i)).take 80)

/-- The position that the next block of shard `j` has in the record's tensor. -/
def nextBlock (c : Cmd) (g : Ring) (j : Nat) : Nat := (g.shard (clBlocks c.job.rec1) j).1 + c.job.aux.getD j 0

/-- Reduction blocks whose position follows on, for a collective of their ring, with an adder free for them. -/
structure BlocksFollow (s : State) (ctx h : Nat) (g : Ring) (m : List Byte) (r : CmdRef) (c : Cmd) : Prop
    extends ForCollective s ctx 1 h g m r c where
  adders : addersBusy s h = false
  kind : clKind c.job.rec1 = 0
  ring : clRing c.job.rec1 = g.num
  shard : cmShard m < g.n
  first : cmFirst m = nextBlock c g (cmShard m)
  fits : nextBlock c g (cmShard m) + cmCount m ≤ (g.shard (clBlocks c.job.rec1) (cmShard m)).2
  sequence : (cmBlocks m).zipIdx.all (fun p => p.1.index = cmFirst m + p.2 && p.1.epoch = cmEpoch m) = true

/-- Such blocks pass the test of their place. -/
theorem BlocksFollow.test (f : BlocksFollow s ctx h g m r c) :
    ¬(clKind c.job.rec1 ≠ 0 || clRing c.job.rec1 ≠ g.num || g.n ≤ cmShard m || cmFirst m ≠ nextBlock c g (cmShard m)
      || !((cmBlocks m).zipIdx.all fun p => p.1.index = cmFirst m + p.2 && p.1.epoch = cmEpoch m)
      || (g.shard (clBlocks c.job.rec1) (cmShard m)).2 < nextBlock c g (cmShard m) + cmCount m) = true := by
  rw [f.sequence]
  simp [f.kind, f.ring, f.shard, f.first, f.fits]

/-- Final blocks of a shard that this device owns, with right residues, are written and counted (R358). -/
theorem reductionBlock_final (f : BlocksFollow s ctx h g m r c) (hown : g.owner (cmShard m) = g.self)
    (hres : (cmBlocks m).all (fun c => residueOf c.mant = c.residue) = true)
    (hw : writesStuck s ((cmBlocks m).map fun x => finalSpan c.job.rec1 g (cmShard m) x.index) = none) :
    Does (.reductionBlock ctx) s
      (countMsg ((cmBlocks m).foldl (fun s x => finalBlock s h c.job.rec1 g (cmShard m) x) s) ctx r m) := by
  rw [Does, exec]
  refine (withMsg_ofEpoch f.ready f.epoch).trans ?_
  simp only [f.adders, f.alive, f.cmd]
  refine (if_neg Bool.false_ne_true).trans ((if_neg Bool.false_ne_true).trans ((if_neg f.test).trans ?_))
  refine (if_pos hown).trans ((if_pos hres).trans ?_)
  unfold cmBlocks at hw
  rw [hw]
  rfl

/-- Blocks of another's shard are added to, passed on and counted (R353, R357). -/
theorem reductionBlock_passed {t u : State} {os : List RBlk} (f : BlocksFollow s ctx h g m r c)
    (hown : g.owner (cmShard m) ≠ g.self)
    (hr : readsStuck s [clSrcRange c.job.rec1 (32 * cmFirst m) (32 * cmCount m)] = none)
    (hw : writesStuck s (passSpans c.job.rec1 g (cmShard m) (cmFirst m) (cmCount m)) = none)
    (hadd : addBlocks s h c.job.rec1 c.job.kA (cmBlocks m) = some (t, os))
    (hpass : passBlocks t r c.job.rec1 g (cmShard m) os = some u) :
    Does (.reductionBlock ctx) s (countMsg u ctx r m) := by
  rw [Does, exec]
  refine (withMsg_ofEpoch f.ready f.epoch).trans ?_
  simp only [f.adders, f.alive, f.cmd]
  refine (if_neg Bool.false_ne_true).trans ((if_neg Bool.false_ne_true).trans ((if_neg f.test).trans ?_))
  refine (if_neg hown).trans ?_
  unfold cmBlocks at hadd
  simp only [hr, hw, Option.or_none, hadd, hpass]
  rfl

/-- Groups of a shard that this device owns, for a thinned collective of their ring, with an adder free for them. -/
structure GroupsFollow (s : State) (ctx h : Nat) (g : Ring) (m : List Byte) (r : CmdRef) (c : Cmd) : Prop
    extends ForCollective s ctx 2 h g m r c where
  adders : addersBusy s h = false
  kind : clKind c.job.rec1 = 1
  ring : clRing c.job.rec1 = g.num
  shard : cmShard m < g.n
  owner : g.owner (cmShard m) = g.self
  first : (g.shard (clGroups c.job.rec1) (cmShard m)).1 ≤ cmFirst m
  fits : cmFirst m + cmCount m ≤ (g.shard (clGroups c.job.rec1) (cmShard m)).2

/-- The numbers of the groups of a message. -/
def cmGroups (m : List Byte) : List Nat := (List.range (cmCount m)).map (cmFirst m + ·)

/-- The groups of a message are held for its sender's position. -/
def holdGroups (s : State) (r : CmdRef) (m : List Byte) : State :=
  updJob s r fun x => { x with
    buf := (cmGroups m).foldl (fun f i =>
      fmPut f (thinKey i (cmSender m)) (((cmPay m).drop (36 * (i - cmFirst m))).take 36)) x.buf }

/-- Such groups pass the test of their place. -/
theorem GroupsFollow.test (f : GroupsFollow s ctx h g m r c) :
    ¬(clKind c.job.rec1 ≠ 1 || clRing c.job.rec1 ≠ g.num || g.n ≤ cmShard m || g.owner (cmShard m) ≠ g.self
      || cmFirst m < (g.shard (clGroups c.job.rec1) (cmShard m)).1
      || (g.shard (clGroups c.job.rec1) (cmShard m)).2 < cmFirst m + cmCount m) = true := by
  simp [f.kind, f.ring, f.shard, f.owner, f.first, f.fits]

/-- Such groups are held, and each group whose every position is there is written (R363). -/
theorem thinnedGroup_does (f : GroupsFollow s ctx h g m r c)
    (hw : writesStuck s ((cmGroups m).map (thinSpan c.job.rec1 g)) = none) :
    Does (.thinnedGroup ctx) s
      (collSettle (takeMsg ((cmGroups m).foldl (fun s i => thinWrite s r c.job.rec1 g i) (holdGroups s r m)) ctx) r) := by
  rw [Does, exec]
  refine (withMsg_ofEpoch f.ready f.epoch).trans ?_
  simp only [f.alive, f.cmd]
  refine (if_neg Bool.false_ne_true).trans ((if_neg f.test).trans ?_)
  unfold cmGroups at hw
  simp only [f.adders, hw]
  exact if_neg Bool.false_ne_true

/-- A parameter message in its turn, from its shard's owner, for a gather of its ring. -/
structure ParametersFollow (s : State) (ctx h : Nat) (g : Ring) (m : List Byte) (r : CmdRef) (c : Cmd) : Prop
    extends ForCollective s ctx 3 h g m r c where
  kind : clKind c.job.rec1 = 2
  ring : clRing c.job.rec1 = g.num
  shard : cmShard m < g.n
  owner : g.owner (cmShard m) = cmSender m
  first : cmFirst m = c.job.aux.getD (cmShard m) 0

/-- Such a message passes the test of its place. -/
theorem ParametersFollow.test (f : ParametersFollow s ctx h g m r c) :
    ¬(clKind c.job.rec1 ≠ 2 || clRing c.job.rec1 ≠ g.num || g.n ≤ cmShard m || g.owner (cmShard m) ≠ cmSender m
      || cmFirst m ≠ c.job.aux.getD (cmShard m) 0) = true := by
  simp [f.kind, f.ring, f.shard, f.owner, f.first]

/-- Such a message is stored, cut at the end of its shard, and counted (R380). -/
theorem parameterMessage_does (f : ParametersFollow s ctx h g m r c) :
    let b := c.job.rec1
    let k := min (64 * cmCount m) ((gatherBytes b g (cmShard m)).2 - 64 * cmFirst m)
    let a := clRecv b + (gatherBytes b g (cmShard m)).1 + 64 * cmFirst m
    writeStuck s a k = none → Does (.parameterMessage ctx) s (countMsg (store s a ((cmPay m).take k)) ctx r m) := by
  intro b k a hw
  rw [Does, exec]
  refine (withMsg_ready f.ready).trans ?_
  simp only [f.alive, f.cmd]
  refine (if_neg Bool.false_ne_true).trans ((if_neg (not_not.2 f.epoch)).trans ((if_neg f.test).trans ?_))
  unfold a k b at hw
  simp only [hw]
  rfl

/-! ### Retained data (R359, R365, R369, R370) -/

/-- What this device retains of a shard for the collective of a number, and the bytes that hold it. -/
def keptFor (s : State) (h id shard : Nat) : Option (List Byte × Nat × Nat) :=
  (findColl s h id).bind fun x => (keptHere s x shard).map fun d => (d, keptSpan x shard)

/-- A request for data not kept is refused with data-lost. -/
theorem retainedReplay_lost (hm : msgReady s ctx 5 h g m = true) (he : cmEpoch m = hallEpoch s h)
    (hown : g.owner (cmShard m) = cmSender m) (hgot : keptFor s h (cmId m) (cmShard m) = none) :
    Does (.retainedReplay ctx) s (refuseMsg s ctx 0x21) := by
  rw [Does, exec]
  refine (withMsg_ofEpoch hm he).trans ?_
  refine (if_pos hown).trans ?_
  unfold keptFor at hgot
  simp only [hgot]

/-- A request for data that is kept is answered with it, from the unit asked for on. -/
theorem retainedReplay_answered {d : List Byte} {sp : Nat × Nat} {t : State} (hm : msgReady s ctx 5 h g m = true)
    (he : cmEpoch m = hallEpoch s h) (hown : g.owner (cmShard m) = cmSender m)
    (hgot : keptFor s h (cmId m) (cmShard m) = some (d, sp)) (hr : readStuck s sp.1 sp.2 = none) :
    let d := d.drop (64 * cmFirst m)
    let n := min 1023 (ceilDiv d.length 64)
    let pay := d.take (64 * n) ++ zeros (64 * n - (d.take (64 * n)).length)
    n ≠ 0 → logMessage s (g.ctx (cmSender m)) none h
      (collHdr 5 g (cmShard m) (hallEpoch s h) (cmId m) n (cmFirst m) pay ++ pay) = some t →
    Does (.retainedReplay ctx) s (takeMsg t ctx) := by
  intro e n pay hn hlog
  rw [Does, exec]
  refine (withMsg_ofEpoch hm he).trans ?_
  refine (if_pos hown).trans ?_
  unfold keptFor at hgot
  simp only [hgot, hr]
  refine (if_neg hn).trans ?_
  unfold pay n e at hlog
  simp only [hlog]

/-- Retained data that an owner's update waits for, in its turn, joins what has come from its sender (R370). -/
theorem retainedReplay_taken {x : Coll} {g' : Ring} (hm : msgReady s ctx 5 h g m = true) (he : cmEpoch m = hallEpoch s h)
    (hown : g.owner (cmShard m) ≠ cmSender m) (hcmd : updCmd? s h (cmId m) (cmShard m) 0 = some (r, c))
    (hcoll : ouColl s h c.job.rec1 = some (x, g')) :
    let old := (fmFind c.job.buf (cmSender m)).getD []
    old.length = 64 * cmFirst m →
    let new := (old ++ cmPay m).take (keptBytes x (cmShard m))
    let u := updJob s r fun k =>
      { k with buf := fmPut k.buf (cmSender m) new, groupsDone := k.groupsDone.filter (· ≠ cmSender m) }
    Does (.retainedReplay ctx) s (updSettle (refetch (takeMsg u ctx) r) r) := by
  intro old hlen new u
  rw [Does, exec]
  refine (withMsg_ofEpoch hm he).trans ?_
  refine (if_neg hown).trans ?_
  simp only [hcmd, hcoll]
  exact if_neg (not_not.2 hlen)

/-! ### Mirror bytes (R369) -/

/-- Mirror bytes in their turn, from their shard's owner, for the update of a second owner: parameters or state. -/
structure MirrorFollows (s : State) (ctx h : Nat) (g g' : Ring) (m : List Byte) (r : CmdRef) (c : Cmd) (x : Coll) : Prop where
  ready : msgReady s ctx 6 h g m = true
  epoch : cmEpoch m = hallEpoch s h
  cmd : updCmd? s h (cmId m) (cmShard m) 1 = some (r, c)
  collective : ouColl s h c.job.rec1 = some (x, g')
  first : cmFirst m = c.job.aux.getD 2 0
  fits : cmFirst m + cmCount m ≤ (ouUnits c.job.rec1 x.bytes g).1 + (ouUnits c.job.rec1 x.bytes g).2
  owner : g.owner (cmShard m) = cmSender m
  whole : cmFirst m < (ouUnits c.job.rec1 x.bytes g).1 → cmFirst m + cmCount m ≤ (ouUnits c.job.rec1 x.bytes g).1

/-- Such bytes pass the test of their place. -/
theorem MirrorFollows.test {g' : Ring} {x : Coll} (f : MirrorFollows s ctx h g g' m r c x) :
    ¬(cmFirst m ≠ c.job.aux.getD 2 0
      || (ouUnits c.job.rec1 x.bytes g).1 + (ouUnits c.job.rec1 x.bytes g).2 < cmFirst m + cmCount m
      || (cmFirst m < (ouUnits c.job.rec1 x.bytes g).1 && (ouUnits c.job.rec1 x.bytes g).1 < cmFirst m + cmCount m)
      || g.owner (cmShard m) ≠ cmSender m) = true := by
  simp only [Bool.or_eq_true, Bool.and_eq_true, decide_eq_true_eq, not_or, not_and, not_lt, not_not]
  exact ⟨⟨⟨f.first, f.fits⟩, f.whole⟩, f.owner⟩

/-- Such bytes are stored, cut at the end of the shard, and counted. -/
theorem mirrorBytes_does {g' : Ring} {x : Coll} (f : MirrorFollows s ctx h g g' m r c x) :
    let b := c.job.rec1
    let p := ouUnits b x.bytes g
    let o := if cmFirst m < p.1 then ouParamBytes b x.bytes g else ouStateRange b x.bytes g
    let base := if cmFirst m < p.1 then ouParam b (ouEpoch c + 1) else ouState b (ouEpoch c + 1)
    let k := if cmFirst m < p.1 then cmFirst m else cmFirst m - p.1
    let pay := (cmPay m).take (o.2 - 64 * k)
    writeStuck s (base + o.1 + 64 * k) pay.length = none →
    let u := updJob (store s (base + o.1 + 64 * k) pay) r fun j =>
      { j with aux := j.aux.set 2 (j.aux.getD 2 0 + cmCount m) }
    Does (.mirrorBytes ctx) s (updSettle (takeMsg u ctx) r) := by
  intro b p o base k pay hw u
  rw [Does, exec]
  refine (withMsg_ofEpoch f.ready f.epoch).trans ?_
  simp only [f.cmd, f.collective]
  refine (if_neg f.test).trans ?_
  unfold pay k base o p b at hw
  simp only [hw]
  rfl

end

/-- Settles O41: one theorem per kind of message and outcome. -/
theorem cloisterMessages : Obligations.CloisterMessages := by
  unfold Obligations.CloisterMessages
  refine ⟨fun ctx h g m s he => ?_, fun ctx h g m r c s he hdead hcmd => ?_, fun ctx h g m s hm he hown => ?_,
    fun ctx h g g' m r c x s => retainedReplay_taken, fun ctx h g g' m r c x s hm he hcmd => ?_,
    fun ctx m g s => genWaitExpiry_does⟩
  · refine ⟨?_, ?_, ?_, ?_⟩
    all_goals
      intro hm
      rw [Does, exec]
      exact withMsg_otherEpoch hm he
  · intro b j next
    refine ⟨?_, ?_, ?_⟩
    · intro hm hadders hkind hring hshard hfirst hfits cs hseq
      have f : BlocksFollow s ctx h g m r c := ⟨⟨hm, he, hdead, hcmd⟩, hadders, hkind, hring, hshard, hfirst, hfits, hseq⟩
      exact ⟨reductionBlock_final f, fun t os u => reductionBlock_passed f⟩
    · intro hm hadders hkind hring hshard hown hfirst hfits is
      exact thinnedGroup_does ⟨⟨hm, he, hdead, hcmd⟩, hadders, hkind, hring, hshard, hown, hfirst, hfits⟩
    · intro hm hkind hring hshard hown hfirst
      exact parameterMessage_does ⟨⟨hm, he, hdead, hcmd⟩, hkind, hring, hshard, hown, hfirst⟩
  · exact ⟨retainedReplay_lost hm he hown, fun d sp t => retainedReplay_answered hm he hown⟩
  · intro b p hcoll hfirst hfits hown hwhole
    exact mirrorBytes_does ⟨hm, he, hcmd, hcoll, hfirst, hfits, hown, hwhole⟩

end Sys2Proof.Machine
end

section
/-! The family of 13_oriel_delivery.md: frames of a link (O43), states of ports (O44), laser modules (O45), and segments
received (O47). -/

namespace Sys2Proof.Machine

/-! ## Frames of a link (R385, R390 to R393, R395, R396) -/

section
variable {s : State} {port ty : Nat} {frame : List Byte}

/-! ### Frames received (R390 to R392, R395, R396) -/

/-- A good frame of type `ty` comes to a port that is up. -/
structure GoodFrame (s : State) (port ty : Nat) (frame : List Byte) : Prop where
  num : port < 34
  up : portUp s port = true
  ok : frameOk frame = true
  type : leAt frame 0 1 % 8 = ty

/-- A frame that is not good is discarded with a REPLAY request. -/
theorem linkFrameReceive_broken (hp : port < 34) (hup : portUp s port = true) (hok : frameOk frame = false) :
    Does (.linkFrameReceive port frame) s (sendReplayReq s port) := by
  refine (guardUnit_of (decide_eq_true hp) _).trans ((if_neg (by simp [hup])).trans ?_)
  exact if_pos (by simp [hok])

/-- A good ack frame frees what it acknowledges. -/
theorem linkFrameReceive_ack (h : GoodFrame s port 0 frame) :
    Does (.linkFrameReceive port frame) s (pumpLinks (takeAck s port frame)) := by
  obtain ⟨hp, hup, hok, hty⟩ := h
  refine (guardUnit_of (decide_eq_true hp) _).trans ((if_neg (by simp [hup])).trans ?_)
  exact (if_neg (by simp [hok, hty])).trans (if_pos hty)

/-- A good frame of another number than the next expected is discarded with a REPLAY request. -/
theorem linkFrameReceive_outOfTurn (h : GoodFrame s port ty frame) (hnumbered : ty = 1 ∨ ty = 2)
    (hseq : leAt frame 2 2 ≠ (getPort s port).rxSeq) :
    Does (.linkFrameReceive port frame) s (sendReplayReq s port) := by
  obtain ⟨hp, hup, hok, hty⟩ := h
  have hlo : leAt frame 0 1 % 8 ≠ 0 := by omega
  have hhi : leAt frame 0 1 % 8 ≤ 2 := by omega
  refine (guardUnit_of (decide_eq_true hp) _).trans ((if_neg (by simp [hup])).trans ?_)
  exact (if_neg (by simp [hok, hhi])).trans ((if_neg hlo).trans (if_pos hseq))

/-- A port that has accepted the next frame expected: it expects the one after. -/
def portAccepted (u : State) (port : Nat) : Port :=
  { getPort u port with rxSeq := ((getPort u port).rxSeq + 1) % 65536 }

/-- The next control frame waits at the port. -/
theorem linkFrameReceive_control (h : GoodFrame s port 2 frame) (hseq : leAt frame 2 2 = (getPort s port).rxSeq) :
    let u := takeAck s port frame
    let q := portAccepted u port
    Does (.linkFrameReceive port frame) s (pumpLinks (setPort u port { q with ctl := q.ctl ++ [frame] })) := by
  obtain ⟨hp, hup, hok, hty⟩ := h
  refine (guardUnit_of (decide_eq_true hp) _).trans ((if_neg (by simp [hup])).trans ?_)
  exact (if_neg (by simp [hok, hty])).trans ((if_neg (by simp [hty])).trans ((if_neg (not_not.2 hseq)).trans (if_pos hty)))

/-- The next frame of a segment for this device waits at the port. -/
theorem linkFrameReceive_arrived (h : GoodFrame s port 1 frame) (hseq : leAt frame 2 2 = (getPort s port).rxSeq) :
    let u := takeAck s port frame
    let q := portAccepted u port
    let b := (frame.drop 16).take 608
    sgDest b = devNum u →
      Does (.linkFrameReceive port frame) s
        (pumpLinks (setPort u port { q with rx := q.rx ++ [(bitsOf (leAt frame 0 1) 3 2, b)] })) := by
  obtain ⟨hp, hup, hok, hty⟩ := h
  intro u q b hhere
  refine (guardUnit_of (decide_eq_true hp) _).trans ((if_neg (by simp [hup])).trans ?_)
  refine (if_neg (by simp [hok, hty])).trans ((if_neg (by simp [hty])).trans ((if_neg (not_not.2 hseq)).trans ?_))
  exact (if_neg (by simp [hty])).trans (if_pos hhere)

/-- The next frame of a segment for another device goes through. -/
theorem linkFrameReceive_through (h : GoodFrame s port 1 frame) (hseq : leAt frame 2 2 = (getPort s port).rxSeq) :
    let u := takeAck s port frame
    let v := setPort u port (portAccepted u port)
    let b := (frame.drop 16).take 608
    sgDest b ≠ devNum u →
      Does (.linkFrameReceive port frame) s (pumpLinks
        { v with orl := { v.orl with through := v.orl.through ++ [(port, bitsOf (leAt frame 0 1) 3 2, b)] } }) := by
  obtain ⟨hp, hup, hok, hty⟩ := h
  intro u v b helsewhere
  refine (guardUnit_of (decide_eq_true hp) _).trans ((if_neg (by simp [hup])).trans ?_)
  refine (if_neg (by simp [hok, hty])).trans ((if_neg (by simp [hty])).trans ((if_neg (not_not.2 hseq)).trans ?_))
  exact (if_neg (by simp [hty])).trans (if_neg helsewhere)

/-! ### Control frames and timers (R391 to R393) -/

/-- The device and incarnation that a HELLO names are not those that the port shows. -/
def peerChanged (u : State) (port : Nat) (f : List Byte) : Bool :=
  leAt f 8 2 % 16384 ≠ getF u (rOrlPortStatus port) fOrlPortStatusPeerDev || leAt f 20 4 ≠ (getPort u port).peerInc

/-- The port shows the peer that a HELLO names. -/
def showPeer (u : State) (port : Nat) (f : List Byte) : State :=
  let v := setF (setF u (rOrlPortStatus port) fOrlPortStatusPeerDev (leAt f 8 2 % 16384)) (rOrlPortStatus port)
    fOrlPortStatusPeerPort (leAt f 10 1 % 64)
  setPort v port { getPort v port with peerInc := leAt f 20 4 }

/-- A HELLO shows the peer, and raises PEER where it changed. -/
theorem hello_shows {rest : List (List Byte)} (h : ctlReady s port 1 frame rest = true) :
    let u := setPort s port { getPort s port with ctl := rest }
    let v := showPeer u port frame
    Does (.hello port) s (if peerChanged u port frame then raiseF v rOrlEvents fOrlEventsPeer else v) := by
  rw [Does, exec, execHello, takeCtl_ready h]
  rfl

/-- A QUIESCE is noted. -/
theorem quiesce_noted {rest : List (List Byte)} (h : ctlReady s port 3 frame rest = true) :
    let u := setPort s port { getPort s port with ctl := rest }
    Does (.quiesce port) s (setPort u port { getPort u port with peerQuiet := true }) := by
  rw [Does, exec, execQuiesce, takeCtl_ready h]

/-- Where in a replay buffer the frame of a link sequence number stands. -/
def replayIndex (q : Port) (seq : Nat) : Nat := (seq + 65536 - (q.txSeq + 65536 - q.replay.length) % 65536) % 65536

/-- A REPLAY of a frame that the buffer holds sends again from that one. -/
theorem replay_held {rest : List (List Byte)} (h : ctlReady s port 2 frame rest = true) :
    let u := setPort s port { getPort s port with ctl := rest }
    let n := replayIndex (getPort u port) (leAt frame 18 2)
    n < (getPort u port).replay.length → Does (.replay port) s (resendFrom (countReplay u port) port n) := by
  intro u n hheld
  rw [Does, exec, execReplay, takeCtl_ready h]
  exact if_pos hheld

/-- A REPLAY of any other frame is taken and has no effect. -/
theorem replay_notHeld {rest : List (List Byte)} (h : ctlReady s port 2 frame rest = true) :
    let u := setPort s port { getPort s port with ctl := rest }
    (getPort u port).replay.length ≤ replayIndex (getPort u port) (leAt frame 18 2) → Does (.replay port) s u := by
  intro u hpast
  rw [Does, exec, execReplay, takeCtl_ready h]
  exact if_neg (not_lt.2 hpast)

/-- A replay timeout of a port that is up sends everything unacknowledged again. -/
theorem linkReplayTimeout_does (hp : port < 34) (hup : portUp s port = true)
    (hreplay : (getPort s port).replay.isEmpty = false) :
    Does (.linkReplayTimeout port) s (resendFrom (countReplay s port) port 0) :=
  (guardUnit_of (decide_eq_true hp) _).trans (if_neg (by simp [hreplay, hup]))

end

/-- Settles O43: one theorem per outcome of a frame received and of a control frame taken. -/
theorem linkFrames : Obligations.LinkFrames := by
  unfold Obligations.LinkFrames
  refine ⟨fun port frame s hp hup => ⟨?_, ?_, ?_, ?_⟩, fun port f rest s => ⟨?_, ?_, ?_⟩,
    fun port s => linkReplayTimeout_does, fun s => rfl⟩
  · exact linkFrameReceive_broken hp hup
  · exact fun hok hty => linkFrameReceive_ack ⟨hp, hup, hok, hty⟩
  · exact fun hok hnumbered => linkFrameReceive_outOfTurn ⟨hp, hup, hok, rfl⟩ hnumbered
  · exact fun hok hseq => ⟨fun hty => linkFrameReceive_control ⟨hp, hup, hok, hty⟩ hseq,
      fun hty => linkFrameReceive_arrived ⟨hp, hup, hok, hty⟩ hseq,
      fun hty => linkFrameReceive_through ⟨hp, hup, hok, hty⟩ hseq⟩
  · exact hello_shows
  · exact fun h => ⟨replay_held h, replay_notHeld h⟩
  · exact quiesce_noted

/-! ## How ports come up, fail, change role and train again (R386, R387, R391, R392, R397 to R399, R403) -/

section
variable {s : State} {port : Nat}

/-! ### Lanes (R386, R392) -/

section
variable {lane : Nat}

/-- The state in which lane `lane` of a port is aligned. -/
def laneUp (s : State) (port lane : Nat) : State :=
  setF s (rOrlPortStatus port) fOrlPortStatusLanes (getF s (rOrlPortStatus port) fOrlPortStatusLanes ||| 2 ^ lane)

/-- With a fourth lane a port that trains is up, and says HELLO. -/
theorem laneAligned_up (hp : port < 34) (hl : lane < 8) (hpower : orielPowered s port = true) :
    let u := laneUp s port lane
    let v := setPort u port { getPort u port with switching := false }
    portState u port = 0 → 4 ≤ lanesUp u port →
      Does (.laneAligned port lane) s (pumpLinks (sendHello (setPortState v port 1) port)) := by
  intro u v htrains hlanes
  refine (guardUnit_of (by simp [hp, hl]) _).trans ((if_neg (by simp [hpower])).trans ?_)
  exact if_pos (by simpa using ⟨htrains, hlanes⟩)

/-- At a port that does not train the lane is aligned, and nothing more. -/
theorem laneAligned_notTraining (hp : port < 34) (hl : lane < 8) (hpower : orielPowered s port = true)
    (hst : portState (laneUp s port lane) port ≠ 0) : Does (.laneAligned port lane) s (laneUp s port lane) := by
  refine (guardUnit_of (by simp [hp, hl]) _).trans ((if_neg (by simp [hpower])).trans ?_)
  refine if_neg fun htest => hst ?_
  simp only [Bool.and_eq_true, decide_eq_true_eq] at htest
  exact htest.1

/-- A lane that loses alignment leaves its port. -/
theorem laneAlignmentLost_does (hp : port < 34) (hl : lane < 8) :
    Does (.laneAlignmentLost port lane) s (loseLanes s port (2 ^ lane)) :=
  guardUnit_of (by simp [hp, hl]) _

end

/-! ### Failure and light switches (R386, R387) -/

/-- Outside a light switch, too few lanes or 16 replays without progress fail a port. -/
theorem portFailure_fails (hp : port < 34) (hst : portState s port ≠ 2) (hswitch : (getPort s port).switching = false)
    (hcause : lanesUp s port < 4 ∨ 16 ≤ (getPort s port).noProg) : Does (.portFailure port) s (failPort s port) := by
  refine (guardUnit_of (decide_eq_true hp) _).trans ((if_neg (by simp [hst, hswitch])).trans ?_)
  exact if_pos (by simpa using hcause)

/-- A light switch that ends without lanes fails its port. -/
theorem lightSwitchTimeout_fails (hp : port < 34) (hswitch : (getPort s port).switching = true)
    (hlanes : lanesUp s port < 4) : Does (.lightSwitchTimeout port) s (failPort s port) := by
  refine (guardUnit_of (decide_eq_true hp) _).trans ((if_neg (by simp [hswitch])).trans ?_)
  exact if_pos hlanes

/-- One with lanes ends. -/
theorem lightSwitchTimeout_ends (hp : port < 34) (hswitch : (getPort s port).switching = true)
    (hlanes : 4 ≤ lanesUp s port) :
    Does (.lightSwitchTimeout port) s (setPort s port { getPort s port with switching := false }) := by
  refine (guardUnit_of (decide_eq_true hp) _).trans ((if_neg (by simp [hswitch])).trans ?_)
  exact if_neg (not_lt.2 hlanes)

/-! ### Roles, training again, and the device number (R386, R397, R399, R403) -/

/-- An active port told to be spare is spare at once where nothing is unacknowledged after its QUIESCE. -/
theorem portRoleWrite_spareAtOnce (hp : port < 34) (hh : s.lnt.heldCode = none) (hactive : portSpare s port = false) :
    let u := sendCtl s port (leBytes 4 3)
    (getPort u port).replay.isEmpty = true →
      Does (.portRoleWrite port true) s (setF u (rOrlPortCtl port) fOrlPortCtlRole 1) := by
  intro u hempty
  refine (guardUnit_of (decide_eq_true hp) _).trans ((whileServed_of hh _).trans ?_)
  exact (if_neg (by simp [hactive])).trans ((if_pos rfl).trans (if_pos hempty))

/-- Elsewhere it quiesces. -/
theorem portRoleWrite_quiesces (hp : port < 34) (hh : s.lnt.heldCode = none) (hactive : portSpare s port = false) :
    let u := sendCtl s port (leBytes 4 3)
    (getPort u port).replay.isEmpty = false →
      Does (.portRoleWrite port true) s (setPort u port { getPort u port with quiescing := true }) := by
  intro u hempty
  refine (guardUnit_of (decide_eq_true hp) _).trans ((whileServed_of hh _).trans ?_)
  exact (if_neg (by simp [hactive])).trans ((if_pos rfl).trans (if_neg (Bool.eq_false_iff.1 hempty)))

/-- An active port told to be active quiesces no longer. -/
theorem portRoleWrite_staysActive (hp : port < 34) (hh : s.lnt.heldCode = none) (hactive : portSpare s port = false) :
    Does (.portRoleWrite port false) s (setPort s port { getPort s port with quiescing := false }) := by
  refine (guardUnit_of (decide_eq_true hp) _).trans ((whileServed_of hh _).trans ?_)
  exact (if_pos hactive.symm).trans (congrArg Host.Outcome.next (if_neg Bool.false_ne_true))

/-- A spare told to be active is active where fewer than 32 ports are, and stands in for none. -/
theorem portRoleWrite_activates (hp : port < 34) (hh : s.lnt.heldCode = none) (hspare : portSpare s port = true)
    (hroom : activePorts s < 32) :
    let u := setF s (rOrlPortCtl port) fOrlPortCtlRole 0
    Does (.portRoleWrite port false) s { u with orl := { u.orl with standIn := fmErase u.orl.standIn port } } := by
  intro u
  refine (guardUnit_of (decide_eq_true hp) _).trans ((whileServed_of hh _).trans ?_)
  exact (if_neg (by simp [hspare])).trans ((if_neg Bool.false_ne_true).trans (if_neg (not_le.2 hroom)))

/-- A failed port told to retrain starts over, as a spare without lanes. -/
theorem portRetrain_startsOver (hp : port < 34) (hh : s.lnt.heldCode = none) (hst : portState s port = 2) :
    let u := setF (setPortState s port 0) (rOrlPortCtl port) fOrlPortCtlRole 1
    let u := setF u (rOrlPortStatus port) fOrlPortStatusLanes 0
    Does (.portRetrain port) s (setPort u port { getPort u port with noProg := 0, quiescing := false }) :=
  (guardUnit_of (decide_eq_true hp) _).trans ((whileServed_of hh _).trans (if_neg (not_not.2 hst)))

/-- A device number is refused while any context is not free. -/
theorem deviceNumberWrite_refused {dev : Nat} (hh : s.lnt.heldCode = none)
    (hbusy : s.orl.ctxs.any (fun p => p.2.st ≠ 0) = true) :
    Does (.deviceNumberWrite dev) s (raiseF s rOrlEvents fOrlEventsRefused) :=
  (whileServed_of hh _).trans (if_pos hbusy)

/-- It is taken while all are free. -/
theorem deviceNumberWrite_taken {dev : Nat} (hh : s.lnt.heldCode = none)
    (hfree : s.orl.ctxs.any (fun p => p.2.st ≠ 0) = false) :
    Does (.deviceNumberWrite dev) s (setF s rOrlDevice fOrlDeviceDevice dev) :=
  (whileServed_of hh _).trans (if_neg (Bool.eq_false_iff.1 hfree))

end

/-- Settles O44: one theorem per outcome of each command. -/
theorem portStates : Obligations.PortStates := by
  unfold Obligations.PortStates
  refine ⟨fun port lane s hp hl => ?_, fun port s hp => ?_,
    fun dev s hh => ⟨deviceNumberWrite_refused hh, deviceNumberWrite_taken hh⟩⟩
  · exact ⟨laneAligned_up hp hl, laneAligned_notTraining hp hl, laneAlignmentLost_does hp hl⟩
  · exact ⟨portFailure_fails hp, lightSwitchTimeout_fails hp, lightSwitchTimeout_ends hp,
      fun hh hactive => ⟨portRoleWrite_spareAtOnce hp hh hactive, portRoleWrite_quiesces hp hh hactive⟩,
      portRoleWrite_staysActive hp, portRoleWrite_activates hp, portRetrain_startsOver hp⟩

/-! ## Laser modules (R387 to R389) -/

section
variable {s : State} {m : Nat}

/-! ### Faults, presence and polls (R388, R389) -/

/-- A fault takes a ready module down. -/
theorem laserFault_ready (hm : m < 5) :
    let u := setLaser s m { getLaser s m with fault := true }
    laserState u m = 1 → Does (.laserFault m) s (laserDown u m 2) := by
  intro u hready
  exact (guardUnit_of (decide_eq_true hm) _).trans (if_pos hready)

/-- Removal takes a module down and clears what it showed. -/
theorem laserPresenceChange_removed (hm : m < 5) (ok : Bool) :
    let u := laserDown s m 0
    Does (.laserPresenceChange m false ok) s (setLaser u m { getLaser u m with present := false, fault := false }) :=
  guardUnit_of (decide_eq_true hm) _

/-- Insertion enables a module with the state that its poll shows. -/
theorem laserPresenceChange_inserted (hm : m < 5) (ok : Bool) :
    Does (.laserPresenceChange m true ok) s (lightUp (setLaserState
      (setLaser s m { getLaser s m with present := true, en := true, fault := false }) m (if ok then 1 else 2)) m) :=
  guardUnit_of (decide_eq_true hm) _

/-- The timer enables a failed module again. -/
theorem laserReenableTimer_does (hm : m < 5) (hpresent : (getLaser s m).present = true) (hst : laserState s m = 2) :
    Does (.laserReenableTimer m) s (setLaser s m { getLaser s m with en := true }) :=
  (guardUnit_of (decide_eq_true hm) _).trans (if_pos (by simp [hpresent, hst]))

/-- A poll that finds a ready module bad takes it down. -/
theorem laserPoll_down (hm : m < 5) (hst : laserState s m = 1) : Does (.laserPoll m false) s (laserDown s m 2) :=
  (guardUnit_of (decide_eq_true hm) _).trans (if_pos (by simp [hst]))

/-- A poll of an enabled module that was absent or failed reaches the test of what it finds. -/
theorem laserPoll_enabled (hm : m < 5) (hst : laserState s m = 0 ∨ laserState s m = 2)
    (hpresent : (getLaser s m).present = true) (hen : (getLaser s m).en = true) (ok : Bool) :
    Does (.laserPoll m ok) s
      (if ok then lightUp (setLaser (setLaserState s m 1) m { getLaser s m with fault := false }) m
        else setLaserState s m 2) := by
  have hnot : laserState s m ≠ 1 := by omega
  refine (guardUnit_of (decide_eq_true hm) _).trans ((if_neg (by simp [hnot])).trans ?_)
  exact (if_pos (by simpa [hpresent, hen] using hst)).trans (apply_ite Host.Outcome.next _ _ _).symm

/-! ### Release, restore and light (R387, R389) -/

/-- A release is refused while another module is not ready. -/
theorem laserRelease_refused (hm : m < 5) (hh : s.lnt.heldCode = none)
    (hothers : (List.range 5).all (fun x => x = m || laserState s x = 1) = false) :
    Does (.laserRelease m) s (raiseF s rOrlEvents fOrlEventsRefused) :=
  (guardUnit_of (decide_eq_true hm) _).trans ((whileServed_of hh _).trans (if_pos (by rw [hothers]; rfl)))

/-- With every other module ready it moves the module's ports off it. -/
theorem laserRelease_movesOff (hm : m < 5) (hh : s.lnt.heldCode = none)
    (hothers : (List.range 5).all (fun x => x = m || laserState s x = 1) = true) :
    Does (.laserRelease m) s
      (moveOff (setLaser (setLaserState s m 3) m { getLaser s m with en := false, out := true }) m) :=
  (guardUnit_of (decide_eq_true hm) _).trans ((whileServed_of hh _).trans (if_neg (by simp [hothers])))

/-- A ready module is restored: in use again, it lights up. -/
theorem laserRestore_lightsUp (hm : m < 5) (hh : s.lnt.heldCode = none) (hst : laserState s m = 1) :
    Does (.laserRestore m) s (lightUp (setLaser s m { getLaser s m with out := false }) m) :=
  (guardUnit_of (decide_eq_true hm) _).trans ((whileServed_of hh _).trans (if_neg (not_not.2 hst)))

@[simp] theorem getLaser_setLaser_same (s : State) (m : Nat) (v : Laser) : getLaser (setLaser s m v) m = v :=
  fmGet_set_same _ _ _ _

@[simp] theorem laserState_setLaser (s : State) (m x : Nat) (v : Laser) :
    laserState (setLaser s m v) x = laserState s x := rfl

/-- A ready module that is in use feeds ports. -/
theorem laserFeeds_inUse (hst : laserState s m = 1) :
    laserFeeds (setLaser s m { getLaser s m with out := false }) m = true := by
  simp [laserFeeds, hst]

/-- A module that feeds no ports takes none. -/
theorem lightUp_dark (hf : laserFeeds s m = false) : lightUp s m = refreshLight s := if_pos (by rw [hf]; rfl)

/-- A port takes the light of module `m` where that is its primary, or its secondary while its primary does not feed. -/
def takeLight (m : Nat) (s : State) (p : Nat) : State :=
  if primaryOf p = m && (portLight s p ≠ m || lanesUp s p = 0) then switchLight s p m
  else if secondaryOf p = m && !laserFeeds s (primaryOf p) && portLight s p ≠ m then switchLight s p m
  else s

/-- The ports of a module that feeds take its light. -/
theorem lightUp_feeds (hf : laserFeeds s m = true) :
    lightUp s m = refreshLight ((List.range 34).foldl (takeLight m) s) := if_neg (by simp [hf])

end

/-- Settles O45: one theorem per outcome of each command; a restored module feeds, so its ports take its light. -/
theorem laserModules : Obligations.LaserModules := by
  unfold Obligations.LaserModules
  intro m s hm l faulted
  refine ⟨laserFault_ready hm, fun ok => ⟨laserPresenceChange_removed hm ok, laserPresenceChange_inserted hm ok⟩,
    laserReenableTimer_does hm, laserPoll_down hm, fun hst hpresent hen => ?_, laserRelease_refused hm,
    laserRelease_movesOff hm, fun hh hst => ?_, lightUp_dark, lightUp_feeds⟩
  · have hpoll := laserPoll_enabled hm hst hpresent hen
    exact ⟨hpoll true, hpoll false⟩
  · have hlight := lightUp_feeds (laserFeeds_inUse hst)
    exact (laserRestore_lightsUp hm hh hst).trans (congrArg Host.Outcome.next hlight)

/-! ## Segments received (R402 to R405, R409 to R411) -/

section
variable {s u : State} {port ty : Nat} {b : List Byte} {c : Ctx}

/-- A good segment `b` of a type is taken off the front of a port, and handled in `u`, where its context is `c`. -/
structure SegmentTaken (s u : State) (port ty : Nat) (b : List Byte) (c : Ctx) : Prop where
  taken : ∀ k : State → Nat → List Byte → Out, takeSeg s port ty k = k u (sgCtx b) b
  ctx : getCtx u (sgCtx b) = c
  crc : sgCrcOk b = true
  num : ctxNum (sgCtx b) = true
  peer : sgSrc b = c.peer

/-- A segment that is ready is taken so; that leaves its context as it was. -/
theorem segReady_taken {vc : Nat} {rest : List (Nat × List Byte)} (h : segReady s port ty vc b rest = true) :
    SegmentTaken s (segTaken s port vc rest) port ty b (getCtx (segTaken s port vc rest) (sgCtx b)) := by
  have hgood := h
  simp only [segReady, Bool.and_eq_true, decide_eq_true_eq, and_assoc] at hgood
  obtain ⟨-, -, -, -, hcrc, hnum, hpeer⟩ := hgood
  exact ⟨fun _ => takeSeg_ready h, rfl, hcrc, hnum, hpeer⟩

/-! ### Numbered segments (R403, R404, R409, R410) -/

/-- One of a stale incarnation evicts its context with cause 2. -/
theorem numbered_stale (h : SegmentTaken s u port ty b c) (hst : c.st = 2) (hstale : staleInc c b = true) :
    numbered port ty s = .next (evict u (sgCtx b) 2) := by
  obtain ⟨htaken, rfl, hcrc, hnum, hpeer⟩ := h
  refine (htaken _).trans ((if_neg (by simp [hcrc, hnum, hpeer])).trans ((if_neg (not_not.2 hst)).trans ?_))
  exact if_pos hstale

/-- One that lies before the next expected is a duplicate: counted and acknowledged. -/
theorem numbered_duplicate (h : SegmentTaken s u port ty b c) (hst : c.st = 2) (hstale : staleInc c b = false)
    (hbefore : serialLt (sgSeq b) c.due = true) :
    numbered port ty s = .next
      (sendAck (ackIn (setCtx u (sgCtx b) { c with dups := (c.dups + 1) % 2 ^ 32 }) (sgCtx b) (sgAck b)) (sgCtx b)) := by
  obtain ⟨htaken, rfl, hcrc, hnum, hpeer⟩ := h
  refine (htaken _).trans ((if_neg (by simp [hcrc, hnum, hpeer])).trans ((if_neg (not_not.2 hst)).trans ?_))
  exact (if_neg (Bool.eq_false_iff.1 hstale)).trans (if_pos hbefore)

/-- The next expected, with no message waiting, is delivered, and so is what follows it in the reorder store. -/
theorem numbered_delivered {v : State} (h : SegmentTaken s u port ty b c) (hst : c.st = 2) (hstale : staleInc c b = false)
    (hbefore : serialLt (sgSeq b) c.due = false) (hdue : sgSeq b = c.due) (hwhole : c.whole = none)
    (hdeliver : deliverSeg u (sgCtx b) b = some v) :
    numbered port ty s
      = .next (ackIn (drainHeld (sgCtx b) (getCtx v (sgCtx b)).reorder.length v) (sgCtx b) (sgAck b)) := by
  obtain ⟨htaken, rfl, hcrc, hnum, hpeer⟩ := h
  refine (htaken _).trans ((if_neg (by simp [hcrc, hnum, hpeer])).trans ((if_neg (not_not.2 hst)).trans ?_))
  refine (if_neg (Bool.eq_false_iff.1 hstale)).trans ((if_neg (Bool.eq_false_iff.1 hbefore)).trans ((if_pos hdue).trans ?_))
  refine (if_neg (by simp [hwhole])).trans ?_
  rw [hdeliver]

/-- One further on inside the window waits in the reorder store, where that has room. -/
theorem numbered_held (h : SegmentTaken s u port ty b c) (hst : c.st = 2) (hstale : staleInc c b = false)
    (hbefore : serialLt (sgSeq b) c.due = false) (hdue : sgSeq b ≠ c.due)
    (hwindow : serialDist c.rxNext (sgSeq b) < c.window)
    (hroom : (fmFind c.reorder (sgSeq b)).isSome = true ∨ reorderUsed u < reorderRoom) :
    numbered port ty s = .next
      (ackIn (setCtx u (sgCtx b) { c with reorder := fmPut c.reorder (sgSeq b) b }) (sgCtx b) (sgAck b)) := by
  obtain ⟨htaken, rfl, hcrc, hnum, hpeer⟩ := h
  refine (htaken _).trans ((if_neg (by simp [hcrc, hnum, hpeer])).trans ((if_neg (not_not.2 hst)).trans ?_))
  refine (if_neg (Bool.eq_false_iff.1 hstale)).trans ((if_neg (Bool.eq_false_iff.1 hbefore)).trans ((if_neg hdue).trans ?_))
  exact if_pos (by simp only [Bool.and_eq_true, Bool.or_eq_true, decide_eq_true_eq]; exact ⟨hwindow, hroom⟩)

/-! ### Segments without a number (R402 to R404, R409) -/

/-- A good segment without a number, of a context that is not free, is handled. -/
theorem unnumbered_taken {f : State → Nat → Ctx → List Byte → Out} (h : SegmentTaken s u port ty b c) (hst : c.st ≠ 0) :
    unnumbered port ty s f = f u (sgCtx b) c b := by
  obtain ⟨htaken, rfl, hcrc, hnum, hpeer⟩ := h
  exact (htaken _).trans (if_neg (by simp [hcrc, hnum, hpeer, hst]))

/-- An ack of an open context frees what it acknowledges. -/
theorem ackSegment_open (h : SegmentTaken s u port 1 b c) (hst : c.st = 2) (hstale : staleInc c b = false) :
    Does (.ackSegment port) s (ackIn u (sgCtx b) (sgAck b)) := by
  rw [Does, exec, execAckSegment, unnumbered_taken h (by simp [hst])]
  exact (if_neg (Bool.eq_false_iff.1 hstale)).trans (if_pos (by simp [hst]))

/-- An OPEN of an opening context opens it and is answered. -/
theorem openSegment_opening (h : SegmentTaken s u port 2 b c) (hst : c.st = 1) :
    Does (.openSegment port) s (sendOpenReply (openCtx u (sgCtx b) (sgFaddr b % 2 ^ 32)) (sgCtx b)) := by
  rw [Does, exec, execOpenSegment, unnumbered_taken h (by simp [hst])]
  exact if_pos hst

/-- An OPEN reply of an opening context opens it. -/
theorem openReplySegment_opening (h : SegmentTaken s u port 3 b c) (hst : c.st = 1) :
    Does (.openReplySegment port) s (openCtx u (sgCtx b) (sgFaddr b % 2 ^ 32)) := by
  rw [Does, exec, execOpenReplySegment, unnumbered_taken h (by simp [hst])]
  exact if_pos hst

/-- A CLOSE of an open context evicts it with cause 3. -/
theorem closeSegment_open (h : SegmentTaken s u port 4 b c) (hst : c.st = 2) (hstale : staleInc c b = false) :
    Does (.closeSegment port) s (evict u (sgCtx b) 3) := by
  rw [Does, exec, execCloseSegment, unnumbered_taken h (by simp [hst])]
  exact (if_neg (Bool.eq_false_iff.1 hstale)).trans (if_pos hst)

/-- A CLOSE of a closing context that has sent its own frees it. -/
theorem closeSegment_closing (h : SegmentTaken s u port 4 b c) (hst : c.st = 3) (hstale : staleInc c b = false)
    (hsent : c.closeSent = true) : Does (.closeSegment port) s (freeCtx u (sgCtx b)) := by
  rw [Does, exec, execCloseSegment, unnumbered_taken h (by simp [hst])]
  exact (if_neg (Bool.eq_false_iff.1 hstale)).trans ((if_neg (by simp [hst])).trans ((if_pos hst).trans (if_pos hsent)))

end

/-- Settles O47: the three numbered segments share the theorems of `numbered`; one theorem for each of the others. -/
theorem segmentsReceived : Obligations.SegmentsReceived := by
  unfold Obligations.SegmentsReceived
  refine ⟨fun port vc b rest s => ?_, fun port vc b rest s => ?_⟩
  · intro u k c received
    have hreceived (i : Instr) (ty : Nat) (hi : exec i s = numbered port ty s) : received i ty := by
      intro h hst
      have ht := segReady_taken h
      exact ⟨fun hstale => hi.trans (numbered_stale ht hst hstale),
        fun hstale hbefore => hi.trans (numbered_duplicate ht hst hstale hbefore),
        fun v hstale hbefore hdue hwhole hv => hi.trans (numbered_delivered ht hst hstale hbefore hdue hwhole hv),
        fun hstale hbefore hdue hwindow hroom => hi.trans (numbered_held ht hst hstale hbefore hdue hwindow hroom)⟩
    exact ⟨hreceived _ 0 rfl, hreceived _ 5 rfl, hreceived _ 6 rfl⟩
  · intro u k c
    exact ⟨fun h => ackSegment_open (segReady_taken h), fun h => openSegment_opening (segReady_taken h),
      fun h => openReplySegment_opening (segReady_taken h), fun h => closeSegment_open (segReady_taken h),
      fun h => closeSegment_closing (segReady_taken h)⟩

end Sys2Proof.Machine
end


section
/-! The family of 16_command_interface.md: one step of the block (O1, O2, O4, O6), the outcome of a command (O17), the
doorbells (O10), intake and completion (O15), ABORT (O18), host-window requests (O12), PCI Express resets and configuration
space (O13). -/

namespace Sys2Proof.Machine

/-! ## One step of the block -/

/-- Settles O6: what every step keeps of what waits and of the free values drawn (`step_keeps`). -/
theorem oneCommandAStep : Obligations.OneCommandAStep := by
  unfold Obligations.OneCommandAStep
  intro s t h
  exact ⟨(step_keeps h).pending, (step_keeps h).free⟩

/-- A step of a queue runs its front command on the rest. -/
theorem step_cons {c : Instr} {rest : List Instr} {s : State} (h : s.pending = c :: rest) :
    step s = exec c { s with pending := rest } := by
  simp only [step, h]

/-- A step of an empty queue idles. -/
theorem step_nil {s : State} (h : s.pending = []) : step s = .next s := by
  simp only [step, h]

/-- Settles O1. -/
theorem stepRunsFront : Obligations.StepRunsFront := by
  unfold Obligations.StepRunsFront
  exact fun _ _ _ => step_cons

/-- Settles O2. -/
theorem stepIdlesOnEmptyQueue : Obligations.StepIdlesOnEmptyQueue := by
  unfold Obligations.StepIdlesOnEmptyQueue
  exact fun _ => step_nil

/-- At reset the register bank lists nothing, which is its canonical form. -/
theorem regs_wf_reset : fmWf regReset State.reset.regs = true := rfl

/-- Settles O4: neither memory nor register bank lists anything at reset. -/
theorem resetIsCanonical : Obligations.ResetIsCanonical := by
  unfold Obligations.ResetIsCanonical
  exact ⟨⟨memWf_reset, regs_wf_reset⟩, rfl, rfl⟩

/-! ## Outcomes and dispatch marks (R482, R487) -/

section
variable {s : State} {r q : CmdRef} {c : Cmd} {code check extent info : Nat}

/-- Ending a command that has not ended gives it the outcome. -/
theorem findCmd_endCmd_open (hf : findCmd s r = some c) (hst : c.st = .accepted ∨ c.st = .dispatched) :
    findCmd (endCmd s r code check extent info) r
      = some { c with st := .ended, code := code, check := check, extent := extent, info := info } := by
  rw [findCmd_endCmd, hf, Option.map_some, if_pos hst]

/-- Ending a command that has ended leaves it its outcome. -/
theorem findCmd_endCmd_ended (hf : findCmd s r = some c) (hst : c.st = .ended ∨ c.st = .recorded) :
    findCmd (endCmd s r code check extent info) r = some c := by
  have hnot : ¬(c.st = .accepted ∨ c.st = .dispatched) := by
    rcases hst with h | h <;> simp [h]
  rw [findCmd_endCmd, hf, Option.map_some, if_neg hnot]

/-- Ending a command leaves every other one. -/
theorem findCmd_endCmd_ne (hr : r.queue < 64) (hq : q.queue < 64) (h : q ≠ r) :
    findCmd (endCmd s r code check extent info) q = findCmd s q :=
  findCmd_updCmd_ne s _ (fun c => by split <;> rfl) hr hq h

/-- Marking a command dispatched leaves every other one. -/
theorem findCmd_markDispatched_ne (hr : r.queue < 64) (hq : q.queue < 64) (h : q ≠ r) :
    findCmd (markDispatched s r) q = findCmd s q :=
  findCmd_updCmd_ne s _ (fun _ => rfl) hr hq h

end

/-- Settles O17: the laws of `endCmd` and `markDispatched`, for the command named and for every other one. -/
theorem endingFixesOneOutcome : Obligations.EndingFixesOneOutcome := by
  unfold Obligations.EndingFixesOneOutcome
  intro s r c code check extent info hr hf
  refine ⟨findCmd_endCmd_open hf, findCmd_endCmd_ended hf, fun q => findCmd_endCmd_ne hr, endCmd_regs .., endCmd_mem ..,
    ?_, fun q => findCmd_markDispatched_ne hr, rfl⟩
  rw [findCmd_markDispatched, hf, Option.map_some]

/-! ## Doorbells (R35, R466, R470, R474) -/

section
variable {fn scope queue off size : Nat} {data : DWord} {s : State}

/-- A completion ring whose head a doorbell has moved: slots freed, the message armed, the entries passed dropped (R470,
R474). -/
def headMoved (s : State) (scope queue head : Nat) : State :=
  let u := latchRaised s
  setQ u scope queue
    { getQ u scope queue with cqHead := head, armed := true, unpassed := dropPassed head (getQ u scope queue).unpassed }

/-- A good tail doorbell sets the tail. -/
theorem submissionTailDoorbell_good (hh : s.lnt.heldCode = none) (hok : doorbellOk s fn scope queue off size 0 data = true) :
    Does (.submissionTailDoorbell fn scope queue off size data) s
      (setQ s scope queue { getQ s scope queue with sqTail := bitsOf data.toNat 0 16 }) :=
  (whileServed_of hh _).trans (if_pos hok)

/-- A bad one is counted. -/
theorem submissionTailDoorbell_bad (hh : s.lnt.heldCode = none) (hok : doorbellOk s fn scope queue off size 0 data = false) :
    Does (.submissionTailDoorbell fn scope queue off size data) s (countMalformed s) :=
  (whileServed_of hh _).trans (if_neg (by simp [hok]))

/-- A good head doorbell moves the head, then writes what waited for room. -/
theorem completionHeadDoorbell_good (hh : s.lnt.heldCode = none) (hok : doorbellOk s fn scope queue off size 8 data = true) :
    Does (.completionHeadDoorbell fn scope queue off size data) s
      (acceptEntry (flushHeld (headMoved s scope queue (bitsOf data.toNat 0 16)) scope queue) scope queue none) :=
  (whileServed_of hh _).trans (if_pos hok)

/-- A bad one is counted. -/
theorem completionHeadDoorbell_bad (hh : s.lnt.heldCode = none) (hok : doorbellOk s fn scope queue off size 8 data = false) :
    Does (.completionHeadDoorbell fn scope queue off size data) s (countMalformed s) :=
  (whileServed_of hh _).trans (if_neg (by simp [hok]))

end

/-- Settles O10: one equation per doorbell, good or bad; a machine held in reset serves none (`whileServed_held`). -/
theorem doorbellWrites : Obligations.DoorbellWrites := by
  unfold Obligations.DoorbellWrites
  refine ⟨fun fn scope queue off size data s hh => ?_, fun fn scope queue off size data s hh => ?_,
    fun fn scope queue off size data s hh => ?_⟩
  · exact ⟨submissionTailDoorbell_good hh, submissionTailDoorbell_bad hh⟩
  · exact ⟨whileServed_held hh _, whileServed_held hh _⟩
  · exact ⟨completionHeadDoorbell_good hh, completionHeadDoorbell_bad hh⟩

/-! ## Intake (R477 to R480, R521) -/

section
variable {scope queue : Nat} {s : State}

/-- A running queue of an existing number has a slot to fetch, and the device fetches from its scope. -/
structure SlotWaits (s : State) (scope queue : Nat) : Prop where
  scopeNum : scope ≤ 8
  queueNum : queue < 64
  known : queue < scopeQueues s scope
  runs : getF s (rCmdQStatus scope queue) fCmdQStatusState = 1
  fed : fetches s scope = true
  waits : getF s (rCmdQStatus scope queue) fCmdQStatusSqHead ≠ (getQ s scope queue).sqTail

/-- What the intake of such a slot leaves; the acceptance of a hall's command wakes its hall. -/
def slotTakenIn (s : State) (scope queue : Nat) : State :=
  let u := intakeSlot s scope queue (ringErr s (getF s (rCmdSq scope queue) fCmdSqBase) none)
    (ringErr s (getF s (rCmdCq scope queue) fCmdCqBase) none)
  if scope < 8 && getF u (rCmdQSeq scope queue) fCmdQSeqNextSeq ≠ getF s (rCmdQSeq scope queue) fCmdQSeqNextSeq
    then wakeHall u scope else u

/-- Its unit exists, and the first test of the intake lets it pass. -/
theorem SlotWaits.unit (g : SlotWaits s scope queue) : (decide (scope ≤ 8) && decide (queue < 64)) = true := by
  simp [g.scopeNum, g.queueNum]

theorem SlotWaits.test (g : SlotWaits s scope queue) :
    ¬(!(queue < scopeQueues s scope) || getF s (rCmdQStatus scope queue) fCmdQStatusState ≠ 1 || !fetches s scope
      || getF s (rCmdQStatus scope queue) fCmdQStatusSqHead = (getQ s scope queue).sqTail) = true := by
  simp [g.known, g.runs, g.fed, g.waits]

/-- With room in the journal the slot is taken in. -/
theorem commandIntake_takes (g : SlotWaits s scope queue) (hj : journalUsed s scope < journalSize s scope) :
    Does (.commandIntake scope queue none none) s (slotTakenIn s scope queue) :=
  (guardUnit_of g.unit _).trans ((if_neg g.test).trans (if_neg hj.not_ge))

/-- With the journal full only the event is raised. -/
theorem commandIntake_full (g : SlotWaits s scope queue) (hj : journalSize s scope ≤ journalUsed s scope) :
    Does (.commandIntake scope queue none none) s (raiseCmdEvent s fCmdEventsJournalFull) :=
  (guardUnit_of g.unit _).trans ((if_neg g.test).trans (if_pos hj))

end

/-! ## Completion (R54, R482, R485) -/

/-- The outcome at its record leaves a command its opcode. -/
theorem mgmtOutcome_opcode (s : State) (c : Cmd) : (mgmtOutcome s c).opcode = c.opcode := by
  unfold mgmtOutcome
  split <;> rfl

/-- The record of a command and its final entry, pushed. -/
def recordedAndPushed (u : State) (r : CmdRef) (c : Cmd) (e : Entry) : State :=
  pushEntry (recordCmd u r c e.elapsed) r.scope r.queue e (ringErr u (getF u (rCmdCq r.scope r.queue) fCmdCqBase) none)

/-- A command whose outcome is fixed, and which nothing holds back, is recorded with the outcome it has then. -/
theorem commandCompletion_records {r : CmdRef} {c : Cmd} {s : State} (elapsed : Nat) (hs : r.scope ≤ 8) (hq : r.queue < 64)
    (hf : findCmd s r = some c) (hst : c.st = .ended) (hw : s.lnt.warm = false) (hh : s.lnt.heldCode = none)
    (hack : cmdUnacked s r = false) (hab : abortPending s r = false) (hop : c.opcode ≠ 0x45) :
    let u := latchRaised s
    Does (.commandCompletion r elapsed none) s
      (recordedAndPushed u r (mgmtOutcome u c) (finalEntry r (mgmtOutcome u c) elapsed)) := by
  have hrun : ¬(c.st ≠ .ended || s.lnt.warm || s.lnt.heldCode.isSome || cmdUnacked s r || abortPending s r) = true := by
    simp [hst, hw, hh, hack, hab]
  have herase : ¬((mgmtOutcome (latchRaised s) c).opcode = 0x45 && (mgmtOutcome (latchRaised s) c).code = 0) = true := by
    simp [mgmtOutcome_opcode, hop]
  refine (guardUnit_of (by simp [hs, hq]) _).trans ?_
  rw [hf]
  exact (if_neg hrun).trans (congrArg Host.Outcome.next (if_neg herase))

/-- Settles O15: the two outcomes of an intake, and the completion. -/
theorem intakeAndCompletion : Obligations.IntakeAndCompletion := by
  unfold Obligations.IntakeAndCompletion
  refine ⟨fun scope queue s hs hq hn hst hfetch hwait => ?_, fun r c elapsed s => ?_⟩
  · have g : SlotWaits s scope queue := ⟨hs, hq, hn, hst, hfetch, hwait⟩
    exact ⟨commandIntake_takes g, commandIntake_full g⟩
  · exact commandCompletion_records elapsed

/-! ## ABORT (R483, R488, R489) -/

section
variable {s : State} {r : CmdRef} {c : Cmd}

/-- The command that an ABORT names. -/
def abortTarget (c : Cmd) : CmdRef := ⟨bitsOf c.o0 0 4, bitsOf c.o0 8 6, c.o1⟩

/-- An ABORT that may dispatch: accepted, of an existing scope, with no reset under way. -/
structure AbortStands (s : State) (r : CmdRef) (c : Cmd) : Prop where
  scope : r.scope ≤ 8
  found : findCmd s r = some c
  accepted : c.st = .accepted
  opcode : c.opcode = 0x30
  warm : s.lnt.warm = false
  served : s.lnt.heldCode = none

/-- Such an ABORT passes the first test of its dispatch. -/
theorem AbortStands.test (g : AbortStands s r c) :
    ¬(c.st ≠ .accepted || c.opcode ≠ 0x30 || s.lnt.warm || s.lnt.heldCode.isSome) = true := by
  simp [g.accepted, g.opcode, g.warm, g.served]

/-- A reserved operand bit ends it. -/
theorem abort_reserved (g : AbortStands s r c) (ho : opdOk c = false) : Does (.abort r) s (endCmd s r 0x10 0 0 0) := by
  refine (guardUnit_of (decide_eq_true g.scope) _).trans ?_
  rw [g.found]
  exact (if_neg g.test).trans (if_pos (by simp [ho]))

/-- A verdict that names a code ends it, and its target is left. -/
theorem abort_verdict {code : Nat} (g : AbortStands s r c) (ho : opdOk c = true)
    (hv : abortVerdict s r (abortTarget c) = some code) : Does (.abort r) s (endCmd s r code 0 0 0) := by
  unfold abortTarget at hv
  refine (guardUnit_of (decide_eq_true g.scope) _).trans ?_
  rw [g.found]
  refine (if_neg g.test).trans ((if_neg (by simp [ho])).trans ?_)
  rw [hv]

/-- With no verdict yet it is dispatched and its target aborted. -/
theorem abort_aborts {x : Cmd} (g : AbortStands s r c) (ho : opdOk c = true)
    (hv : abortVerdict s r (abortTarget c) = none)
    (hx : findCmd (latchRaised (markDispatched s r)) (abortTarget c) = some x) :
    Does (.abort r) s (abortCmd (latchRaised (markDispatched s r)) (abortTarget c) x) := by
  unfold abortTarget at hv hx ⊢
  refine (guardUnit_of (decide_eq_true g.scope) _).trans ?_
  rw [g.found]
  refine (if_neg g.test).trans ((if_neg (by simp [ho])).trans ?_)
  rw [hv]
  dsimp only
  rw [hx]

end

/-- Settles O18: one theorem per outcome of the operands' test and of the verdict. -/
theorem abortRule : Obligations.AbortRule := by
  unfold Obligations.AbortRule
  intro r c s hs hf hst hop hw hh t
  have g : AbortStands s r c := ⟨hs, hf, hst, hop, hw, hh⟩
  exact ⟨abort_reserved g, fun ho => ⟨fun code => abort_verdict g ho, fun hv x => abort_aborts g ho hv⟩⟩

/-! ## Requests to the host window (R255, R468, R542) -/

section
variable {s u : State} {q : MemReq} {id : Nat}

/-- A page request that is answered with success goes on, one that is not ends with its request. -/
theorem pageRequestResponse_does (h : takePageReq s id = some (q, u)) (ok : Bool) :
    Does (.pageRequestResponse id ok) s (if ok then u else hostFault u q) := by
  simp only [Does, exec, execPageRequestResponse, h]

/-- A page request that times out ends with its request. -/
theorem pageRequestTimeout_does (h : takePageReq s id = some (q, u)) : Does (.pageRequestTimeout id) s (hostFault u q) := by
  simp only [Does, exec, execPageRequestTimeout, h]

/-- A request to the host window is in flight, and the window is open. -/
structure HostRequest (s : State) (q : MemReq) : Prop where
  host : inHost q.addr q.len = true
  flight : inFlight s q = true
  isOpen : hostOpen s = true

/-- The translations of a request are held, each page once. -/
def translationsHeld (s : State) (q : MemReq) : State :=
  { s with pci := { s.pci with atc := reqPages s q ++ s.pci.atc.filter fun p => !(reqPages s q).contains p } }

/-- The translations that come are held; a write then goes out and frees its slot. -/
theorem atsTranslationCompletion_translated (g : HostRequest s q) :
    Does (.atsTranslationCompletion q true) s
      (if q.write then land (freeSlot (translationsHeld s q) q) q else translationsHeld s q) := by
  refine (if_neg (by simp [g.host, g.flight])).trans ((if_neg (by simp [g.isOpen])).trans ?_)
  exact if_pos rfl

/-- A refused translation sends a page request where fewer than 512 are out. -/
theorem atsTranslationCompletion_refused (g : HostRequest s q) (hroom : s.pci.pageReqs.length < 512) :
    Does (.atsTranslationCompletion q false) s { s with pci := { s.pci with
      pageReqs := fmPut s.pci.pageReqs s.pci.nextReq q, nextReq := s.pci.nextReq + 1 } } := by
  refine (if_neg (by simp [g.host, g.flight])).trans ((if_neg (by simp [g.isOpen])).trans ?_)
  exact (if_neg (by simp)).trans (if_neg hroom.not_ge)

/-- A read whose pages are translated delivers good data, and ends its command where its check fails. -/
theorem hostReadCompletion_does (g : HostRequest s q) (hread : q.write = false) (ht : translated s q = true)
    (err : Option ReadErr) :
    Does (.hostReadCompletion q err) s
      (match err with
      | some e => failReq (freeSlot s q) q.cmd e q.addr
      | none => deliver (freeSlot s q) q) := by
  refine (if_neg (by simp [hread, g.host, g.flight])).trans ((if_neg (by simp [g.isOpen])).trans ?_)
  refine (if_neg (by simp [ht])).trans ?_
  cases err <;> rfl

end

/-- Settles O12: one theorem per answer to a request. -/
theorem hostRequestsEnd : Obligations.HostRequestsEnd := by
  unfold Obligations.HostRequestsEnd
  refine ⟨fun id q s u h => ?_, fun lo n s => rfl, fun q s hhost hflight hopen => ?_⟩
  · exact ⟨pageRequestResponse_does h true, pageRequestResponse_does h false, pageRequestTimeout_does h⟩
  · have g : HostRequest s q := ⟨hhost, hflight, hopen⟩
    exact ⟨atsTranslationCompletion_translated g, atsTranslationCompletion_refused g,
      fun hread ht => ⟨hostReadCompletion_does g hread ht none, fun e => hostReadCompletion_does g hread ht (some e)⟩⟩

/-! ## PCI Express resets and configuration space (R464, R490, R491, R533, R537, R538) -/

section
variable {s : State}

/-- A hot reset suspends the queues in the host window, resets the domain and ends what needed the host. -/
theorem hotReset_does (s : State) :
    Does .hotReset s (hostGone (pcieReset (suspendQueues (latchRaised s) (hostQueues (latchRaised s))))) := rfl

/-- A function-level reset of PF 0 reaches every scope and clears SR-IOV. -/
theorem flrPf_does (s : State) :
    let v := (List.range 9).foldl flrScope (latchRaised s)
    Does .flrPf s { v with pci := { v.pci with sriov := false } } := rfl

/-- PERST# takes the link down and asks for a warm reset. -/
theorem perstAssert_does (s : State) :
    Does .perstAssert s
      (warmReset { s with lnt := { s.lnt with perst := true }, pci := { s.pci with up := false } } 4) := rfl

/-- A function-level reset of VF n reaches the scope below it. -/
theorem flrVf_does {n : Nat} (h1 : 1 ≤ n) (h9 : n ≤ 9) (s : State) :
    Does (.flrVf n) s (flrScope (latchRaised s) (n - 1)) :=
  guardUnit_of (by simp [h1, h9]) _

/-- A configuration request names a dword of a function's configuration space. -/
structure CfgDword (fn off : Nat) : Prop where
  fn : fn < 10
  aligned : off % 4 = 0
  inside : off < 4096

variable {fn off : Nat} {d : Option Word} {v : Word}

theorem CfgDword.unit (g : CfgDword fn off) :
    (decide (fn < 10) && decide (off % 4 = 0) && decide (off < 4096)) = true := by
  simp [g.fn, g.aligned, g.inside]

/-- Until configuration space answers, a request gets retry status. -/
theorem configurationRequest_retry (g : CfgDword fn off) (ha : s.pci.answers = false) :
    Does (.configurationRequest fn off d) s { s with resp := .retry } :=
  (guardUnit_of g.unit _).trans (if_pos (by simp [ha]))

/-- Then a read answers the dword. -/
theorem configurationRequest_read (g : CfgDword fn off) (ha : s.pci.answers = true) :
    Does (.configurationRequest fn off none) s { s with resp := .value 4 (cfgRead s fn off) } :=
  (guardUnit_of g.unit _).trans (if_neg (by simp [ha]))

/-- A write of a dword that the spec does not fix stores it, and switches what the dword switches. -/
theorem configurationRequest_write (g : CfgDword fn off) (ha : s.pci.answers = true) (hf : cfgFixed s fn off = none) :
    let u := cfgSwitch { s with resp := .nothing } fn off v.toNat
    Does (.configurationRequest fn off (some v)) s
      { u with pci := { u.pci with cfg := fmPut u.pci.cfg (1024 * fn + off / 4) v } } :=
  (guardUnit_of g.unit _).trans ((if_neg (by simp [ha])).trans (if_neg (by simp [hf])))

end

/-- Settles O13: one equation per reset and per kind of configuration request. -/
theorem pcieResetsAndConfiguration : Obligations.PcieResetsAndConfiguration := by
  unfold Obligations.PcieResetsAndConfiguration
  refine ⟨fun s => ⟨hotReset_does s, flrPf_does s, fun b => rfl, rfl, perstAssert_does s⟩,
    fun n s h1 h9 => flrVf_does h1 h9 s,
    fun fn off d v s hfn halign hin => ?_⟩
  have g : CfgDword fn off := ⟨hfn, halign, hin⟩
  exact ⟨configurationRequest_retry g, fun ha => ⟨configurationRequest_read g ha, configurationRequest_write g ha⟩⟩

end Sys2Proof.Machine
end

section
/-! The family of 14_foyer_input.md and 15_frieze_video.md: the commands of the Foyer (O28) and of the Frieze (O27), and what
their engines and pipes do (O48). -/

namespace Sys2Proof.Machine

section
variable {s m : State} {r : CmdRef} {c : Cmd}

/-! ## FOYER_BATCH (R418, R420) -/

/-- The manifest that a FOYER_BATCH names, and its slot entries. -/
def batchHead (m : State) (c : Cmd) : List Byte := memBytes m c.o0 128
def batchEntries (m : State) (c : Cmd) : List Byte := memBytes m (c.o0 + 128) (32 * mfSlots (batchHead m c))

/-- The sources that a batch reads: those of its slots that are no clips and name bytes. -/
def batchReads (m : State) (c : Cmd) : List (Nat × Nat) :=
  ((List.range (mfSlots (batchHead m c))).map (mfSlot (batchEntries m c))).filterMap fun e =>
    if slKind e = 2 || slLen e = 0 then none else some (slSrc e, slLen e)

/-- A batch with its slots in hand. -/
def batchStarted (m : State) (r : CmdRef) (c : Cmd) : State :=
  let b := batchHead m c
  updJob m r fun j => { j with
    total := mfSlots b, groups := mfGroups b, rec1 := b, rec2 := batchEntries m c, reads := batchReads m c
    writes := batchWrites c.o0 b }

/-- A batch passes the tests of its dispatch: no dictionary being loaded before it, its manifest aligned, in reach, readable
and whole, the checks of R420 met, its reaches open. -/
structure BatchGood (m : State) (h : Nat) (c : Cmd) : Prop where
  idle : (earlierCmds m h).any (fun p => p.2.opcode = 0x29) = false
  aligned : c.o0 % 64 = 0
  headWindow : inWindow m h true c.o0 128 = true
  window : inWindow m h true c.o0 (128 + 32 * mfSlots (batchHead m c)) = true
  headReads : readsWell m c.o0 128 = true
  reads : readsWell m (c.o0 + 128) (32 * mfSlots (batchHead m c)) = true
  crc : manifestCrcOk (batchHead m c) (batchEntries m c) = true
  checks : batchChecks m h c.o0 (batchHead m c) (batchEntries m c) = none
  gate : reachOpen m h (batchReads m c) (batchWrites c.o0 (batchHead m c)) = true

/-- A good batch takes its slots in hand. -/
theorem foyerBatch_does (hs : r.scope < 8) (h : readyFor s r 0x28 c = true) (hm : markDispatched s r = m)
    (g : BatchGood m r.scope c) : Does (.foyerBatch r none) s (batchStarted m r c) := by
  subst hm
  refine (guardUnit_of (decide_eq_true hs) _).trans (dispatch_go h ((waitWhile_of g.idle _).trans ?_))
  refine (if_neg (by simp [g.aligned, g.headWindow])).trans ((readOk_well g.headReads).trans ?_)
  refine (placed_of g.window _ _).trans ((readOk_well g.reads).trans ((need_of g.crc _ _ _).trans ?_))
  have hchecks := g.checks
  simp only [batchHead, batchEntries] at hchecks
  dsimp only
  rw [hchecks]
  exact reachGate_open g.gate

/-! ## DICT_LOAD (R426) -/

/-- The dictionary image that a DICT_LOAD names. -/
def dictImage (m : State) (c : Cmd) : List Byte := memBytes m c.o0 (dcTotal (memBytes m c.o0 64))

/-- A dictionary image stands in its hall's reach and reads well, with no dictionary being loaded and no batch with text
slots before it. -/
structure DictReads (m : State) (h : Nat) (c : Cmd) : Prop where
  idle : (earlierCmds m h).any (fun p => p.2.opcode = 0x29 ||
    (p.2.opcode = 0x28 && (List.range p.2.job.total).any fun i => slKind (mfSlot p.2.job.rec2 i) = 0)) = false
  headWindow : inWindow m h false c.o0 64 = true
  atLeast : 64 ≤ dcTotal (memBytes m c.o0 64)
  atMost : dcTotal (memBytes m c.o0 64) ≤ 0x4000000
  window : inWindow m h false c.o0 (dcTotal (memBytes m c.o0 64)) = true
  reads : readsWell m c.o0 (dcTotal (memBytes m c.o0 64)) = true

/-- The dictionary of a hall in force, shown loading until its command completes. -/
def dictInForce (m : State) (h : Nat) (d : List Byte) : State :=
  setF (setH m h { getH m h with dict := d }) (rFoyHallDict h) fFoyHallDictLoading 1

/-- A command that its chapter refuses in a state of its own ends there, as one that was never dispatched. -/
theorem dispatch_stopIn {op code check info : Nat} {t : State} {k : State → Cmd → Disp} (h : readyFor s r op c = true)
    (hk : k (markDispatched s r) c = .stopIn t code check info) :
    dispatch op r s k = .next (updCmd (endCmd t r code check 0 info) r fun c => { c with order := 0 }) := by
  rw [dispatch_ready h, hk]

/-- What the dispatch of a DICT_LOAD makes of an image that reads well. -/
def dictJudged (m : State) (r : CmdRef) (d : List Byte) : Disp :=
  if !dictCrcOk d then .stopIn (raiseF m rFoyEvents fFoyEventsDictRefused) 0x13 0 0
  else if !dictOk d then .stopIn (raiseF m rFoyEvents fFoyEventsDictRefused) 0x10 0 0
  else .go (succeed (dictInForce m r.scope d) r 0 0)

/-- Of an image that reads well, the tests before those of its contents let the command go on. -/
theorem dictLoad_judged {d : Disp} {u : State} (hs : r.scope < 8) (hm : markDispatched s r = m) (g : DictReads m r.scope c)
    (hd : dictJudged m r (dictImage m c) = d)
    (hu : ∀ k : State → Cmd → Disp, k (markDispatched s r) c = d → dispatch 0x29 r s k = .next u) :
    Does (.dictLoad r none) s u := by
  subst hm
  have hreads := g.reads
  simp only [readsWell, Bool.and_eq_true, Bool.not_eq_true', Option.isNone_iff_eq_none] at hreads
  obtain ⟨hzeroed, hgone⟩ := hreads
  refine (guardUnit_of (decide_eq_true hs) _).trans (hu _ ((waitWhile_of g.idle _).trans ?_))
  refine (if_neg (by simp [g.headWindow, g.window])).trans ?_
  refine (if_neg (by simp [g.headWindow, g.window, g.atLeast, g.atMost])).trans ((if_neg (by simp [hzeroed])).trans ?_)
  rw [hgone]
  exact hd

/-- A good image is put in force for its hall. -/
theorem dictLoad_good (hs : r.scope < 8) (h : readyFor s r 0x29 c = true) (hm : markDispatched s r = m)
    (g : DictReads m r.scope c) (hcrc : dictCrcOk (dictImage m c) = true) (hok : dictOk (dictImage m c) = true) :
    Does (.dictLoad r none) s (succeed (dictInForce m r.scope (dictImage m c)) r 0 0) :=
  dictLoad_judged hs hm g (by simp [dictJudged, hcrc, hok]) fun _ => dispatch_go h

/-- One whose CRC is wrong is refused. -/
theorem dictLoad_badCrc (hs : r.scope < 8) (h : readyFor s r 0x29 c = true) (hm : markDispatched s r = m)
    (g : DictReads m r.scope c) (hcrc : dictCrcOk (dictImage m c) = false) :
    Does (.dictLoad r none) s
      (updCmd (endCmd (raiseF m rFoyEvents fFoyEventsDictRefused) r 0x13 0 0 0) r fun c => { c with order := 0 }) :=
  dictLoad_judged hs hm g (by simp [dictJudged, hcrc]) fun _ => dispatch_stopIn h

end

/-- Settles O28: one theorem per outcome of the two commands. -/
theorem foyerCommands : Obligations.FoyerCommands := by
  unfold Obligations.FoyerCommands
  refine ⟨fun r c s hs h => ?_, fun r c s hs h => ?_⟩
  · intro m hall b es srcs hidle haligned hhead hwindow hreads hentries hcrc hchecks hgate
    exact foyerBatch_does hs h rfl ⟨hidle, haligned, hhead, hwindow, hreads, hentries, hcrc, hchecks, hgate⟩
  · intro m hall n d hidle hhead hleast hmost hwindow hreads
    have g : DictReads m r.scope c := ⟨hidle, hhead, hleast, hmost, hwindow, hreads⟩
    exact ⟨dictLoad_good hs h rfl g, dictLoad_badCrc hs h rfl g⟩

/-! ## Streams are opened and closed (R442, R444, R445, R459) -/

section
variable {s m : State} {r : CmdRef} {c : Cmd}

/-- The context that a Frieze command names. -/
def streamNum (c : Cmd) : Nat := bitsOf c.o0 0 8

/-- The record of a STREAM_OPEN reads well, is whole, and fits the Frieze, which has the context free. -/
structure StreamFits (m : State) (h : Nat) (c : Cmd) (b : List Byte) : Prop where
  record : memBytes m c.o1 128 = b
  aligned : c.o1 % 128 = 0
  window : inWindow m h false c.o1 128 = true
  reads : readsWell m c.o1 128 = true
  crc : crc32c (b.take 0x7C) = leAt b 0x7C 4
  free : (getStream m (streamNum c)).st = 0
  fields : streamFieldsOk b = true
  place : streamPlaceOk m h b = true
  work : workSize b ≤ srWorkLen b
  rate : rateOk m b = true
  encodes : srEnc b = true → floorOk b = true ∧
    Config.levelAdmits (if srAv1 b then 1 else 0) (srLevel b) (srW b) (srH b) (srNum b) (srDen b) = true

/-- A context opened for a hall with a record, its buffer filled for the initial delay (R458). -/
def openedStream (h : Nat) (b : List Byte) : Stream :=
  { st := 1, hall := h, bytes := b
    level := min (srBuf b * (90000 * srNum b)) (srBitrate b * srDelay b * srNum b) }

/-- The tests of an encoder's record let it pass. -/
theorem StreamFits.encoderTest {h : Nat} {b : List Byte} (g : StreamFits m h c b) :
    (!srEnc b || (Config.levelAdmits (if srAv1 b then 1 else 0) (srLevel b) (srW b) (srH b) (srNum b) (srDen b)
      && floorOk b)) = true := by
  cases henc : srEnc b with
  | false => rfl
  | true =>
    obtain ⟨hfloor, hlevel⟩ := g.encodes henc
    simp [hfloor, hlevel]

/-- A record that fits opens its context. -/
theorem streamOpen_does {b : List Byte} (hs : r.scope < 8) (h : readyFor s r 0x2A c = true) (hm : markDispatched s r = m)
    (g : StreamFits m r.scope c b) :
    Does (.streamOpen r none) s (succeed (setStream m (streamNum c) (openedStream r.scope b)) r 0 0) := by
  subst hm
  have hb := g.record
  subst hb
  refine (guardUnit_of (decide_eq_true hs) _).trans (dispatch_go h ?_)
  refine (if_neg (by simp [g.aligned, g.window])).trans ((readOk_well g.reads).trans ?_)
  refine (need_of (decide_eq_true g.crc) _ _ _).trans 
    ((need_of (Bool.and_eq_true_iff.2 ⟨decide_eq_true g.free, g.fields⟩) _ _ _).trans ?_)
  refine (placed_of g.place _ _).trans ((need_of (decide_eq_true g.work) _ _ _).trans ((need_of g.rate _ _ _).trans ?_))
  exact need_of g.encoderTest _ _ _

/-- An open context of the hall turns closing, and is freed once its commands have completed. -/
theorem streamClose_does (hs : r.scope < 8) (h : readyFor s r 0x2B c = true) (hm : markDispatched s r = m)
    (hopen : (getStream m (streamNum c)).st = 1) (hhall : (getStream m (streamNum c)).hall = r.scope) :
    Does (.streamClose r) s
      (closeSettle (setStream m (streamNum c) { getStream m (streamNum c) with st := 2 }) (streamNum c)) := by
  subst hm
  refine (guardUnit_of (decide_eq_true hs) _).trans (dispatch_go h ?_)
  exact need_of (Bool.and_eq_true_iff.2 ⟨decide_eq_true hopen, decide_eq_true hhall⟩) _ _ _

/-- A release sets the picture number below which the buffers of a decoding context are free. -/
theorem frzRelease_does (hs : r.scope < 8) (h : readyFor s r 0x2E c = true) (hm : markDispatched s r = m)
    (hctx : ctxIs m r.scope (streamNum c) false = true) :
    Does (.frzRelease r) s (succeed
      (setStream m (streamNum c) { getStream m (streamNum c) with releaseBelow := bitsOf c.o0 32 32 }) r 0 0) := by
  subst hm
  exact (guardUnit_of (decide_eq_true hs) _).trans (dispatch_go h (need_of hctx _ _ _))

/-! ## Streams are given data and pictures (R446, R447, R448, R455, R456) -/

/-- The bytes of the chunk of a STREAM_DATA. -/
def chunkLen (c : Cmd) : Nat := bitsOf c.o2 0 27

/-- The chunk of a STREAM_DATA reads well and is whole, for an open decoding context of its hall. -/
structure ChunkGood (m : State) (h : Nat) (c : Cmd) : Prop where
  ctx : ctxIs m h (streamNum c) false = true
  atLeast : 1 ≤ chunkLen c
  atMost : chunkLen c ≤ 0x4000000
  window : inWindow m h false c.o1 (chunkLen c) = true
  reads : readsWell m c.o1 (chunkLen c) = true
  crc : crc32c (memBytes m c.o1 (chunkLen c)) = bitsOf c.o3 0 32

/-- The pictures of a chunk that the context has neither recorded nor waiting. -/
def newPictures (v : Stream) (pics : List Nat) : List Nat :=
  (pics.map (· % 2 ^ 32)).filter fun p => (fmFind v.pics p).isNone && !(v.todo.any fun t => t.2.1 = p)

/-- The context with the new pictures of a chunk waiting, and the command with them in hand. -/
def picturesQueued (m : State) (r : CmdRef) (c : Cmd) (pics : List Nat) : State :=
  let v := getStream m (streamNum c)
  let new := newPictures v pics
  let t := setStream m (streamNum c) { v with todo := v.todo ++ new.map fun p => (r, p, m.clock) }
  updJob t r fun j => { j with total := new.length, reads := [(c.o1, chunkLen c)] }

/-- A good chunk gives its context its new pictures; with none its command has succeeded. -/
theorem streamData_does (pics : List Nat) (hs : r.scope < 8) (h : readyFor s r 0x2C c = true) (hm : markDispatched s r = m)
    (g : ChunkGood m r.scope c) :
    Does (.streamData r pics none) s
      (if (newPictures (getStream m (streamNum c)) pics).isEmpty then succeed (picturesQueued m r c pics) r 0 0
        else picturesQueued m r c pics) := by
  subst hm
  refine (guardUnit_of (decide_eq_true hs) _).trans (dispatch_go h ((need_of ?fields _ _ _).trans ?_))
  case fields => simp only [Bool.and_eq_true, decide_eq_true_eq]; exact ⟨⟨g.ctx, g.atLeast⟩, g.atMost⟩
  exact (placed_of g.window _ _).trans ((readOk_well g.reads).trans (need_of (decide_eq_true g.crc) _ _ _))

/-- Width and height of the picture of an ENCODE_PICTURE, and the bytes of its source frame. -/
def pictureW (c : Cmd) : Nat := bitsOf c.o2 0 16
def pictureH (c : Cmd) : Nat := bitsOf c.o2 16 16
def pictureBytes (m : State) (c : Cmd) : Nat :=
  sourceBytes (getStream m (streamNum c)).bytes (pictureW c) (pictureH c)

/-- The region table that an ENCODE_PICTURE names fails its CRC. -/
def tableTorn (m : State) (c : Cmd) : Bool := c.o3 ≠ 0 && !encRoiCrc (memBytes m c.o3 192)

/-- The region table of an ENCODE_PICTURE reads well, and where its CRC is right its fields are good. -/
structure TableReads (m : State) (h : Nat) (c : Cmd) : Prop where
  window : inWindow m h false c.o3 192 = true
  reads : readsWell m c.o3 192 = true
  fields : encRoiCrc (memBytes m c.o3 192) = true → encRoiOk (memBytes m c.o3 192) = true

/-- The source frame of an ENCODE_PICTURE reads well and fits its open encoding context, and its table, where it names one,
is readable. -/
structure PictureGood (m : State) (h : Nat) (c : Cmd) : Prop where
  ctx : ctxIs m h (streamNum c) true = true
  wide : 1 ≤ pictureW c
  widthFits : pictureW c ≤ srW (getStream m (streamNum c)).bytes
  high : 1 ≤ pictureH c
  heightFits : pictureH c ≤ srH (getStream m (streamNum c)).bytes
  window : inWindow m h false c.o1 (pictureBytes m c) = true
  reads : readsWell m c.o1 (pictureBytes m c) = true
  table : c.o3 ≠ 0 → TableReads m h c

/-- A torn table is counted. -/
def tableCounted (m : State) (h : Nat) (c : Cmd) : State := if tableTorn m c then countHall m h 0x0D0 1 else m

theorem tableCounted_clock (m : State) (h : Nat) (c : Cmd) : (tableCounted m h c).clock = m.clock := by
  unfold tableCounted
  split
  · exact countHall_clock ..
  · rfl

/-- The context with the next input picture waiting, and the command with it in hand. -/
def pictureQueued (m : State) (r : CmdRef) (c : Cmd) : State :=
  let v := getStream m (streamNum c)
  updJob (setStream (tableCounted m r.scope c) (streamNum c)
      { v with todo := v.todo ++ [(r, v.nextIn, m.clock)], nextIn := (v.nextIn + 1) % 2 ^ 32 }) r
    fun j => { j with total := 1, reads := [(c.o1, pictureBytes m c)] }

theorem PictureGood.fieldTest {h : Nat} (g : PictureGood m h c) :
    (ctxIs m h (streamNum c) true && decide (1 ≤ pictureW c) && decide (pictureW c ≤ srW (getStream m (streamNum c)).bytes)
      && decide (1 ≤ pictureH c) && decide (pictureH c ≤ srH (getStream m (streamNum c)).bytes)) = true := by
  simp only [Bool.and_eq_true, decide_eq_true_eq]
  exact ⟨⟨⟨⟨g.ctx, g.wide⟩, g.widthFits⟩, g.high⟩, g.heightFits⟩

theorem PictureGood.windowTest {h : Nat} (g : PictureGood m h c) :
    ¬(!inWindow m h false c.o1 (pictureBytes m c) || !(decide (c.o3 = 0) || inWindow m h false c.o3 192)) = true := by
  by_cases h3 : c.o3 = 0
  · simp [g.window, h3]
  · simp [g.window, (g.table h3).window]

/-- A table is read only where one is named, and reads well there. -/
theorem PictureGood.tableRead {h : Nat} (g : PictureGood m h c) (k : Disp) :
    readOk m r none false c.o3 (if c.o3 = 0 then 0 else 192) k = k := by
  by_cases h3 : c.o3 = 0
  · exact readOk_header (.inl h3) _ _
  · exact readOk_header (.inr (g.table h3).reads) _ _

/-- No table, a torn one and a good one let the picture go on. -/
theorem PictureGood.tableTest {h : Nat} (g : PictureGood m h c) :
    (decide (c.o3 = 0) || tableTorn m c || encRoiOk (memBytes m c.o3 192)) = true := by
  by_cases h3 : c.o3 = 0
  · simp [h3]
  · cases hcrc : encRoiCrc (memBytes m c.o3 192) with
    | false => simp [tableTorn, h3, hcrc]
    | true => simp [(g.table h3).fields hcrc]

/-- A good picture waits for a pipe. -/
theorem encodePicture_does (hs : r.scope < 8) (h : readyFor s r 0x2D c = true) (hm : markDispatched s r = m)
    (g : PictureGood m r.scope c) : Does (.encodePicture r none) s (pictureQueued m r c) := by
  subst hm
  refine (guardUnit_of (decide_eq_true hs) _).trans (dispatch_go h ?_)
  refine (need_of g.fieldTest _ _ _).trans ((if_neg g.windowTest).trans ((g.tableRead _).trans ?_))
  refine (readOk_well g.reads).trans ((need_of g.tableTest _ _ _).trans ?_)
  rw [pictureQueued, ← tableCounted_clock _ r.scope c]
  rfl

end

/-- Settles O27: one theorem per command; each passes its tests in turn. -/
theorem streamCommands : Obligations.StreamCommands := by
  unfold Obligations.StreamCommands
  refine ⟨fun r c s hs h => ?_, fun r c s hs h => streamClose_does hs h rfl, fun r pics c s hs h => ?_, fun r c s hs h => ?_,
    fun r c s hs h => frzRelease_does hs h rfl⟩
  · intro m hall k b haligned hwindow hreads hcrc hfree hfields hplace hwork hrate henc
    exact streamOpen_does hs h rfl ⟨rfl, haligned, hwindow, hreads, hcrc, hfree, hfields, hplace, hwork, hrate, henc⟩
  · intro m hall k n hctx hleast hmost hwindow hreads hcrc
    exact streamData_does pics hs h rfl ⟨hctx, hleast, hmost, hwindow, hreads, hcrc⟩
  · intro m hall k w ht v n hctx hw1 hw hh1 hh t hwindow hreads htable
    exact encodePicture_does hs h rfl ⟨hctx, hw1, hw, hh1, hh, hwindow, hreads,
      fun h3 => let ⟨hin, hread, hok⟩ := htable h3; ⟨hin, hread, hok⟩⟩

/-! ## Slots of a batch (R421, R422, R424) -/

section
variable {s u : State} {r : CmdRef} {c : Cmd} {slot : Nat} {src : List Byte}

/-- An unresolved slot of a running batch, with the media domain awake, which nothing that it writes stops once the slots
before it have been taken with it: `u` is the state then. -/
structure SlotTurn (s u : State) (r : CmdRef) (c : Cmd) (slot : Nat) : Prop where
  scope : r.scope < 8
  runs : runsAs s r 0x28 c = true
  inBatch : slot < c.job.total
  unresolved : c.job.done.contains slot = false
  awake : s.mediaAsleep = false
  taken : takeSlots s c slot = u
  writes : writesStuck u (slotSpans c slot) = none

/-- A slot in its turn goes on by its kind. -/
theorem slotResolve_turn (g : SlotTurn s u r c slot) (err : Option ReadErr) :
    exec (.slotResolve r slot err) s =
      .next (if slKind (mfSlot c.job.rec2 slot) = 2 then clipSlot u r c slot else sourceSlot u r c slot err) := by
  obtain ⟨hf, hd, ho⟩ := runsAs_cmd g.runs
  have hrun : ¬(c.opcode ≠ 0x28 || c.st ≠ .dispatched || decide (c.job.total ≤ slot) || c.job.done.contains slot
      || s.mediaAsleep) = true := by
    simp only [ho, hd, g.unresolved, g.awake, Nat.not_le.2 g.inBatch]
    decide
  refine (guardUnit_of (decide_eq_true g.scope) _).trans ?_
  rw [hf]
  refine (if_neg hrun).trans ?_
  rw [g.taken]
  dsimp only
  rw [g.writes]

/-- A clip slot is cut from its stream. -/
theorem slotResolve_clip (g : SlotTurn s u r c slot) (hk : slKind (mfSlot c.job.rec2 slot) = 2) :
    Does (.slotResolve r slot none) s (clipSlot u r c slot) :=
  (slotResolve_turn g none).trans (congrArg Host.Outcome.next (if_pos hk))

/-- The source of a slot of text or of a picture: its bytes, readable where it names any. -/
structure SourceReads (u : State) (r : CmdRef) (e src : List Byte) : Prop where
  bytes : memBytes u (slSrc e) (slLen e) = src
  reads : slLen e = 0 ∨ readable u r.scope (slSrc e) (slLen e) = .ok ()

/-- A slot of text or of a picture whose source reads goes on by its CRC and its kind. -/
theorem sourceSlot_reads (h : SourceReads u r (mfSlot c.job.rec2 slot) src) :
    sourceSlot u r c slot none =
      if slCrcEn (mfSlot c.job.rec2 slot) && crc32c src ≠ slCrc (mfSlot c.job.rec2 slot) then holeSlot u r c slot 2
      else if slKind (mfSlot c.job.rec2 slot) = 0 then textSlot u r c slot src
      else pictureSlot u r c slot src := by
  obtain ⟨rfl, hreads⟩ := h
  unfold sourceSlot
  rcases hreads with h0 | hr
  · simp [h0]
  · simp [hr]

section
variable (g : SlotTurn s u r c slot) (hk : slKind (mfSlot c.job.rec2 slot) ≠ 2)
  (h : SourceReads u r (mfSlot c.job.rec2 slot) src)
include g hk h

/-- A slot in its turn that is no clip goes on with its source. -/
theorem slotResolve_source :
    exec (.slotResolve r slot none) s = .next
      (if slCrcEn (mfSlot c.job.rec2 slot) && crc32c src ≠ slCrc (mfSlot c.job.rec2 slot) then holeSlot u r c slot 2
      else if slKind (mfSlot c.job.rec2 slot) = 0 then textSlot u r c slot src
      else pictureSlot u r c slot src) :=
  (slotResolve_turn g none).trans (congrArg Host.Outcome.next ((if_neg hk).trans (sourceSlot_reads h)))

/-- One whose CRC is wrong becomes a hole. -/
theorem slotResolve_hole
    (hcrc : (slCrcEn (mfSlot c.job.rec2 slot) && decide (crc32c src ≠ slCrc (mfSlot c.job.rec2 slot))) = true) :
    Does (.slotResolve r slot none) s (holeSlot u r c slot 2) :=
  (slotResolve_source g hk h).trans (congrArg Host.Outcome.next (if_pos hcrc))

/-- Text is tokenised. -/
theorem slotResolve_text
    (hcrc : (slCrcEn (mfSlot c.job.rec2 slot) && decide (crc32c src ≠ slCrc (mfSlot c.job.rec2 slot))) = false)
    (h0 : slKind (mfSlot c.job.rec2 slot) = 0) : Does (.slotResolve r slot none) s (textSlot u r c slot src) :=
  (slotResolve_source g hk h).trans
    (congrArg Host.Outcome.next ((if_neg (Bool.eq_false_iff.1 hcrc)).trans (if_pos h0)))

/-- A picture is converted. -/
theorem slotResolve_picture
    (hcrc : (slCrcEn (mfSlot c.job.rec2 slot) && decide (crc32c src ≠ slCrc (mfSlot c.job.rec2 slot))) = false)
    (h0 : slKind (mfSlot c.job.rec2 slot) ≠ 0) : Does (.slotResolve r slot none) s (pictureSlot u r c slot src) :=
  (slotResolve_source g hk h).trans
    (congrArg Host.Outcome.next ((if_neg (Bool.eq_false_iff.1 hcrc)).trans (if_neg h0)))

end
end

/-! ## Pictures of the pipes (R441, R443, R448, R450, R454 to R458) -/

section
variable {s : State} {pipe : Nat} {x : Pipe}

/-- The picture that a pipe takes is a random-access point: forced, asked for, or due (R455). -/
def startsRap (pipe : Nat) (v : Stream) (c : Cmd) : Bool :=
  decide (8 ≤ pipe) && (v.forceRap || bitOf c.o0 8 || decide (srGop v.bytes ≤ v.sinceRap))

/-- A pipe holds the first picture that waits in a context. -/
def pictureTaken (s : State) (pipe k : Nat) (v : Stream) (r : CmdRef) (p : Nat) (rap : Bool) : State :=
  let u := setStream s k { v with
    todo := v.todo.drop 1, sinceRap := if rap then 1 else v.sinceRap + 1, forceRap := v.forceRap && !rap }
  { u with frz := { u.frz with
    pipes := fmPut u.frz.pipes pipe { ctx := k, cmd := r, pic := p, rap := rap, start := v.outWrite } } }

/-- A free pipe, with the media domain awake, takes the picture that its choice names. -/
theorem pipePictureStart_takes {k p o : Nat} {v : Stream} {r : CmdRef} {c : Cmd} (hp : pipe < 10)
    (hfree : (fmFind s.frz.pipes pipe).isSome = false) (hawake : s.mediaAsleep = false)
    (hpick : pipePick (pipeChoices s (decide (8 ≤ pipe))) = some (k, v, r, p, o)) (hf : findCmd s r = some c) :
    Does (.pipePictureStart pipe) s (pictureTaken s pipe k v r p (startsRap pipe v c)) := by
  refine (guardUnit_of (decide_eq_true hp) _).trans ((if_neg (by simp [hfree, hawake])).trans ?_)
  rw [hpick]
  dsimp only
  rw [hf]
  rfl

/-- Writes of a pipe that nothing stops are made. -/
theorem pipeWrites_open {spans : List (Nat × Nat)} (h : writesStuck s spans = none) (go : State) :
    pipeWrites s x spans go = go := by
  rw [pipeWrites, h]

/-! ### Decoding -/

/-- The boxes inside which a picture of a context is produced, where the context has regions of interest (R454). -/
def producedBoxes (v : Stream) (pic : Nat) (p : DecPic) : List (Nat × Nat × Nat × Nat) :=
  if srRoiWait v.bytes then (roiBoxes ((fmFind v.roi pic).getD [])).map fun b =>
    (b.1, b.2.1, min b.2.2.1 p.width, min b.2.2.2 p.height) else []

/-- A context that holds a picture decoded with its references. -/
def decodedStream (v : Stream) (pic : Nat) (p : DecPic) : Stream :=
  { v with
    wait := v.wait && !p.rap, endRap := if v.wait && p.rap then some pic else v.endRap
    missing := satAdd 16 v.missing 0, bufs := fmPut v.bufs (bufIndex v.bytes pic) pic
    pics := fmPut v.pics pic { st := 0, width := p.width, height := p.height, depth := p.depth }
    roi := fmErase v.roi pic }

/-- Such a picture written to its buffer, with its record. -/
def pictureDecoded (s : State) (x : Pipe) (p : DecPic) (ref : Nat) : State :=
  let v := getStream s x.ctx
  let boxes := producedBoxes v x.pic p
  putRec (setStream (putPicture s (bufAddr v.bytes x.pic) p boxes) x.ctx (decodedStream v x.pic p)) x.ctx
    (recBytes x.pic 0 p.grain (!boxes.isEmpty) false p.rap p.depth 0 0 p.width p.height p.bits ref p.cycles 0)

/-- A pipe holds a decoded picture with all its references, whose buffer is free and whose writes nothing stops. -/
structure DecodeLands (s : State) (pipe : Nat) (x : Pipe) (p : DecPic) (ref : Nat) : Prop where
  pipeNum : pipe < 8
  held : fmFind s.frz.pipes pipe = some x
  state : decodeState (getStream s x.ctx) p = (0, ref)
  released : unreleased (getStream s x.ctx) x.pic = false
  complete : p.missing = []
  writes : writesStuck s [(bufAddr (getStream s x.ctx).bytes x.pic,
    picBytes { width := p.width, height := p.height, depth := p.depth }), recSpan (getStream s x.ctx)] = none

/-- It is written with its record, and frees its pipe. -/
theorem decodePictureDone_lands {p : DecPic} {ref : Nat} (g : DecodeLands s pipe x p ref) :
    Does (.decodePictureDone pipe p) s (picRecorded (freePipe (pictureDecoded s x p ref) pipe) x.cmd x.pic) := by
  refine (guardUnit_of (decide_eq_true g.pipeNum) _).trans ?_
  rw [g.held]
  dsimp only
  rw [g.state]
  refine (if_neg (by simp [g.released])).trans (congrArg Host.Outcome.next ?_)
  refine (pipeWrites_open g.writes _).trans ?_
  simp [g.released, g.complete, pictureDecoded, decodedStream, producedBoxes]

/-! ### Encoding -/

/-- A picture of a pipe with a slice more: the rows it codes, and the bits that all its slices have. -/
def sliceRows (s : State) (x : Pipe) : Nat :=
  min (x.rows + srSliceRows (getStream s x.ctx).bytes) (codeRows (encSize s x).2)
def sliceBits (x : Pipe) (bytes : List Byte) : Nat := x.bits + 8 * bytes.length
def setPipe (s : State) (pipe : Nat) (x : Pipe) : State :=
  { s with frz := { s.frz with pipes := fmPut s.frz.pipes pipe x } }

/-- A slice of an encoded picture comes with rows left to code, within its allowance. -/
structure SliceFits (s : State) (pipe : Nat) (x : Pipe) (bytes : List Byte) : Prop where
  pipeLow : 8 ≤ pipe
  pipeHigh : pipe < 10
  held : fmFind s.frz.pipes pipe = some x
  rowsLeft : x.rows < codeRows (encSize s x).2
  allowed : srRc (getStream s x.ctx).bytes = 0 ∨
    sliceBits x bytes ≤ allowance (getStream s x.ctx) (encSize s x).1 (encSize s x).2 x.rap (sliceRows s x)

variable {bytes : List Byte}

theorem SliceFits.unit (g : SliceFits s pipe x bytes) : (decide (8 ≤ pipe) && decide (pipe < 10)) = true := by
  simp [g.pipeLow, g.pipeHigh]

/-- The test of rows and bits lets a slice that fits pass. -/
theorem SliceFits.test (g : SliceFits s pipe x bytes) :
    ¬(decide (codeRows (encSize s x).2 ≤ x.rows) || (decide (srRc (getStream s x.ctx).bytes ≠ 0) &&
      decide (allowance (getStream s x.ctx) (encSize s x).1 (encSize s x).2 x.rap (sliceRows s x) < sliceBits x bytes))) = true := by
  rcases g.allowed with h | h
  · simp [g.rowsLeft, h]
  · simp [g.rowsLeft, h]

/-- A slice that fits adds its rows and bytes. -/
theorem encodeSliceDone_adds (g : SliceFits s pipe x bytes) (hsub : srSub (getStream s x.ctx).bytes = false) :
    Does (.encodeSliceDone pipe bytes) s
      (setPipe s pipe { x with rows := sliceRows s x, bits := sliceBits x bytes, data := x.data ++ bytes }) := by
  refine (guardUnit_of g.unit _).trans ?_
  rw [g.held]
  exact (if_neg g.test).trans (if_pos (by simp [hsub]))

/-- Where slices are delivered as they come, its bytes and its record go to the ring. -/
theorem encodeSliceDone_delivers (g : SliceFits s pipe x bytes) (hsub : srSub (getStream s x.ctx).bytes = true)
    (hroom : bytes.length + 16 ≤ outRoom (getStream s x.ctx))
    (hwrites : writesStuck s (outSpans (getStream s x.ctx) (bytes.length + 16)) = none) :
    Does (.encodeSliceDone pipe bytes) s
      (setPipe (putOut s x.ctx
          (bytes ++ sliceRec bytes.length x.pic x.rows (decide (sliceRows s x = codeRows (encSize s x).2)) bytes))
        pipe { x with rows := sliceRows s x, bits := sliceBits x bytes }) := by
  refine (guardUnit_of g.unit _).trans ?_
  rw [g.held]
  refine (if_neg g.test).trans ((if_neg (by simp [hsub])).trans ((if_neg hroom.not_gt).trans ?_))
  exact congrArg Host.Outcome.next (pipeWrites_open hwrites _)

/-- What the end of an encoded picture puts on the ring: its data where no slice has gone before, and filler. -/
def pictureOut (s : State) (x : Pipe) (filler : List Byte) : List Byte :=
  (if srSub (getStream s x.ctx).bytes then [] else x.data ++ sliceRec x.data.length x.pic 0 true x.data) ++ filler

/-- An encoded picture on the ring, its bits spent, with its record. -/
def pictureEncoded (s : State) (x : Pipe) (qp cycles : Nat) (filler : List Byte) : State :=
  let v := getStream s x.ctx
  let u := putOut s x.ctx (pictureOut s x filler)
  let u := setStream u x.ctx (spendBits (getStream u x.ctx) x.bits)
  putRec u x.ctx (recBytes x.pic 0 false false false x.rap (srDepth v.bytes) 0 qp (encSize s x).1 (encSize s x).2 x.bits 0
    cycles x.start)

/-- An encoded picture has all its rows, with the filler of exactly the shortfall and room for its output. -/
structure EncodeLands (s : State) (pipe : Nat) (x : Pipe) (filler : List Byte) : Prop where
  pipeLow : 8 ≤ pipe
  pipeHigh : pipe < 10
  held : fmFind s.frz.pipes pipe = some x
  coded : codeRows (encSize s x).2 ≤ x.rows
  fills : filler.length = ceilDiv (shortfall (getStream s x.ctx) x.bits) 8
  room : (pictureOut s x filler).length ≤ outRoom (getStream s x.ctx)
  writes : writesStuck s (recSpan (getStream s x.ctx) :: outSpans (getStream s x.ctx) (pictureOut s x filler).length) = none

/-- The test of rows and filler lets it pass. -/
theorem EncodeLands.test {filler : List Byte} (g : EncodeLands s pipe x filler) :
    ¬(decide (x.rows < codeRows (encSize s x).2)
      || decide (filler.length ≠ ceilDiv (shortfall (getStream s x.ctx) x.bits) 8)
      || decide (codeRows (encSize s x).2 < 0)) = true := by
  simp [g.coded, g.fills]

/-- It is written with its record, and frees its pipe. -/
theorem encodePictureDone_lands {filler : List Byte} (qp cycles : Nat) (g : EncodeLands s pipe x filler) :
    Does (.encodePictureDone pipe 0 qp cycles filler) s
      (picRecorded (freePipe (pictureEncoded s x qp cycles filler) pipe) x.cmd x.pic) := by
  refine (guardUnit_of (by simp [g.pipeLow, g.pipeHigh]) _).trans ?_
  rw [g.held]
  refine (if_neg g.test).trans ((if_neg g.room.not_gt).trans ?_)
  exact congrArg Host.Outcome.next (pipeWrites_open g.writes _)

/-- OUT_READ of the selected context moves. -/
theorem outReadWrite_moves (v : Word) (hh : s.lnt.heldCode = none)
    (hst : (getStream s (getF s rFrzCtxSel fFrzCtxSelCtx)).st ≠ 0) :
    Does (.outReadWrite v) s (setStream s (getF s rFrzCtxSel fFrzCtxSelCtx)
      { getStream s (getF s rFrzCtxSel fFrzCtxSelCtx) with outRead := v.toNat }) :=
  (whileServed_of hh _).trans (congrArg Host.Outcome.next (if_neg hst))

end

/-- Settles O48: one theorem per way in which a slot or a picture goes on. -/
theorem mediaPipes : Obligations.MediaPipes := by
  unfold Obligations.MediaPipes
  refine ⟨fun r slot c s hs hruns hin hdone hawake => ?_, fun pipe k p o v r c s hp => pipePictureStart_takes hp,
    fun pipe ref x p s hp hheld => ?_, fun pipe x bytes s hlow hhigh hheld => ?_,
    fun pipe qp cycles x filler s hlow hhigh hheld => ?_, fun v s hh => outReadWrite_moves v hh⟩
  · intro u e src hwrites
    have g : SlotTurn s u r c slot := ⟨hs, hruns, hin, hdone, hawake, rfl, hwrites⟩
    refine ⟨slotResolve_clip g, fun hk hreads => ?_⟩
    have h : SourceReads u r e src := ⟨rfl, hreads⟩
    exact ⟨slotResolve_hole g hk h, slotResolve_text g hk h, slotResolve_picture g hk h⟩
  · intro v hstate hreleased hcomplete hwrites
    exact decodePictureDone_lands ⟨hp, hheld, hstate, hreleased, hcomplete, hwrites⟩
  · intro v w h rows bits hrows hallowed put
    have g : SliceFits s pipe x bytes := ⟨hlow, hhigh, hheld, hrows, hallowed⟩
    exact ⟨encodeSliceDone_adds g, encodeSliceDone_delivers g⟩
  · intro v w h out hcoded hfiller hroom hwrites
    exact encodePictureDone_lands qp cycles ⟨hlow, hhigh, hheld, hcoded, hfiller, hroom, hwrites⟩

end Sys2Proof.Machine
end

section
/-! The family of 17_mezzanine_interrupts.md: the Mezzanine cores (O49). -/

namespace Sys2Proof.Machine

section
variable {s u : State} {core ce a : Nat}

/-! ## Instructions (R493 to R496) -/

/-- A core runs; `u` is the state in which its next instruction is fetched. -/
structure CoreTurn (s u : State) (core ce : Nat) : Prop where
  coreNum : core < 16
  runs : coreRuns s core = true
  state : cacheCe (latchRaised s) core ce = u

/-- Bytes of the instruction that stands at an address: 4 where the low bits of its first byte are both 1, else 2. -/
def insBytes (u : State) (a : Nat) : Nat := if leNat (cacheBytes u a 1) % 4 = 3 then 4 else 2

/-- A core's lines of an instruction brought in, and its word executed. -/
def insExecuted (u : State) (core a : Nat) : State :=
  let v := (linesOf a (insBytes u a)).foldl (fillLine core) u
  coreWord core (BitVec.ofNat 32 (leNat (cacheBytes v a (insBytes u a)))) none v

/-- A fetch whose first half lies out of reach. -/
def fetchOutside (u : State) (a : Nat) : Prop := coreReach u a 2 = false ∨ inRegSpace a = true

theorem fetchOutside_iff : fetchOutside u a ↔ (!coreReach u a 2 || inRegSpace a) = true := by
  simp [fetchOutside]

/-- A fetch whose page is absent traps with cause 12. -/
theorem coreInstruction_noPage (g : CoreTurn s u core ce) (hf : Config.coreFetch (getCore u core) = none) :
    Does (.coreInstruction core ce none none) s (coreTrap u core 12 (getCore u core).pc.toNat) := by
  refine (guardUnit_of (decide_eq_true g.coreNum) _).trans ((if_neg (by simp [g.runs])).trans ?_)
  rw [g.state]
  dsimp only
  rw [hf]

/-- A fetch with an address goes by whether the core reaches it, it is zeroed, and the core reaches all of it. -/
theorem coreInstruction_fetch (g : CoreTurn s u core ce) (hf : Config.coreFetch (getCore u core) = some a) :
    exec (.coreInstruction core ce none none) s =
      if !coreReach u a 2 || inRegSpace a then .next (coreTrap (coreMissed u core a 2 true) core 1 a)
      else if unzeroed u a 4 then .next u
      else if !coreReach u a (insBytes u a) then .next (coreTrap (coreMissed u core a (insBytes u a) true) core 1 a)
      else .next (insExecuted u core a) := by
  refine (guardUnit_of (decide_eq_true g.coreNum) _).trans ((if_neg (by simp [g.runs])).trans ?_)
  rw [g.state]
  dsimp only
  rw [hf]
  rfl

/-- What a running core makes of its next instruction. -/
theorem coreInstruction_does (g : CoreTurn s u core ce) :
    Does (.coreInstruction core ce none none) s
      (match Config.coreFetch (getCore u core) with
      | none => coreTrap u core 12 (getCore u core).pc.toNat
      | some a =>
        if coreReach u a 2 = false ∨ inRegSpace a = true then coreTrap (coreMissed u core a 2 true) core 1 a
        else if unzeroed u a 4 then u
        else if coreReach u a (insBytes u a) then insExecuted u core a
        else coreTrap (coreMissed u core a (insBytes u a) true) core 1 a) := by
  cases hf : Config.coreFetch (getCore u core) with
  | none => exact coreInstruction_noPage g hf
  | some a =>
    refine (coreInstruction_fetch g hf).trans ?_
    by_cases hout : fetchOutside u a
    · exact (if_pos (fetchOutside_iff.1 hout)).trans (congrArg Host.Outcome.next (if_pos hout).symm)
    refine (if_neg (mt fetchOutside_iff.2 hout)).trans (Eq.trans ?_ (congrArg Host.Outcome.next (if_neg hout).symm))
    cases hz : unzeroed u a 4 with
    | true => rfl
    | false =>
      cases hr : coreReach u a (insBytes u a) with
      | true => rfl
      | false => rfl

/-! ## Timers, watchdogs and retirement (R496, R500 to R502) -/

/-- A working core's timer reaches its compare value. -/
theorem coreTimer_does (hc : core < 16) (hw : coreWorking s core = true) :
    let k := getCore s core
    Does (.coreTimer core) s (setCore s core { k with mtime := if k.mtime ≤ k.mtimecmp then k.mtimecmp else k.mtime }) :=
  (guardUnit_of (decide_eq_true hc) _).trans (congrArg Host.Outcome.next (if_pos hw))

/-- A kick clears a working core's count of missed periods. -/
theorem coreKick_does (hc : core < 16) (hh : s.lnt.heldCode = none) (hw : coreWorking s core = true) :
    Does (.coreKick core) s (setCore s core { getCore s core with missed := 0 }) :=
  (guardUnit_of (decide_eq_true hc) _).trans ((whileServed_of hh _).trans (congrArg Host.Outcome.next (if_pos hw)))

/-- A retire retires. -/
theorem coreRetire_does (hc : core < 16) (hh : s.lnt.heldCode = none) (bad : List Nat) :
    Does (.coreRetire core bad) s (retireCore s core 2 bad) :=
  (guardUnit_of (decide_eq_true hc) _).trans (whileServed_of hh _)

/-- A missed watchdog period counted, and raised. -/
def periodMissed (s : State) (core n : Nat) : State :=
  raiseF (setCore s core { getCore s core with missed := n }) rMezEvents fMezEventsWdog

/-- A first missed period is counted and raised. -/
theorem coreWatchdogExpiry_first (hc : core < 16) (hw : coreWorking s core = true) (hn : (getCore s core).missed = 0)
    (bad : List Nat) : Does (.coreWatchdogExpiry core bad) s (periodMissed s core 1) := by
  refine (guardUnit_of (decide_eq_true hc) _).trans ((if_neg (by simp [hw])).trans (congrArg Host.Outcome.next ?_))
  rw [hn]
  exact if_neg (by simp)

/-- A second one in a row retires the core where AUTO_RETIRE is set. -/
theorem coreWatchdogExpiry_second (hc : core < 16) (hw : coreWorking s core = true) (hn : 1 ≤ (getCore s core).missed)
    (bad : List Nat) (hauto : isF (periodMissed s core 2) rMezCtl fMezCtlAutoRetire = true) :
    Does (.coreWatchdogExpiry core bad) s (retireCore (periodMissed s core 2) core 1 bad) := by
  have htwo : min ((getCore s core).missed + 1) 2 = 2 := by omega
  refine (guardUnit_of (decide_eq_true hc) _).trans ((if_neg (by simp [hw])).trans (congrArg Host.Outcome.next ?_))
  dsimp only
  rw [htwo]
  exact if_pos (Bool.and_eq_true_iff.2 ⟨decide_eq_true hn, hauto⟩)

end

/-- Settles O49: what a running core makes of an instruction, and one theorem per other event of a core. -/
theorem mezzanineCores : Obligations.MezzanineCores := by
  unfold Obligations.MezzanineCores
  refine ⟨fun core ce s hc hr => coreInstruction_does ⟨hc, hr, rfl⟩, fun core bad s hc => ?_,
    fun s hh => whileServed_of hh _⟩
  exact ⟨fun hh => ⟨coreRetire_does hc hh bad, coreKick_does hc hh⟩, fun hw => ⟨coreTimer_does hc hw,
    fun hn => coreWatchdogExpiry_first hc hw hn bad, fun hn => coreWatchdogExpiry_second hc hw hn bad⟩⟩

end Sys2Proof.Machine
end

section
/-! The family of 18_power_clocks_reset.md: what starts a reset and what start-up does (O51), how flights and the media domain
sleep and wake (O53), temperatures and the core rail (O54). -/

namespace Sys2Proof.Machine

/-! ## Triggers of a reset (R516, R528, R529, R534, R563, R593, R603, R604) -/

section
variable {s : State}

/-- Power-on of an unpowered rail makes a cold reset of cause 0; the straps are sampled, the LFSR is seeded. -/
theorem powerOn_does (straps : Nat) (h : s.lnt.railUp = false) :
    let v := (takeFree s).1
    let u := coldReset { (takeFree s).2 with lnt := { (takeFree s).2.lnt with railUp := true } } 0
    Does (.powerOn straps) s { u with lnt := { u.lnt with
      lfsr := v.toNat % 2 ^ 16, sealOut := bitOf v.toNat 0, mism := 0, matched := 0, armed := true
      strapPins := straps % 16, straps := straps % 16, tap := 8 } } :=
  if_neg (by simp [h])

/-- PG_IO falling makes a cold reset of cause 1. -/
theorem powerGoodFall_io (hr : s.lnt.railUp = true) (hio : s.lnt.pgIo = true) :
    Does (.powerGoodFall true false) s (coldReset { s with lnt := { s.lnt with pgIo := false } } 1) := by
  refine congrArg Host.Outcome.next ((if_pos (by simp [hr, hio])).trans ?_)
  simp [hio]

/-- The cold-reset input makes one of cause 2. -/
theorem coldResetInput_does (hr : s.lnt.railUp = true) (hc : s.lnt.coldRst = false) :
    Does .coldResetInput s (coldReset { s with lnt := { s.lnt with coldRst := true } } 2) :=
  congrArg Host.Outcome.next (if_pos (by simp [hr, hc]))

/-- PG_CORE rising while PG_IO is low holds the device with code 2. -/
theorem powerGoodRise_coreAlone (hr : s.lnt.railUp = true) (hcore : s.lnt.pgCore = false) (hio : s.lnt.pgIo = false) :
    Does (.powerGoodRise false true) s (holdReset { s with lnt := { s.lnt with pgCore := true } } 2) := by
  refine congrArg Host.Outcome.next ((if_pos (by simp [hr, hcore, hio])).trans ?_)
  simp [hcore, hio]

/-- Loss of the Lantern rail stops everything. -/
theorem lanternRailLoss_does (hr : s.lnt.railUp = true) :
    Does .lanternRailLoss s { wipe s with lnt := { (wipe s).lnt with railUp := false } } :=
  congrArg Host.Outcome.next (if_pos hr)

/-- Loss of the reference shows. -/
theorem referenceClockLoss_does (hr : s.lnt.railUp = true) : Does .referenceClockLoss s (raiseF s rLntStatus fLntStatusOsc) :=
  congrArg Host.Outcome.next (if_pos hr)

/-- LNT_RESET.COLD makes a cold reset of cause 3. -/
theorem lntColdReset_does (h : lntWritable s = true) : Does .lntColdReset s (coldReset s 3) :=
  congrArg Host.Outcome.next (if_pos h)

/-- The enabled watchdog of the Lantern, with a working core, asks for a warm reset of cause 6. -/
theorem lanternWatchdogExpiry_does (he : isF s rLntWdog fLntWdogEnable = true) (hw : (workingCores s).isEmpty = false) :
    Does .lanternWatchdogExpiry s (warmReset s 6) :=
  congrArg Host.Outcome.next (if_pos (by simp [he, hw]))

/-- A device that may shut down: powered, not held, with no reset and no shut-down under way. -/
structure MayShutDown (s : State) : Prop where
  stopping : s.lnt.stopping = false
  off : s.lnt.off = false
  warm : s.lnt.warm = false
  rail : s.lnt.railUp = true
  served : s.lnt.heldCode = none

theorem MayShutDown.test (g : MayShutDown s) :
    ¬(s.lnt.stopping || s.lnt.off || s.lnt.warm || !s.lnt.railUp || s.lnt.heldCode.isSome) = true := by
  simp [g.stopping, g.off, g.warm, g.rail, g.served]

/-- A shut-down with a command incomplete is refused. -/
theorem lntShutdown_refused (g : MayShutDown s)
    (hwork : (List.range 9).any (fun k => !(incompleteCmds s k).isEmpty) = true) :
    Does .lntShutdown s (raiseF s rLntEvents fLntEventsRefused) :=
  (if_neg g.test).trans (if_pos hwork)

/-! ## Stages of start-up (R535, R536) -/

/-- A start-up goes on: the rail is up, the device neither off nor held. -/
structure StartsUp (s : State) : Prop where
  rail : s.lnt.railUp = true
  off : s.lnt.off = false
  served : s.lnt.heldCode = none

variable {bc bb : List Nat} {tr : List (Nat × Training)} {us : List CmdRef}

/-- A stage before the last lets the start-up pass its first test. -/
theorem StartsUp.test (g : StartsUp s) (hn : stageOf s ≠ 0xF) :
    ¬(!s.lnt.railUp || s.lnt.off || s.lnt.heldCode.isSome || stageOf s = 0xF) = true := by
  simp [g.rail, g.off, g.served, hn]

/-- A stage that fails with one of its codes, but the loss of the reference, holds the device with it. -/
theorem startUpStage_fails {code : Nat} (g : StartsUp s) (hn : stageOf s ≠ 0xF) (h3 : code ≠ 3)
    (hcode : stageCode (stageOf s) code = true) : Does (.startUpStage (some code) bc tr bb us) s (holdReset s code) := by
  refine (if_neg (g.test hn)).trans (congrArg Host.Outcome.next ((if_pos hcode).trans ?_))
  rw [if_neg h3]

/-- The work of a stage, where nothing fails. -/
def stageWork (n : Nat) (bc : List Nat) (tr : List (Nat × Training)) (bb : List Nat) (us : List CmdRef) (s : State) : State :=
  match n with
  | 0 => stage0 s
  | 1 => if isF s rLntStatus fLntStatusOsc then holdReset s 3 else if s.lnt.pgIo && s.lnt.pgCore then stage1 s else s
  | 2 => stage2 s bc
  | 3 => stage3 s
  | 4 => if s.lnt.perst then s else serviceBegins s
  | 5 => if s.lnt.warm then warm6 s tr else stage5 s tr
  | 6 => if s.lnt.warm then warm7 s else stage6 s
  | 7 => setStage (replay s us) 8
  | _ => if s.lnt.hot then s else stage8 s bb

/-- A stage that does not fail does its work. -/
theorem startUpStage_works {n : Nat} (g : StartsUp s) (hn : stageOf s = n) (hlast : n ≠ 0xF) :
    Does (.startUpStage none bc tr bb us) s (stageWork n bc tr bb us s) := by
  refine (if_neg (g.test (by rw [hn]; exact hlast))).trans ?_
  rw [hn]
  match n with
  | 0 | 2 | 3 | 4 | 5 | 6 | 7 => rfl
  | 1 => exact (apply_ite Host.Outcome.next _ _ _).symm
  | n + 8 => rfl

end

/-- Settles O51: one theorem per trigger, and the work of each stage. -/
theorem resetSources : Obligations.ResetSources := by
  unfold Obligations.ResetSources
  refine ⟨fun straps s => powerOn_does straps, fun s hr => ?_, fun s => ?_, fun bc bb tr us s hr hoff hh => ?_⟩
  · exact ⟨powerGoodFall_io hr, coldResetInput_does hr, powerGoodRise_coreAlone hr, lanternRailLoss_does hr,
      referenceClockLoss_does hr⟩
  · exact ⟨lntColdReset_does, rfl, lanternWatchdogExpiry_does, rfl,
      fun hstop hoff hwarm hrail hh => lntShutdown_refused ⟨hstop, hoff, hwarm, hrail, hh⟩⟩
  · have g : StartsUp s := ⟨hr, hoff, hh⟩
    have works (n : Nat) (hlast : n ≠ 0xF) (hn : stageOf s = n) :
        Does (.startUpStage none bc tr bb us) s (stageWork n bc tr bb us s) := startUpStage_works g hn hlast
    refine ⟨fun code => startUpStage_fails g, works 0 (by decide), fun hn hosc hio hcore => ?_, works 2 (by decide),
      works 3 (by decide), fun hn hperst => ?_, fun hn hperst => ?_, works 5 (by decide), works 6 (by decide),
      works 7 (by decide), fun hn hhot => ?_⟩
    · simpa [stageWork, hosc, hio, hcore] using works 1 (by decide) hn
    · simpa [stageWork, hperst] using works 4 (by decide) hn
    · simpa [stageWork, hperst] using works 4 (by decide) hn
    · simpa [stageWork, hhot] using works 8 (by decide) hn

/-! ## Flights and the media domain (R519 to R524, R533) -/

section
variable {s : State} {hall f us h dom : Nat}

/-- A hall may sleep: an idle time is set, no command or segment of it waits, no wake is due, all its flights run. -/
structure HallIdle (s : State) (hall : Nat) : Prop where
  idleTime : flightIdle s ≠ 0
  commands : (incompleteCmds s hall).isEmpty = true
  segments : hallSegments s hall = false
  wake : (getH s hall).wake = false
  running : (workingFlights s hall).any (fun f => fltState s f ≠ 2) = false

/-- Its flights enter sleep together. -/
theorem flightSleep_enters (hh : hall < 8) (g : HallIdle s hall) :
    Does (.flightSleep hall) s ((workingFlights s hall).foldl (fun s f => setFlt s f 3) s) :=
  (guardUnit_of (decide_eq_true hh) _).trans
    (if_neg (by rw [g.running, g.commands, g.segments, g.wake]; simp [g.idleTime]))

/-- The entry done, a flight sleeps with its PLL unlocked. -/
theorem sleepEntryDone_sleeps (hf : f < 16) (hst : fltState s f = 3) :
    Does (.sleepEntryDone f) s (setF (setFlt s f 4) (rFltPllCtl f) fFltPllCtlLocked 0) :=
  (guardUnit_of (decide_eq_true hf) _).trans (congrArg Host.Outcome.next (if_pos hst))

/-- A lock within 100 µs runs the flight. -/
theorem flightPllLock_runs (hf : f < 16) (hst : fltState s f = 1) (hus : us ≤ 100) :
    Does (.flightPllLock f us) s (flightRuns s f us) :=
  (guardUnit_of (decide_eq_true hf) _).trans (congrArg Host.Outcome.next (if_pos (by simp [hst, hus])))

/-- A lock timeout isolates it and faults its domain. -/
theorem flightLockTimeout_faults (hf : f < 16) (hst : fltState s f = 1) :
    Does (.flightLockTimeout f) s (domainFault (isolateFlight s f true) f) :=
  (guardUnit_of (decide_eq_true hf) _).trans (congrArg Host.Outcome.next (if_pos hst))

/-- A flight that starts, powered up first where it was off, and counts the wake. -/
def flightStarted (s : State) (f : Nat) : State :=
  let u := if fltState s f = 0 then setDomain (zeroFlight s f) f true else s
  bumpF (setFlt u f 1) (rFltPwrStatus f) fFltPwrStatusWakes 1

/-- The lowest waiting flight of a hall that is to wake starts; with the last one no wake is due any more. -/
theorem flightWakeStart_starts (hf : f < 16) (hhall : flightHall s.run f = some h) (hwake : (getH s h).wake = true)
    (hfirst : ((workingFlights s h).filter fun g => fltState s g = 0 || fltState s g = 4).head? = some f) :
    let u := flightStarted s f
    Does (.flightWakeStart f) s
      (if (workingFlights u h).all (fun g => fltState u g = 1 || fltState u g = 2)
        then setH u h { getH u h with wake := false } else u) := by
  refine (guardUnit_of (decide_eq_true hf) _).trans ?_
  rw [hhall]
  exact if_neg (by simp [hwake, hfirst])

/-- An idle media domain sleeps. -/
theorem mediaSleep_sleeps (ha : s.mediaAsleep = false) (hi : mediaIdle s ≠ 0) (hw : mediaWork s = false)
    (hl : liveOpen s = false) : Does .mediaSleep s (setMedia s true) :=
  congrArg Host.Outcome.next (if_neg (by simp [ha, hi, hw, hl]))

/-- A sleeping one wakes when work has come. -/
theorem mediaWakeDone_wakes (ha : s.mediaAsleep = true) (hw : mediaWork s = true) : Does .mediaWakeDone s (setMedia s false) :=
  congrArg Host.Outcome.next (if_pos (by simp [ha, hw]))

/-- What a domain reset starts from: the domain named, the lines latched (R533). -/
def domainNamed (s : State) (dom : Nat) : State := setF (latchRaised s) rLntDomainCtl fLntDomainCtlDomain dom

section
variable (hd : dom < 32) (hh : s.lnt.heldCode = none)
include hd hh

/-- The reset of a domain in use is refused. -/
theorem domainReset_refused (hfree : domainFree s dom = false) :
    Does (.domainReset dom) s (raiseF s rLntEvents fLntEventsRefused) :=
  (guardUnit_of (decide_eq_true hd) _).trans ((whileServed_of hh _).trans (if_pos (by simp [hfree])))

/-- That of a free domain goes by its number. -/
theorem domainReset_free (hfree : domainFree s dom = true) :
    exec (.domainReset dom) s =
      if dom < 16 then
        .next (flightOff (resetRange (zeroFlight (domainNamed s dom) dom) (0x1000000 + 0x100000 * dom) 0x80020) dom)
      else if dom = 22 then
        .next (setMedia (resetRange (resetRange (domainNamed s dom) 0x600000 0x1000) 0x700000 0x1000) true)
      else .next (resetHalf (domainNamed s dom) (dom - 19)) :=
  (guardUnit_of (decide_eq_true hd) _).trans ((whileServed_of hh _).trans (if_neg (by simp [hfree])))

/-- A flight's domain: zeroed, its registers reset, off. -/
theorem domainReset_flight (hfree : domainFree s dom = true) (hf : dom < 16) :
    Does (.domainReset dom) s
      (flightOff (resetRange (zeroFlight (domainNamed s dom) dom) (0x1000000 + 0x100000 * dom) 0x80020) dom) :=
  (domainReset_free hd hh hfree).trans (if_pos hf)

/-- The media domain: its registers reset, asleep. -/
theorem domainReset_media (hfree : domainFree s dom = true) (hm : dom = 22) :
    Does (.domainReset dom) s
      (setMedia (resetRange (resetRange (domainNamed s dom) 0x600000 0x1000) 0x700000 0x1000) true) :=
  (domainReset_free hd hh hfree).trans ((if_neg (by omega)).trans (if_pos hm))

/-- The other ones that may be free are the Oriel halves. -/
theorem domainReset_oriel (hfree : domainFree s dom = true) (hf : 16 ≤ dom) (hm : dom ≠ 22) :
    Does (.domainReset dom) s (resetHalf (domainNamed s dom) (dom - 19)) :=
  (domainReset_free hd hh hfree).trans ((if_neg hf.not_gt).trans (if_neg hm))

end
end

/-- Settles O53: one theorem per event of a flight, of the media domain and of a domain reset. -/
theorem flightPower : Obligations.FlightPower := by
  unfold Obligations.FlightPower
  refine ⟨fun hall s hh hidle hcmds hsegs hwake hrun => ?_, fun f us h s hf => ?_,
    fun s => ⟨mediaSleep_sleeps, mediaWakeDone_wakes⟩, fun dom s hd hh => ?_⟩
  · exact flightSleep_enters hh ⟨hidle, hcmds, hsegs, hwake, hrun⟩
  · exact ⟨sleepEntryDone_sleeps hf, flightPllLock_runs hf, flightLockTimeout_faults hf, flightWakeStart_starts hf⟩
  · exact ⟨domainReset_refused hd hh, fun hfree => ⟨domainReset_flight hd hh hfree, domainReset_media hd hh hfree,
      domainReset_oriel hd hh hfree⟩⟩

/-! ## Temperatures and the core rail (R526, R527, R601, R606, R607) -/

section
variable {s : State}

/-- The temperatures that a sample shows, each storey die's flights throttled by its own. -/
def sampleShown (s : State) (temps : List Int) : State :=
  let t (i : Nat) : Int := temps.getD i 0
  let u := [(fLntThermStorey0, 0), (fLntThermStorey1, 1), (fLntThermStorey2, 2), (fLntThermStorey3, 3), (fLntThermAtrium, 4),
    (fLntThermPhotonic, 5)].foldl (fun s p => setF s rLntTherm p.1 (tempBits (t p.2))) s
  (List.range 4).foldl (fun s d => throttle s d (t d)) u

/-- Every die has cooled. -/
def diesCool (temps : List Int) : Bool :=
  (List.range 4).all (fun d => decide (temps.getD d 0 < 100)) && decide (temps.getD 4 0 < 95)

/-- A sample below every trip point shows, throttles, and lets a device that has cooled leave its hold. -/
theorem thermalSample_below {temps : List Int} (hl : temps.length = 6) (hr : s.lnt.railUp = true)
    (hs : ∀ d, d < 4 → temps.getD d 0 < 110) (ha : temps.getD 4 0 < 105) :
    Does (.thermalSample temps) s
      (setHot (sampleShown s temps) ((sampleShown s temps).lnt.hot && !diesCool temps)) := by
  have htrip : ((List.range 4).any (fun d => decide (110 ≤ temps.getD d 0)) || decide (105 ≤ temps.getD 4 0)) = false := by
    rw [Bool.or_eq_false_iff, List.any_eq_false]
    exact ⟨fun d hd => by simpa using hs d (List.mem_range.1 hd), by simpa using ha⟩
  refine (if_neg (by simp [hl, hr])).trans ?_
  simp only [htrip, Bool.false_and, Bool.false_eq_true, if_false, sampleShown, diesCool]

/-- The core rail takes its steps: from stage 1 on, until it is at its set point. -/
structure VidSteps (s : State) : Prop where
  rail : s.lnt.railUp = true
  stage : stageOf s ≠ 0
  undone : s.lnt.vidDone = false
  off : s.lnt.off = false
  served : s.lnt.heldCode = none

theorem VidSteps.test (g : VidSteps s) :
    ¬(!s.lnt.railUp || stageOf s = 0 || s.lnt.vidDone || s.lnt.off || s.lnt.heldCode.isSome) = true := by
  simp [g.rail, g.stage, g.undone, g.off, g.served]

/-- A step moves the rail 5 mV toward its set point, and ends there. -/
theorem vidStep_moves (g : VidSteps s) :
    let v := if s.lnt.vout < setPoint then min (s.lnt.vout + 5) setPoint else max (s.lnt.vout - 5) setPoint
    Does (.vidStep true) s { s with lnt := { s.lnt with vout := v, vidDone := v = setPoint } } :=
  (if_neg g.test).trans (if_pos rfl)

/-- The boot voltage is left, shown as a failure of the regulator. -/
def bootVoltageLeft (s : State) : State :=
  let u := raiseF s rLntTherm fLntThermVidFail
  { u with lnt := { u.lnt with vout := 800, vidDone := true, vidHalf := decide (800 < setPoint) } }

/-- A regulator that fails leaves the boot voltage; flights that need more go at half rate. -/
theorem vidStep_fails (g : VidSteps s) :
    Does (.vidStep false) s (if 800 < setPoint then (List.range 16).foldl (fun s f =>
      if fltState s f = 2 then setF s (rFltPwrStatus f) fFltPwrStatusHalf 1 else s) (bootVoltageLeft s)
      else bootVoltageLeft s) := by
  refine (if_neg g.test).trans ((if_neg (by simp)).trans (congrArg Host.Outcome.next ?_))
  simp only [decide_eq_true_eq]
  rfl

end

/-- Settles O54: one theorem for a sample and one per outcome of a step of the rail. -/
theorem thermalAndVoltage : Obligations.ThermalAndVoltage := by
  unfold Obligations.ThermalAndVoltage
  refine ⟨fun temps s hl hr => ?_, fun s => ⟨rfl, rfl⟩, fun s hr hst hdone hoff hh => ?_⟩
  · simpa only [sampleShown, diesCool] using thermalSample_below hl hr
  · have g : VidSteps s := ⟨hr, hst, hdone, hoff, hh⟩
    exact ⟨vidStep_moves g, vidStep_fails g⟩

end Sys2Proof.Machine
end

section
/-! The family of 19_integrity_repair.md: the run of self-tests at shut-down (O52), isolation and return of units and tests in
service (O55). -/

namespace Sys2Proof.Machine

/-! ## Shut-down (R539, R553) -/

section
variable {s : State}

/-- The slices that a shut-down run leaves out and those it tests. -/
def slicesSkipped (s : State) : List Nat := (List.range 101).filter (sliceOut s)
def slicesTested (s : State) : List Nat := (List.range 101).filter fun n => !(slicesSkipped s).contains n

/-- The slice of the boot core. -/
def bootSlice (s : State) : Nat := 74 + getF s rMezStatus fMezStatusBoot

/-- A slice was left untested, or has a record that is bad. -/
def testPending (s : State) (n : Nat) : Bool :=
  s.integ.records.any fun x => x.slice = n && ((x.kind = 8 && x.state = 0) || x.bad)

/-- The order of a run: slices with pending records first, the shared ones and the boot core last. -/
def runOrder (s : State) : List Nat :=
  ((slicesTested s).filter fun n => n < 98 && n ≠ bootSlice s && testPending s n)
    ++ ((slicesTested s).filter fun n => n < 98 && n ≠ bootSlice s && !testPending s n)
    ++ (slicesTested s).filter (fun n => 98 ≤ n) ++ (slicesTested s).filter (· = bootSlice s)

/-- A device that stops: its run waits, in order, and the slices left out show as skipped. -/
def runBegun (s : State) : State :=
  { s with
    lnt := { s.lnt with stopping := true }
    integ := { s.integ with
      results := (slicesSkipped s).foldl (fun m n => fmPut m n { result := 5 }) s.integ.results
      waiting := runOrder s, testing := [] } }

/-- A shut-down with no command incomplete starts its run. -/
theorem lntShutdown_runs (g : MayShutDown s)
    (hidle : (List.range 9).any (fun k => !(incompleteCmds s k).isEmpty) = false) :
    Does .lntShutdown s (endRun (fillTests (runBegun s))) :=
  (if_neg g.test).trans (if_neg (by simp only [hidle, Bool.false_eq_true, not_false_eq_true]))

end

/-- Settles O52. -/
theorem shutdownRuns : Obligations.ShutdownRuns := by
  unfold Obligations.ShutdownRuns
  intro s hstop hoff hwarm hrail hh hidle
  exact lntShutdown_runs ⟨hstop, hoff, hwarm, hrail, hh⟩ hidle

/-! ## Isolation and return (R519, R550, R551, R558) -/

section
variable {s : State} {f b : Nat}

/-- A returned flight with its repairs applied, before it is seen whether they isolate it again. -/
def flightRepaired (s : State) (f : Nat) : State :=
  let u := setF s (rFltIsolate f) fFltIsolateIsolate 0
  applySram { u with integ := { u.integ with galleryFaults := fmErase u.integ.galleryFaults f } } f

/-- The treads of a flight have returned. -/
def treadsReturned (t : State) (f : Nat) : State := (List.range 8).foldl (fun s i => returnTread s (8 * f + i)) t

section
variable (hf : f < 16) (hh : s.lnt.heldCode = none)
include hf hh

/-- A working flight is isolated. -/
theorem flightIsolate_isolates (force : Bool) (hw : flightWorking s f = true) :
    Does (.flightIsolate f force) s (isolateFlight (latchRaised s) f force) :=
  (guardUnit_of (decide_eq_true hf) _).trans
    ((whileServed_of hh _).trans (congrArg Host.Outcome.next (if_pos (by simp [hw]))))

/-- The return of a working flight changes nothing. -/
theorem flightUnisolate_working (hw : flightWorking s f = true) : Does (.flightUnisolate f) s s :=
  (guardUnit_of (decide_eq_true hf) _).trans ((whileServed_of hh _).trans (if_pos hw))

/-- The return of a flight whose repairs isolate it again ends there. -/
theorem flightUnisolate_again (hw : flightWorking s f = false) (hr : flightWorking (flightRepaired s f) f = false) :
    Does (.flightUnisolate f) s (flightRepaired s f) := by
  refine (guardUnit_of (decide_eq_true hf) _).trans ((whileServed_of hh _).trans ?_)
  simp only [flightRepaired] at hr ⊢
  simp only [hw, hr, Bool.not_false, if_true, Bool.false_eq_true, if_false]

/-- Of one that stays working the treads return, and the hall that runs on it wakes. -/
theorem flightUnisolate_wakes {h : Nat} (hw : flightWorking s f = false) (hr : flightWorking (flightRepaired s f) f = true)
    (hv : flightHall (treadsReturned (flightRepaired s f) f).run f = some h) :
    Does (.flightUnisolate f) s (refreshLevel (wakeHall (treadsReturned (flightRepaired s f) f) h)) := by
  refine (guardUnit_of (decide_eq_true hf) _).trans ((whileServed_of hh _).trans ?_)
  simp only [treadsReturned, flightRepaired] at hr hv ⊢
  simp only [hw, hr, hv, Bool.not_true, Bool.false_eq_true, if_false]

/-- Of one of no hall the treads return. -/
theorem flightUnisolate_free (hw : flightWorking s f = false) (hr : flightWorking (flightRepaired s f) f = true)
    (hv : flightHall (treadsReturned (flightRepaired s f) f).run f = none) :
    Does (.flightUnisolate f) s (refreshLevel (treadsReturned (flightRepaired s f) f)) := by
  refine (guardUnit_of (decide_eq_true hf) _).trans ((whileServed_of hh _).trans ?_)
  simp only [treadsReturned, flightRepaired] at hr hv ⊢
  simp only [hw, hr, hv, Bool.not_true, Bool.false_eq_true, if_false]

end

section
variable (hb : b < 8) (hh : s.lnt.heldCode = none)
include hb hh

/-- A block is isolated. -/
theorem blockIsolate_isolates : Does (.blockIsolate b) s (isolateBlock s b) :=
  (guardUnit_of (decide_eq_true hb) _).trans (whileServed_of hh _)

/-- The return of an isolated block whose last test did not pass is refused. -/
theorem blockReturn_refused (hi : blockIsolated s b = true) (hp : s.integ.passed.contains b = false) :
    Does (.blockReturn b) s (raiseF s rLntIntegEvents fLntIntegEventsRefused) :=
  (guardUnit_of (decide_eq_true hb) _).trans
    ((whileServed_of hh _).trans ((if_neg (by simp [hi])).trans (if_pos (by rw [hp]; rfl))))

/-- That of one that passed clears its bit. -/
theorem blockReturn_returns (hi : blockIsolated s b = true) (hp : s.integ.passed.contains b = true) :
    let u := setF s rLntBlockIsolate fLntBlockIsolateBlocks (getF s rLntBlockIsolate fLntBlockIsolateBlocks - 2 ^ b)
    Does (.blockReturn b) s (refreshLevel (if b = 7 then setF u rMezStatus fMezStatusSharedL2 1 else u)) :=
  (guardUnit_of (decide_eq_true hb) _).trans
    ((whileServed_of hh _).trans ((if_neg (by simp [hi])).trans (if_neg (by rw [hp]; simp))))

end
end

/-! ## Tests in service (R553 to R556) -/

section
variable {s : State} {slice : Nat} {fails : List (Nat × Nat × Nat × Nat)}

/-- A test that may not run is refused. -/
theorem selftestRun_refused (hh : s.lnt.heldCode = none) (hok : runOk s slice = false) :
    Does (.selftestRun slice) s (raiseF s rLntIntegEvents fLntIntegEventsRefused) :=
  (whileServed_of hh _).trans (if_pos (by simp [hok]))

/-- One that may starts, and shows BUSY. -/
theorem selftestRun_starts (hh : s.lnt.heldCode = none) (hok : runOk s slice = true) :
    let u := { s with integ := { s.integ with testing := [slice] } }
    Does (.selftestRun slice) s
      (setF (setF u rLntSelftestCtl fLntSelftestCtlSlice slice) rLntSelftestStatus fLntSelftestStatusBusy 1) :=
  (whileServed_of hh _).trans (if_neg (by simp [hok]))

/-- A slice is under test, and its failures are of kinds that its test may write. -/
structure TestRuns (s : State) (slice : Nat) (fails : List (Nat × Nat × Nat × Nat)) : Prop where
  sliceNum : slice < 101
  runs : s.integ.testing.contains slice = true
  kinds : fails.all (fun f => sliceKind slice f.1) = true

theorem TestRuns.test (g : TestRuns s slice fails) :
    ¬(!s.integ.testing.contains slice || !fails.all (fun f => sliceKind slice f.1)) = true := by
  rw [g.runs, g.kinds]
  decide

/-- A test that ends gives its slice its result. -/
theorem sliceTestDone_ends (us : Nat) (g : TestRuns s slice fails) :
    Does (.sliceTestDone slice us fails) s
      (sliceEnds (latchRaised s) slice us (if fails.isEmpty then 1 else 2) 0 fails) :=
  (guardUnit_of (decide_eq_true g.sliceNum) _).trans (if_neg g.test)

/-- A budget that runs out gives it partial, where it sweeps memory, or untested. -/
theorem sliceBudgetExpiry_ends (us cursor : Nat) (g : TestRuns s slice fails) :
    Does (.sliceBudgetExpiry slice us cursor fails) s
      (sliceEnds (latchRaised s) slice us (if 16 ≤ slice && slice < 40 then 4 else 3) cursor fails) :=
  (guardUnit_of (decide_eq_true g.sliceNum) _).trans (if_neg g.test)

end

/-- Settles O55: one theorem per outcome of an isolation, of a return and of a test. -/
theorem unitIsolation : Obligations.UnitIsolation := by
  unfold Obligations.UnitIsolation
  refine ⟨fun f force s hf hh => ?_, fun b s hb hh => ?_, fun slice us cursor fails s => ?_⟩
  · refine ⟨flightIsolate_isolates hf hh force, flightUnisolate_working hf hh,
      fun hw => ⟨flightUnisolate_again hf hh hw, fun hr => ?_⟩⟩
    dsimp only
    split
    case h_1 hv => exact flightUnisolate_wakes hf hh hw hr hv
    case h_2 hv => exact flightUnisolate_free hf hh hw hr hv
  · exact ⟨blockIsolate_isolates hb hh, blockReturn_refused hb hh, blockReturn_returns hb hh⟩
  · refine ⟨selftestRun_refused, selftestRun_starts, fun hslice hruns hkinds => ?_⟩
    have g : TestRuns s slice fails := ⟨hslice, hruns, hkinds⟩
    exact ⟨sliceTestDone_ends us g, sliceBudgetExpiry_ends us cursor g⟩

end Sys2Proof.Machine
end

section
/-! The family of 20_security_presence.md: the privileged commands (O30), the presence window and the seal loop (O56). -/

namespace Sys2Proof.Machine

/-! ## Privileged commands (R571 to R577) -/

section
variable {s m : State} {r : CmdRef} {c : Cmd} {op code check : Nat}

/-- The request record of a privileged command. -/
def privRecord (m : State) (c : Cmd) : List Byte := memBytes m c.o0 128

/-- A privileged command that holds its record. -/
def recordHeld (m : State) (r : CmdRef) (c : Cmd) : State := updJob m r fun j => { j with rec1 := privRecord m c }

/-- A privileged command of the management scope is ready, with no other one before it, and its record stands aligned, in
reach, readable and whole. -/
structure PrivReady (s m : State) (r : CmdRef) (op : Nat) (c : Cmd) : Prop where
  scope : r.scope = 8
  ready : readyFor s r op c = true
  state : markDispatched s r = m
  alone : (earlierCmds m 8).any (fun p => 0x42 ≤ p.2.opcode && p.2.opcode ≤ 0x46) = false
  aligned : c.o0 % 128 = 0
  reach : mgmtReach m false c.o0 128 = true
  reads : readsWell m c.o0 128 = true
  crc : crc32c ((privRecord m c).take 0x7C) = leAt (privRecord m c) 0x7C 4

/-- The seal is whole, the presence window open, and the record's fields are good for the opcode. -/
structure PrivOpen (m : State) (op : Nat) (c : Cmd) : Prop where
  whole : sealBroken m = false
  window : windowOpen m = true
  fields : prFieldsOk op (privRecord m c) = true

/-- A ready one comes to the tests of the seal, of the window and of its fields. -/
theorem PrivReady.judged (g : PrivReady s m r op c) (k : State → Cmd → List Byte → Disp) :
    privCmd op r none s k = dispatch op r s fun m c =>
      privileged m (need (prFieldsOk op (memBytes m c.o0 128)) 0x10 4
        (k (updJob m r fun j => { j with rec1 := memBytes m c.o0 128 }) c (memBytes m c.o0 128))) := by
  obtain ⟨hs, h, rfl, hw, ha, hm, hr, hc⟩ := g
  exact privCmd_ready hs h hw ha hm hr hc

/-- With all of these met it goes on as its own test says. -/
theorem PrivReady.goes {t : State} {k : State → Cmd → List Byte → Disp} (g : PrivReady s m r op c) (o : PrivOpen m op c)
    (hk : k (recordHeld m r c) c (privRecord m c) = .go t) : privCmd op r none s k = .next t := by
  obtain rfl := g.state
  exact (g.judged k).trans
    (dispatch_go g.ready ((privileged_open o.whole o.window).trans ((need_of o.fields _ _ _).trans hk)))

/-- One whose own test fails ends with that code. -/
theorem PrivReady.stops {k : State → Cmd → List Byte → Disp} (g : PrivReady s m r op c) (o : PrivOpen m op c)
    (hk : k (recordHeld m r c) c (privRecord m c) = .stop code check 0) :
    privCmd op r none s k = .next (endCmd s r code check 0 0) := by
  obtain rfl := g.state
  exact (g.judged k).trans
    (dispatch_stop g.ready ((privileged_open o.whole o.window).trans ((need_of o.fields _ _ _).trans hk)))

/-- The code and check of a privileged command that seal or window refuses (R571). -/
def PrivRefused (m : State) (code check : Nat) : Prop :=
  (sealBroken m = true ∧ code = 0x41 ∧ check = 2) ∨
    (sealBroken m = false ∧ windowOpen m = false ∧ code = 0x40 ∧ check = 3)

/-- Seal or window refuse it before its fields are seen. -/
theorem privileged_refused (h : PrivRefused m code check) (k : Disp) : privileged m k = .stop code check 0 := by
  rcases h with ⟨hseal, rfl, rfl⟩ | ⟨hseal, hwindow, rfl, rfl⟩
  · simp [privileged, hseal]
  · simp [privileged, hseal, hwindow]

/-- A command that seal or window refuses ends so. -/
theorem PrivReady.refused (g : PrivReady s m r op c) (h : PrivRefused m code check) (k : State → Cmd → List Byte → Disp) :
    privCmd op r none s k = .next (endCmd s r code check 0 0) := by
  obtain rfl := g.state
  exact (g.judged k).trans (dispatch_stop g.ready (privileged_refused h _))

/-! ### The five commands -/

/-- An enrolment has its slot: a transient key needs none, another one has uses and a free slot; its digest is new. -/
structure KeyNew (m : State) (b : List Byte) : Prop where
  place : prTransient b = true ∨
    (((prKey b).useStruct = true ∨ (prKey b).useFw = true) ∧ fmFind m.lnt.keys (prSlot b) = none)
  digest : (m.lnt.keys.all fun e => e.2.digest ≠ (prKey b).digest) = true

theorem KeyNew.placeTest {b : List Byte} (n : KeyNew m b) :
    (prTransient b || (((prKey b).useStruct || (prKey b).useFw) && (fmFind m.lnt.keys (prSlot b)).isNone)) = true := by
  rcases n.place with ht | ⟨huse, hfree⟩
  · simp [ht]
  · rw [hfree, Bool.or_eq_true, Bool.and_eq_true, Bool.or_eq_true]
    exact .inr ⟨huse, rfl⟩

/-- KEY_ENROLL fixes success for a point of the curve, invalid-field for none (R573). -/
theorem keyEnroll_does (g : PrivReady s m r 0x42 c) (o : PrivOpen m 0x42 c) (n : KeyNew m (privRecord m c)) :
    Does (.keyEnroll r none) s
      (if Config.sm2Point (prKey (privRecord m c)).pub then succeed (recordHeld m r c) r 0 0 else endCmd s r 0x10 5 0 0) := by
  have hkeys : (recordHeld m r c).lnt = m.lnt := updJob_lnt ..
  show execKeyEnroll r none s = _
  cases hp : Config.sm2Point (prKey (privRecord m c)).pub with
  | true =>
    rw [if_pos rfl]
    refine g.goes o ?_
    simp only [hkeys, hp, n.placeTest, n.digest, Bool.and_self, need, if_true]
  | false =>
    rw [if_neg Bool.false_ne_true]
    refine g.stops o ?_
    simp only [hp, Bool.false_and, need, Bool.false_eq_true, if_false]

/-- KEY_REVOKE fixes success for a held key, invalid-field for the one that signed the running firmware (R574). -/
theorem keyRevoke_does {k : Key} (g : PrivReady s m r 0x43 c) (o : PrivOpen m 0x43 c)
    (hk : fmFind m.lnt.keys (prSlot (privRecord m c)) = some k) :
    Does (.keyRevoke r none) s
      (if k.digest ≠ imSigner m.lnt.fwManifest then succeed (recordHeld m r c) r 0 0 else endCmd s r 0x10 5 0 0) := by
  have hlnt : (recordHeld m r c).lnt = m.lnt := updJob_lnt ..
  show execKeyRevoke r none s = _
  by_cases hd : k.digest ≠ imSigner m.lnt.fwManifest
  · rw [if_pos hd]
    refine g.goes o ?_
    simp only [hlnt, hk]
    exact need_of (decide_eq_true hd) _ _ _
  · rw [if_neg hd]
    refine g.stops o ?_
    simp only [hlnt, hk, need, hd, decide_false, Bool.false_eq_true, if_false]

/-- Holding its record leaves what the running structure says. -/
theorem encRegions_recordHeld (m : State) (r : CmdRef) (c : Cmd) : encRegions (recordHeld m r c) = encRegions m := rfl

/-- DEBUG_UNLOCK fixes success where no region is encrypted (R575). -/
theorem debugUnlock_does (g : PrivReady s m r 0x44 c) (o : PrivOpen m 0x44 c) (he : encRegions m = 0) :
    Does (.debugUnlock r none) s (succeed (recordHeld m r c) r 0 0) :=
  show execDebugUnlock r none s = _ from g.goes o (need_of (decide_eq_true ((encRegions_recordHeld m r c).trans he)) _ _ _)

/-- REPAIR_CLEAR fixes success (R577). -/
theorem repairClear_does (g : PrivReady s m r 0x46 c) (o : PrivOpen m 0x46 c) :
    Does (.repairClear r none) s (succeed (recordHeld m r c) r 0 0) :=
  show execRepairClear r none s = _ from g.goes o rfl

/-- Changing the job of a management command leaves the queues of the halls. -/
theorem hallWork_updJob (s : State) (hs : r.scope = 8) (f : Job → Job) : hallWork (updJob s r f) = hallWork s := by
  have hq : ∀ h, h < 8 → ∀ q, q < 64 → getQ (updJob s r f) h q = getQ s h q := by
    intro h hh q hq
    exact getQ_setQ_ne _ _ (by rw [hs]; unfold qKey; omega)
  have hcmds : ∀ h, h < 8 → incompleteCmds (updJob s r f) h = incompleteCmds s h := by
    intro h hh
    unfold incompleteCmds scopeCmds
    congr 1
    exact List.flatMap_congr fun q hmem => by rw [hq h hh q (List.mem_range.1 hmem)]
  unfold hallWork
  rw [Bool.eq_iff_iff, List.any_eq_true, List.any_eq_true]
  exact exists_congr fun h => and_congr_right fun hmem => by rw [hcmds h (List.mem_range.1 hmem)]

/-- A management command may erase: no hall has work, and its own queue's rings lie in the host window. -/
structure MayErase (m : State) (r : CmdRef) : Prop where
  idle : hallWork m = false
  sq : hostBase ≤ getF m (rCmdSq 8 r.queue) fCmdSqBase
  cq : hostBase ≤ getF m (rCmdCq 8 r.queue) fCmdCqBase

/-- The channels that an erase reaches, by how their read-back goes. -/
def channelsUp (t : State) : List Nat := (List.range 24).filter (chanHealthy t)
def channelsFailed (t : State) (failed : List Nat) : List Nat := (channelsUp t).filter failed.contains
def channelsErased (t : State) (failed : List Nat) : List Nat := (channelsUp t).filter fun c => !failed.contains c
def channelsLeft (t : State) (failed : List Nat) : List Nat :=
  (List.range 24).filter fun c => !(channelsErased t failed).contains c

/-- Keys of regions dropped, all memory zeroed, the erase counted, and a record for every channel that fails (R576). -/
def memoryErased (t : State) (failed : List Nat) : State :=
  (channelsFailed t failed).foldl
    (fun s c => addRecord s { kind := 5, source := 1, slice := 16 + c, incarnation := incarnation s })
    (memZero { t with lnt := { t.lnt with
      smKeys := [], eraseCount := t.lnt.eraseCount + 1, eraseLast := incarnation t } } 0 sysEnd)

/-- SECURE_ERASE erases, and reports the channels erased and those left. -/
theorem secureErase_does (failed : List Nat) (g : PrivReady s m r 0x45 c) (o : PrivOpen m 0x45 c) (e : MayErase m r) :
    let t := recordHeld m r c
    Does (.secureErase r failed none) s (succeed (memoryErased t failed) r 0
      (maskOf' (channelsErased t failed) + 2 ^ 24 * maskOf' (channelsLeft t failed))) := by
  show execSecureErase r failed none s = _
  refine g.goes o (need_of ?_ _ _ _)
  have hidle : hallWork (recordHeld m r c) = false := (hallWork_updJob m g.scope _).trans e.idle
  rw [hidle]
  exact Bool.and_eq_true_iff.2 ⟨Bool.and_eq_true_iff.2 ⟨rfl, decide_eq_true e.sq⟩, decide_eq_true e.cq⟩

end

/-- Settles O30: one theorem per command with seal, window and fields good, and one for all where seal or window refuses. -/
theorem privilegedCommands : Obligations.PrivilegedCommands := by
  unfold Obligations.PrivilegedCommands
  intro r c s m b t hs halone haligned hreach hreads hcrc
  have g {op : Nat} (h : readyFor s r op c = true) : PrivReady s m r op c :=
    ⟨hs, h, rfl, halone, haligned, hreach, hreads, hcrc⟩
  refine ⟨fun hseal hwindow => ?_, fun code check hno => ?_⟩
  · have o {op : Nat} (hf : prFieldsOk op b = true) : PrivOpen m op c := ⟨hseal, hwindow, hf⟩
    refine ⟨fun h hf hplace hdigest => keyEnroll_does (g h) (o hf) ⟨hplace, hdigest⟩,
      fun k h hf hk => keyRevoke_does (g h) (o hf) hk, fun h hf he => debugUnlock_does (g h) (o hf) he,
      fun failed h hf hidle hsq hcq => secureErase_does failed (g h) (o hf) ⟨hidle, hsq, hcq⟩,
      fun h hf => repairClear_does (g h) (o hf)⟩
  · exact ⟨fun h => show execKeyEnroll r none s = _ from (g h).refused hno _,
      fun h => show execKeyRevoke r none s = _ from (g h).refused hno _,
      fun h => show execDebugUnlock r none s = _ from (g h).refused hno _,
      fun failed h => show execSecureErase r failed none s = _ from (g h).refused hno _,
      fun h => show execRepairClear r none s = _ from (g h).refused hno _⟩

/-! ## The presence window (R568, R569) -/

section
variable {s : State}

/-- An assertion of the presence input: the level, the window, its 60 s, the count. -/
def presenceAsserted (s : State) : State :=
  let r := rLntPresence
  bumpF (setF (setF (setF s r fLntPresencePin 1) r fLntPresenceOpen 1) r fLntPresenceRemainMs 60000) r
    fLntPresenceAssertions 1

/-- An assertion opens the window; OPENED is raised where it was closed. -/
theorem presenceDebounce_asserts (hp : isF s rLntPresence fLntPresencePin = false) :
    Does (.presenceDebounce true) s
      (if windowOpen s then presenceAsserted s else raiseF (presenceAsserted s) rLntSecEvents fLntSecEventsOpened) := by
  refine (if_neg (by simp [hp])).trans (congrArg Host.Outcome.next ?_)
  cases hw : windowOpen s with
  | true => simp only [presenceAsserted, Bool.not_true, Bool.false_eq_true, if_false, if_true]
  | false => simp only [presenceAsserted, Bool.not_false, Bool.false_eq_true, if_false, if_true]

/-- An assertion that stands already changes nothing. -/
theorem presenceDebounce_stands (hp : isF s rLntPresence fLntPresencePin = true) : Does (.presenceDebounce true) s s :=
  if_pos hp

/-- The release closes a window whose time is over. -/
theorem presenceDebounce_releases (hp : isF s rLntPresence fLntPresencePin = true) :
    let u := setF s rLntPresence fLntPresencePin 0
    Does (.presenceDebounce false) s
      (if windowOpen u && getF u rLntPresence fLntPresenceRemainMs = 0 then closeWindow u else u) :=
  if_neg (by simp [hp])

/-- The end of the 60 s closes a window whose input is released. -/
theorem presenceWindowClose_closes (hp : isF s rLntPresence fLntPresencePin = false) (hw : windowOpen s = true) :
    Does .presenceWindowClose s (closeWindow s) :=
  (if_neg (by simp [hw])).trans (if_neg (by simp [hp]))

/-- With the level still asserted only the time runs out. -/
theorem presenceWindowClose_waits (hp : isF s rLntPresence fLntPresencePin = true) (hw : windowOpen s = true) :
    Does .presenceWindowClose s (setF s rLntPresence fLntPresenceRemainMs 0) :=
  (if_neg (by simp [hw])).trans (if_pos hp)

/-! ## The seal loop (R578, R579) -/

variable (hr : s.lnt.railUp = true)
include hr

/-- A tick takes the next bit of the LFSR and a millisecond off the window. -/
theorem sealTick_does :
    let l := lfsrNext s.lnt.lfsr
    let u := setF s rLntPresence fLntPresenceRemainMs (getF s rLntPresence fLntPresenceRemainMs - 1)
    Does .sealTick s { u with lnt := { u.lnt with lfsr := l, sealOut := bitOf l 0 } } :=
  if_neg (by simp [hr])

/-- A sample that matches clears the mismatches; 1,000 in a row arm the loop. -/
theorem sealSample_matches :
    let m := min (s.lnt.matched + 1) 1000
    Does (.sealSample s.lnt.sealOut) s
      { s with lnt := { s.lnt with mism := 0, matched := m, armed := s.lnt.armed || decide (1000 ≤ m) } } :=
  (if_neg (by simp [hr])).trans (if_pos rfl)

/-- The state that a mismatch leaves, but for the event of the fourth. -/
def mismatched (s : State) (n : Nat) : State := { s with lnt := { s.lnt with mism := n, matched := 0 } }

/-- A mismatch is counted up to four; the fourth of an armed loop is a seal event. -/
theorem sealSample_differs :
    Does (.sealSample (!s.lnt.sealOut)) s
      (if min (s.lnt.mism + 1) 4 = 4 && s.lnt.armed then sealEvent (mismatched s (min (s.lnt.mism + 1) 4))
        else mismatched s (min (s.lnt.mism + 1) 4)) :=
  (if_neg (by simp [hr])).trans (if_neg (by simp))

/-- A mismatch before the fourth is counted. -/
theorem sealSample_early (hm : s.lnt.mism < 3) :
    Does (.sealSample (!s.lnt.sealOut)) s (mismatched s (s.lnt.mism + 1)) := by
  have hn : min (s.lnt.mism + 1) 4 = s.lnt.mism + 1 := by omega
  have hno : s.lnt.mism + 1 ≠ 4 := by omega
  simpa only [hn, hno, decide_false, Bool.false_and, Bool.false_eq_true, if_false] using sealSample_differs hr

/-- The fourth is a seal event where the loop is armed. -/
theorem sealSample_armed (hm : 3 ≤ s.lnt.mism) (ha : s.lnt.armed = true) :
    Does (.sealSample (!s.lnt.sealOut)) s (sealEvent (mismatched s 4)) := by
  have hn : min (s.lnt.mism + 1) 4 = 4 := by omega
  simpa only [hn, ha, decide_true, Bool.and_self, if_true] using sealSample_differs hr

/-- It is counted where the loop is not. -/
theorem sealSample_unarmed (hm : 3 ≤ s.lnt.mism) (ha : s.lnt.armed = false) :
    Does (.sealSample (!s.lnt.sealOut)) s (mismatched s 4) := by
  have hn : min (s.lnt.mism + 1) 4 = 4 := by omega
  simpa only [hn, ha, Bool.and_false, Bool.false_eq_true, if_false] using sealSample_differs hr

end

/-- Settles O56: one theorem per event of the presence input, of the window's time and of the seal loop. -/
theorem presenceAndSeal : Obligations.PresenceAndSeal := by
  unfold Obligations.PresenceAndSeal
  refine ⟨fun s hp => ⟨presenceDebounce_asserts hp, presenceWindowClose_closes hp⟩,
    fun s hp => ⟨presenceDebounce_stands hp, presenceDebounce_releases hp, presenceWindowClose_waits hp⟩, fun s hr => ?_⟩
  exact ⟨sealTick_does hr, sealSample_matches hr, sealSample_early hr, sealSample_armed hr, sealSample_unarmed hr⟩

end Sys2Proof.Machine
end

section
/-! The family of 21_package_signals.md: the sideband (O57) and boundary scan (O58). -/

namespace Sys2Proof.Machine

/-! ## The sideband (R594, R595, R615, R616) -/

section
variable {s : State}

/-- The status read answers the status word and the incarnation while the rail is powered. -/
theorem statusRead_powered (hr : s.lnt.railUp = true) :
    Does .statusRead s { s with resp := .bytes (leBytes 4 (statusWord s) ++ leBytes 4 (incarnation s)) } :=
  congrArg Host.Outcome.next (if_pos hr)

/-- It answers nothing otherwise. -/
theorem statusRead_unpowered (hr : s.lnt.railUp = false) : Does .statusRead s { s with resp := .nothing } :=
  congrArg Host.Outcome.next (if_neg (by simp [hr]))

/-- A refresh takes every sensor. -/
theorem sensorRefresh_does (hr : s.lnt.railUp = true) (v i : Option Nat) :
    Does (.sensorRefresh v i) s { s with lnt := { s.lnt with
      sensors := (List.range' 1 14 ++ List.range' 16 8).foldl (fun m n => fmPut m n (sensorNow s v i n)) s.lnt.sensors } } :=
  congrArg Host.Outcome.next (if_pos hr)

/-- A message of another type is discarded. -/
theorem unsupportedMctpMessage_discarded {ty : Nat} (h0 : ty ≠ 0) (h1 : ty ≠ 1) (pldm cmd : Nat) :
    Does (.unsupportedMctpMessage ty pldm cmd) s { s with resp := .nothing } :=
  (if_neg (by simp [h0, h1])).trans (if_pos h1)

section
variable (hs : sideband s = true)
include hs

/-- Where the side band serves, a request has its answer. -/
theorem answer_served (r : Resp) : answer s r = .next { s with resp := r } := by
  rw [answer, if_pos hs]

/-- A control message is answered by the control protocol, which may change the endpoint. -/
theorem mctpControlMessage_does (msg : List Byte) :
    Does (.mctpControlMessage msg) s
      { s with resp := .bytes (Config.mctpControl msg s.lnt.eid).1
               lnt := { s.lnt with eid := (Config.mctpControl msg s.lnt.eid).2 } } :=
  if_pos hs

/-- The terminus is set where its number may be taken. -/
theorem setTid_does {tid : Nat} (ht : tid < 256) :
    Does (.setTid tid) s
      (if Config.tidOk tid then { s with resp := pldmSays 0, lnt := { s.lnt with tid := tid } }
      else { s with resp := pldmSays 6 }) := by
  refine (guardUnit_of (decide_eq_true ht) _).trans ((if_neg (by simp [hs])).trans ?_)
  exact (apply_ite Host.Outcome.next _ _ _).symm

/-- A sensor answers its reading as last refreshed. -/
theorem getSensorReading_reads {sensor n : Nat} {v : Int} (hn : sensorSize sensor = some n)
    (hv : (fmFind s.lnt.sensors sensor).getD none = some v) :
    Does (.getSensorReading sensor) s { s with resp := .value n (v % (2 ^ (8 * n) : Nat)).toNat } := by
  refine (answer_served hs _).trans ?_
  rw [hn, hv]

/-- The state sensor answers the level of service. -/
theorem getStateSensorReadings_reads {v : Int} (hv : (fmFind s.lnt.sensors 9).getD none = some v) :
    Does (.getStateSensorReadings 9) s { s with resp := .value 1 (v % 256).toNat } := by
  refine (answer_served hs _).trans ?_
  rw [if_neg (by simp), hv]

/-- No other sensor has states. -/
theorem getStateSensorReadings_unknown {sensor : Nat} (h9 : sensor ≠ 9) :
    Does (.getStateSensorReadings sensor) s { s with resp := pldmSays 3 } := by
  refine (answer_served hs _).trans ?_
  rw [if_pos h9]

/-- A PLDM type or command that is not served is answered with an error. -/
theorem unsupportedMctpMessage_error {pldm cmd : Nat} (hno : pldmServed pldm cmd = false) :
    Does (.unsupportedMctpMessage 1 pldm cmd) s { s with resp := pldmSays (if pldm = 0 || pldm = 2 then 2 else 1) } :=
  (if_neg (by simp [hno])).trans ((if_neg (by simp)).trans (answer_served hs _))

end
end

/-- Settles O57: one theorem per request; those that only read are `answer` of what they read. -/
theorem sidebandAnswers : Obligations.SidebandAnswers := by
  unfold Obligations.SidebandAnswers
  refine ⟨fun s hr => ⟨statusRead_powered hr, sensorRefresh_does hr⟩, fun s => statusRead_unpowered,
    fun ty pldm cmd s h0 h1 => unsupportedMctpMessage_discarded h0 h1 pldm cmd,
    fun msg tid ty handle sensor pldm cmd s hs ht => ?_⟩
  have answers (r : Resp) := answer_served hs r
  exact ⟨mctpControlMessage_does hs msg, answers _, setTid_does hs ht, answers _, answers _, answers _, answers _, answers _,
    fun n v => getSensorReading_reads hs, fun v => getStateSensorReadings_reads hs, getStateSensorReadings_unknown hs,
    unsupportedMctpMessage_error hs⟩

/-! ## Boundary scan (R597) -/

section
variable {s : State} {n : Nat}

/-- An instruction of boundary scan is loaded. -/
def tapAt (s : State) (n : Nat) : State := { s with lnt := { s.lnt with tap := n } }

/-- An instruction that tests nothing loads itself. -/
theorem tapLoad_plain (s : State) (hn : n < 3) : tapLoad s n = tapAt s n := by
  simp [tapLoad, tapAt, hn]

/-- A test instruction loads itself with the cold-reset input asserted. -/
theorem tapLoad_asserted (hc : s.lnt.coldRst = true) (n : Nat) : tapLoad s n = tapAt s n := by
  simp [tapLoad, tapAt, hc]

/-- It acts as BYPASS otherwise. -/
theorem tapLoad_bypass (hc : s.lnt.coldRst = false) (hn : 3 ≤ n) : tapLoad s n = tapAt s 0 := by
  simp [tapLoad, tapAt, hc, hn]

/-- Test-Logic-Reset with a test instruction loaded and the cold-reset input asserted releases the input. -/
theorem testLogicReset_releases (hc : s.lnt.coldRst = true) (ht : 3 ≤ s.lnt.tap) :
    Does .testLogicReset s (releaseCold s) :=
  congrArg Host.Outcome.next (if_pos (by simp [hc, ht]))

/-- At any other time it is entered. -/
theorem testLogicReset_enters (h : s.lnt.coldRst = false ∨ s.lnt.tap < 3) : Does .testLogicReset s (tapAt s 8) := by
  refine congrArg Host.Outcome.next (if_neg ?_)
  rcases h with hc | ht
  · simp [hc]
  · simp [ht]

end

/-- Settles O58: what each instruction loads (`tapLoad`), and the two outcomes of Test-Logic-Reset. -/
theorem boundaryScan : Obligations.BoundaryScan := by
  unfold Obligations.BoundaryScan
  intro s
  have loads {n k : Nat} (h : tapLoad s n = tapAt s k) : (.next (tapLoad s n) : Out) = .next (tapAt s k) :=
    congrArg Host.Outcome.next h
  refine ⟨⟨loads (tapLoad_plain s (by decide)), loads (tapLoad_plain s (by decide)), ?_, fun hc => ?_, fun hc => ?_⟩,
    testLogicReset_releases, testLogicReset_enters⟩
  · exact congrArg (fun t : State => (.next { t with
      resp := .value 4 (0x1 * 2 ^ 28 + 0x0940 * 2 ^ 12 + Config.jep106.toNat * 2 + 1) } : Out))
      (tapLoad_plain s (by decide))
  · exact ⟨loads (tapLoad_asserted hc 3), loads (tapLoad_asserted hc 4), loads (tapLoad_asserted hc 5),
      loads (tapLoad_asserted hc 6), loads (tapLoad_asserted hc 7)⟩
  · exact ⟨loads (tapLoad_bypass hc (by decide)), loads (tapLoad_bypass hc (by decide)),
      loads (tapLoad_bypass hc (by decide)), loads (tapLoad_bypass hc (by decide)), loads (tapLoad_bypass hc (by decide))⟩

end Sys2Proof.Machine
end
